-- ==== Sys2Proof/Word.lean ====
section
/-!
DEFINITION. Sys2Proof/Word.lean: the plain types the spec's numbers have (spec/00_scope.md, R11 and R12).
-/
namespace Sys2Proof

/-- One byte. -/
abbrev Byte := BitVec 8
/-- One 32-bit register, card or instruction word. -/
abbrev Word := BitVec 32
/-- One 64-bit value: DTIME, a stamp, an ECC word of a scratchpad. -/
abbrev DWord := BitVec 64
/-- An address in the 40-bit device address space (R37). -/
abbrev Addr := BitVec 40
/-- The global sprig number g = 32 b + s (R23). -/
abbrev SprigId := BitVec 11
/-- The bunch number b (R23). -/
abbrev BunchId := BitVec 6
/-- The device-wide queue index 8 g + q (R26). -/
abbrev QueueId := BitVec 14
/-- A device ID of a Teinglink system (R25). -/
abbrev DeviceId := BitVec 9
/-- A PCIe function, 0 the physical one (R337). -/
abbrev FuncId := BitVec 4

end Sys2Proof
end

