-- ==== Sys2Proof/Syntax.lean ====
section
/-!
DEFINITION. Sys2Proof/Syntax.lean: the commands of the block, one constructor of Instr for each row of
spec/opcode_table.json, and the plain data their operands carry.
-/
namespace Sys2Proof

/-- Who makes a register or memory access (R17: a sprig, a host function or a Teinglink peer; R473: the monitor acts as a
host supervisor function; R40, R457: the boot ROM). -/
inductive Master where
  | sprig (g : SprigId)
  | host (f : FuncId)
  | peer (d : DeviceId)
  | monitor
  | bootRom
deriving DecidableEq, Repr

/-- What a memory access finds in the ECC words it reads (R128, R163, R303). -/
inductive EccErr where
  | ok
  | single
  | double
deriving DecidableEq, Repr

/-- A bunch's scratchpad access kind (R161, R168, R172). -/
inductive ScrKind where
  | read
  | write (data : List Byte) (poisoned : Bool)
  | pair (off2 : BitVec 21) (first : List Byte) (second : List Byte)
  | aadd (operand : Word)
  | aswp (operand : Word)
deriving DecidableEq, Repr

/-- Where in a sprig a request at a bank comes from (R167): X, the store buffer's drain, or F. -/
inductive ScrSrc where
  | x
  | drain
  | fetch
deriving DecidableEq, Repr

/-- A request at a scratchpad bank: its requester ID (R166), first byte, length and kind, and a sprig's source (R167, R173). -/
structure ScrReq where
  who : BitVec 6
  off : BitVec 21
  len : BitVec 6
  kind : ScrKind
  src : ScrSrc := .x
deriving DecidableEq, Repr

/-- An access at one port of an X bank's top kilobyte: word offset there, written word (none: a read), byte mask (R160). -/
structure BankAcc where
  wordOff : BitVec 8
  data : Option Word
  mask : BitVec 4
deriving DecidableEq, Repr

/-- The requesters of an X bank's second port (R160). -/
inductive PortUser where
  | queue
  | dma
  | debug
deriving DecidableEq, Repr

/-- A request waiting at the second port. -/
structure PortReq where
  user : PortUser
  acc : BankAcc
deriving DecidableEq, Repr

/-- A GDDR6 access or a peer's remote request: address, written bytes (none: a read of `len` bytes), poison (R303, R304, R439). -/
structure MemReq where
  who : Master
  addr : Addr
  len : BitVec 9
  data : Option (List Byte)
  poisoned : Bool
deriving DecidableEq, Repr

/-- How a register is accessed: the bytes of the access (R14), and whether a host function makes it through its BAR2 queue windows, whose
offset then stands for the address (R340). -/
structure RegAcc where
  size : BitVec 4 := 4
  window : Bool := false
deriving DecidableEq, Repr

/-- What PCI Express software sets in a function: the mask of an MSI-X table entry, the function mask, Bus Master Enable; and VF Enable of the
PF's SR-IOV capability (R298, R338, R346). -/
inductive PcieCtl where
  | entry (v : BitVec 11) (masked : Bool)
  | function (masked : Bool)
  | busMaster (on : Bool)
  | vfEnable (on : Bool)
deriving DecidableEq, Repr

/-- The eight words of a card (R182). -/
structure CardWords where
  w0 : Word
  w1 : Word
  w2 : Word
  w3 : Word
  w4 : Word
  w5 : Word
  w6 : Word
  w7 : Word
deriving DecidableEq, Repr

/-- Who made a card: a send channel, a host queue pair of this or of another device, a hardware source, or the Steward's reply channel to a queue (R185, R202, R345). -/
inductive Producer where
  | chan (dev : DeviceId) (g : SprigId) (n : BitVec 4)
  | hostPair (h : BitVec 8)
  | farPair (dev : DeviceId) (h : BitVec 8)
  | island
  | errorEngine
  | steward (i : QueueId)
deriving DecidableEq, Repr

/-- The parts that pass through QUIESCE or a reset (R385, R400, R501). -/
inductive Part where
  | sprig (g : SprigId)
  | bunch (b : BunchId)
  | posy (p : BitVec 10)
  | hostPair (h : BitVec 8)
  | ethPort (p : BitVec 3)
  | cxpConn (x : BitVec 4)
  | channel (c : BitVec 6)
  | tlPort (t : BitVec 2)
  | remote (d : DeviceId)
  | serdes (grp : BitVec 3)
  | core
deriving DecidableEq, Repr

/-- The words an error entry names beside its stamp and sequence number (R375). -/
structure ErrInfo where
  cls : BitVec 4
  source : Byte
  code : BitVec 16
  unit : Word
  detail : BitVec 16
  addr : Addr
deriving DecidableEq, Repr

/-- Where a Steward command came from: a command queue pair 0..64, or a send channel of a sprig (R341, R344). -/
inductive CmdSrc where
  | pair (h : BitVec 7)
  | sprig (g : SprigId) (n : BitVec 4)
deriving DecidableEq, Repr

/-- A measuring interval the island completes: what its firmware measured (R329, R330), the latest ADC sample of the channel, the levels of
the digital inputs, and the outputs that the firmware drives from then on (R313). -/
structure Measured where
  channel : BitVec 3
  unit : BitVec 5
  value : Word
  stable : Bool
  zeroCentre : Bool
  overRange : Bool
  underRange : Bool
  dtNotFine : Bool
  dtValid : Bool
  dipSeen : Bool
  sample : BitVec 24
  inputs : Byte
  outs : BitVec 4
deriving DecidableEq, Repr

/-- What the island's boot ROM finds in the island flash (R316, R317): the image bytes, its signature, key, name, version and
rollback index; the customer region and decode entries that are part of it (R313); and whether the J3 debug pins ask for debug (R319). -/
structure IslandImage where
  bytes : List Byte
  key : List Byte
  signature : List Byte
  name : List Byte
  version : Word
  rbi : Nat
  customer : List Word
  decode : List Word
  debug : Bool
deriving DecidableEq, Repr

/-- What the participants of a system hand report of themselves: the epochs of queues by handle (R196), and the posies as the hand
leaves them, each handle with its members' (R33). -/
structure HandReport where
  epochs : List (Word × Byte) := []
  posies : List (Word × List Word) := []
deriving DecidableEq, Repr

/-- A PREPARE of a system hand as a participant receives it (R365); `mask` names every participant (R364). -/
structure Prepare where
  coordinator : DeviceId
  hand : Word
  mask : BitVec 512
  deadline : DWord
  instant : DWord
  entries : List (Word × Word)
deriving DecidableEq, Repr

/-- The crossings that resynchronise after a reset (R398, R399). -/
inductive Crossing where
  | dcq (k : BitVec 8)
  | svf (k : BitVec 8)
  | eventLatch (g : SprigId) (e : BitVec 3)
deriving DecidableEq, Repr

/-- The clock domains a request can wake (R397). -/
inductive ClockDomain where
  | time
  | mem (c : BitVec 6)
  | eth (p : BitVec 3)
  | tl (t : BitVec 2)
  | cxp
  | pcie
deriving DecidableEq, Repr

/-- A Teinglink flit (R429): the LINK, ROUTE and PAIR fields, its payload words, and its side bytes. -/
structure Flit where
  lseq : BitVec 12
  lack : BitVec 12
  ackv : Bool
  cls : BitVec 3
  vc : BitVec 1
  kind : BitVec 3
  dst : DeviceId
  src : DeviceId
  poison : Bool
  op : Byte
  pseq : BitVec 16
  pepoch : Byte
  partEpoch : Byte
  payload : List Word
  side : List Word
deriving DecidableEq, Repr

/-- What an IDENT flit carries (R431). -/
structure Ident where
  dev : DeviceId
  sysid : Word
  serial : DWord
  port : BitVec 2
  inc : BitVec 16
deriving DecidableEq, Repr

/-- The four stamps of a two-way time exchange, and whether the parent's QUAL is FINE (R446). -/
structure Exchange where
  t1 : DWord
  t2 : DWord
  t3 : DWord
  t4 : DWord
  parentFine : Bool
deriving DecidableEq, Repr

/-- What a pair message carries (R437, R208, R365, R366): a card for a local handle with its sideband's route, binding serial and poison
bits; a credit, resolution or epoch notice for a producer; a pop of a copy of a broadcast of this device; a posy HOLD or its
acknowledgement; a pair acknowledgement or a NAK for the expected PSEQ; the messages of a system hand. `bcast` numbers a broadcast of the device that counts its
copies (R205); `seq` numbers the producer's cards; `viaPosy` says that a posy dispatched the card; `back` whether a resolution carries the
credit. A producer `hostPair` is the sender's. -/
inductive PairBody where
  | card (handle : Word) (c : CardWords) (poison : BitVec 8) (route : Producer) (serial seq : Nat) (bcast : Option Nat) (viaPosy : Bool)
  | resolution (dst : Producer) (outcome : BitVec 4) (back : Bool) (bcast : Option Nat) (seq : Nat)
  | credit (dst : Producer) (serial : Nat) (refused : Bool)
  | popped (bcast : Nat)
  | notice (dst : Producer) (epoch : Byte) (direct : Bool)
  | hold (p : BitVec 10) (release : Bool)
  | holdAck (p : BitVec 10)
  | ack (pseq : BitVec 16)
  | nak (pseq : BitVec 16)
  | prepare (p : Prepare)
  | vote (hand : Word) (yes : Bool) (detail : Word) (report : HandReport)
  | decision (hand : Word) (commit : Bool) (report : HandReport)
  | isolated (hand : Word)
  | heartbeat
deriving DecidableEq, Repr

/-- A message between two devices: its pair sequence, pair epoch and body (R437). -/
structure PairMsg where
  pseq : BitVec 16
  pepoch : Byte
  body : PairBody
deriving DecidableEq, Repr

/-- A command of the block: one constructor for each row of spec/opcode_table.json, in the table's order.
A sprig instruction names the sprig g, its guard gd = [GINV, GPRED] (R81, bits 31..28 of the instruction word)
and its operand field op (bits 19..0); its opcode (bits 27..20) is the constructor.
A register access names its master m. The other operands are what the event brings from outside the model:
a pin level, a stamp, the bytes of a frame, the position k of the item that arrives among those in transit. -/
inductive Instr where
  /-- MOV (R93): Copies a value between register classes. -/
  | mov (g : SprigId) (gd : BitVec 4) (op : BitVec 20)
  /-- LEA (R92): Writes an effective address to an A register without a memory access. -/
  | lea (g : SprigId) (gd : BitVec 4) (op : BitVec 20)
  /-- LDI (R92): Loads a sign-extended 16-bit immediate into a D register. -/
  | ldi (g : SprigId) (gd : BitVec 4) (op : BitVec 20)
  /-- LDIH (R92): Loads an immediate into the upper half of a D register. -/
  | ldih (g : SprigId) (gd : BitVec 4) (op : BitVec 20)
  /-- LDI_A (R92): Loads a 16-bit immediate into an A register. -/
  | ldiA (g : SprigId) (gd : BitVec 4) (op : BitVec 20)
  /-- LD_B (R92): Loads a zero-extended byte. -/
  | ldB (g : SprigId) (gd : BitVec 4) (op : BitVec 20)
  /-- LD_BS (R92): Loads a sign-extended byte. -/
  | ldBs (g : SprigId) (gd : BitVec 4) (op : BitVec 20)
  /-- LD_H (R92): Loads a zero-extended halfword. -/
  | ldH (g : SprigId) (gd : BitVec 4) (op : BitVec 20)
  /-- LD_HS (R92): Loads a sign-extended halfword. -/
  | ldHs (g : SprigId) (gd : BitVec 4) (op : BitVec 20)
  /-- LD_W (R92): Loads a word from the data space. -/
  | ldW (g : SprigId) (gd : BitVec 4) (op : BitVec 20)
  /-- ST_B (R92): Stores a byte. -/
  | stB (g : SprigId) (gd : BitVec 4) (op : BitVec 20)
  /-- ST_H (R92): Stores a halfword. -/
  | stH (g : SprigId) (gd : BitVec 4) (op : BitVec 20)
  /-- ST_W (R92): Stores a word. -/
  | stW (g : SprigId) (gd : BitVec 4) (op : BitVec 20)
  /-- ADD (R94): Adds two D registers, saturating under MODE.SAT. -/
  | add (g : SprigId) (gd : BitVec 4) (op : BitVec 20)
  /-- SUB (R94): Subtracts two D registers. -/
  | sub (g : SprigId) (gd : BitVec 4) (op : BitVec 20)
  /-- AND (R94): Bitwise AND of two D registers. -/
  | andD (g : SprigId) (gd : BitVec 4) (op : BitVec 20)
  /-- OR (R94): Bitwise OR of two D registers. -/
  | orD (g : SprigId) (gd : BitVec 4) (op : BitVec 20)
  /-- XOR (R94): Bitwise XOR of two D registers. -/
  | xorD (g : SprigId) (gd : BitVec 4) (op : BitVec 20)
  /-- SHL (R95): Shifts left by a register or immediate count. -/
  | shl (g : SprigId) (gd : BitVec 4) (op : BitVec 20)
  /-- SHR (R95): Shifts right logically. -/
  | shr (g : SprigId) (gd : BitVec 4) (op : BitVec 20)
  /-- SAR (R95): Shifts right arithmetically. -/
  | sar (g : SprigId) (gd : BitVec 4) (op : BitVec 20)
  /-- ROT (R94): Rotates left by count modulo 32. -/
  | rot (g : SprigId) (gd : BitVec 4) (op : BitVec 20)
  /-- MIN (R94): Takes the lesser of two values, signed or unsigned. -/
  | minD (g : SprigId) (gd : BitVec 4) (op : BitVec 20)
  /-- MAX (R94): Takes the greater of two values, signed or unsigned. -/
  | maxD (g : SprigId) (gd : BitVec 4) (op : BitVec 20)
  /-- ABS (R95): Writes the absolute value. -/
  | absD (g : SprigId) (gd : BitVec 4) (op : BitVec 20)
  /-- NEG (R95): Writes the negation. -/
  | negD (g : SprigId) (gd : BitVec 4) (op : BitVec 20)
  /-- CLZ (R94): Counts leading zeros. -/
  | clz (g : SprigId) (gd : BitVec 4) (op : BitVec 20)
  /-- SAT (R94): Clips a value to a signed or unsigned width. -/
  | sat (g : SprigId) (gd : BitVec 4) (op : BitVec 20)
  /-- MUL (R94): Writes a 64-bit product to an even-odd pair. -/
  | mul (g : SprigId) (gd : BitVec 4) (op : BitVec 20)
  /-- DIV (R97): Tests the divisor and issues a division to the divider. -/
  | div (g : SprigId) (gd : BitVec 4) (op : BitVec 20)
  /-- DIV_RESULT (R97): The divider writes quotient and remainder 18 steps after commit. -/
  | divResult (g : SprigId)
  /-- ADD_I (R94): Adds a sign-extended immediate. -/
  | addI (g : SprigId) (gd : BitVec 4) (op : BitVec 20)
  /-- AND_I (R94): ANDs a zero-extended immediate. -/
  | andI (g : SprigId) (gd : BitVec 4) (op : BitVec 20)
  /-- OR_I (R94): ORs a zero-extended immediate. -/
  | orI (g : SprigId) (gd : BitVec 4) (op : BitVec 20)
  /-- XOR_I (R94): XORs a zero-extended immediate. -/
  | xorI (g : SprigId) (gd : BitVec 4) (op : BitVec 20)
  /-- FADD (R98): FP32 addition. -/
  | fadd (g : SprigId) (gd : BitVec 4) (op : BitVec 20)
  /-- FSUB (R98): FP32 subtraction. -/
  | fsub (g : SprigId) (gd : BitVec 4) (op : BitVec 20)
  /-- FMUL (R98): FP32 multiplication. -/
  | fmul (g : SprigId) (gd : BitVec 4) (op : BitVec 20)
  /-- FMAC (R98): Fused FP32 multiply-accumulate into a D register. -/
  | fmac (g : SprigId) (gd : BitVec 4) (op : BitVec 20)
  /-- FCVT (R100): Converts between integer and FP32 as AUX selects. -/
  | fcvt (g : SprigId) (gd : BitVec 4) (op : BitVec 20)
  /-- CMP (R101): Writes a predicate from a comparison condition. -/
  | cmp (g : SprigId) (gd : BitVec 4) (op : BitVec 20)
  /-- TST (R101): Writes a predicate from a bit test. -/
  | tst (g : SprigId) (gd : BitVec 4) (op : BitVec 20)
  /-- PAND (R101): ANDs two predicates. -/
  | pand (g : SprigId) (gd : BitVec 4) (op : BitVec 20)
  /-- POR (R101): ORs two predicates. -/
  | por (g : SprigId) (gd : BitVec 4) (op : BitVec 20)
  /-- PNOT (R101): Inverts a predicate. -/
  | pnot (g : SprigId) (gd : BitVec 4) (op : BitVec 20)
  /-- MAC (R104): Accumulates lane products of X and Y bank words. -/
  | mac (g : SprigId) (gd : BitVec 4) (op : BitVec 20)
  /-- MACS (R104): Accumulates signed-by-unsigned lane products. -/
  | macs (g : SprigId) (gd : BitVec 4) (op : BitVec 20)
  /-- MACX2 (R104): Accumulates into two 40-bit lanes. -/
  | macx2 (g : SprigId) (gd : BitVec 4) (op : BitVec 20)
  /-- MACX4 (R104): Accumulates into four 20-bit lanes. -/
  | macx4 (g : SprigId) (gd : BitVec 4) (op : BitVec 20)
  /-- FMACA (R104): Fused FP32 accumulate in an accumulator. -/
  | fmaca (g : SprigId) (gd : BitVec 4) (op : BitVec 20)
  /-- CLRA (R104): Clears or loads an accumulator. -/
  | clra (g : SprigId) (gd : BitVec 4) (op : BitVec 20)
  /-- RNDA (R104): Rounds each accumulator lane at a bit. -/
  | rnda (g : SprigId) (gd : BitVec 4) (op : BitVec 20)
  /-- ASH (R104): Shifts each accumulator lane arithmetically. -/
  | ash (g : SprigId) (gd : BitVec 4) (op : BitVec 20)
  /-- STAS_M (R106): Stores a word built from an accumulator to memory. -/
  | stasM (g : SprigId) (gd : BitVec 4) (op : BitVec 20)
  /-- STAS_R (R106): Writes a word built from an accumulator to a D register. -/
  | stasR (g : SprigId) (gd : BitVec 4) (op : BitVec 20)
  /-- BR (R107): Branches by a signed word offset. -/
  | br (g : SprigId) (gd : BitVec 4) (op : BitVec 20)
  /-- BRL (R107): Pushes the return address and branches. -/
  | brl (g : SprigId) (gd : BitVec 4) (op : BitVec 20)
  /-- BRR (R107): Branches to a register address. -/
  | brr (g : SprigId) (gd : BitVec 4) (op : BitVec 20)
  /-- BRLR (R107): Pushes the return address and branches to a register address. -/
  | brlr (g : SprigId) (gd : BitVec 4) (op : BitVec 20)
  /-- RET (R108): Pops the return address into PC. -/
  | ret (g : SprigId) (gd : BitVec 4) (op : BitVec 20)
  /-- RETI (R71): Restores state from an interrupt frame and resumes. -/
  | reti (g : SprigId) (gd : BitVec 4) (op : BitVec 20)
  /-- TRAP (R108): Commits and requests vector 32 plus t. -/
  | trap (g : SprigId) (gd : BitVec 4) (op : BitVec 20)
  /-- BKPT (R108): Requests vector 5 or enters HALTED under halt-on-break. -/
  | bkpt (g : SprigId) (gd : BitVec 4) (op : BitVec 20)
  /-- SEND (R111): Sends D8-D15 as a card on a send channel, spending one credit. -/
  | send (g : SprigId) (gd : BitVec 4) (op : BitVec 20)
  /-- RECV (R110): Pops the head card of a queue into D8-D15, blocking while empty. -/
  | recv (g : SprigId) (gd : BitVec 4) (op : BitVec 20)
  /-- RECV_UNBLOCK (R110): A blocked RECV pops when a card reaches the head of its queue. -/
  | recvUnblock (g : SprigId)
  /-- RECV_FILL (R110): The popped card is written into D8-D15 and their scoreboard bits clear. -/
  | recvFill (g : SprigId)
  /-- RECV_NB (R109): Pops a card if one is present and writes a predicate. -/
  | recvNb (g : SprigId) (gd : BitVec 4) (op : BitVec 20)
  /-- FENCE_Q (R118): Stalls until earlier SENDs and DEALs are resolved. -/
  | fenceQ (g : SprigId) (gd : BitVec 4) (op : BitVec 20)
  /-- WAIT (R64): Sleeps until a wake condition holds. -/
  | waitI (g : SprigId) (gd : BitVec 4) (op : BitVec 20)
  /-- WAIT_WAKE (R65): A wake condition reaching a waiting sprig resumes it. -/
  | waitWake (g : SprigId)
  /-- EVR (R112): Reads SPG_EV into a D register. -/
  | evr (g : SprigId) (gd : BitVec 4) (op : BitVec 20)
  /-- EVC (R112): Clears named event latches and optionally MERGED bits. -/
  | evc (g : SprigId) (gd : BitVec 4) (op : BitVec 20)
  /-- RDT (R113): Reads DTIME into a register pair as one value. -/
  | rdt (g : SprigId) (gd : BitVec 4) (op : BitVec 20)
  /-- DEAL (R114): Sends a deal card with value and release time to a deal unit. -/
  | deal (g : SprigId) (gd : BitVec 4) (op : BitVec 20)
  /-- AADD (R115): Atomically adds to a scratch word and returns the old value. -/
  | aadd (g : SprigId) (gd : BitVec 4) (op : BitVec 20)
  /-- ASWP (R115): Atomically swaps a scratch word and returns the old value. -/
  | aswp (g : SprigId) (gd : BitVec 4) (op : BitVec 20)
  /-- ATOMIC_RESULT (R172): The bank performs an atomic in two rounds and returns the old value. -/
  | atomicResult (g : SprigId)
  /-- MMODE (R117): Writes MODE from a register with a shadow. -/
  | mmode (g : SprigId) (gd : BitVec 4) (op : BitVec 20)
  /-- MMODE_S (R117): Sets MODE bits. -/
  | mmodeS (g : SprigId) (gd : BitVec 4) (op : BitVec 20)
  /-- MMODE_C (R117): Clears MODE bits. -/
  | mmodeC (g : SprigId) (gd : BitVec 4) (op : BitVec 20)
  /-- FENCE (R118): Stalls until earlier stores are visible. -/
  | fenceI (g : SprigId) (gd : BitVec 4) (op : BitVec 20)
  /-- SYNC (R118): Stalls until stores, sends, deals and scoreboard are settled. -/
  | syncI (g : SprigId) (gd : BitVec 4) (op : BitVec 20)
  /-- HALT (R117): Commits and enters HALTED. -/
  | halt (g : SprigId) (gd : BitVec 4) (op : BitVec 20)
  /-- CUSTOMER_INSTRUCTION (R83, R156): Runs a customer micro-routine from slot 0xE0-0xFF; the same for a vendor opcode that no row lists, whose
  decode entry the base table leaves empty. -/
  | customerInstruction (g : SprigId) (gd : BitVec 4) (opc : Byte) (op : BitVec 20)
  /-- FAR_LOAD_RETURN (R52): A far load result returns to its register or frame slot. -/
  | farLoadReturn (g : SprigId)
  /-- FAR_STORE_ACCEPT (R57): The far window accepts a store and the next far access may issue. -/
  | farStoreAccept (g : SprigId)
  /-- STORE_BUFFER_DRAIN (R124): A store-buffer entry or linked pair drains to its bank. -/
  | storeBufferDrain (g : SprigId)
  /-- INTERRUPT_ENTRY (R69): A recognised interrupt or fault writes a frame and starts the handler. -/
  | interruptEntry (g : SprigId)
  /-- FRAME_SLOT_RETURN (R70): A value outstanding at entry is written into its frame slot on return. -/
  | frameSlotReturn (g : SprigId) (k : BitVec 2)
  /-- SPG_QPOP_READ (R60): A read of pop-port word 0 pops the head card into the port buffer. -/
  | spgQpopRead (g : SprigId) (q : BitVec 3)
  /-- SPG_CLAIM_READ (R290): A read of BIC_CLAIM claims a source for the target. -/
  | spgClaimRead (g : SprigId)
  /-- BIC_COMPLETE (R291): A write of BIC_COMPLETE ends service of a source. -/
  | bicComplete (m : Master) (b : BunchId) (v : Word)
  /-- SPG_EV_WRITE (R62): A W1C write clears event latches or MERGED bits. -/
  | spgEvWrite (g : SprigId) (v : Word)
  /-- SPG_DLARM_WRITE (R236): The owner arms, disarms or satisfies its deadline monitor. -/
  | spgDlarmWrite (g : SprigId) (slot : BitVec 2) (v : DWord)
  /-- DEBUG_VIEW_READ (R39): Reads committed sprig state without side effects. -/
  | debugViewRead (m : Master) (a : Addr)
  /-- DEBUG_VIEW_WRITE (R39): Writes a halted, disabled or frozen sprig's locals or register image. -/
  | debugViewWrite (m : Master) (a : Addr) (v : Word)
  /-- CONTROL_STORE_WRITE (R130): Writes a sprig's control store or decode table when it is stopped. -/
  | controlStoreWrite (m : Master) (a : Addr) (v : Word)
  /-- UNMAPPED_READ (R41): A read of an unmapped address returns 0 and logs. -/
  | unmappedRead (m : Master) (a : Addr)
  /-- UNMAPPED_WRITE (R41): A write to an unmapped address is a PERM violation freezing the master. -/
  | unmappedWrite (m : Master) (a : Addr) (v : Word)
  /-- REGISTER_WRITE (R13): A write to a register that has no row of its own. -/
  | registerWrite (m : Master) (a : Addr) (v : Word) (how : RegAcc := {})
  /-- SCRATCH_ACCESS (R168): A request at a scratchpad bank is granted by arbitration. -/
  | scratchAccess (b : BunchId) (bank : BitVec 4) (reqs : List ScrReq) (err : EccErr)
  /-- SCR_CE (R163): A corrected scratch word is rewritten in the next idle round. -/
  | scrCe (b : BunchId) (w : BitVec 18)
  /-- MAILBOX_PORT_B_ACCESS (R170): A host or Teinglink access is served at mailbox port B. -/
  | mailboxPortBAccess (b : BunchId) (r : ScrReq) (pas : List ScrReq)
  /-- TAKE (R175): A lease TAKE is checked and starts copying the region. -/
  | take (m : Master) (b : BunchId) (l : BitVec 2) (v : Word)
  /-- LEASE_COPY_DONE (R175): The eighth row is copied in idle rounds and the slot becomes ACTIVE. -/
  | leaseCopyDone (b : BunchId) (l : BitVec 2)
  /-- LEASE_REVOKE (R176): Another requester's access restores the region and the lease becomes LOST. -/
  | leaseRevoke (b : BunchId) (l : BitVec 2)
  /-- RELEASE (R176): A lease RELEASE restores the region and frees the slot. -/
  | release (m : Master) (b : BunchId) (l : BitVec 2)
  /-- ACK (R174): A lease ACK frees a LOST or REFUSED slot. -/
  | ack (m : Master) (b : BunchId) (l : BitVec 2)
  /-- SECOND_PORT_ACCESS (R160): Queue engine, DMA or debug access through the X bank's second port. -/
  | secondPortAccess (g : SprigId) (xs : List PortReq) (y : Option BankAcc)
  /-- CARD_ACCEPT (R190): A card arrives at a queue and is accepted into chain or ring, or refused. -/
  | cardAccept (k : Nat)
  /-- RING_TO_CHAIN_MOVE (R190): The queue engine moves the ring head card into a free chain stage. -/
  | ringToChainMove (i : QueueId)
  /-- POSY_DISPATCH (R204): A card sent to a posy is resolved to member queues. -/
  | posyDispatch (k : Nat)
  /-- CARD_RESOLUTION (R195): A card's acceptance or refusal reaches its channel and updates OUTCOME. -/
  | cardResolution (k : Nat)
  /-- CREDIT_RETURN (R196): A returned credit is added to its channel if the serial matches. -/
  | creditReturn (k : Nat)
  /-- EPOCH_NOTICE (R198): An epoch notice writes the channel's EPOCH and pending mark. -/
  | epochNotice (k : Nat)
  /-- QMGR_QRESET (R198): A write resets the named queue with cause COMMAND. -/
  | qmgrQreset (m : Master) (v : Word)
  /-- QUEUE_RESET_INSTANT (R198): A queue is reset: epoch increments, marker set, cards discarded. -/
  | queueResetInstant (i : QueueId) (cause : BitVec 3)
  /-- RING_WALK (R198): The queue engine walks ring slots discarding old-epoch cards. -/
  | ringWalk (i : QueueId)
  /-- DEFERRED_QUEUE_RESET (R201): A rate-limited reset runs when the 1 ms window allows. -/
  | deferredQueueReset (i : QueueId)
  /-- POSY_HOLD_RELEASE (R207): A waiting card leaves its outbound stage when posy dispatch resumes. -/
  | posyHoldRelease (g : SprigId) (n : BitVec 4)
  /-- HOLD (R207): A HOLD notice reaches a remote producer's device and is acknowledged. -/
  | hold (d : DeviceId) (p : BitVec 10) (release : Bool)
  /-- HQP_ITAIL_WRITE (R214): A host write of ITAIL is checked and accepted or ignored. -/
  | hqpItailWrite (m : Master) (h : BitVec 8) (v : Word)
  /-- HQP_OHEAD_WRITE (R214): A host write of OHEAD is checked and returns outbound credits. -/
  | hqpOheadWrite (m : Master) (h : BitVec 8) (v : Word)
  /-- HQP_INBOUND_FETCH (R212): The queue manager fetches an inbound card and delivers it to DEST. -/
  | hqpInboundFetch (h : BitVec 8) (c : CardWords) (poison : BitVec 8)
  /-- HQP_OUTBOUND_WRITE (R213): A card is written to the outbound ring and then the tail shadow. -/
  | hqpOutboundWrite (k : Nat)
  /-- TIME_RATE_WRITE (R221): A TRIM write is clamped to ±200 ppm. -/
  | timeRateWrite (m : Master) (v : Word)
  /-- TIME_STEP_GO (R222): GO adds the staged amount to DTIME at one edge. -/
  | timeStepGo (m : Master) (v : Word)
  /-- DTIME_RELOAD (R224): DTIME is reloaded from the AON count when CK_TIME restarts. -/
  | dtimeReload
  /-- REF_CHANGE (R225): The time reference switches while DTIME stays continuous. -/
  | refChange (ref : BitVec 1) (trim : Int)
  /-- TIME_QUALITY_WRITE (R223): The synchronisation owner changes QUAL, setting QCHG. -/
  | timeQualityWrite (m : Master) (v : Word)
  /-- HOLDOVER_UNCERT_GROWTH (R223): TIME_UNCERT grows in HOLDOVER. -/
  | holdoverUncertGrowth (ns : Nat)
  /-- CAPTURE_EDGE (R226): An edge on a capture pin is stamped into the FIFO. -/
  | captureEdge (c : BitVec 9) (stamp : DWord) (pol : Bool)
  /-- TIME_CAP_POP (R228): A read of POP_LO pops the head entry into the master's buffer. -/
  | timeCapPop (m : Master) (c : BitVec 9)
  /-- TRIGGER_SOURCE_EVENT (R231): A source event asserts its trigger line to all sinks. -/
  | triggerSourceEvent (src : BitVec 16) (level : Bool) (stamp : DWord)
  /-- EVENT_LATCH_SET (R395): A trigger pulse sets a sprig event latch through the crossing. -/
  | eventLatchSet (g : SprigId) (e : BitVec 3)
  /-- TRIG_SWSET (R230): A W1S write sets software trigger bits. -/
  | trigSwset (m : Master) (w : BitVec 3) (v : Word)
  /-- TRIG_SWCLR (R230): A W1C write clears software trigger bits. -/
  | trigSwclr (m : Master) (w : BitVec 3) (v : Word)
  /-- TIME_CMP_HI_WRITE (R233): A high-word write arms or disarms a comparator. -/
  | timeCmpHiWrite (m : Master) (k : BitVec 12) (v : Word)
  /-- TIME_CMP_PER_WRITE (R234): Writes a comparator period, ignoring reserved values. -/
  | timeCmpPerWrite (m : Master) (k : BitVec 12) (v : Word)
  /-- COMPARATOR_FIRE (R233): A comparator fires when DTIME reaches CMP. -/
  | comparatorFire (k : BitVec 12)
  /-- TIME_DM_DL_WRITE (R235): A supervisor write arms a deadline monitor. -/
  | timeDmDlWrite (m : Master) (k : BitVec 12) (v : Word)
  /-- DEADLINE_AUTO_ARM (R237): A rising edge on the auto-arm line arms the monitor. -/
  | deadlineAutoArm (k : BitVec 12)
  /-- DEADLINE_SATISFY (R235): The watched occurrence satisfies an armed monitor and records slack. -/
  | deadlineSatisfy (k : BitVec 12)
  /-- DEADLINE_MISS (R235): An armed monitor expires after its deadline. -/
  | deadlineMiss (k : BitVec 12)
  /-- DEAL_CARD_ACCEPT (R239): A deal unit latches a deal card and accepts or refuses it. -/
  | dealCardAccept (k : Nat)
  /-- DEAL_RELEASE (R240): A deal unit releases a queued deal at its instant. -/
  | dealRelease (u : BitVec 16)
  /-- PULSE_RETURN_EDGE (R243): A pulse's return edge is applied at t plus W. -/
  | pulseReturnEdge (u : BitVec 16)
  /-- TRIGGERED_DEAL_TAKE (R244): A trigger edge takes the oldest queued deal in triggered mode. -/
  | triggeredDealTake (u : BitVec 16)
  /-- FLUSH (R241): DEAL_UCMD.FLUSH discards every queued entry. -/
  | flush (m : Master) (u : BitVec 16)
  /-- DEAL_UERR_READ (R245): A read returns and clears the error counts. -/
  | dealUerrRead (m : Master) (u : BitVec 16)
  /-- VC_CAP_TICK (R249): Every 10 µs the power cap lowers VT or releases CAPPED. -/
  | vcCapTick (power : BitVec 16)
  /-- VC_PERIOD_END (R249): At period end the controller raises or lowers VT by slack. -/
  | vcPeriodEnd
  /-- VC_FLOOR (R249): CAPPED held at code 20 for 1 ms sends an error card. -/
  | vcFloor
  /-- THERMAL_CAP (R498): Junction at 103 °C caps the controller; 100 °C releases it. -/
  | thermalCap (code : BitVec 12)
  /-- FIO_OSET (R256): A W1S write sets GPIO output bits. -/
  | fioOset (m : Master) (k : BitVec 3) (v : Word)
  /-- FIO_OCLR (R256): A W1C write clears GPIO output bits. -/
  | fioOclr (m : Master) (k : BitVec 3) (v : Word)
  /-- VIO_FAULT (R257): A bank's VIO leaving range stops the bank. -/
  | vioFault (k : BitVec 3)
  /-- VIO_RESUME (R257): Pins resume 1 ms after VIOOK returns. -/
  | vioResume (k : BitVec 3)
  /-- QD_EDGE (R258): An edge on a decoder input changes the count. -/
  | qdEdge (k : BitVec 6) (qa : Bool) (qb : Bool)
  /-- QD_PRESET (R258): A write loads the decoder count. -/
  | qdPreset (m : Master) (k : BitVec 6) (v : Word)
  /-- QD_INDEX_EDGE (R259): An index edge latches count and stamp. -/
  | qdIndexEdge (k : BitVec 6) (stamp : DWord)
  /-- QD_IDX_READ (R259): A read of QD_IDX clears the index-latched level. -/
  | qdIdxRead (m : Master) (k : BitVec 6)
  /-- QD_SAMPLE (R259): A sample line edge stores the count at its stamp. -/
  | qdSample (k : BitVec 6)
  /-- SERIAL_FRAME_START (R260): An SSI or SPI frame starts on its line edge. -/
  | serialFrameStart (j : BitVec 6) (low : Bool)
  /-- SERIAL_GO (R260): A write of GO starts an SSI or SPI frame. -/
  | serialGo (m : Master) (j : BitVec 6) (low : Bool)
  /-- SERIAL_FRAME_END (R260): A frame completes and DATA, STAMP and SEQ are written. -/
  | serialFrameEnd (j : BitVec 6) (data : DWord)
  /-- SERIAL_DATA_READ (R261): A read of DATA_LO or RX refreshes the master's shadow and drops the level. -/
  | serialDataRead (m : Master) (j : BitVec 6)
  /-- ETH_TXQ (R265): A write queues a transmit descriptor for non-dealt sending. -/
  | ethTxq (m : Master) (p : BitVec 3) (c : BitVec 3) (v : Word)
  /-- ETH_TXD_WRITE (R264): A descriptor write is ignored while BUSY. -/
  | ethTxdWrite (m : Master) (p : BitVec 3) (i : BitVec 8) (v : Word)
  /-- ETH_FRAME_START (R267): The port starts a non-dealt frame when gates and guard allow. -/
  | ethFrameStart (p : BitVec 3) (c : BitVec 3)
  /-- ETH_DEALT_FRAME (R266): A released deal sends a frame at the next start position. -/
  | ethDealtFrame (p : BitVec 3) (stamp : DWord)
  /-- ETH_FRAME_END (R265): A frame's last byte and FCS are sent and BUSY clears. -/
  | ethFrameEnd (p : BitVec 3) (stamp : DWord)
  /-- QBV_CYCLE_START (R268): A gate list cycle starts at its instant. -/
  | qbvCycleStart (p : BitVec 3)
  /-- ETH_FRAME_RECEIVE (R269): A received frame is filtered and written to its ring. -/
  | ethFrameReceive (p : BitVec 3) (bytes : List Byte) (fcsOk : Bool) (stamp : DWord)
  /-- ETH_LINK_CHANGE (R263): A port link goes up or down. -/
  | ethLinkChange (p : BitVec 3) (up : Bool) (spd : BitVec 2)
  /-- CXP_FRAME_START (R271): A camera frame's first image header arrives. -/
  | cxpFrameStart (x : BitVec 4) (width : Word) (height : Word) (fmt : Word) (stamp : DWord)
  /-- CXP_LINE (R271): The last data of a LINEDIV-th line arrives. -/
  | cxpLine (x : BitVec 4) (stamp : DWord)
  /-- CXP_FRAME_END (R271): A frame is visible in GDDR6 and RTAIL advances. -/
  | cxpFrameEnd (x : BitVec 4) (data : List Byte) (incomplete : Bool) (crcErrs : BitVec 16) (stamp : DWord)
  /-- CXP_TRIGGER_PACKET (R272): A trigger edge instant starts a trigger packet. -/
  | cxpTriggerPacket (x : BitVec 4)
  /-- DMA_SUBMIT (R275): A descriptor submission is queued or refused. -/
  | dmaSubmit (m : Master) (b : BunchId) (v : Word)
  /-- DMA_DESCRIPTOR_DONE (R275): A descriptor completes and DONE is written. -/
  | dmaDescriptorDone (b : BunchId)
  /-- BIC_ARBITRATE (R288): The BIC latches the highest eligible source for a target. -/
  | bicArbitrate (b : BunchId) (s : BitVec 5)
  /-- BIC_ENSET (R287): A W1S write enables BIC inputs. -/
  | bicEnset (m : Master) (b : BunchId) (w : BitVec 3) (v : Word)
  /-- BIC_ENCLR (R292): A W1C write masks BIC inputs. -/
  | bicEnclr (m : Master) (b : BunchId) (w : BitVec 3) (v : Word)
  /-- BIC_TARGET_LEAVE (R289): A target leaving RUN or WAIT hands its sources to the fallback. -/
  | bicTargetLeave (b : BunchId) (s : BitVec 5)
  /-- HIC_MESSAGE (R297): The HIC sends an MSI-X message for a pending source. -/
  | hicMessage (n : BitVec 10)
  /-- HIC_COMPLETE (R297): A write completes a host interrupt source. -/
  | hicComplete (m : Master) (v : Word)
  /-- MSIX_UNMASK (R298): Unmasking an entry sends or clears its pending bit. -/
  | msixUnmask (f : FuncId) (ctl : PcieCtl)
  /-- FUNCTION_LEVEL_RESET (R298): A function reset clears its active sources and quiesces its pairs. -/
  | functionLevelReset (f : FuncId)
  /-- GDDR_ACCESS (R303): A channel controller serves an access and handles ECC. -/
  | gddrAccess (r : MemReq) (err : EccErr)
  /-- CORRECTED_REWRITE (R303): A corrected word is rewritten in a free slot. -/
  | correctedRewrite (a : Addr)
  /-- SCRUB (R308): The patrol scrubber reads the next ECC word. -/
  | scrub (c : Nat) (err : EccErr)
  /-- MEM_THERMAL (R309): Every 1 ms the controller reads temperatures and changes level. -/
  | memThermal (c : Nat) (temp : BitVec 8)
  /-- CHANNEL_TRAINING (R310): A channel trains and initialises, or enters FAILED. -/
  | channelTraining (c : Nat) (trained : Bool)
  /-- GDC_ECC_READ (R311): A read of GDC_ECC returns and clears the counts. -/
  | gdcEccRead (m : Master) (c : Nat)
  /-- SELFREF_EXIT (R311): A controller retrains and returns to READY. -/
  | selfrefExit (c : Nat)
  /-- MET_RQCTL_GO (R323): GO copies the request into the island and sets BUSY. -/
  | metRqctlGo (m : Master) (v : Word)
  /-- MET_REQUEST_DONE (R322): The island writes the reply and sets DONE. -/
  | metRequestDone
  /-- MET_IDENTIFY (R321): Island request returning firmware identity and public key. -/
  | metIdentify
  /-- READ_RESULTS (R321): Island request returning retained records. -/
  | readResults
  /-- MET_START (R321): Island request starting a measuring program. -/
  | metStart
  /-- MET_STOP (R336): Island request stopping the program and committing chain state. -/
  | metStop
  /-- ZERO (R321): Island request zeroing a channel if permitted. -/
  | zero (permitted : Bool) (load : Word)
  /-- TARE (R321): Island request setting a tare. -/
  | tare (permitted : Bool) (load : Word)
  /-- READ_AUDIT (R321): Island request returning audit entries. -/
  | readAudit
  /-- ACK_AUDIT (R326): Signed island request freeing audit entries. -/
  | ackAudit
  /-- SET_PARAM (R325): Signed island request changing parameters with audit entries. -/
  | setParam
  /-- SIGN (R332): Island request signing the latest record. -/
  | sign
  /-- ISLAND_RECORD (R329): The island completes a measuring interval and sends a record. -/
  | islandRecord (r : Measured)
  /-- ISLAND_SIGNATURE (R332): The island signs the chain and sends signature cards. -/
  | islandSignature (reason : BitVec 2)
  /-- ISLAND_RESET (R324): The island resets by its watchdog, supply monitor or PORST_N. -/
  | islandReset (porst : Bool)
  /-- ISLAND_START (R316): The island boot ROM verifies and loads firmware. -/
  | islandStart (img : IslandImage)
  /-- SEAL_TRANSITION (R319): SEAL_N changes after debounce. -/
  | sealTransition (low : Bool)
  /-- ISLAND_HEARTBEAT (R320): The island heartbeat refreshes ALIVE. -/
  | islandHeartbeat
  /-- COMMAND_FETCH (R342): The Steward fetches a command when the pair has room. -/
  | commandFetch (h : BitVec 7) (pkt : List Word) (poisoned : Bool) (inBuf : Option (List Byte))
  /-- SPRIG_COMMAND_CARD (R344): A sprig command card reaches the Steward through posy 0. -/
  | sprigCommandCard (i : QueueId)
  /-- REPLY_SEND (R345): A waiting reply or notice leaves on the reply channel. -/
  | replySend (i : QueueId)
  /-- IDENTIFY (R349): Returns variant, device ID, microcode versions and text. -/
  | identify (q : CmdSrc)
  /-- STATUS (R349): Returns generation, island status, open hands and log count. -/
  | status (q : CmdSrc)
  /-- HAND_OPEN (R355): Opens a hand and returns its ID. -/
  | handOpen (q : CmdSrc)
  /-- HAND_SET (R355): Stages setting entries into an open hand. -/
  | handSet (q : CmdSrc)
  /-- HAND_CHECK (R356): Reports the first fault a commit would find. -/
  | handCheck (q : CmdSrc)
  /-- HAND_COMMIT (R357): Checks and stages a hand for commit at T. -/
  | handCommit (q : CmdSrc)
  /-- HAND_STAGED (R357): Staging completes and the PENDING reply is written. -/
  | handStaged (slot : BitVec 4)
  /-- HAND_BOUNDARY_EDGE (R357): The boundary line edge fixes T. -/
  | handBoundaryEdge (slot : BitVec 4)
  /-- HAND_COMMIT_INSTANT (R357): At T all settings take effect and pages flip. -/
  | handCommitInstant (slot : BitVec 4)
  /-- HAND_FOLD (R359): Folds an open or early pending hand. -/
  | handFold (q : CmdSrc)
  /-- HAND_RECALL (R362): Opens a hand restoring the prior generation. -/
  | handRecall (q : CmdSrc)
  /-- HAND_STATUS (R349): Returns a hand's state, status and commit instant. -/
  | handStatus (q : CmdSrc)
  /-- HAND_LOAD (R368): Attaches a sprig code image to a hand. -/
  | handLoad (q : CmdSrc)
  /-- HAND_DRAIN_START (R368): At S dispatch to target posies is held. -/
  | handDrainStart (slot : BitVec 4)
  /-- HAND_TARGET_HALT (R368): A drained target sprig is halted at its WAIT. -/
  | handTargetHalt (slot : BitVec 4) (g : SprigId)
  /-- HAND_LOAD_TARGETS (R368): All targets halted: reset and load their images. -/
  | handLoadTargets (slot : BitVec 4)
  /-- DRAIN_TIMEOUT (R368): Undrained targets at the window end fail the hand. -/
  | drainTimeout (slot : BitVec 4)
  /-- GENERATION_MIRROR (R361): A new generation is mirrored to flash. -/
  | generationMirror
  /-- SETTING_READ (R349): Returns a setting's values in current, prior and staged generations. -/
  | settingRead (q : CmdSrc)
  /-- SYSTEM_PREPARE (R365): A participant receives PREPARE, stages and votes. -/
  | systemPrepare (p : Prepare)
  /-- SYSTEM_VOTE_DEADLINE (R365): At D the coordinator sends COMMIT or FOLD. -/
  | systemVoteDeadline (slot : BitVec 4)
  /-- SYSTEM_DECISION (R365): A participant receives COMMIT or FOLD. -/
  | systemDecision (slot : BitVec 4) (commit : Bool) (report : HandReport)
  /-- ISOLATED_COMMIT (R366): A YES voter without a decision commits at T alone. -/
  | isolatedCommit (slot : BitVec 4)
  /-- QUEUE_RESET (R349): Command resetting a queue with cause COMMAND. -/
  | queueReset (q : CmdSrc)
  /-- QUEUE_STATUS (R349): Returns QSTAT and QCFG of a queue. -/
  | queueStatus (q : CmdSrc)
  /-- CMDQ_CREATE (R349): Creates a command queue pair. -/
  | cmdqCreate (q : CmdSrc)
  /-- CMDQ_DELETE (R349): Puts a command queue pair into QUIESCE. -/
  | cmdqDelete (q : CmdSrc)
  /-- PCIE_ADMQ_CFG_WRITE (R341): EN change starts or quiesces the admin pair. -/
  | pcieAdmqCfgWrite (m : Master) (v : Word)
  /-- SPRIG_LOAD (R500): Loads an image into a stopped sprig. -/
  | sprigLoad (q : CmdSrc)
  /-- SPRIG_START (R500): Starts or resumes a sprig. -/
  | sprigStart (q : CmdSrc)
  /-- SPRIG_HALT (R500): Halts a running sprig at an instruction boundary. -/
  | sprigHalt (q : CmdSrc)
  /-- SPRIG_STEP (R500): Runs one instruction of a halted sprig. -/
  | sprigStep (q : CmdSrc)
  /-- SPRIG_RESET (R80): Resets a sprig through QUIESCE. -/
  | sprigReset (q : CmdSrc)
  /-- TIME_READ (R349): Returns DTIME, quality, uncertainty and status. -/
  | timeRead (q : CmdSrc)
  /-- TIME_STEP (R222): Command stepping DTIME forward. -/
  | timeStep (q : CmdSrc)
  /-- TIME_SYNC (R448): Restarts averaging and applies the join table. -/
  | timeSync (q : CmdSrc)
  /-- TIME_QUALITY (R223): Command setting TIME_QUALITY. -/
  | timeQuality (q : CmdSrc)
  /-- POWER_STATE (R414): Requests RUN, STANDBY, WATCH or OFF. -/
  | powerState (q : CmdSrc)
  /-- POWER_ENTRY (R415): The device quiesces, gates and reaches the entry instant. -/
  | powerEntry
  /-- BUNCH_HOLD (R413): Sets, clears or writes PWR_BUNCH_HOLD bits. -/
  | bunchHold (q : CmdSrc)
  /-- WATCH_CFG (R420): Writes the WATCH registers from a buffer. -/
  | watchCfg (q : CmdSrc)
  /-- ERR_READ (R383): Reads log entries to a host buffer. -/
  | errRead (q : CmdSrc)
  /-- FREEZE (R383): Freezes a master with cause COMMAND. -/
  | freeze (q : CmdSrc)
  /-- THAW (R383): Thaws a frozen master. -/
  | thaw (q : CmdSrc)
  /-- TL_SET_ID (R433): Changes the device ID while links are down. -/
  | tlSetId (q : CmdSrc)
  /-- TL_ROUTE (R436): Stages routing entries for a topology into a hand. -/
  | tlRoute (q : CmdSrc)
  /-- TL_STATUS (R436): Returns a port's status registers. -/
  | tlStatus (q : CmdSrc)
  /-- SYS_STATUS (R436): Writes the 512 peer words to a buffer. -/
  | sysStatus (q : CmdSrc)
  /-- ATTEST_QUOTE (R467): Returns a signed quote over the measurements. -/
  | attestQuote (q : CmdSrc)
  /-- MEAS_READ (R467): Returns MEAS0-MEAS15 as one snapshot. -/
  | measRead (q : CmdSrc)
  /-- CERT_READ (R466): Returns a device or intermediate certificate. -/
  | certRead (q : CmdSrc)
  /-- FW_BEGIN (R468): Opens an update on the inactive slot. -/
  | fwBegin (q : CmdSrc)
  /-- FW_CHUNK (R468): Writes update data to flash. -/
  | fwChunk (q : CmdSrc)
  /-- FW_FINISH_STAGE (R468): Checks the slot and marks it STAGED. -/
  | fwFinishStage (q : CmdSrc)
  /-- FW_FINISH_CONFIRM (R468): Makes the tried slot ACTIVE, optionally advancing rollback. -/
  | fwFinishConfirm (q : CmdSrc)
  /-- FW_ABORT (R468): Closes an update or trial and empties the slot. -/
  | fwAbort (q : CmdSrc)
  /-- ERROR_CARD_SEND (R374): The error engine sends a logged entry when it holds credit. -/
  | errorCardSend
  /-- ERR_HOST_COPY (R379): An entry is copied to the host error ring when it has room. -/
  | errHostCopy
  /-- ERR_LOG_ACK_WRITE (R377): The Steward acknowledges entries. -/
  | errLogAckWrite (m : Master) (v : Word)
  /-- ERR_LOST_READ (R378): A read returns and clears lost counts. -/
  | errLostRead (m : Master)
  /-- ERR_HQ_HEAD_WRITE (R379): A host write frees error ring slots. -/
  | errHqHeadWrite (m : Master) (v : Word)
  /-- QUIESCE (R385): A part enters QUIESCE and refuses new work. -/
  | quiesce (p : Part)
  /-- QUIESCE_CUT (R385): At Q plus 10 µs outstanding requests are abandoned. -/
  | quiesceCut (p : Part)
  /-- QUIESCE_DRAINED (R80): A sprig's window ends early when nothing is outstanding. -/
  | quiesceDrained (g : SprigId)
  /-- CLOSE_CARD (R389): An open stream sends an ABANDONED close card when credit allows. -/
  | closeCard (p : Producer) (cause : BitVec 3)
  /-- UNIT_FATAL (R373): A unit error quiesces and resets that unit. -/
  | unitFatal (p : Part) (e : ErrInfo)
  /-- DEVICE_FATAL (R380): A fatal error preserves its entry and resets the core. -/
  | deviceFatal (e : ErrInfo)
  /-- PORST_N (R403): Power-on reset resets all domains and starts the sequence. -/
  | porstN (devid : DeviceId)
  /-- SYSRST_N (R402): System reset resets the core domain. -/
  | sysrstN (lowNs : Nat)
  /-- WATCHDOG_EXPIRY (R404): Watchdog expiry resets the core. -/
  | watchdogExpiry
  /-- RST_WDOG_KICK (R404): A key write restarts the watchdog count. -/
  | rstWdogKick (m : Master) (v : Word)
  /-- RST_UNIT (R404): GO resets a bunch, port or channel controller. -/
  | rstUnit (m : Master) (v : Word)
  /-- RST_XSTAT_READ (R404): A read returns and clears the PEER_RESET count. -/
  | rstXstatRead (m : Master)
  /-- RESET_RELEASE (R403): A reset unit or domain leaves reset. -/
  | resetRelease (p : Part)
  /-- BOOT_ROM (R457): Sprig 0.0 verifies and loads the bundle and hands over. -/
  | bootRom (sel : BitVec 2)
  /-- GO_RECORD (R459): The boot ROM finds the loader's go record. -/
  | goRecord
  /-- RECOVERY_LOAD_FRAME (R460): A serial recovery frame is checked and acknowledged. -/
  | recoveryLoadFrame (data : List Byte) (crc : Word)
  /-- RESUME (R461): The resume path checks the record and restarts the Steward. -/
  | resume
  /-- CROSSING_RESYNC (R398): A crossing resynchronises after either side resets. -/
  | crossingResync (x : Crossing) (receiverReset : Bool)
  /-- ASYNC_WAKE (R397): A request to a stopped clock domain wakes it. -/
  | asyncWake (d : ClockDomain)
  /-- BUNCH_IDLE_EXPIRY (R408): A bunch idle for PWR_IDLE.NS starts gating. -/
  | bunchIdleExpiry (b : BunchId)
  /-- BUNCH_GATED (R409): The preparation phase ends and the power switch opens. -/
  | bunchGated (b : BunchId)
  /-- FIRST_ACCESS (R410): An event reaching a gated bunch wakes it. -/
  | firstAccess (b : BunchId)
  /-- BUNCH_WAKE_RELEASE (R412): The woken bunch is released and sprigs restart at the wake PC. -/
  | bunchWakeRelease (b : BunchId)
  /-- PGOOD_TIMEOUT (R406): PGOOD not rising in 2 ms lowers PWR_EN and retries. -/
  | pgoodTimeout
  /-- POWER_UP_RETRY (R406): After 10 ms the sequence raises PWR_EN again. -/
  | powerUpRetry
  /-- BROWNOUT (R427): VCORE or PGOOD failure resets the core domain. -/
  | brownout (pgood : Bool)
  /-- WAKE (R418): A wake source starts a wake from STANDBY or WATCH. -/
  | wake (src : Word)
  /-- OFF_WAKE (R421): A wake source starts the core from OFF. -/
  | offWake (src : Word)
  /-- MGMT_ADDRESS_MATCH (R423): An I2C address match acknowledges and starts a wake. -/
  | mgmtAddressMatch (addr : BitVec 7)
  /-- WATCH_CYCLE (R419): The sequencer checks ADC channels and pins each period. -/
  | watchCycle (codes : List (BitVec 12)) (pins : Word)
  /-- RTC_ALARM (R422): AON_TICKS reaches the alarm. -/
  | rtcAlarm
  /-- DIP_START (R426): VCORE below the warning threshold starts a dip. -/
  | dipStart (stamp : DWord)
  /-- DIP_END (R426): VCORE recovers and the dip ends. -/
  | dipEnd (stamp : DWord) (minv : BitVec 8)
  /-- VAUX_LOSS (R496): VAUX falling below 2.95 V acts as PORST_N. -/
  | vauxLoss
  /-- INPUT_48V_LOSS (R496): 48 V loss in STANDBY or WATCH moves the device to OFF. -/
  | input48vLoss
  /-- FLIT_RECEIVE (R430): A link receiver accepts or discards a flit. -/
  | flitReceive (t : BitVec 2) (f : Flit) (crcOk : Bool)
  /-- NAK (R430): A NAK makes the sender replay from the named sequence. -/
  | nak (t : BitVec 2) (lseq : BitVec 12)
  /-- TL_TRAINING_DONE (R431): A port completes training and starts IDCHECK. -/
  | tlTrainingDone (t : BitVec 2)
  /-- IDCHECK (R431): IDENT exchange brings the port UP or REFUSED. -/
  | idcheck (t : BitVec 2) (i : Ident) (probeDup : Bool)
  /-- TL_LINK_DOWN (R431): A port goes DOWN and retrains. -/
  | tlLinkDown (t : BitVec 2)
  /-- PAIR_MESSAGE_ACCEPT (R437): A destination accepts or discards a pair message. -/
  | pairMessageAccept (d : DeviceId) (msg : PairMsg)
  /-- PAIR_RETRANSMIT (R437): An unacknowledged message is resent after 20 µs. -/
  | pairRetransmit (d : DeviceId)
  /-- HEARTBEAT (R441): A heartbeat is sent after 100 µs without traffic. -/
  | heartbeat (d : DeviceId)
  /-- TL_PEER_LOST (R442): A device declares a peer lost and cleans up. -/
  | tlPeerLost (d : DeviceId)
  /-- PAIR_SYNC (R443): PAIR_SYNC exchange resynchronises a lost pair. -/
  | pairSync (d : DeviceId) (pepoch : BitVec 8) (inc : BitVec 16) (counts : List (Nat × Nat))
  /-- TIME_EXCHANGE (R446): Every 125 µs a port runs a two-way time exchange. -/
  | timeExchange (t : BitVec 2) (x : Exchange)
  /-- TIME_JOIN (R448): A device regaining its parent steps or steers DTIME. -/
  | timeJoin (offset : Int)
  /-- TL_RDMA_SUBMIT (R440): A remote DMA descriptor is submitted. -/
  | tlRdmaSubmit (m : Master) (v : Word)
  /-- REMOTE_REQUEST (R439): A peer's remote request is checked against windows and served. -/
  | remoteRequest (d : DeviceId) (r : MemReq)
  /-- RDMA_DONE (R440): A remote transfer completes. -/
  | rdmaDone (refused : Bool) (data : List Byte) (marks : List Bool)
  /-- SEC_RB_ADV (R470): GO raises the rollback counters. -/
  | secRbAdv (m : Master) (v : Word)
  /-- SEC_MEAS_EXT (R464): GO extends a measurement register. -/
  | secMeasExt (m : Master) (v : Word)
  /-- OTP_OWNER_HASH (R463): Programs an owner key hash. -/
  | otpOwnerHash (m : Master) (v : Word)
  /-- OTP_REVOKE_OWNER (R463): Revokes an owner key slot. -/
  | otpRevokeOwner (m : Master) (v : Word)
  /-- OTP_REVOKE_VENDOR (R463): Revokes a vendor key slot. -/
  | otpRevokeVendor (m : Master) (v : Word)
  /-- OTP_DEBUG_HASH (R463): Programs the debug key hash. -/
  | otpDebugHash (m : Master) (v : Word)
  /-- OTP_BOOT_DIS (R463): Sets BOOT_DIS bits. -/
  | otpBootDis (m : Master) (v : Word)
  /-- OTP_RECOV_DIS (R463): Sets RECOV_DIS. -/
  | otpRecovDis (m : Master) (v : Word)
  /-- RETIRE (R463): Retires the device at the next core start. -/
  | retire (m : Master) (v : Word)
  /-- MON_ID (R472): Monitor command printing identity. -/
  | monId
  /-- MON_ERR (R472): Monitor command printing log entries. -/
  | monErr (n : BitVec 7)
  /-- MON_TIME (R472): Monitor command printing DTIME. -/
  | monTime
  /-- UNLOCK (R474): Monitor challenge-response unlock. -/
  | unlock (arg : Option (List Byte × List Byte))
  /-- LOCK (R472): Locks the monitor. -/
  | lock
  /-- BAUD (R471): Changes the monitor rate. -/
  | baud (r : BitVec 24)
  /-- PEEK (R473): Debug-view reads of device words. -/
  | peek (a : Addr) (n : Nat)
  /-- POKE (R473): One 32-bit write from the monitor. -/
  | poke (a : Addr) (v : Word)
  /-- MON_HALT (R472): Monitor halt of a sprig. -/
  | monHalt (g : SprigId)
  /-- MON_STEP (R472): Monitor step of a sprig. -/
  | monStep (g : SprigId)
  /-- MON_RUN (R472): Monitor start of a sprig. -/
  | monRun (g : SprigId)
  /-- REGS (R472): Prints a sprig's register image. -/
  | regs (g : SprigId)
  /-- MON_Q (R472): Prints a queue's status and configuration. -/
  | monQ (i : QueueId)
  /-- PWR (R472): Prints power status. -/
  | pwr
  /-- OVERRUN (R471): Receive buffer overflow discards the line. -/
  | overrun
  /-- SERDES_PLL_LOSS (R400): Loss of PLL lock in a SerDes group resets that group through QUIESCE and logs a UNIT_FATAL entry. -/
  | serdesPllLoss (grp : BitVec 3)
  /-- CXP_LINK_CHANGE (R270): A CoaXPress connection's link goes up or down, changing CXP_STAT.LINK and SPD. -/
  | cxpLinkChange (x : BitVec 4) (up : Bool) (spd : BitVec 3)
  /-- PREEMPTION_VERIFICATION (R263): Frame preemption verification with the link partner succeeds and ETH_STAT.PACT becomes 1. -/
  | preemptionVerification (p : BitVec 3)
  /-- ISLAND_HEARTBEAT_TIMEOUT (R320): No island heartbeat arrives for 10 ms and MET_STAT.ALIVE falls to 0. -/
  | islandHeartbeatTimeout
  /-- MET_DONE_TIMEOUT (R324): The Steward gives up waiting for DONE after the reply bound plus 300 ms and answers the Sorrel command ABANDONED with detail 0x0000_00FF. -/
  | metDoneTimeout
  /-- RECOVERY_LOAD (R460): The serial recovery command load n makes the boot ROM ready to take n bytes of bundle in CRC-checked frames. -/
  | recoveryLoad (n : Nat)
  /-- LATCH_HANDSHAKE_END (R396): An event-latch handshake ends with ACK falling; the crossing accepts new events and sets the latch again if a merged edge arrived and firmware had cleared it. -/
  | latchHandshakeEnd (g : SprigId) (e : BitVec 3)
  /-- PGOOD_RISE (R406): PGOOD rises after PWR_EN, so power-up proceeds and the LPR hands VCORE back to the VRM. -/
  | pgoodRise
  /-- VIOOK_RETURN (R257): A bank's VIO returns into its operating range, setting VIOOK and starting the 1 ms delay before the pins resume. -/
  | viookReturn (k : BitVec 3) (v33 : Bool)
  /-- LOW_WORD_READ (R17): A master's read of the low word of a 64-bit register copies the high word into that master's shadow. -/
  | lowWordRead (m : Master) (a : Addr) (how : RegAcc := {})
deriving DecidableEq, Repr

end Sys2Proof
end

