-- ==== Sys2Proof/Decode.lean ====
section
/-!
DEFINITION. Sys2Proof/Decode.lean: the command that a word spells by the bits of spec/opcode_table.json.
-/
namespace Sys2Proof

/-- The instruction that sprig g's word spells (R81): GINV and GPRED in bits [31:28], the opcode in [27:20], the operands in [19:0]. An opcode
that no row of chapter 3 lists, and a customer slot, is a CUSTOMER_INSTRUCTION (R83, R156). -/
def instrOfWord (g : SprigId) (w : Word) : Instr :=
  let gd : BitVec 4 := (w >>> 28).setWidth 4
  let opc : Byte := (w >>> 20).setWidth 8
  let op : BitVec 20 := w.setWidth 20
  match opc.toNat with
  | 0x01 => .mov g gd op | 0x02 => .ldi g gd op | 0x03 => .ldih g gd op | 0x04 => .ldiA g gd op
  | 0x05 => .lea g gd op | 0x08 => .ldB g gd op | 0x09 => .ldBs g gd op | 0x0A => .ldH g gd op
  | 0x0B => .ldHs g gd op | 0x0C => .ldW g gd op | 0x10 => .stB g gd op | 0x11 => .stH g gd op | 0x12 => .stW g gd op
  | 0x20 => .add g gd op | 0x21 => .sub g gd op | 0x22 => .andD g gd op | 0x23 => .orD g gd op
  | 0x24 => .xorD g gd op | 0x25 => .shl g gd op | 0x26 => .shr g gd op | 0x27 => .sar g gd op | 0x28 => .rot g gd op
  | 0x29 => .minD g gd op | 0x2A => .maxD g gd op | 0x2B => .absD g gd op | 0x2C => .negD g gd op
  | 0x2D => .clz g gd op | 0x2E => .sat g gd op | 0x2F => .mul g gd op | 0x30 => .div g gd op | 0x38 => .addI g gd op
  | 0x39 => .andI g gd op | 0x3A => .orI g gd op | 0x3B => .xorI g gd op | 0x40 => .fadd g gd op
  | 0x41 => .fsub g gd op | 0x42 => .fmul g gd op | 0x43 => .fmac g gd op | 0x44 => .fcvt g gd op
  | 0x50 => .cmp g gd op | 0x51 => .tst g gd op | 0x52 => .pand g gd op | 0x53 => .por g gd op
  | 0x54 => .pnot g gd op | 0x60 => .mac g gd op | 0x61 => .macs g gd op | 0x62 => .macx2 g gd op
  | 0x63 => .macx4 g gd op | 0x64 => .fmaca g gd op | 0x68 => .clra g gd op | 0x69 => .rnda g gd op
  | 0x6A => .ash g gd op | 0x6B => .stasM g gd op | 0x6C => .stasR g gd op | 0x70 => .br g gd op
  | 0x71 => .brl g gd op | 0x72 => .brr g gd op | 0x73 => .brlr g gd op | 0x74 => .ret g gd op
  | 0x75 => .reti g gd op | 0x76 => .trap g gd op | 0x77 => .bkpt g gd op | 0x80 => .send g gd op
  | 0x81 => .recv g gd op | 0x82 => .recvNb g gd op | 0x83 => .fenceQ g gd op | 0x90 => .waitI g gd op
  | 0x91 => .evr g gd op | 0x92 => .evc g gd op | 0x93 => .rdt g gd op | 0x94 => .deal g gd op
  | 0xA0 => .aadd g gd op | 0xA1 => .aswp g gd op | 0xB0 => .mmode g gd op | 0xB1 => .mmodeS g gd op
  | 0xB2 => .mmodeC g gd op | 0xB3 => .fenceI g gd op | 0xB4 => .syncI g gd op | 0xB5 => .halt g gd op
  | _ => .customerInstruction g gd opc op

/-- No row of the table gives its command any bits, so no word spells a command (log entry 4). -/
def decodeTableWord (nbits w : Nat) : Option Instr :=
  match nbits, w with
  | _, _ => none

end Sys2Proof
end

