-- ==== Sys2Proof/Config.lean ====
section
/-!
DEFINITION. Sys2Proof/Config.lean: what the spec names but does not give (standard functions of other documents), and the free
values it leaves open. None has a body: nothing can be proved of their values.
-/
namespace Sys2Proof.Config

/-- Steps' worth of X stall counted by SPG_CNT_STALL at one stall (R60): the spec bounds no stall by a count. Log entry 2. -/
opaque freeStall : Nat → Word

/-- Steps that an instruction ran before it was abandoned or faulted (R60). Log entry 28. -/
opaque freeSteps : Nat → Word

/-- Microwords that a customer routine runs before an interrupt that stands is recognised between two of them (R150). Log entry 72. -/
opaque freeWords : Nat → Nat

/-- Ticks from a write of GO to the start of a serial frame: fewer than 2 ns (R260). -/
opaque freeDelay : Nat → BitVec 4

/-- Whether a decoder counts up when A leads B, and which level of B means up in step and direction (R258): the spec gives neither
sign. -/
opaque leadUp : Bool
opaque stepUp : Bool

/-- The bytes with which an Ethernet port pads a frame to 60 bytes (R264): the spec gives them no value. Log entry 80. -/
opaque padByte : Nat → Byte

/-- CODE of the entry that a stream DMA descriptor refused with PERM leaves (R275): R376 names none for it. -/
opaque dmaPermCode : BitVec 16

/-- TAG in the header of the Steward's reply and NOTIFY cards (R344, R360): the spec gives it no value. -/
opaque replyTag : Byte

/-- SHA3-256 (R317, R330, R464): the spec names the function of FIPS 202. Log entry 3. -/
opaque sha3 : List Byte → BitVec 256

/-- Whether an ML-DSA-44 signature verifies: key, message, signature (R153, R316, R454, R474). Log entry 3. -/
opaque mldsaVerify : List Byte → List Byte → List Byte → Bool

/-- The ML-DSA-44 signature of a message by the device's key (R332, R467). Log entry 3. -/
opaque mldsaSign : Nat → List Byte → List Byte


/-- The epoch of a queue on another device, which that device reports at a binding (R196). -/
opaque remoteEpoch : Nat → Byte

/-- The state codes of HAND_STATUS (R349): the spec gives them no values. -/
opaque handStateCode : Nat → Word

/-- The fault that the other participants of a system hand report to HAND_CHECK, if any: status, two detail words, device (R364). -/
opaque remoteFault : Nat → Option (BitVec 16 × Word × Word × DeviceId)

/-- DRAINQ of an image that HAND_RECALL attaches (R370): the spec names none. -/
opaque recallDrainq : Byte

/-- Whether the configuration store cannot hold another generation, by its settings and image bytes (R361). -/
opaque storeFull : Nat → Nat → Bool

/-- What the boot firmware chooses of the Steward posy and the Steward's queues, where the spec leaves it open (R30, R187, R344, R374): how
many queues posy 0 has, which, and the ring of each queue. Log entry 81. -/
opaque stewardCount : Nat
opaque stewardMember : Nat → BitVec 5
opaque stewardRing : Nat → Word

/-- The island's public key and the vendor certificate of its IDENTIFY reply (R321, R332). -/
opaque islandKey : List Byte
opaque islandCert : List Byte

/-- The identity seed in island OTP, the base microcode and decode table in the island's ROM, and where the boot ROM puts a firmware image in
island RAM (R313, R316). Log entry 82. -/
opaque islandSeed : List Byte
opaque islandMicrocode : Nat → Word
opaque islandDecode : Nat → Word
opaque islandPlace : Nat

/-- Which parameter values the island firmware of a digest knows and allows, and the values it starts from (R325). -/
opaque paramOk : BitVec 256 → BitVec 16 → Word → Bool
opaque paramReset : BitVec 256 → BitVec 16 → Word

/-- How many link credits a CREDIT flit returns (R429, R432). -/
opaque linkCredits : Flit → Nat

/-- The lane-skew asymmetry of a port that TRAINING measures, in ps, and the synchronisation engine's steering in parts of 2^-32 (R446). -/
opaque laneSkew : Nat → Int
opaque steer : Nat → Int

/-- Whether a SYSRST_N pulse of a length in ns between the two limits resets (R402). -/
opaque sysrstPulse : Nat → Bool

/-- AES-256-GCM under the device class key: IV, additional data, ciphertext and tag to plaintext (R454, R455). Log entry 3. -/
opaque classDecrypt : List Byte → List Byte → List Byte → Option (List Byte)

/-- What the mask ROM and the SEC engine hold: the ROM version (R464), the vendor key hashes (R455), the identity public key (R465). -/
opaque romVersion : List Byte
opaque vendorHash : Nat → BitVec 256
opaque devicePublic : List Byte

/-- The n-th challenge of the monitor: 32 random bytes (R474). -/
opaque challenge : Nat → List Byte

/-- Stepping, and whether the temperature grade is -E, as fuses give them (R1, R6). -/
opaque stepping : Byte
opaque gradeE : Bool

/-- CODE of the entry that the loss of a SerDes group's PLL lock leaves (R400): R376 names none for it. -/
opaque pllCode : BitVec 16

end Sys2Proof.Config
end

