-- ==== Sys2Proof/Machine/Table.lean ====
section
/-!
DEFINITION. Sys2Proof/Machine/Table.lean: sparse tables. A table is a list of key and value pairs in one canonical form:
keys strictly rising, and no entry equal to what an unlisted key reads as. Memory is such a table of bytes.
-/
namespace Sys2Proof.Machine

/-- A sparse table: an unlisted key holds the table's default value. -/
abbrev Tbl (α : Type) := List (Nat × α)

/-- The value at key `k`, or the default `d`. -/
def Tbl.get {α : Type} (t : Tbl α) (k : Nat) (d : α) : α :=
  match t with
  | [] => d
  | (a, x) :: rest => if a = k then x else Tbl.get rest k d

/-- `t` with the pair put in before the first greater key. -/
def Tbl.insert {α : Type} (t : Tbl α) (k : Nat) (v : α) : Tbl α :=
  match t with
  | [] => [(k, v)]
  | (a, x) :: rest => if k < a then (k, v) :: (a, x) :: rest else (a, x) :: Tbl.insert rest k v

/-- `t` without any entry for `k`. -/
def Tbl.erase {α : Type} (t : Tbl α) (k : Nat) : Tbl α :=
  match t with
  | [] => []
  | (a, x) :: rest => if a = k then Tbl.erase rest k else (a, x) :: Tbl.erase rest k

/-- `t` with `v` at key `k`; writing the default removes the entry. -/
def Tbl.set {α : Type} [DecidableEq α] (t : Tbl α) (k : Nat) (v d : α) : Tbl α :=
  if v = d then t.erase k else (t.erase k).insert k v

/-- Every key of `t` lies above `lo`, the keys rise strictly, and no entry holds the default. -/
def Tbl.above {α : Type} [DecidableEq α] (lo : Nat) (d : α) : Tbl α → Bool
  | [] => true
  | (a, x) :: rest => decide (lo ≤ a) && decide (x ≠ d) && Tbl.above (a + 1) d rest

/-- The canonical form. -/
def Tbl.wf {α : Type} [DecidableEq α] (t : Tbl α) (d : α) : Bool := Tbl.above 0 d t

/-- The first entry that satisfies `p`, with its key. -/
def Tbl.find {α : Type} (t : Tbl α) (p : Nat → α → Bool) : Option (Nat × α) :=
  match t with
  | [] => none
  | (a, x) :: rest => if p a x then some (a, x) else Tbl.find rest p

/-- The keys whose entry satisfies `p`. -/
def Tbl.keys {α : Type} (t : Tbl α) (p : Nat → α → Bool) : List Nat :=
  (t.filter fun e => p e.1 e.2).map Prod.fst

/-- Whether some listed entry satisfies `p`. -/
def Tbl.anyE {α : Type} (t : Tbl α) (p : Nat → α → Bool) : Bool := t.any fun e => p e.1 e.2

end Sys2Proof.Machine
end

