-- ==== Sys2Proof/Machine/BootData.lean ====
section
/-!
DEFINITION. Sys2Proof/Machine/BootData.lean: fuses, boot flash slots, the boot ROM, measurements and the monitor
(spec/18_boot_and_security.md).
-/
namespace Sys2Proof.Machine

/-- LIFE (R462). -/
inductive Life where
  | blank
  | owned
  | retired
deriving DecidableEq, Repr

def Life.code : Life → BitVec 2
  | .blank => 0
  | .owned => 1
  | .retired => 2

/-- The states of a boot flash slot (R458). -/
inductive SlotState where
  | empty
  | staged
  | tried
  | active
  | previous
deriving DecidableEq, Repr

def SlotState.code : SlotState → BitVec 3
  | .empty => 0
  | .staged => 1
  | .tried => 2
  | .active => 3
  | .previous => 4

/-- A slot: its entry in the slot table and its bytes (R458). -/
structure Slot where
  st : SlotState := .empty
  length : Nat := 0
  digest : BitVec 256 := 0
  bytes : List Byte := []
deriving DecidableEq, Repr

/-- OTP (R462) and what stands in the boot flash beside the configuration mirror (R458, R466): slots A and B and the two certificates. `life` of a device being retired is RETIRED in the fuses at once (R463). -/
structure Sec where
  life : Life := .blank
  serial : DWord := 0
  ownHash : Vector (BitVec 256) 4 := Vector.replicate 4 0
  ownSet : BitVec 4 := 0
  ownRev : BitVec 4 := 0
  vendRev : BitVec 4 := 0
  dbgHash : BitVec 256 := 0
  dbgSet : Bool := false
  ownerRb : BitVec 7 := 0
  vendorRb : BitVec 7 := 0
  bootDis : BitVec 3 := 0
  recovDis : Bool := false
  slotA : Slot := {}
  slotB : Slot := {}
  certs : List (Option (List Byte)) := []
deriving DecidableEq, Repr

/-- PHASE of SEC_BOOT_STAT (R470). -/
inductive Phase where
  | rom
  | waitLoader
  | verify
  | load
  | handedOver
  | failed
  | recovery
deriving DecidableEq, Repr

def Phase.code : Phase → BitVec 4
  | .rom => 0
  | .waitLoader => 1
  | .verify => 2
  | .load => 3
  | .handedOver => 4
  | .failed => 5
  | .recovery => 6

/-- A component of the running bundle: KIND, RBI, VERSION and digest (R454, R461). -/
structure Comp where
  kind : Nat
  rbi : Nat
  version : Word
  digest : BitVec 256
deriving DecidableEq, Repr

/-- The boot ROM's and the SEC block's volatile state (R457 to R461, R464, R470): the fields of SEC_BOOT_STAT; whether sprig 0.0 is in
ROM mode and whether the Steward accepts commands; the running bundle's components and bytes; serial recovery's expected length and bytes
received; measurements; SEC_EXTBUF; DONE and REFUSED of SEC_OTP_PROG; an update that is open, by its length (R468). -/
structure Boot where
  phase : Phase := .rom
  src : BitVec 2 := 0
  slot : BitVec 2 := 3
  resumed : Bool := false
  patched : Bool := false
  trial : Bool := false
  fail : Byte := 0
  comp : Byte := 0xFF#8
  romMode : Bool := true
  steward : Bool := false
  strap : BitVec 2 := 0
  comps : List Comp := []
  bundle : List Byte := []
  expect : Option Nat := none
  got : List Byte := []
  meas : Tbl (BitVec 256) := []
  ext : Tbl Word := []
  otpDone : Bool := false
  otpRefused : Bool := false
  upd : Option Nat := none
deriving DecidableEq, Repr

/-- What the Steward leaves for a resume (R461, R415): component digests, bundle copy, measurements and SEC_BOOT_STAT's fields. -/
structure ResumeRec where
  comps : List Comp
  bundle : List Byte
  meas : Tbl (BitVec 256)
  slot : BitVec 2
  src : BitVec 2
  patched : Bool
  trial : Bool
deriving DecidableEq, Repr

/-- The monitor's answer to its latest command (R471, R472): the words printed before ok, or the name after er. -/
inductive MonReply where
  | ok (words : List Word)
  | text (bytes : List Byte)
  | er (name : String)
deriving DecidableEq, Repr

/-- The monitor and the MON block (R471 to R475). `challenge` is the pending challenge and its instant. -/
structure Mon where
  locked : Bool := true
  recovery : Bool := false
  overrun : Bool := false
  fails : Byte := 0
  baud : BitVec 24 := 0x01C200#24
  adc : Tbl Word := []
  challenge : Option (List Byte × DWord) := none
  answer : Option MonReply := none
deriving DecidableEq, Repr

end Sys2Proof.Machine
end

