-- ==== Sys2Proof/Machine/CmdData.lean ====
section
/-!
DEFINITION. Sys2Proof/Machine/CmdData.lean: commands that the Steward has taken, and configuration hands (spec/13_commands_and_hands.md).
-/
namespace Sys2Proof.Machine

/-- A command as taken (R342, R344, R346): its 16 words, whether they read poisoned, what stands at IN_ADDR in host memory (`none`:
unreadable), a sprig's reply handle, its number in the order of acceptance (R345), and whether its execution has begun and its reply
is owed. -/
structure Cmd where
  words : List Word
  poisoned : Bool := false
  inBuf : Option (List Byte) := none
  handle : Word := 0
  order : Nat := 0
  begun : Bool := false
deriving DecidableEq, Repr

/-- Card A of a sprig command, with the Steward queue it reached (R344). -/
structure HalfCmd where
  queue : QueueId
  w : CardWords
  poisoned : Bool
deriving DecidableEq, Repr

/-- The states of a hand (R355). -/
inductive HandState where
  | unused
  | open
  | pending
  | draining
  | committed
  | folded
  | failed
deriving DecidableEq, Repr

/-- Who opened a hand (R355). -/
inductive HandOwner where
  | func (f : FuncId)
  | sprig (g : SprigId)
deriving DecidableEq, Repr

/-- A staged entry: device, setting ID, value, and the number of commits when the setting was first staged (R355, R358). -/
structure HandEntry where
  dev : DeviceId
  id : Nat
  val : Word
  since : Nat
deriving DecidableEq, Repr

/-- An image attached to a hand: target handle, DRAINQ, image bytes (R368). -/
structure HandImage where
  target : Word
  drainq : Byte
  image : List Byte
deriving DecidableEq, Repr

/-- What a system hand adds (R364, R365): participants, whether this device coordinates it or voted YES, its coordinator's hand and
device, the vote deadline, the votes with what the voters report, the decision, and the refusing votes. -/
structure SysHand where
  mask : BitVec 512
  coordinator : DeviceId
  hand : Word
  deadline : DWord := 0
  votes : List (DeviceId × Bool × Word) := []
  decided : Option Bool := none
  votedYes : Bool := false
  report : HandReport := {}
deriving DecidableEq, Repr

/-- A hand slot (R355 to R360, R368). `instant` is T, or S for a hand with loads; `ready` the end of staging plus 2 µs; `line` the
boundary line waited for; `halted` the targets halted so far; `awaiting` the HOLD notices not acknowledged; `commitAt` T of a hand with loads; `submit` who awaits the reply of its
HAND_COMMIT; `order` that command's number in the order of acceptance (R345). -/
structure Hand where
  serial : BitVec 16 := 0
  st : HandState := .unused
  owner : HandOwner := .func 0
  entries : List HandEntry := []
  loads : List HandImage := []
  sys : Option SysHand := none
  mode : Word := 0
  arg0 : Word := 0
  arg1 : Word := 0
  notify : Word := 0
  drainwin : Nat := 0
  instant : Option DWord := none
  ready : DWord := 0
  halted : List SprigId := []
  awaiting : List (DeviceId × BitVec 10) := []
  loaded : Bool := false
  commitAt : DWord := 0
  submit : Option CmdSrc := none
  order : Nat := 0
  status : BitVec 16 := 0
  detail : Word := 0
  gen : Word := 0
deriving DecidableEq, Repr

/-- A slot never used. -/
def Hand.reset : Hand := {}

/-- The configuration store beside the current generation (R358, R361, R363): the prior generation and the images of both, the number of
commits and that of each setting's latest, CFG registers, the generation mirrored to flash with its settings and images; the settings of
generation G while the registers stand at reset, whether they came from an older generation in flash, and the hands that a core reset
cut, by slot and ID (R357). -/
structure Store where
  gen : Word := 1
  hasPrior : Bool := false
  prior : Tbl Word := []
  images : Tbl (List Byte) := []
  priorImages : Tbl (List Byte) := []
  commits : Nat := 0
  stamps : Tbl Nat := []
  isolated : Bool := false
  split : Bool := false
  last : DWord := 0
  mirrored : Bool := false
  flashGen : Word := 0
  flash : Tbl Word := []
  flashImages : Tbl (List Byte) := []
  kept : Tbl Word := []
  restored : Bool := false
  abandoned : List (BitVec 4 × Word) := []
deriving DecidableEq, Repr

end Sys2Proof.Machine
end

