-- ==== Sys2Proof/Machine/GddrData.lean ====
section
/-!
DEFINITION. Sys2Proof/Machine/GddrData.lean: the GDDR6 channel controllers (spec/11_module_memory.md).
-/
namespace Sys2Proof.Machine

/-- GDC_STAT.STATE. -/
inductive ChannelState where
  | init
  | ready
  | selfref
  | quiesce
  | failed
deriving DecidableEq, Repr

/-- Its code. -/
def ChannelState.code : ChannelState → BitVec 3
  | .init => 0
  | .ready => 1
  | .selfref => 2
  | .quiesce => 3
  | .failed => 4

/-- A channel controller (R308 to R311). `zero` says whether training ends with every ECC word written 0 (R310). -/
structure Gdc where
  st : ChannelState := .init
  level : BitVec 3 := 0
  temp : Byte := 0
  ce : BitVec 16 := 0
  ue : BitVec 16 := 0
  errAddr : DWord := 0
  scrubPos : BitVec 27 := 0
  zero : Bool := true
deriving DecidableEq, Repr

/-- A controller as a core start leaves it. -/
def Gdc.reset : Gdc := {}

end Sys2Proof.Machine
end

