-- ==== Sys2Proof/Machine/IoData.lean ====
section
/-!
DEFINITION. Sys2Proof/Machine/IoData.lean: field pins, decoders, serial masters, Ethernet and CoaXPress ports, stream DMA
(spec/08_field_and_camera_io.md).
-/
namespace Sys2Proof.Machine

/-- A FIO bank (R252, R256, R257): the levels at its pins after FILT, the changes that FILT has not passed yet with their instants, FIO_OUT,
its supply's status; `stopped` from a VIO fault to the resume. -/
structure Bank where
  inp : Word := 0
  raw : Tbl (Option (Bool × DWord)) := []
  out : Word := 0
  viook : Bool := false
  vio33 : Bool := false
  fault : Bool := false
  stopped : Bool := false
deriving DecidableEq, Repr

/-- A bank as reset leaves it. -/
def Bank.reset : Bank := {}

/-- A pin in deal output (R243): its output level and whether HIZ turned its driver off. -/
structure Pin where
  level : Bool := false
  hiz : Bool := false
deriving DecidableEq, Repr

/-- A pin as reset leaves it. -/
def Pin.reset : Pin := {}

/-- A quadrature decoder (R258, R259): count, latched index and stamp, sample, status, the levels its inputs last
had, and the counts at the stamps of sample edges still on their way. -/
structure Qd where
  count : Word := 0
  idx : Word := 0
  idxT : DWord := 0
  smp : Word := 0
  err : Bool := false
  iovr : Bool := false
  errCnt : BitVec 16 := 0
  latched : Bool := false
  snaps : List Word := []
  qa : Bool := false
  qb : Bool := false
deriving DecidableEq, Repr

/-- A decoder as reset leaves it. -/
def Qd.reset : Qd := {}

/-- A serial master (R260, R261), SSI 0 to 31 as 0 to 31 and SPI 0 to 15 as 32 to 47: the latest frame's data and start, the running
frame's start, the transmit word and the word the running frame sends, the status bits, the level, the end of the last frame. -/
structure Serial where
  data : DWord := 0
  stamp : DWord := 0
  busy : Bool := false
  start : DWord := 0
  tx : DWord := 0
  txNow : DWord := 0
  skipped : Bool := false
  notReady : Bool := false
  seq : BitVec 16 := 0
  level : Bool := false
  lastEnd : Option DWord := none
deriving DecidableEq, Repr

/-- A master as reset leaves it. -/
def Serial.reset : Serial := {}

/-- One reading master's shadow of a serial master's latest frame (R261). -/
structure SerShadow where
  dataHi : Word
  stamp : DWord
  seq : BitVec 16
deriving DecidableEq, Repr

/-- A transmit descriptor (R264). -/
structure Txd where
  busy : Bool := false
  word : Word := 0
  stamp : DWord := 0
deriving DecidableEq, Repr

/-- A descriptor as reset leaves it. -/
def Txd.reset : Txd := {}

/-- A frame being sent: descriptor, whether it is dealt, its timestamp point (R265, R266). -/
structure Sending where
  idx : Byte
  dealt : Bool
  stamp : DWord
deriving DecidableEq, Repr

/-- An Ethernet port (R263 to R269). `spd` is the rate SGMII runs at (0: 1,000, 1: 100, 2: 10 Mbit/s); `mem` its frame memory, `sent` the
bytes of the latest frame sent, padding and FCS with them; `late` a preempted frame that resumes; `due` the released deals' descriptors and
instants, the oldest first; ring heads and tails by ring; `cycle` the start of the running Qbv cycle, `gates`, `cycLen` and `cycBase` its
list, length and base; `qbvFrom` the instant of the commit that last changed these three. -/
structure Eth where
  link : Bool := false
  spd : BitVec 2 := 0
  pact : Bool := false
  lchg : Bool := false
  cyc : Bool := false
  txdone : Bool := false
  arr : Bool := false
  rxdrop : BitVec 16 := 0
  unmatched : Byte := 0
  fcserr : Byte := 0
  classes : Tbl (List Byte) := []
  txd : Tbl Txd := []
  sending : Option Sending := none
  late : Option Sending := none
  due : List (Byte × DWord) := []
  mem : Tbl Byte := []
  sent : List Byte := []
  head : Tbl (BitVec 13) := []
  tail : Tbl (BitVec 13) := []
  cycle : Option DWord := none
  gates : List Word := []
  cycLen : Word := 0
  cycBase : DWord := 0
  qbvFrom : DWord := 0
deriving DecidableEq, Repr

/-- A port as reset leaves it. -/
def Eth.reset : Eth := {}

/-- A camera frame whose data is arriving (R271). -/
structure CamFrame where
  start : DWord
  width : Word
  height : Word
  fmt : Word
deriving DecidableEq, Repr

/-- A trigger packet (R272): whether it signals a rising edge, the edge's instant, and the delay field, in ticks. -/
structure TrigPacket where
  rising : Bool
  instant : DWord
  delay : DWord
deriving DecidableEq, Repr

/-- A CoaXPress connection (R270 to R272). `trig` holds the edges to be signalled, their instants and whether they rise; `packet` the latest
trigger packet. -/
structure Cxp where
  link : Bool := false
  spd : BitVec 3 := 0
  trigsent : Bool := false
  line : Bool := false
  fend : Bool := false
  fstart : Bool := false
  drop : BitVec 16 := 0
  errCnt : BitVec 16 := 0
  rhead : Byte := 0
  rtail : Byte := 0
  seq : Word := 0
  frame : Option CamFrame := none
  trig : List (DWord × Bool) := []
  packet : Option TrigPacket := none
deriving DecidableEq, Repr

/-- A connection as reset leaves it. -/
def Cxp.reset : Cxp := {}

/-- A queued DMA descriptor: its scratchpad offset, its words as read at submission, and who submitted it (R274, R275). -/
structure DmaJob where
  off : BitVec 21
  words : CardWords
  who : Master
deriving DecidableEq, Repr

/-- A stream DMA engine (R275). -/
structure Dma where
  queue : List DmaJob := []
  lvl : Bool := false
  done : BitVec 16 := 0
deriving DecidableEq, Repr

/-- An engine as reset leaves it. -/
def Dma.reset : Dma := {}

end Sys2Proof.Machine
end

