-- ==== Sys2Proof/Machine/IrqData.lean ====
section
/-!
DEFINITION. Sys2Proof/Machine/IrqData.lean: the bunch and host interrupt controllers (spec/10_interrupts.md).
-/
namespace Sys2Proof.Machine

/-- A bunch interrupt controller (R285 to R295): enables, active inputs with the target that claimed them, thresholds, latched
deliveries (input and priority) with the BIC_SRC word that each was latched by (R292, R294), STRANDED and the spurious count. -/
structure Bic where
  en : BitVec 256 := 0
  active : BitVec 256 := 0
  owner : Tbl (BitVec 5) := []
  thresh : Tbl Word := []
  latch : Tbl (Option (Byte × BitVec 4)) := []
  latchSrc : Tbl Word := []
  stranded : Bool := false
  spurious : BitVec 16 := 0
deriving DecidableEq, Repr

/-- A controller as reset leaves it. -/
def Bic.reset : Bic := {}

/-- The host interrupt controller (R296 to R298): active sources with the function their message went to, the spurious count, the
MSI-X messages sent, oldest first, as function and vector, the table entries that are not masked, and the Pending Bit Arrays; the functions
that are masked, those with Bus Master Enable, and VF Enable of the SR-IOV capability (R298, R338). -/
structure Hic where
  active : Tbl (Option FuncId) := []
  spurious : BitVec 16 := 0
  sent : List (FuncId × BitVec 11) := []
  unmasked : Tbl Bool := []
  pba : Tbl Bool := []
  fmask : Tbl Bool := []
  bme : Tbl Bool := []
  vfe : Bool := false
deriving DecidableEq, Repr

end Sys2Proof.Machine
end

