-- ==== Sys2Proof/Machine/SprigData.lean ====
section
/-!
DEFINITION. Sys2Proof/Machine/SprigData.lean: the state of one sprig (spec/02_sprig_engine.md, 03, 04) and of the memories'
error marks and leases (05).
-/
namespace Sys2Proof.Machine

/-- The five states of a sprig (R79). -/
inductive RunState where
  | disabled
  | run
  | wait
  | halted
  | frozen
deriving DecidableEq, Repr

/-- The STATE code of the register image (R54). -/
def RunState.code : RunState → BitVec 3
  | .disabled => 0
  | .run => 1
  | .wait => 2
  | .halted => 3
  | .frozen => 4

/-- Where the value of a committed long-latency instruction goes: its D register; the slot of Dn in the frame at a Y-bank
address, when an entry took the register over (R70); the PC, for RET's pop through the far window (R108); a micro-routine that waits
before its COMMIT for a value of no D register (R141); nowhere, when the instruction that asked for it was abandoned. -/
inductive Dest where
  | reg (i : BitVec 4)
  | slot (frame : BitVec 16) (n : BitVec 2)
  | pc
  | hold
  | drop
deriving DecidableEq, Repr

/-- The one far load outstanding (R52, R57). -/
structure FarLoad where
  addr : Addr
  size : Nat
  signed : Bool
  dst : Dest
deriving DecidableEq, Repr

/-- The far store whose acceptance is outstanding (R57, R118). -/
structure FarStore where
  addr : Addr
  data : List Byte
deriving DecidableEq, Repr

/-- The division outstanding: its quotient and remainder and where they go (R97). -/
structure DivOp where
  quo : Word
  rem : Word
  dq : Dest
  dr : Dest
deriving DecidableEq, Repr

/-- A bank atomic outstanding: scratchpad offset, AADD or ASWP, operand, destination, and the handler depth at which it was issued
(R115, R172, R173). -/
structure Atomic where
  off : BitVec 21
  swap : Bool
  operand : Word
  dst : Dest
  depth : Nat
deriving DecidableEq, Repr

/-- A card popped into D8-D15 and not yet written there (R52, R110). -/
structure RecvFill where
  card : CardWords
  poison : BitVec 8
deriving DecidableEq, Repr

/-- A store-buffer entry: resolved device address and bytes; `linked` marks the first half of a linked pair (R122, R123); `depth`
is the handler depth of the store, by which a lease judges it (R173). -/
structure SbEntry where
  addr : Nat
  bytes : List Byte
  linked : Bool
  depth : Nat
deriving DecidableEq, Repr

/-- The writable registers of the control page, the fault reports and the counters (R60). -/
structure Page where
  latch : Byte := 0
  merged : Byte := 0
  evie : Word := 0
  wake : Word := 0x0000FFFF#32
  swin : Word := 0
  fwin : Word := 0
  faultDetail : Word := 0
  faultAddr : Word := 0
  cntInsn : Word := 0
  cntStep : Word := 0
  cntStall : Word := 0
  cntFetch : Word := 0
  ports : Tbl RecvFill := []
deriving DecidableEq, Repr

/-- The first half of a split load from the scratch window: its data address, bytes, poison, and the predicate of a lost lease (R121, R177). -/
structure HalfLoad where
  addr : BitVec 16
  bytes : List Byte
  poison : Bool
  void : Option (BitVec 3)
deriving DecidableEq, Repr

/-- Why the current instruction has not committed: it stalls, it stands between the halves of a split load, or it is a RECV at an empty
queue (R110, R121). -/
inductive Block where
  | none
  | stall
  | half (h : HalfLoad)
  | recv (q : BitVec 3)
deriving DecidableEq, Repr

/-- What waits to be recognised (R66, R67): a rank-1 vector with its resume PC and a trace request; and the debugger's halt-on-break and a step command in progress (R66, R79). -/
structure Requests where
  rank1 : Option (BitVec 6) := Option.none
  resume : BitVec 16 := 0
  trace : Bool := false
  haltOnBreak : Bool := false
  stepping : Bool := false
  block : Block := Block.none
deriving DecidableEq, Repr

/-- Micro-state (R138, R145). -/
structure Micro where
  t : Vector Word 4 := Vector.replicate 4 0
  addr : BitVec 16 := 0
  ulr : BitVec 12 := 0
  az : Bool := false
  an : Bool := false
  ac : Bool := false
  av : Bool := false
  aclip : Bool := false
  unord : Bool := false
  split : Bool := false
  llost : Bool := false
deriving DecidableEq, Repr

/-- One sprig. `written` is the MODE an MMODE wrote that comes into force when its shadow completes (R51). `dealsOut` counts
DEALs not yet accepted or refused (R118). `depth` is the handler depth count (R173). `held` is a value that returned to a micro-routine
waiting for it before its COMMIT (R141). -/
structure Sprig where
  d : Vector Word 16 := Vector.replicate 16 0
  a : Vector (BitVec 16) 8 := #v[0, 0, 0, 0, 0, 0, 0, 0xC000#16]
  m : Vector (BitVec 16) 4 := Vector.replicate 4 0
  ac : Vector (BitVec 80) 2 := Vector.replicate 2 0
  p : Byte := 0
  pc : BitVec 16 := 0
  sw : Word := 0
  mode : Word := 0
  written : Option Word := none
  board : BitVec 16 := 0
  tags : BitVec 16 := 0
  state : RunState := .disabled
  cause : Byte := 0
  faultPc : BitVec 16 := 0
  farLoad : Option FarLoad := none
  farStore : Option FarStore := none
  div : Option DivOp := none
  fill : Option RecvFill := none
  atomics : List Atomic := []
  buf : List SbEntry := []
  page : Page := {}
  req : Requests := {}
  micro : Micro := {}
  dealsOut : Nat := 0
  depth : Nat := 0
  held : Option (Word × Bool) := none
deriving DecidableEq, Repr

/-- A sprig as a per-sprig reset leaves it (R80). -/
def Sprig.reset : Sprig := {}

/-- What a stored ECC word, microword or decode entry holds (R128, R163, R303). -/
inductive EccMark where
  | ok
  | single
  | double
  | poisoned
deriving DecidableEq, Repr

/-- The state of a lease slot (R174). -/
inductive LeaseState where
  | free
  | copying
  | active
  | restoring
  | lost
  | refused
deriving DecidableEq, Repr

/-- Its STATE code. -/
def LeaseState.code : LeaseState → BitVec 3
  | .free => 0
  | .copying => 1
  | .active => 2
  | .restoring => 3
  | .lost => 4
  | .refused => 5

/-- A lease slot: its fields, the holder's depth, the rows copied, and the lease buffer with the marks its ECC words carry
(R173 to R177). `held` is the access that revoked it and waits for the restore; `releasing` marks the sequence that a RELEASE runs. -/
structure Lease where
  st : LeaseState := .free
  pred : BitVec 3 := 0
  region : BitVec 13 := 0
  holder : BitVec 5 := 0
  depth : Nat := 0
  cause : BitVec 4 := 0
  revoker : Byte := 0
  byHandler : Bool := false
  rows : Nat := 0
  buf : List Byte := []
  marks : List EccMark := []
  held : Option ScrReq := none
  releasing : Bool := false
deriving DecidableEq, Repr

/-- A slot as reset leaves it. -/
def Lease.reset : Lease := {}

/-- The arbitration state of a scratchpad bank (R168): the requester granted in the previous round, for each requester the
others that waited in the round of its last grant and are still waiting, the rounds an atomic or pair still holds the bank and the
atomic's ECC word (R171); the corrected words to rewrite (R163); and the bytes of a row that port A and the mailbox's port B last
delivered (R161). -/
structure BankArb where
  last : Option (BitVec 6) := none
  behind : List (BitVec 6 × BitVec 6) := []
  hold : Nat := 0
  holdWord : Option (BitVec 18) := none
  ceWords : List (BitVec 18) := []
  out : List Byte := []
  outPoison : Bool := false
  outB : List Byte := []
  outBPoison : Bool := false
deriving DecidableEq, Repr

/-- A bank as reset leaves it. -/
def BankArb.reset : BankArb := {}

end Sys2Proof.Machine
end

