-- ==== Sys2Proof/Machine/MetData.lean ====
section
/-!
DEFINITION. Sys2Proof/Machine/MetData.lean: the Sorrel island and the core side of its crossings (spec/12_sorrel_island.md).
-/
namespace Sys2Proof.Machine

/-- A card of the island on its way to the designated queue: whether it is the first of a record (it waits for 2 credits, R328), the
record whose card B it is (R333), whether it was refused and is sent again, and once sent its number on the island's channel. -/
structure MetCard where
  w : CardWords
  first : Bool := false
  rec? : Option Word := none
  again : Bool := false
  seq : Nat := 0
deriving DecidableEq, Repr

/-- The MET block (R320 to R324): the request buffer, MET_RSTAT, the reply, the request that the island copied at GO; the cards that wait on
the result path, those sent and not resolved, and the SEQs of the records not yet accepted (R333). -/
structure Met where
  reqBuf : Tbl Byte := []
  busy : Bool := false
  done : Bool := false
  result : Byte := 0
  rlen : BitVec 13 := 0
  rsp : List Byte := []
  request : Option (List Byte) := none
  outq : List MetCard := []
  sent : List MetCard := []
  waiting : List Word := []
deriving DecidableEq, Repr

/-- PROG of MET_STAT. -/
inductive Prog where
  | idle
  | running
  | outFull
  | refused
  | starting
deriving DecidableEq, Repr

def Prog.code : Prog → BitVec 3
  | .idle => 0
  | .running => 1
  | .outFull => 2
  | .refused => 3
  | .starting => 4

/-- An audit entry (R327), and whether READ_AUDIT has returned it (R326). -/
structure AuditEntry where
  counter : Word
  dtime : DWord
  kind : BitVec 16
  param : BitVec 16
  old : Word
  new : Word
  key : Byte
  digest : Word
  seen : Bool
deriving DecidableEq, Repr

/-- What a sprig of the island holds beside its registers (R313): its control store and its decode table. -/
structure IslandStore where
  store : Tbl Word := []
  decode : Tbl Word := []
deriving DecidableEq, Repr

/-- The island (R313 to R336). `sprigs` and `stores` are its four sprigs, `ram` its 256 KiB, `ins` the levels of its digital inputs, `adc`
the latest sample of each load-cell port; `zeros` and `tares` the loads that ZERO and TARE took or were given, by channel; `dipAt` the
PWR_DIP_COUNT[7:0] at the start of each channel's measuring interval (R331). Kept by island flash: `evCnt`, `trail`, `flashDigest`, `committed` (SEQ, H, and whether STOP made it),
`params`; by island OTP: `keyHash`, `paramKeys`, `rollback`. `enabled` is the fuse of R3. `frac` counts 1/64 ns below MTIME's
microsecond. `reply` is the result of the request served, before it crosses (R322); `due` the signatures still to be made: reason, SEQ and H (R332). -/
structure Island where
  enabled : Bool := true
  inReset : Bool := true
  prog : Prog := .idle
  alive : Bool := false
  sealed : Bool := false
  sealCnt : BitVec 16 := 0
  dbg : Bool := false
  progNum : Byte := 0
  mtime : BitVec 48 := 0
  frac : Nat := 0
  name : List Byte := []
  version : Word := 0
  digest : BitVec 256 := 0
  image : List Byte := []
  sprigs : Tbl Sprig := []
  stores : Tbl IslandStore := []
  ram : Tbl Byte := []
  ins : Byte := 0
  outs : BitVec 4 := 0
  adc : Tbl (BitVec 24) := []
  seq : Word := 0
  chain : BitVec 256 := 0
  restart : Bool := false
  retained : List (Word × List Byte) := []
  zeros : Tbl Word := []
  tares : Tbl (Option Word) := []
  dipAt : Tbl Byte := []
  reply : Option (Byte × List Byte) := none
  due : List (BitVec 2 × Word × BitVec 256) := []
  evCnt : Word := 0
  trail : List AuditEntry := []
  flashDigest : Option (BitVec 256) := none
  committed : Option (Word × BitVec 256 × Bool) := none
  params : Tbl (Option Word) := []
  keyHash : BitVec 256 := 0
  paramKeys : List (BitVec 256) := []
  rollback : Nat := 0
deriving DecidableEq, Repr

end Sys2Proof.Machine
end

