-- ==== Sys2Proof/Machine/QueueData.lean ====
section
/-!
DEFINITION. Sys2Proof/Machine/QueueData.lean: cards, queues, send channels, posies, host queue pairs and what is in transit
between them (spec/06_queues_and_cards.md), and the error log (spec/14_errors_and_ordering.md).
-/
namespace Sys2Proof.Machine

/-- A card with its sideband (R185): one poison bit per word, whether the sideband itself reads poisoned, the return route, the
binding serial, its number among its producer's cards, and for a copy of a broadcast card the number of its broadcast (R205). A close card
that this device makes for a lost peer's producer is `mute`: nothing goes back for it (R389). -/
structure Card where
  w : CardWords
  poison : BitVec 8 := 0
  badSide : Bool := false
  route : Producer
  serial : Nat := 0
  seq : Nat := 0
  bcast : Option Nat := none
  mute : Bool := false
deriving DecidableEq, Repr

/-- One store of a ring's pointers, with its parity (R193). -/
structure RingPtrs where
  head : BitVec 13 := 0
  tail : BitVec 13 := 0
  parity : Bool := false
deriving DecidableEq, Repr

/-- A sprig queue (R186 to R201). The ring is the slots' sidebands in ring order; the cards' words stand in the scratchpad
(R188). `walk` holds the sidebands of old-epoch slots that the walk has not passed. The marker's words are first, resets,
discarded, cause, at (R200). `recent` holds the instants of the resets of the last millisecond and `deferred` the causes of the resets that
wait for the rate limit (R201). `ptrs` and `copy` are the two stores of the ring's pointers (R193). -/
structure Queue where
  epoch : Byte := 0
  mark : Bool := false
  first : Byte := 0
  resets : BitVec 16 := 0
  discarded : Word := 0
  cause : BitVec 3 := 0
  at_ : DWord := 0
  chain : List Card := []
  ring : List Card := []
  ptrs : RingPtrs := {}
  copy : RingPtrs := {}
  walk : List Card := []
  recent : List DWord := []
  deferred : List (BitVec 3) := []
deriving DecidableEq, Repr

/-- A queue as reset leaves it. -/
def Queue.reset : Queue := {}

/-- The resolution of a card: its outcome, whether the card was refused, and whether it brings the credit (R195). -/
structure Resolved where
  outcome : BitVec 4
  refused : Bool
  back : Bool
deriving DecidableEq, Repr

/-- A card that a channel has sent and that has not been resolved there: its number, its binding serial, and a resolution that has arrived
before that of an earlier card under the same serial (R195). -/
structure Owed where
  seq : Nat
  serial : Nat
  res : Option Resolved := none
deriving DecidableEq, Repr

/-- A send channel, or a host queue pair's inbound side (R195, R196, R207, R389). `credit` is the signed count; `noticed` the
pending mark of R198; `nextSeq` the number of the next card, `owed` the cards still unresolved, oldest first; `out` the outbound slot's card waiting while a posy is held; `isOpen`, `since`, `lastTag` the stream; `close`
a close card waiting for credit, with its cause and the instant of the closing event. -/
structure Chan where
  outcome : BitVec 4 := 0
  refcnt : BitVec 7 := 0
  epoch : Byte := 0
  credit : Int := 0
  serial : Nat := 0
  noticed : Bool := false
  nextSeq : Nat := 0
  owed : List Owed := []
  out : Option Card := none
  isOpen : Bool := false
  since : Word := 0
  lastTag : Byte := 0
  close : Option (BitVec 3 × DWord) := none
deriving DecidableEq, Repr

/-- A channel as reset leaves it. -/
def Chan.reset : Chan := {}

/-- Cards still unresolved (R196). -/
def Chan.unresolved (x : Chan) : Nat := x.owed.length

/-- The indices of a host queue pair or command queue pair (R211, R342), and the routes of the cards standing in the outbound
ring, whose credits OHEAD returns (R213). -/
structure Hqp where
  itail : BitVec 17 := 0
  ihead : BitVec 17 := 0
  otail : BitVec 17 := 0
  ohead : BitVec 17 := 0
  routes : List (Producer × Nat) := []
deriving DecidableEq, Repr

/-- A pair as reset leaves it. -/
def Hqp.reset : Hqp := {}

/-- A broadcast card whose copies are not all resolved or popped (R195, R205); `parent` is the broadcast of another device of which the card
is itself a copy. -/
structure Bcast where
  route : Producer
  serial : Nat
  seq : Nat
  mute : Bool
  parent : Option Nat
  unresolved : Nat
  unpopped : Nat
  outcome : BitVec 4
  refused : Bool
deriving DecidableEq, Repr

/-- What travels to a place on the device (R195 to R198, R239), or to another device (R207, R208, R364 to R368). -/
inductive Parcel where
  | toQueue (i : QueueId) (c : Card) (viaPosy : Bool)
  | toPosy (p : BitVec 10) (c : Card)
  | toPair (h : BitVec 8) (c : Card)
  | toRemote (handle : Word) (c : Card) (viaPosy : Bool)
  | deal (unit : BitVec 16) (value : Word) (time : DWord) (g : SprigId)
  | resolved (dst : Producer) (outcome : BitVec 4) (back : Bool) (bcast : Option Nat) (seq : Nat)
  | credit (dst : Producer) (serial : Nat) (refused : Bool)
  | notice (dst : Producer) (epoch : Byte) (direct : Bool)
  | holdAck (dev : DeviceId) (p : BitVec 10)
  | hold (dev : DeviceId) (p : BitVec 10) (release : Bool)
  | prepare (dev : DeviceId) (p : Prepare)
  | vote (dev : DeviceId) (hand : Word) (yes : Bool) (detail : Word) (report : HandReport)
  | decision (dev : DeviceId) (hand : Word) (commit : Bool) (report : HandReport)
  | isolated (dev : DeviceId) (hand : Word)
  | popped (dev : DeviceId) (bcast : Nat)
deriving DecidableEq, Repr

/-- An item in transit. Items of one origin to one target arrive in the order they left (R202). -/
structure Flight where
  origin : Nat
  target : Nat
  parcel : Parcel
deriving DecidableEq, Repr

/-- An entry of ERR_LOG (R375): its words' fields, instant, sequence number and LOST count. -/
structure ErrEntry where
  info : ErrInfo
  at_ : DWord
  seq : BitVec 16
  lost : BitVec 16
deriving DecidableEq, Repr

/-- The ERR block (R377 to R382): the ring of entries; the indices tail, acknowledged, sent, accepted and host-copied (modulo
2,048); the lost counts, and those not yet carried by an entry; the host ring; the freeze causes of
functions, peers and DMA engines; the entry a DEVICE_FATAL error preserved (R380). -/
structure ErrBlk where
  ring : Tbl (Option ErrEntry) := []
  tail : BitVec 11 := 0
  seq : BitVec 16 := 0
  ack : BitVec 11 := 0
  sdel : BitVec 11 := 0
  sacc : BitVec 11 := 0
  hcopy : BitVec 11 := 0
  lostCorrected : BitVec 16 := 0
  lostOther : BitVec 16 := 0
  lostSince : Nat := 0
  hqBaseLo : Word := 0
  hqBaseHi : Word := 0
  hqCfg : Word := 0
  hqTail : BitVec 13 := 0
  hqHead : BitVec 13 := 0
  ffrz : Tbl Byte := []
  pfrz : Tbl Byte := []
  dfrz : Tbl Byte := []
deriving DecidableEq, Repr

end Sys2Proof.Machine
end

