-- ==== Sys2Proof/Machine/PowerData.lean ====
section
/-!
DEFINITION. Sys2Proof/Machine/PowerData.lean: the always-on domain, power states, bunch gating and the RST block
(spec/15_clock_domains.md, spec/16_power.md).
-/
namespace Sys2Proof.Machine

/-- The power states (R407). `starting`: the supply sequence of R406 runs before a wake or a core start. -/
inductive PowerState where
  | run
  | standby
  | watch
  | off
  | starting
deriving DecidableEq, Repr

def PowerState.code : PowerState → BitVec 2
  | .run => 0
  | .standby => 1
  | .watch => 2
  | .off => 3
  | .starting => 0

/-- The always-on domain (R401, R404, R406, R418 to R427, R444): AON_TICKS and the fraction below it in 1/64 ns, the copy of DTIME; the
incarnation; COUNT and bits 4..1 of RST_CAUSE; the supply sequence, its attempts, whether it runs for a wake, and the state in which the
device stays if they fail; the power state, the state left, and
AON_TICKS at entry; the WAKE, DIP and WATCH registers; the alarm; AON RAM; the digest of the resume record; the entry that a DEVICE_FATAL error preserved, with its instant, SEQ and LOST (R380); the wake levels
seen in the entry window (R416); the strapped device ID (R25). -/
structure Aon where
  ticks : BitVec 48 := 0
  frac : Nat := 0
  copy : DWord := 0
  inc : BitVec 16 := 0
  count : Byte := 0
  causes : BitVec 4 := 0
  power : PowerState := .run
  pwrEn : Bool := true
  pgood : Bool := true
  tries : Nat := 1
  wake : Bool := false
  back : PowerState := .off
  left : PowerState := .run
  pgfail : Bool := false
  pgtry : BitVec 3 := 0
  entry : BitVec 48 := 0
  wakeStat : Word := 0
  dipCount : Word := 0
  inDip : Bool := false
  brown : Bool := false
  minv : Byte := 0
  dipIn : DWord := 0
  dipOut : DWord := BitVec.allOnes 64
  watchCfg : Word := 0x8000#32
  watchPin : Tbl Word := []
  watchCh : Tbl Word := []
  watchLast : Tbl Word := []
  watchLpin : Byte := 0
  watchN : Word := 0
  alarm : BitVec 48 := BitVec.allOnes 48
  ram : Tbl Word := []
  resume : Option (BitVec 256) := none
  fatal : Option (ErrInfo × DWord × BitVec 16 × BitVec 16) := none
  early : Word := 0
  strapId : DeviceId := 0
deriving DecidableEq, Repr

/-- Bunch gating (R408 to R415) and the RST block (R404): gated bunches, those whose bank 0 was selected for retention when they were gated (R181), held ones, those in preparation and waking, by bit; the sprigs of a gated
bunch that restart when it wakes; an accepted POWER_STATE request; whether the core domain is in reset; units in reset; PORST of
RST_CAUSE; the watchdog, with AON_TICKS of its latest restart; RST_XSTAT. -/
structure Power where
  gated : DWord := 0
  kept : DWord := 0
  hold : DWord := 1
  prep : DWord := 0
  waking : DWord := 0
  restart : Tbl Word := []
  request : Option (CmdSrc × PowerState) := none
  coreReset : Bool := false
  inReset : List Part := []
  porst : Bool := true
  wdogEn : Bool := false
  wdogMs : BitVec 16 := 0x03E8#16
  wdogAt : BitVec 48 := 0
  xstat : BitVec 16 := 0
deriving DecidableEq, Repr

end Sys2Proof.Machine
end

