-- ==== Sys2Proof/Machine/TimeData.lean ====
section
/-!
DEFINITION. Sys2Proof/Machine/TimeData.lean: device time, capture channels, the trigger fabric, comparators, deadline monitors,
deal units and the slack controller (spec/07_time_and_deals.md).
-/
namespace Sys2Proof.Machine

/-- The DTIME value that means never (R216). -/
def never : DWord := BitVec.allOnes 64

/-- DTIME and the TIME block's own registers (R216 to R225). `frac` is the 32-bit accumulator below the tick, `running` says
whether CK_TIME runs, `ref` the reference in use, `skips` the open ranges of instants that steps and reloads skipped
(`true`: by a reload); `uncertStop` and `aonStop` what the always-on domain saved at the stop; `holdBase` the uncertainty at the
entry of HOLDOVER and `holdNs` the time spent in it; `unplanned`: the stop was not planned (R401). -/
structure TimeBlk where
  dtime : DWord := 0
  frac : Word := 0
  trim : Word := 0
  busy : Bool := false
  stat : BitVec 5 := 0
  qual : BitVec 2 := 0
  uncert : Word := 0
  rtcPpm : BitVec 16 := 0
  sleepDt : DWord := 0
  sleepN : BitVec 48 := 0
  running : Bool := true
  ref : BitVec 1 := 0
  skips : List (DWord × DWord × Bool) := []
  uncertStop : Word := 0
  aonStop : BitVec 48 := 0
  holdBase : Word := 0
  holdNs : Nat := 0
  unplanned : Bool := false
deriving DecidableEq, Repr

/-- A capture channel (R226 to R228): its FIFO of stamps with their polarity, oldest first, and the edge that it holds until the smallest
spacing has passed, with whether EDGE selects it. -/
structure Capture where
  fifo : List (DWord × Bool) := []
  hold : Option (DWord × Bool × Bool) := none
  ovf : Bool := false
  glitch : Byte := 0
  lost : Byte := 0
deriving DecidableEq, Repr

/-- A channel as reset leaves it. -/
def Capture.reset : Capture := {}

/-- One master's pop buffer of a capture channel (R228). -/
structure PopBuf where
  valid : Bool := false
  stamp : DWord := 0
  pol : Bool := false
deriving DecidableEq, Repr

/-- An empty pop buffer. -/
def PopBuf.reset : PopBuf := {}

/-- A comparator (R233, R234); `since` is the DTIME at which its instant was set, which decides whether a step skipped it. -/
structure Cmp where
  cmp : DWord := never
  per : Word := 0
  armed : Bool := false
  pend : Bool := false
  ovr : Bool := false
  stepped : Bool := false
  skip : BitVec 16 := 0
  since : DWord := 0
deriving DecidableEq, Repr

/-- A comparator as reset leaves it. -/
def Cmp.reset : Cmp := {}

/-- A deadline monitor (R235 to R237). -/
structure Dm where
  armed : Bool := false
  miss : Bool := false
  stepped : Bool := false
  overrun : Bool := false
  missCnt : BitVec 16 := 0
  slack : Word := 0x7FFFFFFF#32
  dl : DWord := never
  since : DWord := 0
deriving DecidableEq, Repr

/-- A monitor as reset leaves it. -/
def Dm.reset : Dm := {}

/-- A queued deal: value, time word (instant or offset), issuing sprig, and its release instant once it is known: at acceptance in
timed mode, at the taking edge in triggered mode (R239, R244). -/
structure DealEntry where
  value : Word
  time : DWord
  g : SprigId
  release : Option DWord
  since : DWord
deriving DecidableEq, Repr

/-- A deal unit (R238 to R246): its queue, oldest first, and the pulse return edges pending with the level they restore. -/
structure DealUnit where
  queue : List DealEntry := []
  returns : List (DWord × Bool) := []
  tail : DWord := 0
  last : BitVec 4 := 0
  mcause : BitVec 4 := 0
  tempty : Byte := 0
  late : Byte := 0
  order : Byte := 0
  missed : Byte := 0
  other : Byte := 0
deriving DecidableEq, Repr

/-- A unit as reset leaves it. -/
def DealUnit.reset : DealUnit := {}

/-- DEAL_SSTAT of a sprig (R245). -/
structure SStat where
  outcome : BitVec 4 := 0
  refcnt : Byte := 0
  num : BitVec 16 := 0
deriving DecidableEq, Repr

/-- As reset leaves it. -/
def SStat.reset : SStat := {}

/-- Who watches a trigger line: a sprig event latch, a deal unit in triggered mode, a monitor's auto-arm, a monitor watching an
EVENT, a hand committing AT_BOUNDARY, a quadrature decoder's sample, a serial master's frame start, a CoaXPress trigger. -/
inductive Sink where
  | latch (g : SprigId) (e : BitVec 3)
  | deal (u : BitVec 16)
  | arm (k : BitVec 12)
  | watch (k : BitVec 12)
  | hand (slot : BitVec 4)
  | sample (k : BitVec 6)
  | serial (j : BitVec 6)
  | camera (x : BitVec 4)
deriving DecidableEq, Repr

/-- The trigger fabric (R229 to R232): line levels and stamps, software bits, and the rising edges on their way to sinks. -/
structure Fabric where
  level : Tbl Bool := []
  stamp : Tbl DWord := []
  sw : BitVec 256 := 0
  edges : List (Sink × DWord) := []
deriving DecidableEq, Repr

/-- The crossing in front of an event latch (R395, R396): a handshake in progress, and whether an edge merged during it. -/
structure LatchX where
  busy : Bool := false
  again : Bool := false
  resync : Bool := false
deriving DecidableEq, Repr

/-- As reset leaves it. -/
def LatchX.reset : LatchX := {}

/-- The slack and voltage controller (R247 to R250): `cur` holds the smallest sample of each bunch in the running period, `powers` the input
power in each of the latest 10 µs, the newest first. -/
structure Slack where
  capped : Bool := false
  vt : Byte := 0x3C#8
  vmeas : Byte := 0x3C#8
  missCnt : BitVec 16 := 0
  missCapped : BitVec 16 := 0
  slackMin : Word := 0x7FFFFFFF#32
  bslack : Tbl Word := []
  cur : Tbl Word := []
  pin : BitVec 16 := 0
  powers : List (BitVec 16) := []
  floorSent : Bool := false
  thermal : Bool := false
deriving DecidableEq, Repr

end Sys2Proof.Machine
end

