-- ==== Sys2Proof/Machine/TlData.lean ====
section
/-!
DEFINITION. Sys2Proof/Machine/TlData.lean: Teinglink ports, pairs of devices, remote DMA and system time (spec/17_teinglink.md).
-/
namespace Sys2Proof.Machine

/-- STATE of TL_STAT (R450). -/
inductive TlState where
  | down
  | training
  | idcheck
  | up
  | refused
deriving DecidableEq, Repr

def TlState.code : TlState → BitVec 3
  | .down => 0
  | .training => 1
  | .idcheck => 2
  | .up => 3
  | .refused => 4

/-- What a flit that the device sent carries (R429, R432). -/
inductive TlItem where
  | ident (i : Ident)
  | message (d : DeviceId) (pseq : BitVec 16)
  | ack (d : DeviceId) (pseq : BitVec 16)
  | nak (d : DeviceId) (pseq : BitVec 16)
  | heartbeat (d : DeviceId)
  | time
  | sync (d : DeviceId) (pepoch : Byte) (inc : BitVec 16) (counts : List (Nat × Nat))
  | forward (f : Flit) (arrived : BitVec 2)
deriving DecidableEq, Repr

/-- A port (R430, R431, R450): its registers; the next LSEQ to send and to accept; whether the first discarded flit was answered with a NAK;
the replay buffer; the consecutive replays without progress; the link credits spent, by class and virtual channel (R432). -/
structure TlPort where
  st : TlState := .down
  cause : BitVec 4 := 0
  lchg : Bool := false
  crcErr : BitVec 16 := 0
  replays : BitVec 16 := 0
  nbr : DeviceId := 0
  nbrPort : BitVec 2 := 0
  delay : Word := 0
  tx : BitVec 12 := 0
  rx : BitVec 12 := 0
  nakked : Bool := false
  buf : List (BitVec 12 × TlItem) := []
  stuck : Nat := 0
  spent : Tbl Nat := []
deriving DecidableEq, Repr

/-- A port as reset leaves it. -/
def TlPort.reset : TlPort := {}

/-- The state of a pair (R451). -/
inductive PairState where
  | idle
  | active
  | lost
  | syncing
deriving DecidableEq, Repr

def PairState.code : PairState → BitVec 2
  | .idle => 0
  | .active => 1
  | .lost => 2
  | .syncing => 3

/-- The pair with another device (R437, R441 to R444): LOST or SYNCING, else idle; its epoch; the peer's incarnation and whether it is
known; the PSEQ of the first unacknowledged message (the messages themselves stand in transit, in order) and how many have been sent; the
PSEQ expected next; whether a gap was answered with a NAK; the cards accepted from the peer's channels, with their PSEQs, that no
acknowledgement it has received covers. -/
structure PairRec where
  st : PairState := .idle
  pepoch : Byte := 0
  inc : BitVec 16 := 0
  known : Bool := false
  acked : BitVec 16 := 0
  sent : Nat := 0
  rx : BitVec 16 := 0
  nakked : Bool := false
  fresh : List (BitVec 16 × Nat) := []
deriving DecidableEq, Repr

/-- A pair as reset leaves it. -/
def PairRec.reset : PairRec := {}

/-- A queued remote DMA descriptor (R440). -/
structure RdmaJob where
  b : BunchId
  off : BitVec 21
  words : CardWords
  who : Master
deriving DecidableEq, Repr

/-- The synchronisation engine and the device's remote DMA (R440, R445, R446): averaged offset in ps, the offsets of the running average,
exchanges within ±100 ps; the queue of descriptors and DONE; the items beside messages that wait for a port, in order. -/
structure TlBlk where
  tofs : Word := 0
  offsets : List Int := []
  fine : Nat := 0
  joined : Bool := false
  rdma : List RdmaJob := []
  rdmaDone : BitVec 16 := 0
  wait : List TlItem := []
deriving DecidableEq, Repr

end Sys2Proof.Machine
end

