-- ==== Sys2Proof/Machine/State.lean ====
section
/-!
DEFINITION. Sys2Proof/Machine/State.lean: the whole state of the device as plain data, the reasons a command can stop, and the
state right after reset.
-/
namespace Sys2Proof.Machine

/-- Why a command stops with a fault. -/
inductive Fault where
  /-- Raised by a command one of whose operands names a unit that the spec says does not exist (a channel above 35, for
  example). Safe: no bus carries such a command. -/
  | illFormed
deriving DecidableEq, Repr

/-- Why a command has no meaning. -/
inductive Refusal where
  /-- Raised by the arms of Machine/Dispatch.lean that have no meaning yet. Safe: nothing can be proved of such a command. -/
  | notModelled (mnemonic : String)
deriving DecidableEq, Repr

/-- A register access' answer (R13): data, whether any byte is marked poisoned, and whether it ended as a Completer Abort
(of a peer: was refused with ABANDONED, R381); the bytes of an answer longer than a word, each with its mark (R165). -/
structure ReadBack where
  value : Word := 0
  poisoned : Bool := false
  abort : Bool := false
  data : List Byte := []
  marks : List Bool := []
deriving DecidableEq, Repr

/-- The core domain and what stands beside it, apart from the fuses and the island. -/
structure Core where
  sprigs : Tbl Sprig := []
  queues : Tbl Queue := []
  chans : Tbl Chan := []
  posyNext : Tbl (BitVec 5) := []
  hqps : Tbl Hqp := []
  cmdPairs : List (BitVec 8) := []
  cmdRegs : Tbl Word := []
  hchans : Tbl Chan := [(257, { Chan.reset with credit := 64 })]
  fly : List Flight := []
  bcasts : Tbl (Option Bcast) := []
  nextBcast : Nat := 0
  mem : List Host.Cell := []
  parity : Tbl Bool := []
  ecc : Tbl EccMark := []
  csEcc : Tbl EccMark := []
  leases : Tbl Lease := []
  banks : Tbl BankArb := []
  port1 : ReadBack := {}
  port2 : ReadBack := {}
  cfg : Tbl Word := []
  regs : Tbl Word := []
  err : ErrBlk := {}
  fatal : Option ErrInfo := none
  quiesce : List (Part × DWord) := []
  partEpoch : Tbl Byte := []
  held : Tbl Bool := []
  farHeld : Tbl Bool := []
  impSerial : Tbl Nat := []
  hmem : List Host.Cell := []
  dev : DeviceId := 0
  time : TimeBlk := {}
  caps : Tbl Capture := []
  pops : Tbl PopBuf := []
  cmps : Tbl Cmp := []
  dms : Tbl Dm := []
  deals : Tbl DealUnit := []
  sstats : Tbl SStat := []
  fabric : Fabric := {}
  latchX : Tbl LatchX := []
  slack : Slack := {}
  bics : Tbl Bic := []
  hic : Hic := {}
  fioBanks : Tbl Bank := []
  pins : Tbl Pin := []
  lvIn : Word := 0
  lvOut : Word := 0
  qds : Tbl Qd := []
  serials : Tbl Serial := []
  serShadows : Tbl (Option SerShadow) := []
  eths : Tbl Eth := []
  cxps : Tbl Cxp := []
  dmas : Tbl Dma := []
  gdcs : Tbl Gdc := []
  cmds : Tbl (List Cmd) := []
  halves : Tbl (Option HalfCmd) := []
  replies : Tbl (List (Nat × CardWords)) := []
  nextCmd : Nat := 0
  hands : Tbl Hand := []
  store : Store := {}
  handLines : Tbl (BitVec 12) := []
  met : Met := {}
  tlPorts : Tbl TlPort := []
  peers : Tbl PairRec := []
  tl : TlBlk := {}
  boot : Boot := {}
  resumeRec : Option ResumeRec := none
  mon : Mon := {}
  aon : Aon := {}
  power : Power := {}
  staged : Tbl Word := []
  shadows : Tbl (Option Word) := []
  rdata : Tbl ReadBack := []
  free : Nat := 0
deriving DecidableEq, Repr

/-- The whole machine: the commands waiting, first in first out; the core domain; the fuses; the island. -/
structure State where
  pending : List Instr := []
  core : Core := {}
  sec : Sec := {}
  isl : Island := {}
deriving DecidableEq, Repr

/-- The machine right after reset. -/
def State.reset : State := {}

end Sys2Proof.Machine
end

