-- ==== Sys2Proof/Machine/Ops.lean ====
section
/-!
DEFINITION. Sys2Proof/Machine/Ops.lean: the named operations every family uses: lifting an effect on the core to a step, access
to the tables of the state, settings, memory bytes and their error marks, the error log, freezing a master.
-/
namespace Sys2Proof.Machine

/-- The outcome of a command. -/
abbrev Out := Host.Outcome State Fault Refusal

/-- A command whose effect lies in the core alone: the queue, the fuses and the island stay as they are. -/
def onCore (f : Core → Core) (s : State) : Out := .next { s with core := f s.core }

/-- The same, for a command whose operands may name a unit that does not exist. -/
def onCoreIf (ok : Bool) (f : Core → Core) (s : State) : Out :=
  if ok then .next { s with core := f s.core } else .fault .illFormed

/-- The number under which a master's own words are kept (R17, R219, R228). -/
def masterKey : Master → Nat
  | .sprig g => g.toNat
  | .host f => 4096 + f.toNat
  | .monitor => 4112
  | .bootRom => 4113
  | .peer d => 8192 + d.toNat

/-- Sprigs 0.0 to 0.3 belong to the Steward (R24). -/
def isSteward (g : SprigId) : Bool := decide (g.toNat < 4)

/-- The bunch of a sprig (R23). -/
def bunchOf (g : SprigId) : BunchId := (g >>> 5).setWidth 6

/-- The index of a sprig in its bunch. -/
def inBunch (g : SprigId) : BitVec 5 := g.setWidth 5

/-- Sprig s of bunch b. -/
def sprigAt (b : BunchId) (s : BitVec 5) : SprigId := b ++ s

/-- The sprigs of a bunch. -/
def sprigsOf (b : BunchId) : List SprigId := (List.range 32).map fun s => sprigAt b (BitVec.ofNat 5 s)

/-- The device-wide index of queue q of sprig g (R26). -/
def queueAt (g : SprigId) (q : BitVec 3) : QueueId := g ++ q

/-! ### Tables -/

def Core.sprig (c : Core) (g : SprigId) : Sprig := Tbl.get c.sprigs g.toNat Sprig.reset
def Core.setSprig (c : Core) (g : SprigId) (x : Sprig) : Core := { c with sprigs := Tbl.set c.sprigs g.toNat x Sprig.reset }
/-- Sprig g changed by `f`. -/
def Core.modSprig (c : Core) (g : SprigId) (f : Sprig → Sprig) : Core := c.setSprig g (f (c.sprig g))

def Core.queue (c : Core) (i : QueueId) : Queue := Tbl.get c.queues i.toNat Queue.reset
def Core.setQueue (c : Core) (i : QueueId) (x : Queue) : Core := { c with queues := Tbl.set c.queues i.toNat x Queue.reset }

/-- The number of channel n of sprig g. -/
def chanKey (g : SprigId) (n : BitVec 4) : Nat := 16 * g.toNat + n.toNat
def Core.chan (c : Core) (g : SprigId) (n : BitVec 4) : Chan := Tbl.get c.chans (chanKey g n) Chan.reset
def Core.setChan (c : Core) (g : SprigId) (n : BitVec 4) (x : Chan) : Core :=
  { c with chans := Tbl.set c.chans (chanKey g n) x Chan.reset }

def Core.hqp (c : Core) (h : BitVec 8) : Hqp := Tbl.get c.hqps h.toNat Hqp.reset
def Core.setHqp (c : Core) (h : BitVec 8) (x : Hqp) : Core := { c with hqps := Tbl.set c.hqps h.toNat x Hqp.reset }
def Core.hchan (c : Core) (h : BitVec 8) : Chan := Tbl.get c.hchans h.toNat Chan.reset
def Core.setHchan (c : Core) (h : BitVec 8) (x : Chan) : Core := { c with hchans := Tbl.set c.hchans h.toNat x Chan.reset }

/-- The number of lease slot l of bunch b. -/
def leaseKey (b : BunchId) (l : BitVec 2) : Nat := 4 * b.toNat + l.toNat
def Core.lease (c : Core) (b : BunchId) (l : BitVec 2) : Lease := Tbl.get c.leases (leaseKey b l) Lease.reset
def Core.setLease (c : Core) (b : BunchId) (l : BitVec 2) (x : Lease) : Core :=
  { c with leases := Tbl.set c.leases (leaseKey b l) x Lease.reset }

/-- Register words that nothing derives: the value at a device address, or the reset value given. -/
def Core.reg (c : Core) (a : Nat) (d : Word) : Word := Tbl.get c.regs a d
def Core.setReg (c : Core) (a : Nat) (v d : Word) : Core := { c with regs := Tbl.set c.regs a v d }

/-- Device address of the register word at byte offset `off` of block slot `slot` (R42). -/
def regAt (slot off : Nat) : Nat := 0x6000000000 + slot * 0x100000 + off

/-! ### Bunch gating (R409, R410) -/

/-- Whether a bunch is gated, or gated and waking. -/
def Core.asleep (c : Core) (b : BunchId) : Bool := c.power.gated.getLsbD b.toNat || c.power.waking.getLsbD b.toNat

/-- An access reaches bunch b: it stalls while the bunch is gated, and it aborts a gating in preparation. -/
def Core.reach (c : Core) (b : BunchId) (k : Core → Core) : Core :=
  if c.asleep b then c
  else k { c with power := { c.power with prep := c.power.prep &&& ~~~(1#64 <<< b.toNat) } }

/-! ### Settings (R352) -/

/-- The setting ID of the register word at byte offset `off` of block slot `slot`. -/
def sid (slot off : Nat) : Nat := slot * 0x1000000 + off / 4

/-- The setting ID of sprig-owned control-page value k of sprig g. -/
def spgSid (g : SprigId) (k : Nat) : Nat := 0x30000000 + 16 * g.toNat + k

/-! ### Memory -/

/-- The byte at a device address; memory that nothing has written reads 0 (R180, R310). -/
def Core.byte (c : Core) (a : Nat) : Byte := Tbl.get c.mem a 0
def Core.setByte (c : Core) (a : Nat) (v : Byte) : Core := { c with mem := Tbl.set c.mem a v 0 }

/-- `n` bytes from `a`, lowest address first. -/
def Core.bytes (c : Core) (a : Nat) : Nat → List Byte
  | 0 => []
  | n + 1 => c.byte a :: Core.bytes c (a + 1) n

/-- The bytes `bs` stored from `a` upwards. -/
def Core.setBytes (c : Core) (a : Nat) : List Byte → Core
  | [] => c
  | b :: bs => (c.setByte a b).setBytes (a + 1) bs

/-- Little-endian (R12): the word whose byte 0 comes first. -/
def wordOf : List Byte → Word
  | [] => 0
  | b :: bs => (wordOf bs <<< 8) ||| b.setWidth 32

/-- The `n` low bytes of a value, lowest first. -/
def bytesOf {w : Nat} (v : BitVec w) : Nat → List Byte
  | 0 => []
  | n + 1 => v.setWidth 8 :: bytesOf (v >>> 8) n

def Core.word (c : Core) (a : Nat) : Word := wordOf (c.bytes a 4)
def Core.setWord (c : Core) (a : Nat) (v : Word) : Core := c.setBytes a (bytesOf v 4)

/-- Device addresses of the repeated regions (R38). -/
def scratchBase (b : BunchId) : Nat := 0x4000000000 + b.toNat * 0x200000
def localsBase (g : SprigId) : Nat := 0x4800000000 + g.toNat * 0x20000
def storeBase (g : SprigId) : Nat := 0x5000000000 + g.toNat * 0x8000

/-- The error mark of the 64-bit ECC word of a scratchpad that holds address `a` (R163), and of the control-store word (R128). -/
def Core.mark (c : Core) (a : Nat) : EccMark := Tbl.get c.ecc (a / 8) .ok
def Core.setMark (c : Core) (a : Nat) (m : EccMark) : Core := { c with ecc := Tbl.set c.ecc (a / 8) m .ok }
def Core.csMark (c : Core) (a : Nat) : EccMark := Tbl.get c.csEcc (a / 4) .ok
def Core.setCsMark (c : Core) (a : Nat) (m : EccMark) : Core := { c with csEcc := Tbl.set c.csEcc (a / 4) m .ok }

/-- Whether the byte at `a` of a local bank or instruction RAM has bad parity (R158). -/
def Core.badParity (c : Core) (a : Nat) : Bool := Tbl.get c.parity a false
def Core.setParity (c : Core) (a : Nat) (v : Bool) : Core := { c with parity := Tbl.set c.parity a v false }

/-! ### The error log (R374 to R377) -/

/-- Entries that are not free: those not acknowledged, not accepted, or not copied while the host ring is enabled (R377). -/
def ErrBlk.used (e : ErrBlk) : Nat :=
  max (e.tail - e.ack).toNat (max (e.tail - e.sacc).toNat (if e.hqCfg.getLsbD 31 then (e.tail - e.hcopy).toNat else 0))

/-- A 16-bit count that saturates. -/
def satInc16 (x : BitVec 16) : BitVec 16 := if x = 0xFFFF#16 then x else x + 1

/-- One error is logged, or counted as lost (R377). -/
def Core.log (c : Core) (e : ErrInfo) : Core :=
  let b := c.err
  if (e.cls = 0 ∧ 1024 - b.used < 16) ∨ 1024 ≤ b.used then
    { c with err := { b with
        lostCorrected := if e.cls = 0 then satInc16 b.lostCorrected else b.lostCorrected
        lostOther := if e.cls = 0 then b.lostOther else satInc16 b.lostOther
        lostSince := b.lostSince + 1 } }
  else
    let entry : ErrEntry := ⟨e, c.time.dtime, b.seq, BitVec.ofNat 16 (min b.lostSince 0xFFFF)⟩
    { c with err := { b with
        ring := Tbl.set b.ring (b.tail.toNat % 1024) (some entry) none
        tail := b.tail + 1
        seq := b.seq + 1
        lostSince := 0 } }

/-- Error sources (R375). -/
def masterSource : Master → Byte
  | .sprig _ => 0x30
  | .host _ => 0x31
  | .peer _ => 0x32
  | .monitor => 0x12
  | .bootRom => 0x30

/-- The UNIT word that names a master. -/
def masterNum : Master → Word
  | .sprig g => g.setWidth 32
  | .host f => f.setWidth 32
  | .peer d => d.setWidth 32
  | .monitor => 0
  | .bootRom => 0

/-- An IGNORED_WRITE entry naming the rule that ignored it (R376). -/
def Core.ignored (c : Core) (m : Master) (rule : Nat) (a : Addr) : Core :=
  c.log { cls := 0, source := masterSource m, code := 0x0007, unit := masterNum m, detail := BitVec.ofNat 16 rule, addr := a }

/-- An UNMAPPED_READ entry (R41, R58). -/
def Core.logRead (c : Core) (m : Master) (a : Addr) : Core :=
  c.log { cls := 0, source := masterSource m, code := 0x0006, unit := masterNum m, detail := 0, addr := a }

/-! ### Freezing a master (R77, R78, R381 to R384, R389) -/

/-- A producer's open stream is to be closed by a close card with this cause (R389). -/
def Chan.closing (x : Chan) (cause : BitVec 3) (now : DWord) : Chan :=
  if x.isOpen then { x with close := some (cause, now) } else x

/-- Every open channel of sprig g gets a close card to send. -/
def Core.closeStreams (c : Core) (g : SprigId) (cause : BitVec 3) : Core :=
  (List.range 16).foldl (fun c n =>
    c.setChan g (BitVec.ofNat 4 n) ((c.chan g (BitVec.ofNat 4 n)).closing cause c.time.dtime)) c

/-- A FREEZE entry (R383, R384). -/
def Core.logFreeze (c : Core) (m : Master) (cause : Byte) : Core :=
  c.log { cls := 1, source := masterSource m, code := 0x000C, unit := masterNum m, detail := cause.setWidth 16, addr := 0 }

/-- The OPEN hands of an owner that is reset, or of a sprig that is frozen, become FOLDED (R355). -/
def Core.ownerGone (c : Core) (o : HandOwner) : Core :=
  { c with hands := c.hands.map fun e =>
      if e.2.st = .open ∧ e.2.owner = o then (e.1, { e.2 with st := .folded, entries := [], loads := [], sys := none }) else e }

/-- A sprig is frozen; FAULT_PC takes the PC at which a thaw resumes it (R78). One already frozen keeps its CAUSE (R384). -/
def Core.freezeSprig (c : Core) (g : SprigId) (cause : Byte) (pc : BitVec 16) : Core :=
  let s := c.sprig g
  if s.state = .frozen then c.logFreeze (.sprig g) cause
  else
    (((c.setSprig g { s with
        state := .frozen, cause := cause, faultPc := pc,
        req := { s.req with rank1 := none, trace := false, block := .none, stepping := false } }).closeStreams g 1).ownerGone
      (.sprig g)).logFreeze (.sprig g) cause

/-- A host function or Teinglink peer is frozen (R381, R382). A function's open inbound streams close under R389: its pairs are
those whose HQP_CFG names it. -/
def Core.freezeMaster (c : Core) (m : Master) (cause : Byte) : Core :=
  match m with
  | .sprig g => c.freezeSprig g cause (c.sprig g).pc
  | .host f =>
    (if Tbl.get c.err.ffrz f.toNat 0 = 0 then
      { c with
        err := { c.err with ffrz := Tbl.set c.err.ffrz f.toNat cause 0 }
        hchans := c.hchans.map fun e =>
          if ((Tbl.get c.cfg (sid 0x0B (0xC0008 + 0x40 * e.1)) 0) >>> 25).setWidth 4 = f then
            (e.1, e.2.closing 5 c.time.dtime) else e }
    else c).logFreeze m cause
  | .peer d =>
    (if Tbl.get c.err.pfrz d.toNat 0 = 0 then
      { c with err := { c.err with pfrz := Tbl.set c.err.pfrz d.toNat cause 0 } } else c).logFreeze m cause
  | .monitor => c
  | .bootRom => c

/-- The causes of R78 and R382. -/
def causePerm : Byte := 1
def causeCredit : Byte := 2
def causeFrame : Byte := 3
def causeVector : Byte := 4
def causeCommand : Byte := 5

/-! ### CRC-32 (R264, R459) -/

/-- CRC-32 of IEEE 802.3 (R429): the remainder after one byte, least significant bit first. -/
def crcBits (r : Word) : Nat → Word
  | 0 => r
  | n + 1 => crcBits (if r.getLsbD 0 then (r >>> 1) ^^^ 0xEDB88320#32 else r >>> 1) n
def crc32 (bs : List Byte) : Word := ~~~(bs.foldl (fun r b => crcBits (r ^^^ b.setWidth 32) 8) 0xFFFFFFFF#32)

end Sys2Proof.Machine
end

