-- ==== Sys2Proof/Machine/Flags.lean ====
section
/-!
DEFINITION. Sys2Proof/Machine/Flags.lean: the status word's bits (R49), and the integer results with the flags they give (R94 to
R96, R139). Instructions and micro-ops share them.
-/
namespace Sys2Proof.Machine

/-- A word with bit i set to b. -/
def putBit {w : Nat} (x : BitVec w) (i : Nat) (b : Bool) : BitVec w :=
  if b then x ||| (1#w <<< i) else x &&& ~~~(1#w <<< i)

/-- Bit numbers of SW (R49). -/
def bitZ : Nat := 0
def bitN : Nat := 1
def bitC : Nat := 2
def bitV : Nat := 3
def bitSats : Nat := 4
def bitFinv : Nat := 5
def bitFovf : Nat := 6
def bitFunf : Nat := 7
def bitFinx : Nat := 8
def bitPien : Nat := 14
def bitPtrace : Nat := 15

/-- The RW fields of SW (R49): bits 15, 14 and 8 to 0. -/
def swMask : Word := 0x0000C1FF#32

/-- MOV to SW writes every RW field at once. -/
def swWrite (old v : Word) : Word := (old &&& ~~~swMask) ||| (v &&& swMask)

/-- MODE fields (R50). -/
def modeIen (m : Word) : Bool := m.getLsbD 0
def modeSat (m : Word) : Bool := m.getLsbD 1
def modeRnd (m : Word) : BitVec 2 := (m >>> 2).setWidth 2
def modeLane (m : Word) : BitVec 2 := (m >>> 4).setWidth 2
def modeFprm (m : Word) : BitVec 2 := (m >>> 6).setWidth 2
def modeTrace (m : Word) : Bool := m.getLsbD 8
/-- The fields of MODE; the other bits are reserved. -/
def modeMask : Word := 0x000001FF#32

/-- A result with the flags its instruction sets; `none` leaves a flag as it is. `clip` says that it was saturated or clipped. -/
structure AluOut where
  r : Word
  c : Option Bool := none
  v : Option Bool := none
  clip : Bool := false
deriving DecidableEq, Repr

/-- The largest and smallest signed words. -/
def maxI : Word := 0x7FFFFFFF#32
def minI : Word := 0x80000000#32

/-- A signed sum brought into range when `sat` (R96); `exact` is the true signed result. -/
def satWord (sat : Bool) (wrapped : Word) (exact : Int) : Word × Bool :=
  if exact > 2147483647 then (if sat then maxI else wrapped, true)
  else if exact < -2147483648 then (if sat then minI else wrapped, true)
  else (wrapped, false)

/-- A + B + carry (R95: carry out of bit 31, signed overflow). -/
def aluAdd (a b : Word) (cin sat : Bool) : AluOut :=
  let k := if cin then 1 else 0
  let (r, ov) := satWord sat (a + b + BitVec.ofNat 32 k) (a.toInt + b.toInt + k)
  { r := r, c := some (decide (4294967296 ≤ a.toNat + b.toNat + k)), v := some ov, clip := sat && ov }

/-- A − B (R95: C is 1 when no borrow). -/
def aluSub (a b : Word) (sat : Bool) : AluOut :=
  let (r, ov) := satWord sat (a - b) (a.toInt - b.toInt)
  { r := r, c := some (decide (b.toNat ≤ a.toNat)), v := some ov, clip := sat && ov }

/-- AND, OR and XOR clear V (R95). -/
def aluLogic (r : Word) : AluOut := { r := r, v := some false }

/-- SHL by 0 to 63 (R95). -/
def aluShl (a : Word) (n : BitVec 6) : AluOut :=
  let k := n.toNat
  { r := a <<< k, c := if k = 0 then none else some (if k ≤ 32 then a.getLsbD (32 - k) else false) }

/-- SHR by 0 to 63 (R95). -/
def aluShr (a : Word) (n : BitVec 6) : AluOut :=
  let k := n.toNat
  { r := a >>> k, c := if k = 0 then none else some (if k ≤ 32 then a.getLsbD (k - 1) else false) }

/-- SAR by 0 to 63 (R95): beyond 32 the result and C are the sign. -/
def aluSar (a : Word) (n : BitVec 6) : AluOut :=
  let k := n.toNat
  { r := a.sshiftRight k, c := if k = 0 then none else some (if k ≤ 32 then a.getLsbD (k - 1) else a.msb) }

/-- ROT, left by the count modulo 32. -/
def aluRot (a : Word) (n : BitVec 6) : AluOut := { r := a.rotateLeft (n.toNat % 32) }

/-- MIN and MAX, signed or unsigned. -/
def aluMin (u : Bool) (a b : Word) : AluOut := { r := if (if u then a.ult b else a.slt b) then a else b }
def aluMax (u : Bool) (a b : Word) : AluOut := { r := if (if u then b.ult a else b.slt a) then a else b }

/-- ABS and NEG set V for 0x8000_0000 (R95). -/
def aluAbs (a : Word) : AluOut := { r := if a.msb then 0 - a else a, v := some (decide (a = minI)) }
def aluNeg (a : Word) : AluOut := { r := 0 - a, v := some (decide (a = minI)) }

/-- Leading zeros, 0 to 32. -/
def clz (a : Word) : Nat := if a = 0 then 32 else 31 - a.toNat.log2
def aluClz (a : Word) : AluOut := { r := BitVec.ofNat 32 (clz a) }

/-- An integer brought into [lo, hi]. -/
def clampInt (x lo hi : Int) : Int := if x < lo then lo else if hi < x then hi else x

/-- SAT to k + 1 bits, signed or unsigned (R94). -/
def aluSatTo (a : Word) (k : BitVec 5) (u : Bool) : AluOut :=
  let w := k.toNat + 1
  let x := a.toInt
  let y := if u then clampInt x 0 (2 ^ w - 1) else clampInt x (-(2 ^ (w - 1))) (2 ^ (w - 1) - 1)
  { r := BitVec.ofInt 32 y, clip := decide (y ≠ x) }

/-- CLIPS: A clipped to [−B, B]; with B negative the result is 0 and counts as clipped (R139). -/
def aluClips (a b : Word) : AluOut :=
  if b.msb then { r := 0, clip := true }
  else
    let y := clampInt a.toInt (-b.toInt) b.toInt
    { r := BitVec.ofInt 32 y, clip := decide (y ≠ a.toInt) }

/-- The 64-bit product, signed or unsigned. -/
def mul64 (u : Bool) (a b : Word) : DWord :=
  if u then a.setWidth 64 * b.setWidth 64 else a.signExtend 64 * b.signExtend 64

/-- SW after an integer result: Z and N from the result, C and V where the operation gives them (R95), SATS when it clipped. -/
def swInt (sw : Word) (o : AluOut) : Word :=
  let s := putBit (putBit sw bitZ (decide (o.r = 0))) bitN o.r.msb
  let s := match o.c with | some b => putBit s bitC b | none => s
  let s := match o.v with | some b => putBit s bitV b | none => s
  if o.clip then putBit s bitSats true else s

/-- The division of R97, towards zero: quotient and remainder. -/
def divide (u : Bool) (a b : Word) : Word × Word :=
  if u then (a / b, a % b) else (BitVec.ofInt 32 (a.toInt.tdiv b.toInt), BitVec.ofInt 32 (a.toInt.tmod b.toInt))

end Sys2Proof.Machine
end

