-- ==== Sys2Proof/Machine/Scratch.lean ====
section
/-!
DEFINITION. Sys2Proof/Machine/Scratch.lean: the scratchpad's banks: their ECC words, the verdict of the lease slots, arbitration, and
how a granted access is served (R161 to R178).
-/
namespace Sys2Proof.Machine

/-- The setting-page views (R353). -/
def inPages (off : BitVec 21) : Bool := decide (0x1F6000 ≤ off.toNat) && decide (off.toNat < 0x1F8000)

/-- The mailbox (R170). -/
def inMailbox (off : BitVec 21) : Bool := decide (0x1F8000 ≤ off.toNat)

/-- The bank of an offset, and its ECC word's number (R161). -/
def offBank (off : BitVec 21) : BitVec 4 := (off >>> 17).setWidth 4
def offWord (off : BitVec 21) : BitVec 18 := (off >>> 3).setWidth 18

def bankKey (b : BunchId) (bank : BitVec 4) : Nat := 16 * b.toNat + bank.toNat
def Core.arb (c : Core) (b : BunchId) (bank : BitVec 4) : BankArb := Tbl.get c.banks (bankKey b bank) BankArb.reset
def Core.setArb (c : Core) (b : BunchId) (bank : BitVec 4) (x : BankArb) : Core :=
  { c with banks := Tbl.set c.banks (bankKey b bank) x BankArb.reset }

/-! ### Writes (R164, R165) -/

/-- A store by a whole-word writer: each ECC word it covers takes valid check bits, or the poisoned pattern when a byte it
carries is poisoned. A word covered in part keeps poison it holds; a double-bit error becomes poison. -/
def Core.storeEcc (c : Core) (a : Nat) (bs : List Byte) (poisoned : Bool) : Core :=
  let c := c.setBytes a bs
  let first := a / 8
  let last := (a + bs.length - 1) / 8
  (List.range (last + 1 - first)).foldl (fun c i =>
    let w := (first + i) * 8
    let whole := decide (a ≤ w) && decide (w + 8 ≤ a + bs.length)
    let old := c.mark w
    c.setMark w (if poisoned then .poisoned else if whole then .ok
      else match old with | .ok => .ok | .single => .ok | .double => .poisoned | .poisoned => .poisoned)) c

/-- A write to ECC word parts in the scratchpad by a bank: the stored word is re-encoded; poison it holds stays (R164). -/
def Core.bankWrite (c : Core) (b : BunchId) (off : BitVec 21) (bs : List Byte) : Core :=
  c.storeEcc (scratchBase b + off.toNat) bs false

/-! ### Reads (R163) -/

/-- The bank reads the ECC word that holds scratchpad offset `off`: a single-bit error is corrected and queued for rewrite, a
double-bit error leaves the poisoned pattern (R163). The result says whether the word reads poisoned. -/
def Core.readEcc (c : Core) (b : BunchId) (off : BitVec 21) (who : Byte) : Bool × Core :=
  let a := scratchBase b + off.toNat
  let bank := offBank off
  let entry (cls : BitVec 4) (code : BitVec 16) : ErrInfo :=
    { cls := cls, source := 0x34, code := code, unit := BitVec.ofNat 32 (bankKey b bank), detail := who.setWidth 16,
      addr := BitVec.ofNat 40 (a / 8 * 8) }
  match c.mark a with
  | .ok => (false, c)
  | .poisoned => (true, c)
  | .single =>
    let x := c.arb b bank
    let w := offWord off
    (false, (c.setArb b bank { x with ceWords := if w ∈ x.ceWords then x.ceWords else x.ceWords ++ [w] }).log
      (entry 0 0x0002))
  | .double => (true, (c.setMark a .poisoned).log (entry 1 0x0003))

/-- The ECC words that n bytes at `off` touch are read in turn; the result says of each whether it reads poisoned. -/
def Core.readEccs (c : Core) (b : BunchId) (off n : Nat) (who : Byte) : List Bool × Core :=
  (List.range ((off + n - 1) / 8 + 1 - off / 8)).foldl (fun (acc : List Bool × Core) i =>
    let (p, c) := acc.2.readEcc b (BitVec.ofNat 21 ((off / 8 + i) * 8)) who
    (acc.1 ++ [p], c)) ([], c)

/-- Bytes read from the scratchpad, and whether any is poisoned. -/
def Core.readScratch (c : Core) (b : BunchId) (off : BitVec 21) (n : Nat) (who : Byte) : List Byte × Bool × Core :=
  let (ps, c') := c.readEccs b off.toNat n who
  (c.bytes (scratchBase b + off.toNat) n, ps.any id, c')

/-- The bank performs an atomic: the word after it, the old value, and whether the word was poisoned (R172). -/
def Core.performAtomic (c : Core) (b : BunchId) (off : BitVec 21) (swap : Bool) (operand : Word) (who : Byte) :
    Word × Bool × Core :=
  let old := c.word (scratchBase b + off.toNat)
  let (p, c1) := c.readEcc b off who
  if p then (old, true, c1)
  else (old, false, c1.bankWrite b off (bytesOf (if swap then operand else old + operand) 4))

/-! ### Leases (R173 to R177) -/

/-- What a lease slot makes of an access to its region. -/
inductive Gate where
  | pass
  | wait
  | void (pred : BitVec 3)
deriving DecidableEq, Repr

/-- One slot's verdict on an access by requester `who`; `depth` is its handler depth when it is a sprig's own data access. An access
by another requester aborts a copy and revokes an active lease, which starts to restore. -/
def Lease.gate (x : Lease) (who : Byte) (depth : Option Nat) (region : BitVec 13) : Gate × Lease :=
  let mine := decide (who = x.holder.setWidth 8) && decide (depth = some x.depth)
  if x.region ≠ region then (.pass, x)
  else match x.st with
    | .free => (.pass, x)
    | .refused => (.pass, x)
    | .restoring => (.wait, x)
    | .copying => if mine then (.wait, x) else (.pass, { x with st := .refused, cause := 3, rows := 0 })
    | .active =>
      if mine then (.pass, x)
      else (.wait, { x with st := .restoring, revoker := who, byHandler := decide (who = x.holder.setWidth 8) })
    | .lost => if mine then (.void x.pred, x) else (.pass, x)

/-- The verdict of the bunch's four slots. -/
def Core.leaseGate (c : Core) (b : BunchId) (who : Byte) (depth : Option Nat) (off : BitVec 21) : Gate × Core :=
  (List.range 4).foldl (fun (acc : Gate × Core) l =>
    let x := acc.2.lease b (BitVec.ofNat 2 l)
    let v := x.gate who depth ((off >>> 8).setWidth 13)
    match acc.1 with
    | .pass => (v.1, if v.2 = x then acc.2 else acc.2.setLease b (BitVec.ofNat 2 l) v.2)
    | _ => acc) (.pass, c)

/-- A slot that becomes FREE keeps PRED and REGION, which only a TAKE latches (R174). -/
def Lease.freed (x : Lease) : Lease := { Lease.reset with pred := x.pred, region := x.region }

/-- The eight rows are copied into the lease buffer by the bank, which reads each of their ECC words, and the slot is ACTIVE (R163, R175). -/
def Core.copyLease (c : Core) (b : BunchId) (l : BitVec 2) : Core :=
  let x := c.lease b l
  let off := 256 * x.region.toNat
  let (ps, c') := c.readEccs b off 256 0x24
  c'.setLease b l { x with
    st := .active, rows := 8, buf := c.bytes (scratchBase b + off) 256
    marks := ps.map fun p => if p then EccMark.poisoned else .ok }

/-- The lease buffer is written back, with the poison that the copy captured (R176). -/
def Core.restore (c : Core) (b : BunchId) (x : Lease) : Core :=
  let a := scratchBase b + 256 * x.region.toNat
  let c := c.setBytes a x.buf
  (List.range 32).foldl (fun c k =>
    c.setMark (a + 8 * k) (match x.marks[k]? with
      | some .poisoned => .poisoned
      | some .double => .poisoned
      | _ => .ok)) c

/-! ### Arbitration (R166 to R168) -/

/-- The host and Teinglink ports arbitrate as one requester. -/
def portOf (who : BitVec 6) : BitVec 6 := if who = 0x23 then 0x22 else who

/-- Priority, lowest number first. -/
def reqRank (who : BitVec 6) : Nat :=
  match (portOf who).toNat with
  | 0x24 => 0
  | 0x20 => 1
  | 0x21 => 2
  | 0x22 => 3
  | n => 4 + n

/-- Rules 1 to 3: the requester granted last round, or granted while a request still waiting was waiting, is not eligible. -/
def BankArb.eligible (x : BankArb) (reqs : List ScrReq) (r : ScrReq) : Bool :=
  let w := portOf r.who
  decide (w = 0x24)
    || (decide (x.last ≠ some w) && !(x.behind.any fun e => decide (e.1 = w) && reqs.any fun q => decide (portOf q.who = e.2)))

/-- Rule 4: the eligible request of highest priority; the first to arrive among equals. -/
def BankArb.pick (x : BankArb) (reqs : List ScrReq) : Option ScrReq :=
  (reqs.filter (x.eligible reqs)).foldl (fun best r =>
    match best with
    | none => some r
    | some q => if reqRank r.who < reqRank q.who then some r else some q) none

/-- The arbitration record after a round that granted `r` among `reqs`. -/
def BankArb.granted (x : BankArb) (reqs : List ScrReq) (r : ScrReq) : BankArb :=
  let w := portOf r.who
  let waiting := (reqs.map fun q => portOf q.who).filter fun q => decide (q ≠ w)
  { x with
    last := some w
    behind := (x.behind.filter fun e => decide (e.1 ≠ w) && decide (e.2 ≠ w) && waiting.contains e.2)
      ++ waiting.dedup.map fun q => (w, q) }

/-- Requester `who` wins a round of its bank in which no other request waits: rounds that still hold the bank pass first, and the grant
stands in the bank's record. An atomic or a pair holds a second round, `word` being the atomic's ECC word. A command whose access wins its
bank by itself stands for such rounds (DESIGN CHOICE, log entry 68). -/
def Core.soloRound (c : Core) (b : BunchId) (off : BitVec 21) (who : BitVec 6) (second : Bool) (word : Option (BitVec 18)) : Core :=
  c.setArb b (offBank off) { c.arb b (offBank off) with
    last := some (portOf who), behind := [], hold := if second then 1 else 0, holdWord := word }

/-! ### Serving an access (R163 to R165, R172 to R177) -/

/-- The handler depth by which a lease judges a request: none for a fetch and for every requester but a sprig (R173). -/
def Core.reqDepth (c : Core) (b : BunchId) (r : ScrReq) : Option Nat :=
  if r.src = .fetch || decide (0x20 ≤ r.who.toNat) then none else some (c.sprig (sprigAt b (r.who.setWidth 5))).depth

/-- The access that revoked a lease stays held with it (R176). -/
def Core.holdAccess (c : Core) (b : BunchId) (r : ScrReq) : Core :=
  (List.range 4).foldl (fun c l =>
    let x := c.lease b (BitVec.ofNat 2 l)
    if x.st = .restoring ∧ x.releasing = false ∧ x.region = (r.off >>> 8).setWidth 13 ∧ x.held = none
        ∧ x.revoker = r.who.setWidth 8 then
      c.setLease b (BitVec.ofNat 2 l) { x with held := some r } else c) c

/-- What a served access delivers: data, poison, whether it holds the bank for a second round. -/
structure Served where
  c : Core
  out : List Byte
  poison : Bool
  second : Bool

/-- The bank serves an access: a row operation, or an atomic or pair in two. A host or Teinglink write to the setting-page views is
discarded (R353). -/
def Core.serve (c : Core) (b : BunchId) (r : ScrReq) : Served :=
  let a := scratchBase b + r.off.toNat
  let who : Byte := r.who.setWidth 8
  let drop (off : BitVec 21) : Bool := decide (portOf r.who = 0x22) && inPages off
  match r.kind with
  | .read =>
    let (bs, p, c') := c.readScratch b r.off r.len.toNat who
    ⟨c', bs, p, false⟩
  | .write data poisoned => ⟨if drop r.off then c else c.storeEcc a data poisoned, [], false, false⟩
  | .pair off2 x y => ⟨((c.bankWrite b r.off x).bankWrite b off2 y), [], false, true⟩
  | .aadd v =>
    let (old, p, c') := c.performAtomic b r.off false v who
    ⟨c', bytesOf old 4, p, true⟩
  | .aswp v =>
    let (old, p, c') := c.performAtomic b r.off true v who
    ⟨c', bytesOf old 4, p, true⟩

def isAtomicKind : ScrKind → Bool
  | .aadd _ => true
  | .aswp _ => true
  | _ => false

/-- The places that a request touches: offset and length of each (R161). -/
def reqParts (r : ScrReq) : List (BitVec 21 × Nat) :=
  match r.kind with
  | .read => [(r.off, r.len.toNat)]
  | .write data _ => [(r.off, data.length)]
  | .pair off2 x y => [(r.off, x.length), (off2, y.length)]
  | _ => [(r.off, 4)]

/-- A granted request meets the lease slots, then its bank. -/
def Core.grantReq (c : Core) (b : BunchId) (r : ScrReq) : Core :=
  let bank := offBank r.off
  let (gate, c) := (reqParts r).foldl (fun (acc : Gate × Core) p =>
    match acc.1 with
    | .pass => acc.2.leaseGate b (r.who.setWidth 8) (c.reqDepth b r) p.1
    | _ => acc) (.pass, c)
  match gate with
  | .wait => c.holdAccess b r
  | .void _ =>
    let x := c.arb b bank
    c.setArb b bank { x with out := List.replicate r.len.toNat 0, outPoison := false }
  | .pass =>
    let v := c.serve b r
    let x := v.c.arb b bank
    v.c.setArb b bank { x with
      out := v.out, outPoison := v.poison, hold := if v.second then 1 else 0
      holdWord := if isAtomicKind r.kind then some (offWord r.off) else none }

/-- The sequence of R176 ends: the region is restored, the slot is LOST, or FREE after a RELEASE, and the held access is served. -/
def Core.endRestore (c : Core) (b : BunchId) (l : BitVec 2) : Core :=
  let x := c.lease b l
  let c := (c.restore b x).setLease b l
    (if x.releasing then x.freed else { x with st := .lost, held := none, buf := [], marks := [], rows := 0 })
  match x.held with
  | none => c
  | some r => c.grantReq b r

/-- Every sequence that runs in the bunch ends (R176, R180). -/
def Core.settleLeases (c : Core) (b : BunchId) : Core :=
  (List.range 4).foldl (fun c l =>
    if (c.lease b (BitVec.ofNat 2 l)).st = .restoring then c.endRestore b (BitVec.ofNat 2 l) else c) c

/-- The requesters at the host and Teinglink port. -/
def isPortB (who : Byte) : Bool := decide (who = 0x22) || decide (who = 0x23)

/-- A unit's access to a region waits for a sequence that runs there, revokes the region's lease, and is served once the region is restored
(R176; log entry 14). At port B of the mailbox it waits for a copy to complete first (R171). -/
def Core.revoke (c : Core) (b : BunchId) (who : Byte) (region : BitVec 13) : Core :=
  let off : BitVec 21 := (region.setWidth 21) <<< 8
  let each (f : Core → BitVec 2 → Core) (st : LeaseState) (c : Core) : Core :=
    (List.range 4).foldl (fun c l =>
      let x := c.lease b (BitVec.ofNat 2 l)
      if x.st = st ∧ x.region = region then f c (BitVec.ofNat 2 l) else c) c
  let c := if isPortB who && inMailbox off then each (fun c l => c.copyLease b l) .copying c else c
  let c := each (fun c l => c.endRestore b l) .restoring c
  each (fun c l => c.endRestore b l) .restoring (c.leaseGate b who none off).2

/-- The regions that a range of scratchpad offsets touches. -/
def Core.revokeRange (c : Core) (b : BunchId) (who : Byte) (off n : Nat) : Core :=
  (List.range ((off + n - 1) / 256 + 1 - off / 256)).foldl (fun c i => c.revoke b who (BitVec.ofNat 13 (off / 256 + i))) c

/-- A unit's access to a range: its leases are revoked, and its rounds stand in the banks' records. At port B of the mailbox no round of
port A is used (R170). -/
def Core.unitAccess (c : Core) (b : BunchId) (who : Byte) (off n : Nat) : Core :=
  let c := c.revokeRange b who off n
  (List.range ((off + n - 1) / 0x20000 + 1 - off / 0x20000)).foldl (fun c i =>
    let o : BitVec 21 := BitVec.ofNat 21 (if i = 0 then off else (off / 0x20000 + i) * 0x20000)
    if isPortB who && inMailbox o then c else c.soloRound b o (who.setWidth 6) false none) c

end Sys2Proof.Machine
end

