-- ==== Sys2Proof/Machine/Cards.lean ====
section
/-!
DEFINITION. Sys2Proof/Machine/Cards.lean: the operations on cards, queues, channels and posies that several commands share
(spec/06_queues_and_cards.md).
-/
namespace Sys2Proof.Machine

/-! ### Words of a card -/

def CardWords.toList (c : CardWords) : List Word := [c.w0, c.w1, c.w2, c.w3, c.w4, c.w5, c.w6, c.w7]

/-- Word i of a card. -/
def cardWord (c : CardWords) (i : BitVec 3) : Word :=
  match i.toNat with
  | 0 => c.w0 | 1 => c.w1 | 2 => c.w2 | 3 => c.w3 | 4 => c.w4 | 5 => c.w5 | 6 => c.w6 | _ => c.w7

/-- Header flags (R183). -/
def flagPoison : Word := 0x00800000#32
def flagEpoch : Word := 0x00400000#32
def flagAbandoned : Word := 0x00200000#32
def flagSys : Word := 0x00100000#32
def flagLast : Word := 0x00080000#32

/-- The header with its hardware flags cleared, POISON set when a word is poisoned, and the epoch written (R111, R183). -/
def headerOf (w0 : Word) (poison : BitVec 8) (epoch : Byte) : Word :=
  let w := (w0 &&& 0xFF0F00FF#32) ||| (epoch.setWidth 32 <<< 8)
  if poison = 0 then w else w ||| flagPoison

/-- A header hardware makes: TYPE, FLAGS, EPOCH and TAG 0. -/
def sysHeader (type flags epoch : Byte) : Word :=
  (type.setWidth 32 <<< 24) ||| (flags.setWidth 32 <<< 16) ||| (epoch.setWidth 32 <<< 8)

/-- The EPOCH field of a header. -/
def headerEpoch (w : Word) : Byte := (w >>> 8).setWidth 8

def withEpoch (c : CardWords) (e : Byte) : CardWords :=
  { c with w0 := (c.w0 &&& 0xFFFF00FF#32) ||| (e.setWidth 32 <<< 8) }

/-! ### Producers -/

/-- The number of a producer among the channels that are not sprig channels: host pairs 0 to 255, the island, the error engine,
the Steward's reply channels. -/
def hchanKey : Producer → Nat
  | .chan _ _ _ => 0
  | .hostPair h => h.toNat
  | .farPair d h => 0x100000 + 256 * d.toNat + h.toNat
  | .island => 256
  | .errorEngine => 257
  | .steward i => 0x10000 + i.toNat

/-- A producer's channel record, when the producer is on this device. -/
def Core.prod (c : Core) (p : Producer) : Chan :=
  match p with
  | .chan _ g n => c.chan g n
  | q => Tbl.get c.hchans (hchanKey q) Chan.reset

def Core.setProd (c : Core) (p : Producer) (x : Chan) : Core :=
  match p with
  | .chan _ g n => c.setChan g n x
  | q => { c with hchans := Tbl.set c.hchans (hchanKey q) x Chan.reset }

/-- The device of a producer that is on another one. -/
def Core.awayDev (c : Core) (p : Producer) : Option DeviceId :=
  match p with
  | .chan d _ _ => if d = c.dev then none else some d
  | .farPair d _ => some d
  | _ => none

/-- Whether the producer is on this device. -/
def Core.isLocal (c : Core) (p : Producer) : Bool := (c.awayDev p).isNone

/-- The origin number of a producer's items. -/
def prodKey : Producer → Nat
  | .chan d g n => d.toNat * 0x10000 + chanKey g n
  | .farPair d h => 0x6000000 + 256 * d.toNat + h.toNat
  | p => 0x4000000 + hchanKey p

/-- Place numbers for the order of items in transit. -/
def queuePlace (i : QueueId) : Nat := 0x8000000 + i.toNat
def posyPlace (p : BitVec 10) : Nat := 0x9000000 + p.toNat
def pairPlace (h : BitVec 8) : Nat := 0xA000000 + h.toNat
def unitPlace (u : BitVec 16) : Nat := 0xB000000 + u.toNat
def devicePlace (d : DeviceId) : Nat := 0xC000000 + d.toNat

def parcelPlace : Parcel → Nat
  | .toQueue i _ _ => queuePlace i
  | .toPosy p _ => posyPlace p
  | .toPair h _ => pairPlace h
  | .toRemote w _ _ => devicePlace ((w >>> 23).setWidth 9)
  | .deal u _ _ _ => unitPlace u
  | .resolved p _ _ _ _ => prodKey p
  | .credit p _ _ => prodKey p
  | .notice p _ _ => prodKey p
  | .holdAck d _ => devicePlace d
  | .hold d _ _ => devicePlace d
  | .prepare d _ => devicePlace d
  | .vote d _ _ _ _ => devicePlace d
  | .decision d _ _ _ => devicePlace d
  | .isolated d _ => devicePlace d
  | .popped d _ => devicePlace d

/-- An item leaves `origin`. -/
def Core.launch (c : Core) (origin : Nat) (p : Parcel) : Core :=
  { c with fly := c.fly ++ [⟨origin, parcelPlace p, p⟩] }

/-- Whose card stands at a posy. -/
def Flight.atPosy (f : Flight) : Option Producer :=
  match f.parcel with
  | .toPosy _ card => some card.route
  | _ => none

/-- An earlier item keeps a later one back: both go from one origin to one target, or both are cards of one producer at posies, which are
dispatched in send order (R32, R34, R202). -/
def Flight.precedes (e f : Flight) : Bool :=
  (e.origin == f.origin && e.target == f.target) || (e.atPosy.isSome && e.atPosy == f.atPosy)

/-- The k-th item in transit may arrive: no earlier item keeps it back. -/
def Core.arrives (c : Core) (k : Nat) : Option Flight :=
  match c.fly[k]? with
  | none => none
  | some f => if (c.fly.take k).any (fun e => e.precedes f) then none else some f

/-- The k-th item is no longer in transit. -/
def Core.land (c : Core) (k : Nat) : Core := { c with fly := c.fly.eraseIdx k }

/-! ### Quiesce and holds -/

/-- Whether a part is in QUIESCE (R385). -/
def Core.quiet (c : Core) (p : Part) : Bool := c.quiesce.any fun e => e.1 == p

/-- Whether a sprig or its bunch is in QUIESCE. -/
def Core.quietSprig (c : Core) (g : SprigId) : Bool := c.quiet (.sprig g) || c.quiet (.bunch (bunchOf g))

/-- Whether dispatch through a posy is held (R207, R368); for a posy of another device, whether its HOLD notice stands. -/
def Core.isHeld (c : Core) (d : DeviceId) (p : BitVec 10) : Bool :=
  if d = c.dev then Tbl.get c.held p.toNat false else Tbl.get c.farHeld (d.toNat * 1024 + p.toNat) false

/-! ### Queue handles and configuration -/

/-- Fields of a queue handle (R27). -/
def handleDev (w : Word) : DeviceId := (w >>> 23).setWidth 9
def handlePosy (w : Word) : Bool := w.getLsbD 22
def handleQueue (w : Word) : QueueId := w.setWidth 14
def handlePosyIdx (w : Word) : BitVec 10 := w.setWidth 10
/-- R28. -/
def handleValid (w : Word) : Bool :=
  decide ((w >>> 14).setWidth 8 = 0#8) && (!handlePosy w || decide (w.setWidth 14 < 1024#14))
/-- The handle of a queue of this device. -/
def Core.handleOf (c : Core) (i : QueueId) : Word := (c.dev.setWidth 32 <<< 23) ||| i.setWidth 32

/-- The configuration word of queue i (R187), of channel n of sprig g (R194). -/
def Core.qcfg (c : Core) (i : QueueId) : Word := Tbl.get c.cfg (sid 0x0B (0x10 * i.toNat)) 0
def Core.shandle (c : Core) (g : SprigId) (n : BitVec 4) : Word :=
  Tbl.get c.cfg (sid 0x0B (0x80000 + 8 * chanKey g n)) 0
def Core.scfg (c : Core) (g : SprigId) (n : BitVec 4) : Word :=
  Tbl.get c.cfg (sid 0x0B (0x80004 + 8 * chanKey g n)) 0
/-- A configuration word of host queue pair h: of the command pairs 0 to 64 it stands beside the configuration store, which no hand may
stage for them (R197, R211, R341). -/
def Core.hqpReg (c : Core) (h : BitVec 8) (off : Nat) : Word :=
  if h.toNat ≤ 64 then Tbl.get c.cmdRegs (16 * h.toNat + off / 4) 0
  else Tbl.get c.cfg (sid 0x0B (0xC0000 + 0x40 * h.toNat + off)) 0
/-- A word of a command pair's configuration is set. -/
def Core.setCmdReg (c : Core) (h : BitVec 8) (off : Nat) (v : Word) : Core :=
  { c with cmdRegs := Tbl.set c.cmdRegs (16 * h.toNat + off / 4) v 0 }
def Core.posyReg (c : Core) (p : BitVec 10) (off : Nat) : Word :=
  Tbl.get c.cfg (sid 0x0B (0x40000 + 0x100 * p.toNat + off)) 0

/-! ### Posies (R203) -/

def Core.pctl (c : Core) (p : BitVec 10) : Word := c.posyReg p 0
def posyDef (w : Word) : Bool := w.getLsbD 31
def posyCount (w : Word) : Nat := (w.setWidth 6 : BitVec 6).toNat
def posyPolicy (w : Word) : BitVec 2 := (w >>> 29).setWidth 2
def Core.posyMember (c : Core) (p : BitVec 10) (m : Nat) : Word := c.posyReg p (0x80 + 4 * m)
def Core.members (c : Core) (p : BitVec 10) : List Word :=
  (List.range (posyCount (c.pctl p))).map fun m => c.posyMember p m
/-- The handle of a posy of this device. -/
def Core.posyHandle (c : Core) (p : BitVec 10) : Word := (c.dev.setWidth 32 <<< 23) ||| 0x00400000#32 ||| p.setWidth 32
/-- The local posy a handle names. -/
def Core.localPosy (c : Core) (w : Word) : Option (BitVec 10) :=
  if handlePosy w && decide (handleDev w = c.dev) then some (handlePosyIdx w) else none

/-- Whether a handle names a held posy, or a posy that reaches one by members of this device. -/
def Core.holdsAt (c : Core) : Nat → Word → Bool
  | 0, _ => false
  | n + 1, w => handlePosy w && (c.isHeld (handleDev w) (handlePosyIdx w) ||
      (decide (handleDev w = c.dev) && posyDef (c.pctl (handlePosyIdx w)) && (c.members (handlePosyIdx w)).any fun m => Core.holdsAt c n m))

/-- Whether dispatch of a card for this handle is held (R207). -/
def Core.handleHeld (c : Core) (handle : Word) : Bool :=
  (!c.held.isEmpty || !c.farHeld.isEmpty) && c.holdsAt 1025 handle

def qcfgEn (w : Word) : Bool := w.getLsbD 31
def qcfgRsize (w : Word) : Nat := ((w >>> 24).setWidth 4).toNat
/-- Scratchpad offset of the ring. -/
def qcfgRbase (w : Word) : Nat := (w &&& 0x001FFFE0#32).toNat
/-- Ring slots: 2^RSIZE, or none. -/
def ringSlots (w : Word) : Nat := if qcfgRsize w = 0 then 0 else 2 ^ qcfgRsize w

/-- The bunch of a queue's consumer. -/
def queueBunch (i : QueueId) : BunchId := (i >>> 8).setWidth 6
def queueSprig (i : QueueId) : SprigId := (i >>> 3).setWidth 11

/-- Cards in a queue (R190). Slots the walk has not passed count as none (R198). -/
def Queue.count (q : Queue) : Nat := (if q.mark then 1 else 0) + q.chain.length + q.ring.length

/-- Device address of ring slot x of queue i, and of its sideband (R188). -/
def slotAddr (i : QueueId) (w : Word) (x : Nat) : Nat := scratchBase (queueBunch i) + qcfgRbase w + 32 * (x % ringSlots w)
def sideAddr (i : QueueId) (w : Word) (x : Nat) : Nat :=
  scratchBase (queueBunch i) + qcfgRbase w + 32 * ringSlots w + 8 * (x % ringSlots w)

/-- Whether any ECC word of a range reads as poisoned. -/
def Core.poisonedRange (c : Core) (a n : Nat) : Bool :=
  (List.range ((a + n - 1) / 8 + 1 - a / 8)).any fun i =>
    match c.mark ((a / 8 + i) * 8) with | .double => true | .poisoned => true | _ => false

/-! ### The pointers of a ring (R193) -/

/-- The parity of a store of pointers: whether an odd number of their bits is set. -/
def ringParity (h t : BitVec 13) : Bool :=
  (List.range 13).foldl (fun b k => xor (xor b (h.getLsbD k)) (t.getLsbD k)) false
def RingPtrs.sound (p : RingPtrs) : Bool := p.parity == ringParity p.head p.tail

def Queue.head (q : Queue) : BitVec 13 := q.ptrs.head
/-- The stores agree, and neither has a parity error. -/
def Queue.ptrsAgree (q : Queue) : Bool := decide (q.ptrs = q.copy) && q.ptrs.sound && q.copy.sound
/-- An update writes both stores. -/
def Queue.point (q : Queue) (h t : BitVec 13) : Queue :=
  { q with ptrs := ⟨h, t, ringParity h t⟩, copy := ⟨h, t, ringParity h t⟩ }

def cardBytes (w : CardWords) : List Byte := (CardWords.toList w).flatMap fun x => bytesOf x 4

/-- The card a slot's 32 bytes hold. -/
def cardFromBytes (c : Core) (a : Nat) : CardWords :=
  { w0 := c.word a, w1 := c.word (a + 4), w2 := c.word (a + 8), w3 := c.word (a + 12),
    w4 := c.word (a + 16), w5 := c.word (a + 20), w6 := c.word (a + 24), w7 := c.word (a + 28) }

/-! ### Sending (R111, R196) -/

/-- A card takes the channel's next number and one credit. -/
def Chan.spend (x : Chan) : Chan :=
  { x with credit := x.credit - 1, nextSeq := x.nextSeq + 1, owed := x.owed ++ [⟨x.nextSeq, x.serial, none⟩] }

/-- A channel's record after it sends a card with header w0. -/
def Chan.sent (x : Chan) (w0 : Word) : Chan :=
  let last := decide (w0 &&& flagLast ≠ 0)
  { x.spend with
    isOpen := !last, since := if last then 0 else x.since + 1, lastTag := w0.setWidth 8 }

/-- Where a handle's card goes, seen from this device. -/
def Core.route (c : Core) (handle : Word) (card : Card) : Parcel :=
  if handleDev handle = c.dev then
    (if handlePosy handle then .toPosy (handlePosyIdx handle) card else .toQueue (handleQueue handle) card false)
  else .toRemote handle card false

/-- A card of producer p on its way to a posy keeps the place of the outbound slot while the posies that `handle` reaches are held: it is
not dispatched, and no later card leaves (R207; log entry 31). -/
def Core.outboundBusy (c : Core) (p : Producer) (handle : Word) : Bool :=
  c.handleHeld handle && c.fly.any fun f => f.atPosy == some p

/-- A card leaves on a channel of a sprig: one credit is spent; the card waits in the outbound slot while its posy is held. -/
def Core.sendOn (c : Core) (g : SprigId) (n : BitVec 4) (w : CardWords) (poison : BitVec 8) : Core :=
  let x := c.chan g n
  let p : Producer := .chan c.dev g n
  let card : Card :=
    { w := { w with w0 := headerOf w.w0 poison x.epoch }, poison := poison, route := p, serial := x.serial, seq := x.nextSeq }
  let x' := x.sent w.w0
  let kind := ((c.scfg g n) >>> 29).setWidth 2
  if kind = 1#2 then (c.setChan g n x').launch (prodKey p) (.toPair ((c.shandle g n).setWidth 8) card)
  else if c.handleHeld (c.shandle g n) then c.setChan g n { x' with out := some card }
  else (c.setChan g n x').launch (prodKey p) (c.route (c.shandle g n) card)

/-- Credits held as SPG_SCHn_CREDIT reads them (R195). -/
def Chan.readCredit (x : Chan) : BitVec 13 := if x.credit ≤ 0 then 0 else BitVec.ofNat 13 x.credit.toNat

/-- SPG_SCHn_CREDIT and HQP_STAT. -/
def Chan.statWord (x : Chan) : Word := x.outcome ++ x.refcnt ++ x.epoch ++ x.readCredit

/-! ### Resolution and credit return (R195, R196, R205) -/

/-- Outcomes (R195). -/
def outOk : BitVec 4 := 0
def outEpoch : BitVec 4 := 1
def outPortDown : BitVec 4 := 2
def outRemoteDown : BitVec 4 := 3
def outPeerLost : BitVec 4 := 4
def outStale : BitVec 4 := 5

/-- A resolution takes effect. A refusal adds 1 to REFCNT; its credit returns, whatever the serial (R196). -/
def Chan.settle (x : Chan) (r : Resolved) : Chan :=
  { x with
    outcome := r.outcome
    refcnt := if r.refused then x.refcnt + 1 else x.refcnt
    credit := if r.back then x.credit + 1 else x.credit }

/-- The resolutions that have arrived take effect in send order: none before that of an earlier card under the same serial (R195). -/
def Chan.settleInOrder (x : Chan) : Chan :=
  x.owed.foldl (fun y e =>
    match e.res with
    | some r => if y.owed.any fun o => decide (o.serial = e.serial) then { y with owed := y.owed ++ [e] } else y.settle r
    | none => { y with owed := y.owed ++ [e] }) { x with owed := [] }

/-- The resolution of card `seq` reaches its channel; the first acceptance after a notice becomes EPOCH_CHANGED (R198). One of a card that
the channel no longer counts has no effect (R442). -/
def Chan.resolve (x : Chan) (seq : Nat) (outcome : BitVec 4) (refused back : Bool) : Chan :=
  if x.owed.any fun o => decide (o.seq = seq) then
    let marked := x.noticed && !refused
    let r : Resolved := ⟨if marked && outcome = outOk then outEpoch else outcome, refused, back⟩
    let owed := x.owed.map fun o : Owed => if o.seq = seq then { o with res := some r } else o
    { x with noticed := if marked then false else x.noticed, owed := owed }.settleInOrder
  else x

/-- The card is refused: its resolution, which carries the credit, leaves for the producer. -/
def Core.refuse (c : Core) (origin : Nat) (card : Card) (outcome : BitVec 4) : Core :=
  if card.mute then c else c.launch origin (.resolved card.route outcome true card.bcast card.seq)

/-- The card is accepted: its resolution leaves for the producer. -/
def Core.accepted (c : Core) (origin : Nat) (card : Card) : Core :=
  if card.mute then c else c.launch origin (.resolved card.route outOk false card.bcast card.seq)

/-- The number under which this device knows a broadcast that device d counts (R205). -/
def farBcast (d : DeviceId) (b : Nat) : Nat := (d.toNat + 1) * 0x100000000 + b
/-- The device that counts a broadcast, when it is another one. -/
def bcastHome (b : Nat) : Option DeviceId := if b < 0x100000000 then none else some (BitVec.ofNat 9 (b / 0x100000000 - 1))

/-- The credit of a broadcast leaves: for its channel, or as a pop for the device of which it is a copy. -/
def Core.bcastCredit (c : Core) (origin : Nat) (x : Bcast) (refused : Bool) : Core :=
  if x.mute then c
  else match x.parent with
  | none => c.launch origin (.credit x.route x.serial refused)
  | some b => match bcastHome b with
    | some d => c.launch origin (.popped d (b % 0x100000000))
    | none => c

/-- One copy of a broadcast counted here has been popped (R205). -/
def Core.bcastPop (c : Core) (origin b : Nat) : Core :=
  match Tbl.get c.bcasts b none with
  | none => c
  | some x =>
    let x' := { x with unpopped := x.unpopped - 1 }
    let c := { c with bcasts := Tbl.set c.bcasts b (if x'.unresolved = 0 ∧ x'.unpopped = 0 then none else some x') none }
    if x'.unpopped = 0 then c.bcastCredit origin x' false else c

/-- The credit of a popped or discarded card leaves for its channel, unless its sideband was lost (R185). Of a broadcast card it
leaves with the last copy (R205). -/
def Core.returnCredit (c : Core) (origin : Nat) (card : Card) : Core :=
  if card.badSide then c
  else match card.bcast with
    | none => if card.mute then c else c.launch origin (.credit card.route card.serial false)
    | some b =>
      match bcastHome b with
      | some d => c.launch origin (.popped d (b % 0x100000000))
      | none => c.bcastPop origin b

/-! ### Deadline monitors that watch an occurrence (R235) -/

/-- The monitors with this WATCH and ARG, bound and enabled. -/
def Core.watchers (c : Core) (watch : BitVec 3) (arg : Word) : List (BitVec 12) :=
  ((List.filter (fun e : Nat × Word =>
    decide (sid 0x04 0x60000 ≤ e.1 ∧ e.1 < sid 0x04 0x80000 ∧ (e.1 - sid 0x04 0x60000) % 8 = 0)
      && e.2.getLsbD 31 && decide ((e.2 >>> 28).setWidth 3 = watch)
      && decide ((if watch = 4 then Tbl.get c.cfg (e.1 + 1) 0 &&& 0xFFF#32 else Tbl.get c.cfg (e.1 + 1) 0) = arg)) c.cfg).map
    fun e => BitVec.ofNat 12 ((e.1 - sid 0x04 0x60000) / 8))

/-- An occurrence at instant t is on its way to the monitors that watch it. -/
def Core.occur (c : Core) (watch : BitVec 3) (arg : Word) (t : DWord) : Core :=
  { c with fabric := { c.fabric with
      edges := c.fabric.edges ++ (c.watchers watch arg).map fun k => (Sink.watch k, t) } }

/-! ### Acceptance (R186, R190, R198) -/

/-- Why queue i refuses a card from `card.route`, if it does. No import entry holds a serial for another device's host pair. -/
def Core.queueRefusal (c : Core) (i : QueueId) (card : Card) (viaPosy : Bool) : Option (BitVec 4) :=
  let q := c.queue i
  if !qcfgEn (c.qcfg i) || c.quietSprig (queueSprig i) || !q.deferred.isEmpty then some outPortDown
  else
    let current := match card.route with
      | .chan d g n => if d = c.dev then (c.chan g n).serial else Tbl.get c.impSerial (d.toNat * 0x10000 + chanKey g n) 0
      | .farPair _ _ => card.serial
      | p => (c.prod p).serial
    let frozenPeer := match c.awayDev card.route with
      | some d => decide (Tbl.get c.err.pfrz d.toNat 0 ≠ 0)
      | none => false
    if frozenPeer then some outPortDown
    else if card.serial ≠ current then some outStale
    else if !viaPosy && decide (headerEpoch card.w.w0 ≠ q.epoch) then some outStale
    else none

/-- Whether queue i has a place for one more card: a free chain stage with an empty ring, or a free ring slot. -/
def Core.queueRoom (c : Core) (i : QueueId) : Bool :=
  let q := c.queue i
  (decide (q.chain.length < 4) && q.ring.isEmpty) || decide (q.walk.length + q.ring.length < ringSlots (c.qcfg i))

/-! ### Popping (R185, R199, R200) -/

/-- The EPOCH marker of a queue (R200). -/
def Queue.marker (q : Queue) : CardWords :=
  { w0 := sysHeader 0x01 0x50 q.epoch
    w1 := (q.resets.setWidth 32 <<< 16) ||| (q.epoch.setWidth 32 <<< 8) ||| q.first.setWidth 32
    w2 := q.discarded, w3 := q.cause.setWidth 32
    w4 := q.at_.setWidth 32, w5 := (q.at_ >>> 32).setWidth 32, w6 := 0, w7 := 0 }

/-- Whether a card or the marker stands at the head. -/
def Queue.headPresent (q : Queue) : Bool := q.mark || !q.chain.isEmpty

/-- What a popped card delivers: its words and poison bits, with the substitute header of R185. -/
def delivered (epoch : Byte) (card : Card) : RecvFill :=
  if card.badSide then ⟨{ card.w with w0 := sysHeader 0x05 0x90 epoch }, 0xFF⟩
  else if card.poison.getLsbD 0 then ⟨{ card.w with w0 := sysHeader 0x05 0x90 epoch }, card.poison &&& 0xFE⟩
  else ⟨card.w, card.poison⟩

/-- The head of queue i is removed; its credit leaves for its channel. `none` when no card stands at the head. -/
def Core.pop (c : Core) (i : QueueId) : Option (RecvFill × Core) :=
  let q := c.queue i
  if q.mark then
    some (⟨q.marker, 0⟩,
      c.setQueue i { q with mark := false, first := 0, resets := 0, discarded := 0, cause := 0, at_ := 0 })
  else match q.chain with
    | [] => none
    | card :: rest =>
      let c' := (c.setQueue i { q with chain := rest }).returnCredit (queuePlace i) card
      some (delivered q.epoch card,
        if card.badSide then
          c'.log { cls := 1, source := 0x0B, code := 0x0018, unit := i.setWidth 32, detail := 0, addr := 0 } else c')

/-! ### Reset of a queue (R198, R201) -/

/-- Channels bound directly to queue i of this device, host pairs whose destination it is, the import entries of other devices
that name it, the error engine for queue 7, the Steward's reply channel and the island (R198, R328, R345). -/
def Core.boundTo (c : Core) (i : QueueId) : List Producer :=
  let h := c.handleOf i
  let chans := (c.cfg.filter fun e : Nat × Word =>
      decide (sid 0x0B 0x80000 ≤ e.1 ∧ e.1 < sid 0x0B 0xC0000 ∧ e.1 % 2 = 1)
        && e.2.getLsbD 31 && decide ((e.2 >>> 29).setWidth 2 = 0#2) && decide (Tbl.get c.cfg (e.1 - 1) 0 = h)).map fun e : Nat × Word =>
    let k := (e.1 - sid 0x0B 0x80000) / 2
    Producer.chan c.dev (BitVec.ofNat 11 (k / 16)) (BitVec.ofNat 4 (k % 16))
  let pairs := (c.cfg.filter fun e : Nat × Word =>
      decide (sid 0x0B 0xC0000 ≤ e.1 ∧ e.1 < sid 0x0B 0xC4000 ∧ e.1 % 16 = 2) && e.2.getLsbD 31
        && decide (Tbl.get c.cfg (e.1 + 1) 0 = h)).map fun e : Nat × Word =>
    Producer.hostPair (BitVec.ofNat 8 ((e.1 - sid 0x0B 0xC0000) / 16))
  let imports := (c.cfg.filter fun e : Nat × Word =>
      decide (sid 0x0B 0xC4000 ≤ e.1 ∧ e.1 < sid 0x0B 0xCC000 ∧ e.1 % 2 = 0) && e.2.getLsbD 31
        && decide (Tbl.get c.cfg (e.1 + 1) 0 &&& 0x08003FFF#32 = i.setWidth 32)).map fun e : Nat × Word =>
    Producer.chan ((e.2 >>> 22).setWidth 9) ((e.2 >>> 11).setWidth 11) ((e.2 >>> 7).setWidth 4)
  chans ++ pairs ++ imports ++ (if i = 7#14 then [Producer.errorEngine] else [])
    ++ (if (c.qcfg i).getLsbD 30 then [Producer.steward i] else [])
    ++ (if (Tbl.get c.cfg (sid 0x13 0x104) 0).getLsbD 31 && decide (Tbl.get c.cfg (sid 0x13 0x100) 0 = h) then [Producer.island] else [])

/-- Instants of the last millisecond (8,000,000 ticks). -/
def recentOf (now : DWord) (l : List DWord) : List DWord := l.filter fun t => (now - t).toNat < 8000000

/-- Whether the sideband of ring slot x of queue i, whose configuration word is w, has VALID set (R188). -/
def Core.slotValid (c : Core) (i : QueueId) (w : Word) (x : Nat) : Bool := (c.byte (sideAddr i w x + 7)).getLsbD 7

/-- Queue i, whose configuration word is w, is reset now (R198): the epoch rises, the marker is set and covers the discarded cards, the
chain's credits leave, the ring's slots are left to the walk, and the notices leave. -/
def Core.resetNow (c : Core) (i : QueueId) (cause : BitVec 3) (w : Word) : Core :=
  let q := c.queue i
  let now := c.time.dtime
  let ring := (q.ring.zipIdx).filter fun e => c.slotValid i w (q.head.toNat + q.walk.length + e.2)
  let gone := q.chain ++ ring.map Prod.fst
  let viaPosy := (gone.map Card.route).dedup.filter fun p => !((c.boundTo i).contains p)
  let q' : Queue :=
    { q with
      epoch := q.epoch + 1, mark := true
      first := if q.mark then q.first else q.epoch
      resets := satInc16 q.resets
      discarded := BitVec.ofNat 32 (min (q.discarded.toNat + gone.length) 0xFFFFFFFF)
      cause := cause, at_ := now, chain := [], ring := [], walk := q.walk ++ q.ring
      recent := now :: recentOf now q.recent }
  let c := q.chain.foldl (fun c card => c.returnCredit (queuePlace i) card) (c.setQueue i q')
  let c := (c.boundTo i).foldl (fun c p => c.launch (queuePlace i) (.notice p (q.epoch + 1) true)) c
  viaPosy.foldl (fun c p => c.launch (queuePlace i) (.notice p (q.epoch + 1) false)) c

/-- A reset of queue i, whose configuration word is w: it waits behind those that wait, and when 255 have run within the last millisecond
(R201). -/
def Core.resetQueueAt (c : Core) (i : QueueId) (cause : BitVec 3) (w : Word) : Core :=
  let q := c.queue i
  if !q.deferred.isEmpty ∨ 255 ≤ (recentOf c.time.dtime q.recent).length then c.setQueue i { q with deferred := q.deferred ++ [cause] }
  else c.resetNow i cause w

def Core.resetQueue (c : Core) (i : QueueId) (cause : BitVec 3) : Core := c.resetQueueAt i cause (c.qcfg i)

/-- A mismatch of the pointer stores, or a parity error, resets the queue with cause POINTER (R193). -/
def Core.pointerReset (c : Core) (i : QueueId) : Core :=
  (c.log { cls := 1, source := 0x0B, code := 0x0009, unit := i.setWidth 32, detail := 0, addr := 0 }).resetQueue i 2

/-- An update of the ring's pointers writes both stores, which are compared (R193). -/
def Core.pointRing (c : Core) (i : QueueId) (h t : BitVec 13) : Core :=
  let q := c.queue i
  let c := c.setQueue i (q.point h t)
  if q.ptrsAgree then c else c.pointerReset i

/-- The pointer after another one. -/
def ringAfter (w : Word) (x : BitVec 13) : BitVec 13 := BitVec.ofNat 13 ((x.toNat + 1) % ringSlots w)

/-! ### Writing a card (R176, R190) -/

/-- The card is written into a chain stage, or at the ring's tail with its sideband, by the queue engine at the banks (R176, R190). -/
def Core.enqueue (c : Core) (i : QueueId) (card : Card) : Core :=
  let q := c.queue i
  if q.chain.length < 4 ∧ q.ring = [] then c.setQueue i { q with chain := q.chain ++ [card] }
  else
    let w := c.qcfg i
    let x := q.ptrs.tail.toNat
    let touch (c : Core) (a n : Nat) : Core := c.unitAccess (queueBunch i) 0x20 (a - scratchBase (queueBunch i)) n
    let c := touch (touch c (slotAddr i w x) 32) (sideAddr i w x) 8
    let c := (List.range 8).foldl (fun c k =>
      c.storeEcc (slotAddr i w x + 4 * k) (bytesOf (cardWord card.w (BitVec.ofNat 3 k)) 4)
        (card.poison.getLsbD k)) (c.storeEcc (slotAddr i w x) (List.replicate 32 0) false)
    let c := c.storeEcc (sideAddr i w x) [0, 0, 0, 0, 0, 0, 0, 0x80#8] false
    (c.setQueue i { q with ring := q.ring ++ [card] }).pointRing i q.ptrs.head (ringAfter w q.ptrs.tail)

end Sys2Proof.Machine
end

