-- ==== Sys2Proof/Machine/MetOps.lean ====
section
/-!
DEFINITION. Sys2Proof/Machine/MetOps.lean: the island's channel into the queue manager (spec/12_sorrel_island.md, R314, R328, R333).
-/
namespace Sys2Proof.Machine

/-- MET_QBIND and MET_QCFG. -/
def Core.metBind (c : Core) : Word := Tbl.get c.cfg (sid 0x13 0x100) 0
def Core.metCfg (c : Core) : Word := Tbl.get c.cfg (sid 0x13 0x104) 0
def metBound (w : Word) : Bool := w.getLsbD 31
def metWake (w : Word) : Bool := w.getLsbD 30

/-- The first card that waits on the result path may leave: the channel is bound and holds its credits, two for the first card of a record
(R328); a card that is sent again waits for every card before it to resolve (R202). The core runs. -/
def Core.metReady (c : Core) (m : MetCard) : Bool :=
  metBound c.metCfg && c.time.running && !c.power.coreReset
    && decide ((if m.first then 2 else 1) ≤ (c.prod .island).credit) && (!m.again || c.met.sent.isEmpty)

/-- Cards leave on the result path while they may; each takes the EPOCH that SEND writes (R111, R329). -/
def Core.metPump (c : Core) : Nat → Core
  | 0 => c
  | n + 1 =>
    match c.met.outq with
    | [] => c
    | m :: rest =>
      if !c.metReady m then c
      else
        let x := c.prod .island
        let card : Card := { w := withEpoch m.w x.epoch, route := .island, serial := x.serial, seq := x.nextSeq }
        let c := { c with met := { c.met with outq := rest, sent := c.met.sent ++ [{ m with seq := x.nextSeq }] } }
        let c := c.setProd .island x.spend
        (c.launch (prodKey .island) (c.route c.metBind card)).metPump n

/-- A refused card goes back behind the refused cards before it (R333). -/
def sendAgain (m : MetCard) : List MetCard → List MetCard
  | [] => [{ m with again := true }]
  | x :: rest => if x.again then x :: sendAgain m rest else { m with again := true } :: x :: rest

/-- Card `seq` of the island's channel has resolved: a refused card is sent again; a record is accepted once its card B is (R333). A card
that an island reset has disowned is not among those sent. -/
def Core.metResolved (c : Core) (seq : Nat) (refused : Bool) : Core :=
  match c.met.sent.find? fun m => decide (m.seq = seq) with
  | none => c
  | some m =>
    let c := { c with met := { c.met with sent := c.met.sent.filter fun x => decide (x.seq ≠ seq) } }
    let c := if refused then { c with met := { c.met with outq := sendAgain m c.met.outq } }
      else match m.rec? with
        | some q => { c with met := { c.met with waiting := c.met.waiting.erase q } }
        | none => c
    c.metPump 8

end Sys2Proof.Machine
end

