-- ==== Sys2Proof/Machine/Fp.lean ====
section
/-!
DEFINITION. Sys2Proof/Machine/Fp.lean: FP32 arithmetic (R98 to R100, R102): operands as exact numbers, one rounding at the end.
-/
namespace Sys2Proof.Machine

/-- The FP flags an operation raises (R99). -/
structure FpFlags where
  inv : Bool := false
  ovf : Bool := false
  unf : Bool := false
  inx : Bool := false
deriving DecidableEq, Repr

/-- Flags of SW are only ever set by FP instructions (R99). -/
def swFp (sw : Word) (f : FpFlags) : Word :=
  let s := if f.inv then putBit sw bitFinv true else sw
  let s := if f.ovf then putBit s bitFovf true else s
  let s := if f.unf then putBit s bitFunf true else s
  if f.inx then putBit s bitFinx true else s

/-- What a binary32 word holds; a subnormal reads as zero of its sign (R99). `fin s m e` is m times 2 to the e, m not 0. -/
inductive FpVal where
  | nan (signalling : Bool)
  | inf (s : Bool)
  | zero (s : Bool)
  | fin (s : Bool) (m : Nat) (e : Int)
deriving DecidableEq, Repr

def fpVal (x : Word) : FpVal :=
  let e := (x >>> 23).setWidth 8
  let m := x.setWidth 23
  if e = 0xFF#8 then (if m = 0 then .inf x.msb else .nan (!x.getLsbD 22))
  else if e = 0 then .zero x.msb
  else .fin x.msb (m.toNat + 8388608) ((e.toNat : Int) - 150)

def isSnan : FpVal → Bool
  | .nan b => b
  | _ => false

def isNan : FpVal → Bool
  | .nan _ => true
  | _ => false

/-- Every NaN result (R99). -/
def fpNan : Word := 0x7FC00000#32
def fpZero (s : Bool) : Word := if s then 0x80000000#32 else 0
def fpInf (s : Bool) : Word := if s then 0xFF800000#32 else 0x7F800000#32
def fpMax (s : Bool) : Word := if s then 0xFF7FFFFF#32 else 0x7F7FFFFF#32

/-- Whether a magnitude with kept part q and discarded part rem of 2^k rounds up (MODE.FPRM, R50). -/
def roundsUp (rm : BitVec 2) (s : Bool) (q rem k : Nat) : Bool :=
  match rm.toNat with
  | 0 => decide (2 ^ k < 2 * rem) || (decide (2 ^ k = 2 * rem) && decide (q % 2 = 1))
  | 1 => false
  | 2 => !s && decide (rem ≠ 0)
  | _ => s && decide (rem ≠ 0)

/-- The integer m times 2^-k rounded (R50, R100). The second component says whether it was inexact. -/
def roundShift (rm : BitVec 2) (s : Bool) (m k : Nat) : Nat × Bool :=
  let q := m / 2 ^ k
  let rem := m % 2 ^ k
  (if roundsUp rm s q rem k then q + 1 else q, decide (rem ≠ 0))

/-- The number (−1)^s m 2^e, m not 0, as a binary32 word: rounded to 24 bits as though the exponent were unbounded, then judged
for overflow and underflow (R99). -/
def fpRound (rm : BitVec 2) (s : Bool) (m : Nat) (e : Int) : Word × FpFlags :=
  let n := m.log2 + 1
  let (q0, inx) := if n ≤ 24 then (m * 2 ^ (24 - n), false) else roundShift rm s m (n - 24)
  let e0 : Int := e + ((n : Int) - 24)
  let (q, e1) := if q0 = 16777216 then (8388608, e0 + 1) else (q0, e0)
  let be : Int := e1 + 150
  if 255 ≤ be then
    let toInf := match rm.toNat with | 0 => true | 1 => false | 2 => !s | _ => s
    (if toInf then fpInf s else fpMax s, { ovf := true, inx := true })
  else if be ≤ 0 then (fpZero s, { unf := true, inx := true })
  else
    ((if s then 0x80000000#32 else 0) ||| (BitVec.ofInt 32 be <<< 23) ||| BitVec.ofNat 32 (q - 8388608),
      { inx := inx })

/-- The sign of an exact zero sum (IEEE 754: +0, but −0 when rounding down). -/
def zeroSum (rm : BitVec 2) : Word := fpZero (decide (rm = 3#2))

/-- Signed integer m times 2^e as a word. -/
def fpOfInt (rm : BitVec 2) (m e : Int) : Word × FpFlags :=
  if m = 0 then (zeroSum rm, {}) else fpRound rm (decide (m < 0)) m.natAbs e

/-- Adds two numbers neither of which is NaN. -/
def fpAddVal (rm : BitVec 2) : FpVal → FpVal → Word × FpFlags
  | .inf s, .inf t => if s = t then (fpInf s, {}) else (fpNan, { inv := true })
  | .inf s, _ => (fpInf s, {})
  | _, .inf t => (fpInf t, {})
  | .zero s, .zero t => (if s = t then fpZero s else zeroSum rm, {})
  | .zero _, .fin t m e => fpRound rm t m e
  | .fin s m e, .zero _ => fpRound rm s m e
  | .fin s m e, .fin t n f =>
    let lo := min e f
    let x : Int := (m * 2 ^ (e - lo).toNat : Nat)
    let y : Int := (n * 2 ^ (f - lo).toNat : Nat)
    fpOfInt rm ((if s then -x else x) + (if t then -y else y)) lo
  | _, _ => (fpNan, {})

/-- The exact product of two numbers neither of which is NaN; `none` for 0 × ∞. -/
def fpProd : FpVal → FpVal → Option FpVal
  | .inf s, .inf t => some (.inf (s != t))
  | .inf _, .zero _ => none
  | .zero _, .inf _ => none
  | .inf s, .fin t _ _ => some (.inf (s != t))
  | .fin s _ _, .inf t => some (.inf (s != t))
  | .zero s, .zero t => some (.zero (s != t))
  | .zero s, .fin t _ _ => some (.zero (s != t))
  | .fin s _ _, .zero t => some (.zero (s != t))
  | .fin s m e, .fin t n f => some (.fin (s != t) (m * n) (e + f))
  | _, _ => none

/-- A number as a word. -/
def fpOut (rm : BitVec 2) : FpVal → Word × FpFlags
  | .nan _ => (fpNan, {})
  | .inf s => (fpInf s, {})
  | .zero s => (fpZero s, {})
  | .fin s m e => fpRound rm s m e

/-- A with its sign turned, for subtraction. -/
def fpNegW (x : Word) : Word := x ^^^ 0x80000000#32

/-- FADD (R98, R99). -/
def fadd (rm : BitVec 2) (a b : Word) : Word × FpFlags :=
  let x := fpVal a
  let y := fpVal b
  if isNan x || isNan y then (fpNan, { inv := isSnan x || isSnan y }) else fpAddVal rm x y

/-- FSUB: a sum with the second sign turned. -/
def fsub (rm : BitVec 2) (a b : Word) : Word × FpFlags := fadd rm a (fpNegW b)

/-- FMUL. -/
def fmul (rm : BitVec 2) (a b : Word) : Word × FpFlags :=
  let x := fpVal a
  let y := fpVal b
  if isNan x || isNan y then (fpNan, { inv := isSnan x || isSnan y })
  else match fpProd x y with
    | none => (fpNan, { inv := true })
    | some p => fpOut rm p

/-- The fused c ± a × b, rounded once (R98, R104). -/
def fma (rm : BitVec 2) (neg : Bool) (c a b : Word) : Word × FpFlags :=
  let x := fpVal (if neg then fpNegW a else a)
  let y := fpVal b
  let z := fpVal c
  let sn := isSnan x || isSnan y || isSnan z
  if isNan x || isNan y then (fpNan, { inv := sn })
  else match fpProd x y with
    | none => (fpNan, { inv := true })
    | some p => if isNan z then (fpNan, { inv := sn }) else fpAddVal rm z p

/-- FCVT (R100): op, T and Q of the AUX field. -/
def fcvt (rm : BitVec 2) (op : BitVec 2) (t : Bool) (q : BitVec 5) (a : Word) : Word × FpFlags :=
  let intOut (lo hi : Int) : Word × FpFlags :=
    match fpVal a with
    | .nan _ => (0, { inv := true })
    | .inf s => (BitVec.ofInt 32 (if s then lo else hi), { inv := true })
    | .zero _ => (0, {})
    | .fin s m e =>
      let k : Int := e + (q.toNat : Int)
      let (n, inx) := if 0 ≤ k then (m * 2 ^ k.toNat, false) else roundShift (if t then 1#2 else rm) s m (-k).toNat
      let v : Int := if s then -(n : Int) else (n : Int)
      if v < lo then (BitVec.ofInt 32 lo, { inv := true })
      else if hi < v then (BitVec.ofInt 32 hi, { inv := true })
      else (BitVec.ofInt 32 v, { inx := inx })
  match op.toNat with
  | 0 => if a = 0 then (0, {}) else fpOfInt rm a.toInt (-(q.toNat : Int))
  | 1 => if a = 0 then (0, {}) else fpOfInt rm (a.toNat : Int) (-(q.toNat : Int))
  | 2 => intOut (-2147483648) 2147483647
  | _ => intOut 0 4294967295

/-- Less than, of two numbers neither of which is NaN. -/
def fpLess (x y : FpVal) : Bool :=
  match x, y with
  | .inf s, .inf t => s && !t
  | .inf s, _ => s
  | _, .inf t => !t
  | .zero _, .zero _ => false
  | .zero _, .fin t _ _ => !t
  | .fin s _ _, .zero _ => s
  | .fin s m e, .fin t n f =>
    let lo := min e f
    let x : Int := (m * 2 ^ (e - lo).toNat : Nat)
    let y : Int := (n * 2 ^ (f - lo).toNat : Nat)
    decide ((if s then -x else x) < (if t then -y else y))
  | _, _ => false

/-- The condition codes (R102); `none` for the reserved codes. -/
def cond (cc : BitVec 4) (a b : Word) : Option Bool :=
  let x := fpVal a
  let y := fpVal b
  let ok := !(isNan x || isNan y)
  match cc.toNat with
  | 0 => some (decide (a = b))
  | 1 => some (decide (a ≠ b))
  | 2 => some (a.slt b)
  | 3 => some (!a.slt b)
  | 4 => some (!b.slt a)
  | 5 => some (b.slt a)
  | 6 => some (a.ult b)
  | 7 => some (!a.ult b)
  | 8 => some (!b.ult a)
  | 9 => some (b.ult a)
  | 10 => some (ok && !fpLess x y && !fpLess y x)
  | 11 => some (ok && fpLess x y)
  | 12 => some (ok && !fpLess y x)
  | 13 => some (!ok)
  | _ => none

/-- A comparison with an FP condition sets FINV for a signalling NaN operand (R102). -/
def condInv (cc : BitVec 4) (a b : Word) : Bool :=
  decide (10 ≤ cc.toNat ∧ cc.toNat ≤ 13) && (isSnan (fpVal a) || isSnan (fpVal b))

end Sys2Proof.Machine
end

