-- ==== Sys2Proof/Machine/Acc.lean ====
section
/-!
DEFINITION. Sys2Proof/Machine/Acc.lean: accumulators, their packings and the arithmetic of the MAC family (R103 to R106).
-/
namespace Sys2Proof.Machine

/-- Lanes of a packing, and the bits of one (R103). PK 0b11 is the FP32 layout. -/
def laneCount (pk : BitVec 2) : Nat := match pk.toNat with | 0 => 1 | 1 => 2 | _ => 4
def laneBits (pk : BitVec 2) : Nat := match pk.toNat with | 0 => 80 | 1 => 40 | _ => 20
/-- Bits of the element STAS stores for a lane. -/
def elemBits (pk : BitVec 2) : Nat := match pk.toNat with | 0 => 32 | 1 => 16 | _ => 8

/-- Lane i, signed. -/
def lane (ac : BitVec 80) (pk : BitVec 2) (i : Nat) : Int :=
  ((ac >>> (laneBits pk * i)).setWidth (laneBits pk)).toInt

/-- All lanes of the accumulator, lane 0 first. -/
def lanes (ac : BitVec 80) (pk : BitVec 2) : List Int := (List.range (laneCount pk)).map (lane ac pk)

/-- Values packed into lanes of `bits` bits, lane 0 lowest; each wraps within its own bits. -/
def packLanes (w bits : Nat) : List Int → BitVec w
  | [] => 0
  | x :: xs => (BitVec.ofInt bits x).setWidth w ||| (packLanes w bits xs <<< bits)

/-- A lane's value brought into its signed range when `sat` (R106), and whether it was clipped. -/
def satLane (sat : Bool) (bits : Nat) (x : Int) : Int × Bool :=
  let y := clampInt x (-(2 ^ (bits - 1))) (2 ^ (bits - 1) - 1)
  if sat then (y, decide (y ≠ x)) else (x, false)

/-- Values packed into the accumulator with saturation; the second component says whether a lane was clipped. -/
def packAc (pk : BitVec 2) (sat : Bool) (xs : List Int) : BitVec 80 × Bool :=
  (packLanes 80 (laneBits pk) (xs.map fun x => (satLane sat (laneBits pk) x).1),
    xs.any fun x => (satLane sat (laneBits pk) x).2)

/-- The elements of a word, `n` of `b` bits, signed or unsigned, element 0 lowest. -/
def elems (x : Word) (n b : Nat) (signed : Bool) : List Int :=
  (List.range n).map fun i =>
    let e := (x >>> (b * i)).setWidth b
    if signed then e.toInt else (e.toNat : Int)

/-- Lane products of x and y. -/
def products (x y : Word) (n b : Nat) (ySigned : Bool) : List Int :=
  List.zipWith (· * ·) (elems x n b true) (elems y n b ySigned)

/-- MAC and MACS: the sum of the lane products of MODE.LANE is added to or taken from the 80-bit value (R104). -/
def macSum (ac : BitVec 80) (x y : Word) (laneMode : BitVec 2) (ySigned neg sat : Bool) : BitVec 80 × Bool :=
  let (n, b) := match laneMode.toNat with | 0 => (1, 32) | 1 => (2, 16) | _ => (4, 8)
  let p := (products x y n b ySigned).foldl (· + ·) 0
  packAc 0 sat [ac.toInt + (if neg then -p else p)]

/-- MACX2 and MACX4: lane by lane. -/
def macLanes (ac : BitVec 80) (x y : Word) (pk : BitVec 2) (neg sat : Bool) : BitVec 80 × Bool :=
  let ps := products x y (laneCount pk) (elemBits pk) true
  packAc pk sat (List.zipWith (fun a p => if neg then a - p else a + p) (lanes ac pk) ps)

/-- v / 2^k rounded by MODE.RND: towards −∞, half up, half to even, half away from zero (R50). -/
def roundInt (rnd : BitVec 2) (v : Int) (k : Nat) : Int :=
  if k = 0 then v
  else
    let d : Int := 2 ^ k
    let half : Int := 2 ^ (k - 1)
    let q := v / d
    let r := v % d
    match rnd.toNat with
    | 0 => q
    | 1 => (v + half) / d
    | 2 => if r > half ∨ (r = half ∧ q % 2 ≠ 0) then q + 1 else q
    | _ => if 0 ≤ v then (v + half) / d else -((-v + half) / d)

/-- RNDA: each lane rounded at bit k, bits below cleared. -/
def rndAc (ac : BitVec 80) (pk rnd : BitVec 2) (k : Nat) : BitVec 80 :=
  packLanes 80 (laneBits pk) ((lanes ac pk).map fun v => roundInt rnd v k * 2 ^ k)

/-- ASH: each lane shifted arithmetically, left when the amount is positive. -/
def ashAc (ac : BitVec 80) (pk : BitVec 2) (n : Int) : BitVec 80 :=
  packLanes 80 (laneBits pk) ((lanes ac pk).map fun v => if 0 ≤ n then v * 2 ^ n.toNat else v / 2 ^ (-n).toNat)

/-- The word STAS builds, and whether an element was clipped (R106). -/
def stasWord (ac : BitVec 80) (pk rnd : BitVec 2) (sat : Bool) (s : Nat) : Word × Bool :=
  if pk = 3#2 then (ac.setWidth 32, false)
  else
    let xs := (lanes ac pk).map fun v => satLane sat (elemBits pk) (roundInt rnd v s)
    (packLanes 32 (elemBits pk) (xs.map Prod.fst), xs.any Prod.snd)

end Sys2Proof.Machine
end

