-- ==== Sys2Proof/Machine/Trig.lean ====
section
/-!
DEFINITION. Sys2Proof/Machine/Trig.lean: the shared operations of device time: access to its units, trigger source events and the
edges they send to sinks, deadline monitors, slack samples (spec/07_time_and_deals.md).
-/
namespace Sys2Proof.Machine

/-! ### Units -/

def Core.cap (c : Core) (k : BitVec 9) : Capture := Tbl.get c.caps k.toNat Capture.reset
def Core.setCap (c : Core) (k : BitVec 9) (x : Capture) : Core := { c with caps := Tbl.set c.caps k.toNat x Capture.reset }
def Core.cmp (c : Core) (k : BitVec 12) : Cmp := Tbl.get c.cmps k.toNat Cmp.reset
def Core.setCmp (c : Core) (k : BitVec 12) (x : Cmp) : Core := { c with cmps := Tbl.set c.cmps k.toNat x Cmp.reset }
def Core.dm (c : Core) (k : BitVec 12) : Dm := Tbl.get c.dms k.toNat Dm.reset
def Core.setDm (c : Core) (k : BitVec 12) (x : Dm) : Core := { c with dms := Tbl.set c.dms k.toNat x Dm.reset }
def Core.unit (c : Core) (u : BitVec 16) : DealUnit := Tbl.get c.deals u.toNat DealUnit.reset
def Core.setUnit (c : Core) (u : BitVec 16) (x : DealUnit) : Core :=
  { c with deals := Tbl.set c.deals u.toNat x DealUnit.reset }
def Core.sstat (c : Core) (g : SprigId) : SStat := Tbl.get c.sstats g.toNat SStat.reset
def Core.setSstat (c : Core) (g : SprigId) (x : SStat) : Core := { c with sstats := Tbl.set c.sstats g.toNat x SStat.reset }
def Core.qd (c : Core) (k : BitVec 6) : Qd := Tbl.get c.qds k.toNat Qd.reset
def Core.setQd (c : Core) (k : BitVec 6) (x : Qd) : Core := { c with qds := Tbl.set c.qds k.toNat x Qd.reset }
def Core.serial (c : Core) (j : BitVec 6) : Serial := Tbl.get c.serials j.toNat Serial.reset
def Core.setSerial (c : Core) (j : BitVec 6) (x : Serial) : Core :=
  { c with serials := Tbl.set c.serials j.toNat x Serial.reset }
def Core.eth (c : Core) (p : BitVec 3) : Eth := Tbl.get c.eths p.toNat Eth.reset
def Core.setEth (c : Core) (p : BitVec 3) (x : Eth) : Core := { c with eths := Tbl.set c.eths p.toNat x Eth.reset }
def Core.cxp (c : Core) (x : BitVec 4) : Cxp := Tbl.get c.cxps x.toNat Cxp.reset
def Core.setCxp (c : Core) (x : BitVec 4) (v : Cxp) : Core := { c with cxps := Tbl.set c.cxps x.toNat v Cxp.reset }
def Core.dma (c : Core) (b : BunchId) : Dma := Tbl.get c.dmas b.toNat Dma.reset
def Core.setDma (c : Core) (b : BunchId) (x : Dma) : Core := { c with dmas := Tbl.set c.dmas b.toNat x Dma.reset }
def Core.bank (c : Core) (k : BitVec 3) : Bank := Tbl.get c.fioBanks k.toNat Bank.reset
def Core.setBank (c : Core) (k : BitVec 3) (x : Bank) : Core := { c with fioBanks := Tbl.set c.fioBanks k.toNat x Bank.reset }
def Core.pin (c : Core) (n : Byte) : Pin := Tbl.get c.pins n.toNat Pin.reset
def Core.setPin (c : Core) (n : Byte) (x : Pin) : Core := { c with pins := Tbl.set c.pins n.toNat x Pin.reset }

/-- Settings of these units, with their reset values. -/
def Core.timeReg (c : Core) (off : Nat) (d : Word) : Word := Tbl.get c.cfg (sid 0x04 off) d
def Core.dmCtl (c : Core) (k : BitVec 12) : Word := c.timeReg (0x60000 + 0x20 * k.toNat) 0
def Core.dmArg (c : Core) (k : BitVec 12) : Word := c.timeReg (0x60004 + 0x20 * k.toNat) 0
def Core.dmAuto (c : Core) (k : BitVec 12) : Word := c.timeReg (0x60018 + 0x20 * k.toNat) 0
def Core.capCfg (c : Core) (k : BitVec 9) : Word := c.timeReg (0x10000 + 0x20 * k.toNat) 0x20000000#32
def Core.lineCfg (c : Core) (l : BitVec 12) : Word := Tbl.get c.cfg (sid 0x05 (4 * l.toNat)) 0x0000FFFF#32
def Core.uctl (c : Core) (u : BitVec 16) : Word := Tbl.get c.cfg (sid 0x06 (0x40 * u.toNat)) 0
/-- The grant mask of a unit (R245). -/
def Core.ugrant (c : Core) (u : BitVec 16) : DWord :=
  (Tbl.get c.cfg (sid 0x06 (0x40 * u.toNat + 0x1C)) 0) ++ (Tbl.get c.cfg (sid 0x06 (0x40 * u.toNat + 0x18)) 0)
/-- FIO block words: pin configuration, decoder and serial configuration (R252, R258, R260). -/
def fioOff (k : Nat) (off : Nat) : Nat := k * 0x20000 + off
def Core.fioReg (c : Core) (k off : Nat) : Word := Tbl.get c.cfg (sid 0x07 (fioOff k off)) 0
def Core.pcfg (c : Core) (n : Byte) : Word := c.fioReg (n.toNat / 32) (4 * (n.toNat % 32))
def Core.lvPcfg (c : Core) (j : BitVec 5) : Word := c.fioReg 7 (0x10000 + 4 * j.toNat)
def Core.qdCfg (c : Core) (k : BitVec 6) : Word := c.fioReg (k.toNat / 8) (0x200 + 0x20 * (k.toNat % 8))
/-- The bank of a serial master, and the offset of its registers: SSI 0 to 31, then SPI 0 to 15 (R260). -/
def serialBank (j : BitVec 6) : Nat := if j.toNat < 32 then 4 + j.toNat / 16 else 6 + (j.toNat - 32) / 8
def serialOff (j : BitVec 6) : Nat :=
  if j.toNat < 32 then 0x400 + 0x40 * (j.toNat % 16) else 0x800 + 0x40 * ((j.toNat - 32) % 8)
/-- SSI_CFG or SPI_CFG, whose NBITS is 7 at reset (R260). -/
def Core.serCfg (c : Core) (j : BitVec 6) : Word :=
  Tbl.get c.cfg (sid 0x07 (fioOff (serialBank j) (serialOff j))) (if j.toNat < 32 then 0 else 0x03800000#32)
def Core.serClk (c : Core) (j : BitVec 6) : Word := c.fioReg (serialBank j) (serialOff j + 4)
def isSpi (j : BitVec 6) : Bool := decide (32 ≤ j.toNat)

/-- Deal units that exist (R238). -/
def unitExists (u : BitVec 16) : Bool :=
  decide (u.toNat < 0x108) || (decide (0x110 ≤ u.toNat) && decide (u.toNat < 0x120))

/-- Queue depth of a unit (R238). -/
def unitDepth (u : BitVec 16) : Nat := if 0x100 ≤ u.toNat ∧ u.toNat < 0x108 then 64 else 16

/-! ### Instants -/

/-- Whether an instant set when DTIME was `since` lies in a range that a step or reload skipped (R222, R224). -/
def TimeBlk.skipped (t : TimeBlk) (x since : DWord) : Bool :=
  t.skips.any fun r => decide (r.1 < x) && decide (x < r.2.1) && decide (since ≤ r.1)

/-- Whether it was a reload that skipped the instant (R241). -/
def TimeBlk.slept (t : TimeBlk) (x since : DWord) : Bool :=
  t.skips.any fun r => decide (r.1 < x) && decide (x < r.2.1) && decide (since ≤ r.1) && r.2.2

/-- The trigger lines whose configuration names a source and is enabled. -/
def Core.linesOf (c : Core) (src : BitVec 16) : List (BitVec 12) :=
  ((c.cfg.filter fun e : Nat × Word =>
    decide (sid 0x05 0 ≤ e.1 ∧ e.1 < sid 0x05 0x4000) && e.2.getLsbD 31 && decide (e.2.setWidth 16 = src)).map
    fun e => BitVec.ofNat 12 (e.1 - sid 0x05 0))

/-- Who watches trigger line l (R229 to R232, R235, R244, R259, R260, R357). -/
def Core.sinksOf (c : Core) (l : BitVec 12) : List Sink :=
  let named (lo hi : Nat) (p : Nat → Word → Option Sink) : List Sink :=
    c.cfg.filterMap fun e : Nat × Word => if lo ≤ e.1 ∧ e.1 < hi then p (e.1 - lo) e.2 else none
  named (sid 0x05 0x10000) (sid 0x05 0x20000) (fun k w =>
      if w.getLsbD 31 ∧ w.setWidth 12 = l then some (.latch (BitVec.ofNat 11 (k / 8)) (BitVec.ofNat 3 k)) else none)
  ++ named (sid 0x06 0) (sid 0x06 0x4800) (fun k w =>
      if k % 16 = 0 ∧ w.getLsbD 29 ∧ w.setWidth 12 = l then some (.deal (BitVec.ofNat 16 (k / 16))) else none)
  ++ named (sid 0x04 0x60000) (sid 0x04 0x80000) (fun k w =>
      if k % 8 = 6 ∧ w.getLsbD 31 ∧ (w >>> 19).setWidth 12 = l then some (.arm (BitVec.ofNat 12 (k / 8))) else none)
  ++ (c.watchers 4 (l.setWidth 32)).map Sink.watch
  ++ named (sid 0x07 0) (sid 0x07 0x100000) (fun k w =>
      let b := k * 4 / 0x20000
      let off := k * 4 % 0x20000
      if 0x200 ≤ off ∧ off < 0x300 ∧ off % 0x20 = 0 then
        (if w.getLsbD 31 ∧ w.getLsbD 24 ∧ w.setWidth 12 = l then
          some (.sample (BitVec.ofNat 6 (8 * b + (off - 0x200) / 0x20))) else none)
      else if (b = 4 ∨ b = 5) ∧ 0x400 ≤ off ∧ off < 0x800 ∧ off % 0x40 = 0 then
        (if w.getLsbD 31 ∧ w.setWidth 12 = l then
          some (.serial (BitVec.ofNat 6 (16 * (b - 4) + (off - 0x400) / 0x40))) else none)
      else if (b = 6 ∨ b = 7) ∧ 0x800 ≤ off ∧ off < 0xA00 ∧ off % 0x40 = 0 then
        (if w.getLsbD 31 ∧ w.setWidth 12 = l then
          some (.serial (BitVec.ofNat 6 (32 + 8 * (b - 6) + (off - 0x800) / 0x40))) else none)
      else none)
  ++ (c.handLines.filterMap fun e : Nat × BitVec 12 => if e.2 = l then some (.hand (BitVec.ofNat 4 e.1)) else none)

/-- A rising edge of line l with this stamp leaves for every sink (R231); a decoder's count at the edge is what it will sample (R259). -/
def Core.riseLine (c : Core) (l : BitVec 12) (stamp : DWord) : Core :=
  let sinks := c.sinksOf l
  let c := sinks.foldl (fun c k =>
    match k with
    | .sample j => c.setQd j { c.qd j with snaps := (c.qd j).snaps ++ [(c.qd j).count] }
    | _ => c) c
  { c with fabric := { c.fabric with
      stamp := Tbl.set c.fabric.stamp l.toNat stamp 0
      edges := c.fabric.edges ++ sinks.map fun k => (k, stamp) } }

/-- The level of line l. -/
def Core.lineLevel (c : Core) (l : BitVec 12) : Bool := Tbl.get c.fabric.level l.toNat false

/-- Line l takes the level that its configuration makes of its source's level, or pulses once for an event (R230). -/
def Core.driveLine (c : Core) (l : BitVec 12) (level event : Bool) (stamp : DWord) : Core :=
  let w := c.lineCfg l
  if w.getLsbD 30 then (if event then c.riseLine l stamp else c)
  else
    let new := level != w.getLsbD 29
    let old := c.lineLevel l
    let c := { c with fabric := { c.fabric with level := Tbl.set c.fabric.level l.toNat new false } }
    if new && !old then c.riseLine l stamp else c

/-- A source's level changes or its event occurs (R229): every line that follows it takes it. -/
def Core.source (c : Core) (src : BitVec 16) (level event : Bool) (stamp : DWord) : Core :=
  (c.linesOf src).foldl (fun c l => c.driveLine l level event stamp) c

/-- The first edge on its way to a sink, and the fabric without it. -/
def takeEdge (s : Sink) : List (Sink × DWord) → Option (DWord × List (Sink × DWord))
  | [] => none
  | e :: rest =>
    if e.1 = s then some (e.2, rest)
    else match takeEdge s rest with
      | none => none
      | some (t, r) => some (t, e :: r)

/-- Bits of TIME_STAT are set (R221 to R225). -/
def Core.setTimeStat (c : Core) (bits : BitVec 5) : Core :=
  { c with time := { c.time with stat := c.time.stat ||| bits } }

/-! ### Deadline monitors (R235, R236) -/

/-- The monitor bound to slot `slot` of sprig g (R236). -/
def Core.dmOf (c : Core) (g : SprigId) (slot : BitVec 2) : Option (BitVec 12) :=
  match (List.find? (fun e : Nat × Word =>
      decide (sid 0x04 0x60000 ≤ e.1 ∧ e.1 < sid 0x04 0x80000 ∧ (e.1 - sid 0x04 0x60000) % 8 = 0) && e.2.getLsbD 31
        && decide ((e.2 >>> 13).setWidth 11 = g) && decide ((e.2 >>> 24).setWidth 2 = slot)) c.cfg) with
  | none => none
  | some e => some (BitVec.ofNat 12 ((e.1 - sid 0x04 0x60000) / 8))

/-- Slack samples are credited to the owner's bunch: the smallest of the running period (R247, R248). -/
def Core.sample (c : Core) (b : BunchId) (ns : Int) : Core :=
  let v : Word := BitVec.ofInt 32 (clampInt ns (-2147483648) 2147483647)
  let old := Tbl.get c.slack.cur b.toNat maxI
  { c with slack := { c.slack with cur := Tbl.set c.slack.cur b.toNat (if v.slt old then v else old) maxI } }

/-- TIME_SLACK_CTL and TIME_VC_LIM. -/
def Core.slackCtl (c : Core) : Word := c.timeReg 0x104 0x00640401#32
def Core.vcLim (c : Core) : Word := c.timeReg 0x108 0x0000501E#32

/-- A watched miss (R249). -/
def Core.watchedMiss (c : Core) : Core :=
  let v := c.slack
  let up := 2 * ((c.slackCtl >>> 8).setWidth 8 : Byte).toNat
  let vmax := ((c.vcLim >>> 8).setWidth 8 : Byte).toNat
  { c with slack := { v with
      missCnt := v.missCnt + 1
      missCapped := if v.capped then v.missCapped + 1 else v.missCapped
      vt := if !v.capped && c.slackCtl.getLsbD 31 then BitVec.ofNat 8 (min (v.vt.toNat + up) vmax) else v.vt } }

/-- A monitor is armed with a deadline, or disarmed by never (R235). -/
def Dm.arm (x : Dm) (dl now : DWord) : Dm :=
  if dl = never then { x with armed := false, dl := never }
  else { x with armed := true, overrun := x.overrun || x.armed, dl := dl, since := now }

/-- ns between two instants, rounded down, saturated to a word (R235). -/
def nsBetween (dl t : DWord) : Int := ((dl.toNat : Int) - (t.toNat : Int)) / 8

/-- An armed monitor is satisfied at t: it disarms and SLACK is written; with SLACKEN a sample is credited (R235, R247). -/
def Core.satisfy (c : Core) (k : BitVec 12) (t : DWord) : Core :=
  let x := c.dm k
  if x.armed then
    let ns := nsBetween x.dl t
    let c' := c.setDm k { x with armed := false, dl := never, slack := BitVec.ofInt 32 (clampInt ns (-2147483648) 2147483647) }
    if (c.dmCtl k).getLsbD 27 then c'.sample (bunchOf ((c.dmCtl k >>> 13).setWidth 11)) ns else c'
  else c

/-- An occurrence satisfies at or before the deadline's CK_TIME edge (R235; log entry 16). -/
def inTime (t dl : DWord) : Bool := decide (t.toNat < dl.toNat + 8)

/-- Whether an occurrence in time is on its way to the monitor. -/
def Core.savedInTime (c : Core) (k : BitVec 12) : Bool :=
  c.fabric.edges.any fun e => decide (e.1 = Sink.watch k) && inTime e.2 (c.dm k).dl

/-- A monitor expires (R235, R247, R249). -/
def Core.expire (c : Core) (k : BitVec 12) : Core :=
  let x := c.dm k
  let late := c.time.skipped x.dl x.since
  let ctl := c.dmCtl k
  let c := c.setDm k { x with armed := false, dl := never, miss := true, stepped := x.stepped || late, missCnt := x.missCnt + 1 }
  let c := c.source (0x2000#16 + k.setWidth 16) true true x.dl
  let c := if ctl.getLsbD 26 then
      c.log { cls := 0, source := 0x04, code := 0x000A, unit := k.setWidth 32, detail := k.setWidth 16, addr := 0 } else c
  if ctl.getLsbD 27 then (c.sample (bunchOf ((ctl >>> 13).setWidth 11)) (-1)).watchedMiss else c

/-- What comes at or before the CK_TIME edge of t comes to a monitor before it is armed or disarmed anew at t: the occurrences on their way to it, and
its expiry (R235, R237). -/
def Core.settleDm (c : Core) (k : BitVec 12) (t : DWord) : Core :=
  let first (e : Sink × DWord) : Bool := decide (e.1 = Sink.watch k) && decide (e.2 >>> 3 ≤ t >>> 3)
  let es := c.fabric.edges
  let c := { c with fabric := { c.fabric with edges := es.filter fun e => !first e } }
  let c := (es.filter first).foldl (fun c e => if inTime e.2 (c.dm k).dl then c.satisfy k e.2 else c) c
  if (c.dm k).armed && c.time.running && !inTime t (c.dm k).dl then c.expire k else c

/-- The owner writes its SPG_DLARM slot (R235, R236). -/
def Core.dlarm (c : Core) (g : SprigId) (slot : BitVec 2) (v : DWord) : Core :=
  match c.dmOf g slot with
  | none => c.ignored (.sprig g) 236 0
  | some k =>
    let c := c.settleDm k c.time.dtime
    if v = never ∧ ((c.dmCtl k) >>> 28).setWidth 3 = 0#3 ∧ (c.dm k).armed then c.satisfy k c.time.dtime
    else c.setDm k ((c.dm k).arm v c.time.dtime)

/-- What SPG_DLARM reads (R236): of a slot that no monitor is bound to, never. DESIGN CHOICE: R60 gives the register the reset value 0, and an
unbound slot reads never at reset too (log entry 69). -/
def Core.readDlarm (c : Core) (g : SprigId) (slot : BitVec 2) : DWord :=
  match c.dmOf g slot with
  | none => never
  | some k => if (c.dm k).armed then (c.dm k).dl else never

/-- The bank function pins of a unit: FUNC of a pin (R253). -/
def pinFunc (w : Word) : BitVec 4 := (w >>> 28).setWidth 4

/-! ### 64-bit registers (R17, R219) -/

def stageKey (m : Master) (a : Addr) : Nat := masterKey m * 0x10000000000 + a.toNat
/-- The staging word of a master for the register whose low word is at `a`. -/
def Core.stagedLow (c : Core) (m : Master) (a : Addr) : Word := Tbl.get c.staged (stageKey m a) 0
def Core.stage (c : Core) (m : Master) (a : Addr) (v : Word) : Core :=
  { c with staged := Tbl.set c.staged (stageKey m a) v 0 }
/-- A low-word read leaves the high word in the master's shadow (R17). -/
def Core.setShadow (c : Core) (m : Master) (a : Addr) (v : Word) : Core :=
  { c with shadows := Tbl.set c.shadows (stageKey m a) (some v) none }
def Core.shadow (c : Core) (m : Master) (a : Addr) : Option Word := Tbl.get c.shadows (stageKey m a) none
/-- A block instance that is reset, n bytes of registers from an address, forgets its shadows of every master (R17). -/
def Core.dropShadows (c : Core) (lo n : Nat) : Core :=
  { c with shadows := c.shadows.filter fun e : Nat × Option Word =>
      !(decide (lo ≤ e.1 % 0x10000000000) && decide (e.1 % 0x10000000000 < lo + n)) }

end Sys2Proof.Machine
end

