-- ==== Sys2Proof/Machine/BicOps.lean ====
section
/-!
DEFINITION. Sys2Proof/Machine/BicOps.lean: levels, eligibility, claim and completion at a bunch interrupt controller
(spec/10_interrupts.md, R285 to R295).
-/
namespace Sys2Proof.Machine

def Core.bic (c : Core) (b : BunchId) : Bic := Tbl.get c.bics b.toNat Bic.reset
def Core.setBic (c : Core) (b : BunchId) (x : Bic) : Core := { c with bics := Tbl.set c.bics b.toNat x Bic.reset }

/-- BIC_SRC and BIC_FALLBACK of a bunch, with their reset values (R285, R289). -/
def Core.bicSrc (c : Core) (b : BunchId) (i : Byte) : Word :=
  Tbl.get c.cfg (sid 0x0D (0x4000 * b.toNat + 4 * i.toNat)) 0x80000000#32
def Core.bicFallback (c : Core) (b : BunchId) : Word :=
  Tbl.get c.cfg (sid 0x0D (0x4000 * b.toNat + 0xA00)) 0x80000000#32

/-- A device status level (R286). -/
def Core.statusLevel (c : Core) (b : BunchId) (sel : BitVec 12) : Bool :=
  let n := sel.toNat
  if n = 0 then (c.dma b).lvl
  else if n ≤ 0x30 then (c.serial (BitVec.ofNat 6 (n - 1))).level
  else if n = 0x40 then decide (c.err.ack ≠ c.err.tail)
  else false

/-- The level that a BIC_SRC word selects (R285, R286). -/
def Core.srcLevel (c : Core) (b : BunchId) (w : Word) : Bool :=
  match ((w >>> 30).setWidth 2 : BitVec 2).toNat with
  | 0 => c.lineLevel (w.setWidth 12)
  | 1 => c.statusLevel b (w.setWidth 12)
  | _ => false

/-- The level of input i of BIC b. -/
def Core.bicLevel (c : Core) (b : BunchId) (i : Byte) : Bool := c.srcLevel b (c.bicSrc b i)

/-- Whether a sprig is in RUN or WAIT. -/
def Core.awake (c : Core) (g : SprigId) : Bool :=
  match (c.sprig g).state with
  | .run => true
  | .wait => true
  | _ => false

/-- The effective target of an input, when some sprig can take it (R289). -/
def Core.bicTarget (c : Core) (b : BunchId) (i : Byte) : Option (BitVec 5) :=
  let t : BitVec 5 := ((c.bicSrc b i) >>> 20).setWidth 5
  let f := c.bicFallback b
  if c.awake (sprigAt b t) then some t
  else if f.getLsbD 31 && c.awake (sprigAt b (f.setWidth 5)) then some (f.setWidth 5)
  else none

def bicPri (w : Word) : BitVec 4 := (w >>> 16).setWidth 4

/-- Whether input i is PENDING (R287). -/
def Core.bicPending (c : Core) (b : BunchId) (i : Byte) : Bool := c.bicLevel b i && !(c.bic b).active.getLsbD i.toNat

/-- Whether input i is eligible for target s (R287, R289). -/
def Core.bicEligible (c : Core) (b : BunchId) (s : BitVec 5) (i : Byte) : Bool :=
  c.bicPending b i && (c.bic b).en.getLsbD i.toNat && decide (c.bicTarget b i = some s)
    && decide ((Tbl.get (c.bic b).thresh s.toNat 0).setWidth 4 ≤ bicPri (c.bicSrc b i))

/-- The better of two candidates: the higher priority, then the lower number (R288). -/
def betterSource (best : Option (Byte × BitVec 4)) (i : Byte) (p : BitVec 4) : Option (Byte × BitVec 4) :=
  match best with
  | none => some (i, p)
  | some (j, q) => if q < p then some (i, p) else some (j, q)

/-- The source the arbiter selects for target s (R288). -/
def Core.bicSelect (c : Core) (b : BunchId) (s : BitVec 5) : Option (Byte × BitVec 4) :=
  (List.range 256).foldl (fun best n =>
    let i := BitVec.ofNat 8 n
    if c.bicEligible b s i then betterSource best i (bicPri (c.bicSrc b i)) else best) none

/-- The latched delivery of a sprig: the BIC requests vector 16 + PRI (R288). -/
def Core.bicLatch (c : Core) (g : SprigId) : Option (Byte × BitVec 4) :=
  Tbl.get (c.bic (bunchOf g)).latch (inBunch g).toNat none

/-- A claimed source's word (R290). -/
def claimWord (i : Byte) (p : BitVec 4) : Word := 0x80000000#32 ||| (p.setWidth 32 <<< 16) ||| i.setWidth 32

/-- Whether the source latched for target s is PENDING, by the selection it was latched by: a hand's change of KIND or SEL reaches later
arbitrations only (R290, R292, R294). -/
def Core.latchPending (c : Core) (b : BunchId) (s : BitVec 5) (i : Byte) : Bool :=
  c.srcLevel b (Tbl.get (c.bic b).latchSrc s.toNat 0) && !(c.bic b).active.getLsbD i.toNat

/-- Target s of bunch b claims (R290). -/
def Core.claim (c : Core) (b : BunchId) (s : BitVec 5) : Word × Core :=
  let x := c.bic b
  let chosen := match Tbl.get x.latch s.toNat none with
    | some (i, p) => if c.latchPending b s i then some (i, p) else c.bicSelect b s
    | none => c.bicSelect b s
  match chosen with
  | some (i, p) =>
    (claimWord i p, c.setBic b { x with
      active := putBit x.active i.toNat true
      owner := Tbl.set x.owner i.toNat s 0
      latch := Tbl.set x.latch s.toNat none none
      latchSrc := Tbl.set x.latchSrc s.toNat 0 0 })
  | none =>
    (0, c.setBic b { x with spurious := satInc16 x.spurious, latch := Tbl.set x.latch s.toNat none none, latchSrc := Tbl.set x.latchSrc s.toNat 0 0 })

/-- Service of an input ends (R291). -/
def Core.complete (c : Core) (m : Master) (b : BunchId) (v : Word) : Core :=
  let x := c.bic b
  let i : Byte := v.setWidth 8
  let x' := if v.getLsbD 31 then { x with spurious := satInc16 x.spurious } else x
  if x.active.getLsbD i.toNat then
    c.setBic b { x' with active := putBit x.active i.toNat false, owner := Tbl.set x.owner i.toNat 0 0 }
  else (c.setBic b x').ignored m 291 0

/-- A per-sprig reset withdraws the latch and returns the sprig's claimed sources (R295). -/
def Core.bicReturn (c : Core) (g : SprigId) : Core :=
  let b := bunchOf g
  let s := inBunch g
  let x := c.bic b
  c.setBic b { x with
    latch := Tbl.set x.latch s.toNat none none
    latchSrc := Tbl.set x.latchSrc s.toNat 0 0
    active := (List.range 256).foldl (fun a n =>
      if a.getLsbD n && decide (Tbl.get x.owner n 0 = s) then putBit a n false else a) x.active }

end Sys2Proof.Machine
end

