-- ==== Sys2Proof/Machine/Access.lean ====
section
/-!
DEFINITION. Sys2Proof/Machine/Access.lean: a sprig's accesses to its data space: regions, grants, leases, ECC and parity, the store
buffer, the control page and the far window (R55 to R63, R120 to R126, R158, R163 to R177).
-/
namespace Sys2Proof.Machine

/-- How a committed instruction ends: its steps, the next PC when it is not PC + 1, the MODE it wrote (R51), whether TRACE may follow
(RETI takes no trace vector for itself, R108), and a MODE that is in force at once, after an RTIM (R71, R143). -/
structure Ending where
  steps : Nat := 1
  npc : Option (BitVec 16) := none
  mode : Option Word := none
  traced : Bool := true
  now : Option Word := none
deriving DecidableEq, Repr

/-- How an instruction, or a micro-routine before its COMMIT, ends. `commit` carries the core with the results applied; `stall` lies before COMMIT; `recv` is a RECV at an empty queue; `sleep` a WAIT with no wake
condition; `fault` takes a vector with its detail and address; `freeze` is a violation. -/
inductive Res where
  | commit (c : Core) (e : Ending)
  | stall (c : Core)
  | recv (c : Core) (q : BitVec 3)
  | sleep
  | fault (c : Core) (vec : BitVec 6) (detail : Word) (addr : Option Word)
  | freeze (c : Core) (cause : Byte) (addr : Option Word)

/-- Vectors and details of the faults (R66, R76). -/
def vecAlign : BitVec 6 := 1
def vecIllegal : BitVec 6 := 2
def vecParity : BitVec 6 := 3
def vecDiv0 : BitVec 6 := 4
def illegal (c : Core) : Res := .fault c vecIllegal 0x02 none
def alignFault (c : Core) (a : BitVec 16) : Res := .fault c vecAlign 0x01 (some (a.setWidth 32))
def parityFault (c : Core) (addr : Option Word) : Res := .fault c vecParity 0x03 addr
def poisonFault (c : Core) (addr : Option Word) : Res := .fault c vecParity 0x13 addr

/-! ### Regions (R55, R56, R120) -/

inductive Region where
  | x
  | y
  | s
  | f
  | c
deriving DecidableEq, Repr

def regionOf (a : BitVec 16) : Region :=
  let n := a.toNat
  if n < 0x6000 then .x else if n < 0xC000 then .y else if n < 0xE000 then .s else if n < 0xF000 then .f else .c

/-- Whether an access of n bytes at a takes ALIGN: it spans regions, or its region needs natural alignment. -/
def misaligned (a : BitVec 16) (n : Nat) : Bool :=
  decide (0x10000 < a.toNat + n) || decide (regionOf a ≠ regionOf (a + BitVec.ofNat 16 (n - 1)))
    || (match regionOf a with
      | .f => decide (a.toNat % n ≠ 0)
      | .c => decide (n ≠ 4) || decide (a.toNat % 4 ≠ 0)
      | _ => false)

/-- Bytes of a row of the bank an access uses (R120). -/
def rowSize (a : BitVec 16) : Nat := match regionOf a with | .s => 32 | _ => 4

/-- The access crosses a row and is split (R120). -/
def splits (a : BitVec 16) (n : Nat) : Bool :=
  match regionOf a with
  | .f => false
  | .c => false
  | _ => decide (a.toNat / rowSize a ≠ (a.toNat + n - 1) / rowSize a)

/-- The parts of an access: its length up to the row's end, and the rest. -/
def firstPart (a : BitVec 16) (n : Nat) : Nat := if splits a n then rowSize a - a.toNat % rowSize a else n

/-! ### Windows and grants (R55, R58) -/

/-- Scratchpad offset an address in the scratch window resolves to. -/
def Sprig.scratchOff (s : Sprig) (a : BitVec 16) : BitVec 21 :=
  (s.page.swin &&& 0x001FE000#32).setWidth 21 + (a - 0xC000#16).setWidth 21

/-- Device address an address in the far window resolves to. -/
def Sprig.farAddr (s : Sprig) (a : BitVec 16) : Addr :=
  ((s.page.fwin.setWidth 28).setWidth 40 <<< 12) + (a - 0xE000#16).setWidth 40

/-- Device address of a bank byte or a scratch byte. -/
def bankAddr (g : SprigId) (s : Sprig) (a : BitVec 16) : Nat :=
  match regionOf a with
  | .s => scratchBase (bunchOf g) + (s.scratchOff a).toNat
  | _ => localsBase g + a.toNat

/-- SPG_SLIM, SPG_CODE and the far grants of a sprig (R60). -/
def Core.slim (c : Core) (g : SprigId) : Word := Tbl.get c.cfg (spgSid g 1) 0
def Core.codeBase (c : Core) (g : SprigId) : Word := Tbl.get c.cfg (spgSid g 0) 0

/-- Whether SPG_SLIM grants an access at a scratchpad offset. -/
def Core.slimGrants (c : Core) (g : SprigId) (off : BitVec 21) (write : Bool) : Bool :=
  let w := c.slim g
  let u : Byte := (off >>> 13).setWidth 8
  decide ((w.setWidth 8 : Byte) ≤ u) && decide (u ≤ ((w >>> 8).setWidth 8 : Byte)) && (!write || w.getLsbD 16)

/-- Whether some far grant covers an access at a device address. -/
def Core.farGrants (c : Core) (g : SprigId) (a : Addr) (write : Bool) : Bool :=
  (List.range 4).any fun k =>
    let base := Tbl.get c.cfg (spgSid g (2 + 2 * k)) 0
    let lim := Tbl.get c.cfg (spgSid g (3 + 2 * k)) 0
    let page : BitVec 28 := (a >>> 12).setWidth 28
    decide (base.setWidth 28 ≤ page) && decide (page ≤ lim.setWidth 28) && lim.getLsbD (if write then 29 else 28)

/-- Whether an address lies in some region of the device address space (R37). -/
def mapped (a : Addr) : Bool :=
  let n := a.toNat
  decide (n < 0x2000000000)
    || (decide (0x4000000000 ≤ n) && decide (n < 0x4008000000))
    || (decide (0x4800000000 ≤ n) && decide (n < 0x4810000000))
    || (decide (0x5000000000 ≤ n) && decide (n < 0x5004000000))
    || (decide (0x5040000000 ≤ n) && decide (n < 0x5040200000))
    || (decide (0x6000000000 ≤ n) && decide (n < 0x6002000000))

/-- Slot and offset of a register address (R42). -/
def inRegs (a : Addr) : Bool := decide (0x6000000000 ≤ a.toNat) && decide (a.toNat < 0x6002000000)
def slotOf (a : Addr) : Nat := (a.toNat - 0x6000000000) / 0x100000
def offOf (a : Addr) : Nat := (a.toNat - 0x6000000000) % 0x100000

/-- The writer rules: whether a store of `v` at a device address by sprig g is a PERM violation because only others may write there
(R40, R41, R58, R198, R221, R245, R274, R353, R378, R404, R413, R420, R424, R451, R463, R470, R475 and MET's rule of file 12). -/
def Core.writerDenied (c : Core) (g : SprigId) (a : Addr) (v : Word) : Bool :=
  let n := a.toNat
  let st := isSteward g
  if !mapped a then true
  else if 0x5000000000 ≤ n ∧ n < 0x5040200000 then !st
  else if 0x4000000000 ≤ n ∧ n < 0x4008000000 then inPages (BitVec.ofNat 21 (n % 0x200000))
  else if inRegs a then
    let off := offOf a
    match slotOf a with
    | 0x01 =>
      !st && ((decide (0x400 ≤ off) && decide (off < 0x488)) || decide (off = 0x208) || decide (off = 0x20C)
        || (decide (0x10000 ≤ off) && decide (off < 0x14000)))
    | 0x03 => !st && (decide (off = 0x10) || decide (off = 0x14) || decide (off = 0x20))
    | 0x04 => !st && (decide (off = 0x08) || decide (off = 0x10) || decide (off = 0x14) || decide (off = 0x18)
        || decide (off = 0x20) || decide (off = 0x2C)
        || decide (off = 0x10C))
    | 0x06 =>
      decide (off < 0x4800) && decide (off % 0x40 = 0x0C)
        && !(st || (c.ugrant (BitVec.ofNat 16 (off / 0x40))).getLsbD (bunchOf g).toNat)
    | 0x0B => decide (off = 0xD0000) && !st
    | 0x0D => decide (off % 0x4000 = 0x3000) && !(st || decide (off / 0x4000 = (bunchOf g).toNat))
    | 0x0E => (decide (off = 0x04) && !st) || decide (off = 0x10) || decide (off = 0x14) || decide (off = 0x18)
    | 0x10 => decide (off = 0x21200) && decide ((v >>> 21).setWidth 6 ≠ bunchOf g)
    | 0x11 => !st && (decide (off = 0x0C) || (decide (0x400 ≤ off) && decide (off < 0x428)))
    | 0x12 => decide (off = 0) && !st
    | 0x13 => !st && (decide (off = 0x200) || (decide (0x1000 ≤ off) && decide (off < 0x2000)))
    | 0x14 => decide (0x200 ≤ off) && decide (off < 0x20C)
    | _ => false
  else false

/-! ### Reading banks (R158, R163) -/

/-- The first byte of a range with bad parity. -/
def Core.firstBad (c : Core) (a : Nat) : Nat → Option Nat
  | 0 => none
  | n + 1 => if c.badParity a then some a else c.firstBad (a + 1) n

/-- A PARITY entry (R158, R376). -/
def Core.logParity (c : Core) (g : SprigId) (a : Nat) : Core :=
  c.log { cls := 1, source := 0x30, code := 0x0001, unit := g.setWidth 32, detail := 0, addr := BitVec.ofNat 40 a }

/-! ### The store buffer (R123 to R126) -/

def SbEntry.overlaps (e : SbEntry) (a n : Nat) : Bool := decide (e.addr < a + n) && decide (a < e.addr + e.bytes.length)
def SbEntry.covers (e : SbEntry) (a n : Nat) : Bool := decide (e.addr ≤ a) && decide (a + n ≤ e.addr + e.bytes.length)

/-- The youngest entry that overlaps a load's bytes: the bytes it gives, or `none` when it covers only part of them. -/
def forwarded (buf : List SbEntry) (a n : Nat) : Option (Option (List Byte)) :=
  match buf.reverse.find? fun e => e.overlaps a n with
  | none => none
  | some e => some (if e.covers a n then some ((e.bytes.drop (a - e.addr)).take n) else none)

/-- What a load delivered: the core after it, its bytes, whether they are poisoned, its steps, and the predicate of a lost lease
when the access was void (R177). -/
structure Loaded where
  c : Core
  bytes : List Byte
  poison : Bool
  steps : Nat
  void : Option (BitVec 3)

/-- What the lease slots make of the holder's own access before it leaves the sprig: `wait` while copying, `void` when lost (R175, R177).
Others' stores are judged when they drain. -/
def Core.holderGate (c : Core) (g : SprigId) (off : BitVec 21) : Gate :=
  (List.range 4).foldl (fun acc l =>
    let x := c.lease (bunchOf g) (BitVec.ofNat 2 l)
    let mine := decide (x.holder = inBunch g) && decide (x.depth = (c.sprig g).depth)
      && decide (x.region = (off >>> 8).setWidth 13)
    match acc with
    | .pass =>
      (match x.st with
      | .copying => if mine then .wait else .pass
      | .lost => if mine then .void x.pred else .pass
      | _ => .pass)
    | r => r) .pass

/-- One part of a load from the X bank, the Y bank or the scratch window, within one row (R125, R158, R163). An access of a lease's holder is
void or waits before the store buffer is looked at (R175, R177); one that the store buffer answers makes no bank access. -/
def Core.loadPart (c : Core) (g : SprigId) (a : BitVec 16) (n : Nat) : Except Res Loaded :=
  let s := c.sprig g
  let addr := bankAddr g s a
  match regionOf a with
  | .s =>
    let off := s.scratchOff a
    if !c.slimGrants g off false then .ok ⟨c.logRead (.sprig g) (BitVec.ofNat 40 addr), List.replicate n 0, false, 1, none⟩
    else if s.atomics.any fun t => decide (t.off.toNat / 4 ≤ (off.toNat + n - 1) / 4) && decide (off.toNat / 4 ≤ t.off.toNat / 4)
      then .error (.stall c)
    else match c.holderGate g off with
      | .wait => .error (.stall c)
      | .void p => .ok ⟨c, List.replicate n 0, false, 1, some p⟩
      | .pass => match forwarded s.buf addr n with
        | some (some bs) => .ok ⟨c, bs, false, 1, none⟩
        | some none => .error (.stall c)
        | none =>
          match c.leaseGate (bunchOf g) ((inBunch g).setWidth 8) (some s.depth) off with
          | (.wait, c') => .error (.stall c')
          | (.void p, c') => .ok ⟨c', List.replicate n 0, false, 1, some p⟩
          | (.pass, c') =>
            let (bs, p, c'') := (c'.soloRound (bunchOf g) off ((inBunch g).setWidth 6) false none).readScratch (bunchOf g) off n
              ((inBunch g).setWidth 8)
            .ok ⟨c'', bs, p, 1, none⟩
  | _ =>
    match forwarded s.buf addr n with
    | some (some bs) => .ok ⟨c, bs, false, 1, none⟩
    | some none => .error (.stall c)
    | none =>
      match c.firstBad addr n with
      | some bad => .error (parityFault (c.logParity g bad) (some (BitVec.ofNat 32 (bad - localsBase g))))
      | none => .ok ⟨c, c.bytes addr n, false, 1, none⟩

/-- The report of a scratch access to microcode (R138, LLOST), and 1 written to the holder's predicate for a void one (R177). -/
def Sprig.reportLease (s : Sprig) (void : Option (BitVec 3)) : Sprig :=
  match void with
  | none => { s with micro := { s.micro with llost := false } }
  | some p => { s with p := putBit s.p p.toNat true, micro := { s.micro with llost := true } }

/-- The two halves of a split load together; one that is void makes the whole void (R177). -/
def Loaded.join (x y : Loaded) (n steps : Nat) : Loaded :=
  let v := match x.void with | some p => some p | none => y.void
  ⟨y.c, if v.isSome then List.replicate n 0 else x.bytes ++ y.bytes, x.poison || y.poison, steps, v⟩

/-- The first half of a split load from the scratch window that has been taken already. -/
def Core.halfTaken (c : Core) (g : SprigId) (a : BitVec 16) : Option Loaded :=
  match (c.sprig g).req.block with
  | .half h => if h.addr = a then some ⟨c, h.bytes, h.poison, 1, h.void⟩ else none
  | _ => none

/-- A split load from the scratch window: its first half is taken, and the instruction goes on from there when it is given again, so that
another requester's store may fall between the halves (R121; log entry 70). A void first half needs no second access. -/
def Core.loadSplit (c : Core) (g : SprigId) (a : BitVec 16) (k n : Nat) : Except Res Loaded :=
  match c.halfTaken g a with
  | none =>
    (match c.loadPart g a k with
    | .error r => .error r
    | .ok x =>
      if x.void.isSome then .ok { x with bytes := List.replicate n 0 }
      else .error (.stall (x.c.modSprig g fun s => { s with req := { s.req with block := .half ⟨a, x.bytes, x.poison, x.void⟩ } })))
  | some x =>
    match c.loadPart g (a + BitVec.ofNat 16 k) (n - k) with
    | .error r => .error r
    | .ok y => .ok (x.join y n 1)

/-- A load of n bytes from the banks or the scratch window; a split one makes both accesses before its COMMIT (R121). -/
def Core.loadBank (c : Core) (g : SprigId) (a : BitVec 16) (n : Nat) : Except Res Loaded :=
  let k := firstPart a n
  if k = n then c.loadPart g a n
  else match regionOf a with
    | .s => c.loadSplit g a k n
    | _ => match c.loadPart g a k with
      | .error r => .error r
      | .ok x => match x.c.loadPart g (a + BitVec.ofNat 16 k) (n - k) with
        | .error r => .error r
        | .ok y => .ok (x.join y n 2)

/-- What a store will do when its instruction commits. -/
inductive StoreOp where
  | entries (es : List SbEntry) (void : Option (BitVec 3))
  | far (f : FarStore)
  | page (off : BitVec 12) (v : Word)
deriving DecidableEq, Repr

/-- A store of bytes at a data address: every check that precedes COMMIT (R56 to R58, R122, R123, R126). `staged` entries are
already staged by the same instruction. -/
def Core.prepStore (c : Core) (g : SprigId) (a : BitVec 16) (bs : List Byte) (staged : Nat) : Except Res StoreOp :=
  let s := c.sprig g
  let n := bs.length
  let w := some (a.setWidth 32)
  if misaligned a n then .error (alignFault c a)
  else match regionOf a with
    | .c => .ok (.page (a.setWidth 12) (wordOf bs))
    | .f =>
      let t := s.farAddr a
      if inRegs t && decide (n ≠ 4) then .error (alignFault c a)
      else if !c.farGrants g t true || c.writerDenied g t (wordOf bs) then .error (.freeze c causePerm w)
      else if s.farLoad.isSome || s.farStore.isSome || !s.buf.isEmpty then .error (.stall c)
      else .ok (.far ⟨t, bs⟩)
    | r =>
      let off := s.scratchOff a
      let scratch := decide (r = Region.s)
      if scratch && (!c.slimGrants g off true || inPages off) then .error (.freeze c causePerm w)
      else
        let k := firstPart a n
        let gate := if scratch then
            (match c.holderGate g off with
              | .pass => c.holderGate g (off + BitVec.ofNat 21 (n - 1))
              | t => t) else Gate.pass
        match gate with
        | .wait => .error (.stall c)
        | .void p => .ok (.entries [] (some p))
        | .pass =>
          if 4 < s.buf.length + staged + (if k = n then 1 else 2) then .error (.stall c)
          else if k = n then .ok (.entries [⟨bankAddr g s a, bs, false, s.depth⟩] none)
          else .ok (.entries [⟨bankAddr g s a, bs.take k, true, s.depth⟩,
            ⟨bankAddr g s (a + BitVec.ofNat 16 k), bs.drop k, false, s.depth⟩] none)

/-! ### The control page (R60 to R63) -/

/-- SPG_EV. -/
def Page.evWord (p : Page) : Word := (p.merged.setWidth 32 <<< 8) ||| p.latch.setWidth 32

/-- A W1C write of SPG_EV (R62). -/
def Page.evClear (p : Page) (v : Word) : Page :=
  { p with latch := p.latch &&& ~~~(v.setWidth 8 : Byte), merged := p.merged &&& ~~~((v >>> 8).setWidth 8 : Byte) }

/-- The word of SPG_QCOUNTq. -/
def Core.qcount (c : Core) (i : QueueId) : Word := BitVec.ofNat 32 (c.queue i).count

/-- SPG_QPOP word 0: the head card is popped into the port buffer (R60, R185). -/
def Core.popPort (c : Core) (g : SprigId) (q : BitVec 3) : Word × Bool × Core :=
  match c.pop (queueAt g q) with
  | none => (0, false, c.modSprig g fun s => { s with page := { s.page with ports := Tbl.set s.page.ports q.toNat ⟨⟨0, 0, 0, 0, 0, 0, 0, 0⟩, 0⟩ ⟨⟨0, 0, 0, 0, 0, 0, 0, 0⟩, 0⟩ } })
  | some (f, c') =>
    (f.card.w0, f.poison.getLsbD 0,
      c'.modSprig g fun s => { s with page := { s.page with ports := Tbl.set s.page.ports q.toNat f ⟨⟨0, 0, 0, 0, 0, 0, 0, 0⟩, 0⟩ } })

/-- A read of a control-page word: its value, whether it is poisoned, and the core after its side effect. -/
def Core.pageRead (c : Core) (g : SprigId) (off : BitVec 12) : Word × Bool × Core :=
  let s := c.sprig g
  let p := s.page
  let n := off.toNat
  if n < 0x100 then
    let q : BitVec 3 := (off >>> 5).setWidth 3
    if n % 0x20 = 0 then c.popPort g q
    else
      let f := Tbl.get p.ports q.toNat ⟨⟨0, 0, 0, 0, 0, 0, 0, 0⟩, 0⟩
      (cardWord f.card ((off >>> 2).setWidth 3), f.poison.getLsbD (n % 0x20 / 4), c)
  else if n < 0x120 then (c.qcount (queueAt g ((off >>> 2).setWidth 3)), false, c)
  else if 0x200 ≤ n ∧ n < 0x280 then
    (if n % 8 = 0 then c.shandle g ((off >>> 3).setWidth 4) else (c.chan g ((off >>> 3).setWidth 4)).statWord, false, c)
  else if n = 0x300 then (p.evWord, false, c)
  else if n = 0x304 then (p.evie, false, c)
  else if n = 0x308 then (p.wake, false, c)
  else if n = 0x400 then (p.swin, false, c)
  else if n = 0x404 then (p.fwin, false, c)
  else if n = 0x408 then (c.codeBase g, false, c)
  else if n = 0x40C then (c.slim g, false, c)
  else if 0x410 ≤ n ∧ n < 0x430 then (Tbl.get c.cfg (spgSid g (2 + (n - 0x410) / 4)) 0, false, c)
  else if 0x500 ≤ n ∧ n < 0x520 then
    let v := c.readDlarm g ((off >>> 3).setWidth 2)
    let a : Addr := BitVec.ofNat 40 (0xF000 + n / 8 * 8)
    if n % 8 = 0 then (v.setWidth 32, false, c.setShadow (.sprig g) a ((v >>> 32).setWidth 32))
    else ((c.shadow (.sprig g) a).getD ((v >>> 32).setWidth 32), false, c)
  else if n = 0x600 then
    let (w, c') := c.claim (bunchOf g) (inBunch g)
    (w, false, c')
  else if n = 0x700 then ((c.dev.setWidth 32 <<< 18) ||| g.setWidth 32, false, c)
  else if n = 0x704 then (p.faultDetail, false, c)
  else if n = 0x708 then (p.faultAddr, false, c)
  else if n = 0x780 then (p.cntInsn, false, c)
  else if n = 0x784 then (p.cntStep, false, c)
  else if n = 0x788 then (p.cntStall, false, c)
  else if n = 0x78C then (p.cntFetch, false, c)
  else (0, false, c)

/-- A write of a control-page word (R60): a hand-owned register ignores it and logs (R21). -/
def Core.pageWrite (c : Core) (g : SprigId) (off : BitVec 12) (v : Word) : Core :=
  let n := off.toNat
  let page (f : Page → Page) : Core := c.modSprig g fun s => { s with page := f s.page }
  if n = 0x300 then page fun p => p.evClear v
  else if n = 0x304 then page fun p => { p with evie := v &&& 0xFFF#32 }
  else if n = 0x308 then page fun p => { p with wake := v &&& 0xFFFF#32 }
  else if n = 0x400 then page fun p => { p with swin := v &&& 0x001FE000#32 }
  else if n = 0x404 then page fun p => { p with fwin := v &&& 0x0FFFFFFF#32 }
  else if (0x408 ≤ n ∧ n < 0x430) ∨ (0x200 ≤ n ∧ n < 0x280 ∧ n % 8 = 0) then
    c.ignored (.sprig g) 21 (BitVec.ofNat 40 (0xF000 + n))
  else if 0x500 ≤ n ∧ n < 0x520 then
    let a : Addr := BitVec.ofNat 40 (0xF000 + n / 8 * 8)
    if n % 8 = 0 then c.stage (.sprig g) a v
    else (c.dlarm g ((off >>> 3).setWidth 2) (v ++ c.stagedLow (.sprig g) a)).stage (.sprig g) a 0
  else if n = 0x604 then c.complete (.sprig g) (bunchOf g) v
  else if n = 0x780 then page fun p => { p with cntInsn := v }
  else if n = 0x784 then page fun p => { p with cntStep := v }
  else if n = 0x788 then page fun p => { p with cntStall := v }
  else if n = 0x78C then page fun p => { p with cntFetch := v }
  else c

/-- A prepared store takes place at COMMIT. -/
def Core.applyStore (c : Core) (g : SprigId) (op : StoreOp) : Core :=
  match op with
  | .entries es v => c.modSprig g fun s =>
    { (if v.isSome || es.any (fun e => decide (e.addr < 0x4800000000)) then s.reportLease v else s) with
      buf := s.buf ++ es }
  | .far f => c.modSprig g fun s => { s with farStore := some f }
  | .page off v => c.pageWrite g off v

/-- Steps of a store: 1, or 2 when it is split (R92). -/
def storeSteps (a : BitVec 16) (n : Nat) : Nat := if splits a n then 2 else 1

end Sys2Proof.Machine
end

