-- ==== Sys2Proof/Machine/Operands.lean ====
section
/-!
DEFINITION. Sys2Proof/Machine/Operands.lean: operand fields (R84 to R87), effective addresses (R88 to R90), the scoreboard and
poison checks of the registers an instruction names (R52, R53), and how an instruction of a sprig runs, ends, commits or faults
(R51, R73, R76 to R79, R82).
-/
namespace Sys2Proof.Machine

/-! ### Fields -/

/-- RR and RI fields (R84). -/
def fDst (op : BitVec 20) : BitVec 4 := (op >>> 16).setWidth 4
def fSrcA (op : BitVec 20) : BitVec 4 := (op >>> 12).setWidth 4
def fSrcB (op : BitVec 20) : BitVec 4 := (op >>> 8).setWidth 4
def fAux (op : BitVec 20) : Byte := op.setWidth 8
def fImm (op : BitVec 20) : BitVec 16 := op.setWidth 16

/-- MEM fields (R85). -/
def fBase (op : BitVec 20) : BitVec 3 := (op >>> 13).setWidth 3
def fAmode (op : BitVec 20) : BitVec 3 := (op >>> 10).setWidth 3
def fOff (op : BitVec 20) : BitVec 10 := op.setWidth 10
def fIndex (op : BitVec 20) : BitVec 4 := (op >>> 6).setWidth 4

/-- SYS fields (R87). -/
def fR (op : BitVec 20) : BitVec 4 := (op >>> 16).setWidth 4
def fS (op : BitVec 20) : BitVec 4 := (op >>> 12).setWidth 4
def fK (op : BitVec 20) : BitVec 12 := op.setWidth 12

/-! ### Registers -/

def Sprig.rd (s : Sprig) (i : BitVec 4) : Word := s.d[i.toNat]'i.isLt
def Sprig.ra (s : Sprig) (i : BitVec 3) : BitVec 16 := s.a[i.toNat]'i.isLt
def Sprig.rm (s : Sprig) (i : BitVec 2) : BitVec 16 := s.m[i.toNat]'i.isLt
def Sprig.rac (s : Sprig) (i : BitVec 1) : BitVec 80 := s.ac[i.toNat]'i.isLt

/-- A write to a D register clears its poison tag (R53). -/
def Sprig.setD (s : Sprig) (i : BitVec 4) (v : Word) : Sprig :=
  { s with d := s.d.set i.toNat v i.isLt, tags := putBit s.tags i.toNat false }
/-- A value that may arrive poisoned sets the tag (R53). -/
def Sprig.setDP (s : Sprig) (i : BitVec 4) (v : Word) (poison : Bool) : Sprig :=
  { s with d := s.d.set i.toNat v i.isLt, tags := putBit s.tags i.toNat poison }
def Sprig.setA (s : Sprig) (i : BitVec 3) (v : BitVec 16) : Sprig := { s with a := s.a.set i.toNat v i.isLt }
def Sprig.setM (s : Sprig) (i : BitVec 2) (v : BitVec 16) : Sprig := { s with m := s.m.set i.toNat v i.isLt }
def Sprig.setAc (s : Sprig) (i : BitVec 1) (v : BitVec 80) : Sprig := { s with ac := s.ac.set i.toNat v i.isLt }

/-- P0 always reads 1, and a write to it is ignored (R48). -/
def Sprig.rp (s : Sprig) (i : BitVec 3) : Bool := i == 0 || s.p.getLsbD i.toNat
def Sprig.setP (s : Sprig) (i : BitVec 3) (v : Bool) : Sprig := if i = 0 then s else { s with p := putBit s.p i.toNat v }
/-- The predicate image P7 to P0. -/
def Sprig.pImage (s : Sprig) : Byte := s.p ||| 1

/-- The register after a pair's first (R48: MUL, DIV and RDT name even registers). -/
def nextReg (i : BitVec 4) : BitVec 4 := i + 1

/-! ### Scoreboard and poison (R52, R53) -/

/-- Registers an instruction reads and writes: it stalls before COMMIT while one has its scoreboard bit set, and takes PARITY with
detail POISON when one that it reads carries a poison tag. -/
def Core.useD (c : Core) (g : SprigId) (reads writes : List (BitVec 4)) (k : Sprig → Res) : Res :=
  let s := c.sprig g
  if (reads ++ writes).any fun i => s.board.getLsbD i.toNat then .stall c
  else if reads.any fun i => s.tags.getLsbD i.toNat then poisonFault c none
  else k s

/-! ### Effective addresses (R88 to R90) -/

/-- The smallest k with 2^k at least l. -/
def bitsFor (l : Nat) : Nat := if l ≤ 1 then 0 else (l - 1).log2 + 1

/-- Modulo correction of A + step for a base register: applied once, through M0 to M3 (R90). -/
def Sprig.modulo (s : Sprig) (b : BitVec 3) (step : Int) : BitVec 16 :=
  let a : Int := (s.ra b).toNat
  let u := a + step
  if 4 ≤ b.toNat then BitVec.ofInt 16 u
  else
    let l : Int := (s.rm (b.setWidth 2)).toNat
    if l = 0 then BitVec.ofInt 16 u
    else
      let k : Int := 2 ^ bitsFor l.toNat
      let base := a / k * k
      if 0 ≤ step ∧ base + l ≤ u then BitVec.ofInt 16 (u - l)
      else if step < 0 ∧ u < base then BitVec.ofInt 16 (u + l)
      else BitVec.ofInt 16 u

/-- A formed address: the address, the base register's new value, the index register it read. -/
structure Ea where
  addr : BitVec 16
  upd : Option (BitVec 3 × BitVec 16)
  idx : List (BitVec 4)
deriving DecidableEq, Repr

/-- R88 for an access of n bytes; `none` for a reserved mode or a non-zero reserved field. With `plain` the displacement field is
given another use (STAS.M). With `loose` the modes without a displacement leave its field to the routine (AGEN, R141). -/
def Sprig.ea (s : Sprig) (op : BitVec 20) (n : Nat) (plain : Bool) (loose : Bool := false) : Option Ea :=
  let b := fBase op
  let a := s.ra b
  let d : Int := (fOff op).toInt
  let free := plain || loose || fOff op == 0
  match (fAmode op).toNat with
  | 0 => if free then some ⟨a, none, []⟩ else none
  | 1 => if free then some ⟨a, some (b, s.modulo b n), []⟩ else none
  | 2 => if free then some ⟨a, some (b, s.modulo b (-(n : Int))), []⟩ else none
  | 3 => if plain then none else some ⟨s.modulo b d, none, []⟩
  | 4 =>
    if plain || decide ((fOff op).setWidth 6 ≠ 0) then none
    else some ⟨a + (s.rd (fIndex op)).setWidth 16, none, [fIndex op]⟩
  | 5 => if plain then none else some ⟨a, some (b, s.modulo b d), []⟩
  | _ => none

/-- The base update is written at COMMIT (R89). -/
def Sprig.applyUpd (s : Sprig) (u : Option (BitVec 3 × BitVec 16)) : Sprig :=
  match u with
  | none => s
  | some (b, v) => s.setA b v

/-! ### The decode entry (R83, R128, R131) -/

/-- The fault of F's decode of an opcode: PARITY for an entry with a double-bit error, ILLEGAL for an empty one or one with a
reserved field, for SLEEP on another opcode than WAIT, and for a customer slot whose ENTRY lies below 0xF00. -/
def Core.entryFault (c : Core) (g : SprigId) (opc : Byte) : Option (BitVec 6 × Word) :=
  let a := storeBase g + 0x4000 + 4 * opc.toNat
  let w := c.word a
  if c.csMark a = .double then some (vecParity, 0x03)
  else if !w.getLsbD 31 || decide (6 ≤ ((w >>> 28).setWidth 3 : BitVec 3).toNat)
      || decide ((w >>> 26).setWidth 2 = 3#2) || decide ((w >>> 12).setWidth 8 ≠ (0 : Byte))
      || (decide ((w >>> 26).setWidth 2 = 2#2) && decide (opc ≠ 0x90#8))
      || (decide (0xE0 ≤ opc.toNat) && decide ((w.setWidth 12 : BitVec 12).toNat < 0xF00)) then
    some (vecIllegal, 0x02)
  else none

/-- A single-bit error of a decode entry is corrected as it is read and logged (R128). -/
def Core.logCs (c : Core) (g : SprigId) (a : Nat) (detail : BitVec 16) : Core :=
  if c.csMark a = .single then
    c.log { cls := 0, source := 0x30, code := 0x001B, unit := g.setWidth 32, detail := detail, addr := BitVec.ofNat 40 a }
  else c

/-- What F's fetch of the instruction word at PC gives: the word is there, F waits for a lease's restore, or X takes PARITY with a detail. -/
inductive Fetch where
  | ok (c : Core)
  | wait (c : Core)
  | bad (c : Core) (detail : Word)
deriving DecidableEq, Repr

/-- The scratchpad offset of the shared-code word at a PC of 0x1000 and more (R59). -/
def Core.codeOff (c : Core) (g : SprigId) (pc : BitVec 16) : BitVec 21 :=
  BitVec.ofNat 21 ((c.codeBase g &&& 0x001FF000#32).toNat + 4 * (pc.toNat - 0x1000))

/-- F's fetch at PC (R46, R158, R163, R165, R173): bad parity in the instruction RAM; in the shared code a scratch access by F, which every
lease judges as another requester's, whose single-bit error is corrected and whose poison faults. Its turn at the bank is a round of
SCRATCH_ACCESS (log entry 68). -/
def Core.fetchAt (c : Core) (g : SprigId) : Fetch :=
  let pc := (c.sprig g).pc
  if pc.toNat < 0x1000 then
    let a := localsBase g + 0x10000 + 4 * pc.toNat
    (if (c.firstBad a 4).isSome then .bad (c.logParity g a) 0x03 else .ok c)
  else
    let b := bunchOf g
    let off := c.codeOff g pc
    match c.leaseGate b ((inBunch g).setWidth 8) none off with
    | (.pass, c') =>
      let (p, c'') := c'.readEcc b off ((inBunch g).setWidth 8)
      if p then .bad c'' 0x13 else .ok c''
    | (_, c') => .wait c'

/-! ### Running an instruction -/

/-- The guard: P[GPRED] XOR GINV (R82). -/
def Sprig.guard (s : Sprig) (gd : BitVec 4) : Bool := s.rp (gd.setWidth 3) != gd.getLsbD 3

/-- A RET whose pop through the far window has not returned, or a routine that waits for the value of a far load or atomic, holds the
sprig before its COMMIT (R57, R108, R141). -/
def Sprig.popping (s : Sprig) : Bool :=
  (match s.farLoad with
  | some f => decide (f.dst = .pc) || decide (f.dst = .hold)
  | none => false) || s.atomics.any fun t => decide (t.dst = .hold)

/-- A sprig issues an instruction: it is in RUN, neither a rank-1 nor a trace request waits (R67), it is not in QUIESCE (R80), and
no pop of RET is outstanding. -/
def Sprig.issues (s : Sprig) : Bool :=
  decide (s.state = .run) && s.req.rank1.isNone && !s.req.trace && !s.popping

/-- MODE with IEN and TRACE taken from SW.PIEN and SW.PTRACE (R71, R143). -/
def rtimMode (m sw : Word) : Word := putBit (putBit m 0 (sw.getLsbD bitPien)) 8 (sw.getLsbD bitPtrace)

/-- An instruction commits (R51, R60, R79): the counters advance, the PC moves, a MODE whose shadow this was comes into force, MODE.TRACE
requests vector 6, and a step command ends. -/
def Sprig.retire (s : Sprig) (e : Ending) : Sprig :=
  { s with
    pc := e.npc.getD (s.pc + 1)
    mode := e.now.getD (s.written.getD s.mode)
    written := e.mode
    held := none
    state := if s.req.stepping && decide (s.state = .run) then .halted else s.state
    page := { s.page with
      cntInsn := s.page.cntInsn + 1
      cntStep := s.page.cntStep + BitVec.ofNat 32 e.steps
      cntFetch := s.page.cntFetch + (if e.npc.isSome then 2 else 1) }
    req := { s.req with
      trace := e.traced && modeTrace s.mode && !s.req.stepping
      block := .none
      stepping := false } }

/-- The steps that an instruction ran before it was abandoned or faulted: a free value, as the spec gives no count of them; and F's
speculative fetch of the next (R60; log entry 28). -/
def Sprig.dropped (s : Sprig) (n : Word) : Sprig :=
  { s with page := { s.page with cntStep := s.page.cntStep + n, cntFetch := s.page.cntFetch + 1 } }

/-- The instruction of sprig g ends without COMMIT. -/
def Core.dropInsn (c : Core) (g : SprigId) : Core :=
  { c.modSprig g fun s => s.dropped (Config.freeSteps c.free) with free := c.free + 1 }

def Core.retire (c : Core) (g : SprigId) (e : Ending) : Core := c.modSprig g fun s => s.retire e

/-- A fault: FAULT_PC, detail and address are recorded and the vector is requested; nothing else has been written (R73, R76). -/
def Core.raise (c : Core) (g : SprigId) (vec : BitVec 6) (detail : Word) (addr : Option Word) : Core :=
  (c.dropInsn g).modSprig g fun s =>
    { s with
      faultPc := s.pc
      page := { s.page with faultDetail := detail, faultAddr := addr.getD s.page.faultAddr }
      req := { s.req with rank1 := some vec, resume := s.pc, block := .none } }

/-- A violation freezes the sprig; the offending instruction has not committed (R77, R78). -/
def Core.violate (c : Core) (g : SprigId) (cause : Byte) (addr : Option Word) : Core :=
  let c' := (c.dropInsn g).modSprig g fun s => { s with page := { s.page with faultAddr := addr.getD s.page.faultAddr } }
  c'.freezeSprig g cause (c.sprig g).pc

/-- An instruction stalls before COMMIT: it is given again later. SPG_CNT_STALL grows by an amount the spec leaves to time. -/
def Core.stallAt (c : Core) (g : SprigId) (b : Block) : Core :=
  { (c.modSprig g fun s =>
      { s with
        page := { s.page with cntStall := s.page.cntStall + Config.freeStall c.free }
        req := { s.req with block := b } }) with free := c.free + 1 }

/-- The block of a stalled instruction: between the halves of a split load it stays there (R121). -/
def Block.stalled : Block → Block
  | .half h => .half h
  | _ => .stall

/-- What a routine's end makes of the core. -/
def Core.finish (c : Core) (g : SprigId) (r : Res) : Core :=
  match r with
  | .commit c' e => c'.retire g e
  | .stall c' => c'.stallAt g (c'.sprig g).req.block.stalled
  | .recv c' q => c'.modSprig g fun s => { s with req := { s.req with block := .recv q } }
  | .sleep => c.modSprig g fun s => { s with state := .wait }
  | .fault c' vec detail addr => c'.raise g vec detail addr
  | .freeze c' cause addr => c'.violate g cause addr

/-- The ENTRY field of an opcode's decode entry (R131), and the device address of the microword there. -/
def Core.entryAddr (c : Core) (g : SprigId) (opc : Byte) : BitVec 12 := (c.word (storeBase g + 0x4000 + 4 * opc.toNat)).setWidth 12
def Core.firstWord (c : Core) (g : SprigId) (opc : Byte) : Nat := storeBase g + 4 * (c.entryAddr g opc).toNat

/-- The mark that X finds in a vendor routine's first microword; a customer routine reads its own words (R128). -/
def Core.firstMark (c : Core) (g : SprigId) (opc : Byte) : EccMark :=
  if 0xE0 ≤ opc.toNat then .ok else c.csMark (c.firstWord g opc)

/-- One instruction of sprig g with guard gd and opcode opc (R82): a sprig that cannot issue leaves everything as it is; a false guard
takes 1 step and changes nothing else. Of a vendor routine's microwords, which the spec does not list, the first is read here (R128);
DESIGN CHOICE: what such a routine leaves in T0 to T3, ADDR and µLR is not modelled, and they keep their values (log entry 71). -/
def Core.insn (c : Core) (g : SprigId) (gd : BitVec 4) (opc : Byte) (body : Core → Res) : Core :=
  if !(c.sprig g).issues || c.quietSprig g then c
  else match c.fetchAt g with
    | .bad c d => c.raise g vecParity d none
    | .wait c => c.stallAt g .stall
    | .ok c =>
      if !(c.sprig g).guard gd then c.retire g {}
      else match c.entryFault g opc with
        | some (v, d) => c.raise g v d none
        | none =>
          let c := c.logCs g (storeBase g + 0x4000 + 4 * opc.toNat) (0x8000#16 ||| opc.setWidth 16)
          match c.firstMark g opc with
          | .double => c.raise g vecParity 0x03 none
          | .single => c.finish g (body (c.logCs g (c.firstWord g opc) ((c.entryAddr g opc).setWidth 16)))
          | _ => c.finish g (body c)

/-- The same as a command. -/
def insn (g : SprigId) (gd : BitVec 4) (opc : Byte) (body : Core → Res) (s : State) : Out :=
  onCore (fun c => c.insn g gd opc body) s

/-- An instruction that changes only its sprig commits. -/
def Core.done (c : Core) (g : SprigId) (s : Sprig) (steps : Nat) : Res := .commit (c.setSprig g s) { steps := steps }

end Sys2Proof.Machine
end

