-- ==== Sys2Proof/Machine/QueueFam.lean ====
section
/-!
DEFINITION. Sys2Proof/Machine/QueueFam.lean: SEND, RECV, RECV.NB, FENCE.Q and the events that end a RECV (R109 to R111, R118,
R185, R196).
-/
namespace Sys2Proof.Machine

/-- D8 to D15, the card registers (R48). -/
def cardRegs : List (BitVec 4) := [8, 9, 10, 11, 12, 13, 14, 15]

/-- The card that D8 to D15 hold, and the poison tags of those registers. -/
def Sprig.card (s : Sprig) : CardWords :=
  ⟨s.rd 8, s.rd 9, s.rd 10, s.rd 11, s.rd 12, s.rd 13, s.rd 14, s.rd 15⟩
def Sprig.cardTags (s : Sprig) : BitVec 8 := (s.tags >>> 8).setWidth 8

/-- A sprig sends D8 to D15 on channel n, if the scoreboard, the type, the slot and the credit allow it (R111, R196).
DESIGN CHOICE: TYPE 0 without credit takes ILLEGAL; the spec orders the two checks nowhere (log entry 69). -/
def Core.sendCard (c : Core) (g : SprigId) (n : BitVec 4) (e : Ending) : Res :=
  let s := c.sprig g
  let x := c.chan g n
  if cardRegs.any fun i => s.board.getLsbD i.toNat then .stall c
  else if (s.rd 8 >>> 24) = 0 then illegal c
  else if x.out.isSome || c.outboundBusy (.chan c.dev g n) (c.shandle g n) then .stall c
  else if x.credit < 1 then .freeze c causeCredit none
  else .commit (c.sendOn g n s.card s.cardTags) e

def bodySend (g : SprigId) (op : BitVec 20) (c : Core) : Res :=
  if fR op ≠ 0 ∨ fK op ≠ 0 then illegal c else c.sendCard g (fS op) { steps := 3 }

/-- The popped card is on its way to D8 to D15, whose scoreboard bits are set (R52, R110). -/
def Sprig.filling (s : Sprig) (f : RecvFill) : Sprig := { s with fill := some f, board := s.board ||| 0xFF00 }

/-- RECV pops the head card of queue q; it blocks while no card stands there. -/
def Core.recvFrom (c : Core) (g : SprigId) (q : BitVec 3) : Res :=
  c.useD g [] cardRegs fun s =>
    if s.fill.isSome then .stall c
    else match c.pop (queueAt g q) with
      | none => .recv c q
      | some (f, c') => .commit (c'.modSprig g fun s => s.filling f) {}

/-- RECV.NB pops if a card stands at the head, and writes whether it did to predicate p. -/
def Core.recvNbFrom (c : Core) (g : SprigId) (q p : BitVec 3) : Res :=
  c.useD g [] cardRegs fun s =>
    if s.fill.isSome then .stall c
    else match c.pop (queueAt g q) with
      | none => .commit (c.modSprig g fun s => s.setP p false) {}
      | some (f, c') => .commit (c'.modSprig g fun s => (s.filling f).setP p true) {}

def bodyRecv (g : SprigId) (op : BitVec 20) (c : Core) : Res :=
  if fR op ≠ 0 ∨ fK op ≠ 0 ∨ (fS op).getLsbD 3 then illegal c else c.recvFrom g ((fS op).setWidth 3)

def bodyRecvNb (g : SprigId) (op : BitVec 20) (c : Core) : Res :=
  if fR op ≠ 0 ∨ (fS op).getLsbD 3 ∨ fK op &&& 0xFF8 ≠ 0 then illegal c
  else c.recvNbFrom g ((fS op).setWidth 3) (op.setWidth 3)

/-- Every earlier SEND and DEAL has been accepted or refused (R118). -/
def Core.sendsSettled (c : Core) (g : SprigId) : Bool :=
  decide ((c.sprig g).dealsOut = 0) && (List.range 16).all fun n =>
    decide ((c.chan g (BitVec.ofNat 4 n)).unresolved = 0) && (c.chan g (BitVec.ofNat 4 n)).out.isNone

def bodyFenceQ (g : SprigId) (op : BitVec 20) (c : Core) : Res :=
  if op ≠ 0 then illegal c else if c.sendsSettled g then .commit c {} else .stall c

def execSend (g : SprigId) (gd : BitVec 4) (op : BitVec 20) (s : State) : Out := insn g gd 0x80 (bodySend g op) s
def execRecv (g : SprigId) (gd : BitVec 4) (op : BitVec 20) (s : State) : Out := insn g gd 0x81 (bodyRecv g op) s
def execRecvNb (g : SprigId) (gd : BitVec 4) (op : BitVec 20) (s : State) : Out := insn g gd 0x82 (bodyRecvNb g op) s
def execFenceQ (g : SprigId) (gd : BitVec 4) (op : BitVec 20) (s : State) : Out := insn g gd 0x83 (bodyFenceQ g op) s

/-- RECV_UNBLOCK: a blocked RECV pops the card that reached the head of its queue, and commits (R110). -/
def execRecvUnblock (g : SprigId) (s : State) : Out :=
  onCore (fun c =>
    match (c.sprig g).req.block with
    | .recv q =>
      if !(c.sprig g).issues || c.quietSprig g then c
      else (match c.pop (queueAt g q) with
        | none => c
        | some (f, c') => (c'.modSprig g fun s => s.filling f).retire g {})
    | _ => c) s

/-- RECV_FILL: the card is written into D8 to D15, each with its word's poison tag (R110, R185). -/
def execRecvFill (g : SprigId) (s : State) : Out :=
  onCore (fun c =>
    match (c.sprig g).fill with
    | none => c
    | some f => c.modSprig g fun s =>
        let s' := (List.range 8).foldl (fun (s : Sprig) k =>
          s.setDP (BitVec.ofNat 4 (8 + k)) (cardWord f.card (BitVec.ofNat 3 k)) (f.poison.getLsbD k)) s
        { s' with fill := none, board := s'.board &&& 0x00FF }) s

end Sys2Proof.Machine
end

