-- ==== Sys2Proof/Machine/EventFam.lean ====
section
/-!
DEFINITION. Sys2Proof/Machine/EventFam.lean: WAIT and its wake, event latches, RDT, DEAL (R62, R64, R65, R112 to R114).
-/
namespace Sys2Proof.Machine

/-- The event-latch interrupt that MODE.IEN allows: the lowest set and enabled latch (R66, R67). -/
def Sprig.latchRequest (s : Sprig) : Option (BitVec 3) :=
  if !modeIen s.mode then none
  else match (List.range 8).find? fun i => (s.page.latch &&& s.page.evie.setWidth 8).getLsbD i with
    | none => none
    | some i => some (BitVec.ofNat 3 i)

/-- Whether an interrupt is requested that MODE.IEN allows. -/
def Core.interrupting (c : Core) (g : SprigId) : Bool :=
  modeIen (c.sprig g).mode && ((c.bicLatch g).isSome || (c.sprig g).latchRequest.isSome)

/-- A wake condition of R64 holds. -/
def Core.wakeCondition (c : Core) (g : SprigId) : Bool :=
  let p := (c.sprig g).page
  (List.range 8).any (fun q => p.wake.getLsbD q && decide ((c.queue (queueAt g (BitVec.ofNat 3 q))).count ≠ 0))
    || decide (p.latch &&& (p.wake >>> 8).setWidth 8 ≠ 0)
    || c.interrupting g

def bodyWait (g : SprigId) (op : BitVec 20) (c : Core) : Res :=
  if op ≠ 0 then illegal c else if c.wakeCondition g then .commit c {} else .sleep

/-- A WAIT that ends commits; the sprig runs on at the next instruction (R65). -/
def Core.endWait (c : Core) (g : SprigId) : Core := (c.modSprig g fun s => { s with state := .run }).retire g {}

def bodyEvr (g : SprigId) (op : BitVec 20) (c : Core) : Res :=
  if op.setWidth 16 ≠ (0 : BitVec 16) then illegal c
  else c.useD g [] [fR op] fun s => c.done g (s.setD (fR op) s.page.evWord) 1

/-- EVC: K[7:0] names latches, K[8] adds their MERGED bits. -/
def bodyEvc (g : SprigId) (op : BitVec 20) (c : Core) : Res :=
  if fR op ≠ 0 ∨ fS op ≠ 0 ∨ fK op &&& 0xE00 ≠ 0 then illegal c
  else
    let s := c.sprig g
    let m : Word := (op.setWidth 8 : Byte).setWidth 32
    let v := m ||| (if op.getLsbD 8 then m <<< 8 else 0)
    c.done g { s with page := s.page.evClear v } 1

/-- RDT: both words of one value of DTIME (R113). -/
def bodyRdt (g : SprigId) (op : BitVec 20) (c : Core) : Res :=
  let d := fR op
  if op.setWidth 16 ≠ (0 : BitVec 16) ∨ d.getLsbD 0 then illegal c
  else c.useD g [] [d, nextReg d] fun s =>
    c.done g ((s.setD d (c.time.dtime.setWidth 32)).setD (nextReg d) ((c.time.dtime >>> 32).setWidth 32)) 2

/-- The origin number of a sprig's deals in transit. -/
def dealOrigin (g : SprigId) : Nat := 0xD000000 + g.toNat

/-- A sprig may deal to a unit that exists and grants its bunch (R114, R238). -/
def Core.mayDeal (c : Core) (g : SprigId) (u : BitVec 16) : Bool :=
  unitExists u && (isSteward g || (c.ugrant u).getLsbD (bunchOf g).toNat)

/-- A deal card leaves the sprig (R114), or the violation freezes it. -/
def Core.sendDeal (c : Core) (g : SprigId) (unit : Word) (value : Word) (time : DWord) (e : Ending) : Res :=
  let u : BitVec 16 := unit.setWidth 16
  if !c.mayDeal g u then .freeze c causePerm none
  else .commit ((c.modSprig g fun s => { s with dealsOut := s.dealsOut + 1 }).launch (dealOrigin g) (.deal u value time g)) e

def bodyDeal (g : SprigId) (op : BitVec 20) (c : Core) : Res :=
  let t := fSrcA op
  if t.getLsbD 0 ∨ fAux op ≠ 0 then illegal c
  else c.useD g [fDst op, t, nextReg t, fSrcB op] [] fun s =>
    c.sendDeal g (s.rd (fSrcB op)) (s.rd (fDst op)) (s.rd (nextReg t) ++ s.rd t) { steps := 2 }

def execWaitI (g : SprigId) (gd : BitVec 4) (op : BitVec 20) (s : State) : Out := insn g gd 0x90 (bodyWait g op) s
def execEvr (g : SprigId) (gd : BitVec 4) (op : BitVec 20) (s : State) : Out := insn g gd 0x91 (bodyEvr g op) s
def execEvc (g : SprigId) (gd : BitVec 4) (op : BitVec 20) (s : State) : Out := insn g gd 0x92 (bodyEvc g op) s
def execRdt (g : SprigId) (gd : BitVec 4) (op : BitVec 20) (s : State) : Out := insn g gd 0x93 (bodyRdt g op) s
def execDeal (g : SprigId) (gd : BitVec 4) (op : BitVec 20) (s : State) : Out := insn g gd 0x94 (bodyDeal g op) s

/-- WAIT_WAKE: a wake condition ends the WAIT of a sleeping sprig (R65). -/
def execWaitWake (g : SprigId) (s : State) : Out :=
  onCore (fun c =>
    if (c.sprig g).state = .wait && c.wakeCondition g && !c.quietSprig g && !c.asleep (bunchOf g) then c.endWait g else c) s

end Sys2Proof.Machine
end

