-- ==== Sys2Proof/Machine/Quiesce.lean ====
section
/-!
DEFINITION. Sys2Proof/Machine/Quiesce.lean: entering QUIESCE, and a unit that cannot go on (spec/14_errors_and_ordering.md, R373,
R385 to R389).
-/
namespace Sys2Proof.Machine

/-- The streams that a part's QUIESCE closes (R389). -/
def Core.closePart (c : Core) (p : Part) : Core :=
  match p with
  | .sprig g => c.closeStreams g 2
  | .bunch b => (sprigsOf b).foldl (fun c g => c.closeStreams g 3) c
  | .hostPair h => c.setHchan h ((c.hchan h).closing 5 c.time.dtime)
  | _ => c

/-- A part enters QUIESCE now; a second cause joins the first (R385, R388). -/
def Core.enterQuiesce (c : Core) (p : Part) : Core :=
  if c.quiet p then c else { c.closePart p with quiesce := c.quiesce ++ [(p, c.time.dtime)] }

/-- A unit error is logged and the unit enters QUIESCE for its reset; in bunch 0 it is DEVICE_FATAL, and the entry waits for the core
reset that DEVICE_FATAL makes (R373, R380). -/
def Core.unitError (c : Core) (p : Part) (e : ErrInfo) : Core :=
  if p = .bunch 0 then { c.log { e with cls := 3 } with fatal := some { e with cls := 3 } }
  else (c.log { e with cls := 2 }).enterQuiesce p

end Sys2Proof.Machine
end

