-- ==== Sys2Proof/Machine/Masters.lean ====
section
/-!
DEFINITION. Sys2Proof/Machine/Masters.lean: who may write what, the discarding of a frozen master's writes, and writes to host memory
(R77, R337 to R341, R381).
-/
namespace Sys2Proof.Machine

/-- A host supervisor function (R338); the monitor acts as one (R473). -/
def Core.supervisor (c : Core) (m : Master) : Bool :=
  match m with
  | .host f => (Tbl.get c.cfg (sid 0x14 (0x10 * f.toNat)) (if f = 0 then 0xC00000FF#32 else 0)).getLsbD 31
  | .monitor => true
  | _ => false

/-- A Steward sprig or a host supervisor function. -/
def Core.privileged (c : Core) (m : Master) : Bool :=
  match m with
  | .sprig g => isSteward g
  | .bootRom => true
  | m => c.supervisor m

/-- A frozen host function's or peer's writes are discarded (R381), and a virtual function's until the Steward runs, since it is disabled
(R457). A frozen sprig issues none: a write of its that still arrives was committed before (R77). -/
def Core.frozenMaster (c : Core) (m : Master) : Bool :=
  match m with
  | .host f => decide (Tbl.get c.err.ffrz f.toNat 0 ≠ 0) || (decide (f ≠ 0) && !c.boot.steward)
  | .peer d => decide (Tbl.get c.err.pfrz d.toNat 0 ≠ 0)
  | _ => false

/-- Whether a master sees every register: a VF that is no supervisor sees a few (R339), and a peer's windows hold no register (R439). -/
def Core.seesAll (c : Core) (m : Master) : Bool :=
  match m with
  | .host _ => c.supervisor m
  | .peer _ => false
  | _ => true

/-- A write that only some masters may make: a sprig that may not commits a PERM violation, any other master's write is ignored. -/
def Core.writeBy (c : Core) (m : Master) (allowed : Bool) (k : Core → Core) : Core :=
  if c.frozenMaster m then c
  else if allowed && c.seesAll m then k c
  else match m with
    | .sprig g => c.freezeSprig g causePerm (c.sprig g).pc
    | _ => c

/-- A write of a register that every function sees; what follows it judges the writer. -/
def Core.writeSeen (c : Core) (m : Master) (k : Core → Core) : Core := if c.frozenMaster m then c else k c

/-- The answer of a register access, for the master that made it. -/
def Core.answer (c : Core) (m : Master) (v : Word) (poisoned abort : Bool) : Core :=
  { c with rdata := Tbl.set c.rdata (masterKey m) { value := v, poisoned := poisoned, abort := abort } {} }

/-- The answer of a read of several bytes, each with its mark (R165). -/
def Core.answerBytes (c : Core) (m : Master) (bs : List Byte) (ms : List Bool) : Core :=
  { c with rdata := Tbl.set c.rdata (masterKey m) { value := wordOf (bs.take 4), poisoned := ms.any id, data := bs, marks := ms } {} }

/-- A read of a register, `seen` by every function or not, with its side effect: a frozen function's read ends as a Completer Abort (R381),
and a register that the master does not see reads 0 (R339). -/
def Core.readBy (c : Core) (m : Master) (seen : Bool) (k : Core → Word × Core) : Core :=
  if c.frozenMaster m then
    (match m with
    | .host _ => c.answer m 0 false true
    | _ => c)
  else if c.seesAll m || seen then (k c).2.answer m (k c).1 false false
  else c.answer m 0 false false

/-- Bytes that the device writes to host memory. -/
def Core.hostWrite (c : Core) (a : Nat) : List Byte → Core
  | [] => c
  | b :: bs => Core.hostWrite { c with hmem := Tbl.set c.hmem a b 0 } (a + 1) bs

/-- Bus Master Enable of a function (R298, R346). -/
def Core.busMaster (c : Core) (f : FuncId) : Bool := Tbl.get c.hic.bme f.toNat false

/-- Whether an access of n bytes at a device address outside the register region reaches the device: a host function has it only through its
BAR4 window of 64 GiB, where PCIE_FCFG.WIN gives it one (R43, R337). -/
def Core.bar4Reaches (c : Core) (m : Master) (a n : Nat) : Bool :=
  match m with
  | .host f =>
    let base := (Tbl.get c.cfg (sid 0x14 (0x10 * f.toNat + 4)) 0).toNat % 16 * 2 ^ 36
    (Tbl.get c.cfg (sid 0x14 (0x10 * f.toNat)) (if f = 0 then 0xC00000FF#32 else 0)).getLsbD 30
      && decide (base ≤ a) && decide (a + n ≤ base + 2 ^ 36)
  | _ => true

/-- A host queue pair's configuration (R211). -/
def Core.pairCfg (c : Core) (h : BitVec 8) : Word := c.hqpReg h 0x08
def pairEn (w : Word) : Bool := w.getLsbD 31
def pairFunc (w : Word) : FuncId := (w >>> 25).setWidth 4
def pairSize (w : Word) : Nat := ((w >>> 21).setWidth 4).toNat
def Core.pairBase (c : Core) (h : BitVec 8) : Nat := (c.hqpReg h 4 ++ (c.hqpReg h 0 &&& 0xFFFFF000#32)).toNat

/-- Difference of two ring indices, which count modulo 2^(SIZE + 1). -/
def ringDiff (size : Nat) (x y : BitVec 17) : Nat := (x.toNat + 2 ^ (size + 1) - y.toNat % 2 ^ (size + 1)) % 2 ^ (size + 1)
/-- The next ring index. -/
def ringNext (size : Nat) (x : BitVec 17) : BitVec 17 := BitVec.ofNat 17 ((x.toNat + 1) % 2 ^ (size + 1))

/-- Pairs 0 to 64 carry commands: the admin pair, and those that CMDQ_CREATE set up (R215, R341). -/
def Core.isCmdPair (c : Core) (h : BitVec 8) : Bool := decide (h = 0) || c.cmdPairs.contains h

/-- Whether a master sees the registers of pair h: its own function, a supervisor, or a sprig through the far window (R339). -/
def Core.ownsPair (c : Core) (m : Master) (h : BitVec 8) : Bool :=
  match m with
  | .host f => decide (pairFunc (c.pairCfg h) = f) || c.supervisor m
  | .peer _ => false
  | _ => true

/-- Whether a master's BAR2 shows pair h: its own function's does (R340). -/
def Core.windowShows (c : Core) (m : Master) (h : BitVec 8) : Bool :=
  match m with
  | .host f => decide (pairFunc (c.pairCfg h) = f)
  | _ => false

end Sys2Proof.Machine
end

