-- ==== Sys2Proof/Machine/Integer.lean ====
section
/-!
DEFINITION. Sys2Proof/Machine/Integer.lean: integer arithmetic (R94 to R97) and its shared forms.
-/
namespace Sys2Proof.Machine

/-- An integer result is written with its flags. -/
def Core.putInt (c : Core) (g : SprigId) (s : Sprig) (d : BitVec 4) (o : AluOut) : Res :=
  c.done g { s.setD d o.r with sw := swInt s.sw o } 1

/-- Dd = f Da Db; AUX bits outside `use` are reserved. -/
def bodyRR (g : SprigId) (op : BitVec 20) (use : Byte) (f : Sprig → Word → Word → AluOut) (c : Core) : Res :=
  if fAux op &&& ~~~use ≠ 0 then illegal c
  else c.useD g [fSrcA op, fSrcB op] [fDst op] fun s => c.putInt g s (fDst op) (f s (s.rd (fSrcA op)) (s.rd (fSrcB op)))

/-- Dd = f Da; SRCB and the AUX bits outside `use` are reserved. -/
def bodyR1 (g : SprigId) (op : BitVec 20) (use : Byte) (f : Word → AluOut) (c : Core) : Res :=
  if fAux op &&& ~~~use ≠ 0 ∨ fSrcB op ≠ 0 then illegal c
  else c.useD g [fSrcA op] [fDst op] fun s => c.putInt g s (fDst op) (f (s.rd (fSrcA op)))

/-- Shifts and rotates: the count is Db[5:0], or AUX[4:0] with AUX[7] set and SRCB reserved (R94). DEDUCED: AUX[4:0] has a use in the row,
so it is not reserved where AUX[7] is clear (R83; log entry 30). -/
def bodyShift (g : SprigId) (op : BitVec 20) (f : Word → BitVec 6 → AluOut) (c : Core) : Res :=
  let aux := fAux op
  if aux &&& 0x60 ≠ 0 then illegal c
  else if aux.getLsbD 7 then
    (if fSrcB op ≠ 0 then illegal c
    else c.useD g [fSrcA op] [fDst op] fun s => c.putInt g s (fDst op) (f (s.rd (fSrcA op)) ((aux.setWidth 5).setWidth 6)))
  else c.useD g [fSrcA op, fSrcB op] [fDst op] fun s =>
    c.putInt g s (fDst op) (f (s.rd (fSrcA op)) ((s.rd (fSrcB op)).setWidth 6))

/-- Dd = f Dd imm. -/
def bodyRI (g : SprigId) (op : BitVec 20) (f : Sprig → Word → BitVec 16 → AluOut) (c : Core) : Res :=
  c.useD g [fDst op] [fDst op] fun s => c.putInt g s (fDst op) (f s (s.rd (fDst op)) (fImm op))

/-- MUL writes the 64-bit product to an even-odd pair; Z and N are those of the 64 bits (R94, R95). -/
def bodyMul (g : SprigId) (op : BitVec 20) (c : Core) : Res :=
  let d := fDst op
  if fAux op &&& 0xFE ≠ 0 ∨ d.getLsbD 0 then illegal c
  else c.useD g [fSrcA op, fSrcB op] [d, nextReg d] fun s =>
    let p := mul64 ((fAux op).getLsbD 0) (s.rd (fSrcA op)) (s.rd (fSrcB op))
    c.done g { (s.setD d (p.setWidth 32)).setD (nextReg d) ((p >>> 32).setWidth 32) with
      sw := putBit (putBit s.sw bitZ (decide (p = 0))) bitN p.msb } 2

/-- DIV tests its divisor and passes the operands to the divider; the pair is scoreboarded until the result (R97). -/
def bodyDiv (g : SprigId) (op : BitVec 20) (c : Core) : Res :=
  let d := fDst op
  if fAux op &&& 0xFE ≠ 0 ∨ d.getLsbD 0 then illegal c
  else c.useD g [fSrcA op, fSrcB op] [d, nextReg d] fun s =>
    if s.rd (fSrcB op) = 0 then .fault c vecDiv0 0x04 none
    else if s.div.isSome then .stall c
    else
      let (q, r) := divide ((fAux op).getLsbD 0) (s.rd (fSrcA op)) (s.rd (fSrcB op))
      c.done g { s with
        div := some ⟨q, r, .reg d, .reg (nextReg d)⟩
        board := putBit (putBit s.board d.toNat true) (nextReg d).toNat true } 2

def execAdd (g : SprigId) (gd : BitVec 4) (op : BitVec 20) (s : State) : Out :=
  insn g gd 0x20 (bodyRR g op 0 fun s a b => aluAdd a b false (modeSat s.mode)) s
def execSub (g : SprigId) (gd : BitVec 4) (op : BitVec 20) (s : State) : Out :=
  insn g gd 0x21 (bodyRR g op 0 fun s a b => aluSub a b (modeSat s.mode)) s
def execAndD (g : SprigId) (gd : BitVec 4) (op : BitVec 20) (s : State) : Out :=
  insn g gd 0x22 (bodyRR g op 0 fun _ a b => aluLogic (a &&& b)) s
def execOrD (g : SprigId) (gd : BitVec 4) (op : BitVec 20) (s : State) : Out :=
  insn g gd 0x23 (bodyRR g op 0 fun _ a b => aluLogic (a ||| b)) s
def execXorD (g : SprigId) (gd : BitVec 4) (op : BitVec 20) (s : State) : Out :=
  insn g gd 0x24 (bodyRR g op 0 fun _ a b => aluLogic (a ^^^ b)) s
def execShl (g : SprigId) (gd : BitVec 4) (op : BitVec 20) (s : State) : Out := insn g gd 0x25 (bodyShift g op aluShl) s
def execShr (g : SprigId) (gd : BitVec 4) (op : BitVec 20) (s : State) : Out := insn g gd 0x26 (bodyShift g op aluShr) s
def execSar (g : SprigId) (gd : BitVec 4) (op : BitVec 20) (s : State) : Out := insn g gd 0x27 (bodyShift g op aluSar) s
def execRot (g : SprigId) (gd : BitVec 4) (op : BitVec 20) (s : State) : Out := insn g gd 0x28 (bodyShift g op aluRot) s
def execMinD (g : SprigId) (gd : BitVec 4) (op : BitVec 20) (s : State) : Out :=
  insn g gd 0x29 (bodyRR g op 1 fun _ a b => aluMin ((fAux op).getLsbD 0) a b) s
def execMaxD (g : SprigId) (gd : BitVec 4) (op : BitVec 20) (s : State) : Out :=
  insn g gd 0x2A (bodyRR g op 1 fun _ a b => aluMax ((fAux op).getLsbD 0) a b) s
def execAbsD (g : SprigId) (gd : BitVec 4) (op : BitVec 20) (s : State) : Out := insn g gd 0x2B (bodyR1 g op 0 aluAbs) s
def execNegD (g : SprigId) (gd : BitVec 4) (op : BitVec 20) (s : State) : Out := insn g gd 0x2C (bodyR1 g op 0 aluNeg) s
def execClz (g : SprigId) (gd : BitVec 4) (op : BitVec 20) (s : State) : Out := insn g gd 0x2D (bodyR1 g op 0 aluClz) s
def execSat (g : SprigId) (gd : BitVec 4) (op : BitVec 20) (s : State) : Out :=
  insn g gd 0x2E (bodyR1 g op 0x3F fun a => aluSatTo a ((fAux op).setWidth 5) ((fAux op).getLsbD 5)) s
def execMul (g : SprigId) (gd : BitVec 4) (op : BitVec 20) (s : State) : Out := insn g gd 0x2F (bodyMul g op) s
def execDiv (g : SprigId) (gd : BitVec 4) (op : BitVec 20) (s : State) : Out := insn g gd 0x30 (bodyDiv g op) s
def execAddI (g : SprigId) (gd : BitVec 4) (op : BitVec 20) (s : State) : Out :=
  insn g gd 0x38 (bodyRI g op fun s a i => aluAdd a (i.signExtend 32) false (modeSat s.mode)) s
def execAndI (g : SprigId) (gd : BitVec 4) (op : BitVec 20) (s : State) : Out :=
  insn g gd 0x39 (bodyRI g op fun _ a i => aluLogic (a &&& i.setWidth 32)) s
def execOrI (g : SprigId) (gd : BitVec 4) (op : BitVec 20) (s : State) : Out :=
  insn g gd 0x3A (bodyRI g op fun _ a i => aluLogic (a ||| i.setWidth 32)) s
def execXorI (g : SprigId) (gd : BitVec 4) (op : BitVec 20) (s : State) : Out :=
  insn g gd 0x3B (bodyRI g op fun _ a i => aluLogic (a ^^^ i.setWidth 32)) s

/-- A returned value is written to its register, whose scoreboard bit clears, or into its frame slot with its poison mark (R52,
R70). -/
def Core.deliver (c : Core) (g : SprigId) (d : Dest) (v : Word) (poison : Bool) : Core :=
  match d with
  | .reg i => c.modSprig g fun s => { s.setDP i v poison with board := putBit s.board i.toNat false }
  | .slot fr n =>
    let a := localsBase g + fr.toNat
    let c := (c.setWord (a + 8 + 4 * n.toNat) v)
    let c := if poison then c.setByte (a + 3) (c.byte (a + 3) ||| (1#8 <<< n.toNat)) else c
    (List.range 4).foldl (fun c k => c.setParity (a + 8 + 4 * n.toNat + k) false) c
  | .hold => c.modSprig g fun s => { s with held := some (v, poison) }
  | .pc => c
  | .drop => c

/-- The divider writes quotient and remainder together (R97). -/
def Core.divReturn (c : Core) (g : SprigId) : Core :=
  match (c.sprig g).div with
  | none => c
  | some x => ((c.modSprig g fun s => { s with div := none }).deliver g x.dq x.quo false).deliver g x.dr x.rem false

/-- DIV_RESULT: 18 steps after COMMIT (R97). -/
def execDivResult (g : SprigId) (s : State) : Out := onCore (fun c => c.divReturn g) s

end Sys2Proof.Machine
end

