-- ==== Sys2Proof/Machine/SystemFam.lean ====
section
/-!
DEFINITION. Sys2Proof/Machine/SystemFam.lean: the bank atomics and the system instructions (R51, R115 to R118, R172).
-/
namespace Sys2Proof.Machine

/-- What precedes the issue of a bank atomic at data address a (R115, R116): its ending where it may not issue, or the predicate of a lost
lease for which it is void (R177). At most two are outstanding, and none issues while the store buffer overlaps its word. -/
def Core.atomicCheck (c : Core) (g : SprigId) (s : Sprig) (a : BitVec 16) : Except Res (Option (BitVec 3)) :=
  let off := s.scratchOff a
  if regionOf a ≠ .s ∨ a.toNat % 4 ≠ 0 then .error (alignFault c a)
  else if !c.slimGrants g off true || inPages off then .error (.freeze c causePerm (some (a.setWidth 32)))
  else match c.holderGate g off with
    | .wait => .error (.stall c)
    | .void p => .ok (some p)
    | .pass =>
      if 2 ≤ s.atomics.length || s.buf.any (fun b => b.overlaps (bankAddr g s a) 4) then .error (.stall c) else .ok none

/-- The atomic is under way with its operand and the place its old value goes to. -/
def Sprig.atomicOut (s : Sprig) (a : BitVec 16) (swap : Bool) (v : Word) (dst : Dest) : Sprig :=
  { s.reportLease none with atomics := s.atomics ++ [⟨s.scratchOff a, swap, v, dst, s.depth⟩] }

/-- A bank atomic at data address a is issued for register d (R115). A void one returns 0 at once (R177). -/
def Core.issueAtomic (c : Core) (g : SprigId) (s : Sprig) (a : BitVec 16) (swap : Bool) (d : BitVec 4) : Res :=
  match c.atomicCheck g s a with
  | .error r => r
  | .ok (some p) => c.done g ((s.setD d 0).reportLease (some p)) 1
  | .ok none => c.done g { s.atomicOut a swap (s.rd d) (.reg d) with board := putBit s.board d.toNat true } 1

def bodyAtomic (g : SprigId) (op : BitVec 20) (swap : Bool) (c : Core) : Res :=
  match (c.sprig g).ea op 4 false with
  | none => illegal c
  | some e =>
    c.useD g (fDst op :: e.idx) [fDst op] fun s =>
      match c.issueAtomic g s e.addr swap (fDst op) with
      | .commit c' x => .commit (c'.modSprig g fun s => s.applyUpd e.upd) x
      | r => r

/-- MMODE and its forms: the new MODE comes into force when the shadow completes (R51, R117). -/
def Core.newMode (c : Core) (v : Word) : Res :=
  if modeLane v = 3 then illegal c else .commit c { mode := some (v &&& modeMask) }

/-- The MODE that the latest MMODE wrote (R51). -/
def Sprig.latestMode (s : Sprig) : Word := s.written.getD s.mode

def bodyMmode (g : SprigId) (op : BitVec 20) (c : Core) : Res :=
  if op.setWidth 16 ≠ (0 : BitVec 16) then illegal c else c.useD g [fR op] [] fun s => c.newMode (s.rd (fR op))

def modeImm (op : BitVec 20) : Word := (op.setWidth 9 : BitVec 9).setWidth 32
def bodyMmodeS (g : SprigId) (op : BitVec 20) (c : Core) : Res :=
  if op &&& 0xFFE00 ≠ 0 then illegal c else c.newMode ((c.sprig g).latestMode ||| modeImm op)
def bodyMmodeC (g : SprigId) (op : BitVec 20) (c : Core) : Res :=
  if op &&& 0xFFE00 ≠ 0 then illegal c else c.newMode ((c.sprig g).latestMode &&& ~~~(modeImm op))

/-- Stores are visible: the buffer is empty, every far store accepted, every atomic performed (R118). -/
def Sprig.storesSettled (s : Sprig) : Bool := s.buf.isEmpty && s.farStore.isNone && s.atomics.isEmpty

def bodyFence (g : SprigId) (op : BitVec 20) (c : Core) : Res :=
  if op ≠ 0 then illegal c else if (c.sprig g).storesSettled then .commit c {} else .stall c

def bodySync (g : SprigId) (op : BitVec 20) (c : Core) : Res :=
  if op ≠ 0 then illegal c
  else if (c.sprig g).storesSettled && c.sendsSettled g && decide ((c.sprig g).board = 0) then .commit c {} else .stall c

def bodyHalt (g : SprigId) (op : BitVec 20) (c : Core) : Res :=
  if op ≠ 0 then illegal c else .commit (c.modSprig g fun s => { s with state := .halted }) {}

def execAadd (g : SprigId) (gd : BitVec 4) (op : BitVec 20) (s : State) : Out := insn g gd 0xA0 (bodyAtomic g op false) s
def execAswp (g : SprigId) (gd : BitVec 4) (op : BitVec 20) (s : State) : Out := insn g gd 0xA1 (bodyAtomic g op true) s
def execMmode (g : SprigId) (gd : BitVec 4) (op : BitVec 20) (s : State) : Out := insn g gd 0xB0 (bodyMmode g op) s
def execMmodeS (g : SprigId) (gd : BitVec 4) (op : BitVec 20) (s : State) : Out := insn g gd 0xB1 (bodyMmodeS g op) s
def execMmodeC (g : SprigId) (gd : BitVec 4) (op : BitVec 20) (s : State) : Out := insn g gd 0xB2 (bodyMmodeC g op) s
def execFenceI (g : SprigId) (gd : BitVec 4) (op : BitVec 20) (s : State) : Out := insn g gd 0xB3 (bodyFence g op) s
def execSyncI (g : SprigId) (gd : BitVec 4) (op : BitVec 20) (s : State) : Out := insn g gd 0xB4 (bodySync g op) s
def execHalt (g : SprigId) (gd : BitVec 4) (op : BitVec 20) (s : State) : Out := insn g gd 0xB5 (bodyHalt g op) s

/-- The sprig's oldest atomic is performed at its bank and the old value returns (R115, R172). A lease region held by another revokes
first and the atomic waits (R176); at a lost lease it changes nothing and returns 0 (R177). -/
def Core.atomicReturn (c : Core) (g : SprigId) : Core :=
  match (c.sprig g).atomics with
  | [] => c
  | t :: rest =>
    match c.leaseGate (bunchOf g) ((inBunch g).setWidth 8) (some t.depth) t.off with
    | (.wait, c') => c'
    | (.void _, c') => (c'.modSprig g fun s => { s with atomics := rest }).deliver g t.dst 0 false
    | (.pass, c') =>
      let (old, p, c'') := (c'.soloRound (bunchOf g) t.off ((inBunch g).setWidth 6) true (some (offWord t.off))).performAtomic (bunchOf g) t.off t.swap t.operand ((inBunch g).setWidth 8)
      (c''.modSprig g fun s => { s with atomics := rest }).deliver g t.dst old p

/-- ATOMIC_RESULT. -/
def execAtomicResult (g : SprigId) (s : State) : Out := onCore (fun c => c.atomicReturn g) s

end Sys2Proof.Machine
end

