-- ==== Sys2Proof/Machine/EntryFam.lean ====
section
/-!
DEFINITION. Sys2Proof/Machine/EntryFam.lean: interrupt and fault entry (R66 to R70), the store buffer's drain (R116, R122 to R124,
R177), and the sprig's own reads and writes of its control page that have a row of their own (R60 to R62, R236, R290).
-/
namespace Sys2Proof.Machine

/-! ### Taking an interrupt or fault -/

/-- The vector a sprig takes next and the PC its frame will hold (R66, R67): a fault or trap; a BIC delivery or an event latch, which
MODE.IEN must allow, the higher priority first and BIC at a tie; TRACE. -/
def Core.recognise (c : Core) (g : SprigId) : Option (BitVec 6 × BitVec 16) :=
  let s := c.sprig g
  let here := if s.state = .wait then s.pc + 1 else s.pc
  match s.req.rank1 with
  | some v => some (v, s.req.resume)
  | none =>
    let evPri : BitVec 4 := (s.page.evie >>> 8).setWidth 4
    let bic := if modeIen s.mode then c.bicLatch g else none
    match bic, s.latchRequest with
    | some (_, p), some i => some (if evPri ≤ p then 16 + p.setWidth 6 else 8 + i.setWidth 6, here)
    | some (_, p), none => some (16 + p.setWidth 6, here)
    | none, some i => some (8 + i.setWidth 6, here)
    | none, none => if s.req.trace then some (6, here) else none

/-- A value outstanding for D0 to D3 goes to its slot of the frame (R70). -/
def Dest.toSlot (frame : BitVec 16) : Dest → Dest
  | .reg i => if i.toNat < 4 then .slot frame (i.setWidth 2) else .reg i
  | .pc => .drop
  | .hold => .drop
  | d => d

/-- The words of the frame (R68), after SW has taken the vector. -/
def Sprig.frameWords (s : Sprig) (resume : BitVec 16) : List Word :=
  [resume.setWidth 32 ||| (s.pImage.setWidth 32 <<< 16) ||| ((s.tags.setWidth 4 : BitVec 4).setWidth 32 <<< 24),
    s.sw, s.rd 0, s.rd 1, s.rd 2, s.rd 3]

/-- SW at entry: VEC, and PIEN and PTRACE from the MODE in force at entry (R49, R51, R69). -/
def entrySw (sw mode : Word) (vec : BitVec 6) : Word :=
  putBit (putBit ((sw &&& 0xFFC0FFFF#32) ||| (vec.setWidth 32 <<< 16)) bitPien (modeIen mode)) bitPtrace (modeTrace mode)

/-- The sprig after entry to a handler at `pc` with its frame at `fr` (R68 to R71). The entry routine runs 7 words, and F fetches the
handler's first instruction. -/
def Sprig.enter (s : Sprig) (vec : BitVec 6) (pc fr : BitVec 16) : Sprig :=
  let m := s.latestMode
  { s.setA 7 fr with
    sw := entrySw s.sw m vec
    mode := putBit (putBit m 0 false) 8 false
    written := none
    pc := pc
    state := .run
    board := s.board &&& 0xFFF0
    farLoad := s.farLoad.map fun f => { f with dst := f.dst.toSlot fr }
    div := s.div.map fun x => { x with dq := x.dq.toSlot fr, dr := x.dr.toSlot fr }
    atomics := s.atomics.map fun t => { t with dst := t.dst.toSlot fr }
    page := { s.page with cntStep := s.page.cntStep + 7, cntFetch := s.page.cntFetch + 1 }
    req := { s.req with rank1 := none, trace := false, block := .none }
    depth := s.depth + 1
    held := none }

/-- Bytes written to a bank of sprig g at a data address, with good parity (R158). -/
def Core.bankStore (c : Core) (g : SprigId) (a : Nat) (bs : List Byte) : Core :=
  (List.range bs.length).foldl (fun c k => c.setParity (localsBase g + a + k) false) (c.setBytes (localsBase g + a) bs)

/-- Vector entry v of sprig g's table: VALID and the handler's PC (R66). -/
def Core.vectorWord (c : Core) (g : SprigId) (v : BitVec 6) : Word := c.word (localsBase g + 4 * v.toNat)

/-- The entry routine's seven microwords, 0x000 to 0x006, are read (R127, R128): single-bit errors are corrected and logged. The result says
whether one has a double-bit error. -/
def Core.entryWords (c : Core) (g : SprigId) : Bool × Core :=
  (List.range 7).foldl (fun (acc : Bool × Core) k =>
    let a := storeBase g + 4 * k
    (acc.1 || decide (acc.2.csMark a = .double), acc.2.logCs g a (BitVec.ofNat 16 k))) (false, c)

/-- An instruction in progress is abandoned by the entry that its request makes (R73). -/
def Core.abandonFor (c : Core) (g : SprigId) : Core := if (c.sprig g).req.block = .none then c else c.dropInsn g

/-- Entry (R68, R69): a frame outside the Y bank freezes the sprig with cause FRAME, an invalid vector with cause VECTOR; otherwise
the frame is written and the handler starts. A double-bit error in a word of the entry routine leaves a PARITY request in its place (log
entry 71). -/
def Core.takeEntry (c : Core) (g : SprigId) (vec : BitVec 6) (resume : BitVec 16) : Core :=
  let s := c.sprig g
  let fr := s.ra 7 - 24
  let v := c.vectorWord g vec
  if (s.ra 7).toNat < 0x6000 + 24 ∨ 0xC000 < (s.ra 7).toNat then c.freezeSprig g causeFrame resume
  else if !v.getLsbD 16 then c.freezeSprig g causeVector resume
  else match c.entryWords g with
  | (true, c) => c.modSprig g fun s => { s with
      faultPc := resume, page := { s.page with faultDetail := 0x03 }
      req := { s.req with rank1 := some vecParity, resume := resume } }
  | (false, c) =>
    let c := c.abandonFor g
    let s := c.sprig g
    let words := ({ s with sw := entrySw s.sw s.latestMode vec }).frameWords resume
    (c.bankStore g fr.toNat (words.flatMap fun w => bytesOf w 4)).setSprig g (s.enter vec (v.setWidth 16) fr)

/-- The request that a sprig takes: a WAIT that it ends commits first (R65), and a step command that ran the WAIT ends there, in HALTED, to
which nothing is delivered (R79). -/
def Core.takeRequest (c : Core) (g : SprigId) (vec : BitVec 6) (resume : BitVec 16) : Core :=
  if (c.sprig g).state = .wait then
    let c' := c.endWait g
    if (c.sprig g).req.stepping then c' else c'.takeEntry g vec resume
  else c.takeEntry g vec resume

/-- INTERRUPT_ENTRY: a sprig in RUN or WAIT takes its highest request. -/
def execInterruptEntry (g : SprigId) (s : State) : Out :=
  onCore (fun c =>
    if c.awake g && !c.quietSprig g && !c.asleep (bunchOf g) then
      match c.recognise g with
      | none => c
      | some (v, r) => c.takeRequest g v r
    else c) s

/-! ### The store buffer -/

/-- Whether an atomic not yet performed holds an entry back (R116). -/
def Sprig.heldByAtomic (s : Sprig) (b : BunchId) (x : SbEntry) : Bool :=
  s.atomics.any fun t => x.overlaps (scratchBase b + t.off.toNat / 4 * 4) 4

def isScratchAddr (a : Nat) : Bool := decide (a < 0x4800000000)

/-- The verdict of the lease slots on an entry that reaches its bank. -/
def Core.entryGate (c : Core) (g : SprigId) (x : SbEntry) : Gate × Core :=
  if isScratchAddr x.addr then
    c.leaseGate (bunchOf g) ((inBunch g).setWidth 8) (some x.depth) (BitVec.ofNat 21 x.addr)
  else (.pass, c)

/-- An entry's bytes reach their bank (R158, R164). -/
def Core.writeEntry (c : Core) (g : SprigId) (x : SbEntry) : Core :=
  if isScratchAddr x.addr then c.bankWrite (bunchOf g) (BitVec.ofNat 21 x.addr) x.bytes
  else c.bankStore g (x.addr - localsBase g) x.bytes

/-- The oldest entry, or linked pair, drains (R124): it waits for an atomic to its word and for a lease region's restore, and is
discarded where the holder's lease was lost. -/
def Core.drainNow (c : Core) (g : SprigId) : Core :=
  let s := c.sprig g
  match s.buf with
  | [] => c
  | x :: rest =>
    let (y, rest) : Option SbEntry × List SbEntry := if x.linked then (rest.head?, rest.tail) else (none, rest)
    let es := x :: y.toList
    if es.any fun x => s.heldByAtomic (bunchOf g) x then c
    else
      let (gate, c) := es.foldl (fun (acc : Gate × Core) x =>
        match acc.1 with
        | .pass => acc.2.entryGate g x
        | _ => acc) (.pass, c)
      match gate with
      | .wait => c
      | .void _ => c.modSprig g fun s => { s with buf := rest }
      | .pass => (es.foldl (fun c x => c.writeEntry g x) c).modSprig g fun s => { s with buf := rest }

/-- A drain by itself: a scratch entry wins a round of its bank, a pair two; an entry of the X or the Y bank takes a step in which the
instruction in X leaves the bank's port free (R124; log entry 68). -/
def Core.drain (c : Core) (g : SprigId) : Core :=
  match (c.sprig g).buf with
  | [] => c
  | x :: _ =>
    if isScratchAddr x.addr then
      (c.soloRound (bunchOf g) (BitVec.ofNat 21 x.addr) ((inBunch g).setWidth 6) x.linked none).drainNow g
    else c.drainNow g

/-- STORE_BUFFER_DRAIN. -/
def execStoreBufferDrain (g : SprigId) (s : State) : Out := onCore (fun c => c.drain g) s

/-! ### The control page -/

/-- SPG_QPOP_READ: word 0 of a pop port pops the head card into the port buffer (R60, R185). -/
def execSpgQpopRead (g : SprigId) (q : BitVec 3) (s : State) : Out :=
  onCore (fun c =>
    let (v, p, c') := c.popPort g q
    c'.answer (.sprig g) v p false) s

/-- SPG_CLAIM_READ: the sprig claims a source of its BIC (R290). -/
def execSpgClaimRead (g : SprigId) (s : State) : Out :=
  onCore (fun c =>
    let (v, c') := c.claim (bunchOf g) (inBunch g)
    c'.answer (.sprig g) v false false) s

/-- SPG_EV_WRITE: a W1C write clears latches and MERGED bits (R62). -/
def execSpgEvWrite (g : SprigId) (v : Word) (s : State) : Out :=
  onCore (fun c => c.modSprig g fun s => { s with page := s.page.evClear v }) s

/-- SPG_DLARM_WRITE: the owner arms, disarms or satisfies its monitor (R236). -/
def execSpgDlarmWrite (g : SprigId) (slot : BitVec 2) (v : DWord) (s : State) : Out :=
  onCore (fun c => c.dlarm g slot v) s

end Sys2Proof.Machine
end

