-- ==== Sys2Proof/Machine/Mem.lean ====
section
/-!
DEFINITION. Sys2Proof/Machine/Mem.lean: the GDDR6 address map, its ECC words, and accesses of hardware units to memory
(spec/11_module_memory.md, R299 to R305).
-/
namespace Sys2Proof.Machine

/-! ### The map of R300 -/

/-- Data channel, check channel and channel offset of a device address below 128 GiB. -/
structure MemPlace where
  dat : Nat
  chk : Nat
  off : Nat
deriving DecidableEq, Repr

def memPlace (a : Nat) : MemPlace :=
  let g := a / 256
  let e := g % 4
  let q := g / 4
  let k := q % 8
  let s := q / 8
  { dat := 9 * e + (s + 1 + k) % 9, chk := 9 * e + s % 9, off := s * 256 + a % 256 }

def isMem (a : Nat) : Bool := decide (a < 0x2000000000)

/-- The device address of a channel offset in a data granule; `none` for a check granule. -/
def memAddr (ch off : Nat) : Option Nat :=
  let j := ch % 9
  let s := off / 256
  if j = s % 9 then none
  else
    let k := (j + 17 - s % 9) % 9
    some ((4 * (8 * s + k) + ch / 9) * 256 + off % 256)

def Core.gdc (c : Core) (k : Nat) : Gdc := Tbl.get c.gdcs k Gdc.reset
def Core.setGdc (c : Core) (k : Nat) (x : Gdc) : Core := { c with gdcs := Tbl.set c.gdcs k x Gdc.reset }

/-- What becomes of an access at a GDDR6 address (R301, R310, R311). -/
inductive Avail where
  | ok
  | stalls
  | gone
deriving DecidableEq, Repr

def ChannelState.avail : ChannelState → Avail
  | .ready => .ok
  | .init => .stalls
  | .selfref => .stalls
  | .quiesce => .gone
  | .failed => .gone

/-- A channel in QUIESCE refuses whatever its STATE (R385). -/
def Core.chanAvail (c : Core) (k : Nat) : Avail :=
  if c.quiet (.channel (BitVec.ofNat 6 k)) then .gone else (c.gdc k).st.avail

/-- Both channels of the address are needed (R301). -/
def Core.memAvail (c : Core) (a : Nat) : Avail :=
  match c.chanAvail (memPlace a).dat, c.chanAvail (memPlace a).chk with
  | .gone, _ => .gone
  | _, .gone => .gone
  | .ok, .ok => .ok
  | _, _ => .stalls

/-- The worst answer over a range of addresses. -/
def Core.rangeAvail (c : Core) (a n : Nat) : Avail :=
  (List.range ((a + n - 1) / 256 + 1 - a / 256)).foldl (fun acc i =>
    match acc, c.memAvail ((a / 256 + i) * 256) with
    | .gone, _ => .gone
    | _, .gone => .gone
    | .ok, .ok => .ok
    | _, _ => .stalls) .ok

/-! ### ECC words of 32 bytes (R302 to R305) -/

/-- The mark of the GDDR6 ECC word that holds `a` stands at the word's first address. -/
def Core.memMark (c : Core) (a : Nat) : EccMark := c.mark (a / 32 * 32)
def Core.setMemMark (c : Core) (a : Nat) (m : EccMark) : Core := c.setMark (a / 32 * 32) m

/-- Entries and counts for an error found in an ECC word at `a` (R303). -/
def Core.memError (c : Core) (ch a : Nat) (shown : DWord) (bad : Bool) : Core :=
  let x := c.gdc ch
  let x' := if bad then { x with ue := satInc16 x.ue, errAddr := shown } else { x with ce := satInc16 x.ce }
  (c.setGdc ch x').log
    { cls := if bad then 1 else 0, source := 0x0A, code := if bad then 0x0005 else 0x0004, unit := BitVec.ofNat 32 ch,
      detail := BitVec.ofNat 16 ch, addr := BitVec.ofNat 40 a }

/-- The controller reads the ECC word at `a`: whether its data are poisoned, and the core after it (R303). -/
def Core.readMemWord (c : Core) (a : Nat) : Bool × Core :=
  let w := a / 32 * 32
  match c.memMark a with
  | .ok => (false, c)
  | .poisoned => (true, c)
  | .single => (false, c.memError (memPlace a).dat w 0 false)
  | .double => (true, (c.setMemMark a .poisoned).memError (memPlace a).dat w (BitVec.ofNat 64 w) true)

/-- Marks of the words of w bytes that n bytes at `a` touch, byte by byte. -/
def perByte (a w n : Nat) (ps : List Bool) : List Bool := (List.range n).map fun k => ps.getD ((a + k) / w - a / w) false

/-- A read of GDDR6 bytes, each with its mark. -/
def Core.readMemMarks (c : Core) (a n : Nat) : List Byte × List Bool × Core :=
  let r := (List.range ((a + n - 1) / 32 + 1 - a / 32)).foldl (fun (acc : List Bool × Core) i =>
    let (p, c) := acc.2.readMemWord ((a / 32 + i) * 32)
    (acc.1 ++ [p], c)) ([], c)
  (c.bytes a n, perByte a 32 n r.1, r.2)

/-- A read of GDDR6 bytes. -/
def Core.readMem (c : Core) (a n : Nat) : List Byte × Bool × Core :=
  let (bs, ms, c') := c.readMemMarks a n
  (bs, ms.any id, c')

/-- A write of GDDR6 bytes (R304). -/
def Core.writeMem (c : Core) (a : Nat) (bs : List Byte) (poisoned : Bool) : Core :=
  let n := bs.length
  if n = 0 then c
  else
    (List.range ((a + n - 1) / 32 + 1 - a / 32)).foldl (fun c i =>
      let w := (a / 32 + i) * 32
      let whole := decide (a ≤ w) && decide (w + 32 ≤ a + n)
      c.setMemMark w (if poisoned then .poisoned else if whole then .ok
        else match c.memMark w with | .ok => .ok | .single => .ok | .double => .poisoned | .poisoned => .poisoned)) (c.setBytes a bs)

/-! ### Accesses by hardware units -/

def isScratch (a : Nat) : Bool := decide (0x4000000000 ≤ a) && decide (a < 0x4008000000)
def scratchBunch (a : Nat) : BunchId := BitVec.ofNat 6 ((a - 0x4000000000) / 0x200000)
def scratchOffset (a : Nat) : BitVec 21 := BitVec.ofNat 21 (a % 0x200000)
def isLocals (a : Nat) : Bool := decide (0x4800000000 ≤ a) && decide (a < 0x4810000000)

/-- A unit reads device memory, each byte with its poison mark: GDDR6, a scratchpad or a sprig's locals (R158, R163, R165, R303). -/
def Core.unitReadMarks (c : Core) (who : Byte) (a n : Nat) : List Byte × List Bool × Core :=
  if n = 0 then ([], [], c)
  else if isMem a then c.readMemMarks a n
  else if isScratch a then
    let off := (scratchOffset a).toNat
    let (ps, c') := (c.unitAccess (scratchBunch a) who off n).readEccs (scratchBunch a) off n who
    (c.bytes a n, perByte a 8 n ps, c')
  else
    (c.bytes a n, (List.range n).map fun k => c.badParity (a + k),
      match c.firstBad a n with
      | some bad => c.logParity (BitVec.ofNat 11 ((a - 0x4800000000) / 0x20000)) bad
      | none => c)

/-- The same with one mark for the whole. -/
def Core.unitRead (c : Core) (who : Byte) (a n : Nat) : List Byte × Bool × Core :=
  let (bs, ms, c') := c.unitReadMarks who a n
  (bs, ms.any id, c')

/-- Bytes of a local bank or instruction RAM written at their device addresses: with good parity, or with bad parity where the writer
carries poison (R158, R165). -/
def Core.localWrite (c : Core) (a : Nat) (bs : List Byte) (poisoned : Bool) : Core :=
  (List.range bs.length).foldl (fun c k => c.setParity (a + k) poisoned) (c.setBytes a bs)

/-- A unit writes device memory. -/
def Core.unitWrite (c : Core) (who : Byte) (a : Nat) (bs : List Byte) (poisoned : Bool) : Core :=
  if bs = [] then c
  else if isMem a then c.writeMem a bs poisoned
  else if isScratch a then (c.unitAccess (scratchBunch a) who (scratchOffset a).toNat bs.length).storeEcc a bs poisoned
  else c.localWrite a bs poisoned

/-- The bytes of one ECC word, or one byte of a local bank, are the unit of poison: a write whose bytes carry marks is made word by word,
each with the marks of its own bytes (R165, R303). -/
def Core.unitWriteMarks (c : Core) (who : Byte) (a : Nat) (bs : List Byte) (ms : List Bool) : Core :=
  let n := bs.length
  let w := if isMem a then 32 else if isScratch a then 8 else 1
  if n = 0 then c
  else (List.range ((a + n - 1) / w + 1 - a / w)).foldl (fun c i =>
    let lo := max a ((a / w + i) * w)
    let k := min (a + n) ((a / w + i + 1) * w) - lo
    c.unitWrite who lo ((bs.drop (lo - a)).take k) (((ms.drop (lo - a)).take k).any id)) c

/-- Requesters of R166: the queue engine, the stream DMA engine, the host port, the Teinglink port. -/
def whoQueue : Byte := 0x20
def whoDma : Byte := 0x21
def whoHost : Byte := 0x22
def whoTl : Byte := 0x23

end Sys2Proof.Machine
end

