-- ==== Sys2Proof/Machine/ScratchFam.lean ====
section
/-!
DEFINITION. Sys2Proof/Machine/ScratchFam.lean: arbitration at a scratchpad bank, the mailbox's second port, corrected words, leases,
and the X bank's second port (spec/05_scratch_memory.md, R160 to R178).
-/
namespace Sys2Proof.Machine

/-! ### Arbitration (R166 to R168) -/

/-- An error that the access finds in the ECC word it reads. -/
def Core.inject (c : Core) (a : Nat) (err : EccErr) : Core :=
  match err with
  | .ok => c
  | .single => if c.mark a = .ok then c.setMark a .single else c
  | .double => if c.mark a = .poisoned then c else c.setMark a .double

/-- What the store buffer of a sprig presents: its oldest entry or linked pair, where that lies in the scratchpad (R124). -/
def Core.drainReq (c : Core) (b : BunchId) (who : BitVec 6) : Option ScrReq :=
  let off (x : SbEntry) : BitVec 21 := BitVec.ofNat 21 x.addr
  match (c.sprig (sprigAt b (who.setWidth 5))).buf with
  | [] => none
  | x :: rest =>
    if !isScratchAddr x.addr then none
    else match x.linked, rest with
      | true, y :: _ => some ⟨who, off x, 0, .pair (off y) x.bytes y.bytes, .drain⟩
      | _, _ => some ⟨who, off x, 0, .write x.bytes false, .drain⟩

/-- Whether a request can stand at a bank: one row operation in it, or two (R161); a sprig's drain is what its store buffer presents; an X
access does not wait on the store buffer (R125, R167). -/
def Core.standsAt (c : Core) (b : BunchId) (bank : BitVec 4) (r : ScrReq) : Bool :=
  ((reqParts r).all fun p => decide (offBank p.1 = bank) && decide (0 < p.2) && decide (p.1.toNat % 32 + p.2 ≤ 32))
    && (match r.src with
      | .drain => decide (r.who.toNat < 0x20) && decide (c.drainReq b r.who = some { r with len := 0 })
      | .x => decide (0x20 ≤ r.who.toNat)
          || !((reqParts r).any fun p =>
            decide (forwarded (c.sprig (sprigAt b (r.who.setWidth 5))).buf (scratchBase b + p.1.toNat) p.2 = some none))
      | .fetch => decide (r.who.toNat < 0x20))

/-- The order in which a sprig presents its requests (R167). -/
def srcRank : ScrSrc → Nat
  | .x => 0
  | .drain => 1
  | .fetch => 2

/-- The requests presented at a bank: one of each requester, of a sprig the first in the order of R167. -/
def Core.presented (c : Core) (b : BunchId) (bank : BitVec 4) (reqs : List ScrReq) : List ScrReq :=
  (reqs.filter (c.standsAt b bank)).foldl (fun acc r =>
    match acc.find? fun q => decide (q.who = r.who) with
    | none => acc ++ [r]
    | some q => if srcRank r.src < srcRank q.src then acc.map fun z => if z.who = r.who then r else z else acc) []

/-- The request that a round grants, if any: none while an atomic or a pair holds the bank. -/
def Core.winner (c : Core) (b : BunchId) (bank : BitVec 4) (reqs : List ScrReq) : Option ScrReq :=
  if 0 < (c.arb b bank).hold then none else (c.arb b bank).pick (c.presented b bank reqs)

/-- One arbitration round at a bank (R168). DESIGN CHOICE: the record of the last grant stands through the second round of an atomic or
pair, so that its requester is not eligible in the round after it (log entry 68). -/
def Core.round (c : Core) (b : BunchId) (bank : BitVec 4) (reqs : List ScrReq) (err : EccErr) : Core :=
  let x := c.arb b bank
  if 0 < x.hold then
    c.setArb b bank { x with hold := x.hold - 1, holdWord := if x.hold = 1 then none else x.holdWord }
  else match c.winner b bank reqs with
    | none => c.setArb b bank { x with last := none }
    | some r =>
      let c := (c.setArb b bank (x.granted (c.presented b bank reqs) r)).inject (scratchBase b + r.off.toNat) err
      match r.src with
      | .drain => c.drainNow (sprigAt b (r.who.setWidth 5))
      | _ => c.grantReq b r

/-- SCRATCH_ACCESS: one arbitration round at a bank among the requests waiting there, whose access finds `err` in its ECC word. -/
def execScratchAccess (b : BunchId) (bank : BitVec 4) (reqs : List ScrReq) (err : EccErr) (s : State) : Out :=
  onCore (fun c => c.reach b fun c => c.round b bank reqs err) s

/-- SCR_CE: in an idle round a corrected word is rewritten, unless a write reached it first (R163). -/
def execScrCe (b : BunchId) (w : BitVec 18) (s : State) : Out :=
  onCore (fun c =>
    let bank : BitVec 4 := (w >>> 14).setWidth 4
    let x := c.arb b bank
    if w ∈ x.ceWords then
      let a := scratchBase b + 8 * w.toNat
      let c := c.setArb b bank { x with ceWords := x.ceWords.erase w }
      if c.mark a = .single then c.setMark a .ok else c
    else c) s

/-- Whether a lease region that holds `off` is being copied or restored (R171). -/
def Core.leaseBusy (c : Core) (b : BunchId) (off : BitVec 21) : Bool :=
  (List.range 4).any fun l =>
    let x := c.lease b (BitVec.ofNat 2 l)
    decide (x.region = (off >>> 8).setWidth 13) && (decide (x.st = .copying) || decide (x.st = .restoring))

/-- Port B waits: for an atomic of port A on its ECC word, for a copy or a restore in its region (R171); a request that is none of port B's
is not served there. -/
def Core.portBWaits (c : Core) (b : BunchId) (r : ScrReq) (won : Option ScrReq) : Bool :=
  !isPortB (r.who.setWidth 8) || !inMailbox r.off || c.leaseBusy b r.off
    || (decide (0 < (c.arb b 15).hold) && decide ((c.arb b 15).holdWord = some (offWord r.off)))
    || (match won with
      | some p => isAtomicKind p.kind && decide (offWord p.off = offWord r.off)
      | none => false)

/-- Port B serves an access: its read delivers the stored bytes. -/
def Core.servePortB (c : Core) (b : BunchId) (r : ScrReq) : Core :=
  let v := c.serve b r
  let x := v.c.arb b 15
  match r.kind with
  | .read => v.c.setArb b 15 { x with outB := v.out, outBPoison := v.poison }
  | _ => v.c.setArb b 15 { x with outB := [], outBPoison := false }

/-- MAILBOX_PORT_B_ACCESS: a host or Teinglink access at port B, with port A's round among the requests `pas` (R170, R171). A read at either
port gives the data of before the round, so port A's reads are served first; else port B is served first, and where both write a byte port
A's persists. An access that revokes a lease is held and served by port A. -/
def execMailboxPortBAccess (b : BunchId) (r : ScrReq) (pas : List ScrReq) (s : State) : Out :=
  onCore (fun c => c.reach b fun c =>
    let won := c.winner b 15 pas
    let portA (c : Core) : Core := c.round b 15 pas .ok
    if c.portBWaits b r won then portA c
    else match c.leaseGate b (r.who.setWidth 8) none r.off with
      | (.pass, c') =>
        (match won with
        | some ⟨_, _, _, .read, _⟩ => (portA c').servePortB b r
        | _ => portA (c'.servePortB b r))
      | (_, c') => portA (c'.holdAccess b r)) s

/-! ### Leases (R173 to R178) -/

/-- Whether SPG_SLIM of sprig g grants writes over a whole region. -/
def Core.grantsRegion (c : Core) (g : SprigId) (region : BitVec 13) : Bool :=
  c.slimGrants g ((region.setWidth 21) <<< 8) true

/-- Why a TAKE is refused (R175). DESIGN CHOICE: where several cases hold, CAUSE is the first of BAD_PRED, OVERLAP, NO_GRANT; the spec
orders none (log entry 69). -/
def Core.takeRefusal (c : Core) (g : SprigId) (b : BunchId) (l : BitVec 2) (pred : BitVec 3) (region : BitVec 13) :
    Option (BitVec 4) :=
  if pred = 0 then some 4
  else if (List.range 4).any fun k =>
      let x := c.lease b (BitVec.ofNat 2 k)
      decide (k ≠ l.toNat) && decide (x.region = region)
        && (match x.st with | .copying => true | .active => true | .restoring => true | .lost => true | _ => false) then some 1
  else if !c.grantsRegion g region then some 2
  else none

/-- The address of ERR_LEASE_CTL. -/
def leaseCtlAddr (b : BunchId) (l : BitVec 2) : Addr := BitVec.ofNat 40 (0x6000E20000 + 0x100 * b.toNat + 0x10 * l.toNat)

/-- TAKE. -/
def Core.takeLease (c : Core) (m : Master) (b : BunchId) (l : BitVec 2) (v : Word) : Core :=
  let x := c.lease b l
  c.writeBy m true fun c => match m with
  | .sprig g =>
    if bunchOf g = b ∧ (x.st = .free ∨ x.st = .refused) then
      let pred : BitVec 3 := (v >>> 13).setWidth 3
      let region : BitVec 13 := v.setWidth 13
      let base : Lease := { Lease.reset with
        pred := pred, region := region, holder := inBunch g, depth := (c.sprig g).depth }
      match c.takeRefusal g b l pred region with
      | some k => c.setLease b l { base with st := .refused, cause := k }
      | none => c.setLease b l { base with st := .copying }
    else c.ignored m 174 (leaseCtlAddr b l)
  | _ => c.ignored m 174 (leaseCtlAddr b l)

def execTake (m : Master) (b : BunchId) (l : BitVec 2) (v : Word) (s : State) : Out := onCore (fun c => c.takeLease m b l v) s

/-- LEASE_COPY_DONE: the region's rows stand in the lease buffer and the slot is ACTIVE (R175). -/
def execLeaseCopyDone (b : BunchId) (l : BitVec 2) (s : State) : Out :=
  onCore (fun c =>
    let x := c.lease b l
    if x.st = .copying then c.copyLease b l else c) s

/-- LEASE_REVOKE: the sequence that an access by another requester, or a RELEASE, started ends: the region is restored, the slot is LOST or
FREE, and the held access is served (R176). -/
def execLeaseRevoke (b : BunchId) (l : BitVec 2) (s : State) : Out :=
  onCore (fun c =>
    let x := c.lease b l
    if x.st = .restoring then c.endRestore b l else c) s

/-- The RELEASE that a reset runs for a lease (R178): its sequence runs to its end, or one that already runs does, and the slot is FREE.
DESIGN CHOICE: a slot in COPYING, LOST or REFUSED, in which no RELEASE is accepted, becomes FREE too (log entry 69). -/
def Core.endLease (c : Core) (b : BunchId) (l : BitVec 2) : Core :=
  let c := match (c.lease b l).st with
    | .active => (c.restore b (c.lease b l))
    | .restoring => c.endRestore b l
    | _ => c
  c.setLease b l (c.lease b l).freed

/-- Whether m is the holder of a slot, at the lease's depth when `deep`. -/
def Core.holds (c : Core) (m : Master) (b : BunchId) (x : Lease) (deep : Bool) : Bool :=
  match m with
  | .sprig g => decide (bunchOf g = b) && decide (inBunch g = x.holder) && (!deep || decide ((c.sprig g).depth = x.depth))
  | _ => false

/-- RELEASE: from the holder at its lease depth, a Steward sprig or a host supervisor function, in ACTIVE; the slot is RESTORING until
LEASE_REVOKE ends the sequence (R174, R176). -/
def Core.releaseLease (c : Core) (m : Master) (b : BunchId) (l : BitVec 2) : Core :=
  let x := c.lease b l
  c.writeBy m true fun c =>
    if x.st = .active && (c.holds m b x true || c.privileged m) then
      c.setLease b l { x with st := .restoring, releasing := true }
    else c.ignored m 174 (leaseCtlAddr b l)

def execRelease (m : Master) (b : BunchId) (l : BitVec 2) (s : State) : Out := onCore (fun c => c.releaseLease m b l) s

/-- ACK: frees a LOST or REFUSED slot (R174). -/
def Core.ackLease (c : Core) (m : Master) (b : BunchId) (l : BitVec 2) : Core :=
  let x := c.lease b l
  c.writeBy m true fun c =>
    if (x.st = .lost || x.st = .refused) && (c.holds m b x false || c.privileged m) then c.setLease b l x.freed
    else c.ignored m 174 (leaseCtlAddr b l)

def execAck (m : Master) (b : BunchId) (l : BitVec 2) (s : State) : Out := onCore (fun c => c.ackLease m b l) s

/-- ERR_LEASE_CTL and ERR_LEASE_STAT as they read. -/
def Lease.ctlWord (x : Lease) : Word := (x.pred.setWidth 32 <<< 13) ||| x.region.setWidth 32
def Lease.statWord (x : Lease) : Word :=
  (if x.byHandler then 0x01000000#32 else 0) ||| (x.revoker.setWidth 32 <<< 16) ||| (x.holder.setWidth 32 <<< 8)
    ||| (x.cause.setWidth 32 <<< 4) ||| x.st.code.setWidth 32

/-! ### The second port of the X bank's top kilobyte (R160) -/

/-- The bytes of a port's write. -/
def Core.portWrite (c : Core) (g : SprigId) (x : BankAcc) : Core :=
  match x.data with
  | none => c
  | some v => (List.range 4).foldl (fun c k =>
      if x.mask.getLsbD k then
        c.bankStore g (0x5C00 + 4 * x.wordOff.toNat + k) [(v >>> (8 * k)).setWidth 8] else c) c

/-- Priority at the second port. -/
def userRank : PortUser → Nat
  | .queue => 0
  | .dma => 1
  | .debug => 2

/-- The access that the second port serves in a step: the queue engine's, else stream DMA's, else the debug view's; the others wait. -/
def secondPick (xs : List PortReq) : Option PortReq :=
  xs.foldl (fun best r =>
    match best with
    | none => some r
    | some q => if userRank r.user < userRank q.user then some r else some q) none

/-- What a port reads of a word of the top kilobyte: bad parity is marked and logged (R158). -/
def Core.portRead (c : Core) (g : SprigId) (x : BankAcc) : ReadBack × Core :=
  let a := localsBase g + 0x5C00 + 4 * x.wordOff.toNat
  match c.firstBad a 4 with
  | some bad => ({ value := c.word a, poisoned := true }, c.logParity g bad)
  | none => ({ value := c.word a }, c)

/-- SECOND_PORT_ACCESS: the second port's access among those that wait there, with the sprig port's access y of the same step. Reads at
either port see the step's writes; where both write a byte, the sprig's persists. -/
def execSecondPortAccess (g : SprigId) (xs : List PortReq) (y : Option BankAcc) (s : State) : Out :=
  onCore (fun c => c.reach (bunchOf g) fun c =>
    let x := (secondPick xs).map PortReq.acc
    let write (c : Core) (x : Option BankAcc) : Core := match x with | none => c | some x => c.portWrite g x
    let c := write (write c x) y
    let c := match x with
      | some ⟨w, none, m⟩ => (let (v, c) := c.portRead g ⟨w, none, m⟩; { c with port2 := v })
      | _ => c
    match y with
    | some ⟨w, none, m⟩ => (let (v, c) := c.portRead g ⟨w, none, m⟩; { c with port1 := v })
    | _ => c) s

end Sys2Proof.Machine
end

