-- ==== Sys2Proof/Machine/CardFam.lean ====
section
/-!
DEFINITION. Sys2Proof/Machine/CardFam.lean: cards on their way: acceptance, dispatch, resolution, credits, epochs and queue resets
(spec/06_queues_and_cards.md, R185 to R210).
-/
namespace Sys2Proof.Machine

/-! ### Acceptance and the ring -/

/-- A card dispatched through a posy carries the epoch of the queue that takes it (R206). -/
def Core.stampEpoch (c : Core) (i : QueueId) (card : Card) (viaPosy : Bool) : Card :=
  if viaPosy then { card with w := withEpoch card.w (c.queue i).epoch } else card

/-- A card arrives at queue i: it is refused with its outcome, or accepted; with no room it waits, which the grants of R197 rule
out (log entry 8). -/
def Core.acceptCard (c : Core) (k : Nat) (i : QueueId) (card : Card) (viaPosy : Bool) : Core :=
  match c.queueRefusal i card viaPosy with
  | some o => (c.land k).refuse (queuePlace i) card o
  | none =>
    if c.queueRoom i then
      let c := ((c.land k).enqueue i (c.stampEpoch i card viaPosy)).accepted (queuePlace i) card
      c.occur 1 (i.setWidth 32) c.time.dtime
    else c

/-- CARD_ACCEPT: the k-th item in transit reaches its queue (R186, R190). -/
def execCardAccept (k : Nat) (s : State) : Out :=
  onCore (fun c =>
    match c.arrives k with
    | some ⟨_, _, .toQueue i card viaPosy⟩ => c.reach (queueBunch i) fun c => c.acceptCard k i card viaPosy
    | _ => c) s

/-- The card in a ring slot, as the queue engine reads it: poisoned ECC words mark their card words (R165, R185). -/
def Core.readSlot (c : Core) (i : QueueId) (card : Card) : Card × Core :=
  let w := c.qcfg i
  let x := (c.queue i).head.toNat
  let b := queueBunch i
  let off (a : Nat) : BitVec 21 := BitVec.ofNat 21 (a - scratchBase b)
  let words := cardFromBytes c (slotAddr i w x)
  let (p, c) := (List.range 4).foldl (fun (acc : BitVec 8 × Core) j =>
    let (bad, c) := acc.2.readEcc b (off (slotAddr i w x + 8 * j)) 0x20
    (if bad then acc.1 ||| (3#8 <<< (2 * j)) else acc.1, c)) (0, c)
  let (badSide, c) := c.readEcc b (off (sideAddr i w x)) 0x20
  ({ card with
      w := if p = 0 then words else { words with w0 := words.w0 ||| flagPoison }
      poison := p, badSide := badSide }, c)

/-- The head slot's sideband loses VALID and the head moves on (R188). -/
def Core.clearSlot (c : Core) (i : QueueId) : Core :=
  let q := c.queue i
  (c.storeEcc (sideAddr i (c.qcfg i) q.head.toNat) (List.replicate 8 0) false).pointRing i (ringAfter (c.qcfg i) q.head) q.ptrs.tail

/-- RING_TO_CHAIN_MOVE: the ring's head card falls into a free chain stage once the walk has passed every slot ahead of it (R190,
R198). -/
def execRingToChainMove (i : QueueId) (s : State) : Out :=
  onCore (fun c =>
    let q := c.queue i
    match q.ring, q.walk with
    | card :: rest, [] =>
      if 4 ≤ q.chain.length then c
      else
        let (card', c1) := c.readSlot i card
        (c1.setQueue i { c1.queue i with chain := q.chain ++ [card'], ring := rest }).clearSlot i
    | _, _ => c) s

/-- One slot of the walk: the card of a slot whose VALID is set is discarded and its credit leaves, unless its sideband reads poisoned
(R185, R198). -/
def Core.walkSlot (c : Core) (i : QueueId) : Core :=
  match (c.queue i).walk with
  | [] => c
  | card :: rest =>
    let b := queueBunch i
    let a := sideAddr i (c.qcfg i) (c.queue i).head.toNat
    let (bad, c) := c.readEcc b (BitVec.ofNat 21 (a - scratchBase b)) 0x20
    let valid := c.slotValid i (c.qcfg i) (c.queue i).head.toNat
    let c := (c.setQueue i { c.queue i with walk := rest }).clearSlot i
    let c := if valid then c.returnCredit (queuePlace i) { card with badSide := bad } else c
    if bad then c.log { cls := 1, source := 0x0B, code := 0x0018, unit := i.setWidth 32, detail := 0, addr := 0 } else c

/-- RING_WALK: one sideband-row read of the walk, four slots (R198). -/
def execRingWalk (i : QueueId) (s : State) : Out :=
  onCore (fun c => (List.range 4).foldl (fun c _ => c.walkSlot i) c) s

/-! ### Dispatch through a posy (R30 to R35, R203 to R206) -/

/-- The member that a key selects (R204). -/
def keyMember (key : Word) (count : Nat) : Nat := (key * 0x9E3779B1#32).toNat * count / 4294967296

/-- Where a copy of a card goes next: a queue or posy of this device, or another device. -/
def Core.memberParcel (c : Core) (handle : Word) (card : Card) : Parcel :=
  if handleDev handle = c.dev then
    (if handlePosy handle then .toPosy (handlePosyIdx handle) card
    else .toQueue (handleQueue handle) { card with w := withEpoch card.w (c.queue (handleQueue handle)).epoch } true)
  else .toRemote handle card true

/-- The k-th item is replaced by the items it resolves to, in its place (R202); those for other devices join the messages to them. -/
def Core.splice (c : Core) (k origin : Nat) (ps : List Parcel) : Core :=
  let far (p : Parcel) : Bool := match p with | .toRemote _ _ _ => true | _ => false
  let items (ps : List Parcel) : List Flight := ps.map fun p => ⟨origin, parcelPlace p, p⟩
  { c with fly := c.fly.take k ++ items (ps.filter fun p => !far p) ++ c.fly.drop (k + 1) ++ items (ps.filter far) }

/-- A new broadcast of n copies. -/
def Core.newBcast (c : Core) (card : Card) (n : Nat) : Nat × Core :=
  (c.nextBcast, { c with
    bcasts := Tbl.set c.bcasts c.nextBcast (some ⟨card.route, card.serial, card.seq, card.mute, card.bcast, n, n, 0, false⟩) none
    nextBcast := c.nextBcast + 1 })

/-- A broadcast takes a number, or counts its further copies (R205). -/
def Core.spread (c : Core) (card : Card) (n : Nat) : Nat × Core :=
  match card.bcast with
  | some b =>
    match Tbl.get c.bcasts b none with
    | some x => (b, { c with bcasts := Tbl.set c.bcasts b (some { x with unresolved := x.unresolved + n - 1, unpopped := x.unpopped + n - 1 }) none })
    | none => (b, c)
  | none => c.newBcast card n

/-- A copy that another device counts is counted here from the posy of this device on. -/
def Core.adopt (c : Core) (card : Card) : Card × Core :=
  match card.bcast with
  | none => (card, c)
  | some b =>
    if (bcastHome b).isSome then
      let (n, c) := c.newBcast card 1
      ({ card with bcast := some n }, c)
    else (card, c)

/-- One dispatch step of posy p for the k-th item. -/
def Core.dispatch (c : Core) (k origin : Nat) (p : BitVec 10) (card : Card) : Core :=
  let w := c.pctl p
  let n := posyCount w
  if !w.getLsbD 31 || n = 0 || c.quiet (.posy p) then (c.land k).refuse (posyPlace p) card outPortDown
  else
    let (card, c) := c.adopt card
    match (posyPolicy w).toNat with
    | 0 =>
      let m := (Tbl.get c.posyNext p.toNat 0).toNat
      let c := { c with posyNext := Tbl.set c.posyNext p.toNat (BitVec.ofNat 5 ((m + 1) % n)) 0 }
      c.splice k origin [c.memberParcel (c.posyMember p m) card]
    | 1 =>
      let key := cardWord card.w ((w >>> 11).setWidth 3) &&& c.posyReg p 4
      c.splice k origin [c.memberParcel (c.posyMember p (keyMember key n)) card]
    | _ =>
      let (b, c) := c.spread card n
      c.splice k origin ((List.range n).map fun m => c.memberParcel (c.posyMember p m) { card with bcast := some b })

/-- POSY_DISPATCH: the k-th item in transit is a card at a posy of this device. A posy that is held, or that reaches a held one, dispatches
no card of a producer of this device (R207). -/
def execPosyDispatch (k : Nat) (s : State) : Out :=
  onCore (fun c =>
    match c.arrives k with
    | some ⟨o, _, .toPosy p card⟩ => if c.isLocal card.route && c.handleHeld (c.posyHandle p) then c else c.dispatch k o p card
    | _ => c) s

/-! ### Resolution, credits, notices -/

/-- An error card's fate (R374, R377): acceptance moves the accepted index; a refused entry is sent again (log entry 9). -/
def Core.errorResolved (c : Core) (refused : Bool) : Core :=
  { c with err := if refused then { c.err with sdel := c.err.sacc } else { c.err with sacc := c.err.sacc + 1 } }

/-- A resolution reaches a channel of this device. -/
def Core.resolveLocal (c : Core) (dst : Producer) (seq : Nat) (o : BitVec 4) (refused back : Bool) : Core :=
  let c := c.setProd dst ((c.prod dst).resolve seq o refused back)
  match dst with
  | .errorEngine => c.errorResolved refused
  | .island => c.metResolved seq refused
  | _ => c

/-- Whether an outcome is a refusal. -/
def isRefusal (o : BitVec 4) : Bool := decide (1 < o.toNat)

/-- All copies of a broadcast have resolved: its channel, or the device of which it is a copy, takes the highest outcome (R195). -/
def Core.bcastResolved (c : Core) (x : Bcast) (back : Bool) : Core :=
  if x.mute then c
  else match x.parent with
  | some b => c.launch (prodKey x.route) (.resolved x.route x.outcome back (some b) x.seq)
  | none =>
    if c.isLocal x.route then c.resolveLocal x.route x.seq x.outcome x.refused back
    else c.launch (prodKey x.route) (.resolved x.route x.outcome back none x.seq)

/-- A resolution reaches its channel (R195, R205); `back` says whether it carries the credit. -/
def Core.resolution (c : Core) (dst : Producer) (o : BitVec 4) (back : Bool) (bcast : Option Nat) (seq : Nat) : Core :=
  match bcast with
  | none => c.resolveLocal dst seq o (isRefusal o) back
  | some b =>
    match Tbl.get c.bcasts b none with
    | none => c
    | some x =>
      let x := { x with
        unresolved := x.unresolved - 1
        unpopped := if back then x.unpopped - 1 else x.unpopped
        outcome := if x.outcome < o then o else x.outcome
        refused := x.refused || isRefusal o }
      let last := back && decide (x.unpopped = 0)
      let c := { c with bcasts := Tbl.set c.bcasts b (if x.unresolved = 0 ∧ x.unpopped = 0 then none else some x) none }
      if x.unresolved = 0 then c.bcastResolved x last
      else if last then c.bcastCredit (prodKey x.route) x true else c

/-- CARD_RESOLUTION: the k-th item is an acceptance or refusal that reaches a channel of this device, or the count of a broadcast here. -/
def execCardResolution (k : Nat) (s : State) : Out :=
  onCore (fun c =>
    match c.arrives k with
    | some ⟨_, _, .resolved dst o back b seq⟩ =>
      let here := match b with | some n => (bcastHome n).isNone | none => c.isLocal dst
      if here then (c.land k).resolution dst o back b seq else c
    | _ => c) s

/-- A credit reaches its channel: of a pop or discard only under the current serial (R196). -/
def Core.creditBack (c : Core) (dst : Producer) (serial : Nat) (refused : Bool) : Core :=
  let x := c.prod dst
  if refused ∨ serial = x.serial then
    let c := c.setProd dst { x with credit := x.credit + 1 }
    if dst = .island then c.metPump 8 else c
  else c

/-- CREDIT_RETURN. -/
def execCreditReturn (k : Nat) (s : State) : Out :=
  onCore (fun c =>
    match c.arrives k with
    | some ⟨_, _, .credit dst serial refused⟩ => if c.isLocal dst then (c.land k).creditBack dst serial refused else c
    | _ => c) s

/-- An epoch notice: it sets the pending mark, and at a directly bound channel the EPOCH (R198). -/
def Core.noticed (c : Core) (dst : Producer) (epoch : Byte) (direct : Bool) : Core :=
  let x := c.prod dst
  c.setProd dst { x with noticed := true, epoch := if direct then epoch else x.epoch }

/-- EPOCH_NOTICE. -/
def execEpochNotice (k : Nat) (s : State) : Out :=
  onCore (fun c =>
    match c.arrives k with
    | some ⟨_, _, .notice dst epoch direct⟩ => if c.isLocal dst then (c.land k).noticed dst epoch direct else c
    | _ => c) s

/-! ### Resets of a queue -/

/-- QMGR_QRESET: Steward sprigs and host supervisor functions only (R198). -/
def Core.qreset (c : Core) (m : Master) (v : Word) : Core :=
  c.writeBy m (c.privileged m) fun c => if v.getLsbD 31 then c.resetQueue (v.setWidth 14) 1 else c

def execQmgrQreset (m : Master) (v : Word) (s : State) : Out := onCore (fun c => c.qreset m v) s

/-- The causes of R198. -/
def resetCause (x : BitVec 3) : Bool := decide (1 ≤ x.toNat ∧ x.toNat ≤ 5)

/-- QUEUE_RESET_INSTANT: with cause POINTER the two stores of the ring's pointers have been found to differ (R193). -/
def execQueueResetInstant (i : QueueId) (cause : BitVec 3) (s : State) : Out :=
  onCoreIf (resetCause cause) (fun c => if cause = 2 then c.pointerReset i else c.resetQueue i cause) s

/-- DEFERRED_QUEUE_RESET: the first reset that the rate limit held back runs when the last millisecond holds fewer than 255 (R201). -/
def execDeferredQueueReset (i : QueueId) (s : State) : Out :=
  onCore (fun c =>
    let q := c.queue i
    match q.deferred with
    | cause :: rest =>
      if (recentOf c.time.dtime q.recent).length < 255 then (c.setQueue i { q with deferred := rest }).resetNow i cause (c.qcfg i) else c
    | [] => c) s

/-! ### Holds (R207) -/

/-- POSY_HOLD_RELEASE: the card that waits in a channel's outbound slot leaves once its posy is no longer held. -/
def execPosyHoldRelease (g : SprigId) (n : BitVec 4) (s : State) : Out :=
  onCore (fun c =>
    let x := c.chan g n
    match x.out with
    | none => c
    | some card =>
      if c.handleHeld (c.shandle g n) then c
      else (c.setChan g n { x with out := none }).launch (prodKey (.chan c.dev g n)) (c.route (c.shandle g n) card)) s

/-- A HOLD or RELEASE notice of device d's posy p reaches this device, which acknowledges it. -/
def Core.takeHold (c : Core) (d : DeviceId) (p : BitVec 10) (release : Bool) : Core :=
  ({ c with farHeld := Tbl.set c.farHeld (d.toNat * 1024 + p.toNat) (!release) false }).launch (posyPlace p) (.holdAck d p)

/-- HOLD. -/
def execHold (d : DeviceId) (p : BitVec 10) (release : Bool) (s : State) : Out := onCore (fun c => c.takeHold d p release) s

end Sys2Proof.Machine
end

