-- ==== Sys2Proof/Machine/IrqFam.lean ====
section
/-!
DEFINITION. Sys2Proof/Machine/IrqFam.lean: commands of the bunch and host interrupt controllers (spec/10_interrupts.md).
-/
namespace Sys2Proof.Machine

/-! ### Bunch interrupt controllers (R287 to R292) -/

/-- Bits 32 w to 32 w + 31 of a 256-bit register, and the register with them replaced. -/
def word256 (x : BitVec 256) (w : BitVec 3) : Word := (x >>> (32 * w.toNat)).setWidth 32
def put256 (x : BitVec 256) (w : BitVec 3) (v : Word) : BitVec 256 :=
  (x &&& ~~~((0xFFFFFFFF#32).setWidth 256 <<< (32 * w.toNat))) ||| (v.setWidth 256 <<< (32 * w.toNat))

def Core.bicEnset (c : Core) (m : Master) (b : BunchId) (w : BitVec 3) (v : Word) : Core :=
  c.writeBy m true fun c => c.setBic b { c.bic b with en := put256 (c.bic b).en w (word256 (c.bic b).en w ||| v) }
def Core.bicEnclr (c : Core) (m : Master) (b : BunchId) (w : BitVec 3) (v : Word) : Core :=
  c.writeBy m true fun c => c.setBic b { c.bic b with en := put256 (c.bic b).en w (word256 (c.bic b).en w &&& ~~~v) }

def execBicEnset (m : Master) (b : BunchId) (w : BitVec 3) (v : Word) (s : State) : Out := onCore (fun c => c.bicEnset m b w v) s
def execBicEnclr (m : Master) (b : BunchId) (w : BitVec 3) (v : Word) (s : State) : Out := onCore (fun c => c.bicEnclr m b w v) s

/-- A write of BIC_COMPLETE (R291). -/
def Core.bicComplete (c : Core) (m : Master) (b : BunchId) (v : Word) : Core := c.writeBy m true fun c => c.complete m b v

def execBicComplete (m : Master) (b : BunchId) (v : Word) (s : State) : Out := onCore (fun c => c.bicComplete m b v) s

/-- An enabled pending source of target s that no sprig can take (R289). -/
def Core.strandedInput (c : Core) (b : BunchId) (s : BitVec 5) : Option Nat :=
  (List.range 256).find? fun n =>
    let i := BitVec.ofNat 8 n
    c.bicPending b i && (c.bic b).en.getLsbD n && decide (((c.bicSrc b i) >>> 20).setWidth 5 = s) && (c.bicTarget b i).isNone

/-- STRANDED is set once, with an entry that names the input (R289). -/
def Core.checkStranded (c : Core) (b : BunchId) (s : BitVec 5) : Core :=
  match c.strandedInput b s with
  | none => c
  | some n =>
    if (c.bic b).stranded then c
    else (c.setBic b { c.bic b with stranded := true }).log
      { cls := 1, source := 0x0D, code := 0x000F, unit := b.setWidth 32, detail := BitVec.ofNat 16 n, addr := 0 }

/-- A target that holds no latched delivery takes the highest eligible source (R288). -/
def Core.arbitrate (c : Core) (b : BunchId) (s : BitVec 5) : Core :=
  let c := c.checkStranded b s
  let x := c.bic b
  match Tbl.get x.latch s.toNat none with
  | some _ => c
  | none =>
    match c.bicSelect b s with
    | none => c
    | some (i, p) => c.setBic b { x with
        latch := Tbl.set x.latch s.toNat (some (i, p)) none, latchSrc := Tbl.set x.latchSrc s.toNat (c.bicSrc b i) 0 }

/-- BIC_ARBITRATE. -/
def execBicArbitrate (b : BunchId) (s : BitVec 5) (st : State) : Out := onCore (fun c => c.arbitrate b s) st

/-- BIC_TARGET_LEAVE: the latch of a target out of RUN and WAIT is withdrawn, and its sources are arbitrated at the fallback (R289). -/
def execBicTargetLeave (b : BunchId) (s : BitVec 5) (st : State) : Out :=
  onCore (fun c =>
    if c.awake (sprigAt b s) then c
    else
      let x := c.bic b
      let c := (c.setBic b { x with latch := Tbl.set x.latch s.toNat none none, latchSrc := Tbl.set x.latchSrc s.toNat 0 0 }).checkStranded b s
      let f := c.bicFallback b
      if f.getLsbD 31 && c.awake (sprigAt b (f.setWidth 5)) then c.arbitrate b (f.setWidth 5) else c) st

/-! ### The host interrupt controller (R296 to R298) -/

def Core.hicMap (c : Core) (n : BitVec 10) : Word := Tbl.get c.cfg (sid 0x0C (8 * n.toNat)) 0
def Core.hicSel (c : Core) (n : BitVec 10) : Word := Tbl.get c.cfg (sid 0x0C (8 * n.toNat + 4)) 0x80000000#32
def hicFunc (w : Word) : FuncId := (w >>> 27).setWidth 4
def hicVector (w : Word) : BitVec 11 := w.setWidth 11

/-- The level of host source n (R296). -/
def Core.hicLevel (c : Core) (n : BitVec 10) : Bool :=
  if n.toNat < 0x100 then decide ((c.hqp (n.setWidth 8)).otail ≠ (c.hqp (n.setWidth 8)).ohead)
  else if n.toNat = 0x100 then decide (c.err.hqTail ≠ c.err.hqHead)
  else if n.toNat < 0x200 then false
  else
    let w := c.hicSel n
    match ((w >>> 30).setWidth 2 : BitVec 2).toNat with
    | 0 => c.lineLevel (w.setWidth 12)
    | 1 => c.statusLevel ((w >>> 12).setWidth 6) (w.setWidth 12)
    | _ => false

def Core.hicActive (c : Core) (n : BitVec 10) : Option FuncId := Tbl.get c.hic.active n.toNat none

/-- An MSI-X table entry, and the number under which its mask and pending bit are kept. -/
def msixKey (f : FuncId) (v : BitVec 11) : Nat := 2048 * f.toNat + v.toNat

/-- A table entry, or its function, is masked. -/
def Core.msixMasked (c : Core) (f : FuncId) (v : BitVec 11) : Bool :=
  !Tbl.get c.hic.unmasked (msixKey f v) false || Tbl.get c.hic.fmask f.toNat false

/-- A pending, enabled source that is not active sends its message, or leaves its entry's pending bit while the entry or its function is
masked; a function without Bus Master Enable sends nothing (R297, R298). -/
def Core.hicSend (c : Core) (n : BitVec 10) : Core :=
  let w := c.hicMap n
  if !c.hicLevel n || !w.getLsbD 31 || (c.hicActive n).isSome then c
  else
    let f := hicFunc w
    let k := msixKey f (hicVector w)
    if !c.busMaster f then c
    else if c.msixMasked f (hicVector w) then { c with hic := { c.hic with pba := Tbl.set c.hic.pba k true false } }
    else { c with hic := { c.hic with
      active := Tbl.set c.hic.active n.toNat (some f) none, sent := c.hic.sent ++ [(f, hicVector w)] } }

/-- HIC_MESSAGE. -/
def execHicMessage (n : BitVec 10) (s : State) : Out := onCore (fun c => c.hicSend n) s

/-- A function completes only sources mapped to it, by the mapping their message went by (R297, R298); a sprig through the far window any. -/
def Core.mayComplete (c : Core) (m : Master) (n : BitVec 10) : Bool :=
  match m with
  | .host f => decide (((c.hicActive n).getD (hicFunc (c.hicMap n))) = f)
  | .peer _ => false
  | _ => true

def Core.hicComplete (c : Core) (m : Master) (v : Word) : Core :=
  let n : BitVec 10 := v.setWidth 10
  c.writeSeen m fun c =>
    if !c.mayComplete m n then c
    else
      let c := if v.getLsbD 31 then { c with hic := { c.hic with spurious := satInc16 c.hic.spurious } } else c
      match c.hicActive n with
      | none => c.ignored m 297 (BitVec.ofNat 40 (regAt 0x0C 0x2000))
      | some _ => ({ c with hic := { c.hic with active := Tbl.set c.hic.active n.toNat none none } }).hicSend n

/-- HIC_COMPLETE. -/
def execHicComplete (m : Master) (v : Word) (s : State) : Out := onCore (fun c => c.hicComplete m v) s

/-- The sources mapped to function f that `p` selects send what they have pending. -/
def Core.hicResend (c : Core) (f : FuncId) (p : BitVec 11 → Bool) : Core :=
  (List.range 1024).foldl (fun c i =>
    let n := BitVec.ofNat 10 i
    let w := c.hicMap n
    if hicFunc w = f ∧ p (hicVector w) then c.hicSend n else c) c

/-- Entries of function f are unmasked: the pending bits that `p` selects clear, and the sources behind them that are still pending send
(R298). -/
def Core.pbaFlush (c : Core) (f : FuncId) (p : BitVec 11 → Bool) : Core :=
  let due (v : BitVec 11) : Bool := p v && !c.msixMasked f v && Tbl.get c.hic.pba (msixKey f v) false
  let c' := { c with hic := { c.hic with pba := c.hic.pba.filter fun e =>
    !(decide (e.1 / 2048 = f.toNat) && due (BitVec.ofNat 11 e.1)) } }
  c'.hicResend f due

/-- PCI Express software masks or unmasks a table entry or its function, sets Bus Master Enable, at which the function's pending sources
send, or sets VF Enable in the PF (R298, R338). -/
def Core.pcieControl (c : Core) (f : FuncId) (ctl : PcieCtl) : Core :=
  match ctl with
  | .entry v masked =>
    let c := { c with hic := { c.hic with unmasked := Tbl.set c.hic.unmasked (msixKey f v) (!masked) false } }
    if masked then c else c.pbaFlush f fun x => decide (x = v)
  | .function masked =>
    let c := { c with hic := { c.hic with fmask := Tbl.set c.hic.fmask f.toNat masked false } }
    if masked then c else c.pbaFlush f fun _ => true
  | .busMaster on =>
    let c := { c with hic := { c.hic with bme := Tbl.set c.hic.bme f.toNat on false } }
    if on then c.hicResend f fun _ => true else c
  | .vfEnable on => if f = 0 then { c with hic := { c.hic with vfe := on } } else c

/-- MSIX_UNMASK, and the other controls of PCI Express that the interrupts stand under. -/
def execMsixUnmask (f : FuncId) (ctl : PcieCtl) (s : State) : Out := onCore (fun c => c.pcieControl f ctl) s

/-- The enabled pairs of a function. -/
def Core.pairsOf (c : Core) (f : FuncId) : List (BitVec 8) :=
  ((List.range 256).map fun h => BitVec.ofNat 8 h).filter fun h => pairEn (c.pairCfg h) && decide (pairFunc (c.pairCfg h) = f)

end Sys2Proof.Machine
end

