-- ==== Sys2Proof/Machine/TlOps.lean ====
section
/-!
DEFINITION. Sys2Proof/Machine/TlOps.lean: ports, routes and the messages to other devices (spec/17_teinglink.md, R429 to R437).
-/
namespace Sys2Proof.Machine

/-! ### Registers and ports -/

def Core.tlCtl (c : Core) (t : BitVec 2) : Word := Tbl.get c.cfg (sid 0x10 (0x40000 * t.toNat)) 0
def tlEn (w : Word) : Bool := w.getLsbD 31
def tlDateline (w : Word) : Bool := w.getLsbD 30
def tlDim (w : Word) : Bool := w.getLsbD 29
def Core.tlRoute (c : Core) (d : DeviceId) : Word := Tbl.get c.cfg (sid 0x10 (0x20000 + 4 * d.toNat)) 0
def Core.tlSysid (c : Core) : Word := Tbl.get c.cfg (sid 0x10 0x21000) 0
def Core.tlSync (c : Core) : Word := Tbl.get c.cfg (sid 0x10 0x21004) 0x80000000#32

def Core.tlPort (c : Core) (t : BitVec 2) : TlPort := Tbl.get c.tlPorts t.toNat TlPort.reset
def Core.setTlPort (c : Core) (t : BitVec 2) (x : TlPort) : Core := { c with tlPorts := Tbl.set c.tlPorts t.toNat x TlPort.reset }
def Core.peer (c : Core) (d : DeviceId) : PairRec := Tbl.get c.peers d.toNat PairRec.reset
def Core.setPeer (c : Core) (d : DeviceId) (x : PairRec) : Core := { c with peers := Tbl.set c.peers d.toNat x PairRec.reset }

def allPorts : List (BitVec 2) := [0, 1, 2, 3]
def Core.portUp (c : Core) (t : BitVec 2) : Bool := decide ((c.tlPort t).st = .up)

/-- The state that TL_STAT shows: an enabled port that is not in reset trains while it is down (R431, R450). -/
def Core.portState (c : Core) (t : BitVec 2) : TlState :=
  if !tlEn (c.tlCtl t) then .down
  else match (c.tlPort t).st with
    | .down => if c.quiet (.tlPort t) then .down else .training
    | x => x

/-- The port by which traffic for device d leaves, when d is reachable (R435). -/
def Core.portFor (c : Core) (d : DeviceId) : Option (BitVec 2) :=
  let w := c.tlRoute d
  let pri : BitVec 2 := (w >>> 6).setWidth 2
  let alt : BitVec 2 := (w >>> 4).setWidth 2
  if !w.getLsbD 31 then none
  else if c.portUp pri then some pri
  else if w.getLsbD 3 && c.portUp alt then some alt
  else none

/-! ### What waits for another device -/

/-- The device whose message an item in transit is. Messages to a device keep their order in transit; the first ones have been sent and
are not acknowledged (R437). -/
def Core.messageTo (c : Core) (f : Flight) : Option DeviceId :=
  match f.parcel with
  | .toRemote w _ _ => some (handleDev w)
  | .resolved p _ _ b _ => match b with
    | some n => bcastHome n
    | none => c.awayDev p
  | .credit p _ _ => c.awayDev p
  | .notice p _ _ => c.awayDev p
  | .holdAck d _ => some d
  | .hold d _ _ => some d
  | .prepare d _ => some d
  | .vote d _ _ _ _ => some d
  | .decision d _ _ _ => some d
  | .isolated d _ => some d
  | .popped d _ => some d
  | _ => none

/-- The messages to device d, oldest first. -/
def Core.messages (c : Core) (d : DeviceId) : List Flight := c.fly.filter fun f => decide (c.messageTo f = some d)

/-- The first n messages to device d are no longer kept. -/
def Core.dropMessages (c : Core) (d : DeviceId) (n : Nat) : Core :=
  { c with fly := (c.fly.foldl (fun (acc : Nat × List Flight) f =>
      if 0 < acc.1 ∧ c.messageTo f = some d then (acc.1 - 1, acc.2) else (acc.1, acc.2 ++ [f])) (n, [])).2 }

/-- An item other than a message waits for a port. -/
def Core.tlWait (c : Core) (x : TlItem) : Core := { c with tl := { c.tl with wait := c.tl.wait ++ [x] } }

/-- Where an item goes; an IDENT or time flit goes to the neighbour. -/
def TlItem.dst : TlItem → Option DeviceId
  | .ident _ => none
  | .message d _ => some d
  | .ack d _ => some d
  | .nak d _ => some d
  | .heartbeat d => some d
  | .time => none
  | .sync d _ _ _ => some d
  | .forward f _ => some f.dst

/-- An item takes the port's next LSEQ and stands in its replay buffer (R430). -/
def TlPort.put (p : TlPort) (x : TlItem) : TlPort := { p with buf := p.buf ++ [(p.tx, x)], tx := p.tx + 1 }

/-- The flits of a class and virtual channel that a receiver buffers (R432). -/
def linkRoom : Nat := 16
/-- The number of a class and virtual channel. -/
def linkKey (cls : BitVec 3) (vc : BitVec 1) : Nat := 2 * cls.toNat + vc.toNat
/-- A link credit is spent. -/
def TlPort.spend (p : TlPort) (k : Nat) : TlPort := { p with spent := Tbl.set p.spent k (Tbl.get p.spent k 0 + 1) 0 }
/-- A CREDIT flit returns credits of its class and virtual channel; how many, the spec does not say (log entry 43). -/
def TlPort.repay (p : TlPort) (f : Flit) : TlPort :=
  { p with spent := Tbl.set p.spent (linkKey f.cls f.vc) (Tbl.get p.spent (linkKey f.cls f.vc) 0 - Config.linkCredits f) 0 }

/-- A port goes down: what its replay buffer holds for other devices goes out again by the routing table (R437). -/
def Core.portDown (c : Core) (t : BitVec 2) : Core :=
  let p := c.tlPort t
  let c := c.setTlPort t { p with st := .down, cause := 0, lchg := true, tx := 0, rx := 0, nakked := false, buf := [], stuck := 0, spent := [] }
  { c with tl := { c.tl with wait := (p.buf.map Prod.snd).filter (fun x => x.dst.isSome) ++ c.tl.wait } }

/-- A hand has changed a port's TL_CTL: a port that it disables goes down, one that is REFUSED or was disabled trains (R431). -/
def Core.commitPort (c : Core) (old : Core) (k : Nat) : Core :=
  let t : BitVec 2 := BitVec.ofNat 2 (k % 0x1000000 / 0x10000)
  if k / 0x1000000 = 0x10 ∧ k % 0x10000 = 0 ∧ c.tlCtl t ≠ old.tlCtl t then
    if !tlEn (c.tlCtl t) ∨ (c.tlPort t).st = .refused then
      (if tlEn (old.tlCtl t) then c.portDown t else c)
    else if !tlEn (old.tlCtl t) then c.setTlPort t { c.tlPort t with lchg := true }
    else c
  else c

end Sys2Proof.Machine
end

