-- ==== Sys2Proof/Machine/TimeFam.lean ====
section
/-!
DEFINITION. Sys2Proof/Machine/TimeFam.lean: device time (spec/07_time_and_deals.md, R216 to R225).
-/
namespace Sys2Proof.Machine

/-- One CK_TIME cycle adds 8 × (1 + TRIM × 2^−32) ticks; the fraction stays in the accumulator below the tick (R221). A step's BUSY
ends with it (log entry 11). -/
def TimeBlk.count (t : TimeBlk) : TimeBlk :=
  let v : BitVec 96 := (t.dtime ++ t.frac) + BitVec.ofInt 96 (8 * (4294967296 + t.trim.toInt))
  { t with dtime := (v >>> 32).setWidth 64, frac := v.setWidth 32, busy := false }

/-- An ignored write of a register of block slot `slot` (R376). -/
def Core.ignoredReg (c : Core) (m : Master) (rule slot off : Nat) : Core :=
  c.ignored m rule (BitVec.ofNat 40 (regAt slot off))

/-! ### Rate -/

/-- A TRIM write is clamped to ±200 ppm (R221). -/
def Core.setTrim (c : Core) (x : Int) : Core :=
  { c with time := { c.time with trim := BitVec.ofInt 32 (clampInt x (-858993) 858993) } }

def Core.writeRate (c : Core) (m : Master) (v : Word) : Core :=
  c.writeBy m (c.privileged m) fun c =>
    let c := c.setTrim v.toInt
    if v.toInt < -858993 ∨ 858993 < v.toInt then c.setTimeStat 1 else c

/-- TIME_RATE_WRITE. -/
def execTimeRateWrite (m : Master) (v : Word) (s : State) : Out := onCore (fun c => c.writeRate m v) s

/-! ### Steps -/

/-- DTIME moves forward to `t`, which skips the instants between (R222, R224). -/
def Core.skipTo (c : Core) (t : DWord) (slept : Bool) : Core :=
  { c with time := { c.time with dtime := t, skips := c.time.skips ++ [(c.time.dtime, t, slept)] } }

/-- DTIME steps by an amount (R222): STEPPED is set and source 0x3402 raised. -/
def Core.stepTime (c : Core) (amount : DWord) : Core :=
  let t := c.time.dtime + amount
  ((c.skipTo t false).setTimeStat 2).source 0x3402 true true t

/-- A step that would reach never, and one of 0, is refused (R222). -/
def Core.stepAllowed (c : Core) (amount : DWord) : Bool :=
  decide (amount ≠ 0) && decide (c.time.dtime.toNat + amount.toNat < 2 ^ 64 - 1)

/-- TIME_STEP as staged under R219. -/
def Core.stepAmount (c : Core) : DWord := c.reg (regAt 0x04 0x14) 0 ++ c.reg (regAt 0x04 0x10) 0

def Core.stepGo (c : Core) (m : Master) (v : Word) : Core :=
  c.writeBy m (c.privileged m) fun c =>
    if !v.getLsbD 31 then c
    else if c.time.busy || !c.stepAllowed c.stepAmount then c.ignoredReg m 222 0x04 0x18
    else
      let c := c.stepTime c.stepAmount
      { c with time := { c.time with busy := true } }

/-- TIME_STEP_GO. -/
def execTimeStepGo (m : Master) (v : Word) (s : State) : Out := onCore (fun c => c.stepGo m v) s

/-! ### Quality -/

def qualFree : BitVec 2 := 0
def qualFine : BitVec 2 := 1
def qualCoarse : BitVec 2 := 2
def qualHoldover : BitVec 2 := 3

/-- QUAL is written: FREE and FINE make the uncertainty 0, HOLDOVER lets it grow from where it stands; a change sets QCHG and pulses
source 0x3401 (R223). -/
def Core.setQual (c : Core) (q : BitVec 2) : Core :=
  let t := c.time
  if q = t.qual then c
  else
    let u : Word := if q = qualFree ∨ q = qualFine then 0 else t.uncert
    ({ c with time := { t with qual := q, uncert := u, holdBase := u, holdNs := 0 } }.setTimeStat 0x10).source 0x3401 true true
      t.dtime

/-- A device that has lost its parent port since `old` has to join again, and is in HOLDOVER if it was FINE (R446, R448). -/
def Core.holdParent (c old : Core) : Core :=
  let root : DeviceId := old.tlSync.setWidth 9
  if old.tlSync.getLsbD 31 && decide (c.dev ≠ root) && (old.portFor root).isSome && (c.portFor (c.tlSync.setWidth 9)).isNone then
    let c := { c with tl := { c.tl with joined := false } }
    if c.time.qual = qualFine then c.setQual qualHoldover else c
  else c

def Core.writeQuality (c : Core) (m : Master) (v : Word) : Core :=
  c.writeBy m (c.privileged m) fun c => c.setQual (v.setWidth 2)

/-- TIME_QUALITY_WRITE. -/
def execTimeQualityWrite (m : Master) (v : Word) (s : State) : Out := onCore (fun c => c.writeQuality m v) s

/-- HOLDOVER_UNCERT_GROWTH: `ns` more nanoseconds have passed in HOLDOVER; the uncertainty grew by 50 ppm of the time spent there. -/
def execHoldoverUncertGrowth (ns : Nat) (s : State) : Out :=
  onCore (fun c =>
    let t := c.time
    if t.qual = qualHoldover then
      let n := t.holdNs + ns
      { c with time := { t with
          holdNs := n, uncert := BitVec.ofNat 32 (min (t.holdBase.toNat + n * 50 / 1000000) 0xFFFFFFFF) } }
    else c) s

/-! ### Reference -/

/-- TIME_REFSEL (R221). -/
def Core.refsel (c : Core) : Word := c.timeReg 0x28 0

/-- CK_TIME takes a reference, the one it has when only REFCLK's frequency changes; DTIME goes on (R225). -/
def Core.switchRef (c : Core) (ref : BitVec 1) : Core :=
  let d : BitVec 16 := (c.time.ref.setWidth 16 <<< 4) ||| ref.setWidth 16
  ({ c with time := { c.time with ref := ref } }.setTimeStat 8).log
    { cls := 0, source := 0x04, code := 0x001A, unit := 0, detail := d, addr := 0 }

/-- The references that CK_TIME may take: the one it has, the one that SRC selects, and with AUTO the internal oscillator, since the command
says that REFCLK failed (R221, R225). -/
def Core.mayTakeRef (c : Core) (ref : BitVec 1) : Bool :=
  decide (ref = c.time.ref) || decide (ref = c.refsel.setWidth 1) || (c.refsel.getLsbD 1 && decide (ref = 1))

/-- A change of TIME_REFSEL.SRC switches the reference (R225). -/
def Core.commitRef (c old : Core) : Core :=
  let src : BitVec 1 := c.refsel.setWidth 1
  if src = (old.refsel.setWidth 1 : BitVec 1) ∨ src = c.time.ref then c else c.switchRef src

/-- REF_CHANGE: the reference becomes `ref`, and the synchronisation owner's TRIM would be `trim`; DTIME stays as it is (R225). -/
def execRefChange (ref : BitVec 1) (trim : Int) (s : State) : Out :=
  onCore (fun c =>
    if !c.mayTakeRef ref then c
    else
      let c := (c.switchRef ref).setTrim trim
      if trim < -858993 ∨ 858993 < trim then c.setQual qualHoldover else c) s

/-! ### Sleep -/

/-- CK_TIME stops for STANDBY, OFF or a core-domain reset: the always-on domain saves DTIME and starts its count (R224). -/
def Core.stopTime (c : Core) (aon : BitVec 48) : Core :=
  if c.time.running then
    { c with time := { c.time with
        running := false, sleepDt := c.time.dtime, uncertStop := c.time.uncert, aonStop := aon, frac := 0 } }
  else c

/-- Ticks that `n` AON ticks stand for, with the RTC's error in units of 1/256 ppm (R224): 244,140.625 = 15,625,000 / 64. -/
def aonTicks (n : Nat) (ppm : BitVec 16) : Nat :=
  ((n : Int) * 15625000 * (256000000 - ppm.toInt) / (64 * 256000000)).toNat

/-- DTIME is reloaded from the AON count (R224), with one further AON tick after a stop that was not planned (R401). DESIGN CHOICE: while QUAL
is FREE, R224's formula gives an uncertainty that R223's table says is 0; TIME_UNCERT stays as it is (log entry 69). -/
def Core.reloadTime (c : Core) (aon : BitVec 48) : Core :=
  let t := c.time
  if t.running then c
  else
    let n := aon - t.aonStop
    let d := t.sleepDt + BitVec.ofNat 64 (aonTicks n.toNat t.rtcPpm) + (if t.unplanned then 244141 else 0)
    let u := BitVec.ofNat 32 (min (t.uncertStop.toNat + n.toNat * 30518 * 50 / 1000000) 0xFFFFFFFF)
    let c := { c with time := { t with dtime := t.sleepDt, running := true, sleepN := n, unplanned := false } }
    let c := ((c.skipTo d true).setTimeStat 4).source 0x3402 true true d
    if t.qual = qualFree then c
    else
      let c := c.setQual qualCoarse
      { c with time := { c.time with uncert := u, holdBase := u } }

end Sys2Proof.Machine
end

