-- ==== Sys2Proof/Machine/CaptureFam.lean ====
section
/-!
DEFINITION. Sys2Proof/Machine/CaptureFam.lean: capture channels, the trigger fabric, comparators and deadline monitors
(spec/07_time_and_deals.md, R226 to R237; spec/15_clock_domains.md, R395 and R396).
-/
namespace Sys2Proof.Machine

/-! ### Capture -/

/-- FILT in ticks: 0, or 5 × 2^(n − 1) ns (R252). -/
def filtTicks (w : Word) : Nat :=
  let n := ((w >>> 14).setWidth 3 : BitVec 3).toNat
  if n = 0 then 0 else 40 * 2 ^ (n - 1)

/-- The level of a pin from outside, after FILT, as DTIME stands: a change counts once it has been stable for FILT's time (R252, R256). -/
def Core.pinIn (c : Core) (n : Nat) : Bool :=
  let b := c.bank (BitVec.ofNat 3 (n / 32))
  match Tbl.get b.raw (n % 32) none with
  | none => b.inp.getLsbD (n % 32)
  | some (v, t) => if t.toNat + filtTicks (c.pcfg (BitVec.ofNat 8 n)) ≤ c.time.dtime.toNat then v else b.inp.getLsbD (n % 32)

/-- The level at a field pin after FILT, or at an LV pair, is `v`. -/
def Core.pinLevel (c : Core) (n : Nat) (v : Bool) : Core :=
  if n < 256 then
    let k : BitVec 3 := BitVec.ofNat 3 (n / 32)
    c.setBank k { c.bank k with inp := putBit (c.bank k).inp (n % 32) v, raw := Tbl.set (c.bank k).raw (n % 32) none none }
  else { c with lvIn := putBit c.lvIn (n - 256) v }

/-- A field pin, or an LV pair, goes to level v at t, ahead of FILT: a change before it that FILT had passed stands. -/
def Core.pinEdge (c : Core) (n : Nat) (v : Bool) (t : DWord) : Core :=
  let k : BitVec 3 := BitVec.ofNat 3 (n / 32)
  let w := filtTicks (c.pcfg (BitVec.ofNat 8 n))
  if 256 ≤ n ∨ w = 0 then c.pinLevel n v
  else
    let c := match Tbl.get (c.bank k).raw (n % 32) none with
      | some (v0, t0) => if t0.toNat + w ≤ t.toNat then c.pinLevel n v0 else c
      | none => c
    let b := c.bank k
    c.setBank k { b with raw := Tbl.set b.raw (n % 32) (if b.inp.getLsbD (n % 32) = v then none else some (v, t)) none }

/-- Whether a capture channel sees edges (R226, R228, R253, R257, R262). -/
def Core.captures (c : Core) (k : BitVec 9) : Bool :=
  let w := c.capCfg k
  let n := k.toNat
  w.getLsbD 31
    && (if n < 256 then decide (pinFunc (c.pcfg (k.setWidth 8)) = 2) && !(c.bank (BitVec.ofNat 3 (n / 32))).stopped
      else decide (pinFunc (c.lvPcfg (k.setWidth 5)) = 2))

/-- The stamp as a channel of its resolution takes it. -/
def capStamp (k : BitVec 9) (t : DWord) : DWord := if k.toNat < 64 then t else t &&& ~~~7#64

/-- The smallest edge spacing stamped, in ticks: 1.0 ns on channels 0 to 63, 4.0 ns on the others (R226). -/
def capSpacing (k : BitVec 9) : Nat := if k.toNat < 64 then 8 else 32

/-- An edge enters the FIFO and raises the source; one that finds 16 entries is lost (R226, R227, R229). -/
def Core.storeEdge (c : Core) (k : BitVec 9) (stamp : DWord) (pol : Bool) : Core :=
  let x := c.cap k
  if 16 ≤ x.fifo.length then c.setCap k { x with ovf := true, lost := x.lost + 1 }
  else (c.setCap k { x with fifo := x.fifo ++ [(capStamp k stamp, pol)] }).source (k.setWidth 16) true true (capStamp k stamp)

/-- The edge that a channel holds is over its spacing at t: it is stored if EDGE selected it (R226). -/
def Core.settleCap (c : Core) (k : BitVec 9) (t : DWord) : Core :=
  match (c.cap k).hold with
  | none => c
  | some (t0, pol, sel) =>
    if t.toNat < t0.toNat + capSpacing k then c
    else
      let c := c.setCap k { c.cap k with hold := none }
      if sel then c.storeEdge k t0 pol else c

/-- The held edges whose spacing has passed are stored. -/
def Core.settleCaps (c : Core) : Core :=
  c.caps.foldl (fun c e => c.settleCap (BitVec.ofNat 9 e.1) c.time.dtime) c

/-- An edge at a channel: an edge still held makes a pulse too narrow with it, which is discarded whole and counted; otherwise the channel holds
it until the smallest spacing has passed (R226). -/
def Core.capture (c : Core) (k : BitVec 9) (stamp : DWord) (pol : Bool) : Core :=
  let c := c.settleCap k stamp
  let x := c.cap k
  match x.hold with
  | some _ => c.setCap k { x with hold := none, glitch := x.glitch + 1 }
  | none => c.setCap k { x with hold := some (stamp, pol, (c.capCfg k).getLsbD (if pol then 29 else 30)) }

/-- CAPTURE_EDGE: an edge at a pin, at an instant. -/
def execCaptureEdge (k : BitVec 9) (stamp : DWord) (pol : Bool) (s : State) : Out :=
  onCoreIf (decide (k.toNat < 288)) (fun c =>
    let c := c.pinEdge k.toNat pol stamp
    if c.captures k then c.capture k stamp pol else c) s

/-- The pop buffer of a master at a channel (R228). -/
def popKey (m : Master) (k : BitVec 9) : Nat := masterKey m * 512 + k.toNat
def Core.popBuf (c : Core) (m : Master) (k : BitVec 9) : PopBuf := Tbl.get c.pops (popKey m k) PopBuf.reset
def Core.setPopBuf (c : Core) (m : Master) (k : BitVec 9) (x : PopBuf) : Core :=
  { c with pops := Tbl.set c.pops (popKey m k) x PopBuf.reset }

/-- A read of POP_LO (R228). -/
def Core.popCapture (c : Core) (m : Master) (k : BitVec 9) : Word × Core :=
  let x := c.cap k
  match x.fifo with
  | [] => (0, c.setPopBuf m k { c.popBuf m k with valid := false })
  | (t, pol) :: rest =>
    (t.setWidth 32,
      ((c.setCap k { x with fifo := rest }).setPopBuf m k { valid := true, stamp := t, pol := pol }).source (k.setWidth 16)
        (!rest.isEmpty) false c.time.dtime)

/-- TIME_CAP_POP. -/
def execTimeCapPop (m : Master) (k : BitVec 9) (s : State) : Out :=
  onCoreIf (decide (k.toNat < 288)) (fun c => c.readBy m false fun c => c.popCapture m k) s

/-! ### The trigger fabric -/

/-- TRIGGER_SOURCE_EVENT: an event of a source, whose level is then `level`; SRC 0xFFFF is the constant 0 (R229, R231). -/
def execTriggerSourceEvent (src : BitVec 16) (level : Bool) (stamp : DWord) (s : State) : Out :=
  onCore (fun c => if src = 0xFFFF#16 then c else c.source src level true stamp) s

def latchKey (g : SprigId) (e : BitVec 3) : Nat := 8 * g.toNat + e.toNat
def Core.crossing (c : Core) (g : SprigId) (e : BitVec 3) : LatchX := Tbl.get c.latchX (latchKey g e) LatchX.reset
def Core.setCrossing (c : Core) (g : SprigId) (e : BitVec 3) (x : LatchX) : Core :=
  { c with latchX := Tbl.set c.latchX (latchKey g e) x LatchX.reset }

def Page.setLatch (p : Page) (e : BitVec 3) : Page := { p with latch := putBit p.latch e.toNat true }
def Page.setMerged (p : Page) (e : BitVec 3) : Page := { p with merged := putBit p.merged e.toNat true }
def Core.modPage (c : Core) (g : SprigId) (f : Page → Page) : Core := c.modSprig g fun s => { s with page := f s.page }

/-- A rising edge reaches an event latch's crossing (R395, R396, R399): it merges while a handshake runs, while the latch is 1, and is
lost as a merge while the crossing resynchronises. -/
def Core.latchEdge (c : Core) (g : SprigId) (e : BitVec 3) : Core :=
  let x := c.crossing g e
  if x.resync then c.modPage g fun p => p.setMerged e
  else if x.busy then (c.setCrossing g e { x with again := true }).modPage g fun p => p.setMerged e
  else if (c.sprig g).page.latch.getLsbD e.toNat then c.modPage g fun p => p.setMerged e
  else (c.setCrossing g e { x with busy := true, again := false }).modPage g fun p => p.setLatch e

/-- The first edge on its way to a sink is taken off the fabric. -/
def Core.popEdge (c : Core) (k : Sink) : Option (DWord × Core) :=
  match takeEdge k c.fabric.edges with
  | none => none
  | some (t, rest) => some (t, { c with fabric := { c.fabric with edges := rest } })

/-- EVENT_LATCH_SET: the next edge of the line that the latch selects reaches it. -/
def execEventLatchSet (g : SprigId) (e : BitVec 3) (s : State) : Out :=
  onCore (fun c =>
    match c.popEdge (.latch g e) with
    | none => c
    | some (_, c') => c.reach (bunchOf g) fun c => { c' with power := c.power }.latchEdge g e) s

/-- LATCH_HANDSHAKE_END: the crossing accepts new events; an edge that merged during the handshake sets the latch again (R396). -/
def execLatchHandshakeEnd (g : SprigId) (e : BitVec 3) (s : State) : Out :=
  onCore (fun c =>
    let x := c.crossing g e
    if !x.busy then c
    else
      let c := c.setCrossing g e { x with busy := false, again := false }
      if x.again then c.modPage g fun p => p.setLatch e else c) s

/-- Software bits 32 w to 32 w + 31. -/
def swWord (x : BitVec 256) (w : BitVec 3) : Word := (x >>> (32 * w.toNat)).setWidth 32
def swPut (x : BitVec 256) (w : BitVec 3) (v : Word) : BitVec 256 :=
  (x &&& ~~~((0xFFFFFFFF#32).setWidth 256 <<< (32 * w.toNat))) ||| (v.setWidth 256 <<< (32 * w.toNat))

/-- The bits change, and each source whose bit changed follows (R229, R230). -/
def Core.writeSw (c : Core) (w : BitVec 3) (new : Word) : Core :=
  let old := swWord c.fabric.sw w
  let c := { c with fabric := { c.fabric with sw := swPut c.fabric.sw w new } }
  (List.range 32).foldl (fun c i =>
    if old.getLsbD i = new.getLsbD i then c
    else c.source (BitVec.ofNat 16 (0x3000 + 32 * w.toNat + i)) (new.getLsbD i) (new.getLsbD i) c.time.dtime) c

def Core.swset (c : Core) (m : Master) (w : BitVec 3) (v : Word) : Core :=
  c.writeBy m true fun c => c.writeSw w (swWord c.fabric.sw w ||| v)
def Core.swclr (c : Core) (m : Master) (w : BitVec 3) (v : Word) : Core :=
  c.writeBy m true fun c => c.writeSw w (swWord c.fabric.sw w &&& ~~~v)

def execTrigSwset (m : Master) (w : BitVec 3) (v : Word) (s : State) : Out := onCore (fun c => c.swset m w v) s
def execTrigSwclr (m : Master) (w : BitVec 3) (v : Word) (s : State) : Out := onCore (fun c => c.swclr m w v) s

/-! ### Comparators -/

def cmpAddr (k : BitVec 12) : Addr := BitVec.ofNat 40 (regAt 0x04 (0x20000 + 0x10 * k.toNat))

/-- A high-word write arms the comparator, or disarms it with never, and clears SKIP (R219, R233, R234). -/
def Cmp.write (x : Cmp) (v now : DWord) : Cmp := { x with cmp := v, armed := decide (v ≠ never), skip := 0, since := now }

/-- A comparator after it fires at DTIME `now` (R233). -/
def Cmp.fire (x : Cmp) (now : DWord) (late : Bool) : Cmp :=
  let n := (now.toNat - x.cmp.toNat) / x.per.toNat + 1
  { x with
    pend := true, ovr := x.ovr || x.pend, stepped := x.stepped || late
    armed := decide (x.per ≠ 0)
    cmp := if x.per = 0 then x.cmp else x.cmp + BitVec.ofNat 64 (n * x.per.toNat)
    skip := if x.per = 0 then x.skip else BitVec.ofNat 16 (min (x.skip.toNat + (n - 1)) 0xFFFF)
    since := now }

/-- An armed comparator whose instant DTIME has reached fires. -/
def Core.fireDue (c : Core) (k : BitVec 12) : Core :=
  let x := c.cmp k
  if x.armed && c.time.running && decide (x.cmp ≤ c.time.dtime) then
    (c.setCmp k (x.fire c.time.dtime (c.time.skipped x.cmp x.since))).source (0x1000#16 + k.setWidth 16) true true x.cmp
  else c

/-- A firing of the old value that is due is made first; the value written then replaces it (R233). -/
def Core.writeCmpHi (c : Core) (m : Master) (k : BitVec 12) (v : Word) : Core :=
  c.writeBy m true fun c =>
    let c := c.fireDue k
    (c.setCmp k ((c.cmp k).write (v ++ c.stagedLow m (cmpAddr k)) c.time.dtime)).stage m (cmpAddr k) 0

/-- TIME_CMP_HI_WRITE. -/
def execTimeCmpHiWrite (m : Master) (k : BitVec 12) (v : Word) (s : State) : Out := onCore (fun c => c.writeCmpHi m k v) s

def Core.writeCmpPer (c : Core) (m : Master) (k : BitVec 12) (v : Word) : Core :=
  c.writeBy m true fun c =>
    if 1 ≤ v.toNat ∧ v.toNat ≤ 799 then c.ignored m 234 (cmpAddr k + 8) else c.setCmp k { c.cmp k with per := v }

/-- TIME_CMP_PER_WRITE. -/
def execTimeCmpPerWrite (m : Master) (k : BitVec 12) (v : Word) (s : State) : Out := onCore (fun c => c.writeCmpPer m k v) s

/-- COMPARATOR_FIRE. -/
def execComparatorFire (k : BitVec 12) (s : State) : Out := onCore (fun c => c.fireDue k) s

/-! ### Deadline monitors -/

def dmAddr (k : BitVec 12) : Addr := BitVec.ofNat 40 (regAt 0x04 (0x60000 + 0x20 * k.toNat + 0x10))

/-- A monitor whose EN is 1 is armed at t (R235, R236). -/
def Core.armDm (c : Core) (k : BitVec 12) (dl t : DWord) : Core :=
  if (c.dmCtl k).getLsbD 31 then
    let c := c.settleDm k t
    c.setDm k ((c.dm k).arm dl c.time.dtime)
  else c

/-- A Steward sprig or a host supervisor function writes TIME_DM_DL (R235); from another master the write arms nothing. -/
def Core.writeDmDl (c : Core) (m : Master) (k : BitVec 12) (v : Word) : Core :=
  if c.frozenMaster m then c
  else
    let dl := v ++ c.stagedLow m (dmAddr k)
    let c := c.stage m (dmAddr k) 0
    if c.privileged m then c.armDm k dl c.time.dtime else c

/-- TIME_DM_DL_WRITE. -/
def execTimeDmDlWrite (m : Master) (k : BitVec 12) (v : Word) (s : State) : Out := onCore (fun c => c.writeDmDl m k v) s

/-- DEADLINE_AUTO_ARM: the next edge of the auto-arm line arms the monitor with its stamp plus DELTA ns; an occurrence of the same CK_TIME edge
belongs to the old arming (R237). -/
def execDeadlineAutoArm (k : BitVec 12) (s : State) : Out :=
  onCore (fun c =>
    match c.popEdge (.arm k) with
    | none => c
    | some (t, c) => c.armDm k (t + 8#64 * ((c.dmAuto k).setWidth 19 : BitVec 19).setWidth 64) t) s

/-- DEADLINE_SATISFY: the next occurrence of the watched thing reaches the monitor. -/
def execDeadlineSatisfy (k : BitVec 12) (s : State) : Out :=
  onCore (fun c =>
    match c.popEdge (.watch k) with
    | none => c
    | some (t, c) => if inTime t (c.dm k).dl then c.satisfy k t else c) s

/-- DEADLINE_MISS: an armed monitor at the first CK_TIME edge after its deadline. -/
def execDeadlineMiss (k : BitVec 12) (s : State) : Out :=
  onCore (fun c =>
    let x := c.dm k
    if x.armed && c.time.running && decide (x.dl < c.time.dtime) && !c.savedInTime k then c.expire k else c) s

end Sys2Proof.Machine
end

