-- ==== Sys2Proof/Machine/DealFam.lean ====
section
/-!
DEFINITION. Sys2Proof/Machine/DealFam.lean: deal units (spec/07_time_and_deals.md, R238 to R246; spec/08_field_and_camera_io.md, R266
and R272 for the values of Ethernet and CoaXPress deals).
-/
namespace Sys2Proof.Machine

/-! ### Units -/

/-- What a unit drives. -/
inductive UnitKind where
  | fio (n : Byte)
  | eth (p : BitVec 3)
  | cxp (x : BitVec 4)
deriving DecidableEq, Repr

def unitKind (u : BitVec 16) : UnitKind :=
  if u.toNat < 0x100 then .fio (u.setWidth 8) else if u.toNat < 0x108 then .eth (u.setWidth 3) else .cxp (u.setWidth 4)

/-- Settings of the ports (R263, R270). -/
def Core.ethReg (c : Core) (p : BitVec 3) (off : Nat) (d : Word) : Word := Tbl.get c.cfg (sid 0x08 (0x20000 * p.toNat + off)) d
def Core.ethCtl (c : Core) (p : BitVec 3) : Word := c.ethReg p 0 0x00800000#32
def Core.cxpReg (c : Core) (x : BitVec 4) (off : Nat) : Word := Tbl.get c.cfg (sid 0x09 (0x10000 * x.toNat + off)) 0
def Core.cxpCtl (c : Core) (x : BitVec 4) : Word := c.cxpReg x 0
/-- The bank of a pin. -/
def pinBank (n : Byte) : BitVec 3 := (n >>> 5).setWidth 3

/-- A connection is its group's master (R270). -/
def Core.isMaster (c : Core) (x : BitVec 4) : Bool := decide ((c.cxpCtl x >>> 24).setWidth 4 = x)

/-- Check 1 of R239: DEAL_DOWN. -/
def Core.unitDown (c : Core) (u : BitVec 16) : Bool :=
  !(c.uctl u).getLsbD 31 || (match unitKind u with
    | .fio n => decide (pinFunc (c.pcfg n) ≠ 3) || (c.bank (pinBank n)).stopped
    | .eth p => !(c.ethCtl p).getLsbD 31 || !(c.ethCtl p).getLsbD 23 || c.quiet (.ethPort p)
    | .cxp x => !(c.cxpCtl x).getLsbD 31 || !c.isMaster x || c.quiet (.cxpConn x))

def Core.tmode (c : Core) (u : BitVec 16) : Bool := (c.uctl u).getLsbD 29

/-! ### Values -/

def dealOp (v : Word) : Nat := ((v >>> 28).setWidth 4 : BitVec 4).toNat
def dealW (v : Word) : Nat := (v.setWidth 24 : BitVec 24).toNat

/-- A FIO deal's value is legal (R243). -/
def fioValueOk (v : Word) : Bool :=
  decide ((v >>> 24).setWidth 4 = 0#4)
    && (match dealOp v with
      | 3 => decide (16 ≤ dealW v)
      | 4 => decide (16 ≤ dealW v)
      | n => decide (n ≤ 6) && decide (dealW v = 0))

def isPulse (v : Word) : Bool := decide (dealOp v = 3) || decide (dealOp v = 4)

/-- Fields of a transmit descriptor's word (R264). -/
def txdLen (w : Word) : Nat := ((w >>> 13).setWidth 14 : BitVec 14).toNat
def txdOff (w : Word) : Nat := 8 * (w.setWidth 13 : BitVec 13).toNat
def txdLegal (w : Word) : Bool := decide (14 ≤ txdLen w) && decide (txdLen w ≤ 9216) && decide (txdOff w + txdLen w ≤ 65536)

def Eth.desc (x : Eth) (i : Byte) : Txd := Tbl.get x.txd i.toNat Txd.reset
def Eth.setDesc (x : Eth) (i : Byte) (d : Txd) : Eth := { x with txd := Tbl.set x.txd i.toNat d Txd.reset }

/-- An Ethernet deal's value is legal (R266). -/
def Core.ethValueOk (c : Core) (p : BitVec 3) (v : Word) : Bool :=
  let d := (c.eth p).desc (v.setWidth 8)
  decide (v >>> 8 = 0) && !d.busy && txdLegal d.word

/-- A CoaXPress deal's value is legal (R272). -/
def cxpValueOk (v : Word) : Bool :=
  decide ((v >>> 24).setWidth 4 = 0#4)
    && (match dealOp v with
      | 2 => decide (8000 ≤ dealW v)
      | n => decide (n ≤ 1) && decide (dealW v = 0))

/-- Check 2 of R239: DEAL_BADVAL. -/
def Core.badValue (c : Core) (u : BitVec 16) (v : Word) (time : DWord) : Bool :=
  !(match unitKind u with
    | .fio _ => fioValueOk v
    | .eth p => c.ethValueOk p v
    | .cxp _ => cxpValueOk v)
  || (c.tmode u && (decide (time >>> 32 ≠ 0) || decide (time.toNat < 320)))

/-! ### Line time of an Ethernet port -/

/-- Hundredths of a tick that one byte and one start position G take (R266). -/
def lineByte (mode : BitVec 3) (spd : BitVec 2) : Nat :=
  match mode.toNat with
  | 0 => 256
  | 1 => 640
  | 2 => 6400
  | _ => match spd.toNat with | 0 => 6400 | 1 => 64000 | _ => 640000

def lineG (mode : BitVec 3) (spd : BitVec 2) : Nat :=
  match mode.toNat with
  | 0 => 1024
  | 1 => 2560
  | 2 => 6400
  | _ => match spd.toNat with | 0 => 6400 | 1 => 64000 | _ => 640000

def Core.ethMode (c : Core) (p : BitVec 3) : BitVec 3 := (c.ethCtl p >>> 28).setWidth 3

/-- Bytes of line a frame takes: preamble, data padded to 60, FCS, gap. -/
def frameBytes (len : Nat) : Nat := 8 + max 60 len + 4 + 12

/-- Ticks, rounded up, from hundredths. -/
def ticksUp (n : Nat) : Nat := (n + 99) / 100

/-- DEAL_UTAIL after a deal that is released at t (R239, R244, R266). -/
def Core.tailAfter (c : Core) (u : BitVec 16) (v : Word) (t : DWord) : DWord :=
  match unitKind u with
  | .fio _ => if isPulse v then t + BitVec.ofNat 64 (dealW v) else t
  | .cxp _ => if dealOp v = 2 then t + BitVec.ofNat 64 (dealW v) else t
  | .eth p =>
    let m := c.ethMode p
    let s := (c.eth p).spd
    let len := txdLen ((c.eth p).desc (v.setWidth 8)).word
    t + BitVec.ofNat 64 (ticksUp (lineG m s + lineByte m s * frameBytes len))

/-- DEAL_UTAIL when an edge takes a deal: its release, or the end of its pulse (R244). -/
def tailTaken (u : BitVec 16) (v : Word) (r : DWord) : DWord :=
  match unitKind u with
  | .fio _ => if isPulse v then r + BitVec.ofNat 64 (dealW v) else r
  | .cxp _ => if dealOp v = 2 then r + BitVec.ofNat 64 (dealW v) else r
  | .eth _ => r

/-! ### Outcomes (R242, R246) -/

def dealLate : BitVec 4 := 1
def dealOrder : BitVec 4 := 2
def dealFull : BitVec 4 := 3
def dealDown : BitVec 4 := 4
def dealBadval : BitVec 4 := 5
def dealMissed : BitVec 4 := 6
def missSlept : BitVec 4 := 1
def missStepped : BitVec 4 := 2
def missFlush : BitVec 4 := 3
def missReset : BitVec 4 := 4
def missLink : BitVec 4 := 5
def missOrder : BitVec 4 := 6

def satInc8 (x : Byte) : Byte := if x = 0xFF#8 then x else x + 1

/-- A refusal or miss is counted in DEAL_UERR and named in DEAL_USTAT. -/
def DealUnit.count (x : DealUnit) (o : BitVec 4) : DealUnit :=
  { x with
    last := o
    late := if o = dealLate then satInc8 x.late else x.late
    order := if o = dealOrder then satInc8 x.order else x.order
    missed := if o = dealMissed then satInc8 x.missed else x.missed
    other := if o = dealLate ∨ o = dealOrder ∨ o = dealMissed then x.other else satInc8 x.other }

/-- DEAL_UERR. -/
def DealUnit.errWord (x : DealUnit) : Word := x.late ++ x.order ++ x.missed ++ x.other

/-- DEAL_SSTAT of the issuing sprig takes a resolution (R242, R245). -/
def SStat.take (x : SStat) (o : BitVec 4) (u : BitVec 16) : SStat :=
  { outcome := o, refcnt := if o = 0 then x.refcnt else x.refcnt + 1, num := u }

/-- A refusal or a miss of a deal of sprig g at unit u. -/
def Core.dealError (c : Core) (u : BitVec 16) (g : SprigId) (o : BitVec 4) : Core :=
  let c := (c.setUnit u ((c.unit u).count o)).setSstat g ((c.sstat g).take o u)
  let c := c.source (0x3200#16 + u) true true c.time.dtime
  if (c.uctl u).getLsbD 28 then
    c.log { cls := 0, source := 0x06, code := 0x000B, unit := u.setWidth 32, detail := (o ++ (u.setWidth 12 : BitVec 12)), addr := 0 }
  else c

/-- A queued entry is discarded with DEAL_MISSED (R241); the descriptor of a dealt frame is free again. -/
def Core.missEntry (c : Core) (u : BitVec 16) (e : DealEntry) (cause : BitVec 4) : Core :=
  let c := c.setUnit u { c.unit u with mcause := cause }
  let c := match unitKind u with
    | .eth p =>
      let x := c.eth p
      let i : Byte := e.value.setWidth 8
      c.setEth p (x.setDesc i { x.desc i with busy := false })
    | _ => c
  c.dealError u e.g dealMissed

/-- Every queued entry is discarded. -/
def Core.missAll (c : Core) (u : BitVec 16) (cause : BitVec 4) : Core :=
  let q := (c.unit u).queue
  q.foldl (fun c e => c.missEntry u e cause) (c.setUnit u { c.unit u with queue := [] })

/-! ### Acceptance (R239) -/

/-- Why the unit refuses a deal that it latches at instant a. -/
def Core.dealRefusal (c : Core) (u : BitVec 16) (v : Word) (t a : DWord) : Option (BitVec 4) :=
  if c.unitDown u then some dealDown
  else if c.badValue u v t then some dealBadval
  else if !c.tmode u && decide (t.toNat < a.toNat + 800) then some dealLate
  else if !c.tmode u && decide (t < (c.unit u).tail) then some dealOrder
  else if unitDepth u ≤ (c.unit u).queue.length then some dealFull
  else none

/-- The slack sample of a watched timed deal (R247, R249). -/
def Core.dealSample (c : Core) (u : BitVec 16) (g : SprigId) (t a : DWord) (late : Bool) : Core :=
  if (c.uctl u).getLsbD 30 && !c.tmode u then
    let c := c.sample (bunchOf g) (((t.toNat : Int) - 800 - (a.toNat : Int)) / 8)
    if late then c.watchedMiss else c
  else c

/-- The deal enters the queue. -/
def Core.enterDeal (c : Core) (u : BitVec 16) (v : Word) (t : DWord) (g : SprigId) : Core :=
  let now := c.time.dtime
  let x := c.unit u
  let timed := !c.tmode u
  let entry : DealEntry := ⟨v, t, g, if timed then some t else none, now⟩
  let c' := c.setUnit u { x with
    queue := x.queue ++ [entry], tail := if timed then c.tailAfter u v t else x.tail }
  let c' := match unitKind u with
    | .eth p =>
      let y := c'.eth p
      let i : Byte := v.setWidth 8
      c'.setEth p (y.setDesc i { y.desc i with busy := true })
    | _ => c'
  (c'.setSstat g ((c'.sstat g).take 0 u)).occur 2 (u.setWidth 32) now

/-- A deal card reaches its unit. -/
def Core.acceptDeal (c : Core) (u : BitVec 16) (v : Word) (t : DWord) (g : SprigId) : Core :=
  let a := c.time.dtime
  let c := c.modSprig g fun s => { s with dealsOut := s.dealsOut - 1 }
  match c.dealRefusal u v t a with
  | none => (c.dealSample u g t a false).enterDeal u v t g
  | some o => (if o = dealLate then c.dealSample u g t a true else c).dealError u g o

/-- DEAL_CARD_ACCEPT: the k-th item in transit is a deal card. -/
def execDealCardAccept (k : Nat) (s : State) : Out :=
  onCore (fun c =>
    match c.arrives k with
    | some ⟨_, _, .deal u v t g⟩ => (c.land k).acceptDeal u v t g
    | _ => c) s

/-! ### Release (R240, R241, R243, R244) -/

/-- The operation of a FIO deal on its pin. -/
def Pin.apply (x : Pin) (v : Word) : Pin :=
  match dealOp v with
  | 0 => { x with level := false }
  | 1 => { x with level := true }
  | 2 => { x with level := !x.level }
  | 3 => { x with level := true }
  | 4 => { x with level := false }
  | 5 => { x with hiz := true }
  | _ => { x with hiz := false }

/-- The pulse return edges at or before t are applied to the pin. -/
def Core.applyReturns (c : Core) (u : BitVec 16) (t : DWord) : Core :=
  let x := c.unit u
  let due := x.returns.filter fun r => decide (r.1 ≤ t)
  let c := c.setUnit u { x with returns := x.returns.filter fun r => !decide (r.1 ≤ t) }
  match unitKind u with
  | .fio n => due.foldl (fun c r => c.setPin n { c.pin n with level := r.2 }) c
  | _ => c

/-- The unit releases a value at its instant t. -/
def Core.emit (c : Core) (u : BitVec 16) (v : Word) (t : DWord) : Core :=
  match unitKind u with
  | .fio n =>
    let c := c.setPin n ((c.pin n).apply v)
    if isPulse v then
      let x := c.unit u
      c.setUnit u { x with returns := x.returns ++ [(t + BitVec.ofNat 64 (dealW v), decide (dealOp v = 4))] }
    else c
  | .eth p => c.setEth p { c.eth p with due := (c.eth p).due ++ [(v.setWidth 8, t)] }
  | .cxp x =>
    let y := c.cxp x
    c.setCxp x { y with
      trig := y.trig ++ (if dealOp v = 2 then [(t, true), (t + BitVec.ofNat 64 (dealW v), false)] else [(t, decide (dealOp v = 0))]) }

/-- Why an entry whose instant has come cannot be released (R241). -/
def Core.missCause (c : Core) (u : BitVec 16) (e : DealEntry) (t : DWord) : Option (BitVec 4) :=
  if c.time.skipped t e.since then some (if c.time.slept t e.since then missSlept else missStepped)
  else match unitKind u with
    | .fio _ => none
    | .eth p => if (c.eth p).link then none else some missLink
    | .cxp x => if (c.cxp x).link then none else some missLink

/-- The entry at the head leaves the queue at its instant. -/
def Core.releaseDeal (c : Core) (u : BitVec 16) : Core :=
  match (c.unit u).queue with
  | [] => c
  | e :: rest =>
    match e.release with
    | none => c
    | some t =>
      if c.time.dtime < t then c
      else
        let c := c.applyReturns u t
        let c := c.setUnit u { c.unit u with queue := rest }
        match c.missCause u e t with
        | some m => c.missEntry u e m
        | none => c.emit u e.value t

/-- DEAL_RELEASE. -/
def execDealRelease (u : BitVec 16) (s : State) : Out := onCoreIf (unitExists u) (fun c => c.releaseDeal u) s

/-- PULSE_RETURN_EDGE: return edges whose instant has come are applied; one that a step or reload skipped, at its edge (R241, R243). -/
def execPulseReturnEdge (u : BitVec 16) (s : State) : Out :=
  onCoreIf (unitExists u) (fun c => c.applyReturns u c.time.dtime) s

/-- The oldest entry that no edge has taken, its release set to r. -/
def takeOldest (r now : DWord) : List DealEntry → List DealEntry
  | [] => []
  | e :: rest => if e.release = none then { e with release := some r, since := now } :: rest else e :: takeOldest r now rest

/-- That entry removed. -/
def dropOldest : List DealEntry → List DealEntry
  | [] => []
  | e :: rest => if e.release = none then rest else e :: dropOldest rest

/-- A trigger edge with this stamp reaches a unit in triggered mode (R244). -/
def Core.takeDeal (c : Core) (u : BitVec 16) (stamp : DWord) : Core :=
  let x := c.unit u
  match x.queue.find? fun e => decide (e.release = none) with
  | none => if x.queue.isEmpty then c.setUnit u { x with tempty := x.tempty + 1 } else c
  | some e =>
    let r := stamp + ((e.time.setWidth 32 : Word).setWidth 64)
    if r < x.tail then (c.setUnit u { x with queue := dropOldest x.queue }).missEntry u e missOrder
    else c.setUnit u { x with queue := takeOldest r c.time.dtime x.queue, tail := tailTaken u e.value r }

/-- TRIGGERED_DEAL_TAKE. -/
def execTriggeredDealTake (u : BitVec 16) (s : State) : Out :=
  onCoreIf (unitExists u) (fun c =>
    match c.popEdge (.deal u) with
    | none => c
    | some (t, c) => if c.tmode u then c.takeDeal u t else c) s

/-! ### Registers (R245) -/

/-- Who may write DEAL_UCMD: Steward sprigs, host supervisor functions, sprigs of granted bunches. -/
def Core.mayFlush (c : Core) (m : Master) (u : BitVec 16) : Bool :=
  match m with
  | .sprig g => isSteward g || (c.ugrant u).getLsbD (bunchOf g).toNat
  | m => c.privileged m

/-- FLUSH: every queued entry is discarded; a pending pulse return edge stays (R241). -/
def Core.flushUnit (c : Core) (m : Master) (u : BitVec 16) : Core :=
  c.writeBy m (c.mayFlush m u) fun c => c.missAll u missFlush

def execFlush (m : Master) (u : BitVec 16) (s : State) : Out := onCoreIf (unitExists u) (fun c => c.flushUnit m u) s

/-- DEAL_UERR_READ: the counts are returned and cleared. -/
def Core.readUerr (c : Core) (u : BitVec 16) : Word × Core :=
  let x := c.unit u
  (x.errWord, (c.setUnit u { x with late := 0, order := 0, missed := 0, other := 0 }).source (0x3200#16 + u) false false
    c.time.dtime)

def execDealUerrRead (m : Master) (u : BitVec 16) (s : State) : Out :=
  onCoreIf (unitExists u) (fun c => c.readBy m false fun c => c.readUerr u) s

end Sys2Proof.Machine
end

