-- ==== Sys2Proof/Machine/Views.lean ====
section
/-!
DEFINITION. Sys2Proof/Machine/Views.lean: what the debug view and the control-store region show (R38, R39, R54, R127, R158), and how a unit's
access to device memory ends where a part that holds it stalls or is gone (R301, R310, R311, R386, R410).
-/
namespace Sys2Proof.Machine

/-! ### The debug view (R38, R39, R54, R158) -/

/-- The sprig and the offset within its unit of a debug-view address. -/
def viewSprig (a : Nat) : SprigId := BitVec.ofNat 11 ((a - 0x4800000000) / 0x20000)
def viewOff (a : Nat) : Nat := (a - 0x4800000000) % 0x20000
/-- Whether an offset lies in a bank or the instruction RAM. -/
def viewStore (o : Nat) : Bool := decide (o < 0xC000) || (decide (0x10000 ≤ o) && decide (o < 0x14000))

/-- Word k of the register image (R54). -/
def Sprig.imageWord (s : Sprig) (k : Nat) : Word :=
  if k < 16 then s.rd (BitVec.ofNat 4 k)
  else if k < 24 then (s.ra (BitVec.ofNat 3 k)).setWidth 32
  else if k < 28 then (s.rm (BitVec.ofNat 2 k)).setWidth 32
  else match k with
    | 28 => (s.rac 0).setWidth 32
    | 29 => ((s.rac 0) >>> 32).setWidth 32
    | 30 => ((s.rac 0) >>> 64).setWidth 32
    | 32 => (s.rac 1).setWidth 32
    | 33 => ((s.rac 1) >>> 32).setWidth 32
    | 34 => ((s.rac 1) >>> 64).setWidth 32
    | 36 => (s.p ||| 1).setWidth 32
    | 37 => s.pc.setWidth 32
    | 38 => s.sw
    | 39 => s.mode
    | 40 => s.state.code.setWidth 32
    | 41 => s.cause.setWidth 32
    | 42 => s.tags ++ s.board
    | 43 => s.faultPc.setWidth 32
    | _ => 0

/-- Byte of a debug-view address. -/
def Core.viewByte (c : Core) (a : Nat) : Byte :=
  let o := viewOff a
  if viewStore o then c.byte a
  else if 0x18000 ≤ o ∧ o < 0x18100 then
    (((c.sprig (viewSprig a)).imageWord ((o - 0x18000) / 4)) >>> (8 * (o % 4))).setWidth 8
  else 0

/-- A read of the debug view: a byte of bad parity marks the data poisoned (R158). -/
def Core.viewRead (c : Core) (a n : Nat) : List Byte × Bool × Core :=
  let bs := (List.range n).map fun k => c.viewByte (a + k)
  match (List.range n).find? fun k => viewStore (viewOff (a + k)) && c.badParity (a + k) with
  | some k => (bs, true, c.logParity (viewSprig a) (a + k))
  | none => (bs, false, c)

/-- Word i, of three, of an accumulator replaced. -/
def acPut (x : BitVec 80) (i : Nat) (v : Word) : BitVec 80 :=
  let mask : BitVec 80 := (0xFFFFFFFF#32).setWidth 80 <<< (32 * i)
  (x &&& ~~~mask) ||| ((v.setWidth 80 : BitVec 80) <<< (32 * i))

/-- A write of word k of the register image; `none`: the write is ignored and logged. A write of MODE is in force at once. -/
def Sprig.imageWrite (s : Sprig) (k : Nat) (v : Word) : Option Sprig :=
  if k < 16 then (if s.board.getLsbD k then none else some (s.setD (BitVec.ofNat 4 k) v))
  else if k < 24 then some (s.setA (BitVec.ofNat 3 k) (v.setWidth 16))
  else if k < 28 then some (s.setM (BitVec.ofNat 2 k) (v.setWidth 16))
  else if 28 ≤ k ∧ k < 31 then some (s.setAc 0 (acPut (s.rac 0) (k - 28) v))
  else if 32 ≤ k ∧ k < 35 then some (s.setAc 1 (acPut (s.rac 1) (k - 32) v))
  else match k with
    | 36 => some { s with p := v.setWidth 8 &&& 0xFE#8 }
    | 37 => some { s with pc := v.setWidth 16 }
    | 38 => some { s with sw := swWrite s.sw v }
    | 39 => if modeLane v = 3 then none else some { s with mode := v &&& modeMask, written := none }
    | _ => some s

/-- Whether sprig g takes debug-view and control-store writes from m (R39, R130, R457). -/
def Core.stopped (c : Core) (m : Master) (g : SprigId) : Bool :=
  (match (c.sprig g).state with
    | .disabled => true
    | .halted => true
    | .frozen => true
    | _ => false) || (decide (g = 0) && c.boot.romMode && decide (m = .bootRom))

/-- A write of bytes through the debug view. -/
def Core.viewWrite (c : Core) (m : Master) (a : Nat) (bs : List Byte) : Core :=
  let g := viewSprig a
  let o := viewOff a
  if !c.stopped m g then c.ignored m 39 (BitVec.ofNat 40 a)
  else if viewStore o then
    (List.range bs.length).foldl (fun c k =>
      if viewStore (o + k) then c.localWrite (a + k) [bs[k]?.getD 0] false else c) c
  else if 0x18000 ≤ o ∧ o < 0x18100 then
    let k := (o - 0x18000) / 4
    let old := bytesOf ((c.sprig g).imageWord k) 4
    let v := wordOf ((old.take (o % 4) ++ bs ++ old.drop (o % 4 + bs.length)).take 4)
    match (c.sprig g).imageWrite k v with
    | some s => c.setSprig g s
    | none => c.ignored m 54 (BitVec.ofNat 40 a)
  else c

/-! ### The control-store region (R38, R40, R127, R130) -/

def isStore (a : Nat) : Bool := decide (0x5000000000 ≤ a) && decide (a < 0x5004000000)
def isAlias (a : Nat) : Bool := decide (0x5040000000 ≤ a) && decide (a < 0x5040200000)

/-- One byte that a master reads in the control-store region: of the customer region and the decode table, as a Steward sprig or a host
(R127). -/
def Core.storeByte (c : Core) (m : Master) (a : Nat) : Byte :=
  let o := (a - 0x5000000000) % 0x8000
  let sees : Bool := match m with
    | .sprig g => isSteward g
    | .host _ => true
    | .monitor => true
    | .bootRom => true
    | .peer _ => false
  if isStore a && sees && decide (0x3C00 ≤ o) && decide (o < 0x4400) then c.byte a else 0

/-- A read of the control-store region. -/
def Core.storeRead (c : Core) (m : Master) (a n : Nat) : List Byte := (List.range n).map fun k => c.storeByte m (a + k)

/-- Words written to a control store. -/
def Core.writeStore (c : Core) (a : Nat) (bs : List Byte) : Core :=
  (List.range (bs.length / 4)).foldl (fun c k => c.setCsMark (a + 4 * k) .ok) (c.setBytes a bs)

/-- One sprig's store takes the bytes. -/
def Core.storePut (c : Core) (g : SprigId) (o : Nat) (bs : List Byte) : Core :=
  if o < 0x4400 then c.writeStore (storeBase g + o) bs else c

/-- A write to one store, or through the alias to the stopped sprigs of a bunch, with one entry that names those that ignored it (R130). -/
def Core.storeWrite (c : Core) (m : Master) (a : Nat) (bs : List Byte) : Core :=
  let free (g : SprigId) : Bool := c.stopped .bootRom g
  if isStore a then
    let g : SprigId := BitVec.ofNat 11 ((a - 0x5000000000) / 0x8000)
    c.reach (bunchOf g) fun c =>
      if free g then c.storePut g ((a - 0x5000000000) % 0x8000) bs else c.ignored m 130 (BitVec.ofNat 40 a)
  else
    let b : BunchId := BitVec.ofNat 6 ((a - 0x5040000000) / 0x8000)
    c.reach b fun c =>
      let c' := ((sprigsOf b).filter free).foldl (fun c g => c.storePut g ((a - 0x5040000000) % 0x8000) bs) c
      let deaf := (sprigsOf b).filter fun g => !free g
      if deaf = [] then c'
      else c'.log
        { cls := 0, source := masterSource m, code := 0x0007, detail := 130, addr := BitVec.ofNat 40 a,
          unit := deaf.foldl (fun (w : Word) g => w ||| (1#32 <<< (inBunch g).toNat)) 0 }

/-! ### Accesses whose part stalls or is gone -/

/-- What becomes of an access to n bytes of device memory: GDDR6 by its channels, a bunch's memory by the bunch (R301, R310, R311, R386,
R410). -/
def Core.avail (c : Core) (a n : Nat) : Avail :=
  if n = 0 then .ok
  else if isMem a then c.rangeAvail a n
  else if isScratch a || isLocals a then
    let b := if isScratch a then scratchBunch a else bunchOf (viewSprig a)
    if c.quiet (.bunch b) then .gone else if c.asleep b then .stalls else .ok
  else .ok

/-- The accesses that a transfer of n bytes at `a` makes, each in one granule of GDDR6 (R300). -/
def granules (a n : Nat) : List (Nat × Nat) :=
  if n = 0 then []
  else if isMem a then
    (List.range ((a + n - 1) / 256 + 1 - a / 256)).map fun i =>
      let lo := max a ((a / 256 + i) * 256)
      (lo, min (a + n) ((a / 256 + i + 1) * 256) - lo)
  else [(a, n)]

/-- Some access of a transfer waits. -/
def Core.waits (c : Core) (a n : Nat) : Bool := (granules a n).any fun x => decide (c.avail x.1 x.2 = .stalls)

/-- Some access of it meets a part that is gone. -/
def Core.lost (c : Core) (a n : Nat) : Bool := (granules a n).any fun x => decide (c.avail x.1 x.2 = .gone)

/-- A unit that reads and writes device memory: its port at the banks (R166), and how an ABANDONED entry names it (R375, R376). -/
structure MemUnit where
  port : Byte
  source : Byte
  unit : Word
  kind : BitVec 16
deriving DecidableEq, Repr

/-- A stream DMA engine, an Ethernet port, a CoaXPress connection, the Teinglink block, the Steward. -/
def dmaUnit (b : BunchId) : MemUnit := ⟨whoDma, 0x33, b.setWidth 32, 3⟩
def ethUnit (p : BitVec 3) : MemUnit := ⟨whoHost, 0x08, p.setWidth 32, 3⟩
def cxpUnit (x : BitVec 4) : MemUnit := ⟨whoHost, 0x09, x.setWidth 32, 3⟩
def tlUnit : MemUnit := ⟨whoTl, 0x10, 0, 2⟩
def sprigUnit (g : SprigId) : MemUnit := ⟨(inBunch g).setWidth 8, 0x30, g.setWidth 32, 0⟩

/-- A unit's read: bytes of a part that is gone read 0, marked poisoned (R386). -/
def Core.unitFetch (c : Core) (u : MemUnit) (a n : Nat) : List Byte × List Bool × Core :=
  (granules a n).foldl (fun (acc : List Byte × List Bool × Core) x =>
    let (bs, ms, c) := acc
    if c.avail x.1 x.2 = .gone then (bs ++ List.replicate x.2 0, ms ++ List.replicate x.2 true, c)
    else
      let (bs', ms', c) := c.unitReadMarks u.port x.1 x.2
      (bs ++ bs', ms ++ ms', c)) ([], [], c)

/-- A unit's write, each byte with its mark: what goes to a part that is gone is discarded and logged (R386). -/
def Core.unitStore (c : Core) (u : MemUnit) (a : Nat) (bs : List Byte) (ms : List Bool) : Core :=
  (granules a bs.length).foldl (fun c x =>
    if c.avail x.1 x.2 = .gone then
      c.log { cls := 1, source := u.source, code := 0x000E, unit := u.unit, detail := u.kind, addr := BitVec.ofNat 40 x.1 }
    else c.unitWriteMarks u.port x.1 ((bs.drop (x.1 - a)).take x.2) ((ms.drop (x.1 - a)).take x.2)) c

end Sys2Proof.Machine
end

