-- ==== Sys2Proof/Machine/EthFam.lean ====
section
/-!
DEFINITION. Sys2Proof/Machine/EthFam.lean: Ethernet ports (spec/08_field_and_camera_io.md, R263 to R269).
-/
namespace Sys2Proof.Machine

def ethEn (w : Word) : Bool := w.getLsbD 31
def ethPreempt (w : Word) : Bool := w.getLsbD 25
def ethQbv (w : Word) : Bool := w.getLsbD 24
def ethGuard (w : Word) : Bool := w.getLsbD 23
/-- The source of event e of port p (R229). -/
def ethSource (p : BitVec 3) (e : Nat) : BitVec 16 := BitVec.ofNat 16 (0x0500 + 4 * p.toNat + e)

/-- An IGNORED_WRITE entry that names the port (R264, R265). -/
def Core.ethIgnored (c : Core) (p : BitVec 3) (rule off : Nat) : Core :=
  c.log { cls := 0, source := 0x08, code := 0x0007, unit := p.setWidth 32, detail := BitVec.ofNat 16 rule,
          addr := BitVec.ofNat 40 (regAt 0x08 (0x20000 * p.toNat + off)) }

/-! ### Frame memory (R264) -/

/-- Bytes of the frame memory, which ends at 64 KiB. -/
def Eth.memBytes (x : Eth) (off n : Nat) : List Byte := (List.range n).map fun i => Tbl.get x.mem ((off + i) % 65536) 0
/-- Bytes are written to the frame memory. -/
def Eth.setMem (x : Eth) (off : Nat) (bs : List Byte) : Eth :=
  { x with mem := (bs.zipIdx).foldl (fun t e => Tbl.set t ((off + e.2) % 65536) e.1 0) x.mem }

/-- What the port sends for a descriptor: the frame's bytes, padding to 60, and the FCS, which covers them all (R264). -/
def Eth.frame (x : Eth) (w : Word) : List Byte :=
  let bs := x.memBytes (txdOff w) (txdLen w)
  let bs := bs ++ (List.range (60 - bs.length)).map Config.padByte
  bs ++ bytesOf (crc32 bs) 4

/-! ### Queuing (R264, R265) -/

def Eth.classQ (x : Eth) (c : BitVec 3) : List Byte := Tbl.get x.classes c.toNat []
def Eth.setClassQ (x : Eth) (c : BitVec 3) (l : List Byte) : Eth := { x with classes := Tbl.set x.classes c.toNat l [] }

/-- A write of ETH_TXQ. -/
def Core.ethQueue (c : Core) (m : Master) (p cls : BitVec 3) (v : Word) : Core :=
  c.writeBy m true fun c =>
    let x := c.eth p
    let i : Byte := v.setWidth 8
    let d := x.desc i
    if d.busy || decide (64 ≤ (x.classQ cls).length) || !txdLegal d.word then c.ethIgnored p 265 (0x80 + 4 * cls.toNat)
    else c.setEth p ((x.setDesc i { d with busy := true }).setClassQ cls (x.classQ cls ++ [i]))

/-- ETH_TXQ. -/
def execEthTxq (m : Master) (p cls : BitVec 3) (v : Word) (s : State) : Out := onCore (fun c => c.ethQueue m p cls v) s

/-- A write of a descriptor's word. -/
def Core.ethDesc (c : Core) (m : Master) (p : BitVec 3) (i : Byte) (v : Word) : Core :=
  c.writeBy m true fun c =>
    let x := c.eth p
    let d := x.desc i
    if d.busy then c.ethIgnored p 264 (0x1000 + 0x10 * i.toNat)
    else c.setEth p (x.setDesc i { d with word := v &&& 0x7FFFFFFF#32 })

/-- ETH_TXD_WRITE. -/
def execEthTxdWrite (m : Master) (p : BitVec 3) (i : Byte) (v : Word) (s : State) : Out := onCore (fun c => c.ethDesc m p i v) s

/-! ### Starting a non-dealt frame (R267, R268) -/

/-- ns, in hundredths of a tick. -/
def centiNs (n : Nat) : Nat := 800 * n

/-- Hundredths of a tick until the first dealt frame that is queued or released begins: its preamble ends at its instant at the earliest. -/
def Core.lineFree (c : Core) (p : BitVec 3) : Option Nat :=
  let ts := (c.eth p).due.map Prod.snd ++ (c.unit (0x100#16 + p.setWidth 16)).queue.filterMap DealEntry.release
  ts.foldl (fun m t =>
    let n := 100 * (t.toNat - c.time.dtime.toNat) - 8 * lineByte (c.ethMode p) (c.eth p).spd
    some (match m with | none => n | some k => min k n)) none

/-- Whether the first `n` bytes of line make way within 100 ns, and for every deal already accepted (R267). -/
def Core.makesWay (c : Core) (p : BitVec 3) (n : Nat) : Bool :=
  let cost := lineByte (c.ethMode p) (c.eth p).spd * n
  decide (cost ≤ centiNs 100) && (match c.lineFree p with | none => true | some left => decide (cost ≤ left))

/-- DGUARD lets the frame start: it makes way for any deal, or preemption lets its first fragment do so (R267). -/
def Core.guardAllows (c : Core) (p : BitVec 3) (w : Word) : Bool :=
  !ethGuard (c.ethCtl p) || c.makesWay p (frameBytes (txdLen w))
    || ((c.eth p).pact && w.getLsbD 30 && c.makesWay p (8 + 60 + 4 + 12))

/-- From `at_` ns into a cycle of `len` ns: how long gate `cls` stays open, and whether to the cycle's end; the last entry holds to it
(R268). -/
def openFrom (cls : BitVec 3) : List Word → Nat → Nat → Nat × Bool
  | [], _, _ => (0, false)
  | e :: rest, at_, len =>
    let n := if rest.isEmpty then len else min (e.setWidth 24 : BitVec 24).toNat len
    let isOpen := (e >>> 24).getLsbD cls.toNat
    if n ≤ at_ then openFrom cls rest (at_ - n) (len - n)
    else if !isOpen then (0, false)
    else if n = len then (n - at_, true)
    else
      let (more, stop) := openFrom cls rest 0 (len - n)
      (n - at_ + more, stop)

/-- The gates let a frame of class cls start now and end before the gate closes, which may be in the next cycle (R268). -/
def Core.gateAllows (c : Core) (p cls : BitVec 3) (w : Word) : Bool :=
  let x := c.eth p
  if !ethQbv (c.ethCtl p) then true
  else match x.cycle with
    | none => false
    | some start =>
      let len := x.cycLen.toNat
      let (left, stop) := openFrom cls x.gates ((c.time.dtime - start).toNat / 8 % max 1 len) len
      let (next, always) := openFrom cls x.gates 0 len
      let cost := lineByte (c.ethMode p) x.spd * (8 + max 60 (txdLen w) + 4)
      decide (0 < left) && (decide (cost ≤ centiNs left) || (stop && (always || decide (cost ≤ centiNs (left + next)))))

/-- The frame at the head of class cls starts. -/
def Core.startClass (c : Core) (p cls : BitVec 3) : Core :=
  let x := c.eth p
  match x.classQ cls with
  | [] => c
  | i :: rest =>
    let w := (x.desc i).word
    if ethEn (c.ethCtl p) && x.link && x.sending.isNone && x.late.isNone && c.guardAllows p w && c.gateAllows p cls w then
      c.setEth p { x.setClassQ cls rest with sending := some ⟨i, false, 0⟩ }
    else c

/-- ETH_FRAME_START. -/
def execEthFrameStart (p cls : BitVec 3) (s : State) : Out := onCore (fun c => c.startClass p cls) s

/-! ### Dealt frames (R266, R267) -/

/-- Whether the line is free for a dealt frame: nothing is being sent, or a preemptable frame that gives way (R267). -/
def Eth.yields (x : Eth) : Bool :=
  match x.sending with
  | none => true
  | some f => !f.dealt && x.pact && (x.desc f.idx).word.getLsbD 30

/-- ETH_DEALT_FRAME: the released deal's frame crosses the connector at the first start position at or after its instant, or in triggered
mode, whose deals may fall into an earlier frame (R244), once that frame has ended. A preemptable frame being sent gives way and resumes after
it. -/
def execEthDealtFrame (p : BitVec 3) (stamp : DWord) (s : State) : Out :=
  onCore (fun c =>
    let x := c.eth p
    match x.due with
    | [] => c
    | (i, t) :: rest =>
      let late := !c.tmode (0x100#16 + p.setWidth 16) && decide (t.toNat + ticksUp (lineG (c.ethMode p) x.spd) < stamp.toNat)
      if stamp < t ∨ late ∨ !x.yields then c
      else
        let d := x.desc i
        c.setEth p { x.setDesc i { d with stamp := stamp } with
          due := rest, late := (match x.sending with | none => x.late | some f => some f), sending := some ⟨i, true, stamp⟩ }) s

/-- ETH_FRAME_END: the last byte and FCS are sent; `stamp` is the timestamp point of a non-dealt frame (R264 to R266). The frame's bytes are read
here: firmware leaves them unchanged until BUSY clears (log entry 80). -/
def execEthFrameEnd (p : BitVec 3) (stamp : DWord) (s : State) : Out :=
  onCore (fun c =>
    let x := c.eth p
    match x.sending with
    | none => c
    | some f =>
      let d := x.desc f.idx
      let x' := { x.setDesc f.idx { d with busy := false, stamp := if f.dealt then d.stamp else stamp } with
        sent := x.frame d.word, sending := x.late, late := none, txdone := x.txdone || f.dealt }
      if f.dealt then (c.setEth p x').source (ethSource p 1) true true f.stamp else c.setEth p x') s

/-! ### Cycles (R268) -/

def Core.qbvBase (c : Core) (p : BitVec 3) : DWord := c.ethReg p 0x408 0 ++ c.ethReg p 0x404 0
def Core.qbvLen (c : Core) (p : BitVec 3) : Nat := ((c.ethReg p 0x40C 0).setWidth 9 : BitVec 9).toNat

/-- The latest start of a cycle on a grid, if DTIME has reached one. -/
def gridStart (now base : DWord) (cyc : Word) : Option DWord :=
  if cyc = 0 ∨ now < base then none
  else some (base + BitVec.ofNat 64 ((now - base).toNat / (8 * cyc.toNat) * (8 * cyc.toNat)))

/-- The cycle that DTIME has reached, with its list, length and base: of the values in force once one of their starts comes at or after the
instant of their commit, until then of the running cycle's. -/
def Core.qbvNow (c : Core) (p : BitVec 3) : Option (DWord × List Word × Word × DWord) :=
  let x := c.eth p
  let cyc := c.ethReg p 0x400 0
  let base := c.qbvBase p
  match gridStart c.time.dtime base cyc with
  | some start =>
    if x.qbvFrom ≤ start then some (start, (List.range (c.qbvLen p)).map fun e => c.ethReg p (0x800 + 4 * e) 0, cyc, base)
    else (gridStart c.time.dtime x.cycBase x.cycLen).map fun t => (t, x.gates, x.cycLen, x.cycBase)
  | none => (gridStart c.time.dtime x.cycBase x.cycLen).map fun t => (t, x.gates, x.cycLen, x.cycBase)

/-- QBV_CYCLE_START: the cycle that DTIME has reached starts: CYC is set and event 2 raised. -/
def execQbvCycleStart (p : BitVec 3) (s : State) : Out :=
  onCore (fun c =>
    let x := c.eth p
    if !ethEn (c.ethCtl p) || !ethQbv (c.ethCtl p) then c
    else match c.qbvNow p with
      | none => c
      | some (start, list, cyc, base) =>
        if x.cycle = some start then c
        else (c.setEth p { x with cycle := some start, cyc := true, gates := list, cycLen := cyc, cycBase := base }).source
          (ethSource p 2) true true start) s

/-! ### Reception (R269) -/

/-- The EtherType, after any VLAN tag. -/
def etherType : Nat → List Byte → BitVec 16
  | 0, _ => 0
  | fuel + 1, bs =>
    match bs with
    | a :: b :: rest =>
      let t : BitVec 16 := a ++ b
      if t = 0x8100#16 ∨ t = 0x88A8#16 then etherType fuel (rest.drop 2) else t
    | _ => 0

/-- The first filter that takes a frame. -/
def Core.ethFilter (c : Core) (p : BitVec 3) (bs : List Byte) : Option (Nat × Word) :=
  let t := etherType bs.length (bs.drop 12)
  (List.range 16).findSome? fun f =>
    let w := c.ethReg p (0x100 + 4 * f) 0
    if w.getLsbD 31 && decide (w.setWidth 16 = t) then some (f, w) else none

/-- A receive ring's configuration: base, slots as a power of two, slot size, whether it is in use. -/
structure RxRing where
  base : Nat
  log2 : Nat
  size : Nat
  en : Bool
deriving DecidableEq, Repr

def Core.rxRing (c : Core) (p : BitVec 3) (r : Nat) : RxRing :=
  let w (k : Nat) : Word := c.ethReg p (0x200 + 0x20 * r + k) 0
  { base := (((w 4).setWidth 8 : Byte) ++ (w 0 &&& 0xFFFFFFE0#32)).toNat
    log2 := ((w 8 >>> 24).setWidth 4 : BitVec 4).toNat
    size := 64 * ((w 8).setWidth 8 : Byte).toNat, en := (w 8).getLsbD 31 }

/-- Words 0 to 7 of a receive record. -/
def rxRecord (len filter : Nat) (stamp : DWord) : List Byte :=
  bytesOf (BitVec.ofNat 32 len) 4 ++ bytesOf (BitVec.ofNat 32 filter) 4 ++ bytesOf stamp 8 ++ List.replicate 16 0

/-- A frame for ring r, which waits for memory that stalls (R310): dropped when the ring is full or its slot too small, else written, with its record, and TAIL advances. -/
def Core.receive (c : Core) (p : BitVec 3) (f : Nat) (w : Word) (bs : List Byte) (stamp : DWord) : Core :=
  let x := c.eth p
  let r := ((w >>> 24).setWidth 4 : BitVec 4).toNat
  let ring := c.rxRing p r
  let m := 2 ^ (ring.log2 + 1)
  let tail := (Tbl.get x.tail r 0).toNat % m
  let head := (Tbl.get x.head r 0).toNat % m
  if !ring.en || decide (2 ^ ring.log2 ≤ (tail + m - head) % m) || decide (ring.size < 32 + bs.length) then
    c.setEth p { x with rxdrop := x.rxdrop + 1 }
  else
    let slot := ring.base + (tail % 2 ^ ring.log2) * ring.size
    if c.waits slot (32 + bs.length) then c else
    let c := (c.unitStore (ethUnit p) (slot + 32) bs []).unitStore (ethUnit p) slot (rxRecord bs.length f stamp) []
    let x := c.eth p
    let c := c.setEth p { x with
      tail := Tbl.set x.tail r (BitVec.ofNat 13 ((tail + 1) % m)) 0, arr := x.arr || w.getLsbD 30 }
    if w.getLsbD 30 then c.source (ethSource p 0) true true stamp else c

/-- ETH_FRAME_RECEIVE: a whole frame without its FCS. -/
def execEthFrameReceive (p : BitVec 3) (bs : List Byte) (fcsOk : Bool) (stamp : DWord) (s : State) : Out :=
  onCore (fun c =>
    let x := c.eth p
    if !ethEn (c.ethCtl p) || !x.link || c.quiet (.ethPort p) then c
    else if !fcsOk then c.setEth p { x with fcserr := x.fcserr + 1 }
    else match c.ethFilter p bs with
      | none => c.setEth p { x with unmatched := x.unmatched + 1 }
      | some (f, w) => c.receive p f w bs stamp) s

/-! ### Link (R263) -/

/-- ETH_LINK_CHANGE: LCHG is set and event 3 raised; preemption is verified anew with the next link. -/
def execEthLinkChange (p : BitVec 3) (up : Bool) (spd : BitVec 2) (s : State) : Out :=
  onCore (fun c =>
    let x := c.eth p
    (c.setEth p { x with link := up, spd := spd, lchg := true, pact := x.pact && up }).source (ethSource p 3) true true
      c.time.dtime) s

/-- PREEMPTION_VERIFICATION: verification with the partner succeeds on a port that offers preemption. -/
def execPreemptionVerification (p : BitVec 3) (s : State) : Out :=
  onCore (fun c =>
    let x := c.eth p
    if ethEn (c.ethCtl p) && ethPreempt (c.ethCtl p) && x.link then c.setEth p { x with pact := true } else c) s

end Sys2Proof.Machine
end

