-- ==== Sys2Proof/Machine/FioFam.lean ====
section
/-!
DEFINITION. Sys2Proof/Machine/FioFam.lean: field pins, quadrature decoders, SSI and SPI masters (spec/08_field_and_camera_io.md, R252
to R262).
-/
namespace Sys2Proof.Machine

/-! ### Banks (R256, R257) -/

def Core.oset (c : Core) (m : Master) (k : BitVec 3) (v : Word) : Core :=
  c.writeBy m true fun c => c.setBank k { c.bank k with out := (c.bank k).out ||| v }
def Core.oclr (c : Core) (m : Master) (k : BitVec 3) (v : Word) : Core :=
  c.writeBy m true fun c => c.setBank k { c.bank k with out := (c.bank k).out &&& ~~~v }

/-- The level that the device drives at pin n: a GPIO output its FIO_OUT bit, a deal output its level; a bank that is stopped, HIZ and the high
level of an open drain leave the driver off (R243, R252, R255 to R257). -/
def Core.pinDrive (c : Core) (n : Nat) : Option Bool :=
  let i : Byte := BitVec.ofNat 8 n
  let w := c.pcfg i
  let b := c.bank (BitVec.ofNat 3 (n / 32))
  let level : Option Bool := match (pinFunc w).toNat with
    | 1 => some (b.out.getLsbD (n % 32))
    | 3 => if (c.pin i).hiz then none else some (c.pin i).level
    | _ => none
  match level with
  | some v => if b.stopped || (v && w.getLsbD 17) then none else some v
  | none => none

/-- The level at pin n that FIO_IN shows: what the device drives, or else what comes from outside (R256). -/
def Core.pinNow (c : Core) (n : Nat) : Bool := (c.pinDrive n).getD (c.pinIn n)

/-- The bit of its frame that an SSI master in link mode drives on its data pair now; after TXBITS clock periods the pair is turned round (R260,
R262). -/
def Core.linkDrive (c : Core) (j : BitVec 6) : Option Bool :=
  let x := c.serial j
  let w := c.serCfg j
  let bits := ((w >>> 17).setWidth 6 : BitVec 6).toNat
  let period := 16 * (((c.serClk j).setWidth 16 : BitVec 16).toNat + 1)
  let i := (c.time.dtime.toNat - x.start.toNat) / period
  if !isSpi j && w.getLsbD 30 && x.busy && decide (x.start ≤ c.time.dtime) && decide (i < bits) then some (x.txNow.getLsbD i) else none

/-- The level that the device drives on LV pair n: LV_OUT in function 0x3, a link-mode master's bit on its data pair. -/
def Core.lvDrive (c : Core) (n : Nat) : Option Bool :=
  match (pinFunc (c.lvPcfg (BitVec.ofNat 5 n))).toNat with
  | 3 => some (c.lvOut.getLsbD n)
  | 5 => if n % 2 = 1 then c.linkDrive (BitVec.ofNat 6 (n / 2)) else none
  | _ => none

/-- The level at LV pair n that LV_IN shows (R262). -/
def Core.lvNow (c : Core) (n : Nat) : Bool := (c.lvDrive n).getD (c.lvIn.getLsbD n)

def execFioOset (m : Master) (k : BitVec 3) (v : Word) (s : State) : Out := onCore (fun c => c.oset m k v) s
def execFioOclr (m : Master) (k : BitVec 3) (v : Word) (s : State) : Out := onCore (fun c => c.oclr m k v) s

/-- The deal units, which are the pins, of bank k. -/
def bankUnits (k : BitVec 3) : List (BitVec 16) := (List.range 32).map fun i => BitVec.ofNat 16 (32 * k.toNat + i)

/-- The serial masters of bank k (R260). -/
def bankSerials (k : BitVec 3) : List (BitVec 6) :=
  ((List.range 48).map fun j => BitVec.ofNat 6 j).filter fun j => decide (serialBank j = k.toNat)

/-- VIO leaves its range: the bank stops (R257). Pulse return edges wait for the resume (R241). -/
def Core.vioFault (c : Core) (k : BitVec 3) : Core :=
  let c := c.setBank k { c.bank k with viook := false, fault := true, stopped := true }
  let c := (bankUnits k).foldl (fun c u => c.missAll u missReset) c
  let c := (bankSerials k).foldl (fun c j => c.setSerial j { c.serial j with busy := false }) c
  c.log { cls := 1, source := 0x07, code := 0x0010, unit := k.setWidth 32, detail := k.setWidth 16, addr := 0 }

/-- VIO_FAULT. -/
def execVioFault (k : BitVec 3) (s : State) : Out := onCore (fun c => c.vioFault k) s

/-- VIOOK_RETURN: VIO is back in range, sensed at 3.3 V or 1.8 V (R252, R256). -/
def execViookReturn (k : BitVec 3) (v33 : Bool) (s : State) : Out :=
  onCore (fun c => c.setBank k { c.bank k with viook := true, vio33 := v33 }) s

/-- A pin in deal output drives IDLE (R252, R255); return edges still pending are applied first. -/
def Core.driveIdle (c : Core) (u : BitVec 16) : Core :=
  let n : Byte := u.setWidth 8
  let c := c.setUnit u { c.unit u with returns := [] }
  if pinFunc (c.pcfg n) = 3 then c.setPin n { level := (c.pcfg n).getLsbD 18, hiz := false } else c

/-- VIO_RESUME: 1 ms after VIOOK returned the pins resume their functions. -/
def execVioResume (k : BitVec 3) (s : State) : Out :=
  onCore (fun c =>
    let x := c.bank k
    if x.viook && x.stopped then (bankUnits k).foldl (fun c u => c.driveIdle u) (c.setBank k { x with stopped := false })
    else c) s

/-! ### Quadrature decoders (R258, R259) -/

def qdBank (k : BitVec 6) : BitVec 3 := (k >>> 3).setWidth 3

/-- The decoder counts: it is enabled and its bank runs. -/
def Core.qdRuns (c : Core) (k : BitVec 6) : Bool := (c.qdCfg k).getLsbD 31 && !(c.bank (qdBank k)).stopped

/-- The step of a quadrature transition (R258, log entry 18): +1 where A leads B. Of two changes it is illegal. -/
def quadStep (a b a' b' : Bool) : Int :=
  if a != a' then (if a' = b' then -1 else 1) else if b != b' then (if a' = b' then 1 else -1) else 0

/-- What an input change adds to the count in a mode: its sign, or `none` when illegal. -/
def qdDelta (mode : BitVec 2) (a b a' b' : Bool) : Option Int :=
  let sign (x : Int) (up : Bool) : Int := if up then x else -x
  match mode.toNat with
  | 0 => if (a != a') && (b != b') then none else some (sign (quadStep a b a' b') Config.leadUp)
  | 1 =>
    if (a != a') && (b != b') then none
    else some (if !a && a' then sign (if b' then -1 else 1) Config.leadUp else 0)
  | 2 => some (if !a && a' then (if b' = Config.stepUp then 1 else -1) else 0)
  | _ => some ((if !a && a' then 1 else 0) - (if !b && b' then 1 else 0))

/-- The pins, or LV pairs, that a decoder's inputs are (R253, R258). -/
def Core.qdPin (c : Core) (k : BitVec 6) (i : Nat) : Nat :=
  if (c.qdCfg k).getLsbD 30 then 256 + 4 * k.toNat + i else 4 * k.toNat + i

/-- The inputs of decoder k are now at these levels, after FILT. -/
def Core.qdEdge (c : Core) (k : BitVec 6) (a b : Bool) : Core :=
  let c := (c.pinLevel (c.qdPin k 0) a).pinLevel (c.qdPin k 1) b
  let x := c.qd k
  let w := c.qdCfg k
  let x' := { x with qa := a, qb := b }
  if !c.qdRuns k then c.setQd k x'
  else match qdDelta ((w >>> 28).setWidth 2) x.qa x.qb a b with
    | none => c.setQd k { x' with err := true, errCnt := x.errCnt + 1 }
    | some d => c.setQd k { x' with count := x.count + BitVec.ofInt 32 (if w.getLsbD 25 then -d else d) }

/-- QD_EDGE. -/
def execQdEdge (k : BitVec 6) (a b : Bool) (s : State) : Out := onCore (fun c => c.qdEdge k a b) s

/-- QD_PRESET: a write loads the count. -/
def Core.qdPreset (c : Core) (m : Master) (k : BitVec 6) (v : Word) : Core :=
  c.writeBy m true fun c => c.setQd k { c.qd k with count := v }

def execQdPreset (m : Master) (k : BitVec 6) (v : Word) (s : State) : Out := onCore (fun c => c.qdPreset m k v) s

/-- QD_INDEX_EDGE: the count and the stamp, to 1 ns, are latched unless an index stands unread (R259). -/
def execQdIndexEdge (k : BitVec 6) (stamp : DWord) (s : State) : Out :=
  onCore (fun c =>
    if !c.qdRuns k || !(c.qdCfg k).getLsbD 27 then c
    else
      let x := c.qd k
      let t := stamp &&& ~~~7#64
      let x' := if x.latched then { x with iovr := true } else { x with latched := true, idx := x.count, idxT := t }
      (c.setQd k x').source (0x0200#16 + k.setWidth 16) true true t) s

/-- QD_IDX_READ: the latch is free again. -/
def Core.readIdx (c : Core) (k : BitVec 6) : Word × Core :=
  let x := c.qd k
  (x.idx, (c.setQd k { x with latched := false }).source (0x0200#16 + k.setWidth 16) false false c.time.dtime)

def execQdIdxRead (m : Master) (k : BitVec 6) (s : State) : Out :=
  onCore (fun c => c.readBy m false fun c => c.readIdx k) s

/-- QD_SAMPLE: the next edge of SLINE stores the count as it stood at the edge's stamp (log entry 19). -/
def execQdSample (k : BitVec 6) (s : State) : Out :=
  onCore (fun c =>
    match c.popEdge (.sample k) with
    | none => c
    | some (_, c) =>
      let x := c.qd k
      c.setQd k { x with smp := x.snaps.head?.getD x.count, snaps := x.snaps.tail }) s

/-! ### SSI and SPI masters (R260, R261) -/

def serialExists (j : BitVec 6) : Bool := decide (j.toNat < 48)
def Core.serialRuns (c : Core) (j : BitVec 6) : Bool :=
  (c.serCfg j).getLsbD 31 && !(c.bank (BitVec.ofNat 3 (serialBank j))).stopped

/-- TGAP in ticks: of an SSI master in µs, of an SPI master in 10 ns (R260). -/
def Core.serGap (c : Core) (j : BitVec 6) : Nat :=
  ((c.serClk j >>> 16).setWidth 8 : Byte).toNat * (if isSpi j then 80 else 8000)

/-- A start that arrives now is ignored: a frame runs, or TGAP has not passed. -/
def Core.serialBusy (c : Core) (j : BitVec 6) : Bool :=
  let x := c.serial j
  x.busy || (match x.lastEnd with
    | none => false
    | some e => decide ((c.time.dtime - e).toNat < c.serGap j))

/-- A frame starts at an instant; `low` says whether the data input was low then. -/
def Core.startFrame (c : Core) (j : BitVec 6) (start : DWord) (low : Bool) : Core :=
  let x := c.serial j
  if c.serialBusy j then c.setSerial j { x with skipped := true }
  else c.setSerial j { x with
    busy := true, start := start, txNow := x.tx, notReady := x.notReady || (low && !isSpi j) }

/-- SERIAL_FRAME_START: the next edge of SLINE starts a frame 320 ticks after its stamp, placed to 1 ns. -/
def execSerialFrameStart (j : BitVec 6) (low : Bool) (s : State) : Out :=
  onCoreIf (serialExists j) (fun c =>
    match c.popEdge (.serial j) with
    | none => c
    | some (t, c) => if c.serialRuns j then c.startFrame j ((t + 320) &&& ~~~7#64) low else c) s

/-- A write of GO: the frame starts within 2 ns (log entry 20). -/
def Core.serialGo (c : Core) (m : Master) (j : BitVec 6) (low : Bool) : Core :=
  c.writeBy m true fun c =>
    if c.serialRuns j then
      { c.startFrame j (c.time.dtime + (Config.freeDelay c.free).setWidth 64) low with free := c.free + 1 }
    else c

/-- SERIAL_GO. -/
def execSerialGo (m : Master) (j : BitVec 6) (low : Bool) (s : State) : Out :=
  onCoreIf (serialExists j) (fun c => c.serialGo m j low) s

/-- Received bits of a frame. -/
def Core.serBits (c : Core) (j : BitVec 6) : Nat :=
  if isSpi j then ((c.serCfg j >>> 23).setWidth 5 : BitVec 5).toNat + 1 else ((c.serCfg j >>> 23).setWidth 6 : BitVec 6).toNat + 1

/-- Gray code to binary: each bit is the exclusive or of the code's bits from it upwards. -/
def grayToBinary (v : DWord) : DWord :=
  [1, 2, 4, 8, 16, 32].foldl (fun (x : DWord) k => x ^^^ (x >>> k)) v

/-- What the master makes of the received bits. -/
def Core.received (c : Core) (j : BitVec 6) (v : DWord) : DWord :=
  let x := v &&& (BitVec.ofNat 64 (2 ^ c.serBits j - 1))
  if !isSpi j && (c.serCfg j).getLsbD 29 then grayToBinary x else x

/-- SERIAL_FRAME_END: DATA or RX, STAMP and SEQ are written together, and the status level rises. -/
def execSerialFrameEnd (j : BitVec 6) (data : DWord) (s : State) : Out :=
  onCoreIf (serialExists j) (fun c =>
    let x := c.serial j
    if x.busy then
      c.setSerial j { x with
        busy := false, data := c.received j data, stamp := x.start, seq := x.seq + 1, level := true
        lastEnd := some c.time.dtime }
    else c) s

def serShadowKey (m : Master) (j : BitVec 6) : Nat := masterKey m * 64 + j.toNat

/-- The registers of serial master j (R260). -/
def serialAddr (j : BitVec 6) : Nat :=
  let n := j.toNat
  if n < 32 then regAt 0x07 (0x20000 * (4 + n / 16) + 0x400 + 0x40 * (n % 16))
  else regAt 0x07 (0x20000 * (6 + (n - 32) / 8) + 0x800 + 0x40 * ((n - 32) % 8))

/-- A read of SSI_DATA_LO or SPI_RX refreshes the master's shadow, the high stamp word with it, and drops the level (R17, R261). -/
def Core.readSerial (c : Core) (m : Master) (j : BitVec 6) : Word × Core :=
  let x := c.serial j
  let sh : SerShadow := ⟨(x.data >>> 32).setWidth 32, x.stamp, x.seq⟩
  let c := (c.setSerial j { x with level := false }).setShadow m (BitVec.ofNat 40 (serialAddr j + 0x10)) ((x.stamp >>> 32).setWidth 32)
  (x.data.setWidth 32, { c with serShadows := Tbl.set c.serShadows (serShadowKey m j) (some sh) none })

/-- SERIAL_DATA_READ. -/
def execSerialDataRead (m : Master) (j : BitVec 6) (s : State) : Out :=
  onCoreIf (serialExists j) (fun c => c.readBy m false fun c => c.readSerial m j) s

end Sys2Proof.Machine
end

