-- ==== Sys2Proof/Machine/HqpFam.lean ====
section
/-!
DEFINITION. Sys2Proof/Machine/HqpFam.lean: host queue pairs (R211 to R215).
-/
namespace Sys2Proof.Machine

/-- The admin pair's SIZE stands in PCIE_ADMQ_CFG's copy, like any pair's in HQP_CFG. An ignored index write names the pair (R214). -/
def Core.ignoredIndex (c : Core) (h : BitVec 8) (off : Nat) : Core :=
  let a : Addr := BitVec.ofNat 40 (0x6000BC0000 + 0x40 * h.toNat + off)
  c.log { cls := 0, source := 0x0B, code := 0x0007, unit := h.setWidth 32, detail := 214, addr := a }

/-- A write of ITAIL is checked (R214). -/
def Core.writeItail (c : Core) (m : Master) (h : BitVec 8) (v : Word) : Core :=
  c.writeSeen m fun c =>
    if !c.ownsPair m h then c
    else
      let size := pairSize (c.pairCfg h)
      let x := c.hqp h
      let t : BitVec 17 := BitVec.ofNat 17 ((v.setWidth 17 : BitVec 17).toNat % 2 ^ (size + 1))
      let d := ringDiff size t x.ihead
      if 2 ^ size < d ∨ d < ringDiff size x.itail x.ihead then c.ignoredIndex h 0x10
      else c.setHqp h { x with itail := t }

/-- HQP_ITAIL_WRITE. -/
def execHqpItailWrite (m : Master) (h : BitVec 8) (v : Word) (s : State) : Out := onCore (fun c => c.writeItail m h v) s

/-- A write of OHEAD is checked, and the cards it passes return their credits (R213, R214). -/
def Core.writeOhead (c : Core) (m : Master) (h : BitVec 8) (v : Word) : Core :=
  c.writeSeen m fun c =>
    if !c.ownsPair m h then c
    else
      let size := pairSize (c.pairCfg h)
      let x := c.hqp h
      let t : BitVec 17 := BitVec.ofNat 17 ((v.setWidth 17 : BitVec 17).toNat % 2 ^ (size + 1))
      let d := ringDiff size t x.ohead
      if ringDiff size x.otail x.ohead < d then c.ignoredIndex h 0x1C
      else
        let c := c.setHqp h { x with ohead := t, routes := x.routes.drop d }
        (x.routes.take d).foldl (fun c e => c.launch (pairPlace h) (.credit e.1 e.2 false)) c

/-- HQP_OHEAD_WRITE. -/
def execHqpOheadWrite (m : Master) (h : BitVec 8) (v : Word) (s : State) : Out := onCore (fun c => c.writeOhead m h v) s

/-- Whether the pair fetches: active, not a command pair, not in QUIESCE, its function not frozen, its posy not held (R207, R212,
R381). -/
def Core.pairFetches (c : Core) (h : BitVec 8) : Bool :=
  let w := c.pairCfg h
  pairEn w && !c.isCmdPair h && !c.quiet (.hostPair h) && !c.frozenMaster (.host (pairFunc w))
    && decide ((c.hqp h).itail ≠ (c.hqp h).ihead) && decide (1 ≤ (c.hchan h).credit) && !c.handleHeld (c.hqpReg h 0x0C)

/-- HQP_INBOUND_FETCH: the card read at IHEAD is delivered to DEST as a SEND would. A card of type 0, which no SEND could send, is dropped
(log entry 10). -/
def execHqpInboundFetch (h : BitVec 8) (w : CardWords) (poison : BitVec 8) (s : State) : Out :=
  onCore (fun c =>
    if !c.pairFetches h then c
    else
      let size := pairSize (c.pairCfg h)
      let x := c.hqp h
      let c := c.setHqp h { x with ihead := ringNext size x.ihead }
      if (w.w0 >>> 24) = 0 then c
      else
        let ch := c.hchan h
        let card : Card :=
          { w := { w with w0 := headerOf w.w0 poison ch.epoch }, poison := poison, route := .hostPair h, serial := ch.serial, seq := ch.nextSeq }
        (c.setHchan h (ch.sent w.w0)).launch (prodKey (.hostPair h)) (c.route (c.hqpReg h 0x0C) card)) s

/-- The card as it stands in host memory: poisoned words read 0, a poisoned header is replaced (R213). -/
def outboundCard (epoch : Byte) (card : Card) : CardWords :=
  let word (k : BitVec 3) : Word := if card.poison.getLsbD k.toNat then 0 else cardWord card.w k
  { w0 := if card.poison.getLsbD 0 then sysHeader 0x05 0x90 epoch
      else if card.poison = 0 then card.w.w0 else card.w.w0 ||| flagPoison
    w1 := word 1, w2 := word 2, w3 := word 3, w4 := word 4, w5 := word 5, w6 := word 6, w7 := word 7 }

/-- A card is written at OTAIL, then the tail shadow (R213). -/
def Core.writeOutbound (c : Core) (h : BitVec 8) (w : CardWords) (route : Option (Producer × Nat)) : Core :=
  let size := pairSize (c.pairCfg h)
  let x := c.hqp h
  let ring := if c.isCmdPair h then 64 * 2 ^ size else 32 * 2 ^ size
  let t := ringNext size x.otail
  let c := c.hostWrite (c.pairBase h + ring + 32 * (x.otail.toNat % 2 ^ size)) (cardBytes w)
  (c.hostWrite (c.pairBase h + ring + 32 * 2 ^ size) (bytesOf (t.setWidth 64 : DWord) 8)).setHqp h
    { x with otail := t, routes := x.routes ++ route.toList }

/-- HQP_OUTBOUND_WRITE: the k-th item in transit is a card for a pair's outbound ring. -/
def execHqpOutboundWrite (k : Nat) (s : State) : Out :=
  onCore (fun c =>
    match c.arrives k with
    | some ⟨_, _, .toPair h card⟩ =>
      let w := c.pairCfg h
      let size := pairSize w
      if !pairEn w || c.quiet (.hostPair h) then (c.land k).refuse (pairPlace h) card outPortDown
      else if card.serial ≠ (c.prod card.route).serial then (c.land k).refuse (pairPlace h) card outStale
      else if 2 ^ size ≤ ringDiff size (c.hqp h).otail (c.hqp h).ohead then c
      else
        ((c.land k).writeOutbound h (outboundCard (c.prod card.route).epoch card) (some (card.route, card.serial))).accepted
          (pairPlace h) card
    | _ => c) s

end Sys2Proof.Machine
end

