-- ==== Sys2Proof/Machine/CmdOps.lean ====
section
/-!
DEFINITION. Sys2Proof/Machine/CmdOps.lean: commands to the Steward: packets, submitters, buffers, the checks that precede execution, and
replies (spec/13_commands_and_hands.md, R341 to R351).
-/
namespace Sys2Proof.Machine

/-! ### Packets (R346) -/

def Cmd.word (x : Cmd) (k : Nat) : Word := (x.words[k]?).getD 0
def Cmd.opcode (x : Cmd) : BitVec 16 := (x.word 0).setWidth 16
def Cmd.flags (x : Cmd) : BitVec 16 := (x.word 0 >>> 16).setWidth 16
def Cmd.tag (x : Cmd) : BitVec 16 := (x.word 1).setWidth 16
def Cmd.plen (x : Cmd) : Nat := (x.word 1).toNat / 65536
def Cmd.indirect (x : Cmd) : Bool := (x.word 0).getLsbD 16
/-- The parameter bytes used. -/
def Cmd.params (x : Cmd) : List Byte := ((x.words.drop 2).flatMap fun w => bytesOf w 4).take (min x.plen 56)
/-- The command's own parameters, behind the buffer fields when INDIRECT is set. -/
def Cmd.own (x : Cmd) : List Byte := if x.indirect then x.params.drop 24 else x.params
def Cmd.inAddr (x : Cmd) : Nat := (x.word 3 ++ x.word 2).toNat
def Cmd.inLen (x : Cmd) : Nat := if x.indirect then (x.word 4).toNat else 0
def Cmd.outAddr (x : Cmd) : Nat := (x.word 6 ++ x.word 5).toNat
def Cmd.outLen (x : Cmd) : Nat := if x.indirect then (x.word 7).toNat else 0

/-- Word k of a parameter list. -/
def pword (bs : List Byte) (k : Nat) : Word := wordOf ((bs.drop (4 * k)).take 4)

/-! ### Status codes (R350) -/

def stOk : BitVec 16 := 0x0000
def stPending : BitVec 16 := 0x0001
def stBadOpcode : BitVec 16 := 0x0100
def stBadParam : BitVec 16 := 0x0101
def stBadLength : BitVec 16 := 0x0102
def stBadAddr : BitVec 16 := 0x0103
def stConflict : BitVec 16 := 0x0200
def stHandClosed : BitVec 16 := 0x0201
def stNoPrior : BitVec 16 := 0x0202
def stDenied : BitVec 16 := 0x0300
def stSealed : BitVec 16 := 0x0301
def stFrozen : BitVec 16 := 0x0302
def stBusy : BitVec 16 := 0x0400
def stNoHands : BitVec 16 := 0x0401
def stHandFull : BitVec 16 := 0x0402
def stStoreFull : BitVec 16 := 0x0403
def stPeerLost : BitVec 16 := 0x0500
def stAbandoned : BitVec 16 := 0x0501
def stPoison : BitVec 16 := 0x0502
def stSplit : BitVec 16 := 0x0503

/-- A reply: STATUS, and detail words 1 to 7; those not given are 0 (R347). -/
structure Reply where
  status : BitVec 16
  d : List Word := []
deriving DecidableEq, Repr

def Reply.word (r : Reply) (k : Nat) : Word := (r.d[k - 1]?).getD 0
def ok (d : List Word) : Reply := ⟨stOk, d⟩
/-- Words 0 to 7 of the reply: TAG and STATUS, then the details. -/
def Reply.card (r : Reply) (tag : BitVec 16) : CardWords :=
  { w0 := (r.status.setWidth 32 <<< 16) ||| tag.setWidth 32, w1 := r.word 1, w2 := r.word 2, w3 := r.word 3, w4 := r.word 4,
    w5 := r.word 5, w6 := r.word 6, w7 := r.word 7 }
/-- The card of TYPE 0xC3: words 1 to 7 carry reply bytes 0 to 27 (R344). The spec gives its header's TAG no value. -/
def Reply.sprigCard (r : Reply) (tag : BitVec 16) : CardWords :=
  { w0 := sysHeader 0xC3 0 0 ||| Config.replyTag.setWidth 32, w1 := (r.status.setWidth 32 <<< 16) ||| tag.setWidth 32,
    w2 := r.word 1, w3 := r.word 2, w4 := r.word 3, w5 := r.word 4, w6 := r.word 5, w7 := r.word 6 }

/-! ### Queues of commands -/

def srcKey : CmdSrc → Nat
  | .pair h => h.toNat
  | .sprig g n => 256 + chanKey g n
def Core.cmdsOf (c : Core) (q : CmdSrc) : List Cmd := Tbl.get c.cmds (srcKey q) []
def Core.setCmds (c : Core) (q : CmdSrc) (l : List Cmd) : Core := { c with cmds := Tbl.set c.cmds (srcKey q) l [] }

/-- The function of a command pair; the admin pair belongs to the PF (R341). -/
def Core.cmdFunc (c : Core) (h : BitVec 7) : FuncId := pairFunc (c.pairCfg (h.setWidth 8))

/-- Who may issue a command (R349). -/
inductive Who where
  | pf
  | supervisors
  | supervisorsSprigs
  | functions
  | functionsSprigs
deriving DecidableEq, Repr

def Core.mayIssue (c : Core) (q : CmdSrc) (w : Who) : Bool :=
  match q, w with
  | .pair h, .pf => decide (h = 0)
  | .pair h, .supervisors => c.supervisor (.host (c.cmdFunc h))
  | .pair h, .supervisorsSprigs => c.supervisor (.host (c.cmdFunc h))
  | .pair _, .functions => true
  | .pair _, .functionsSprigs => true
  | .sprig _ _, .supervisorsSprigs => true
  | .sprig _ _, .functionsSprigs => true
  | .sprig _ _, _ => false

/-- The queue of a reply handle, when replies may go there: a sprig queue of this device with RRES (R345). -/
def Core.replyQueue (c : Core) (handle : Word) : Option QueueId :=
  if handleValid handle && !handlePosy handle && decide (handleDev handle = c.dev)
      && qcfgEn (c.qcfg (handleQueue handle)) && (c.qcfg (handleQueue handle)).getLsbD 30 then some (handleQueue handle)
  else none

/-- A card waits in the Steward for the reply channel of a queue, behind those of commands accepted no later than its own (R345). -/
def Core.postCard (c : Core) (i : QueueId) (order : Nat) (w : CardWords) : Core :=
  let l := Tbl.get c.replies i.toNat []
  let l := l.takeWhile (fun e => decide (e.1 ≤ order)) ++ (order, w) :: l.dropWhile fun e => decide (e.1 ≤ order)
  { c with replies := Tbl.set c.replies i.toNat l [] }

/-- A reply leaves for the submitter. -/
def Core.sendReply (c : Core) (q : CmdSrc) (x : Cmd) (r : Reply) : Core :=
  match q with
  | .pair h => c.writeOutbound (h.setWidth 8) (r.card x.tag) none
  | .sprig _ _ =>
    match c.replyQueue x.handle with
    | some i => c.postCard i x.order (r.sprigCard x.tag)
    | none => c

/-- Opcodes that exist (R349); the Sorrel family takes any REQ. -/
def knownOpcode (o : BitVec 16) : Bool :=
  let n := o.toNat
  match n / 256 with
  | 1 => decide (n % 256 ≤ 1)
  | 2 => decide (n % 256 ≤ 8)
  | 3 => decide (n % 256 ≤ 3)
  | 4 => decide (n % 256 ≤ 4)
  | 5 => decide (n % 256 ≤ 3)
  | 6 => decide (n % 256 ≤ 2)
  | 7 => decide (n % 256 ≤ 2)
  | 8 => true
  | 9 => decide (n % 256 ≤ 3)
  | 10 => decide (n % 256 ≤ 2)
  | 11 => decide (n % 256 ≤ 3)
  | _ => false

/-- Commands at the head that no row carries out: a poisoned one, and an unknown opcode (R347, R348). -/
def Cmd.instantReply (x : Cmd) : Option Reply :=
  if x.poisoned then some ⟨stPoison, []⟩ else if knownOpcode x.opcode then none else some ⟨stBadOpcode, []⟩

/-- Such commands are answered as they reach the head. -/
def Core.settle (c : Core) (q : CmdSrc) : Nat → Core
  | 0 => c
  | n + 1 =>
    match c.cmdsOf q with
    | [] => c
    | x :: rest =>
      match x.instantReply with
      | none => c
      | some r => ((c.setCmds q rest).sendReply q x r).settle q n

/-- The command at the head is answered and the next reaches the head (R343). -/
def Core.answerCmd (c : Core) (q : CmdSrc) (r : Reply) : Core :=
  match c.cmdsOf q with
  | [] => c
  | x :: rest => ((c.setCmds q rest).sendReply q x r).settle q rest.length

/-- A new command is accepted at the end of its queue. -/
def Core.takeCmd (c : Core) (q : CmdSrc) (x : Cmd) : Core :=
  let l := c.cmdsOf q ++ [{ x with order := c.nextCmd }]
  ({ c with nextCmd := c.nextCmd + 1 }.setCmds q l).settle q l.length

/-- A command accepted before one of this number is unanswered, and its reply goes to the same queue (R345). -/
def Core.replyOwed (c : Core) (i : QueueId) (order : Nat) : Bool :=
  c.cmds.any fun e => decide (256 ≤ e.1) && e.2.any fun x => decide (x.order < order) && decide (c.replyQueue x.handle = some i)

/-- The command at the head has begun; its reply is owed. -/
def Core.beginCmd (c : Core) (q : CmdSrc) : Core :=
  match c.cmdsOf q with
  | [] => c
  | x :: rest => c.setCmds q ({ x with begun := true } :: rest)

/-! ### Buffers (R346, R347) -/

/-- 1 MiB. -/
def bufferMax : Nat := 0x100000

/-- Whether a sprig's far grants cover a range, page by page, and the writer rules allow it (R346, R58). -/
def Core.grantsRange (c : Core) (g : SprigId) (a n : Nat) (write : Bool) : Bool :=
  decide (a + n ≤ 2 ^ 40) && (List.range ((a + n - 1) / 4096 + 1 - a / 4096)).all fun k =>
    let p : Addr := BitVec.ofNat 40 (max a ((a / 4096 + k) * 4096))
    c.farGrants g p write && !inRegs p && mapped p && !(write && c.writerDenied g p 0)

/-- A sprig's buffer as the Steward reads it, by the sprig's rights: a debug view, a control store, or memory (R38, R127). -/
def Core.bufferRead (c : Core) (g : SprigId) (a n : Nat) : List Byte × Bool × Core :=
  if isLocals a then c.viewRead a n
  else if isStore a || isAlias a then (c.storeRead (.sprig g) a n, false, c)
  else
    let (bs, ms, c) := c.unitFetch (sprigUnit g) a n
    (bs, ms.any id, c)

/-- Bytes written to a sprig's buffer. -/
def Core.bufferWrite (c : Core) (g : SprigId) (a : Nat) (bs : List Byte) : Core :=
  if isLocals a then c.viewWrite (.sprig g) a bs
  else if isStore a || isAlias a then c.storeWrite (.sprig g) a bs
  else c.unitStore (sprigUnit g) a bs []

/-- A sprig's command waits for the memory that holds its buffers (R310, R311, R410). -/
def Core.buffersWait (c : Core) (q : CmdSrc) (x : Cmd) : Bool :=
  match q with
  | .pair _ => false
  | .sprig .. => c.waits x.inAddr x.inLen || c.waits x.outAddr x.outLen

/-- The input buffer, of a pair under its function's Bus Master Enable (R346): `none` when it cannot be read completely; its bytes, and whether they are poisoned. -/
def Core.readIn (c : Core) (q : CmdSrc) (x : Cmd) : Option (List Byte × Bool) × Core :=
  if x.inLen = 0 then (some ([], false), c)
  else match q with
    | .pair h =>
      (match x.inBuf with
        | some bs => if bs.length = x.inLen && c.busMaster (c.cmdFunc h) then some (bs, false) else none
        | none => none, c)
    | .sprig g _ =>
      if c.grantsRange g x.inAddr x.inLen false && !c.lost x.inAddr x.inLen then
        let (bs, p, c) := c.bufferRead g x.inAddr x.inLen
        (some (bs, p), c)
      else (none, c)

/-- Results written at OUT_ADDR, cut at OUT_LEN; detail 7 counts them. `none`: the buffer is unwritable. -/
def Core.writeOut (c : Core) (q : CmdSrc) (x : Cmd) (bs : List Byte) : Option (Nat × Core) :=
  let b := bs.take x.outLen
  if b = [] then some (0, c)
  else match q with
    | .pair h => if c.busMaster (c.cmdFunc h) then some (b.length, c.hostWrite x.outAddr b) else none
    | .sprig g _ =>
      if c.grantsRange g x.outAddr b.length true && !c.lost x.outAddr b.length then some (b.length, c.bufferWrite g x.outAddr b)
      else none

/-- A reply with details 1 to 6 and results at OUT_ADDR. -/
def Core.bulkReply (c : Core) (q : CmdSrc) (x : Cmd) (d : List Word) (bs : List Byte) : Core × Option Reply :=
  match c.writeOut q x bs with
  | none => (c, some ⟨stBadAddr, []⟩)
  | some (n, c) => (c, some (ok ((d ++ List.replicate (6 - d.length) 0).take 6 ++ [BitVec.ofNat 32 n])))

/-! ### Checks before execution (R347, R348) -/

/-- What the table gives a command: its opcode, who may issue it, its minimum of own parameter bytes, whether it needs INDIRECT, the
length its input must have. -/
structure CmdSpec where
  opc : BitVec 16
  who : Who
  minLen : Nat := 0
  needs : Bool := false
  inLen : Option Nat := none
deriving DecidableEq, Repr

/-- The most parameter bytes a packet holds: 56, and 40 in a sprig's two cards (R344, R346). -/
def plenMax : CmdSrc → Nat
  | .pair _ => 56
  | .sprig _ _ => 40

/-- The first check that fails. The order is the model's (log entry 22). -/
def Core.cmdCheck (c : Core) (q : CmdSrc) (x : Cmd) (sp : CmdSpec) : Option Reply :=
  if !c.mayIssue q sp.who then some ⟨stDenied, []⟩
  else if x.flags &&& 0xFFFE ≠ 0 then some ⟨stBadParam, []⟩
  else if sp.needs && !x.indirect then some ⟨stBadParam, [0]⟩
  else if x.plen < sp.minLen + (if x.indirect then 24 else 0) ∨ plenMax q < x.plen then some ⟨stBadLength, []⟩
  else if bufferMax < x.inLen ∨ bufferMax < x.outLen then some ⟨stBadParam, []⟩
  else match sp.inLen with
    | some n => if x.inLen = n then none else some ⟨stBadLength, []⟩
    | none => none

/-- What a command acts on: the packet, its own parameters, and the bytes of its input buffer. -/
structure Args where
  x : Cmd
  own : List Byte
  inb : List Byte
deriving DecidableEq, Repr

def Args.w (a : Args) (k : Nat) : Word := pword a.own k

/-- A command row: it acts when its command stands at the head of queue q and has not begun, once the memory of its buffers is there. A body that answers no reply has begun. -/
def command (q : CmdSrc) (sp : CmdSpec) (body : State → Args → State × Option Reply) (s : State) : Out :=
  match s.core.cmdsOf q with
  | [] => .next s
  | x :: _ =>
    if x.opcode ≠ sp.opc ∨ x.begun then .next s
    else match s.core.cmdCheck q x sp with
      | some r => .next { s with core := s.core.answerCmd q r }
      | none =>
        if s.core.buffersWait q x then .next s
        else match s.core.readIn q x with
        | (none, c) => .next { s with core := c.answerCmd q ⟨stBadAddr, []⟩ }
        | (some (bs, p), c) =>
          if p then .next { s with core := c.answerCmd q ⟨stPoison, []⟩ }
          else match body { s with core := c } ⟨x, x.own, bs⟩ with
            | (t, some r) => .next { t with core := t.core.answerCmd q r }
            | (t, none) => .next { t with core := t.core.beginCmd q }

/-- A body that touches the core alone. -/
def coreBody (f : Core → Args → Core × Option Reply) (s : State) (a : Args) : State × Option Reply :=
  let (c, r) := f s.core a
  ({ s with core := c }, r)

/-- A body that only answers. -/
def readBody (f : State → Args → Reply) (s : State) (a : Args) : State × Option Reply := (s, some (f s a))

/-! ### Fetching (R341 to R344) -/

/-- Replies written and not yet consumed (R342). -/
def Core.unconsumed (c : Core) (h : BitVec 8) : Nat :=
  ringDiff (pairSize (c.pairCfg h)) (c.hqp h).otail (c.hqp h).ohead

/-- Whether the Steward fetches a command of pair h. -/
def Core.cmdFetches (c : Core) (h : BitVec 7) : Bool :=
  let w := c.pairCfg (h.setWidth 8)
  let k : BitVec 8 := h.setWidth 8
  decide (h.toNat ≤ 64) && c.isCmdPair k && c.boot.steward && pairEn w && !c.quiet (.hostPair k)
    && !c.frozenMaster (.host (pairFunc w)) && decide ((c.hqp k).itail ≠ (c.hqp k).ihead)
    && decide ((c.cmdsOf (.pair h)).length + c.unconsumed k < 2 ^ pairSize w)

/-- COMMAND_FETCH: the packet read at IHEAD is taken, with what stands at its IN_ADDR (R342). -/
def execCommandFetch (h : BitVec 7) (pkt : List Word) (poisoned : Bool) (inBuf : Option (List Byte)) (s : State) : Out :=
  onCoreIf (pkt.length = 16) (fun c =>
    if !c.cmdFetches h then c
    else
      let k : BitVec 8 := h.setWidth 8
      let x := c.hqp k
      (c.setHqp k { x with ihead := ringNext (pairSize (c.pairCfg k)) x.ihead }).takeCmd (.pair h)
        { words := pkt, poisoned := poisoned, inBuf := inBuf }) s

/-- A CMD_DISCARDED entry (R376). -/
def Core.discardCmd (c : Core) (who : Producer) (cause : BitVec 16) (handle : Word) : Core :=
  let (source, unit) : Byte × Word := match who with
    | .chan _ g _ => (0x30, g.setWidth 32)
    | .hostPair h => (0x0B, h.setWidth 32)
    | _ => (0x0B, 0)
  c.log { cls := 0, source := source, code := 0x001D, unit := unit, detail := cause,
          addr := if cause = 3 then handle.setWidth 40 else 0 }

def halfKey (g : SprigId) (n : BitVec 4) : Nat := chanKey g n
def Core.half (c : Core) (g : SprigId) (n : BitVec 4) : Option HalfCmd := Tbl.get c.halves (halfKey g n) none
def Core.setHalf (c : Core) (g : SprigId) (n : BitVec 4) (x : Option HalfCmd) : Core :=
  { c with halves := Tbl.set c.halves (halfKey g n) x none }

/-- A card with SYS set at a Steward queue (R344): an EPOCH marker discards the cards A that waited there; a close card discards the one
of its stream. -/
def Core.stewardSys (c : Core) (i : QueueId) (w : CardWords) : Core :=
  if (w.w0 >>> 24) = 0x01 then
    { c with halves := c.halves.filter fun e => match e.2 with | some x => decide (x.queue ≠ i) | none => false }
  else if (w.w0 >>> 24) = 0x02 ∧ (w.w1 >>> 23).setWidth 9 = c.dev ∧ !w.w1.getLsbD 22 then
    c.setHalf ((w.w1 >>> 11).setWidth 11) ((w.w1 >>> 7).setWidth 4) none
  else c

/-- A card A or B of a sprig's command (R344). -/
def Core.stewardCard (c : Core) (i : QueueId) (who : Producer) (f : RecvFill) : Core :=
  let w := f.card
  let type : Byte := (w.w0 >>> 24).setWidth 8
  if w.w0 &&& flagSys ≠ 0 then c.stewardSys i w
  else if type ≠ 0xC1 ∧ type ≠ 0xC2 then c.discardCmd who 2 0
  else match who with
    | .chan d g n =>
      if d ≠ c.dev then c.discardCmd who 1 0
      else match c.half g n with
        | none => if type = 0xC1 then c.setHalf g n (some ⟨i, w, decide (f.poison ≠ 0)⟩) else c.discardCmd who 2 0
        | some a =>
          if type ≠ 0xC2 ∨ w.w0 &&& flagLast = 0 ∨ w.w1 ≠ a.w.w1 then c.discardCmd who 2 0
          else
            let c := c.setHalf g n none
            match c.replyQueue w.w1 with
            | none => c.discardCmd who 3 w.w1
            | some _ =>
              c.takeCmd (.sprig g n)
                { words := [a.w.w2, a.w.w3, a.w.w4, a.w.w5, a.w.w6, a.w.w7, w.w2, w.w3, w.w4, w.w5, w.w6, w.w7, 0, 0, 0, 0],
                  poisoned := a.poisoned || decide (f.poison ≠ 0), handle := w.w1 }
    | _ => c.discardCmd who 1 0

/-- Who made the card at the head of a queue. -/
def Core.headProducer (c : Core) (i : QueueId) : Producer :=
  match (c.queue i).mark, (c.queue i).chain with
  | false, card :: _ => card.route
  | _, _ => .errorEngine

/-- SPRIG_COMMAND_CARD: a Steward sprig pops a card from a queue of posy 0. The Steward error queue is none of them. -/
def execSprigCommandCard (i : QueueId) (s : State) : Out :=
  onCore (fun c =>
    if 32 ≤ i.toNat ∨ i = 7#14 ∨ !c.boot.steward then c
    else match c.pop i with
      | none => c
      | some (f, c') => c'.stewardCard i (c.headProducer i) f) s

/-- REPLY_SEND: the next reply or notice for queue i leaves when the reply channel holds its credit and no command accepted before owes
its own (R345; log entry 22). -/
def execReplySend (i : QueueId) (s : State) : Out :=
  onCore (fun c =>
    let p : Producer := .steward i
    match Tbl.get c.replies i.toNat [] with
    | [] => c
    | (order, w) :: rest =>
      let x := c.prod p
      if x.credit < 1 ∨ c.replyOwed i order then c
      else
        let card : Card := { w := { w with w0 := headerOf w.w0 0 x.epoch }, route := p, serial := x.serial, seq := x.nextSeq }
        (({ c with replies := Tbl.set c.replies i.toNat rest [] }.setProd p x.spend)).launch (prodKey p) (.toQueue i card false)) s

/-! ### The admin pair (R341) -/

def admqAddr (k : Nat) : Nat := regAt 0x14 (0x200 + 4 * k)

/-- PCIE_ADMQ_CFG_WRITE: EN rising hands the three registers to pair 0; EN falling puts pair 0 into QUIESCE. Only the PF writes it. -/
def Core.writeAdmq (c : Core) (m : Master) (v : Word) : Core :=
  c.writeBy m (decide (m = .host 0)) fun c =>
    let old := c.reg (admqAddr 2) 0
    let v := v &&& 0x81E00000#32
    let c := c.setReg (admqAddr 2) v 0
    if v.getLsbD 31 && !old.getLsbD 31 then
      let c := ((c.setCmdReg 0 0 (c.reg (admqAddr 0) 0)).setCmdReg 0 4 (c.reg (admqAddr 1) 0)).setCmdReg 0 8 v
      c.setHqp 0 Hqp.reset
    else if !v.getLsbD 31 && old.getLsbD 31 then
      (c.setCmdReg 0 8 (c.pairCfg 0 &&& 0x7FFFFFFF#32)).enterQuiesce (.hostPair 0)
    else c

def execPcieAdmqCfgWrite (m : Master) (v : Word) (s : State) : Out := onCore (fun c => c.writeAdmq m v) s

end Sys2Proof.Machine
end

