-- ==== Sys2Proof/Machine/GddrFam.lean ====
section
/-!
DEFINITION. Sys2Proof/Machine/GddrFam.lean: the GDDR6 channel controllers (spec/11_module_memory.md, R303 to R311).
-/
namespace Sys2Proof.Machine

/-- An error that the access finds in the first ECC word it touches. -/
def Core.injectMem (c : Core) (a : Nat) (err : EccErr) : Core :=
  match err with
  | .ok => c
  | .single => if c.memMark a = .ok then c.setMemMark a .single else c
  | .double => if c.memMark a = .poisoned then c else c.setMemMark a .double

/-- Requester kinds of ABANDONED entries (R376). -/
def masterKind : Master → BitVec 16
  | .sprig _ => 0
  | .host _ => 1
  | .peer _ => 2
  | .monitor => 1
  | .bootRom => 0

/-- An ABANDONED entry (R386). -/
def Core.logAbandoned (c : Core) (m : Master) (a : Nat) : Core :=
  c.log { cls := 1, source := masterSource m, code := 0x000E, unit := masterNum m, detail := masterKind m,
          addr := BitVec.ofNat 40 a }

/-- The staging area of a boot loader, and whether a write of it is ignored: once the boot ROM has taken the go record, until the Steward runs
(R459). -/
def stagingBase : Nat := 0x01000000
def stagingEnd : Nat := 0x02000000
def Core.loaderLate (c : Core) (m : Master) (a : Nat) : Bool :=
  (match m with | .host _ => true | .peer _ => true | _ => false)
    && (decide (c.boot.phase = .verify) || decide (c.boot.phase = .load)) && decide (c.boot.slot = 2)
    && decide (stagingBase ≤ a) && decide (a < stagingEnd)

/-- A GDDR6 access that has reached its channel controllers (R301, R303, R304): a read is answered, a write applied; where a channel is in
QUIESCE or FAILED it is answered as R386 lays down; while one initialises or refreshes itself it stalls. -/
def Core.memAccess (c : Core) (r : MemReq) (err : EccErr) : Core :=
  let a := r.addr.toNat
  if c.frozenMaster r.who then
    (match r.who, r.data with
    | .host _, none => c.answer r.who 0 false true
    | _, _ => c)
  else match c.rangeAvail a (max 1 (match r.data with | some bs => bs.length | none => r.len.toNat)) with
  | .stalls => c
  | .gone =>
    (match r.data with
    | some _ => c.logAbandoned r.who a
    | none => match r.who with
      | .host _ => c.answer r.who 0 false true
      | .sprig _ => (c.logAbandoned r.who a).answer r.who 0 true false
      | _ => c.answer r.who 0 true false)
  | .ok =>
    let c := c.injectMem a err
    match r.data with
    | some bs => if c.loaderLate r.who a then c else c.writeMem a bs r.poisoned
    | none =>
      let (bs, ms, c') := c.readMemMarks a r.len.toNat
      c'.answerBytes r.who bs ms

/-- GDDR_ACCESS: a host's through its BAR4 window (R43). An access of no bytes, or one that leaves the GDDR6 region, is none. -/
def execGddrAccess (r : MemReq) (err : EccErr) (s : State) : Out :=
  let n := match r.data with | some bs => bs.length | none => r.len.toNat
  onCoreIf (decide (0 < n) && decide (r.addr.toNat + n ≤ 0x2000000000)) (fun c => if c.bar4Reaches r.who r.addr.toNat n then c.memAccess r err else c) s

/-- CORRECTED_REWRITE: the corrected word is written back, unless a write reached it first (R303). -/
def execCorrectedRewrite (a : Addr) (s : State) : Out :=
  onCoreIf (isMem a.toNat) (fun c =>
    if c.memMark a.toNat = .single ∧ c.memAvail a.toNat = .ok then c.setMemMark a.toNat .ok else c) s

/-- Settings of controller k. -/
def Core.gdcReg (c : Core) (k off : Nat) (d : Word) : Word := Tbl.get c.cfg (sid 0x0A (0x4000 * k + off)) d
def Core.gdcScrub (c : Core) (k : Nat) : Word := c.gdcReg k 0x10 0x80000018#32
def Core.gdcTherm (c : Core) (k : Nat) : Word := c.gdcReg k 0x18 0x645F5A55#32

/-- Where the error mark of a check granule's ECC word is kept. -/
def checkKey (ch off : Nat) : Nat := 0x8000000000000000 + ch * 0x100000000 + off

/-- The scrubber reads an ECC word of a check granule; one with a single error is corrected in the same slot, an instant that the model
collapses (R303, R308; log entry 78). -/
def Core.scrubCheck (c : Core) (ch off : Nat) (err : EccErr) : Core :=
  let k := checkKey ch off
  let m := match err, c.mark k with
    | _, .poisoned => EccMark.poisoned
    | .ok, x => x
    | .single, .ok => .single
    | .single, x => x
    | .double, _ => .double
  match m with
  | .ok => c
  | .poisoned => c
  | .single => (c.setMark k .ok).memError ch 0 0 false
  | .double => (c.setMark k .poisoned).memError ch 0 ((0x8000000000000000#64) ||| BitVec.ofNat 64 off) true

/-- SCRUB: the patrol scrubber reads the next ECC word of its channel; its slots are idle at THR2 and CRIT (R308, R309). -/
def execScrub (k : Nat) (err : EccErr) (s : State) : Out :=
  onCoreIf (decide (k < 36)) (fun c =>
    let x := c.gdc k
    if !(c.gdcScrub k).getLsbD 31 || decide (c.chanAvail k ≠ .ok) || decide (3 ≤ x.level.toNat) then c
    else
      let off := 32 * x.scrubPos.toNat
      let c := c.setGdc k { x with scrubPos := x.scrubPos + 1 }
      match memAddr k off with
      | some a => ((c.injectMem a err).readMemWord a).2
      | none => c.scrubCheck k off err) s

/-- Threshold of a level, in °C (R309). -/
def memThreshold (w : Word) (level : Nat) : Int :=
  match level with
  | 0 => -1000
  | 1 => (w.setWidth 8 : Byte).toInt
  | 2 => ((w >>> 8).setWidth 8 : Byte).toInt
  | 3 => ((w >>> 16).setWidth 8 : Byte).toInt
  | _ => ((w >>> 24).setWidth 8 : Byte).toInt

/-- The level after a reading: the highest whose threshold it reaches, or the one left only 3 °C below its threshold (R309). -/
def memLevel (w : Word) (cur : Nat) (t : Int) : Nat :=
  let up := ([4, 3, 2, 1].find? fun l => decide (memThreshold w l ≤ t)).getD 0
  let hold := ([4, 3, 2, 1].find? fun l => decide (l ≤ cur) && decide (memThreshold w l - 3 < t)).getD 0
  max up hold

/-- MEM_THERMAL: the controller reads its devices' temperatures; `temp` is the higher one. -/
def execMemThermal (k : Nat) (temp : Byte) (s : State) : Out :=
  onCoreIf (decide (k < 36)) (fun c =>
    let x := c.gdc k
    let l := memLevel (c.gdcTherm k) x.level.toNat temp.toInt
    let c := c.setGdc k { x with temp := temp, level := BitVec.ofNat 3 l }
    if l = x.level.toNat then c
    else c.log { cls := if l = 4 then 1 else 0, source := 0x0A, code := 0x0011, unit := BitVec.ofNat 32 k,
                 detail := BitVec.ofNat 16 l, addr := 0 }) s

/-- Every ECC word of channel k is written 0 with valid check bytes (R310). -/
def Core.zeroChannel (c : Core) (k : Nat) : Core :=
  { c with
    mem := c.mem.filter fun e => !(isMem e.1 && decide ((memPlace e.1).dat = k))
    ecc := c.ecc.filter fun e =>
      !((isMem (e.1 * 8) && decide ((memPlace (e.1 * 8)).dat = k))
        || (decide (checkKey k 0 ≤ e.1 * 8) && decide (e.1 * 8 < checkKey (k + 1) 0))) }

/-- CHANNEL_TRAINING: a channel in INIT trains and comes up, or has failed to train three times (R310). -/
def execChannelTraining (k : Nat) (trained : Bool) (s : State) : Out :=
  onCoreIf (decide (k < 36)) (fun c =>
    let x := c.gdc k
    if x.st ≠ .init then c
    else if trained then
      let c := if x.zero then c.zeroChannel k else c
      c.setGdc k { x with st := .ready, zero := false }
    else
      (c.setGdc k { x with st := .failed }).log
        { cls := 1, source := 0x0A, code := 0x0016, unit := BitVec.ofNat 32 k, detail := BitVec.ofNat 16 k, addr := 0 }) s

/-- GDC_ECC_READ: the counts are returned and cleared (R311). -/
def Core.readGdcEcc (c : Core) (k : Nat) : Word × Core :=
  let x := c.gdc k
  (x.ce ++ x.ue, c.setGdc k { x with ce := 0, ue := 0 })

def execGdcEccRead (m : Master) (k : Nat) (s : State) : Out := onCoreIf (decide (k < 36)) (fun c => c.readBy m false fun c => c.readGdcEcc k) s

/-- SELFREF_EXIT: the controller retrains and returns to READY (R311). -/
def execSelfrefExit (k : Nat) (s : State) : Out :=
  onCoreIf (decide (k < 36)) (fun c =>
    let x := c.gdc k
    if x.st = .selfref then c.setGdc k { x with st := .ready } else c) s

end Sys2Proof.Machine
end

