-- ==== Sys2Proof/Machine/DmaFam.lean ====
section
/-!
DEFINITION. Sys2Proof/Machine/DmaFam.lean: the stream DMA engines (spec/08_field_and_camera_io.md, R273 to R276).
-/
namespace Sys2Proof.Machine

/-! ### Descriptors (R274) -/

def dmaFill (w : CardWords) : Bool := decide ((w.w0 >>> 28).setWidth 4 = 1#4)
def dmaSrc (w : CardWords) : Nat := ((w.w2.setWidth 8 : Byte) ++ w.w1).toNat
def dmaDst (w : CardWords) : Nat := (((w.w2 >>> 8).setWidth 8 : Byte) ++ w.w3).toNat
def dmaWidth (w : CardWords) : Nat := (w.w4.setWidth 16 : BitVec 16).toNat
def dmaHeight (w : CardWords) : Nat := ((w.w4 >>> 16).setWidth 16 : BitVec 16).toNat

/-- Where a region of rows lies: GDDR6, the bunch's scratchpad, the top kilobyte of one of its sprigs. -/
inductive DmaPlace where
  | mem
  | scratch
  | top (g : SprigId)
deriving DecidableEq, Repr

/-- One past the last byte of a region. -/
def regionEnd (a width height stride : Nat) : Nat := a + (height - 1) * stride + width

/-- The place of bunch b's engine that holds a whole region. -/
def dmaPlace (b : BunchId) (a stop : Nat) : Option DmaPlace :=
  if stop ≤ 0x2000000000 then some .mem
  else if scratchBase b ≤ a ∧ stop ≤ scratchBase b + 0x200000 then some .scratch
  else if isLocals a then
    let g : SprigId := BitVec.ofNat 11 ((a - 0x4800000000) / 0x20000)
    if bunchOf g = b ∧ localsBase g + 0x5C00 ≤ a ∧ stop ≤ localsBase g + 0x6000 then some (.top g) else none
  else none

/-- The pairings of R273. -/
def dmaPairing (src dst : DmaPlace) : Bool :=
  match src, dst with
  | .mem, .mem => false
  | .mem, _ => true
  | .scratch, _ => true
  | .top _, .top _ => false
  | .top _, _ => true

/-- Fields are legal (R274). -/
def dmaFieldsOk (w : CardWords) : Bool :=
  decide (((w.w0 >>> 28).setWidth 4 : BitVec 4).toNat ≤ 1) && decide (w.w0.setWidth 27 = (0 : BitVec 27))
    && decide (w.w2 >>> 16 = 0) && (!dmaFill w || decide (w.w2.setWidth 8 = (0 : Byte)))
    && decide (1 ≤ dmaWidth w) && decide (1 ≤ dmaHeight w)
    && (!dmaFill w || decide (dmaWidth w % 4 = 0))
    && (decide (dmaHeight w = 1) || (decide (dmaWidth w ≤ w.w6.toNat) && decide (dmaWidth w ≤ w.w5.toNat)))

/-- Source and destination places, when the descriptor is legal. -/
def dmaPlaces (b : BunchId) (w : CardWords) : Option (Option DmaPlace × DmaPlace) :=
  if !dmaFieldsOk w then none
  else match dmaPlace b (dmaDst w) (regionEnd (dmaDst w) (dmaWidth w) (dmaHeight w) w.w6.toNat) with
    | none => none
    | some d =>
      if dmaFill w then some (none, d)
      else match dmaPlace b (dmaSrc w) (regionEnd (dmaSrc w) (dmaWidth w) (dmaHeight w) w.w5.toNat) with
        | none => none
        | some x => if dmaPairing x d then some (some x, d) else none

/-- The submitter's grants cover one row (R58, R273, R275, R353). -/
def Core.dmaRowGranted (c : Core) (g : SprigId) (p : DmaPlace) (a n : Nat) (write : Bool) : Bool :=
  match p with
  | .top h => decide (h = g) || isSteward g
  | .mem => (List.range ((a + n - 1) / 4096 + 1 - a / 4096)).all fun i =>
      c.farGrants g (BitVec.ofNat 40 ((a / 4096 + i) * 4096)) write
  | .scratch =>
    let off := a % 0x200000
    (List.range ((off + n - 1) / 4096 + 1 - off / 4096)).all fun i =>
      let o := BitVec.ofNat 21 ((off / 4096 + i) * 4096)
      c.slimGrants g o write && !(write && inPages o)

/-- They cover every row of a region. -/
def Core.dmaGranted (c : Core) (g : SprigId) (p : DmaPlace) (a width height stride : Nat) (write : Bool) : Bool :=
  (List.range height).all fun r => c.dmaRowGranted g p (a + r * stride) width write

def Core.dmaPermitted (c : Core) (g : SprigId) (w : CardWords) (src : Option DmaPlace) (dst : DmaPlace) : Bool :=
  c.dmaGranted g dst (dmaDst w) (dmaWidth w) (dmaHeight w) w.w6.toNat true
    && (match src with
      | none => true
      | some p => c.dmaGranted g p (dmaSrc w) (dmaWidth w) (dmaHeight w) w.w5.toNat false)

/-- STATE, CAUSE and POISON are written into word 7 (R274, R275). -/
def Core.dmaState (c : Core) (b : BunchId) (off : BitVec 21) (state cause : BitVec 4) (poison : Bool) : Core :=
  let v : Word := (state.setWidth 32 <<< 28) ||| (cause.setWidth 32 <<< 24) ||| (if poison then 1 else 0)
  c.unitWrite whoDma (scratchBase b + off.toNat + 28) (bytesOf v 4) false

def dmaQueued : BitVec 4 := 1
def dmaDone : BitVec 4 := 2
def dmaRefused : BitVec 4 := 3
def dmaAborted : BitVec 4 := 4

/-- A submission by sprig g: FULL, BADDESC, PERM, or QUEUED (R275). A descriptor that reads poisoned is a bad one (log entry 21). -/
def Core.submitDma (c : Core) (b : BunchId) (g : SprigId) (off : BitVec 21) : Core :=
  let a := scratchBase b + off.toNat
  let (_, p, c) := c.unitRead whoDma a 32
  let w := cardFromBytes c a
  if 64 ≤ (c.dma b).queue.length then c.dmaState b off dmaRefused 1 false
  else if p then c.dmaState b off dmaRefused 2 false
  else match dmaPlaces b w with
    | none => c.dmaState b off dmaRefused 2 false
    | some (src, dst) =>
      if c.dmaPermitted g w src dst then
        (c.setDma b { c.dma b with queue := (c.dma b).queue ++ [⟨off, w, .sprig g⟩] }).dmaState b off dmaQueued 0 false
      else (c.dmaState b off dmaRefused 3 false).log
        { cls := 1, source := 0x33, code := Config.dmaPermCode, unit := b.setWidth 32, detail := 0, addr := BitVec.ofNat 40 a }

/-- DMA_SUBMIT: only sprigs of the bunch and Steward sprigs (R274). -/
def Core.dmaSubmit (c : Core) (m : Master) (b : BunchId) (v : Word) : Core :=
  match m with
  | .sprig g => c.writeBy m (isSteward g || decide (bunchOf g = b)) fun c => c.reach b fun c => c.submitDma b g ((v &&& 0x001FFFE0#32).setWidth 21)
  | _ => c

def execDmaSubmit (m : Master) (b : BunchId) (v : Word) (s : State) : Out := onCore (fun c => c.dmaSubmit m b v) s

/-! ### Running (R275) -/

/-- The pattern of a FILL over n bytes. -/
def fillBytes (v : Word) (n : Nat) : List Byte := (List.range (n / 4)).flatMap fun _ => bytesOf v 4

/-- One row is moved, with the poison of each byte in its place; the result says whether poison has been (R165, R386). -/
def Core.dmaRow (c : Core) (b : BunchId) (w : CardWords) (r : Nat) : Bool × Core :=
  let d := dmaDst w + r * w.w6.toNat
  if dmaFill w then (false, c.unitStore (dmaUnit b) d (fillBytes w.w1 (dmaWidth w)) [])
  else
    let (bs, ms, c) := c.unitFetch (dmaUnit b) (dmaSrc w + r * w.w5.toNat) (dmaWidth w)
    (ms.any id, c.unitStore (dmaUnit b) d bs ms)

/-- Some row waits for a channel that initialises or refreshes itself (R310, R311). -/
def Core.dmaWaits (c : Core) (w : CardWords) : Bool :=
  (List.range (dmaHeight w)).any fun r =>
    c.waits (dmaDst w + r * w.w6.toNat) (dmaWidth w) || (!dmaFill w && c.waits (dmaSrc w + r * w.w5.toNat) (dmaWidth w))

def Core.dmaRows (c : Core) (b : BunchId) (w : CardWords) : Bool × Core :=
  (List.range (dmaHeight w)).foldl (fun (acc : Bool × Core) r =>
    let (p, c) := acc.2.dmaRow b w r
    (acc.1 || p, c)) (false, c)

/-- The grants that a queued descriptor rests on still stand (R381). -/
def Core.jobGranted (c : Core) (b : BunchId) (j : DmaJob) : Bool :=
  match j.who, dmaPlaces b j.words with
  | .sprig g, some (src, dst) => c.dmaPermitted g j.words src dst
  | _, _ => false

/-- The engine is frozen (R381). -/
def Core.freezeDma (c : Core) (b : BunchId) (cause : Byte) : Core :=
  (if Tbl.get c.err.dfrz b.toNat 0 = 0 then
    { c with err := { c.err with dfrz := Tbl.set c.err.dfrz b.toNat cause 0 } } else c).log
    { cls := 1, source := 0x33, code := 0x000C, unit := b.setWidth 32, detail := cause.setWidth 16, addr := 0 }

/-- DMA_DESCRIPTOR_DONE: the descriptor at the head has been run: every byte stands at its destination, then DONE is written. An engine
whose descriptor lost its grants freezes with cause GRANT. -/
def execDmaDescriptorDone (b : BunchId) (s : State) : Out :=
  onCore (fun c =>
    let x := c.dma b
    match x.queue with
    | [] => c
    | j :: rest =>
      if decide (Tbl.get c.err.dfrz b.toNat 0 ≠ 0) || c.quiet (.bunch b) then c
      else if !c.jobGranted b j then c.freezeDma b 6
      else if c.dmaWaits j.words then c
      else
        let (p, c) := c.dmaRows b j.words
        let c := c.setDma b { c.dma b with queue := rest, lvl := (c.dma b).lvl || j.words.w0.getLsbD 27, done := (c.dma b).done + 1 }
        c.dmaState b j.off dmaDone 0 p) s

/-- A reset, power-down or QUIESCE of the bunch writes ABORTED into every descriptor (R275). -/
def Core.abortDma (c : Core) (b : BunchId) : Core :=
  (c.dma b).queue.foldl (fun c j => c.dmaState b j.off dmaAborted 0 false) (c.setDma b { c.dma b with queue := [] })

end Sys2Proof.Machine
end

