-- ==== Sys2Proof/Machine/PartOps.lean ====
section
/-!
DEFINITION. Sys2Proof/Machine/PartOps.lean: control of a sprig (start, halt, step, freeze, thaw) and the reset of a sprig or bunch behind
its QUIESCE (R65, R78 to R80, R295, R385 to R388, R400, R500).
-/
namespace Sys2Proof.Machine

/-! ### Control of a sprig -/

/-- The instruction in progress is abandoned before COMMIT; a RET or routine waiting on the far window or an atomic is not completed (R65,
R78, R79). -/
def Sprig.abandon (s : Sprig) : Sprig :=
  { s with
    farLoad := s.farLoad.map fun f => if f.dst = .pc ∨ f.dst = .hold then { f with dst := .drop } else f
    atomics := s.atomics.map fun t => if t.dst = .hold then { t with dst := .drop } else t
    held := none
    req := { s.req with block := .none, stepping := false } }

/-- A DISABLED sprig starts by entering vector 0 (R66, R79). -/
def Core.startSprig (c : Core) (g : SprigId) : Core := c.takeEntry g 0 (c.sprig g).pc

/-- A HALTED sprig resumes at the instruction that would have run next. -/
def Core.resumeSprig (c : Core) (g : SprigId) : Core := c.modSprig g fun s => { s with state := .run }

/-- A sprig in RUN or WAIT is halted; a WAIT keeps its PC (R65, R79). -/
def Core.haltSprig (c : Core) (g : SprigId) : Core :=
  c.modSprig g fun s => { s.abandon with state := .halted, req := { s.abandon.req with trace := false } }

/-- A HALTED sprig runs one instruction (R79). -/
def Core.stepSprig (c : Core) (g : SprigId) : Core :=
  c.modSprig g fun s => { s with state := .run, req := { s.req with stepping := true } }

/-- A FREEZE command (R78): FAULT_PC names the instruction that would have run next, or the WAIT itself. DESIGN CHOICE: a request that a
committed TRAP or BKPT made, and whose entry has not come, is dropped; the spec does not say that it survives the thaw (log entry 69). -/
def Core.freezeByCommand (c : Core) (g : SprigId) : Core :=
  let pc := match (c.sprig g).req.rank1 with
    | some _ => (c.sprig g).req.resume
    | none => (c.sprig g).pc
  (c.modSprig g Sprig.abandon).freezeSprig g causeCommand pc

/-- A thaw resumes the sprig at FAULT_PC, or at the PC that the command names (R78). -/
def Core.thawSprig (c : Core) (g : SprigId) (pc : Option (BitVec 16)) : Core :=
  c.modSprig g fun s => { s with state := .run, cause := 0, pc := pc.getD s.faultPc }

/-! ### Part epochs (R387) -/

def partKey : Part → Nat
  | .sprig g => g.toNat
  | .bunch b => 0x1000 + b.toNat
  | .posy p => 0x2000 + p.toNat
  | .hostPair h => 0x3000 + h.toNat
  | .ethPort p => 0x4000 + p.toNat
  | .cxpConn x => 0x5000 + x.toNat
  | .channel c => 0x6000 + c.toNat
  | .tlPort t => 0x7000 + t.toNat
  | .remote d => 0x8000 + d.toNat
  | .serdes g => 0x9000 + g.toNat
  | .core => 0xA000

def Core.epochOf (c : Core) (p : Part) : Byte := Tbl.get c.partEpoch (partKey p) 0
def Core.bumpEpoch (c : Core) (p : Part) : Core :=
  { c with partEpoch := Tbl.set c.partEpoch (partKey p) (c.epochOf p + 1) 0 }

/-- A part leaves QUIESCE. -/
def Core.leaveQuiesce (c : Core) (p : Part) : Core := { c with quiesce := c.quiesce.filter fun e => decide (e.1 ≠ p) }

/-! ### Reset behind QUIESCE -/

/-- The requests that a sprig has issued are served and its committed stores drain: an atomic or an entry that waits for a lease's restore
goes on once the sequence has ended; two atomics and four entries at most (R80, R115, R123, R180). -/
def Core.drainAll (c : Core) (g : SprigId) : Core :=
  let c := (List.range 4).foldl (fun c _ => (c.atomicReturn g).settleLeases (bunchOf g)) c
  (List.range 8).foldl (fun c _ => (c.drain g).settleLeases (bunchOf g)) c

/-- The leases that a sprig holds are released (R178). -/
def Core.releaseHeld (c : Core) (g : SprigId) : Core :=
  (List.range 4).foldl (fun c l =>
    let l : BitVec 2 := BitVec.ofNat 2 l
    let x := c.lease (bunchOf g) l
    if x.st ≠ .free ∧ x.holder = inBunch g then c.endLease (bunchOf g) l else c) c

/-- The eight queues of a sprig are reset. -/
def Core.resetQueues (c : Core) (g : SprigId) (cause : BitVec 3) : Core :=
  (List.range 8).foldl (fun c q => c.resetQueue (queueAt g (BitVec.ofNat 3 q)) cause) c

/-- The monitors bound to a sprig's SPG_DLARM slots disarm (R60, R80, R236). -/
def Core.disarmSlots (c : Core) (g : SprigId) : Core :=
  (List.range 4).foldl (fun c k => match c.dmOf g (BitVec.ofNat 2 k) with
    | none => c
    | some d => c.setDm d { c.dm d with armed := false, dl := never }) c

/-- A sprig takes its reset state (R80, R295, R355); the resets of its queues belong to the bunch when the bunch is reset. Its send channels
keep CREDIT, whose every change R196 lists and from which the close cards of R389 are paid (DEDUCED; log entry 76). -/
def Core.clearSprig (c : Core) (g : SprigId) : Core :=
  ((((c.bicReturn g).releaseHeld g).disarmSlots g).setSprig g Sprig.reset).ownerGone (.sprig g)

/-- Per-sprig reset at the end of its window (R80, R387). -/
def Core.resetSprigNow (c : Core) (g : SprigId) : Core :=
  ((((c.drainAll g).clearSprig g).resetQueues g 4).bumpEpoch (.sprig g)).leaveQuiesce (.sprig g)

/-- Whether nothing of a sprig is outstanding, so that its window ends early (R80). -/
def Sprig.drained (s : Sprig) : Bool :=
  s.buf.isEmpty && s.farLoad.isNone && s.farStore.isNone && s.atomics.isEmpty && decide (s.dealsOut = 0) && s.fill.isNone && s.div.isNone

/-- The Steward writes a bunch's control stores and decode tables anew: every word has valid check bits (R128). -/
def Core.reloadStores (c : Core) (b : BunchId) : Core :=
  { c with csEcc := c.csEcc.filter fun e =>
      !(decide (storeBase (sprigAt b 0) ≤ 4 * e.1) && decide (4 * e.1 < storeBase (sprigAt b 0) + 0x100000)) }

/-- A bunch at the end of its window (R178, R275, R295, R386): descriptors ABORTED, leases released, stores drained, sprigs and queues
reset, the interrupt controller cleared but for its thresholds, its DMA engine not frozen any more (R388), its control stores reloaded with
what they hold (R128; log entry 71). It stays in reset until it is released. -/
def Core.resetBunchNow (c : Core) (b : BunchId) : Core :=
  let c := c.abortDma b
  let c := (sprigsOf b).foldl (fun c g => c.drainAll g) c
  let c := (List.range 4).foldl (fun c l => c.endLease b (BitVec.ofNat 2 l)) c
  let c := (sprigsOf b).foldl (fun c g => (c.clearSprig g).resetQueues g 5) c
  let c := c.setBic b { Bic.reset with thresh := (c.bic b).thresh }
  let c := c.reloadStores b
  let c := { c with err := { c.err with dfrz := Tbl.set c.err.dfrz b.toNat 0 0 } }
  c.bumpEpoch (.bunch b)

/-! ### Commands that wait for such an end -/

/-- The submitter of a command queue number. -/
def srcOf (k : Nat) : CmdSrc :=
  if k < 256 then .pair (BitVec.ofNat 7 k) else .sprig (BitVec.ofNat 11 ((k - 256) / 16)) (BitVec.ofNat 4 (k - 256))

/-- Every command begun that satisfies `p` is answered. -/
def Core.answerWhere (c : Core) (p : Cmd → Bool) (r : Reply) : Core :=
  (c.cmds.filter fun e : Nat × List Cmd => match e.2 with | x :: _ => x.begun && p x | [] => false).foldl
    (fun c e => c.answerCmd (srcOf e.1) r) c

/-- The SPRIG_RESET commands of sprig g are answered (R500). -/
def Core.answerReset (c : Core) (g : SprigId) (r : Reply) : Core :=
  c.answerWhere (fun x => decide (x.opcode = 0x0404) && decide (pword x.own 0 = g.setWidth 32)) r

end Sys2Proof.Machine
end

