-- ==== Sys2Proof/Machine/Settings.lean ====
section
/-!
DEFINITION. Sys2Proof/Machine/Settings.lean: the words that the configuration store owns: their reset values, the bits they have, and
the values they may take (spec/13_commands_and_hands.md, R352, and the chapters that own the registers).
-/
namespace Sys2Proof.Machine

/-- An owned word: its reset value, the bits that are not reserved, and whether a value is legal. -/
structure Owned where
  reset : Word
  mask : Word
  legal : Bool
deriving DecidableEq, Repr

def own (reset mask : Word) (legal : Bool) : Option Owned := some ⟨reset, mask, legal⟩

/-- Field [hi:lo] of a word, as a number. -/
def field (v : Word) (lo width : Nat) : Nat := v.toNat / 2 ^ lo % 2 ^ width

def between (lo x hi : Nat) : Bool := decide (lo ≤ x) && decide (x ≤ hi)

/-- Offset within a repeated block: the index and the offset in it. -/
def inBlock (off base stride count : Nat) : Option (Nat × Nat) :=
  if base ≤ off ∧ off < base + stride * count then some ((off - base) / stride, (off - base) % stride) else none

/-- Trigger sources that exist (R229). -/
def sourceExists (n : Nat) : Bool :=
  decide (n < 0x120) || between 0x200 n 0x23F || between 0x400 n 0x43F || between 0x500 n 0x51F || between 0x1000 n 0x2FFF
    || between 0x3000 n 0x30FF || between 0x3200 n 0x331F || between 0x3400 n 0x3403 || decide (n = 0xFFFF)

/-- PWR, R250, R408 to R425. -/
def ownedPwr (off : Nat) (v : Word) : Option Owned :=
  if off = 0x04 then own 1 0xFFF03FF9#32 true
  else if off = 0x08 then own 0x58 0x7F (between 0x08 (field v 0 7) 0x77)
  else if off = 0x10 then own 0x14 0xFF (between 10 (field v 0 8) 40)
  else if off = 0x40 then own 0x000186A0#32 0xFFFFFFFF#32 (!between 1 v.toNat 999)
  else if off = 0x100 then own 0x800A0190#32 0x81FF01FF#32 (between 100 (field v 0 9) 400 && decide (1 ≤ field v 16 9))
  else if off = 0x200 ∨ off = 0x204 then own 0 0xFFFFFFFF#32 true
  else match inBlock off 0x300 4 64 with
    | some _ =>
      own 0 0xFF9FFFFF#32 (!v.getLsbD 30 || (between 1 (field v 16 5) 16
        && decide (field v 23 7 + field v 16 5 ≤ 128)))
    | none => none

/-- TIME (R221, R228, R237, R250). -/
def ownedTime (off : Nat) (v : Word) : Option Owned :=
  if off = 0x28 then own 0 3 true
  else if off = 0x100 then own 0x01F403E8#32 0xFFFFFFFF#32 true
  else if off = 0x104 then own 0x00640401#32 0x80FFFFFF#32 (decide (1 ≤ field v 16 8))
  else if off = 0x108 then own 0x501E 0xFFFF
    (between 20 (field v 0 8) 90 && between 20 (field v 8 8) 90 && decide (field v 0 8 ≤ field v 8 8))
  else if off = 0x118 ∨ off = 0x11C then own 0xFFFFFFFF#32 0xFFFFFFFF#32 true
  else match inBlock off 0x10000 0x20 288 with
    | some (_, 0) => own 0x20000000#32 0xE0000000#32 (decide (field v 29 2 ≠ 0))
    | some _ => none
    | none =>
      match inBlock off 0x60000 0x20 4096 with
      | some (_, 0x00) => own 0 0xFFFFE000#32 (decide (field v 28 3 ≤ 4))
      | some (_, 0x04) => own 0 0xFFFFFFFF#32 true
      | some (_, 0x18) => own 0 0xFFFFFFFF#32 true
      | _ => none

/-- TRIG (R230). -/
def ownedTrig (off : Nat) (v : Word) : Option Owned :=
  if off < 0x4000 then own 0xFFFF 0xE000FFFF#32 (sourceExists (field v 0 16))
  else if between 0x10000 off 0x1FFFF then own 0 0x80000FFF#32 true
  else none

def dealUnitOff (off : Nat) : Option Nat :=
  match inBlock off 0 0x40 0x120 with
  | some (u, o) => if u < 0x108 ∨ 0x110 ≤ u then some o else none
  | none => none

/-- DEAL (R245). -/
def ownedDeal (off : Nat) : Option Owned :=
  match dealUnitOff off with
  | some 0x00 => own 0 0xF0000FFF#32 true
  | some 0x18 => own 0 0xFFFFFFFF#32 true
  | some 0x1C => own 0 0xFFFFFFFF#32 true
  | _ => none

/-- Whether a pin may take a function (R253). -/
def pinMayTake (n f : Nat) : Bool :=
  match f with
  | 4 => decide (n % 4 ≠ 3)
  | 5 => between 128 n 191
  | 6 => decide (192 ≤ n)
  | _ => decide (f ≤ 3)

/-- FIO bank k (R252 to R262). -/
def ownedFio (k off : Nat) (v : Word) : Option Owned :=
  if off < 0x80 then
    own 0 0xF0FFC000#32 (pinMayTake (32 * k + off / 4) (field v 28 4) && decide (field v 22 2 ≠ 3) && decide (field v 19 2 ≠ 3))
  else match inBlock off 0x200 0x20 8 with
  | some (l, 0) => own 0 0xFF000FFF#32 (!v.getLsbD 30 || decide (8 * k + l < 8))
  | some _ => none
  | none =>
    match inBlock off 0x400 0x40 16, decide (k = 4 ∨ k = 5) with
    | some (l, 0), true =>
      own 0 0xFFFE0FFF#32 ((!v.getLsbD 30 || decide (16 * (k - 4) + l < 16)) && (v.getLsbD 30 || decide (field v 17 6 = 0)))
    | some (_, 4), true => own 0 0x00FFFFFF#32 (decide (1 ≤ field v 16 8) && between 49 (field v 0 16) 4999)
    | _, _ =>
      match inBlock off 0x800 0x40 8, decide (k = 6 ∨ k = 7) with
      | some (_, 0), true => own 0x03800000#32 0xFF800FFF#32 (decide (7 ≤ field v 23 5))
      | some (_, 4), true => own 0 0x00FFFFFF#32 (decide (1 ≤ field v 16 8) && between 9 (field v 0 16) 4999)
      | _, _ => if k = 7 ∧ 0x10000 ≤ off ∧ off < 0x10080 then own 0 0xF8000000#32 (decide (field v 28 4 ≤ 5)) else none

/-- ETH (R263 to R269). -/
def ownedEth (off : Nat) (v : Word) : Option Owned :=
  if off = 0 then
    own 0x00800000#32 0xFF800000#32 (decide (field v 28 3 ≤ 3) && (match field v 26 2 with
      | 0 => true
      | 1 => decide (field v 28 3 ≤ 1)
      | 2 => decide (field v 28 3 = 0)
      | _ => false))
  else if off = 4 then own 0 0xFFFFFFFF#32 true
  else if off = 8 then own 0 0xFFFF true
  else if between 0x100 off 0x13F then own 0 0xCF00FFFF#32 true
  else match inBlock off 0x200 0x20 16 with
  | some (_, 0) => own 0 0xFFFFFFE0#32 true
  | some (_, 4) => own 0 0xFF true
  | some (_, 8) => own 0 0x8F0000FF#32 (!v.getLsbD 31 || (between 4 (field v 24 4) 12 && between 1 (field v 0 8) 145))
  | some _ => none
  | none =>
    if off = 0x400 ∨ off = 0x404 ∨ off = 0x408 then own 0 0xFFFFFFFF#32 true
    else if off = 0x40C then own 0 0x1FF (between 1 (field v 0 9) 256)
    else if between 0x800 off 0xBFF then own 0 0xFFFFFFFF#32 true
    else none

/-- CXP (R270). -/
def ownedCxp (off : Nat) (v : Word) : Option Owned :=
  match off with
  | 0x00 => own 0 0xFF00FFFF#32 (decide (field v 28 3 ≤ 6))
  | 0x10 => own 0 0xFFFFF000#32 true
  | 0x14 => own 0 0xFF true
  | 0x18 => own 0 0x00FFFFFF#32 (decide (2 ≤ field v 16 8))
  | _ => none

/-- GDC (R308 to R312). -/
def ownedGdc (off : Nat) (v : Word) : Option Owned :=
  match off with
  | 0x10 => own 0x80000018#32 0x800000FF#32 (decide (1 ≤ field v 0 8))
  | 0x18 =>
    let t (lo : Nat) : Int := (BitVec.ofNat 8 (field v lo 8)).toInt
    own 0x645F5A55#32 0xFFFFFFFF#32 (decide (t 0 < t 8) && decide (t 8 < t 16) && decide (t 16 < t 24))
  | 0x1C => own 0x02062E0A#32 0xFFFFFFFF#32
      (decide (field v 0 8 + field v 8 8 + field v 16 8 + field v 24 8 = 64)
        && decide (1 ≤ field v 24 8) && decide (2 ≤ field v 16 8) && decide (2 ≤ field v 0 8))
  | _ => none

/-- A handle is valid (R28). -/
def handleOk (v : Word) : Bool := decide (field v 14 8 = 0) && (!v.getLsbD 22 || decide (field v 0 14 < 1024))

/-- QMGR (R187, R194, R203, R210, R211). -/
def ownedQmgr (off : Nat) (v : Word) : Option Owned :=
  match inBlock off 0 0x10 16384 with
  | some (_, 0) => own 0 0xCF1FFFE0#32 (decide (field v 24 4 = 0) || between 4 (field v 24 4) 12)
  | some _ => none
  | none =>
  match inBlock off 0x40000 0x100 1024 with
  | some (_, 0) => own 0 0xE000383F#32 (decide (field v 29 2 ≠ 3) && decide (field v 0 6 ≤ 32)
      && (decide (field v 29 2 ≠ 1) || decide (field v 11 3 ≠ 0)))
  | some (_, 4) => own 0 0xFFFFFFFF#32 true
  | some (_, o) => if 0x80 ≤ o then own 0 0xFFFFFFFF#32 (handleOk v) else none
  | none =>
  match inBlock off 0x80000 8 32768 with
  | some (_, 0) => own 0 0xFFFFFFFF#32 true
  | some _ => own 0 0xE0001FFF#32 (decide (field v 29 2 ≤ 1) && (!v.getLsbD 31 || between 1 (field v 0 13) 4100))
  | none =>
  match inBlock off 0xC0000 0x40 256 with
  | some (_, 0x00) => own 0 0xFFFFF000#32 true
  | some (_, 0x04) => own 0 0xFFFFFFFF#32 true
  | some (_, 0x08) => own 0 0x9FE01FFF#32 (!v.getLsbD 31 || (between 4 (field v 21 4) 16 && between 1 (field v 0 13) 4100))
  | some (_, 0x0C) => own 0 0xFFFFFFFF#32 (handleOk v)
  | some _ => none
  | none =>
  match inBlock off 0xC4000 8 4096 with
  | some (_, 0) => own 0 0xFFFFFF80#32 true
  | some _ => own 0 0x0FFFFFFF#32 (!v.getLsbD 27 || decide (field v 0 14 < 1024))
  | none => none

/-- A device status level that a BIC or the HIC may select (R286). -/
def statusExists (n : Nat) : Bool := decide (n ≤ 0x30) || decide (n = 0x40)
def selectOk (v : Word) : Bool :=
  match field v 30 2 with
  | 0 => true
  | 1 => statusExists (field v 0 12)
  | 2 => true
  | _ => false

/-- HIC (R296). -/
def ownedHic (off : Nat) (v : Word) : Option Owned :=
  match inBlock off 0 8 1024 with
  | some (_, 0) => own 0 0xF80007FF#32 true
  | some (n, _) => if 0x200 ≤ n then own 0x80000000#32 0xC003FFFF#32 (selectOk v) else own 0 0x0003FFFF#32 true
  | none => none

/-- BIC (R285, R289). -/
def ownedBic (off : Nat) (v : Word) : Option Owned :=
  if off < 0x400 then own 0x80000000#32 0xC1FF0FFF#32 (selectOk v)
  else if off = 0xA00 then own 0x80000000#32 0x8000001F#32 true
  else none

/-- TL (R435, R450, R451). -/
def ownedTl (t off : Nat) (_v : Word) : Option Owned :=
  if off = 0 then own 0 0xE0000000#32 true
  else if t ≠ 0 then none
  else match inBlock off 0x20000 4 512 with
  | some _ => own 0 0x800000F8#32 true
  | none =>
    if off = 0x21000 then own 0 0xFFFFFFFF#32 true
    else if off = 0x21004 then own 0x80000000#32 0xC00001FF#32 true
    else match inBlock off 0x21100 0x10 16 with
    | some (_, 0) => own 0 0xE00001FF#32 true
    | some (_, 4) => own 0 0x0FFFFFFF#32 true
    | some (_, 8) => own 0 0x000FFFFF#32 true
    | _ => none

/-- MET (R328). -/
def ownedMet (off : Nat) (v : Word) : Option Owned :=
  if off = 0x100 then own 0 0xFFFFFFFF#32 (handleOk v)
  else if off = 0x104 then own 0 0xC0001FFF#32 (!v.getLsbD 31 || between 2 (field v 0 13) 4100)
  else none

/-- PCIE (R338): the words of function 0 are read-only, so they may be staged at their value alone. -/
def ownedPcie (off : Nat) (v : Word) : Option Owned :=
  match inBlock off 0 0x10 16 with
  | some (0, 0) => own 0xC00000FF#32 0xC00007FF#32 (decide (v = 0xC00000FF#32))
  | some (_, 0) => own 0 0xC00007FF#32 true
  | some (_, 4) => own 0 0xF true
  | _ => none

/-- The owned word at a byte offset of a block slot (R42, R352). -/
def ownedReg (slot off : Nat) (v : Word) : Option Owned :=
  match slot with
  | 0x01 => ownedPwr off v
  | 0x04 => ownedTime off v
  | 0x05 => ownedTrig off v
  | 0x06 => ownedDeal off
  | 0x07 => ownedFio (off / 0x20000) (off % 0x20000) v
  | 0x08 => ownedEth (off % 0x20000) v
  | 0x09 => ownedCxp (off % 0x10000) v
  | 0x0A => if off / 0x4000 < 36 then ownedGdc (off % 0x4000) v else none
  | 0x0B => ownedQmgr off v
  | 0x0C => ownedHic off v
  | 0x0D => ownedBic (off % 0x4000) v
  | 0x10 => ownedTl (off / 0x40000) (off % 0x40000) v
  | 0x13 => ownedMet off v
  | 0x14 => ownedPcie off v
  | _ => none

/-- Setting-page words, for one bunch or every bunch; values of the sprigs' control pages (R60, R352). -/
def ownedPage (idx : Nat) : Option Owned :=
  if (idx / 0x10000 < 64 ∨ idx / 0x10000 = 0xFF) ∧ idx / 0x400 % 64 = 0 ∧ 4 ≤ idx % 0x400 then own 0 0xFFFFFFFF#32 true else none
def ownedSprig (idx : Nat) : Option Owned :=
  if idx < 16 * 2048 then
    (match idx % 16 with
    | 0 => own 0 0x001FF000#32 true
    | 1 => own 0 0x0001FFFF#32 true
    | k => if 10 ≤ k then none else if k % 2 = 0 then own 0 0x0FFFFFFF#32 true else own 0 0x3FFFFFFF#32 true)
  else none

/-- The word that a setting ID names (R352). -/
def ownedSetting (id : Nat) (v : Word) : Option Owned :=
  let block := id / 0x1000000
  let idx := id % 0x1000000
  if block ≤ 0x14 then (if idx < 0x40000 then ownedReg block (4 * idx) v else none)
  else if block = 0x20 then ownedPage idx
  else if block = 0x30 then ownedSprig idx
  else none

/-- The reset value of a setting. -/
def settingReset (id : Nat) : Word :=
  match ownedSetting id 0 with
  | some o => o.reset
  | none => 0

/-- A setting in a generation. -/
def cfgGet (t : Tbl Word) (id : Nat) : Word := Tbl.get t id (settingReset id)
def cfgSet (t : Tbl Word) (id : Nat) (v : Word) : Tbl Word := Tbl.set t id v (settingReset id)

/-- A write of a setting: a page word for bunch 0xFF is written for every bunch (R352). -/
def cfgPut (t : Tbl Word) (id : Nat) (v : Word) : Tbl Word :=
  if id / 0x10000 = 0x20FF then (List.range 64).foldl (fun t b => cfgSet t (0x20000000 + 0x10000 * b + id % 0x10000) v) t
  else cfgSet t id v

/-- The current value of a setting: a command pair's words stand beside the store (R352, R341). -/
def Core.setting (c : Core) (k : Nat) : Word :=
  let o := k - sid 0x0B 0xC0000
  if sid 0x0B 0xC0000 ≤ k ∧ k < sid 0x0B 0xC0000 + 65 * 16 ∧ o % 16 < 4 then Tbl.get c.cmdRegs o 0 else cfgGet c.cfg k

end Sys2Proof.Machine
end

