-- ==== Sys2Proof/Machine/Checks.lean ====
section
/-!
DEFINITION. Sys2Proof/Machine/Checks.lean: the checks of a configuration as it will stand, that HAND_CHECK reports and a commit repeats
(R28, R33, R197, R210, R236, R254, R312, R328, R338, R352, R356, R358, R363, R413, R439). A configuration under test is the core with
that configuration in place of its own. Where several faults stand the spec names no order: log entry 23.
-/
namespace Sys2Proof.Machine

/-- The core as it would be under another configuration. -/
def Core.under (c : Core) (t : Tbl Word) : Core := { c with cfg := t }

/-! ### Detail words (R197, R351) -/

def conflict (d1 d2 : Word) : Reply := ⟨stConflict, [d1, d2]⟩
def badParam (d1 d2 : Word) : Reply := ⟨stBadParam, [d1, d2]⟩
def denied (d1 d2 : Word) : Reply := ⟨stDenied, [d1, d2]⟩
def num (n : Nat) : Word := BitVec.ofNat 32 n
def valueFault (id : Nat) : Reply := badParam 0x71 (num id)
def settingDenied (id : Nat) : Reply := denied 0x79 (num id)

/-! ### The graph of posies (R33, R203 to R205) -/

def Core.nextPosies (c : Core) (p : BitVec 10) : List (BitVec 10) :=
  if posyDef (c.pctl p) then ((c.members p).filterMap c.localPosy).dedup else []

/-- The posies within `n` steps of a list of posies. -/
def Core.posyReach (c : Core) : Nat → List (BitVec 10) → List (BitVec 10)
  | 0, l => l
  | n + 1, l => Core.posyReach c n ((l ++ l.flatMap c.nextPosies).dedup)

def allPosies : List (BitVec 10) := (List.range 1024).map fun p => BitVec.ofNat 10 p

/-- The lowest posy that reaches itself. -/
def Core.posyCycle (c : Core) : Option (BitVec 10) :=
  (allPosies.filter fun p => posyDef (c.pctl p)).find? fun p => (c.posyReach 1024 (c.nextPosies p)).contains p

/-- The lowest posy without members: one defined with COUNT 0, or one not defined that is a member. -/
def Core.posyEmpty (c : Core) : Option (BitVec 10) :=
  let named := (allPosies.filter fun p => posyDef (c.pctl p)).flatMap c.nextPosies
  allPosies.find? fun p =>
    if posyDef (c.pctl p) then decide (posyCount (c.pctl p) = 0) else named.contains p

/-- Copies of a card sent to a handle (R205). -/
def Core.copies (c : Core) : Nat → Word → Nat
  | 0, _ => 1
  | n + 1, w =>
    match c.localPosy w with
    | none => 1
    | some p =>
      let l := (c.members p).map fun m => Core.copies c n m
      if !posyDef (c.pctl p) then 1
      else if posyPolicy (c.pctl p) = 2#2 then l.foldl (· + ·) 0 else l.foldl max 0

/-- The local queues at the ends of every dispatch path from a handle, once for each path (R197). -/
def Core.paths (c : Core) : Nat → Word → List QueueId
  | 0, _ => []
  | n + 1, w =>
    if handleDev w ≠ c.dev then []
    else match c.localPosy w with
      | none => [handleQueue w]
      | some p => if posyDef (c.pctl p) then (c.members p).flatMap fun m => Core.paths c n m else []

/-- The queues a handle reaches. -/
def Core.reaches (c : Core) (w : Word) : List QueueId := (c.paths 1025 w).dedup

/-! ### Grants (R186, R197) -/

/-- Bindings of this configuration: producer, KIND 0b01, handle or pair, grant. -/
structure Binding where
  who : Producer
  toPair : Bool
  handle : Word
  grant : Nat
deriving DecidableEq, Repr

def Core.chanBindings (c : Core) : List Binding :=
  (c.cfg.filter fun e : Nat × Word =>
    decide (sid 0x0B 0x80000 ≤ e.1 ∧ e.1 < sid 0x0B 0xC0000 ∧ e.1 % 2 = 1) && e.2.getLsbD 31).map fun e : Nat × Word =>
      let k := (e.1 - sid 0x0B 0x80000) / 2
      ⟨.chan c.dev (BitVec.ofNat 11 (k / 16)) (BitVec.ofNat 4 (k % 16)), decide ((e.2 >>> 29).setWidth 2 = 1#2),
        Tbl.get c.cfg (e.1 - 1) 0, field e.2 0 13⟩

def Core.pairBindings (c : Core) : List Binding :=
  (c.cfg.filter fun e : Nat × Word =>
    decide (sid 0x0B 0xC0000 + 65 * 16 ≤ e.1 ∧ e.1 < sid 0x0B 0xC4000 ∧ e.1 % 16 = 2) && e.2.getLsbD 31).map fun e : Nat × Word =>
      ⟨.hostPair (BitVec.ofNat 8 ((e.1 - sid 0x0B 0xC0000) / 16)), false, Tbl.get c.cfg (e.1 + 1) 0, field e.2 0 13⟩

/-- An import entry's producer and local handle (R210). -/
def Core.importBindings (c : Core) : List Binding :=
  (c.cfg.filter fun e : Nat × Word =>
    decide (sid 0x0B 0xC4000 ≤ e.1 ∧ e.1 < sid 0x0B 0xCC000 ∧ e.1 % 2 = 0) && e.2.getLsbD 31).map fun e : Nat × Word =>
      let w := Tbl.get c.cfg (e.1 + 1) 0
      ⟨.chan ((e.2 >>> 22).setWidth 9) ((e.2 >>> 11).setWidth 11) ((e.2 >>> 7).setWidth 4), false,
        (c.dev.setWidth 32 <<< 23) ||| (if w.getLsbD 27 then 0x00400000#32 else 0) ||| (w &&& 0x3FFF#32), field w 14 13⟩

/-- The Steward's reply channels (R345). -/
def Core.replyBindings (c : Core) : List Binding :=
  (c.cfg.filter fun e : Nat × Word =>
    decide (sid 0x0B 0 ≤ e.1 ∧ e.1 < sid 0x0B 0x40000 ∧ e.1 % 4 = 0) && e.2.getLsbD 30).map fun e : Nat × Word =>
      let i := BitVec.ofNat 14 ((e.1 - sid 0x0B 0) / 4)
      ⟨.steward i, false, c.handleOf i, 1⟩

/-- MET_QBIND and MET_QCFG (R328). -/
def Core.islandBindings (c : Core) : List Binding :=
  if c.metCfg.getLsbD 31 then [⟨.island, false, c.metBind, field c.metCfg 0 13⟩] else []

/-- What this configuration's device reports to the other participants of a system hand: the epochs of the queues that import entries name,
and its posies with their members (R33, R196). -/
def Core.report (c : Core) : HandReport :=
  { epochs := ((c.importBindings.filter fun b => !handlePosy b.handle).map fun b => (b.handle, (c.queue (handleQueue b.handle)).epoch)).dedup
    posies := (allPosies.filter fun p => posyDef (c.pctl p)).map fun p => (c.posyHandle p, c.members p) }

/-- Two reports together. -/
def joinReports (a b : HandReport) : HandReport := { epochs := a.epochs ++ b.epochs, posies := a.posies ++ b.posies }

def Core.bindings (c : Core) : List Binding :=
  c.chanBindings ++ c.pairBindings ++ c.importBindings ++ c.replyBindings ++ c.islandBindings

/-- What a list of bindings grants at queue i; the error engine holds 64 credits at queue 7 (R374). -/
def Core.load (c : Core) (l : List Binding) (i : QueueId) : Nat :=
  (l.foldl (fun n b => if b.toPair then n else n + b.grant * ((c.paths 1025 b.handle).filter (· = i)).length) 0)
    + (if i = 7#14 then 64 else 0)

def capacity (w : Word) : Nat := 4 + ringSlots w

/-- The queues that a list of bindings reaches. -/
def Core.boundQueues (c : Core) (l : List Binding) : List QueueId :=
  (l.flatMap fun b => if b.toPair then [] else c.reaches b.handle).dedup

/-- Queues whose own words differ between two configurations. -/
def changedQueues (old new : Core) (ids : List Nat) : List QueueId :=
  ((ids.filter fun k => decide (sid 0x0B 0 ≤ k ∧ k < sid 0x0B 0x40000 ∧ k % 4 = 0)).map fun k =>
    BitVec.ofNat 14 ((k - sid 0x0B 0) / 4)).filter fun i => old.qcfg i ≠ new.qcfg i

/-- Grants against capacity, and EN, at the queues that the hand touches (R197). -/
def checkQueues (old new : Core) (ids : List Nat) : Option Reply :=
  let lo := old.bindings
  let ln := new.bindings
  let qs := (changedQueues old new ids ++ new.boundQueues ln ++ old.boundQueues lo).dedup.filter fun i =>
    decide (old.qcfg i ≠ new.qcfg i) || decide (old.load lo i ≠ new.load ln i)
  match qs.find? fun i => decide (capacity (new.qcfg i) < new.load ln i) with
  | some i => some (conflict 0x30 (i.setWidth 32))
  | none =>
    match qs.find? fun i => !qcfgEn (new.qcfg i) && (new.boundQueues ln).contains i with
    | some i => some (conflict 0x31 (i.setWidth 32))
    | none => none

/-- Grants into the outbound ring of a host queue pair (R197, R213). -/
def Core.pairLoad (c : Core) (h : Nat) : Nat :=
  c.chanBindings.foldl (fun n b => if b.toPair && decide (b.handle.toNat % 256 = h) then n + b.grant else n) 0

def checkPairs (old new : Core) : Option Reply :=
  match (List.range 256).find? fun h =>
      (decide (old.pairLoad h ≠ new.pairLoad h) || decide (old.pairCfg (BitVec.ofNat 8 h) ≠ new.pairCfg (BitVec.ofNat 8 h)))
        && decide (2 ^ pairSize (new.pairCfg (BitVec.ofNat 8 h)) < new.pairLoad h) && decide (0 < new.pairLoad h) with
  | some h => some (conflict 0x30 (0x80000000#32 + num h))
  | none => none

/-! ### Rings (R188, R197) -/

def ringBytes (w : Word) : Nat := 40 * ringSlots w
def disjoint (a n b m : Nat) : Bool := decide (a + n ≤ b) || decide (b + m ≤ a)

/-- A ring lies in its scratchpad, off the setting-page views and the mailbox, and off every other ring of the bunch. -/
def Core.ringOk (c : Core) (i : QueueId) : Bool :=
  let w := c.qcfg i
  decide (qcfgRsize w = 0) ||
    (decide (qcfgRbase w + ringBytes w ≤ 0x1F6000) &&
      (List.range 256).all fun k =>
        let j : QueueId := ((i >>> 8) <<< 8) + BitVec.ofNat 14 k
        decide (j = i) || decide (qcfgRsize (c.qcfg j) = 0)
          || disjoint (qcfgRbase w) (ringBytes w) (qcfgRbase (c.qcfg j)) (ringBytes (c.qcfg j)))

def checkRings (old new : Core) (ids : List Nat) : Option Reply :=
  match (changedQueues old new ids).find? fun i => !new.ringOk i with
  | some i => some (badParam 0x32 (i.setWidth 32))
  | none => none

/-! ### Posies and channels -/

def isPosyId (k : Nat) : Bool := decide (sid 0x0B 0x40000 ≤ k ∧ k < sid 0x0B 0x80000)
def isChanId (k : Nat) : Bool := decide (sid 0x0B 0x80000 ≤ k ∧ k < sid 0x0B 0xC0000)

def checkPosies (new : Core) (ids : List Nat) : Option Reply :=
  if !ids.any isPosyId then none
  else match new.posyCycle with
    | some p => some (conflict 0x10 (p.setWidth 32))
    | none =>
      match new.posyEmpty with
      | some p => some (conflict 0x11 (p.setWidth 32))
      | none =>
        match allPosies.find? fun p => posyDef (new.pctl p)
            && decide (64 < new.copies 1025 ((new.dev.setWidth 32 <<< 23) ||| 0x00400000#32 ||| p.setWidth 32)) with
        | some p => some (conflict 0x12 (p.setWidth 32))
        | none => none

/-- Channels whose words the hand stages. -/
def stagedChans (ids : List Nat) : List Nat := ((ids.filter isChanId).map fun k => (k - sid 0x0B 0x80000) / 2).dedup

/-- A channel to another device needs a system hand that includes it; none is bound to a command pair (R197, R215). -/
def checkChans (new : Core) (ids : List Nat) (mask : Option (BitVec 512)) : Option Reply :=
  let at_ (k : Nat) : Word × Word :=
    (new.shandle (BitVec.ofNat 11 (k / 16)) (BitVec.ofNat 4 (k % 16)), new.scfg (BitVec.ofNat 11 (k / 16)) (BitVec.ofNat 4 (k % 16)))
  let chans := (stagedChans ids).filter fun k => (at_ k).2.getLsbD 31
  match (stagedChans ids).find? fun k =>
      if field (at_ k).2 29 2 = 1 then decide (256 ≤ (at_ k).1.toNat) else !handleOk (at_ k).1 with
  | some k => some (valueFault (sid 0x0B 0x80000 + 2 * k))
  | none =>
  match chans.find? fun k => decide (field (at_ k).2 29 2 = 0) && decide (handleDev (at_ k).1 ≠ new.dev)
      && !(match mask with | some m => m.getLsbD (handleDev (at_ k).1).toNat | none => false) with
  | some k => some (conflict 0x33 (num k))
  | none =>
    match chans.find? fun k => decide (field (at_ k).2 29 2 = 1) && decide ((at_ k).1.toNat % 256 ≤ 64) with
    | some k => some (denied 0x34 (num ((at_ k).1.toNat % 256)))
    | none => none

/-- HQP registers of pairs 0 to 64 (R341). -/
def checkCmdPairs (ids : List Nat) : Option Reply :=
  match ids.find? fun k => decide (sid 0x0B 0xC0000 ≤ k ∧ k < sid 0x0B 0xC0000 + 65 * 16) with
  | some k => some (denied 0x34 (num ((k - sid 0x0B 0xC0000) / 16)))
  | none => none

/-- The island's designated queue (R328). -/
def checkIsland (new : Core) : Option Reply :=
  if !new.metCfg.getLsbD 31 then none
  else
    let w := new.metBind
    let others := new.chanBindings ++ new.pairBindings ++ new.importBindings ++ new.replyBindings
    if handlePosy w || decide (handleDev w ≠ new.dev) || (new.boundQueues others).contains (handleQueue w) then
      some (conflict 0x60 0)
    else none

/-! ### Monitors and pins -/

/-- Two enabled monitors at one slot of one sprig (R236). -/
def Core.slotsTaken (c : Core) : Bool :=
  let l := (c.cfg.filter fun e : Nat × Word =>
    decide (sid 0x04 0x60000 ≤ e.1 ∧ e.1 < sid 0x04 0x80000 ∧ (e.1 - sid 0x04 0x60000) % 8 = 0) && e.2.getLsbD 31).map
      fun e : Nat × Word => e.2 &&& 0x03FFE000#32
  decide (l.dedup ≠ l)

/-- Whether a decoder, SSI or SPI master is enabled, and takes its inputs from LV pairs (R258, R260, R262). -/
def enabledBy (w : Word) (lv : Bool) : Bool := w.getLsbD 31 && decide (w.getLsbD 30 = lv)

/-- The peripheral functions that enabled peripherals need pin n to have; `lv`: LV pair n (R253, R254). -/
def Core.needs (c : Core) (n : Nat) (lv : Bool) : List Nat :=
  let k := n / 4
  let dec := decide (n % 4 ≠ 3) && enabledBy (c.qdCfg (BitVec.ofNat 6 k)) lv
    && (decide (n % 4 ≠ 2) || (c.qdCfg (BitVec.ofNat 6 k)).getLsbD 27)
  let ssi := if lv then enabledBy (c.serCfg (BitVec.ofNat 6 (n / 2))) true
    else decide (128 ≤ n ∧ n < 192) && enabledBy (c.serCfg (BitVec.ofNat 6 ((n - 128) / 2))) false
  let spi := !lv && decide (192 ≤ n) && (c.serCfg (BitVec.ofNat 6 (32 + (n - 192) / 4))).getLsbD 31
  (if dec && (!lv || decide (k < 8)) then [4] else []) ++ (if ssi then [5] else []) ++ (if spi then [6] else [])

/-- Whether the peripheral of a pin in peripheral function f is enabled and takes its inputs there. -/
def Core.serves (c : Core) (n f : Nat) (lv : Bool) : Bool :=
  match f with
  | 4 => enabledBy (c.qdCfg (BitVec.ofNat 6 (n / 4))) lv
  | 5 => if lv then enabledBy (c.serCfg (BitVec.ofNat 6 (n / 2))) true else enabledBy (c.serCfg (BitVec.ofNat 6 ((n - 128) / 2))) false
  | 6 => (c.serCfg (BitVec.ofNat 6 (32 + (n - 192) / 4))).getLsbD 31
  | _ => true

def Core.pinBad (c : Core) (n : Nat) (lv : Bool) : Bool :=
  let f := if lv then (pinFunc (c.lvPcfg (BitVec.ofNat 5 n))).toNat else (pinFunc (c.pcfg (BitVec.ofNat 8 n))).toNat
  ((c.needs n lv).any fun need => decide (f ≠ need))
  || (decide (4 ≤ f ∧ f ≤ 6) && !c.serves n f lv)

/-- R254. -/
def checkPins (new : Core) (ids : List Nat) : Option Reply :=
  if !ids.any fun k => decide (sid 0x07 0 ≤ k ∧ k < sid 0x07 0x100000) then none
  else match (List.range 256).find? fun n => new.pinBad n false with
    | some n => some (badParam 0x50 (num n))
    | none =>
      match (List.range 32).find? fun n => new.pinBad n true with
      | some n => some (badParam 0x50 (num (0x100 + n)))
      | none => none

/-! ### The configuration store (R363) -/

def storeBaseAddr : Nat := 0x1FF000000
def storeEnd : Nat := storeBaseAddr + 256 * 0x100000

/-- Whether the far grant at which a setting ID stands covers the store region. -/
def Core.grantsStore (c : Core) (k : Nat) : Bool :=
  let j := k - k % 2
  let base := (Tbl.get c.cfg j 0).toNat % 0x10000000
  let lim := Tbl.get c.cfg (j + 1) 0
  decide (0x30000000 ≤ k) && decide (2 ≤ k % 16 ∧ k % 16 < 10) && (lim.getLsbD 28 || lim.getLsbD 29)
    && !disjoint (base * 4096) ((lim.toNat % 0x10000000 + 1) * 4096 - base * 4096) storeBaseAddr (storeEnd - storeBaseAddr)
    && decide (base ≤ lim.toNat % 0x10000000)

/-- PCIE_FCFG and PCIE_BAR4_BASE of a function; MSI-X table sizes (R338). -/
def Core.fcfg (c : Core) (f : Nat) : Word := cfgGet c.cfg (sid 0x14 (0x10 * f))
def Core.bar4 (c : Core) (f : Nat) : Word := cfgGet c.cfg (sid 0x14 (0x10 * f + 4))
def isPcieId (k : Nat) : Bool := decide (sid 0x14 0 ≤ k ∧ k < sid 0x14 0x100)

/-- Whether a staged word opens a BAR4 window over the store region. -/
def Core.windowsStore (c : Core) (k : Nat) : Bool :=
  let f := (k - sid 0x14 0) / 4
  isPcieId k && (c.fcfg f).getLsbD 30 && !disjoint (field (c.bar4 f) 0 4 * 2 ^ 36) (2 ^ 36) storeBaseAddr (storeEnd - storeBaseAddr)
    && (decide (k % 4 = 1) || decide (f ≠ 0))

def Core.msixSum (c : Core) : Nat := (List.range 15).foldl (fun n f => n + field (c.fcfg (f + 1)) 0 11 + 1) 0

/-- The highest-numbered VF whose PCIE_FCFG the hand stages. -/
def stagedVf (ids : List Nat) : Option Nat :=
  ((List.range 15).map fun i => 15 - i).find? fun f => ids.contains (sid 0x14 (0x10 * f))

/-! ### Checks of single words that need other words -/

/-- A region in GDDR6, or in one scratchpad. -/
def inGddr (a n : Nat) : Bool := decide (a + n ≤ 0x2000000000)
def inOneScratch (a n : Nat) : Bool := isScratch a && decide (a / 0x200000 = (a + n - 1) / 0x200000)

/-- An Ethernet receive ring, a CoaXPress ring, a remote window (R269, R271, R439). -/
def Core.ethRingOk (c : Core) (p : BitVec 3) (r : Nat) : Bool :=
  let w := c.ethReg p (0x208 + 0x20 * r) 0
  let base := (c.ethReg p (0x204 + 0x20 * r) 0).toNat % 256 * 2 ^ 32 + (c.ethReg p (0x200 + 0x20 * r) 0).toNat
  let n := 2 ^ field w 24 4 * (64 * field w 0 8)
  !w.getLsbD 31 || inGddr base n || inOneScratch base n

def Core.cxpRingOk (c : Core) (x : BitVec 4) : Bool :=
  let base := (c.cxpReg x 0x14).toNat % 256 * 2 ^ 32 + (c.cxpReg x 0x10).toNat
  let w := c.cxpReg x 0x18
  inGddr base (field w 16 8 * field w 0 16 * 4096)

def Core.rwin (c : Core) (w off : Nat) : Word := Tbl.get c.cfg (sid 0x10 (0x21100 + 0x10 * w + off)) 0
def Core.rwinOk (c : Core) (w : Nat) : Bool :=
  let base := (c.rwin w 4).toNat % 0x10000000 * 4096
  let n := field (c.rwin w 8) 0 20 * 4096
  !(c.rwin w 0).getLsbD 31 || (decide (0 < n) && disjoint base n storeBaseAddr (storeEnd - storeBaseAddr)
    && (inGddr base n || (isScratch base && decide (base + n ≤ 0x4008000000))))

/-- PWR_BUNCH_RET. -/
def Core.retained (c : Core) (b : Nat) : Bool :=
  (Tbl.get c.cfg (sid 0x01 (0x200 + 4 * (b / 32))) 0).getLsbD (b % 32)

/-- The check that one staged word calls for. -/
def checkWord (new : Core) (k : Nat) : Option Reply :=
  let off := 4 * (k % 0x1000000)
  match k / 0x1000000 with
  | 0x01 =>
    if 0x300 ≤ off ∧ off < 0x400 ∧ (Tbl.get new.cfg k 0).getLsbD 31 ∧ !new.retained ((off - 0x300) / 4) then
      some (badParam 0x92 (num ((off - 0x300) / 4)))
    else none
  | 0x08 =>
    if 0x200 ≤ off % 0x20000 ∧ off % 0x20000 < 0x400 ∧ !new.ethRingOk (BitVec.ofNat 3 (off / 0x20000)) ((off % 0x20000 - 0x200) / 0x20) then
      some (valueFault k) else none
  | 0x09 => if 0x10 ≤ off % 0x10000 ∧ !new.cxpRingOk (BitVec.ofNat 4 (off / 0x10000)) then some (valueFault k) else none
  | 0x0C =>
    let w := Tbl.get new.cfg k 0
    if off < 0x2000 ∧ off % 8 = 0 ∧ field (new.fcfg (field w 27 4)) 0 11 < field w 0 11 then some (valueFault k) else none
  | 0x10 => if 0x21100 ≤ off ∧ off < 0x21200 ∧ !new.rwinOk ((off - 0x21100) / 0x10) then some (valueFault k) else none
  | 0x14 => if new.windowsStore k then some (settingDenied k) else none
  | 0x30 => if new.grantsStore k then some (settingDenied k) else none
  | _ => none

/-- The first of a list of checks that reports. -/
def firstOf : List (Option Reply) → Option Reply
  | [] => none
  | some r :: _ => some r
  | none :: rest => firstOf rest

/-- Every check of a configuration (R356). `ids` are the settings that the hand stages on this device. -/
def checkConfig (old new : Core) (ids : List Nat) (mask : Option (BitVec 512)) : Option Reply :=
  firstOf
    [checkCmdPairs ids,
     firstOf (ids.map (checkWord new)),
     checkRings old new ids,
     checkPosies new ids,
     checkChans new ids mask,
     checkIsland new,
     checkQueues old new ids,
     checkPairs old new,
     if new.slotsTaken then some (conflict 0x40 0) else none,
     checkPins new ids,
     match stagedVf ids with
      | some f => if 1792 < new.msixSum then some (valueFault (sid 0x14 (0x10 * f))) else none
      | none => none]

end Sys2Proof.Machine
end

