-- ==== Sys2Proof/Machine/Move.lean ====
section
/-!
DEFINITION. Sys2Proof/Machine/Move.lean: moves, loads and stores (R92, R93).
-/
namespace Sys2Proof.Machine

/-- MOV's source by class and index; `none` for a reserved class or an index out of range (R93). -/
def Sprig.movSrc (s : Sprig) (cls : BitVec 3) (i : BitVec 4) : Option Word :=
  match cls.toNat with
  | 0 => some (s.rd i)
  | 1 => if i.getLsbD 3 then none else some ((s.ra (i.setWidth 3)).setWidth 32)
  | 2 => if 4 ≤ i.toNat then none else some ((s.rm (i.setWidth 2)).setWidth 32)
  | 3 => (match i.toNat with
    | 0 => some s.sw
    | 1 => some s.mode
    | 2 => some (s.pc.setWidth 32)
    | _ => none)
  | 4 => if i = 0 then some (s.pImage.setWidth 32) else none
  | _ => none

/-- MOV's destination; `none` where it may not be written (R93). -/
def Sprig.movDst (s : Sprig) (cls : BitVec 3) (i : BitVec 4) (v : Word) : Option Sprig :=
  match cls.toNat with
  | 0 => some (s.setD i v)
  | 1 => if i.getLsbD 3 then none else some (s.setA (i.setWidth 3) (v.setWidth 16))
  | 2 => if 4 ≤ i.toNat then none else some (s.setM (i.setWidth 2) (v.setWidth 16))
  | 3 => if i = 0 then some { s with sw := swWrite s.sw v } else none
  | 4 => if i = 0 then some { s with p := v.setWidth 8 } else none
  | _ => none

/-- The D registers a MOV reads or writes. -/
def movRegs (cls : BitVec 3) (i : BitVec 4) : List (BitVec 4) := if cls = 0 then [i] else []

def bodyMov (g : SprigId) (op : BitVec 20) (c : Core) : Res :=
  let aux := fAux op
  let dc : BitVec 3 := (aux >>> 5).setWidth 3
  let sc : BitVec 3 := (aux >>> 2).setWidth 3
  let s := c.sprig g
  if fSrcB op ≠ 0 ∨ aux.setWidth 2 ≠ 0#2 then illegal c
  else if (s.movSrc sc (fSrcA op)).isNone ∨ (s.movDst dc (fDst op) 0).isNone then illegal c
  else c.useD g (movRegs sc (fSrcA op)) (movRegs dc (fDst op)) fun s =>
    match s.movSrc sc (fSrcA op) with
    | none => illegal c
    | some v => match s.movDst dc (fDst op) v with
      | none => illegal c
      | some s' => c.done g s' 1

/-- LEA: no update mode, no memory access (R92). -/
def bodyLea (g : SprigId) (op : BitVec 20) (c : Core) : Res :=
  let s := c.sprig g
  let m := (fAmode op).toNat
  if op.getLsbD 19 ∨ ¬(m = 0 ∨ m = 3 ∨ m = 4) then illegal c
  else match s.ea op 4 false with
    | none => illegal c
    | some e => c.useD g e.idx [] fun s => c.done g (s.setA ((fDst op).setWidth 3) e.addr) 1

def bodyLdi (g : SprigId) (op : BitVec 20) (c : Core) : Res :=
  c.useD g [] [fDst op] fun s => c.done g (s.setD (fDst op) ((fImm op).signExtend 32)) 1

/-- LDIH keeps the low half, which it reads. -/
def bodyLdih (g : SprigId) (op : BitVec 20) (c : Core) : Res :=
  c.useD g [fDst op] [fDst op] fun s =>
    c.done g (s.setD (fDst op) (fImm op ++ (s.rd (fDst op)).setWidth 16)) 1

def bodyLdiA (g : SprigId) (op : BitVec 20) (c : Core) : Res :=
  if op.getLsbD 19 then illegal c else c.done g ((c.sprig g).setA ((fDst op).setWidth 3) (fImm op)) 1

/-- The datum of a load, zero- or sign-extended. -/
def extend (bs : List Byte) (signed : Bool) : Word :=
  let w := wordOf bs
  if signed then (match bs.length with
    | 1 => (w.setWidth 8).signExtend 32
    | 2 => (w.setWidth 16).signExtend 32
    | _ => w) else w

/-- A far load is issued: the register is scoreboarded until the value returns (R52, R57, R126). A read outside the grants returns 0
and logs (R58). One far request is outstanding at a time (R57, R279). -/
def Core.farLoadD (c : Core) (g : SprigId) (s : Sprig) (a : BitVec 16) (n : Nat) (signed : Bool) (d : BitVec 4)
    (upd : Option (BitVec 3 × BitVec 16)) : Res :=
  let t := s.farAddr a
  if inRegs t && decide (n ≠ 4) then alignFault c a
  else if s.farLoad.isSome || s.farStore.isSome then .stall c
  else if !c.farGrants g t false then
    .commit ((c.logRead (.sprig g) t).setSprig g ((s.setD d 0).applyUpd upd)) {}
  else if !s.buf.isEmpty then .stall c
  else .commit (c.setSprig g { s.applyUpd upd with
      farLoad := some ⟨t, n, signed, .reg d⟩, board := putBit s.board d.toNat true }) {}

/-- A load of n bytes (R92). -/
def bodyLd (g : SprigId) (op : BitVec 20) (n : Nat) (signed : Bool) (c : Core) : Res :=
  match (c.sprig g).ea op n false with
  | none => illegal c
  | some e =>
    c.useD g e.idx [fDst op] fun s =>
      if misaligned e.addr n then alignFault c e.addr
      else match regionOf e.addr with
        | .f => c.farLoadD g s e.addr n signed (fDst op) e.upd
        | .c =>
          let (v, p, c') := c.pageRead g (e.addr.setWidth 12)
          .commit (c'.modSprig g fun s => (s.setDP (fDst op) v p).applyUpd e.upd) {}
        | r => match c.loadBank g e.addr n with
          | .error x => x
          | .ok l => .commit (l.c.modSprig g fun s =>
              (((if r = Region.s then s.reportLease l.void else s).setDP (fDst op) (extend l.bytes signed) l.poison).applyUpd
                e.upd)) { steps := l.steps }

/-- A store of the n low bytes of a D register (R92). -/
def bodySt (g : SprigId) (op : BitVec 20) (n : Nat) (c : Core) : Res :=
  match (c.sprig g).ea op n false with
  | none => illegal c
  | some e =>
    c.useD g (fDst op :: e.idx) [] fun s =>
      match c.prepStore g e.addr (bytesOf (s.rd (fDst op)) n) 0 with
      | .error x => x
      | .ok o => .commit ((c.applyStore g o).modSprig g fun s => s.applyUpd e.upd) { steps := storeSteps e.addr n }

def execMov (g : SprigId) (gd : BitVec 4) (op : BitVec 20) (s : State) : Out := insn g gd 0x01 (bodyMov g op) s
def execLea (g : SprigId) (gd : BitVec 4) (op : BitVec 20) (s : State) : Out := insn g gd 0x05 (bodyLea g op) s
def execLdi (g : SprigId) (gd : BitVec 4) (op : BitVec 20) (s : State) : Out := insn g gd 0x02 (bodyLdi g op) s
def execLdih (g : SprigId) (gd : BitVec 4) (op : BitVec 20) (s : State) : Out := insn g gd 0x03 (bodyLdih g op) s
def execLdiA (g : SprigId) (gd : BitVec 4) (op : BitVec 20) (s : State) : Out := insn g gd 0x04 (bodyLdiA g op) s
def execLdB (g : SprigId) (gd : BitVec 4) (op : BitVec 20) (s : State) : Out := insn g gd 0x08 (bodyLd g op 1 false) s
def execLdBs (g : SprigId) (gd : BitVec 4) (op : BitVec 20) (s : State) : Out := insn g gd 0x09 (bodyLd g op 1 true) s
def execLdH (g : SprigId) (gd : BitVec 4) (op : BitVec 20) (s : State) : Out := insn g gd 0x0A (bodyLd g op 2 false) s
def execLdHs (g : SprigId) (gd : BitVec 4) (op : BitVec 20) (s : State) : Out := insn g gd 0x0B (bodyLd g op 2 true) s
def execLdW (g : SprigId) (gd : BitVec 4) (op : BitVec 20) (s : State) : Out := insn g gd 0x0C (bodyLd g op 4 false) s
def execStB (g : SprigId) (gd : BitVec 4) (op : BitVec 20) (s : State) : Out := insn g gd 0x10 (bodySt g op 1) s
def execStH (g : SprigId) (gd : BitVec 4) (op : BitVec 20) (s : State) : Out := insn g gd 0x11 (bodySt g op 2) s
def execStW (g : SprigId) (gd : BitVec 4) (op : BitVec 20) (s : State) : Out := insn g gd 0x12 (bodySt g op 4) s

end Sys2Proof.Machine
end

