-- ==== Sys2Proof/Machine/Control.lean ====
section
/-!
DEFINITION. Sys2Proof/Machine/Control.lean: control transfers, traps and the return from a frame (R66 to R71, R107, R108).
-/
namespace Sys2Proof.Machine

/-- The BR format's signed offset; bits [19:16] are reserved (R87). -/
def brOff (op : BitVec 20) : BitVec 16 := op.setWidth 16
def brReserved (op : BitVec 20) : Bool := decide (fDst op ≠ 0)

/-- BR: 1 X step; a taken branch's second is F's refetch, which SPG_CNT_FETCH counts (R46, R107). -/
def bodyBr (g : SprigId) (op : BitVec 20) (c : Core) : Res :=
  if brReserved op then illegal c
  else .commit c { npc := some ((c.sprig g).pc + brOff op) }

/-- BRL and BRLR push PC + 1 below A7 and go to the target (R107, R108). -/
def Core.call (c : Core) (g : SprigId) (target : BitVec 16) : Res :=
  let s := c.sprig g
  let a := s.ra 7 - 4
  match c.prepStore g a (bytesOf ((s.pc + 1).setWidth 32 : Word) 4) 0 with
  | .error r => r
  | .ok o => .commit ((c.applyStore g o).modSprig g fun s => s.setA 7 a) { steps := 3, npc := some target }

def bodyBrl (g : SprigId) (op : BitVec 20) (c : Core) : Res :=
  if brReserved op then illegal c else c.call g ((c.sprig g).pc + brOff op)

/-- BRR and BRLR name Ds in SRCA; DST, SRCB and AUX are reserved (R107). -/
def brrReserved (op : BitVec 20) : Bool := decide (fDst op ≠ 0 ∨ fSrcB op ≠ 0 ∨ fAux op ≠ 0)

def bodyBrr (g : SprigId) (op : BitVec 20) (c : Core) : Res :=
  if brrReserved op then illegal c
  else c.useD g [fSrcA op] [] fun s => .commit c { npc := some ((s.rd (fSrcA op)).setWidth 16) }

def bodyBrlr (g : SprigId) (op : BitVec 20) (c : Core) : Res :=
  if brrReserved op then illegal c
  else c.useD g [fSrcA op] [] fun s => c.call g ((s.rd (fSrcA op)).setWidth 16)

/-- RET ends: the popped word goes to PC and A7 rises by 4, unless the word is poisoned (R108). -/
def Core.popPc (c : Core) (g : SprigId) (w : Word) (poison : Bool) (upd : Sprig → Sprig) : Res :=
  let a := (c.sprig g).ra 7
  if poison then poisonFault c (some (a.setWidth 32))
  else .commit (c.modSprig g fun s => (upd s).setA 7 (a + 4)) { steps := 3, npc := some (w.setWidth 16) }

/-- RET pops through the ordinary load path. A poisoned word of a pop port faults before the port pops (R61). Through the far window it waits before COMMIT for the word. -/
def bodyRet (g : SprigId) (op : BitVec 20) (c : Core) : Res :=
  let s := c.sprig g
  let a := s.ra 7
  if op ≠ 0 then illegal c
  else if misaligned a 4 then alignFault c a
  else match regionOf a with
    | .f =>
      let t := s.farAddr a
      if s.farLoad.isSome || s.farStore.isSome then .stall c
      else if !c.farGrants g t false then (c.logRead (.sprig g) t).popPc g 0 false id
      else if !s.buf.isEmpty then .stall c
      else .stall (c.setSprig g { s with farLoad := some ⟨t, 4, false, .pc⟩ })
    | .c =>
      let (v, p, c') := c.pageRead g (a.setWidth 12)
      if p then c.popPc g v p id else c'.popPc g v p id
    | r => match c.loadBank g a 4 with
      | .error x => x
      | .ok l => l.c.popPc g (extend l.bytes false) l.poison
          (if r = Region.s then fun s => s.reportLease l.void else id)

/-- A value is still to be written into a frame slot (R70). -/
def Dest.isSlot : Dest → Bool
  | .slot _ _ => true
  | _ => false

def Sprig.slotsOpen (s : Sprig) : Bool :=
  (match s.farLoad with | some f => f.dst.isSlot | none => false)
    || (match s.div with | some x => x.dq.isSlot || x.dr.isSlot | none => false)
    || s.atomics.any fun t => t.dst.isSlot

/-- The state that RETI makes of a frame's words (R71): PC and MODE aside, which the ending carries. SW keeps VEC, the number of the last
vector taken. -/
def Sprig.unframe (s : Sprig) (w0 w1 d0 d1 d2 d3 : Word) : Sprig :=
  let s' := (((s.setDP 0 d0 (w0.getLsbD 24)).setDP 1 d1 (w0.getLsbD 25)).setDP 2 d2 (w0.getLsbD 26)).setDP 3 d3 (w0.getLsbD 27)
  { s'.setA 7 (s.ra 7 + 24) with
    p := (w0 >>> 16).setWidth 8
    sw := swWrite s.sw w1
    depth := s.depth - 1 }

/-- RETI reads its frame from A7 in the Y bank and waits for every frame slot that a return is to fill (R71). A frame that does not lie
in the Y bank takes ALIGN (log entry 5). -/
def bodyReti (g : SprigId) (op : BitVec 20) (c : Core) : Res :=
  let s := c.sprig g
  let a := s.ra 7
  let word (k : Nat) : Except Res Loaded := c.loadBank g (a + BitVec.ofNat 16 k) 4
  if op ≠ 0 then illegal c
  else if a.toNat < 0x6000 ∨ 0xC000 < a.toNat + 24 then alignFault c a
  else c.useD g [] [0, 1, 2, 3] fun s =>
    if s.slotsOpen then .stall c
    else match word 0, word 4, word 8, word 12, word 16, word 20 with
      | .ok x0, .ok x1, .ok x2, .ok x3, .ok x4, .ok x5 =>
        let w (l : Loaded) : Word := extend l.bytes false
        .commit (c.setSprig g (s.unframe (w x0) (w x1) (w x2) (w x3) (w x4) (w x5)))
          { steps := 8, npc := some ((w x0).setWidth 16), traced := false, now := some (rtimMode (s.written.getD s.mode) (swWrite s.sw (w x1))) }
      | .error r, _, _, _, _, _ => r
      | _, .error r, _, _, _, _ => r
      | _, _, .error r, _, _, _ => r
      | _, _, _, .error r, _, _ => r
      | _, _, _, _, .error r, _ => r
      | _, _, _, _, _, .error r => r

/-- A committed request for a vector, whose frame resumes at `npc` (R108): vector 5 enters HALTED instead while a debugger holds
halt-on-break (R66). -/
def Sprig.request (s : Sprig) (vec : BitVec 6) (npc : BitVec 16) : Sprig :=
  if decide (vec = 5) && s.req.haltOnBreak then { s with state := .halted }
  else { s with req := { s.req with rank1 := some vec, resume := npc } }

/-- A trap commits and requests its vector; the frame resumes at the next instruction (R108). -/
def Core.trapTo (c : Core) (g : SprigId) (vec : BitVec 6) : Res :=
  .commit (c.modSprig g fun s => s.request vec (s.pc + 1)) {}

def bodyTrap (g : SprigId) (op : BitVec 20) (c : Core) : Res :=
  if op &&& 0xFFFE0 ≠ 0 then illegal c else c.trapTo g (32#6 + (op.setWidth 5).setWidth 6)

/-- BKPT enters HALTED while a debugger holds halt-on-break (R66). -/
def bodyBkpt (g : SprigId) (op : BitVec 20) (c : Core) : Res :=
  if op ≠ 0 then illegal c else c.trapTo g 5

def execBr (g : SprigId) (gd : BitVec 4) (op : BitVec 20) (s : State) : Out := insn g gd 0x70 (bodyBr g op) s
def execBrl (g : SprigId) (gd : BitVec 4) (op : BitVec 20) (s : State) : Out := insn g gd 0x71 (bodyBrl g op) s
def execBrr (g : SprigId) (gd : BitVec 4) (op : BitVec 20) (s : State) : Out := insn g gd 0x72 (bodyBrr g op) s
def execBrlr (g : SprigId) (gd : BitVec 4) (op : BitVec 20) (s : State) : Out := insn g gd 0x73 (bodyBrlr g op) s
def execRet (g : SprigId) (gd : BitVec 4) (op : BitVec 20) (s : State) : Out := insn g gd 0x74 (bodyRet g op) s
def execReti (g : SprigId) (gd : BitVec 4) (op : BitVec 20) (s : State) : Out := insn g gd 0x75 (bodyReti g op) s
def execTrap (g : SprigId) (gd : BitVec 4) (op : BitVec 20) (s : State) : Out := insn g gd 0x76 (bodyTrap g op) s
def execBkpt (g : SprigId) (gd : BitVec 4) (op : BitVec 20) (s : State) : Out := insn g gd 0x77 (bodyBkpt g op) s

end Sys2Proof.Machine
end

