-- ==== Sys2Proof/Machine/FloatFam.lean ====
section
/-!
DEFINITION. Sys2Proof/Machine/FloatFam.lean: FP32 instructions (R98 to R100) and predicates (R101, R102).
-/
namespace Sys2Proof.Machine

/-- Dd = f Da Db rounded by MODE.FPRM; FP flags are only set (R98, R99). -/
def bodyFp (g : SprigId) (op : BitVec 20) (f : BitVec 2 → Word → Word → Word × FpFlags) (c : Core) : Res :=
  if fAux op ≠ 0 then illegal c
  else c.useD g [fSrcA op, fSrcB op] [fDst op] fun s =>
    let (r, fl) := f (modeFprm s.mode) (s.rd (fSrcA op)) (s.rd (fSrcB op))
    c.done g { s.setD (fDst op) r with sw := swFp s.sw fl } 2

def bodyFmac (g : SprigId) (op : BitVec 20) (c : Core) : Res :=
  if fAux op ≠ 0 then illegal c
  else c.useD g [fDst op, fSrcA op, fSrcB op] [fDst op] fun s =>
    let (r, fl) := fma (modeFprm s.mode) false (s.rd (fDst op)) (s.rd (fSrcA op)) (s.rd (fSrcB op))
    c.done g { s.setD (fDst op) r with sw := swFp s.sw fl } 3

def bodyFcvt (g : SprigId) (op : BitVec 20) (c : Core) : Res :=
  if fSrcB op ≠ 0 then illegal c
  else c.useD g [fSrcA op] [fDst op] fun s =>
    let x := fAux op
    let (r, fl) := fcvt (modeFprm s.mode) (x.setWidth 2) (x.getLsbD 2) ((x >>> 3).setWidth 5) (s.rd (fSrcA op))
    c.done g { s.setD (fDst op) r with sw := swFp s.sw fl } 2

def execFadd (g : SprigId) (gd : BitVec 4) (op : BitVec 20) (s : State) : Out := insn g gd 0x40 (bodyFp g op fadd) s
def execFsub (g : SprigId) (gd : BitVec 4) (op : BitVec 20) (s : State) : Out := insn g gd 0x41 (bodyFp g op fsub) s
def execFmul (g : SprigId) (gd : BitVec 4) (op : BitVec 20) (s : State) : Out := insn g gd 0x42 (bodyFp g op fmul) s
def execFmac (g : SprigId) (gd : BitVec 4) (op : BitVec 20) (s : State) : Out := insn g gd 0x43 (bodyFmac g op) s
def execFcvt (g : SprigId) (gd : BitVec 4) (op : BitVec 20) (s : State) : Out := insn g gd 0x44 (bodyFcvt g op) s

/-- The destination predicate is AUX[2:0]. -/
def fPd (op : BitVec 20) : BitVec 3 := op.setWidth 3

/-- CMP: AUX[7:4] is the condition; AUX[3] replaces Db by 0; DST reserved. Only a signalling NaN under an FP condition changes SW. -/
def bodyCmp (g : SprigId) (op : BitVec 20) (c : Core) : Res :=
  let x := fAux op
  let cc : BitVec 4 := (x >>> 4).setWidth 4
  if fDst op ≠ 0 ∨ (x.getLsbD 3 ∧ fSrcB op ≠ 0) ∨ 14 ≤ cc.toNat then illegal c
  else c.useD g (if x.getLsbD 3 then [fSrcA op] else [fSrcA op, fSrcB op]) [] fun s =>
    let a := s.rd (fSrcA op)
    let b := if x.getLsbD 3 then 0 else s.rd (fSrcB op)
    match cond cc a b with
    | none => illegal c
    | some r =>
      c.done g { s.setP (fPd op) r with sw := if condInv cc a b then putBit s.sw bitFinv true else s.sw } 1

def bodyTst (g : SprigId) (op : BitVec 20) (c : Core) : Res :=
  let x := fAux op
  if fDst op ≠ 0 ∨ x &&& 0xF0 ≠ 0 then illegal c
  else c.useD g [fSrcA op, fSrcB op] [] fun s =>
    c.done g (s.setP (fPd op) (decide (s.rd (fSrcA op) &&& s.rd (fSrcB op) ≠ 0) != x.getLsbD 3)) 1

/-- PAND and POR: Pb is inverted by AUX[4] (R101). -/
def bodyPP (g : SprigId) (op : BitVec 20) (f : Bool → Bool → Bool) (c : Core) : Res :=
  let x := fAux op
  if fDst op ≠ 0 ∨ x &&& 0xE8 ≠ 0 ∨ (fSrcA op).getLsbD 3 ∨ (fSrcB op).getLsbD 3 then illegal c
  else
    let s := c.sprig g
    c.done g (s.setP (fPd op)
      (f (s.rp ((fSrcA op).setWidth 3)) (s.rp ((fSrcB op).setWidth 3) != x.getLsbD 4))) 1

def bodyPnot (g : SprigId) (op : BitVec 20) (c : Core) : Res :=
  let x := fAux op
  if fDst op ≠ 0 ∨ x &&& 0xF8 ≠ 0 ∨ (fSrcA op).getLsbD 3 ∨ fSrcB op ≠ 0 then illegal c
  else
    let s := c.sprig g
    c.done g (s.setP (fPd op) (!s.rp ((fSrcA op).setWidth 3))) 1

def execCmp (g : SprigId) (gd : BitVec 4) (op : BitVec 20) (s : State) : Out := insn g gd 0x50 (bodyCmp g op) s
def execTst (g : SprigId) (gd : BitVec 4) (op : BitVec 20) (s : State) : Out := insn g gd 0x51 (bodyTst g op) s
def execPand (g : SprigId) (gd : BitVec 4) (op : BitVec 20) (s : State) : Out := insn g gd 0x52 (bodyPP g op and) s
def execPor (g : SprigId) (gd : BitVec 4) (op : BitVec 20) (s : State) : Out := insn g gd 0x53 (bodyPP g op or) s
def execPnot (g : SprigId) (gd : BitVec 4) (op : BitVec 20) (s : State) : Out := insn g gd 0x54 (bodyPnot g op) s

end Sys2Proof.Machine
end

