-- ==== Sys2Proof/Machine/MacFam.lean ====
section
/-!
DEFINITION. Sys2Proof/Machine/MacFam.lean: the MAC family (R103 to R106).
-/
namespace Sys2Proof.Machine

/-- MAC fields (R86). -/
def fAcc (op : BitVec 20) : BitVec 1 := (op >>> 19).setWidth 1
def fXa (op : BitVec 20) : BitVec 2 := (op >>> 17).setWidth 2
def fXm (op : BitVec 20) : BitVec 2 := (op >>> 15).setWidth 2
def fYa (op : BitVec 20) : BitVec 2 := (op >>> 13).setWidth 2
def fYm (op : BitVec 20) : BitVec 2 := (op >>> 11).setWidth 2
def fNeg (op : BitVec 20) : Bool := op.getLsbD 10

/-- An update's step: none, +4, −4, or the signed low half of D6 or D7 (R86). -/
def macStep (m : BitVec 2) (r : Word) : Int :=
  match m.toNat with | 0 => 0 | 1 => 4 | 2 => -4 | _ => (r.setWidth 16).toInt

/-- The two words of a MAC-format instruction with their base updates (R105). -/
structure MacIn where
  x : Word
  y : Word
  xa : BitVec 3
  ya : BitVec 3
  xUpd : BitVec 16
  yUpd : BitVec 16
  steps : Nat

/-- The operand fetches of R105: each operand wholly in its own bank, parity checked, split operands one step more. DESIGN CHOICE: where both
lie outside their banks, SPG_FAULT_ADDR takes the X operand's address (log entry 69). -/
def Core.macFetch (c : Core) (g : SprigId) (s : Sprig) (op : BitVec 20) : Except Res MacIn :=
  let xa : BitVec 3 := (fXa op).setWidth 3
  let ya : BitVec 3 := 4 + (fYa op).setWidth 3
  let ax := s.ra xa
  let ay := s.ra ya
  if 0x6000 < ax.toNat + 4 then .error (alignFault c ax)
  else if ay.toNat < 0x6000 ∨ 0xC000 < ay.toNat + 4 then .error (alignFault c ay)
  else match c.loadBank g ax 4 with
    | .error r => .error r
    | .ok lx => match c.loadBank g ay 4 with
      | .error r => .error r
      | .ok ly =>
        .ok ⟨wordOf lx.bytes, wordOf ly.bytes, xa, ya,
          if fXm op = 0 then ax else s.modulo xa (macStep (fXm op) (s.rd 6)),
          if fYm op = 0 then ay else BitVec.ofInt 16 ((ay.toNat : Int) + macStep (fYm op) (s.rd 7)),
          (if splits ax 4 then 1 else 0) + (if splits ay 4 then 1 else 0)⟩

/-- Registers that XM and YM read. -/
def macReads (op : BitVec 20) : List (BitVec 4) :=
  (if fXm op = 3#2 then [6#4] else []) ++ (if fYm op = 3#2 then [7#4] else [])

/-- A MAC-format instruction: `f` gives the accumulator, and SW, from the two words. -/
def bodyMacFmt (g : SprigId) (op : BitVec 20) (steps : Nat) (f : Sprig → BitVec 80 → Word → Word → BitVec 80 × Word)
    (c : Core) : Res :=
  if (op.setWidth 10 : BitVec 10) ≠ 0 ∨ fYa op = 3#2 then illegal c
  else c.useD g (macReads op) [] fun s =>
    match c.macFetch g s op with
    | .error r => r
    | .ok i =>
      let (ac, sw) := f s (s.rac (fAcc op)) i.x i.y
      c.done g { ((s.setAc (fAcc op) ac).setA i.xa i.xUpd).setA i.ya i.yUpd with sw := sw } (steps + i.steps)

/-- SW with SATS set when a lane was clipped (R106). -/
def swSats (sw : Word) (clip : Bool) : Word := if clip then putBit sw bitSats true else sw

def macBody (op : BitVec 20) (ySigned : Bool) (s : Sprig) (ac : BitVec 80) (x y : Word) : BitVec 80 × Word :=
  let (r, cl) := macSum ac x y (modeLane s.mode) ySigned (fNeg op) (modeSat s.mode)
  (r, swSats s.sw cl)

def macxBody (op : BitVec 20) (pk : BitVec 2) (s : Sprig) (ac : BitVec 80) (x y : Word) : BitVec 80 × Word :=
  let (r, cl) := macLanes ac x y pk (fNeg op) (modeSat s.mode)
  (r, swSats s.sw cl)

def fmacaBody (op : BitVec 20) (s : Sprig) (ac : BitVec 80) (x y : Word) : BitVec 80 × Word :=
  let (r, fl) := fma (modeFprm s.mode) (fNeg op) (ac.setWidth 32) x y
  (r.setWidth 80, swFp s.sw fl)

def execMac (g : SprigId) (gd : BitVec 4) (op : BitVec 20) (s : State) : Out :=
  insn g gd 0x60 (bodyMacFmt g op 1 (macBody op true)) s
def execMacs (g : SprigId) (gd : BitVec 4) (op : BitVec 20) (s : State) : Out :=
  insn g gd 0x61 (bodyMacFmt g op 1 (macBody op false)) s
def execMacx2 (g : SprigId) (gd : BitVec 4) (op : BitVec 20) (s : State) : Out :=
  insn g gd 0x62 (bodyMacFmt g op 1 (macxBody op 1)) s
def execMacx4 (g : SprigId) (gd : BitVec 4) (op : BitVec 20) (s : State) : Out :=
  insn g gd 0x63 (bodyMacFmt g op 1 (macxBody op 2)) s
def execFmaca (g : SprigId) (gd : BitVec 4) (op : BitVec 20) (s : State) : Out :=
  insn g gd 0x64 (bodyMacFmt g op 2 (fmacaBody op)) s

/-- DST[16] names the accumulator and DST[19:17] are reserved; PK and the amount in AUX (R104). -/
def fAcn (op : BitVec 20) : BitVec 1 := (op >>> 16).setWidth 1
def fPk (op : BitVec 20) : BitVec 2 := (op >>> 6).setWidth 2
def fAmt (op : BitVec 20) : BitVec 6 := op.setWidth 6

/-- CLRA (R104). DEDUCED: SRCA has a use in the row, so it is not reserved where AUX[0] is clear (R83; log entry 30). -/
def bodyClra (g : SprigId) (op : BitVec 20) (c : Core) : Res :=
  if (op >>> 17).setWidth 3 ≠ (0 : BitVec 3) ∨ fSrcB op ≠ 0 ∨ fAux op &&& 0xFE ≠ 0 then illegal c
  else if (fAux op).getLsbD 0 then
    c.useD g [fSrcA op] [] fun s => c.done g (s.setAc (fAcn op) ((s.rd (fSrcA op)).signExtend 80)) 1
  else c.done g ((c.sprig g).setAc (fAcn op) 0) 1

def bodyRnda (g : SprigId) (op : BitVec 20) (c : Core) : Res :=
  if (op >>> 17).setWidth 3 ≠ (0 : BitVec 3) ∨ fSrcA op ≠ 0 ∨ fSrcB op ≠ 0 ∨ fPk op = 3#2
      ∨ laneBits (fPk op) ≤ (fAmt op).toNat then illegal c
  else
    let s := c.sprig g
    c.done g (s.setAc (fAcn op) (rndAc (s.rac (fAcn op)) (fPk op) (modeRnd s.mode) (fAmt op).toNat)) 1

def bodyAsh (g : SprigId) (op : BitVec 20) (c : Core) : Res :=
  if (op >>> 17).setWidth 3 ≠ (0 : BitVec 3) ∨ fSrcA op ≠ 0 ∨ fSrcB op ≠ 0 ∨ fPk op = 3#2 then illegal c
  else
    let s := c.sprig g
    c.done g (s.setAc (fAcn op) (ashAc (s.rac (fAcn op)) (fPk op) (fAmt op).toInt)) 1

/-- STAS.M: DATA[19] the accumulator, DATA[18:17] PK, OFF[9:4] the shift; only AMODE 0, 1 and 2 (R104, R106). -/
def bodyStasM (g : SprigId) (op : BitVec 20) (c : Core) : Res :=
  let pk : BitVec 2 := (op >>> 17).setWidth 2
  let sh : BitVec 6 := (op >>> 4).setWidth 6
  if op.getLsbD 16 ∨ (op.setWidth 4 : BitVec 4) ≠ 0 ∨ (pk = 3#2 ∧ sh ≠ 0) then illegal c
  else match (c.sprig g).ea op 4 true with
    | none => illegal c
    | some e =>
      let s := c.sprig g
      let (w, cl) := stasWord (s.rac (fAcc op)) pk (modeRnd s.mode) (modeSat s.mode) sh.toNat
      match c.prepStore g e.addr (bytesOf w 4) 0 with
      | .error r => r
      | .ok o =>
        .commit ((c.applyStore g o).modSprig g fun s => { s.applyUpd e.upd with sw := swSats s.sw cl })
          { steps := 1 + storeSteps e.addr 4 }

/-- STAS.R: SRCA[0] the accumulator; PK and the shift in AUX. -/
def bodyStasR (g : SprigId) (op : BitVec 20) (c : Core) : Res :=
  if (op >>> 13).setWidth 3 ≠ (0 : BitVec 3) ∨ fSrcB op ≠ 0 ∨ (fPk op = 3#2 ∧ fAmt op ≠ 0) then illegal c
  else c.useD g [] [fDst op] fun s =>
    let (w, cl) := stasWord (s.rac ((op >>> 12).setWidth 1)) (fPk op) (modeRnd s.mode) (modeSat s.mode) (fAmt op).toNat
    c.done g { s.setD (fDst op) w with sw := swSats s.sw cl } 2

def execClra (g : SprigId) (gd : BitVec 4) (op : BitVec 20) (s : State) : Out := insn g gd 0x68 (bodyClra g op) s
def execRnda (g : SprigId) (gd : BitVec 4) (op : BitVec 20) (s : State) : Out := insn g gd 0x69 (bodyRnda g op) s
def execAsh (g : SprigId) (gd : BitVec 4) (op : BitVec 20) (s : State) : Out := insn g gd 0x6A (bodyAsh g op) s
def execStasM (g : SprigId) (gd : BitVec 4) (op : BitVec 20) (s : State) : Out := insn g gd 0x6B (bodyStasM g op) s
def execStasR (g : SprigId) (gd : BitVec 4) (op : BitVec 20) (s : State) : Out := insn g gd 0x6C (bodyStasR g op) s

end Sys2Proof.Machine
end

