-- ==== Sys2Proof/WellFormed.lean ====
section
/-!
DEFINITION. Sys2Proof/WellFormed.lean: which commands name only things that exist: units, channels, address regions, packet lengths. Every
other command is one that some sender can make; an ill-formed one faults (Fault.illFormed).
-/
namespace Sys2Proof

/-- The 288 capture channels: FIO0 to FIO255, then LV0 to LV31 (R226). -/
def captureExists (c : BitVec 9) : Bool := decide (c.toNat < 288)

/-- The deal units: the FIO pins, the eight Ethernet ports, the sixteen CoaXPress connections (R238). -/
def dealUnit (u : BitVec 16) : Bool :=
  decide (u.toNat < 0x108) || (decide (0x110 ≤ u.toNat) && decide (u.toNat < 0x120))

/-- SSI masters 0 to 31 and SPI masters 0 to 15 (R260). -/
def serialMaster (j : BitVec 6) : Bool := decide (j.toNat < 48)

/-- The 36 GDDR6 channels (R299). -/
def channelExists (c : Nat) : Bool := decide (c < 36)

/-- The parts that go through QUIESCE (R385, R386, R501): a SerDes group goes through it as the ports it serves, the core as its parts. -/
def Part.quiesces : Part → Bool
  | .channel k => channelExists k.toNat
  | .serdes _ => false
  | .core => false
  | _ => true

/-- The bytes that a request asks for or carries. -/
def MemReq.bytes (r : MemReq) : Nat :=
  match r.data with
  | some bs => bs.length
  | none => r.len.toNat

/-- The regions of the device address space (R37). -/
def between (a : Addr) (lo hi : Nat) : Bool := decide (lo ≤ a.toNat) && decide (a.toNat < hi)
def inLocals (a : Addr) : Bool := between a 0x4800000000 0x4810000000
def inStores (a : Addr) : Bool := between a 0x5000000000 0x5004000000 || between a 0x5040000000 0x5040200000
def inBlocks (a : Addr) : Bool := between a 0x6000000000 0x6002000000
def inMap (a : Addr) : Bool :=
  between a 0 0x2000000000 || between a 0x4000000000 0x4008000000 || inLocals a || inStores a || inBlocks a

/-- A register access names the register region, or a host function's BAR2 (R43, R337, R340). -/
def accessExists (m : Master) (a : Addr) (how : RegAcc) : Bool :=
  if how.window then (match m with | .host _ => decide (a.toNat < 0x1000) | _ => false) else inBlocks a

/-- The operand formats of R131: RR 0, RI 1, MEM 2, MAC 3, BR 4, SYS 5. The format of each vendor opcode that chapter 3 lists. -/
def vendorFmt (opc : Byte) : Option (BitVec 3) :=
  let n := opc.toNat
  if n = 0x01 ∨ (0x20 ≤ n ∧ n ≤ 0x30) ∨ (0x40 ≤ n ∧ n ≤ 0x44) ∨ (0x50 ≤ n ∧ n ≤ 0x54) ∨ n = 0x68 ∨ n = 0x69 ∨ n = 0x6A ∨ n = 0x6C
      ∨ n = 0x72 ∨ n = 0x73 ∨ n = 0x94 then some 0
  else if (0x02 ≤ n ∧ n ≤ 0x04) ∨ (0x38 ≤ n ∧ n ≤ 0x3B) then some 1
  else if n = 0x05 ∨ (0x08 ≤ n ∧ n ≤ 0x0C) ∨ (0x10 ≤ n ∧ n ≤ 0x12) ∨ n = 0x6B ∨ n = 0xA0 ∨ n = 0xA1 then some 2
  else if 0x60 ≤ n ∧ n ≤ 0x64 then some 3
  else if n = 0x70 ∨ n = 0x71 then some 4
  else if (0x74 ≤ n ∧ n ≤ 0x77) ∨ (0x80 ≤ n ∧ n ≤ 0x83) ∨ (0x90 ≤ n ∧ n ≤ 0x93) ∨ (0xB0 ≤ n ∧ n ≤ 0xB5) then some 5
  else none

/-- A well-formed command. -/
def Instr.wf : Instr → Bool
  | .captureEdge c .. => captureExists c
  | .timeCapPop _ c => captureExists c
  | .queueResetInstant _ cause => decide (1 ≤ cause.toNat) && decide (cause.toNat ≤ 5)
  | .commandFetch _ pkt .. => decide (pkt.length = 16)
  | .dealRelease u => dealUnit u
  | .pulseReturnEdge u => dealUnit u
  | .triggeredDealTake u => dealUnit u
  | .flush _ u => dealUnit u
  | .dealUerrRead _ u => dealUnit u
  | .quiesce p => p.quiesces
  | .unitFatal p _ => p.quiesces
  | .serialFrameStart j _ => serialMaster j
  | .serialGo _ j _ => serialMaster j
  | .serialFrameEnd j _ => serialMaster j
  | .serialDataRead _ j => serialMaster j
  | .gddrAccess r _ => decide (0 < r.bytes) && decide (r.addr.toNat + r.bytes ≤ 0x2000000000)
  | .correctedRewrite a => decide (a.toNat < 0x2000000000)
  | .scrub c _ => channelExists c
  | .memThermal c _ => channelExists c
  | .channelTraining c _ => channelExists c
  | .gdcEccRead _ c => channelExists c
  | .selfrefExit c => channelExists c
  | .watchCycle codes _ => decide (codes.length = 4)
  | .remoteRequest _ r => decide (0 < r.bytes) && decide (r.bytes ≤ 256)
  | .debugViewRead _ a => inLocals a
  | .debugViewWrite _ a _ => inLocals a
  | .controlStoreWrite _ a _ => inStores a
  | .unmappedRead _ a => !inMap a
  | .unmappedWrite _ a _ => !inMap a
  | .customerInstruction _ _ opc _ => (vendorFmt opc).isNone
  | .registerWrite m a _ how => accessExists m a how
  | .lowWordRead m a how => accessExists m a how
  | .mov .. | .lea .. | .ldi .. | .ldih .. | .ldiA .. | .ldB .. | .ldBs .. | .ldH .. | .ldHs .. | .ldW .. | .stB .. | .stH ..
  | .stW .. | .add .. | .sub .. | .andD .. | .orD .. | .xorD .. | .shl .. | .shr .. | .sar .. | .rot .. | .minD .. | .maxD ..
  | .absD .. | .negD .. | .clz .. | .sat .. | .mul .. | .div .. | .divResult .. | .addI .. | .andI .. | .orI .. | .xorI ..
  | .fadd .. | .fsub .. | .fmul .. | .fmac .. | .fcvt .. | .cmp .. | .tst .. | .pand .. | .por .. | .pnot .. | .mac ..
  | .macs .. | .macx2 .. | .macx4 .. | .fmaca .. | .clra .. | .rnda .. | .ash .. | .stasM .. | .stasR .. | .br .. | .brl ..
  | .brr .. | .brlr .. | .ret .. | .reti .. | .trap .. | .bkpt .. | .send .. | .recv .. | .recvUnblock .. | .recvFill ..
  | .recvNb .. | .fenceQ .. | .waitI .. | .waitWake .. | .evr .. | .evc .. | .rdt .. | .deal .. | .aadd .. | .aswp ..
  | .atomicResult .. | .mmode .. | .mmodeS .. | .mmodeC .. | .fenceI .. | .syncI .. | .halt ..
  | .farLoadReturn .. | .farStoreAccept .. | .storeBufferDrain .. | .interruptEntry .. | .frameSlotReturn .. | .spgQpopRead ..
  | .spgClaimRead .. | .bicComplete .. | .spgEvWrite .. | .spgDlarmWrite .. | .scratchAccess .. | .scrCe ..
  | .mailboxPortBAccess .. | .take .. | .leaseCopyDone .. | .leaseRevoke .. | .release .. | .ack .. | .secondPortAccess ..
  | .cardAccept .. | .ringToChainMove .. | .posyDispatch .. | .cardResolution .. | .creditReturn .. | .epochNotice ..
  | .qmgrQreset .. | .ringWalk .. | .deferredQueueReset .. | .posyHoldRelease .. | .hold .. | .hqpItailWrite ..
  | .hqpOheadWrite .. | .hqpInboundFetch .. | .hqpOutboundWrite .. | .timeRateWrite .. | .timeStepGo .. | .dtimeReload
  | .refChange .. | .timeQualityWrite .. | .holdoverUncertGrowth .. | .triggerSourceEvent .. | .eventLatchSet ..
  | .trigSwset .. | .trigSwclr .. | .timeCmpHiWrite .. | .timeCmpPerWrite .. | .comparatorFire .. | .timeDmDlWrite ..
  | .deadlineAutoArm .. | .deadlineSatisfy .. | .deadlineMiss .. | .dealCardAccept .. | .vcCapTick .. | .vcPeriodEnd | .vcFloor
  | .thermalCap .. | .fioOset .. | .fioOclr .. | .vioFault .. | .vioResume .. | .qdEdge .. | .qdPreset .. | .qdIndexEdge ..
  | .qdIdxRead .. | .qdSample .. | .ethTxq .. | .ethTxdWrite .. | .ethFrameStart .. | .ethDealtFrame .. | .ethFrameEnd ..
  | .qbvCycleStart .. | .ethFrameReceive .. | .ethLinkChange .. | .cxpFrameStart .. | .cxpLine .. | .cxpFrameEnd ..
  | .cxpTriggerPacket .. | .dmaSubmit .. | .dmaDescriptorDone .. | .bicArbitrate .. | .bicEnset .. | .bicEnclr ..
  | .bicTargetLeave .. | .hicMessage .. | .hicComplete .. | .msixUnmask .. | .functionLevelReset .. | .metRqctlGo ..
  | .metRequestDone | .metIdentify | .readResults | .metStart | .metStop | .zero .. | .tare .. | .readAudit | .ackAudit
  | .setParam | .sign | .islandRecord .. | .islandSignature .. | .islandReset .. | .islandStart .. | .sealTransition ..
  | .islandHeartbeat | .sprigCommandCard .. | .replySend .. | .identify .. | .status .. | .handOpen .. | .handSet ..
  | .handCheck .. | .handCommit .. | .handStaged .. | .handBoundaryEdge .. | .handCommitInstant .. | .handFold ..
  | .handRecall .. | .handStatus .. | .handLoad .. | .handDrainStart .. | .handTargetHalt .. | .handLoadTargets ..
  | .drainTimeout .. | .generationMirror | .settingRead .. | .systemPrepare .. | .systemVoteDeadline .. | .systemDecision ..
  | .isolatedCommit .. | .queueReset .. | .queueStatus .. | .cmdqCreate .. | .cmdqDelete .. | .pcieAdmqCfgWrite ..
  | .sprigLoad .. | .sprigStart .. | .sprigHalt .. | .sprigStep .. | .sprigReset .. | .timeRead .. | .timeStep ..
  | .timeSync .. | .timeQuality .. | .powerState .. | .powerEntry | .bunchHold .. | .watchCfg .. | .errRead .. | .freeze ..
  | .thaw .. | .tlSetId .. | .tlRoute .. | .tlStatus .. | .sysStatus .. | .attestQuote .. | .measRead .. | .certRead ..
  | .fwBegin .. | .fwChunk .. | .fwFinishStage .. | .fwFinishConfirm .. | .fwAbort .. | .errorCardSend | .errHostCopy
  | .errLogAckWrite .. | .errLostRead .. | .errHqHeadWrite .. | .quiesceCut .. | .quiesceDrained .. | .closeCard ..
  | .deviceFatal .. | .porstN .. | .sysrstN .. | .watchdogExpiry | .rstWdogKick .. | .rstUnit .. | .rstXstatRead ..
  | .resetRelease .. | .bootRom .. | .goRecord | .recoveryLoadFrame .. | .resume | .crossingResync .. | .asyncWake ..
  | .bunchIdleExpiry .. | .bunchGated .. | .firstAccess .. | .bunchWakeRelease .. | .pgoodTimeout | .powerUpRetry
  | .brownout .. | .wake .. | .offWake .. | .mgmtAddressMatch .. | .rtcAlarm | .dipStart .. | .dipEnd .. | .vauxLoss
  | .input48vLoss | .flitReceive .. | .nak .. | .tlTrainingDone .. | .idcheck .. | .tlLinkDown .. | .pairMessageAccept ..
  | .pairRetransmit .. | .heartbeat .. | .tlPeerLost .. | .pairSync .. | .timeExchange .. | .timeJoin .. | .tlRdmaSubmit ..
  | .rdmaDone .. | .secRbAdv .. | .secMeasExt .. | .otpOwnerHash .. | .otpRevokeOwner .. | .otpRevokeVendor ..
  | .otpDebugHash .. | .otpBootDis .. | .otpRecovDis .. | .retire .. | .monId | .monErr .. | .monTime | .unlock .. | .lock
  | .baud .. | .peek .. | .poke .. | .monHalt .. | .monStep .. | .monRun .. | .regs .. | .monQ .. | .pwr | .overrun
  | .serdesPllLoss .. | .cxpLinkChange .. | .preemptionVerification .. | .islandHeartbeatTimeout | .metDoneTimeout
  | .recoveryLoad .. | .latchHandshakeEnd .. | .pgoodRise | .viookReturn .. => true

end Sys2Proof
end

