-- ==== Sys2Proof/Machine/Micro.lean ====
section
/-!
DEFINITION. Sys2Proof/Machine/Micro.lean: customer instructions: the micro-routine that a customer slot's decode entry names runs
word by word (spec/04_microcode.md, R131 to R150, R156).
-/
namespace Sys2Proof.Machine

/-- A routine in progress. The core's sprig g holds the pending writes, which an abandoned routine loses (R146); `pend` numbers the
registers they name: D 0 to 15, A 16 to 23, M 24 to 27, AC 28 and 29, the predicates 30. `mode` is a MODE written with the shadow of R51,
`now` one that an RTIM put in force at once (R143). -/
structure Run where
  c : Core
  pend : List Nat := []
  mode : Option Word := none
  now : Option Word := none
  next : Option (BitVec 16) := none
  committed : Bool := false
  tail : Nat := 0
  steps : Nat := 0
  vreq : Option (BitVec 6) := none
  halt : Bool := false

/-- What a routine runs with: its sprig, the instruction word, the registers SB selects. -/
structure Env where
  g : SprigId
  ir : Word
  sb : List (BitVec 4)

def Env.op (e : Env) : BitVec 20 := e.ir.setWidth 20
/-- The D register in a field of IR. -/
def Env.dst (e : Env) : BitVec 4 := fDst e.op
def Env.srcA (e : Env) : BitVec 4 := fSrcA e.op
def Env.srcB (e : Env) : BitVec 4 := fSrcB e.op
def Env.base (e : Env) : BitVec 3 := fBase e.op

/-- The registers that an entry's SB field selects (R132). -/
def sbRegs (ir : Word) (sb : BitVec 6) : List (BitVec 4) :=
  let op : BitVec 20 := ir.setWidth 20
  let named := (if sb.getLsbD 0 then [fDst op] else []) ++ (if sb.getLsbD 1 then [fSrcA op] else [])
  named ++ (if sb.getLsbD 2 then [fSrcB op] else []) ++ (if sb.getLsbD 3 then named.map nextReg else [])
    ++ (if sb.getLsbD 4 then cardRegs else []) ++ (if sb.getLsbD 5 then [6, 7] else [])

def Run.s (r : Run) (e : Env) : Sprig := r.c.sprig e.g
/-- The sprig changed. -/
def Run.upd (r : Run) (e : Env) (f : Sprig → Sprig) : Run := { r with c := r.c.modSprig e.g f }
def Run.micro (r : Run) (e : Env) (f : Micro → Micro) : Run := r.upd e fun s => { s with micro := f s.micro }

/-- One more pending write; a ninth takes ILLEGAL (R146). -/
def Run.addPend (r : Run) (k : Nat) : Except Res Run :=
  if r.committed ∨ k ∈ r.pend then .ok r
  else if 8 ≤ r.pend.length then .error (illegal r.c)
  else .ok { r with pend := k :: r.pend }

/-- A D register may be touched: before COMMIT a set scoreboard bit stalls; in the tail it, or a register that SB does not select, ends
the tail (R132, R148). -/
def Run.touch (r : Run) (e : Env) (i : BitVec 4) : Except Res Unit :=
  if (r.s e).board.getLsbD i.toNat || (r.committed && !(e.sb.contains i)) then .error (.stall r.c) else .ok ()

def Run.readD (r : Run) (e : Env) (i : BitVec 4) : Except Res Word := do
  r.touch e i
  if (r.s e).tags.getLsbD i.toNat then .error (poisonFault r.c none) else .ok ((r.s e).rd i)

def Run.writeD (r : Run) (e : Env) (i : BitVec 4) (v : Word) (poison : Bool) : Except Res Run := do
  r.touch e i
  let r ← r.addPend i.toNat
  .ok (r.upd e fun s => s.setDP i v poison)

def Run.writeA (r : Run) (e : Env) (i : BitVec 3) (v : BitVec 16) : Except Res Run := do
  let r ← r.addPend (16 + i.toNat)
  .ok (r.upd e fun s => s.setA i v)

def Run.writeAc (r : Run) (e : Env) (i : BitVec 1) (v : BitVec 80) : Except Res Run := do
  let r ← r.addPend (28 + i.toNat)
  .ok (r.upd e fun s => s.setAc i v)

def Run.writeP (r : Run) (e : Env) (f : Sprig → Sprig) : Except Res Run := do
  let r ← r.addPend 30
  .ok (r.upd e f)

def Run.setSw (r : Run) (e : Env) (v : Word) : Run := r.upd e fun s => { s with sw := v }

/-- MODE as the routine reads it: the latest it wrote, else the one in force (R143, R146). -/
def Run.modeRead (r : Run) (e : Env) : Word := r.mode.getD (r.now.getD (r.s e).mode)

/-- The D register a selector names (R135). -/
def selD (e : Env) (sel : BitVec 5) : Option (BitVec 4) :=
  match sel.toNat with
  | 4 => some e.dst
  | 5 => some (nextReg e.dst)
  | 6 => some e.srcA
  | 7 => some e.srcB
  | 8 => some (nextReg e.srcA)
  | 9 => some 6
  | 10 => some 7
  | _ => none

/-- An operand read (R135). -/
def Run.get (r : Run) (e : Env) (sel : BitVec 5) : Except Res Word :=
  match selD e sel with
  | some i => r.readD e i
  | none =>
    let s := r.s e
    match sel.toNat with
    | 0 => .ok s.micro.t[0]
    | 1 => .ok s.micro.t[1]
    | 2 => .ok s.micro.t[2]
    | 3 => .ok s.micro.t[3]
    | 0x0B => .ok ((s.ra e.base).setWidth 32)
    | 0x0C => .ok ((s.ra ((e.op >>> 16).setWidth 3)).setWidth 32)
    | 0x0D => .ok ((s.ra 7).setWidth 32)
    | 0x0E => .ok (if e.base.getLsbD 2 then 0 else (s.rm (e.base.setWidth 2)).setWidth 32)
    | 0x0F => .ok s.sw
    | 0x10 => .ok (r.modeRead e)
    | 0x11 => .ok (s.pc.setWidth 32)
    | 0x12 => .ok ((e.ir.setWidth 16 : BitVec 16).signExtend 32)
    | 0x13 => .ok ((e.ir.setWidth 16 : BitVec 16).setWidth 32)
    | 0x14 => .ok ((e.ir.setWidth 10 : BitVec 10).signExtend 32)
    | 0x15 => .ok ((e.ir.setWidth 8 : BitVec 8).setWidth 32)
    | 0x16 => .ok ((e.ir.setWidth 12 : BitVec 12).setWidth 32)
    | 0x17 => .ok (s.micro.addr.setWidth 32)
    | 0x18 => .ok (s.pImage.setWidth 32)
    | 0x19 => .ok 0
    | 0x1A => .ok 1
    | 0x1B => .ok 4
    | 0x1C => .ok 0xFFFFFFFF#32
    | 0x1D => .ok e.ir
    | _ => .error (illegal r.c)

/-- An operand write (R135). A value that arrived poisoned goes to a D register with its tag. -/
def Run.put (r : Run) (e : Env) (sel : BitVec 5) (v : Word) (poison : Bool) : Except Res Run :=
  match selD e sel with
  | some i => r.writeD e i v poison
  | none =>
    match sel.toNat with
    | 0 => .ok (r.micro e fun m => { m with t := m.t.set 0 v })
    | 1 => .ok (r.micro e fun m => { m with t := m.t.set 1 v })
    | 2 => .ok (r.micro e fun m => { m with t := m.t.set 2 v })
    | 3 => .ok (r.micro e fun m => { m with t := m.t.set 3 v })
    | 0x0B => r.writeA e e.base (v.setWidth 16)
    | 0x0C => r.writeA e ((e.op >>> 16).setWidth 3) (v.setWidth 16)
    | 0x0D => r.writeA e 7 (v.setWidth 16)
    | 0x0E =>
      if e.base.getLsbD 2 then .error (illegal r.c)
      else do
        let r ← r.addPend (24 + (e.base.setWidth 2 : BitVec 2).toNat)
        .ok (r.upd e fun s => s.setM (e.base.setWidth 2) (v.setWidth 16))
    | 0x0F => .ok (r.setSw e (swWrite (r.s e).sw v))
    | 0x11 => .ok { r with next := some (v.setWidth 16) }
    | 0x17 => .ok (r.micro e fun m => { m with addr := v.setWidth 16 })
    | 0x18 => r.writeP e fun s => { s with p := v.setWidth 8 }
    | _ => .error (illegal r.c)

/-- The result conditions after an ALU or ARITH result (R138). -/
def Micro.result (m : Micro) (o : AluOut) : Micro :=
  { m with az := decide (o.r = 0), an := o.r.msb, ac := o.c.getD false, av := o.v.getD false, aclip := o.clip }

/-- The conditions of R138. -/
def Run.cond (r : Run) (e : Env) (k : BitVec 5) : Except Res Bool :=
  let s := r.s e
  let m := s.micro
  match k.toNat with
  | 0 => .ok true
  | 1 => .ok (s.sw.getLsbD bitZ)
  | 2 => .ok (s.sw.getLsbD bitN)
  | 3 => .ok (s.sw.getLsbD bitC)
  | 4 => .ok (s.sw.getLsbD bitV)
  | 5 => .ok m.az
  | 6 => .ok m.an
  | 7 => .ok m.ac
  | 8 => .ok m.av
  | 9 => .ok m.aclip
  | 10 => .ok (decide (m.t[0] = 0))
  | 11 => .ok m.t[0].msb
  | 12 => .ok (decide (m.t[1] = 0))
  | 13 => .ok m.t[1].msb
  | 14 => .ok (m.t[2].getLsbD 0)
  | 15 => .ok (decide (m.t[3] = 0))
  | 16 => .ok (modeSat s.mode)
  | 17 => .ok (decide (modeLane s.mode = 1))
  | 18 => .ok (decide (modeLane s.mode = 2))
  | 19 => .ok m.split
  | 20 => .ok (decide (regionOf m.addr = .x))
  | 21 => .ok (decide (regionOf m.addr = .y))
  | 22 => .ok (decide (regionOf m.addr = .s))
  | 23 => .ok (decide (regionOf m.addr = .f))
  | 24 => .ok (decide (regionOf m.addr = .c))
  | 25 => .ok (!e.base.getLsbD 2 && decide (s.rm (e.base.setWidth 2) ≠ 0))
  | 26 => .ok (decide ((r.c.queue (queueAt e.g (e.srcA.setWidth 3))).count ≠ 0))
  | 27 => .ok (decide (1 ≤ (r.c.chan e.g e.srcA).credit))
  | 28 => do
    let v ← r.readD e e.srcB
    .ok (decide (v = 0))
  | 29 => .ok (e.ir.getLsbD 0)
  | 30 => .ok m.unord
  | _ => .ok m.llost

/-- The ALU operations (R139). -/
def microAlu (aop : BitVec 5) (a b : Word) (cin sat : Bool) : Option AluOut :=
  match aop.toNat with
  | 0x00 => some (aluAdd a b false sat)
  | 0x01 => some (aluAdd a b cin sat)
  | 0x02 => some (aluSub a b sat)
  | 0x03 => some (aluAdd a b false true)
  | 0x04 => some (aluSub a b true)
  | 0x05 => some (aluLogic (a &&& b))
  | 0x06 => some (aluLogic (a ||| b))
  | 0x07 => some (aluLogic (a ^^^ b))
  | 0x08 => some (aluShl a (b.setWidth 6))
  | 0x09 => some (aluShr a (b.setWidth 6))
  | 0x0A => some (aluSar a (b.setWidth 6))
  | 0x0B => some (aluRot a (b.setWidth 6))
  | 0x0C => some (aluMin false a b)
  | 0x0D => some (aluMax false a b)
  | 0x0E => some (aluMin true a b)
  | 0x0F => some (aluMax true a b)
  | 0x10 => some (aluAbs a)
  | 0x11 => some (aluNeg a)
  | 0x12 => some (aluClz a)
  | 0x13 => some (aluClips a b)
  | 0x14 => some (aluSatTo a (b.setWidth 5) false)
  | 0x15 => some (aluSatTo a (b.setWidth 5) true)
  | 0x16 => some { r := a }
  | 0x17 => some { r := (b.setWidth 16 : BitVec 16) ++ (a.setWidth 16 : BitVec 16) }
  | 0x18 => some { r := (a.setWidth 8 : Byte).signExtend 32 }
  | 0x19 => some { r := (a.setWidth 16 : BitVec 16).signExtend 32 }
  | 0x1A => some { r := a * b }
  | 0x1B => some { r := (mul64 false a b >>> 32).setWidth 32 }
  | 0x1C => some { r := (mul64 true a b >>> 32).setWidth 32 }
  | _ => none

/-- SW under FMASK: each flag the mask names takes the result's, where the operation gives one (R95, R139). DESIGN CHOICE: Z and N after MULLO,
MULHI and MULHIU are those of the word written, where MUL's are those of the 64-bit product (log entry 69). -/
def swMasked (sw : Word) (o : AluOut) (mask : BitVec 4) (ss : Bool) : Word :=
  let s := if mask.getLsbD 3 then putBit sw bitZ (decide (o.r = 0)) else sw
  let s := if mask.getLsbD 2 then putBit s bitN o.r.msb else s
  let s := match o.c with | some b => if mask.getLsbD 1 then putBit s bitC b else s | none => s
  let s := match o.v with | some b => if mask.getLsbD 0 then putBit s bitV b else s | none => s
  if ss && o.clip then putBit s bitSats true else s

/-- A field of a microword. -/
def uf (w : Word) (lo n : Nat) : BitVec n := (w >>> lo).setWidth n

/-- Micro-ops that change state outside the routine stand only in the C word (R147). -/
def Run.onlyAtC (r : Run) (atC : Bool) : Except Res Unit := if atC && !r.committed then .ok () else .error (illegal r.c)

/-- The step's outcome: the routine after it and the address it goes to, when not the next. -/
abbrev Micro1 := Except Res (Run × Option (BitVec 12))

def stay (x : Except Res Run) : Micro1 := do
  let r ← x
  .ok (r, none)

/-- The core of an instruction's effect, which the routine goes on from. -/
def Run.apply (r : Run) (x : Res) : Except Res Run :=
  match x with
  | .commit c _ => .ok { r with c := c }
  | y => .error y

def Run.addSteps (r : Run) (n : Nat) : Run := { r with steps := r.steps + n }

/-- SEQ words (R137). -/
def Run.seq (r : Run) (e : Env) (w : Word) (ua : BitVec 12) (atC : Bool) : Micro1 :=
  let addr : BitVec 12 := uf w 12 12
  let arg : BitVec 10 := uf w 2 10
  match (uf w 24 4).toNat with
  | 0 => .ok (r, none)
  | 1 => .ok (r, some addr)
  | 2 => .ok (r.micro e fun m => { m with ulr := ua + 1 }, some addr)
  | 3 => .ok (r, some (r.s e).micro.ulr)
  | 4 =>
    let v := (arg.setWidth 3 : BitVec 3).toNat
    if w.getLsbD 1 || !(decide (1 ≤ v ∧ v ≤ 4)) then .error (illegal r.c)
    else .error (.fault r.c (BitVec.ofNat 6 v) (BitVec.ofNat 32 v) none)
  | 5 =>
    let v : BitVec 6 := arg.setWidth 6
    if v ≠ 5 ∧ v.toNat < 32 then .error (illegal r.c)
    else if atC || r.committed then .ok ({ r with vreq := some v }, none)
    else .error (illegal r.c)
  | 6 => if r.c.wakeCondition e.g then .ok (r, none) else .error (.stall r.c)
  | 7 => do
    r.onlyAtC atC
    .ok ({ r with halt := true }, none)
  | 8 =>
    let sel := (arg.setWidth 2 : BitVec 2)
    if sel = 0 then .error (illegal r.c)
    else
      let s := r.s e
      if (sel ≠ 2 ∧ !s.storesSettled) ∨ (sel ≠ 1 ∧ !r.c.sendsSettled e.g) ∨ (sel = 3 ∧ s.board ≠ 0) then .error (.stall r.c)
      else .ok (r, none)
  | _ => .error (illegal r.c)

/-- BRANCH words (R138). -/
def Run.branch (r : Run) (e : Env) (w : Word) : Micro1 :=
  if uf w 2 8 ≠ 0 then .error (illegal r.c)
  else do
    let b ← r.cond e (uf w 22 5)
    .ok (r, if b != w.getLsbD 27 then some (uf w 10 12) else none)

/-- The operations of one operand, for which BSEL names nothing: ABS, NEG, CLZ, PASS, SEXT8 and SEXT16 (R139). -/
def oneOperand (aop : BitVec 5) : Bool :=
  match aop.toNat with
  | 0x10 => true | 0x11 => true | 0x12 => true | 0x16 => true | 0x18 => true | 0x19 => true
  | _ => false

/-- ALU words (R139). -/
def Run.alu (r : Run) (e : Env) (w : Word) : Micro1 := stay do
  let a ← r.get e (uf w 13 5)
  let b ← if oneOperand (uf w 23 5) then .ok 0 else r.get e (uf w 8 5)
  let s := r.s e
  match microAlu (uf w 23 5) a b (s.sw.getLsbD bitC) (w.getLsbD 3 && modeSat s.mode) with
  | none => .error (illegal r.c)
  | some o =>
    let r ← r.put e (uf w 18 5) o.r false
    .ok ((r.micro e fun m => m.result o).setSw e (swMasked (r.s e).sw o (uf w 4 4) (w.getLsbD 2)))

/-- A result of the FP datapath. ACLIP speaks of the last ALU result alone (R138). -/
def Run.fp (r : Run) (e : Env) (dsel : BitVec 5) (x : Word × FpFlags) : Except Res Run := do
  let r ← r.put e dsel x.1 false
  .ok ((r.micro e fun m => { m.result { r := x.1 } with aclip := m.aclip }).setSw e (swFp (r.s e).sw x.2))

/-- DIVS and DIVU: to D[IR[19:16]] or SRCA and the register after it. -/
def Run.divide (r : Run) (e : Env) (atC : Bool) (dsel : BitVec 5) (u : Bool) (a b : Word) : Except Res Run := do
  r.onlyAtC atC
  match selD e dsel with
  | none => .error (illegal r.c)
  | some d =>
    if dsel ≠ 4 ∧ dsel ≠ 6 then .error (illegal r.c)
    else
      r.touch e d
      r.touch e (nextReg d)
      if b = 0 then .error (.fault r.c vecDiv0 0x04 none)
      else if (r.s e).div.isSome then .error (.stall r.c)
      else
        let (q, m) := Machine.divide u a b
        .ok (r.upd e fun s => { s with
          div := some ⟨q, m, .reg d, .reg (nextReg d)⟩
          board := putBit (putBit s.board d.toNat true) (nextReg d).toNat true })

/-- ARITH words (R140). -/
def Run.arith (r : Run) (e : Env) (w : Word) (atC : Bool) : Micro1 := stay do
  let dsel : BitVec 5 := uf w 18 5
  let rm := modeFprm (r.s e).mode
  let a ← r.get e (uf w 13 5)
  match (uf w 23 5).toNat with
  | 0 => let b ← r.get e (uf w 8 5); r.fp e dsel (fadd rm a b)
  | 1 => let b ← r.get e (uf w 8 5); r.fp e dsel (fsub rm a b)
  | 2 => let b ← r.get e (uf w 8 5); r.fp e dsel (fmul rm a b)
  | 3 =>
    let b ← r.get e (uf w 8 5)
    let d ← r.get e dsel
    r.fp e dsel (fma rm false d a b)
  | 4 =>
    let ctl : BitVec 6 := uf w 2 6
    let aux : Byte := e.ir.setWidth 8
    r.fp e dsel (if ctl.getLsbD 0 then fcvt rm (aux.setWidth 2) (aux.getLsbD 2) ((aux >>> 3).setWidth 5) a
      else fcvt rm 0 false ((ctl >>> 1).setWidth 5) a)
  | 5 =>
    let b ← r.get e (uf w 8 5)
    let t (k : BitVec 4) : Bool := (Sys2Proof.Machine.cond k a b).getD false
    let r := r.micro e fun m => { m with az := t 0xA, an := t 0xB, unord := t 0xD }
    .ok (if condInv 0xA a b then r.setSw e (putBit (r.s e).sw bitFinv true) else r)
  | 6 =>
    let b ← r.get e (uf w 8 5)
    r.divide e atC dsel false a b
  | 7 =>
    let b ← r.get e (uf w 8 5)
    r.divide e atC dsel true a b
  | _ => .error (illegal r.c)
/-- Access sizes: byte, halfword, word. -/
def microSize (k : BitVec 2) : Nat := match k.toNat with | 0 => 1 | 1 => 2 | _ => 4

/-- The address ASRC names. -/
def Run.asrc (r : Run) (e : Env) (k : BitVec 3) : Except Res (BitVec 16) :=
  let s := r.s e
  match k.toNat with
  | 0 => .ok s.micro.addr
  | 1 => .ok (s.micro.addr + 4)
  | 2 => .ok (s.micro.t[3].setWidth 16)
  | 3 => .ok (s.ra 7 - 4)
  | 4 => .ok (s.ra 7)
  | _ => .error (illegal r.c)

/-- AGEN and AGENN (R141). A mode without a displacement leaves OFF to the routine's other fields. -/
def Run.agen (r : Run) (e : Env) (n : Nat) (upd : Bool) : Except Res Run := do
  match (r.s e).ea e.op n false true with
  | none => .error (illegal r.c)
  | some x =>
    let _ ← x.idx.mapM fun i => r.readD e i
    let r := r.micro e fun m => { m with addr := x.addr, split := splits x.addr n }
    match x.upd with
    | none => .ok r
    | some (b, v) => if upd then r.writeA e b v else .ok r

/-- A control-page word whose read pops or claims (R61). -/
def popsOrClaims (off : BitVec 12) : Bool :=
  (decide (off.toNat < 0x100) && decide (off.toNat % 0x20 = 0)) || decide (off = 0x600)

/-- The datum of a load goes to DSEL. Only a D register can hold poison: any other destination takes PARITY with detail POISON, as
RET's PC does (R53, R108; log entry 6). -/
def Run.loaded (r : Run) (e : Env) (dsel : BitVec 5) (a : BitVec 16) (v : Word) (poison : Bool) : Except Res Run :=
  if poison && (selD e dsel).isNone then .error (poisonFault r.c (some (a.setWidth 32))) else r.put e dsel v poison

/-- A value that a far load or atomic returned to the waiting routine goes to DSEL. -/
def Run.arrived (r : Run) (e : Env) (dsel : BitVec 5) (a : BitVec 16) (v : Word × Bool) : Except Res Run :=
  (r.upd e fun s => { s with held := none }).loaded e dsel a v.1 v.2

/-- A far-window LD to a destination that is no D register: no scoreboard guards it, so the routine waits before its COMMIT for the word,
as RET does (R57, R108, R141; log entry 73). -/
def Run.farLoadHeld (r : Run) (e : Env) (dsel : BitVec 5) (a : BitVec 16) (n : Nat) (sx : Bool) : Except Res Run := do
  let _ ← r.put e dsel 0 false
  let s := r.s e
  let t := s.farAddr a
  if inRegs t && decide (n ≠ 4) then .error (alignFault r.c a)
  else match s.held with
    | some v => r.arrived e dsel a v
    | none =>
      if s.farLoad.isSome || s.farStore.isSome then .error (.stall r.c)
      else if !r.c.farGrants e.g t false then ({ r with c := r.c.logRead (.sprig e.g) t } : Run).loaded e dsel a 0 false
      else if !s.buf.isEmpty then .error (.stall r.c)
      else .error (.stall (r.c.modSprig e.g fun s => { s with farLoad := some ⟨t, n, sx, .hold⟩ }))

/-- An ending before COMMIT that leaves the core as `c` has it: nothing has been popped or claimed (R61, R147). -/
def Res.onto (x : Res) (c : Core) : Res :=
  match x with
  | .commit _ e => .commit c e
  | .stall _ => .stall c
  | .recv _ q => .recv c q
  | .sleep => .sleep
  | .fault _ v d a => .fault c v d a
  | .freeze _ k a => .freeze c k a

/-- LD (R141). -/
def Run.ld (r : Run) (e : Env) (w : Word) (a : BitVec 16) (atC : Bool) : Except Res Run := do
  let n := microSize (uf w 22 2)
  let sx := w.getLsbD 21
  let dsel : BitVec 5 := uf w 16 5
  if misaligned a n then .error (alignFault r.c a)
  else match regionOf a with
    | .f =>
      r.onlyAtC atC
      match selD e dsel with
      | none => r.farLoadHeld e dsel a n sx
      | some d =>
        r.touch e d
        r.apply (r.c.farLoadD e.g (r.s e) a n sx d none)
    | .c =>
      let off : BitVec 12 := a.setWidth 12
      if popsOrClaims off then r.onlyAtC atC
      match selD e dsel with
      | some d => r.touch e d
      | none => .ok ()
      let (v, p, c) := r.c.pageRead e.g off
      match ({ r with c := c } : Run).loaded e dsel a v p with
      | .ok r' => .ok r'
      | .error x => .error (x.onto r.c)
    | k => match r.c.loadBank e.g a n with
      | .error x => .error x
      | .ok l =>
        let r := { r with c := l.c }.addSteps (l.steps - 1)
        let r := if k = Region.s then r.upd e fun s => s.reportLease l.void else r
        r.loaded e dsel a (extend l.bytes sx) l.poison

/-- STG (R141): staged entries stand uncommitted in the routine's own copy of the store buffer. -/
def Run.stg (r : Run) (e : Env) (w : Word) (a : BitVec 16) (atC : Bool) : Except Res Run := do
  let n := microSize (uf w 22 2)
  let v ← r.get e (uf w 16 5)
  if regionOf a = .f ∨ regionOf a = .c then r.onlyAtC atC
  match r.c.prepStore e.g a (bytesOf v n) 0 with
  | .error x => .error x
  | .ok o => .ok ({ r with c := r.c.applyStore e.g o }.addSteps (storeSteps a n - 1))

/-- An atomic whose operand and result stand in no D register: the routine waits before its COMMIT for the old value (log entry 73). -/
def Run.atomicHeld (r : Run) (e : Env) (dsel : BitVec 5) (a : BitVec 16) (swap : Bool) : Except Res Run := do
  let _ ← r.put e dsel 0 false
  let v ← r.get e dsel
  match (r.s e).held with
  | some x => r.arrived e dsel a x
  | none => match r.c.atomicCheck e.g (r.s e) a with
    | .error x => .error x
    | .ok (some p) => (r.upd e fun s => s.reportLease (some p)).loaded e dsel a 0 false
    | .ok none => .error (.stall (r.c.modSprig e.g fun s => s.atomicOut a swap v .hold))

/-- AADD and ASWP: operand and result in DSEL (R141). -/
def Run.atomic (r : Run) (e : Env) (atC : Bool) (w : Word) (a : BitVec 16) (swap : Bool) : Except Res Run := do
  r.onlyAtC atC
  match selD e (uf w 16 5) with
  | none => r.atomicHeld e (uf w 16 5) a swap
  | some d =>
    let _ ← r.readD e d
    r.apply (r.c.issueAtomic e.g (r.s e) a swap d)

/-- MEM words (R141). -/
def Run.memOp (r : Run) (e : Env) (w : Word) (atC : Bool) : Micro1 := stay do
  if uf w 2 11 ≠ 0 ∨ (uf w 22 2 : BitVec 2) = 3 then .error (illegal r.c)
  else
    let n := microSize (uf w 22 2)
    let k : BitVec 3 := uf w 13 3
    let a ← r.asrc e k
    match (uf w 24 4).toNat with
    | 0 => if k ≠ 0 then .error (illegal r.c) else r.agen e n true
    | 1 => r.ld e w a atC
    | 2 => r.stg e w a atC
    | 3 => r.atomic e atC w a false
    | 4 => r.atomic e atC w a true
    | 5 => if k ≠ 0 then .error (illegal r.c) else r.agen e n false
    | _ => .error (illegal r.c)
/-- The accumulating micro-ops fetch as R105, from IR's MAC fields. -/
def Run.macFetched (r : Run) (e : Env) (n : BitVec 1) (f : Sprig → BitVec 80 → Word → Word → BitVec 80 × Word) :
    Except Res Run := do
  if r.committed ∨ fYa e.op = 3 then .error (illegal r.c)
  else
    let _ ← (macReads e.op).mapM fun i => r.readD e i
    match r.c.macFetch e.g (r.s e) e.op with
    | .error x => .error x
    | .ok i =>
      let (ac, sw) := f (r.s e) ((r.s e).rac n) i.x i.y
      let r ← r.writeAc e n ac
      let r ← if fXm e.op = 0 then .ok r else r.writeA e i.xa i.xUpd
      let r ← if fYm e.op = 0 then .ok r else r.writeA e i.ya i.yUpd
      .ok ((r.setSw e sw).addSteps i.steps)

/-- MAC words (R142). -/
def Run.mac (r : Run) (e : Env) (w : Word) : Micro1 := stay do
  let lay := w.getLsbD 13
  let pk : BitVec 2 := if lay then uf e.ir 17 2 else uf e.ir 6 2
  let sh : BitVec 6 := if lay then uf e.ir 4 6 else uf e.ir 0 6
  let acn : BitVec 2 := uf w 11 2
  let n : BitVec 1 := match acn.toNat with | 0 => uf e.ir 19 1 | 1 => uf e.ir 16 1 | _ => uf e.ir 12 1
  let s := r.s e
  let ac := s.rac n
  if uf w 2 9 ≠ 0 ∨ acn = 3 then .error (illegal r.c)
  else match (uf w 24 4).toNat with
    | 0 => r.macFetched e n (macBody e.op true)
    | 1 => r.macFetched e n (macBody e.op false)
    | 2 => r.macFetched e n (macxBody e.op 1)
    | 3 => r.macFetched e n (macxBody e.op 2)
    | 4 => r.macFetched e n (fmacaBody e.op)
    | 5 =>
      if e.ir.getLsbD 0 then do
        let v ← r.get e (uf w 14 5)
        r.writeAc e n (v.signExtend 80)
      else r.writeAc e n 0
    | 6 =>
      if pk = 3 ∨ laneBits pk ≤ sh.toNat then .error (illegal r.c)
      else r.writeAc e n (rndAc ac pk (modeRnd s.mode) sh.toNat)
    | 7 => if pk = 3 then .error (illegal r.c) else r.writeAc e n (ashAc ac pk sh.toInt)
    | 8 =>
      if pk = 3 ∧ sh ≠ 0 then .error (illegal r.c)
      else do
        let (v, cl) := stasWord ac pk (modeRnd s.mode) (modeSat s.mode) sh.toNat
        let r ← r.put e (uf w 19 5) v false
        .ok (r.setSw e (swSats (r.s e).sw cl))
    | _ => .error (illegal r.c)
/-- MODE is written with the shadow of R51. -/
def Run.newMode (r : Run) (v : Word) : Except Res Run :=
  if modeLane v = 3 then .error (illegal r.c) else .ok { r with mode := some (v &&& modeMask) }

/-- QT words (R143). DESIGN CHOICE: POPNB's predicate, which R110 writes with the pop that commits, is no pending write and does not count
among the 8 of R146 (log entry 71). -/
def Run.qt (r : Run) (e : Env) (w : Word) (atC : Bool) : Micro1 := stay do
  let imm : Word := (e.ir.setWidth 9 : BitVec 9).setWidth 32
  let latest := r.mode.getD (r.now.getD (r.s e).latestMode)
  if uf w 2 12 ≠ 0 then .error (illegal r.c)
  else match (uf w 24 4).toNat with
    | 0 => do
      r.onlyAtC atC
      r.apply (r.c.recvFrom e.g (e.srcA.setWidth 3))
    | 1 => do
      r.onlyAtC atC
      r.apply (r.c.recvNbFrom e.g (e.srcA.setWidth 3) (e.ir.setWidth 3))
    | 2 => do
      r.onlyAtC atC
      r.apply (r.c.sendCard e.g e.srcA {})
    | 3 => do
      r.onlyAtC atC
      if e.srcA.getLsbD 0 then .error (illegal r.c)
      else
        let v ← r.readD e e.dst
        let lo ← r.readD e e.srcA
        let hi ← r.readD e (nextReg e.srcA)
        let u ← r.readD e e.srcB
        r.apply (r.c.sendDeal e.g u v (hi ++ lo) {})
    | 4 =>
      if e.dst.getLsbD 0 then .error (illegal r.c)
      else do
        let t := r.c.time.dtime
        let r ← r.writeD e e.dst (t.setWidth 32) false
        r.writeD e (nextReg e.dst) ((t >>> 32).setWidth 32) false
    | 5 => if r.committed then .error (illegal r.c) else r.put e (uf w 19 5) (r.s e).page.evWord false
    | 6 => do
      r.onlyAtC atC
      let m : Word := (e.ir.setWidth 8 : Byte).setWidth 32
      .ok (r.upd e fun s => { s with page := s.page.evClear (m ||| (if e.ir.getLsbD 8 then m <<< 8 else 0)) })
    | 7 => do
      let v ← r.get e (uf w 14 5)
      r.newMode v
    | 8 => r.newMode (latest ||| imm)
    | 9 => .ok { r with mode := some (latest &&& ~~~imm) }
    | 10 => .ok { r with now := some (rtimMode latest (r.s e).sw), mode := none }
    | _ => .error (illegal r.c)

/-- PRED words (R144). -/
def Run.pred (r : Run) (e : Env) (w : Word) : Micro1 := stay do
  let pd : BitVec 2 := uf w 5 2
  let p : BitVec 3 := match pd.toNat with | 0 => uf e.ir 0 3 | 1 => uf e.ir 16 3 | _ => uf e.ir 8 3
  let s := r.s e
  let pa := s.rp (uf e.ir 12 3)
  let pb := s.rp (uf e.ir 8 3)
  if uf w 2 3 ≠ 0 ∨ w.getLsbD 7 ∨ pd = 3 then .error (illegal r.c)
  else match (uf w 24 4).toNat with
    | 0 => do
      let a ← r.get e (uf w 19 5)
      let b ← if e.ir.getLsbD 3 then .ok 0 else r.get e (uf w 14 5)
      let cc : BitVec 4 := uf e.ir 4 4
      match Machine.cond cc a b with
      | none => .error (illegal r.c)
      | some v =>
        let r ← r.writeP e fun s => s.setP p v
        .ok (if condInv cc a b then r.setSw e (putBit (r.s e).sw bitFinv true) else r)
    | 1 => do
      let a ← r.get e (uf w 19 5)
      let b ← r.get e (uf w 14 5)
      r.writeP e fun s => s.setP p (decide (a &&& b ≠ 0) != e.ir.getLsbD 3)
    | 2 => do
      let v ← r.cond e (uf w 8 5)
      r.writeP e fun s => s.setP p (v != w.getLsbD 13)
    | 3 => r.writeP e fun s => s.setP p (pa && (pb != e.ir.getLsbD 4))
    | 4 => r.writeP e fun s => s.setP p (pa || (pb != e.ir.getLsbD 4))
    | 5 => r.writeP e fun s => s.setP p (!pa)
    | _ => .error (illegal r.c)

/-- One microword (R134). -/
def Run.word (r : Run) (e : Env) (w : Word) (ua : BitVec 12) (atC : Bool) : Micro1 :=
  match (uf w 28 4).toNat with
  | 0 => r.seq e w ua atC
  | 1 => r.branch e w
  | 2 => r.alu e w
  | 3 => r.arith e w atC
  | 4 => r.memOp e w atC
  | 5 => r.mac e w
  | 6 => r.qt e w atC
  | 7 => r.pred e w
  | _ => .error (illegal r.c)

/-- The kinds of word a tail may hold (R148). -/
def tailKind (w : Word) : Bool :=
  let k := (uf w 24 4).toNat
  match (uf w 28 4).toNat with
  | 0 => decide (k = 0 ∨ k = 1 ∨ k = 3 ∨ k = 5)
  | 2 => true
  | 3 => decide ((uf w 23 5).toNat < 6)
  | 5 => decide (5 ≤ k ∧ k ≤ 8)
  | 6 => decide (k = 4 ∨ (7 ≤ k ∧ k ≤ 10))
  | 7 => true
  | _ => false

/-- The sequencer cuts a tail before the word at `ua` (R148). -/
def Run.cut (r : Run) (e : Env) (ua : BitVec 12) : Run :=
  let entry : ErrInfo :=
    { cls := 0, source := 0x30, code := 0x0008, unit := e.g.setWidth 32, detail := ua.setWidth 16, addr := 0 }
  { r with c := r.c.log entry }

/-- Device address of a microword. -/
def uwordAddr (g : SprigId) (ua : BitVec 12) : Nat := storeBase g + 4 * ua.toNat

/-- The CS_TAIL entry (R128, R376). -/
def csTail (e : Env) (ua : BitVec 12) : ErrInfo :=
  { cls := 2, source := 0x30, code := 0x0014, unit := (bunchOf e.g).setWidth 32, detail := ua.setWidth 16, addr := 0 }

/-- The address after `ua`, or none where it would leave the customer region (R136). -/
def nextWord (ua : BitVec 12) (jump : Option (BitVec 12)) : Option (BitVec 12) :=
  match jump with
  | some a => if a.toNat < 0xF00 then none else some a
  | none => if ua = 0xFFF then none else some (ua + 1)

/-- The routine from `ua` on: its end after COMMIT, or what stopped it before. A routine that has run `fuel` words without ending still
runs (log entry 7). `k` is the number of words before an interrupt that stands is recognised, which abandons a routine before its COMMIT
(R150). -/
def Run.go (e : Env) : Nat → Option Nat → BitVec 12 → Run → Except Res Run
  | 0, _, _, r => .error (.stall r.c)
  | n + 1, k, ua, r =>
    let a := uwordAddr e.g ua
    let w := r.c.word a
    if k = some 0 then .error (.stall r.c)
    else if r.c.csMark a = .double then
      (if r.committed then
        .ok { r with c := r.c.unitError (.bunch (bunchOf e.g)) (csTail e ua) }
      else .error (parityFault r.c none))
    else
      let r := { r with c := r.c.logCs e.g a (ua.setWidth 16) }
      if r.committed then
        (if 6 ≤ r.tail || !tailKind w then .ok (r.cut e ua)
        else match r.word e w ua false with
          | .error _ => .ok (r.cut e ua)
          | .ok (r', jump) =>
            let r' := { r' with tail := r.tail + 1, steps := r'.steps + 1 }
            if w.getLsbD 0 then .ok r'
            else match nextWord ua jump with
              | none => .ok (r'.cut e ua)
              | some ua' => Run.go e n none ua' r')
      else
        let atC := w.getLsbD 1 || w.getLsbD 0
        if atC && e.sb.any fun i => (r.s e).board.getLsbD i.toNat then .error (.stall r.c)
        else match r.word e w ua atC with
          | .error x => .error x
          | .ok (r', jump) =>
            let r' := { r' with committed := atC, steps := r'.steps + 1 }
            if w.getLsbD 0 then .ok r'
            else match nextWord ua jump with
              | none => if atC then .ok (r'.cut e ua) else .error (illegal r'.c)
              | some ua' => Run.go e n (if atC then none else k.map (· - 1)) ua' r'

/-- A routine that stops before COMMIT leaves the sprig as it found it, but for the micro-state (R73, R145), what it waits for, and the first
half of a split load. -/
def Core.abandon (c : Core) (g : SprigId) (old : Sprig) : Core :=
  c.modSprig g fun s => { old with micro := s.micro, farLoad := s.farLoad, atomics := s.atomics, req := s.req }

/-- The result conditions read as 0 until the routine sets them (R138). -/
def Micro.fresh (m : Micro) : Micro :=
  { m with az := false, an := false, ac := false, av := false, aclip := false, unord := false }

/-- A customer instruction of sprig g in slot 0xE0 + slot. An interrupt that stands is recognised between two of its words, which ones being
free: before COMMIT it abandons the routine (R150; log entry 72). -/
def bodyCustomer (g : SprigId) (gd : BitVec 4) (opc : Byte) (op : BitVec 20) (c : Core) : Res :=
  let ir : Word := gd ++ opc ++ op
  let entry := c.word (storeBase g + 0x4000 + 4 * opc.toNat)
  let e : Env := ⟨g, ir, sbRegs ir (uf entry 20 6)⟩
  let old := c.sprig g
  let pends := (c.recognise g).isSome
  let k := if pends then some (Config.freeWords c.free) else none
  let c : Core := if pends then { c with free := c.free + 1 } else c
  match Run.go e 4294967296 k (uf entry 0 12) { c := c.modSprig g fun s => { s with micro := s.micro.fresh } } with
  | .error (.stall c') => .stall (c'.abandon g old)
  | .error (.fault c' v d a) => .fault (c'.abandon g old) v d a
  | .error (.freeze c' k a) => .freeze (c'.abandon g old) k a
  | .error (.recv c' _) => .stall (c'.abandon g old)
  | .error x => x
  | .ok r =>
    let npc := r.next.getD (old.pc + 1)
    .commit (r.c.modSprig g fun s =>
        let s : Sprig := match r.vreq with
          | none => s
          | some v => s.request v npc
        if r.halt then { s with state := .halted } else s)
      { steps := r.steps, npc := r.next, mode := r.mode, now := r.now }

/-- CUSTOMER_INSTRUCTION: a customer slot's routine; or a vendor opcode that chapter 3 does not list, whose entry is empty (R83). -/
def execCustomerInstruction (g : SprigId) (gd : BitVec 4) (opc : Byte) (op : BitVec 20) (s : State) : Out :=
  onCoreIf (vendorFmt opc).isNone (fun c => c.insn g gd opc (bodyCustomer g gd opc op)) s

end Sys2Proof.Machine
end

