-- ==== Sys2Proof/Machine/Verify.lean ====
section
/-!
DEFINITION. Sys2Proof/Machine/Verify.lean: the verifier of customer microcode (R155): every path from every decode entry is followed over
what a path can have written, whether it has committed, and its pending writes. The image format has no mark for an entry that does not
commit at END, so check 0x23 has nothing to act on (log entry 24).
-/
namespace Sys2Proof.Machine.Verify

/-- A path's position: the microword, the micro-state written (T0 to T3, ADDR, µLR, result conditions, FUN, SPLIT: bits 0 to 8), the
pending writes, µLR, whether the path has committed, and its tail words. -/
structure Path where
  ua : BitVec 12
  written : BitVec 9 := 0
  pend : List Nat := []
  ulr : Option (BitVec 12) := none
  committed : Bool := false
  tail : Nat := 0
deriving DecidableEq, Repr

def wT (i : Nat) : BitVec 9 := BitVec.ofNat 9 (2 ^ i)
def wAddr : BitVec 9 := 0x10
def wUlr : BitVec 9 := 0x20
def wRes : BitVec 9 := 0x40
def wFun : BitVec 9 := 0x80
def wSplit : BitVec 9 := 0x100

/-- Selectors that may be read, and written (R135). -/
def readable (s : BitVec 5) : Bool := decide (s.toNat ≤ 0x1D)
def writable (s : BitVec 5) : Bool := decide (s.toNat ≤ 0x0F ∨ s = 0x11 ∨ s = 0x17 ∨ s = 0x18)

/-- No reserved class, micro-op or field value (R134 to R144). -/
def legal (w : Word) : Bool :=
  match (uf w 28 4).toNat with
  | 0 =>
    match (uf w 24 4).toNat with
    | 4 => between 1 (uf w 2 3).toNat 4 && !w.getLsbD 1
    | 8 => decide (uf w 2 2 ≠ 0)
    | n => decide (n ≤ 8)
  | 1 => decide (uf w 2 8 = 0)
  | 2 => decide ((uf w 23 5).toNat ≤ 0x1C) && writable (uf w 18 5) && readable (uf w 13 5) && readable (uf w 8 5)
  | 3 =>
    let x := (uf w 23 5).toNat
    decide (x ≤ 7) && (decide (x = 5) || writable (uf w 18 5)) && readable (uf w 13 5) && readable (uf w 8 5)
      && (decide (x < 6) || decide (uf w 18 5 = 4) || decide (uf w 18 5 = 6))
  | 4 =>
    let m := (uf w 24 4).toNat
    decide (m ≤ 5) && decide (uf w 2 11 = 0) && decide (uf w 22 2 ≠ 3) && decide ((uf w 13 3).toNat ≤ 4)
      && (match m with
        | 1 => writable (uf w 16 5)
        | 2 => readable (uf w 16 5)
        | 3 => readable (uf w 16 5) && writable (uf w 16 5)
        | 4 => readable (uf w 16 5) && writable (uf w 16 5)
        | _ => decide (uf w 13 3 = 0))
  | 5 =>
    let m := (uf w 24 4).toNat
    decide (m ≤ 8) && decide (uf w 2 9 = 0) && decide (uf w 11 2 ≠ 3)
      && (decide (m ≠ 5) || readable (uf w 14 5)) && (decide (m ≠ 8) || writable (uf w 19 5))
  | 6 =>
    let q := (uf w 24 4).toNat
    decide (q ≤ 0xA) && decide (uf w 2 12 = 0) && (decide (q ≠ 5) || writable (uf w 19 5)) && (decide (q ≠ 7) || readable (uf w 14 5))
  | 7 =>
    let p := (uf w 24 4).toNat
    decide (p ≤ 5) && decide (uf w 2 3 = 0) && decide ((uf w 5 3).toNat ≤ 2)
      && (decide (2 ≤ p) || (readable (uf w 19 5) && readable (uf w 14 5)))
  | _ => false

/-- Selectors a word reads, those it writes, the condition it tests, and the address source of a MEM word. -/
def reads (w : Word) : List (BitVec 5) :=
  match (uf w 28 4).toNat with
  | 2 => uf w 13 5 :: (if oneOperand (uf w 23 5) then [] else [uf w 8 5])
  | 3 => uf w 13 5 :: ((if uf w 23 5 = 4 then [] else [uf w 8 5]) ++ (if uf w 23 5 = 3 then [uf w 18 5] else []))
  | 4 => if 2 ≤ (uf w 24 4).toNat ∧ (uf w 24 4).toNat ≤ 4 then [uf w 16 5] else []
  | 5 => if uf w 24 4 = 5 then [uf w 14 5] else []
  | 6 => if uf w 24 4 = 7 then [uf w 14 5] else []
  | 7 => if (uf w 24 4).toNat ≤ 1 then [uf w 19 5, uf w 14 5] else []
  | _ => []

def writes (w : Word) : List (BitVec 5) :=
  match (uf w 28 4).toNat with
  | 2 => [uf w 18 5]
  | 3 => if (uf w 23 5).toNat < 5 then [uf w 18 5] else []
  | 4 => if (uf w 24 4).toNat = 1 ∨ (uf w 24 4).toNat = 3 ∨ (uf w 24 4).toNat = 4 then [uf w 16 5] else []
  | 5 => if uf w 24 4 = 8 then [uf w 19 5] else []
  | 6 => if uf w 24 4 = 5 then [uf w 19 5] else if uf w 24 4 = 4 then [4, 5] else []
  | 7 => [0x18]
  | _ => []

def condOf (w : Word) : Option (BitVec 5) :=
  if uf w 28 4 = 1 then some (uf w 22 5)
  else if uf w 28 4 = 7 ∧ uf w 24 4 = 2 then some (uf w 8 5) else none

/-- The micro-state that a selector, a condition or an address source reads (R149). -/
def selState (s : BitVec 5) : BitVec 9 := if s.toNat < 4 then wT s.toNat else if s = 0x17 then wAddr else 0
def condState (k : BitVec 5) : BitVec 9 :=
  let n := k.toNat
  if 5 ≤ n ∧ n ≤ 9 then wRes
  else if n = 10 ∨ n = 11 then wT 0
  else if n = 12 ∨ n = 13 then wT 1
  else if n = 14 then wT 2
  else if n = 15 then wT 3
  else if n = 19 then wSplit
  else if 20 ≤ n ∧ n ≤ 24 then wAddr
  else if n = 30 then wFun
  else 0
def addrState (w : Word) : BitVec 9 :=
  if uf w 28 4 = 4 ∧ 1 ≤ (uf w 24 4).toNat ∧ (uf w 24 4).toNat ≤ 4 then
    (match (uf w 13 3).toNat with | 0 => wAddr | 1 => wAddr | 2 => wT 3 | _ => 0)
  else 0

def readState (w : Word) : BitVec 9 :=
  ((reads w).foldl (fun a s => a ||| selState s) (addrState w)) |||
    (match condOf w with | some k => condState k | none => 0) ||| (if uf w 24 8 = 3 then wUlr else 0)

/-- The micro-state that a word writes. -/
def writeState (w : Word) : BitVec 9 :=
  let base := (writes w).foldl (fun a s => a ||| selState s) 0
  match (uf w 28 4).toNat with
  | 0 => if uf w 24 4 = 2 then wUlr else 0
  | 2 => base ||| wRes
  | 3 => base ||| wRes ||| (if uf w 23 5 = 5 then wFun else 0)
  | 4 => base ||| (if uf w 24 4 = 0 ∨ uf w 24 4 = 5 then wAddr ||| wSplit else 0)
  | _ => base

/-- The pending writes of a word: D by selector 4 to 10, A 11 to 13, M 14, the predicates 15, AC 16 to 18 by field, the base updates of a
MAC fetch 19 and 20 (R146). -/
def pends (w : Word) : List Nat :=
  ((writes w).filterMap fun s =>
    if 4 ≤ s.toNat ∧ s.toNat ≤ 0xE then some s.toNat else if s = 0x18 then some 15 else none)
  ++ (if uf w 28 4 = 4 ∧ uf w 24 4 = 0 then [11] else [])
  ++ (if uf w 28 4 = 5 ∧ uf w 24 4 ≠ 8 then [16 + (uf w 11 2).toNat] else [])
  ++ (if uf w 28 4 = 5 ∧ (uf w 24 4).toNat ≤ 4 then [19, 20] else [])

/-- Micro-ops of R147, as far as the word alone shows them. -/
def exposed (w : Word) : Bool :=
  match (uf w 28 4).toNat, (uf w 24 4).toNat with
  | 0, 5 => true
  | 0, 7 => true
  | 4, 3 => true
  | 4, 4 => true
  | 6, 0 => true
  | 6, 1 => true
  | 6, 2 => true
  | 6, 3 => true
  | 6, 6 => true
  | 3, _ => decide (6 ≤ (uf w 23 5).toNat)
  | _, _ => false

/-- Words that a tail may hold (R148). -/
def tailWord (w : Word) : Bool :=
  match (uf w 28 4).toNat, (uf w 24 4).toNat with
  | 0, n => decide (n = 0 ∨ n = 1 ∨ n = 3 ∨ n = 5)
  | 2, _ => true
  | 3, _ => decide ((uf w 23 5).toNat < 6)
  | 5, n => decide (5 ≤ n)
  | 6, n => decide (n = 4 ∨ 7 ≤ n)
  | 7, _ => true
  | _, _ => false

/-- Whether SB selects the D register of a selector (R132). -/
def selected (sb : BitVec 6) (s : BitVec 5) : Bool :=
  match s.toNat with
  | 4 => sb.getLsbD 0
  | 5 => sb.getLsbD 0 && sb.getLsbD 3
  | 6 => sb.getLsbD 1
  | 7 => sb.getLsbD 2
  | 8 => sb.getLsbD 1 && sb.getLsbD 3
  | 9 => sb.getLsbD 5
  | 10 => sb.getLsbD 5
  | _ => true

def touchesOk (sb : BitVec 6) (w : Word) : Bool :=
  (reads w ++ writes w).all (selected sb) && (decide (condOf w ≠ some 28) || sb.getLsbD 2)

/-- An address in the customer region. -/
def inRegion (a : BitVec 12) : Bool := decide (0xF00 ≤ a.toNat)

/-- Where a path goes after a word; `none`: out of the region. -/
def next (p : Path) (w : Word) : Option (List (BitVec 12)) :=
  let addr : BitVec 12 := uf w 12 12
  let inc : Option (BitVec 12) := if p.ua = 0xFFF then none else some (p.ua + 1)
  let check (l : List (BitVec 12)) : Option (List (BitVec 12)) := if l.all inRegion then some l else none
  match (uf w 28 4).toNat, (uf w 24 4).toNat with
  | 0, 1 => check [addr]
  | 0, 2 => check [addr]
  | 0, 3 => match p.ulr with | some a => check [a] | none => none
  | 0, 4 => some []
  | 1, _ =>
    let target : BitVec 12 := uf w 10 12
    if uf w 22 5 = 0 then (if w.getLsbD 27 then inc.bind fun a => check [a] else check [target])
    else inc.bind fun a => check [a, target]
  | _, _ => inc.bind fun a => check [a]

/-- One word of a path: the check that fails, or the paths that go on. -/
def advance (word : BitVec 12 → Word) (sb : BitVec 6) (p : Path) : Except Nat (List Path) :=
  let w := word p.ua
  let atC := w.getLsbD 1 || w.getLsbD 0
  if !legal w then .error 0x21
  else if uf w 24 8 = 5 ∧ !(decide (uf w 2 6 = 5) || decide (32 ≤ (uf w 2 6).toNat)) then .error 0x28
  else if !p.committed && !atC && exposed w then .error 0x22
  else if p.committed && (decide (6 ≤ p.tail) || !tailWord w) then .error 0x24
  else if p.committed && !touchesOk sb w then .error 0x25
  else if readState w &&& ~~~p.written ≠ 0 then .error 0x26
  else
    let pend := if p.committed then p.pend else (p.pend ++ pends w).dedup
    if 8 < pend.length then .error 0x27
    else if w.getLsbD 0 then .ok []
    else match next p w with
      | none => .error 0x26
      | some l =>
        .ok (l.map fun a =>
          { ua := a, written := p.written ||| writeState w, pend := pend
            ulr := if uf w 24 8 = 2 then (if p.ua = 0xFFF then none else some (p.ua + 1)) else p.ulr
            committed := p.committed || atC, tail := if p.committed then p.tail + 1 else 0 })

/-- Every path, each position once. -/
def explore (word : BitVec 12 → Word) (sb : BitVec 6) : Nat → List Path → List Path → Option (Nat × BitVec 12)
  | 0, _, _ => none
  | _ + 1, _, [] => none
  | n + 1, seen, p :: rest =>
    if p ∈ seen then explore word sb n seen rest
    else match advance word sb p with
      | .error k => some (k, p.ua)
      | .ok l => explore word sb n (p :: seen) (l ++ rest)

/-- Positions are finite in number; this many are enough. -/
def fuel : Nat := 2 ^ 64

/-- A decode entry's own fields (R131). -/
def entryOk (e : Word) : Bool :=
  decide ((uf e 28 3).toNat ≤ 5) && decide (uf e 26 2 ≠ 3) && decide (uf e 12 8 = 0) && inRegion (uf e 0 12)

/-- The first check that one entry fails, with the microword address, or all ones for the entry itself. -/
def entry (word : BitVec 12 → Word) (e : Word) : Option (Word × Word) :=
  if !entryOk e then some (0x20, 0xFFFFFFFF)
  else if uf e 26 2 = 2 then some (0x28, 0xFFFFFFFF)
  else match explore word (uf e 20 6) fuel [] [{ ua := uf e 0 12 }] with
    | some (k, a) => some (BitVec.ofNat 32 k, a.setWidth 32)
    | none => none

end Sys2Proof.Machine.Verify
end

