-- ==== Sys2Proof/Machine/Images.lean ====
section
/-!
DEFINITION. Sys2Proof/Machine/Images.lean: sprig images and their loading (R154, R155, R368, R369).
-/
namespace Sys2Proof.Machine

/-- A section: KIND, Start, bytes, and the byte offset of its header in the image. -/
structure Section where
  kind : Nat
  start : Nat
  bytes : List Byte
  at_ : Nat
deriving DecidableEq, Repr

/-- Where a section begins in its memory, in bytes, and the memory's bounds (R369). -/
def Section.lo (x : Section) : Nat := if x.kind = 1 ∨ x.kind = 5 ∨ x.kind = 6 then 4 * x.start else x.start
def sectionBounds (kind : Nat) : Option (Nat × Nat) :=
  match kind with
  | 1 => some (0, 0x4000)
  | 2 => some (0, 0x6000)
  | 3 => some (0x6000, 0xC000)
  | 4 => some (0, 0x3C000)
  | 5 => some (4 * 0xE0, 4 * 0x100)
  | 6 => some (4 * 0xF00, 4 * 0x1000)
  | _ => none

def Section.inside (x : Section) : Bool :=
  match sectionBounds x.kind with
  | some (a, b) => decide (a ≤ x.lo) && decide (x.lo + x.bytes.length ≤ b)
  | none => false

/-- A section that would write vendor words of the control store, or vendor decode entries (R154). -/
def Section.vendor (x : Section) : Bool :=
  !x.bytes.isEmpty && ((decide (x.kind = 5) && decide (x.start < 0xE0)) || (decide (x.kind = 6) && decide (x.start < 0xF00)))

def overlap (x y : Section) : Bool :=
  decide (x.kind = y.kind) && !disjoint x.lo x.bytes.length y.lo y.bytes.length

/-- IMAGE_BAD (R351, R369). -/
def imageBad (at_ : Nat) : Reply := badParam 0x81 (num at_)

/-- The sections of an image, or the refusal of the first that is at fault. -/
def sections (img : List Byte) : Nat → Nat → List Section → Except Reply (List Section)
  | 0, _, acc => .ok acc
  | n + 1, at_, acc =>
    let rest := img.drop at_
    let len := (pword rest 2).toNat
    let x : Section := ⟨(pword rest 0).toNat, (pword rest 1).toNat, (rest.drop 16).take len, at_⟩
    if rest.length < 16 ∨ rest.length < 16 + len ∨ len % 4 ≠ 0 ∨ pword rest 3 ≠ 0 then .error (imageBad at_)
    else if x.vendor then .error ⟨stDenied, []⟩
    else if !x.inside || acc.any (overlap x) then .error (imageBad at_)
    else sections img n (at_ + 16 + len) (acc ++ [x])

/-- Whether an image's X-bank sections make vector 0 VALID. -/
def startsValid (l : List Section) : Bool :=
  l.any fun x => decide (x.kind = 2) && decide (x.start = 0) && decide (4 ≤ x.bytes.length) && (pword x.bytes 0).getLsbD 16

/-- An image's sections, or why it is refused: DENIED of R154, or IMAGE_BAD with a byte offset. -/
def parseImage (img : List Byte) : Except Reply (List Section) :=
  if img.length < 16 ∨ pword img 0 ≠ 0x5053514D#32 then .error (imageBad 0)
  else if pword img 2 ≠ 0 ∨ pword img 3 ≠ 0 then .error (imageBad 8)
  else match sections img (min (pword img 1).toNat img.length) 16 [] with
    | .error r => .error r
    | .ok l => if startsValid l then .ok l else .error (imageBad 0xFFFFFFFF)

/-! ### Customer microcode (R155) -/

/-- A word of a control store as it will stand with the sections of one kind laid over it. -/
def overlaid (c : Core) (g : SprigId) (l : List Section) (kind base k : Nat) : Word :=
  match l.find? fun x => decide (x.kind = kind) && decide (x.start ≤ k) && decide (k < x.start + x.bytes.length / 4) with
  | some x => pword x.bytes (k - x.start)
  | none => c.word (storeBase g + base + 4 * k)

/-- The decode entries an image stages. -/
def stagedSlots (l : List Section) : List Nat :=
  (l.filter fun x => decide (x.kind = 5)).flatMap fun x => (List.range (x.bytes.length / 4)).map fun k => x.start + k

/-- The microwords that an image stages with a reserved value. -/
def badWord (l : List Section) : Option Nat :=
  (l.filter fun x => decide (x.kind = 6)).findSome? fun x =>
    ((List.range (x.bytes.length / 4)).find? fun k => !Verify.legal (pword x.bytes k)).map fun k => x.start + k

/-- The entries a check follows: those staged, and, when microwords change, the customer entries that stand VALID. -/
def checkedSlots (c : Core) (g : SprigId) (l : List Section) : List Nat :=
  let standing := if l.any fun x => decide (x.kind = 6) then
      ((List.range 32).map (· + 0xE0)).filter fun k => (overlaid c g l 5 0x4000 k).getLsbD 31
    else []
  (stagedSlots l ++ standing).dedup

/-- The first check of R155 that an image fails at sprig g. -/
def verifyImage (c : Core) (g : SprigId) (l : List Section) : Option Reply :=
  match badWord l with
  | some k => some (badParam 0x21 (num k))
  | none =>
    ((checkedSlots c g l).findSome? fun k =>
      Verify.entry (fun a => overlaid c g l 6 0 a.toNat) (overlaid c g l 5 0x4000 k)).map fun (d1, d2) => badParam d1 d2

/-- An image refused for its form or its microcode. -/
def imageRefusal (c : Core) (gs : List SprigId) (img : List Byte) : Option Reply :=
  match parseImage img with
  | .error r => some r
  | .ok l => gs.findSome? fun g => verifyImage c g l

/-! ### Writing -/

/-- Bytes written to a bunch's scratchpad, modulo 2 MiB. -/
def Core.writeCode (c : Core) (b : BunchId) (off : Nat) (bs : List Byte) : Core :=
  let off := off % 0x200000
  let c := if off + bs.length ≤ 0x200000 then c.storeEcc (scratchBase b + off) bs false
    else (c.storeEcc (scratchBase b + off) (bs.take (0x200000 - off)) false).storeEcc (scratchBase b)
      (bs.drop (0x200000 - off)) false
  c

def Core.loadSection (c : Core) (g : SprigId) (x : Section) : Core :=
  match x.kind with
  | 1 => c.bankStore g (0x10000 + x.lo) x.bytes
  | 2 => c.bankStore g x.lo x.bytes
  | 3 => c.bankStore g x.lo x.bytes
  | 4 => c.writeCode (bunchOf g) ((c.codeBase g &&& 0x001FF000#32).toNat + x.start) x.bytes
  | 5 => c.writeStore (storeBase g + 0x4000 + x.lo) x.bytes
  | _ => c.writeStore (storeBase g + x.lo) x.bytes

/-- An image that passed its checks is loaded into a stopped sprig. -/
def Core.loadImage (c : Core) (g : SprigId) (img : List Byte) : Core :=
  match parseImage img with
  | .error _ => c
  | .ok l => l.foldl (fun c x => c.loadSection g x) c

/-! ### Measurements (R464) -/

/-- MEASi is extended by a digest. -/
def Core.measure (c : Core) (i : Nat) (d : BitVec 256) : Core :=
  let old : BitVec 256 := Tbl.get c.boot.meas i 0
  { c with boot := { c.boot with meas := Tbl.set c.boot.meas i (Config.sha3 (bytesOf old 32 ++ bytesOf d 32)) 0 } }

/-- An image loaded into a sprig extends MEAS7; one whose customer microcode was accepted extends MEAS6. -/
def Core.measureImage (c : Core) (img : List Byte) : Core :=
  let d := Config.sha3 img
  let micro := match parseImage img with
    | .ok l => l.any fun x => decide (x.kind = 5 ∨ x.kind = 6)
    | .error _ => false
  (if micro then c.measure 6 d else c).measure 7 d

/-- The digest of a generation: its number and its settings. The layout of what is hashed is the model's. -/
def generationDigest (gen : Word) (t : Tbl Word) : BitVec 256 :=
  Config.sha3 (bytesOf gen 4 ++ t.flatMap fun e : Nat × Word => bytesOf (BitVec.ofNat 32 e.1) 4 ++ bytesOf e.2 4)

end Sys2Proof.Machine
end

