-- ==== Sys2Proof/Machine/Hands.lean ====
section
/-!
DEFINITION. Sys2Proof/Machine/Hands.lean: configuration hands: slots, staging, checks, outcomes, and what a commit does
(spec/13_commands_and_hands.md, R352 to R370; R196, R197, R232, R255, R294).
-/
namespace Sys2Proof.Machine

/-! ### Slots (R355) -/

def Core.hand (c : Core) (slot : BitVec 4) : Hand := Tbl.get c.hands slot.toNat Hand.reset
def Core.setHand (c : Core) (slot : BitVec 4) (h : Hand) : Core := { c with hands := Tbl.set c.hands slot.toNat h Hand.reset }
def allSlots : List (BitVec 4) := (List.range 16).map fun k => BitVec.ofNat 4 k

def Hand.id (h : Hand) (slot : BitVec 4) : Word := (h.serial.setWidth 32 <<< 16) ||| slot.setWidth 32
/-- OPEN, PENDING or DRAINING. -/
def HandState.live : HandState → Bool
  | .open => true
  | .pending => true
  | .draining => true
  | _ => false
def HandState.accepted : HandState → Bool
  | .pending => true
  | .draining => true
  | _ => false
def HandState.num : HandState → Nat
  | .unused => 0
  | .open => 1
  | .pending => 2
  | .draining => 3
  | .committed => 4
  | .folded => 5
  | .failed => 6

def Core.openHands (c : Core) : Nat := (allSlots.filter fun k => (c.hand k).st.live).length
def Core.acceptedHands (c : Core) : List (BitVec 4) := allSlots.filter fun k => (c.hand k).st.accepted

/-- The slot that a hand ID names, unless the ID is stale. -/
def Core.findHand (c : Core) (id : Word) : Option (BitVec 4) :=
  let k : BitVec 4 := id.setWidth 4
  if id &&& 0xFFF0#32 = 0 ∧ (c.hand k).st ≠ .unused ∧ (c.hand k).serial = (id >>> 16).setWidth 16 then some k else none

/-- Who submits through a queue. -/
def Core.ownerOf (c : Core) (q : CmdSrc) : HandOwner :=
  match q with
  | .pair h => .func (c.cmdFunc h)
  | .sprig g _ => .sprig g

/-- A command on a hand: a stale ID gives HAND_CLOSED, another's hand NOT_OWNER (R351, R355). -/
def Core.withHand (c : Core) (q : CmdSrc) (id : Word) (k : BitVec 4 → Core × Option Reply) : Core × Option Reply :=
  match c.findHand id with
  | none => (c, some ⟨stHandClosed, []⟩)
  | some slot => if (c.hand slot).owner = c.ownerOf q then k slot else (c, some (denied 0x74 id))

/-- The lowest free slot, opened with its serial one higher; `none` while 16 hands count. -/
def Core.openHand (c : Core) (o : HandOwner) (sys : Option SysHand) (entries : List HandEntry) (loads : List HandImage) :
    Option (BitVec 4 × Core) :=
  match allSlots.find? fun k => !(c.hand k).st.live with
  | none => none
  | some k =>
    some (k, c.setHand k { Hand.reset with
      serial := (c.hand k).serial + 1, st := .open, owner := o, sys := sys, entries := entries, loads := loads })

/-! ### Staging (R24, R30, R352, R355) -/

/-- Whether a setting is a member handle that names a Steward queue with the value given. -/
def namesSteward (id : Nat) (v : Word) : Bool :=
  isPosyId id && decide (32 ≤ (id - sid 0x0B 0x40000) % 64) && !handlePosy v && decide (v.toNat % 16384 < 32)

/-- Whether a hand may stage a setting. Import entries are written by system hands alone (R210). -/
def Core.mayStage (c : Core) (h : Hand) (id : Nat) (v : Word) : Bool :=
  let full := match h.owner with
    | .func f => c.supervisor (.host f)
    | .sprig _ => false
  (full || decide (id / 0x1000000 = 0x20))
    && !decide (0x0B010000 ≤ id ∧ id < 0x0B010040) && !decide (0x0B020000 ≤ id ∧ id < 0x0B020080)
    && !namesSteward id v && (h.sys.isSome || !decide (sid 0x0B 0xC4000 ≤ id ∧ id < sid 0x0B 0xCC000))

/-- Why R352 refuses a setting and value, if it does. -/
def Core.settingFault (c : Core) (h : Hand) (id : Nat) (v : Word) : Option Reply :=
  match ownedSetting id v with
  | none => some (badParam 0x70 (num id))
  | some o =>
    if !c.mayStage h id v then some (settingDenied id)
    else if v &&& ~~~o.mask ≠ 0 ∨ !o.legal then some (valueFault id)
    else none

/-- An entry of HAND_SET as submitted. -/
structure RawEntry where
  dev : Nat
  rsv : Nat
  id : Nat
  val : Word
deriving DecidableEq, Repr

def rawEntry (bs : List Byte) (k : Nat) : RawEntry :=
  let w := pword bs (3 * k)
  ⟨w.toNat % 65536, w.toNat / 65536, (pword bs (3 * k + 1)).toNat, pword bs (3 * k + 2)⟩

/-- The device an entry names: 0xFFFF is the receiving one. -/
def Core.entryDev (c : Core) (r : RawEntry) : Nat := if r.dev = 0xFFFF then c.dev.toNat else r.dev

def Core.setFault (c : Core) (h : Hand) (r : RawEntry) : Option Reply :=
  let d := c.entryDev r
  let named := match h.sys with
    | some x => decide (d < 512) && x.mask.getLsbD d
    | none => decide (d = c.dev.toNat)
  if r.rsv ≠ 0 then some ⟨stBadParam, []⟩
  else if !named then some (badParam 0x78 (num d))
  else c.settingFault h r.id r.val

/-- The single settings that an ID names: a page word of every bunch is 64 settings. -/
def spreadId (id : Nat) : List Nat :=
  if id / 0x10000 = 0x20FF then (List.range 64).map fun b => 0x20000000 + 0x10000 * b + id % 0x10000 else [id]

/-- One more entry: a later value of a setting stands, with the instant of its first staging. -/
def stageEntry (now : Nat) (l : List HandEntry) (d : DeviceId) (id : Nat) (v : Word) : List HandEntry :=
  if l.any fun e => decide (e.dev = d) && decide (e.id = id) then
    l.map fun e => if e.dev = d ∧ e.id = id then { e with val := v } else e
  else l ++ [⟨d, id, v, now⟩]

def Core.stageRaw (c : Core) (l : List HandEntry) (r : RawEntry) : List HandEntry :=
  (spreadId r.id).foldl (fun l id => stageEntry c.store.commits l (BitVec.ofNat 9 (c.entryDev r)) id r.val) l

def handMax : Nat := 65536

/-! ### Checks (R356, R358, R361, R370) -/

/-- A hand's entries for this device. -/
def Core.ownEntries (c : Core) (h : Hand) : List HandEntry := h.entries.filter fun e => e.dev = c.dev

def layEntries (t : Tbl Word) (l : List HandEntry) : Tbl Word := l.foldl (fun t e => cfgSet t e.id e.val) t

/-- The configuration once every accepted hand has committed. -/
def Core.futureCfg (c : Core) : Tbl Word :=
  c.acceptedHands.foldl (fun t k => layEntries t (c.ownEntries (c.hand k))) c.cfg

/-- The sprigs that a target handle reaches (R368). -/
def Core.targets (c : Core) (handle : Word) : List SprigId := ((c.reaches handle).map queueSprig).dedup
def Core.handTargets (c : Core) (h : Hand) : List SprigId := (h.loads.flatMap fun x => c.targets x.target).dedup

/-- Another accepted hand stages the setting, or another hand has committed it since (R358). -/
def Core.entryBusy (c : Core) (slot : BitVec 4) (e : HandEntry) : Bool :=
  (c.acceptedHands.any fun k => decide (k ≠ slot) && ((c.hand k).entries.any fun x => decide (x.dev = e.dev) && decide (x.id = e.id)))
    || (decide (e.dev = c.dev) && decide (e.since < Tbl.get c.store.stamps e.id 0))

def Core.checkBusy (c : Core) (slot : BitVec 4) : Option Reply :=
  let h := c.hand slot
  match h.entries.find? (c.entryBusy slot) with
  | some e => some (conflict 0x72 (num e.id))
  | none =>
    match (c.handTargets h).find? fun g => c.acceptedHands.any fun k => decide (k ≠ slot) && (c.handTargets (c.hand k)).contains g with
    | some g => some (conflict 0x72 (num (0x30000000 + 16 * g.toNat)))
    | none => none

def hasShared (img : List Byte) : Bool :=
  match parseImage img with
  | .ok l => l.any fun x => decide (x.kind = 4)
  | .error _ => false

/-- Targets of one bunch that receive shared code have one SPG_CODE base (R369). -/
def Core.sharedBasesAgree (c : Core) (h : Hand) : Bool :=
  let gs := ((h.loads.filter fun x => hasShared x.image).flatMap fun x => c.targets x.target).dedup
  gs.all fun g => gs.all fun k => decide (bunchOf g ≠ bunchOf k) || decide (c.codeBase g = c.codeBase k)

/-- A change of a VF's PCIE_FCFG while VF Enable is set: CONFLICT, with the function (R338). -/
def Core.vfFault (c : Core) (l : List HandEntry) : Option Reply :=
  if !c.hic.vfe then none
  else (((List.range 15).map (· + 1)).find? fun f =>
    l.any fun e => decide (e.id = sid 0x14 (0x10 * f)) && decide (e.val ≠ cfgGet c.cfg e.id)).map fun f => conflict 0x82 (num f)

/-- The channels of other devices that a system hand binds to device d, as its entries give them (R208). -/
def boundFrom (l : List HandEntry) (d : DeviceId) : List Producer :=
  ((l.filter fun e => decide (e.dev ≠ d) && isChanId e.id && decide (e.id % 2 = 1) && e.val.getLsbD 31
      && decide (field e.val 29 2 = 0)
      && l.any fun x => decide (x.dev = e.dev) && decide (x.id + 1 = e.id) && decide (handleDev x.val = d)).map fun e =>
    let k := (e.id - sid 0x0B 0x80000) / 2
    Producer.chan e.dev (BitVec.ofNat 11 (k / 16)) (BitVec.ofNat 4 (k % 16))).dedup

/-- A system hand that needs more import entries than a device has (R210): on this device those that will be valid count as well. -/
def Core.checkImports (c : Core) (new : Core) (h : Hand) : Option Reply :=
  match h.sys with
  | none => none
  | some x =>
    let need (d : DeviceId) : List Producer :=
      (boundFrom h.entries d ++ (if d = c.dev then new.importBindings.map Binding.who else [])).dedup
    ((((List.range 512).map fun d => BitVec.ofNat 9 d).filter fun d => x.mask.getLsbD d.toNat).find? fun d =>
      decide (4096 < (need d).length)).map fun d => conflict 0x35 (d.setWidth 32)

/-- Every check of a hand (R356). -/
def Core.handFault (c : Core) (slot : BitVec 4) : Option Reply :=
  let h := c.hand slot
  let mine := c.ownEntries h
  let future := c.futureCfg
  let new := c.under (layEntries future mine)
  firstOf
    [firstOf (mine.map fun e => c.settingFault h e.id e.val),
     c.checkBusy slot,
     c.vfFault mine,
     checkConfig (c.under future) new (mine.map HandEntry.id) (h.sys.map SysHand.mask),
     c.checkImports new h,
     firstOf (h.loads.map fun x => imageRefusal c (c.targets x.target) x.image),
     if new.sharedBasesAgree h then none else some (badParam 0x81 0xFFFFFFFF),
     if (c.gdcs.any fun e => decide (e.2.st = .failed)) || Config.storeFull c.cfg.length (h.loads.foldl (fun n x => n + x.image.length) 0) then some ⟨stStoreFull, []⟩ else none]

/-! ### Outcomes (R359, R360) -/

/-- The NOTIFY card (R360). -/
def Core.notify (c : Core) (slot : BitVec 4) : Core :=
  let h := c.hand slot
  match (if h.notify = 0 then none else c.replyQueue h.notify) with
  | none => c
  | some i =>
    let t : DWord := h.instant.getD never
    c.postCard i h.order
      { w0 := sysHeader 0xF0 0 0 ||| Config.replyTag.setWidth 32, w1 := h.id slot, w2 := h.status.setWidth 32, w3 := h.gen
        w4 := t.setWidth 32, w5 := (t >>> 32).setWidth 32, w6 := h.detail, w7 := 0 }

/-- A hand reaches its outcome. -/
def Core.endHand (c : Core) (slot : BitVec 4) (st : HandState) (r : Reply) : Core :=
  let h := c.hand slot
  ({ c with handLines := c.handLines.filter fun e => decide (e.1 ≠ slot.toNat) }.setHand slot
    { h with st := st, status := r.status, detail := r.word 1, entries := [], loads := [], submit := none, awaiting := [] }).notify slot

/-! ### Setting pages (R353, R354) -/

/-- The bunches whose pages a list of entries names. -/
def pageBunches (l : List HandEntry) : List BunchId :=
  ((l.filter fun e => decide (e.id / 0x1000000 = 0x20)).map fun e => BitVec.ofNat 6 (e.id / 0x10000)).dedup

/-- A page of a generation: its number, 0, the commit instant, and the application words. -/
def pageBytes (t : Tbl Word) (b : BunchId) (gen : Word) (at_ : DWord) : List Byte :=
  bytesOf gen 4 ++ bytesOf (0 : Word) 4 ++ bytesOf at_ 8
    ++ ((List.range 1020).flatMap fun k => bytesOf (cfgGet t (0x20000000 + 0x10000 * b.toNat + 4 + k)) 4)

def currentView (b : BunchId) : Nat := scratchBase b + 0x1F6000
def stagingView (b : BunchId) : Nat := scratchBase b + 0x1F7000

/-- The staging page takes the new values. -/
def Core.stagePage (c : Core) (t : Tbl Word) (b : BunchId) : Core :=
  c.storeEcc (stagingView b + 16) ((pageBytes t b 0 0).drop 16) false

/-- The views change places: the staging page, complete, is the current one. -/
def Core.flipPage (c : Core) (t : Tbl Word) (b : BunchId) (gen : Word) (at_ : DWord) : Core :=
  let old := c.bytes (currentView b) 4096
  let marks := (List.range 512).map fun k => c.mark (currentView b + 8 * k)
  let c := (c.storeEcc (currentView b) (pageBytes t b gen at_) false).setBytes (stagingView b) old
  (marks.zipIdx).foldl (fun c m => c.setMark (stagingView b + 8 * m.2) m.1) c

/-! ### Channels at a commit (R196, R197, R345) -/

def Binding.sameDest (a b : Binding) : Bool := decide (a.toPair = b.toPair) && decide (a.handle = b.handle)

/-- Whether the change from an old to a new binding resets the queues of the old one. -/
def bindingCut (old new : Option Binding) : Bool :=
  match old, new with
  | some a, some b => !a.sameDest b || decide (b.grant < a.grant)
  | some _, none => true
  | _, _ => false

/-- The epoch a new binding or destination takes; that of a queue on another device is what the device reports in the system hand. -/
def Core.bindEpoch (c : Core) (report : HandReport) (b : Binding) : Byte :=
  if b.toPair || handlePosy b.handle then 0
  else if handleDev b.handle = c.dev then (c.queue (handleQueue b.handle)).epoch
  else match report.epochs.find? fun e => decide (e.1 = b.handle) with
    | some e => e.2
    | none => Config.remoteEpoch c.free

/-- The channel record after a commit changes its binding (R196). -/
def Chan.rebind (x : Chan) (old new : Option Binding) (epoch : Byte) : Chan :=
  match old, new with
  | none, none => x
  | none, some b =>
    { x with serial := x.serial + 1, credit := b.grant - x.unresolved, epoch := epoch, isOpen := false, since := 0 }
  | some _, none => { x with serial := x.serial + 1, credit := 0 - x.unresolved, isOpen := false, since := 0 }
  | some a, some b =>
    if a.sameDest b then
      if b.grant < a.grant then { x with serial := x.serial + 1, credit := b.grant - x.unresolved }
      else { x with credit := x.credit + (b.grant - a.grant : Int) }
    else { x with serial := x.serial + 1, credit := b.grant - x.unresolved, epoch := epoch, isOpen := false, since := 0 }

def bindingOf (l : List Binding) (p : Producer) : Option Binding := l.find? fun b => b.who = p

/-- The producers whose binding differs between two configurations. -/
def changedProducers (lo ln : List Binding) : List Producer :=
  ((lo ++ ln).map Binding.who).dedup.filter fun p => bindingOf lo p ≠ bindingOf ln p

/-- A local producer's record, or the serial of an import entry's producer, takes the change. -/
def Core.rebind (c : Core) (report : HandReport) (lo ln : List Binding) (p : Producer) : Core :=
  let old := bindingOf lo p
  let new := bindingOf ln p
  if c.isLocal p then
    let e := match new with | some b => c.bindEpoch report b | none => 0
    { (c.setProd p ((c.prod p).rebind old new e)) with free := c.free + 1 }
  else match p with
    | .chan d g n =>
      let k := d.toNat * 0x10000 + chanKey g n
      if bindingCut old new || old.isNone then { c with impSerial := Tbl.set c.impSerial k (Tbl.get c.impSerial k 0 + 1) 0 } else c
    | _ => c

/-- The queues that a commit resets with cause CONFIG: those whose EN, ring size or ring base change, and those an old binding that ends,
moves or shrinks could reach. -/
def cutQueues (old new : Core) (ids : List Nat) : List QueueId :=
  let lo := old.bindings.filter fun b => match b.who with | .steward _ => false | _ => true
  let ln := new.bindings
  let own := (changedQueues old new ids).filter fun i => decide (old.qcfg i &&& 0x8F1FFFE0#32 ≠ new.qcfg i &&& 0x8F1FFFE0#32)
  (own ++ (lo.filter fun b => bindingCut (some b) (bindingOf ln b.who)).flatMap fun b => if b.toPair then [] else old.reaches b.handle).dedup

/-- A ring that a hand moves or resizes ends its walk at the commit, in its old place. -/
def Core.leaveRing (c : Core) (old : Core) (i : QueueId) : Core :=
  if old.qcfg i &&& 0x0F1FFFE0#32 = c.qcfg i &&& 0x0F1FFFE0#32 then c
  else
    let t := c.cfg
    let c := (List.range (c.queue i).walk.length).foldl (fun c _ => c.walkSlot i) { c with cfg := old.cfg }
    { c with cfg := t }.setQueue i ((c.queue i).point 0 0)

/-- The producers whose destination differs between two configurations. -/
def movedProducers (lo ln : List Binding) : List Producer :=
  (changedProducers lo ln).filter fun p => match bindingOf lo p, bindingOf ln p with
    | some a, some b => !a.sameDest b
    | _, _ => true

/-- An epoch notice of an old destination does not reach a channel of this device that the commit binds elsewhere: EPOCH and the mark belong
to the new binding (R196, R198). -/
def Core.dropNotices (c : Core) (ps : List Producer) : Core :=
  { c with fly := c.fly.filter fun f => match f.parcel with
    | .notice p _ _ => !(c.isLocal p && ps.contains p)
    | _ => true }

/-- Queues and channels at a commit: resets on the old configuration of their rings, then the bindings; the island's waiting cards go to a
destination bound now (R333). -/
def Core.commitQueues (c : Core) (old : Core) (ids : List Nat) (report : HandReport) : Core :=
  let lo := old.bindings
  let ln := c.bindings
  let c := (cutQueues old c ids).foldl (fun c i => (c.resetQueueAt i 3 (old.qcfg i)).leaveRing old i) c
  let c := c.dropNotices (movedProducers lo ln)
  let c := (changedProducers lo ln).foldl (fun c p => c.rebind report lo ln p) c
  if (changedProducers lo ln).contains .island then c.metPump 90 else c

/-! ### Lines, pins, interrupt targets, pairs, posies (R204, R215, R232, R255, R294) -/

/-- The level of a trigger source (R229). -/
def Core.sourceLevel (c : Core) (src : BitVec 16) : Bool :=
  let n := src.toNat
  if n < 0x120 then !(c.cap (BitVec.ofNat 9 n)).fifo.isEmpty
  else if 0x200 ≤ n ∧ n < 0x240 then (c.qd (BitVec.ofNat 6 n)).latched
  else if 0x400 ≤ n ∧ n < 0x440 then
    let x := c.cxp (BitVec.ofNat 4 ((n - 0x400) / 4))
    (match n % 4 with | 0 => x.fstart | 1 => x.fend | 2 => x.line | _ => x.trigsent)
  else if 0x500 ≤ n ∧ n < 0x520 then
    let x := c.eth (BitVec.ofNat 3 ((n - 0x500) / 4))
    (match n % 4 with | 0 => x.arr | 1 => x.txdone | 2 => x.cyc | _ => x.lchg)
  else if 0x1000 ≤ n ∧ n < 0x2000 then (c.cmp (BitVec.ofNat 12 n)).pend
  else if 0x2000 ≤ n ∧ n < 0x3000 then (c.dm (BitVec.ofNat 12 n)).miss
  else if 0x3000 ≤ n ∧ n < 0x3100 then c.fabric.sw.getLsbD (n - 0x3000)
  else if 0x3200 ≤ n ∧ n < 0x3320 then decide ((c.unit (BitVec.ofNat 16 (n - 0x3200))).errWord ≠ 0)
  else if n = 0x3400 then c.aon.inDip
  else if n = 0x3401 then c.time.stat.getLsbD 4
  else if n = 0x3402 then c.time.stat.getLsbD 1 || c.time.stat.getLsbD 2
  else if n = 0x3403 then c.slack.capped
  else false

/-- A line takes the level its new selection gives it; one that goes to 1 presents an edge stamped with the commit instant (R232). -/
def Core.reselect (c : Core) (l : BitVec 12) (at_ : DWord) : Core :=
  let w := c.lineCfg l
  let new := w.getLsbD 31 && !w.getLsbD 30 && (c.sourceLevel (w.setWidth 16) != w.getLsbD 29)
  let old := c.lineLevel l
  let c := { c with fabric := { c.fabric with level := Tbl.set c.fabric.level l.toNat new false } }
  if new && !old then c.riseLine l at_ else c

def Core.commitLines (c : Core) (ids : List Nat) (at_ : DWord) : Core :=
  (ids.filter fun k => decide (sid 0x05 0 ≤ k ∧ k < sid 0x05 0x4000)).foldl (fun c k => c.reselect (BitVec.ofNat 12 (k - sid 0x05 0)) at_) c

/-- A pin's function changes; every return edge that is pending is applied at the commit (R241, R255). -/
def Core.repin (c : Core) (old : Core) (n : Byte) : Core :=
  let f := pinFunc (old.pcfg n)
  let f' := pinFunc (c.pcfg n)
  let u : BitVec 16 := n.setWidth 16
  if f = f' then c
  else
    let c := if f = 3 then (c.applyReturns u never).missAll u missFlush else c
    if f' = 3 then c.driveIdle u else c

/-- The pin whose PCFG a setting is. -/
def pinOfId (k : Nat) : Option Byte :=
  let off := 4 * (k % 0x1000000)
  if k / 0x1000000 = 0x07 ∧ off % 0x20000 < 0x80 then some (BitVec.ofNat 8 (32 * (off / 0x20000) + off % 0x20000 / 4)) else none

def Core.commitPins (c : Core) (old : Core) (ids : List Nat) : Core :=
  (ids.filterMap pinOfId).foldl (fun c n => c.repin old n) c

/-- A PENDING source whose TARGET changes is withdrawn from the target that has it latched; one whose level has fallen stays latched until the
claim (R288, R294). -/
def Core.retarget (c : Core) (old : Core) (k : Nat) : Core :=
  let off := 4 * (k % 0x1000000)
  let b : BunchId := BitVec.ofNat 6 (off / 0x4000)
  let i : Byte := BitVec.ofNat 8 (off % 0x4000 / 4)
  if k / 0x1000000 = 0x0D ∧ off % 0x4000 < 0x400 ∧ (old.bicSrc b i >>> 20).setWidth 5 ≠ (c.bicSrc b i >>> 20).setWidth 5 then
    let x := c.bic b
    c.setBic b { x with latch := x.latch.filter fun e => match e.2 with
      | some (j, _) => decide (j ≠ i) || !old.latchPending b (BitVec.ofNat 5 e.1) i
      | none => false }
  else c

/-- A pair whose EN is cleared enters QUIESCE (R215). -/
def Core.commitPair (c : Core) (old : Core) (k : Nat) : Core :=
  if sid 0x0B 0xC0000 ≤ k ∧ k < sid 0x0B 0xC4000 ∧ k % 16 = 2 then
    let h : BitVec 8 := BitVec.ofNat 8 ((k - sid 0x0B 0xC0000) / 16)
    if pairEn (old.pairCfg h) && !pairEn (c.pairCfg h) then c.enterQuiesce (.hostPair h) else c
  else c

/-- The port whose word a setting is, and the word's offset. -/
def ethOfId (k : Nat) : Option (BitVec 3 × Nat) :=
  let off := 4 * (k % 0x1000000)
  if k / 0x1000000 = 0x08 ∧ off < 0x100000 then some (BitVec.ofNat 3 (off / 0x20000), off % 0x20000) else none

/-- Preemption is not active on a port that does not offer it any more, or that runs in another mode (R263); a change of the gate list, the
cycle or the base waits for a cycle start from the commit instant on (R268). -/
def Core.commitEth (c : Core) (old : Core) (at_ : DWord) (k : Nat) : Core :=
  match ethOfId k with
  | none => c
  | some (p, off) =>
    let x := c.eth p
    if off = 0 then
      let keep := ethEn (c.ethCtl p) && ethPreempt (c.ethCtl p) && decide (c.ethMode p = old.ethMode p)
      c.setEth p { x with pact := x.pact && keep }
    else if 0x400 ≤ off ∧ off < 0xC00 then c.setEth p { x with qbvFrom := at_ }
    else c

/-- NEXT of a posy that a hand changes returns to 0 (R204). -/
def Core.commitPosy (c : Core) (k : Nat) : Core :=
  if isPosyId k then { c with posyNext := Tbl.set c.posyNext ((k - sid 0x0B 0x40000) / 64) 0 0 } else c

/-- The monitors that watch a commit of this generation (R235). -/
def Core.commitMonitors (c : Core) (gen : Word) (at_ : DWord) : Core :=
  let ks := (List.filter (fun e : Nat × Word =>
    decide (sid 0x04 0x60000 ≤ e.1 ∧ e.1 < sid 0x04 0x80000 ∧ (e.1 - sid 0x04 0x60000) % 8 = 0)
      && e.2.getLsbD 31 && decide ((e.2 >>> 28).setWidth 3 = 3#3)
      && decide (Tbl.get c.cfg (e.1 + 1) 0 ≤ gen)) c.cfg).map fun e => BitVec.ofNat 12 ((e.1 - sid 0x04 0x60000) / 8)
  { c with fabric := { c.fabric with edges := c.fabric.edges ++ ks.map fun k => (Sink.watch k, at_) } }

/-! ### The commit (R357, R361) -/

/-- The settings that an accepted configuration changes. -/
def changedIds (c : Core) (l : List HandEntry) : List Nat :=
  (l.map HandEntry.id).filter fun k => decide (cfgGet c.cfg k ≠ cfgGet (layEntries c.cfg l) k)

/-- Every owned register takes its new value at once, with its consequences. -/
def Core.commitEntries (c : Core) (l : List HandEntry) (at_ : DWord) (report : HandReport) : Core :=
  let ids := changedIds c l
  let old := c
  let c := { c with cfg := layEntries c.cfg l }
  let c := c.commitQueues old ids report
  let c := ids.foldl (fun c k => ((((c.commitPosy k).commitPair old k).retarget old k).commitPort old k).commitEth old at_ k) c
  (((c.commitPins old ids).commitLines ids at_).commitRef old).holdParent old

/-- A new generation: the current becomes the prior one, and the settings of the hand carry its number. -/
def Core.newGeneration (c : Core) (prior : Tbl Word) (l : List HandEntry) (imgs : List (SprigId × List Byte)) (at_ : DWord) : Core :=
  let s := c.store
  { c with store := { s with
      gen := s.gen + 1
      hasPrior := true
      prior := prior
      priorImages := s.images
      images := imgs.foldl (fun t e => Tbl.set t e.1.toNat e.2 []) s.images
      commits := s.commits + 1
      stamps := l.foldl (fun t e => Tbl.set t e.id (s.commits + 1) 0) s.stamps
      last := at_
      mirrored := false } }

/-- A hand commits at T, unless VF Enable forbids it: then nothing is applied and it is FAILED (R338). -/
def Core.commitHand (c : Core) (slot : BitVec 4) (at_ : DWord) : Core :=
  let h := c.hand slot
  let l := c.ownEntries h
  match c.vfFault l with
  | some r => c.endHand slot .failed r
  | none =>
  let imgs := h.loads.flatMap fun x => (c.targets x.target).map fun g => (g, x.image)
  let gen := c.store.gen + 1
  let report := match h.sys with | some x => x.report | none => {}
  let c' := (c.commitEntries l at_ report).newGeneration c.cfg l imgs at_
  let c' := (pageBunches l).foldl (fun c b => c.flipPage c.cfg b gen at_) c'
  let c' := (c'.commitMonitors gen at_).measure 5 (generationDigest gen c'.cfg)
  (c'.setHand slot { c'.hand slot with gen := gen, instant := some at_ }).endHand slot .committed (ok [])

end Sys2Proof.Machine
end

