-- ==== Sys2Proof/Machine/CmdFam.lean ====
section
/-!
DEFINITION. Sys2Proof/Machine/CmdFam.lean: the queue, pair, sprig and time commands (R189, R215, R222, R223, R349, R369, R500).
-/
namespace Sys2Proof.Machine

/-- A command that waits until `ready` holds of the command at its queue's head. -/
def commandWhen (ready : Core → Cmd → Bool) (q : CmdSrc) (sp : CmdSpec) (body : State → Args → State × Option Reply) (s : State) : Out :=
  match s.core.cmdsOf q with
  | [] => .next s
  | x :: _ => if ready s.core x then command q sp body s else .next s

/-! ### Queues -/

def queueCount : Nat := 16384

/-- QMGR_QSTAT (R189). -/
def Core.queueStat (c : Core) (i : QueueId) : Word :=
  let q := c.queue i
  (q.epoch.setWidth 32 <<< 24) ||| (if q.mark then 0x00800000#32 else 0) ||| BitVec.ofNat 32 q.count

def Core.cmdQueueReset (c : Core) (a : Args) : Core × Option Reply :=
  if queueCount ≤ (a.w 0).toNat then (c, some ⟨stBadParam, []⟩)
  else
    let i : QueueId := (a.w 0).setWidth 14
    if c.quietSprig (queueSprig i) then (c, some ⟨stBusy, []⟩) else (c.resetQueue i 1, some (ok []))

def execQueueReset (q : CmdSrc) (s : State) : Out :=
  command q { opc := 0x0300, who := .supervisors, minLen := 4 } (coreBody fun c a => c.cmdQueueReset a) s

def queueReply (c : Core) (a : Args) : Reply :=
  if queueCount ≤ (a.w 0).toNat then ⟨stBadParam, []⟩
  else ok [c.queueStat ((a.w 0).setWidth 14), c.qcfg ((a.w 0).setWidth 14)]

def execQueueStatus (q : CmdSrc) (s : State) : Out :=
  command q { opc := 0x0301, who := .supervisorsSprigs, minLen := 4 } (readBody fun s a => queueReply s.core a) s

/-! ### Command queue pairs -/

def Core.cmdqCreate (c : Core) (a : Args) : Core × Option Reply :=
  let n := (a.w 0).toNat
  let h : BitVec 8 := (a.w 0).setWidth 8
  if !between 1 n 64 ∨ 15 < (a.w 1).toNat ∨ a.w 2 &&& 0xFFF#32 ≠ 0 ∨ !between 4 (a.w 4).toNat 12 then (c, some ⟨stBadParam, []⟩)
  else if c.quiet (.hostPair h) then (c, some ⟨stBusy, []⟩)
  else if pairEn (c.pairCfg h) then (c, some (conflict 0x84 (num n)))
  else
    let w := 0x80000000#32 ||| (a.w 1 <<< 25) ||| (a.w 4 <<< 21)
    let c := (((c.setCmdReg h 0 (a.w 2)).setCmdReg h 4 (a.w 3)).setCmdReg h 8 w).setHqp h Hqp.reset
    ({ c with cmdPairs := (h :: c.cmdPairs).dedup }, some (ok []))

def execCmdqCreate (q : CmdSrc) (s : State) : Out :=
  command q { opc := 0x0302, who := .pf, minLen := 20 } (coreBody fun c a => c.cmdqCreate a) s

def Core.cmdqDelete (c : Core) (a : Args) : Core × Option Reply :=
  let n := (a.w 0).toNat
  let h : BitVec 8 := (a.w 0).setWidth 8
  if !between 1 n 64 then (c, some ⟨stBadParam, []⟩)
  else if c.quiet (.hostPair h) then (c, some ⟨stBusy, []⟩)
  else if !pairEn (c.pairCfg h) then (c, some (conflict 0x84 (num n)))
  else ((c.setCmdReg h 8 (c.pairCfg h &&& 0x7FFFFFFF#32)).enterQuiesce (.hostPair h), some (ok []))

def execCmdqDelete (q : CmdSrc) (s : State) : Out :=
  command q { opc := 0x0303, who := .pf, minLen := 4 } (coreBody fun c a => c.cmdqDelete a) s

/-! ### Sprigs -/

/-- What every sprig command checks first: the number, R24, QUIESCE. -/
def Core.withSprig (c : Core) (a : Args) (k : SprigId → Core × Option Reply) : Core × Option Reply :=
  if 2048 ≤ (a.w 0).toNat then (c, some ⟨stBadParam, []⟩)
  else
    let g : SprigId := (a.w 0).setWidth 11
    if isSteward g then (c, some ⟨stDenied, []⟩)
    else if c.quietSprig g then (c, some ⟨stBusy, []⟩)
    else k g

/-- SPRIG_STATE names the target's state (R500). -/
def Core.stateConflict (c : Core) (g : SprigId) : Reply := conflict 0x85 ((c.sprig g).state.code.setWidth 32)

/-- A command to a sprig of a gated bunch waits for the bunch to wake (R410). -/
def awakeTarget (c : Core) (x : Cmd) : Bool := !c.asleep (bunchOf ((pword x.own 0).setWidth 11))

def Core.cmdLoad (c : Core) (a : Args) : Core × Option Reply :=
  c.withSprig a fun g =>
    match (c.sprig g).state with
    | .run => (c, some (c.stateConflict g))
    | .wait => (c, some (c.stateConflict g))
    | _ =>
      match imageRefusal c [g] a.inb with
      | some r => (c, some r)
      | none => ((c.loadImage g a.inb).measureImage a.inb, some (ok []))

def execSprigLoad (q : CmdSrc) (s : State) : Out :=
  commandWhen awakeTarget q { opc := 0x0400, who := .supervisors, minLen := 4, needs := true } (coreBody fun c a => c.cmdLoad a) s

def Core.cmdStart (c : Core) (a : Args) : Core × Option Reply :=
  c.withSprig a fun g =>
    match (c.sprig g).state with
    | .disabled => (c.startSprig g, some (ok []))
    | .halted => (c.resumeSprig g, some (ok []))
    | .frozen => (c, some ⟨stFrozen, []⟩)
    | _ => (c, some (ok []))

def execSprigStart (q : CmdSrc) (s : State) : Out :=
  commandWhen awakeTarget q { opc := 0x0401, who := .supervisors, minLen := 4 } (coreBody fun c a => c.cmdStart a) s

def Core.cmdHalt (c : Core) (a : Args) : Core × Option Reply :=
  c.withSprig a fun g =>
    match (c.sprig g).state with
    | .run => (c.haltSprig g, some (ok []))
    | .wait => (c.haltSprig g, some (ok []))
    | .frozen => (c, some ⟨stFrozen, []⟩)
    | _ => (c, some (ok []))

def execSprigHalt (q : CmdSrc) (s : State) : Out :=
  commandWhen awakeTarget q { opc := 0x0402, who := .supervisors, minLen := 4 } (coreBody fun c a => c.cmdHalt a) s

def Core.cmdStep (c : Core) (a : Args) : Core × Option Reply :=
  c.withSprig a fun g =>
    match (c.sprig g).state with
    | .halted => (c.stepSprig g, some (ok []))
    | .frozen => (c, some ⟨stFrozen, []⟩)
    | _ => (c, some (c.stateConflict g))

def execSprigStep (q : CmdSrc) (s : State) : Out :=
  commandWhen awakeTarget q { opc := 0x0403, who := .supervisors, minLen := 4 } (coreBody fun c a => c.cmdStep a) s

/-- SPRIG_RESET is answered when the reset behind QUIESCE is done. -/
def Core.cmdReset (c : Core) (a : Args) : Core × Option Reply :=
  c.withSprig a fun g => (c.enterQuiesce (.sprig g), none)

def execSprigReset (q : CmdSrc) (s : State) : Out :=
  commandWhen awakeTarget q { opc := 0x0404, who := .supervisors, minLen := 4 } (coreBody fun c a => c.cmdReset a) s

/-! ### Time -/

def timeReply (c : Core) : Reply :=
  ok [c.time.dtime.setWidth 32, (c.time.dtime >>> 32).setWidth 32, c.time.qual.setWidth 32, c.time.uncert, c.time.stat.setWidth 32]

def execTimeRead (q : CmdSrc) (s : State) : Out :=
  command q { opc := 0x0500, who := .functions } (readBody fun s _ => timeReply s.core) s

/-- TIME_STEP: an amount in two words (log entry 25). -/
def Core.cmdTimeStep (c : Core) (a : Args) : Core × Option Reply :=
  let amount : DWord := a.w 1 ++ a.w 0
  if c.time.busy then (c.ignoredReg (.sprig 0) 222 0x04 0x18, some ⟨stBusy, []⟩)
  else if !c.stepAllowed amount then (c.ignoredReg (.sprig 0) 222 0x04 0x18, some ⟨stBadParam, []⟩)
  else
    let c := c.stepTime amount
    ({ c with time := { c.time with busy := true } }, some (ok []))

def execTimeStep (q : CmdSrc) (s : State) : Out :=
  command q { opc := 0x0501, who := .supervisors, minLen := 8 } (coreBody fun c a => c.cmdTimeStep a) s

def Core.cmdTimeQuality (c : Core) (a : Args) : Core × Option Reply :=
  if 3 < (a.w 0).toNat then (c, some ⟨stBadParam, []⟩) else (c.setQual ((a.w 0).setWidth 2), some (ok []))

def execTimeQuality (q : CmdSrc) (s : State) : Out :=
  command q { opc := 0x0503, who := .supervisors, minLen := 4 } (coreBody fun c a => c.cmdTimeQuality a) s

end Sys2Proof.Machine
end

