-- ==== Sys2Proof/Machine/CxpFam.lean ====
section
/-!
DEFINITION. Sys2Proof/Machine/CxpFam.lean: CoaXPress host connections (spec/08_field_and_camera_io.md, R270 to R272).
-/
namespace Sys2Proof.Machine

/-- The source of event e of connection x (R229). -/
def cxpSource (x : BitVec 4) (e : Nat) : BitVec 16 := BitVec.ofNat 16 (0x0400 + 4 * x.toNat + e)

/-- A connection is enabled, its link up. -/
def Core.cxpUp (c : Core) (x : BitVec 4) : Bool := (c.cxpCtl x).getLsbD 31 && (c.cxp x).link && !c.quiet (.cxpConn x)
/-- The master of its group, which holds the ring, the events and the trigger unit (R270). -/
def Core.cxpRuns (c : Core) (x : BitVec 4) : Bool := c.cxpUp x && c.isMaster x

/-- Ring of a connection (R270). -/
def Core.cxpBase (c : Core) (x : BitVec 4) : Nat :=
  (((c.cxpReg x 0x14).setWidth 8 : Byte) ++ (c.cxpReg x 0x10 &&& 0xFFFFF000#32)).toNat
def Core.cxpSlots (c : Core) (x : BitVec 4) : Nat := ((c.cxpReg x 0x18 >>> 16).setWidth 8 : Byte).toNat
def Core.cxpSlotSize (c : Core) (x : BitVec 4) : Nat := 4096 * ((c.cxpReg x 0x18).setWidth 16 : BitVec 16).toNat

/-- The slot after n. -/
def nextSlot (n slots : Nat) : Nat := if slots = 0 then 0 else (n + 1) % slots

/-- The first image header of a frame arrives: the event is raised; a full ring drops the frame whole. -/
def Core.frameStart (c : Core) (x : BitVec 4) (w h fmt : Word) (stamp : DWord) : Core :=
  let v := c.cxp x
  let t := stamp &&& ~~~7#64
  let full := decide (nextSlot v.rtail.toNat (c.cxpSlots x) = v.rhead.toNat)
  let v' := { v with
    fstart := true, drop := if full then v.drop + 1 else v.drop, frame := if full then none else some ⟨t, w, h, fmt⟩ }
  (c.setCxp x v').source (cxpSource x 0) true true t

/-- CXP_FRAME_START. -/
def execCxpFrameStart (x : BitVec 4) (w h fmt : Word) (stamp : DWord) (s : State) : Out :=
  onCore (fun c => if c.cxpRuns x then c.frameStart x w h fmt stamp else c) s

/-- CXP_LINE: the last data of a LINEDIV-th line. -/
def execCxpLine (x : BitVec 4) (stamp : DWord) (s : State) : Out :=
  onCore (fun c =>
    if c.cxpRuns x && decide ((c.cxpCtl x).setWidth 16 ≠ (0 : BitVec 16)) then
      (c.setCxp x { c.cxp x with line := true }).source (cxpSource x 2) true true (stamp &&& ~~~7#64)
    else c) s

/-- The 64-byte header of a frame (R271). -/
def frameHeader (seq status : Word) (f : CamFrame) (stop : DWord) (written : Nat) : List Byte :=
  bytesOf seq 4 ++ bytesOf status 4 ++ bytesOf f.start 8 ++ bytesOf stop 8 ++ bytesOf f.width 4 ++ bytesOf f.height 4
    ++ bytesOf f.fmt 4 ++ bytesOf (BitVec.ofNat 32 written) 4 ++ List.replicate 24 0

/-- The frame's data and header are written to its slot, RTAIL advances, and the event is raised. -/
def Core.frameEnd (c : Core) (x : BitVec 4) (f : CamFrame) (data : List Byte) (incomplete : Bool) (crc : BitVec 16)
    (stamp : DWord) : Core :=
  let v := c.cxp x
  let t := stamp &&& ~~~7#64
  let slot := c.cxpBase x + v.rtail.toNat * c.cxpSlotSize x
  let body := data.take (c.cxpSlotSize x - 64)
  let cut := decide (body.length < data.length)
  let status : Word := putBit (putBit (putBit 0 0 incomplete) 1 (decide (crc ≠ 0))) 2 cut
  if c.waits slot (64 + body.length) then c else
  let c := (c.unitStore (cxpUnit x) (slot + 64) body []).unitStore (cxpUnit x) slot (frameHeader v.seq status f t body.length) []
  (c.setCxp x { v with
    fend := true, frame := none, seq := v.seq + 1, errCnt := v.errCnt + crc
    rtail := BitVec.ofNat 8 (nextSlot v.rtail.toNat (c.cxpSlots x)) }).source (cxpSource x 1) true true t

/-- CXP_FRAME_END: `crc` packets of the frame, which this connection carried, had CRC errors. Of a frame that is dropped, and on a connection
that is not its group's master, they are counted and nothing more (R270). -/
def execCxpFrameEnd (x : BitVec 4) (data : List Byte) (incomplete : Bool) (crc : BitVec 16) (stamp : DWord) (s : State) : Out :=
  onCore (fun c =>
    if !c.cxpUp x then c
    else match c.isMaster x, (c.cxp x).frame with
      | true, some f => c.frameEnd x f data incomplete crc stamp
      | _, _ => c.setCxp x { c.cxp x with errCnt := (c.cxp x).errCnt + crc }) s

/-- CXP_TRIGGER_PACKET: the oldest edge whose instant has come is sent in a packet that starts now, its delay field the time since (R272). -/
def execCxpTriggerPacket (x : BitVec 4) (s : State) : Out :=
  onCore (fun c =>
    let v := c.cxp x
    match v.trig with
    | [] => c
    | (t, rising) :: rest =>
      if c.time.dtime < t then c
      else (c.setCxp x { v with
        trig := rest, trigsent := true, packet := some ⟨rising, t, c.time.dtime - t⟩ }).source (cxpSource x 3) true true t) s

/-- CXP_LINK_CHANGE. -/
def execCxpLinkChange (x : BitVec 4) (up : Bool) (spd : BitVec 3) (s : State) : Out :=
  onCore (fun c => c.setCxp x { c.cxp x with link := up, spd := spd }) s

end Sys2Proof.Machine
end

