-- ==== Sys2Proof/Machine/FarOps.lean ====
section
/-!
DEFINITION. Sys2Proof/Machine/FarOps.lean: how a far load or far store ends, and requests to a part that is in QUIESCE or reset (R52, R53,
R57, R108, R386, R387).
-/
namespace Sys2Proof.Machine

/-- The far load of sprig g ends with a word: a register or frame slot takes it, or RET completes (R108). -/
def Core.endFarLoad (c : Core) (g : SprigId) (v : Word) (poison : Bool) : Core :=
  match (c.sprig g).farLoad with
  | none => c
  | some f =>
    let c := c.modSprig g fun s => { s with farLoad := none }
    match f.dst with
    | .pc => c.finish g (c.popPc g v poison id)
    | d => c.deliver g d v poison

/-- The far store of sprig g has been accepted, or discarded. -/
def Core.endFarStore (c : Core) (g : SprigId) : Core := c.modSprig g fun s => { s with farStore := none }

/-- The part that answers at a device address, where one part can be in QUIESCE or reset (R386). -/
def partAt (a : Nat) : Option Part :=
  if isScratch a then some (.bunch (scratchBunch a))
  else if isLocals a then some (.bunch (BitVec.ofNat 6 ((a - 0x4800000000) / 0x400000)))
  else none

/-- Whether accesses at a device address are refused with ABANDONED: its bunch, or a GDDR6 channel that it needs, is in QUIESCE or reset,
or the channel has FAILED (R301, R386). -/
def Core.refused (c : Core) (a : Nat) : Bool :=
  (match partAt a with
  | some p => c.quiet p
  | none => false) || (isMem a && decide (c.memAvail a = .gone))

/-- A far load or far store of sprig g is answered ABANDONED: 0 marked poisoned, with an entry (R386). -/
def Core.abandonLoad (c : Core) (g : SprigId) : Core :=
  match (c.sprig g).farLoad with
  | none => c
  | some f => (c.logAbandoned (.sprig g) f.addr.toNat).endFarLoad g 0 true
def Core.abandonStore (c : Core) (g : SprigId) : Core :=
  match (c.sprig g).farStore with
  | none => c
  | some f => (c.logAbandoned (.sprig g) f.addr.toNat).endFarStore g

/-- Far requests outstanding at addresses that are refused now are answered (R385 step 3). -/
def Core.abandonFar (c : Core) : Core :=
  c.sprigs.foldl (fun c e =>
    let g : SprigId := BitVec.ofNat 11 e.1
    let c := match e.2.farLoad with | some f => if c.refused f.addr.toNat then c.abandonLoad g else c | none => c
    match e.2.farStore with | some f => if c.refused f.addr.toNat then c.abandonStore g else c | none => c) c

end Sys2Proof.Machine
end

