-- ==== Sys2Proof/Machine/TlLink.lean ====
section
/-!
DEFINITION. Sys2Proof/Machine/TlLink.lean: import streams, the pair with another device, its loss, and what a tick sends to other devices
(spec/17_teinglink.md, R430 to R444; R389).
-/
namespace Sys2Proof.Machine

/-! ### Producers of other devices -/

/-- The stream of a producer on another device, as this device has seen it (R389). -/
def importKey : Producer → Nat
  | .chan d g n => 0x1000000 + d.toNat * 0x10000 + chanKey g n
  | .farPair d h => 0x3000000 + 256 * d.toNat + h.toNat
  | _ => 0
def Core.importStream (c : Core) (p : Producer) : Chan := Tbl.get c.hchans (importKey p) Chan.reset
def Core.setImport (c : Core) (p : Producer) (x : Chan) : Core :=
  { c with hchans := Tbl.set c.hchans (importKey p) x Chan.reset }

/-- The import entry of a remote producer: its second word (R210). -/
def Core.importWord (c : Core) (p : Producer) : Option Word :=
  match p with
  | .chan d g n =>
    let w : Word := 0x80000000#32 ||| (d.setWidth 32 <<< 22) ||| (g.setWidth 32 <<< 11) ||| (n.setWidth 32 <<< 7)
    (c.cfg.find? fun e : Nat × Word =>
      decide (sid 0x0B 0xC4000 ≤ e.1 ∧ e.1 < sid 0x0B 0xCC000 ∧ e.1 % 2 = 0 ∧ e.2 = w)).map fun e : Nat × Word => cfgGet c.cfg (e.1 + 1)
  | _ => none

/-- Where cards of an import entry go. -/
def importParcel (w : Word) (card : Card) : Parcel :=
  if w.getLsbD 27 then .toPosy (w.setWidth 10) card else .toQueue (w.setWidth 14) card false

/-- The epoch that a card for an import entry's queue carries. -/
def Core.importEpoch (c : Core) (w : Word) : Byte := if w.getLsbD 27 then 0 else (c.queue (w.setWidth 14)).epoch

/-! ### Pairs (R437, R441, R442) -/

/-- The cards and other items kept for device d are given up: cards are refused with an outcome; a report of an isolated commit stays for the
reconnection (R366). -/
def Core.dropTo (c : Core) (d : DeviceId) (o : BitVec 4) : Core :=
  let keep (f : Flight) : Bool := match f.parcel with | .isolated _ _ => true | _ => false
  let gone := (c.messages d).filter fun f => !keep f
  let c := { c with fly := c.fly.filter fun f => decide (c.messageTo f ≠ some d) || keep f }
  gone.foldl (fun c f =>
    match f.parcel with
    | .toRemote _ card _ => c.refuse (devicePlace d) card o
    | _ => c) c

/-- Whether posy p of this device has a member on device d. -/
def Core.posyNames (c : Core) (d : DeviceId) : Bool :=
  c.cfg.any fun e : Nat × Word => isPosyId e.1 && decide (32 ≤ (e.1 - sid 0x0B 0x40000) % 64)
    && (c.posyReg (BitVec.ofNat 10 ((e.1 - sid 0x0B 0x40000) / 64)) 0).getLsbD 31
    && decide ((e.1 - sid 0x0B 0x40000) % 64 - 32 < ((c.posyReg (BitVec.ofNat 10 ((e.1 - sid 0x0B 0x40000) / 64)) 0).setWidth 6 : BitVec 6).toNat)
    && decide (handleDev e.2 = d)

/-- The bindings of this device's producers whose destination handle names device d. -/
def Core.bindingsTo (c : Core) (d : DeviceId) : List Binding :=
  c.bindings.filter fun b => !b.toPair && decide (handleDev b.handle = d) && c.isLocal b.who

/-- The import entries of device d. -/
def Core.importsFrom (c : Core) (d : DeviceId) : List Binding :=
  c.importBindings.filter fun b => match b.who with | .chan e _ _ => decide (e = d) | _ => false

/-- Both devices take part in a system hand that is OPEN or PENDING. -/
def Core.sharesHand (c : Core) (d : DeviceId) : Bool :=
  c.hands.any fun e => match e.2.st, e.2.sys with
    | .open, some x => x.mask.getLsbD d.toNat || decide (x.coordinator = d)
    | .pending, some x => x.mask.getLsbD d.toNat || decide (x.coordinator = d)
    | _, _ => false

/-- The peer that a remote DMA descriptor names (R440). -/
def rdmaPeer (w : CardWords) : DeviceId := (w.w2 >>> 23).setWidth 9

/-- A pair is active (R441). -/
def Core.pairActive (c : Core) (d : DeviceId) : Bool :=
  decide (d ≠ c.dev) && (!(c.bindingsTo d).isEmpty || !(c.importsFrom d).isEmpty || c.posyNames d || !(c.messages d).isEmpty || c.sharesHand d
    || (c.tl.rdma.head?).any fun j => decide (rdmaPeer j.words = d))

/-- The state of a pair as TL_PEER shows it (R451). -/
def Core.pairState (c : Core) (d : DeviceId) : PairState :=
  match (c.peer d).st with
  | .lost => .lost
  | .syncing => .syncing
  | _ => if c.pairActive d then .active else .idle

/-- A channel bound to a lost peer: its cards in transit resolve, it takes a new serial and its full grant (R442). A card that a hold keeps
in the outbound slot belongs to the new binding. -/
def Core.renew (c : Core) (d : DeviceId) (b : Binding) : Core :=
  let mine := (c.messages d).filter fun f => match f.parcel with | .toRemote _ card _ => decide (card.route = b.who ∧ card.bcast = none) | _ => false
  let x := mine.foldl (fun x _ => x.settle ⟨outPeerLost, true, true⟩) (c.prod b.who)
  let kept := match x.out with
    | some card => [{ seq := card.seq, serial := x.serial + 1 : Owed }]
    | none => []
  { c with fly := c.fly.filter fun f => !decide (f ∈ mine) }.setProd b.who
    { x with
      serial := x.serial + 1, credit := b.grant - kept.length, owed := kept
      out := x.out.map fun y : Card => { y with serial := x.serial + 1 } }

/-- STATE, CAUSE and POISON of a remote DMA descriptor (R274, R440). -/
def Core.rdmaState (c : Core) (j : RdmaJob) (state cause : BitVec 4) (poison : Bool := false) : Core :=
  c.unitWrite whoTl (scratchBase j.b + j.off.toNat + 28)
    (bytesOf ((state.setWidth 32 <<< 28) ||| (cause.setWidth 32 <<< 24) ||| (if poison then 1 else 0) : Word) 4) false

/-- The running descriptor is ABORTED when its peer is lost. -/
def Core.abortRdmaTo (c : Core) (d : DeviceId) : Core :=
  match c.tl.rdma with
  | [] => c
  | j :: rest => if rdmaPeer j.words = d then { c with tl := { c.tl with rdma := rest } }.rdmaState j dmaAborted 0 else c

/-- Every descriptor of bunch b is ABORTED when the bunch is reset or powered down (R275, R440). -/
def Core.abortRdma (c : Core) (b : BunchId) : Core :=
  let mine := c.tl.rdma.filter fun j => decide (j.b = b)
  mine.foldl (fun c j => c.rdmaState j dmaAborted 0) { c with tl := { c.tl with rdma := c.tl.rdma.filter fun j => decide (j.b ≠ b) } }

/-- A device declares peer d lost (R442). -/
def Core.peerLost (c : Core) (d : DeviceId) : Core :=
  let p := c.peer d
  let imports := c.importsFrom d
  let queues := (imports.flatMap fun b => c.reaches b.handle).dedup
  let c := c.setPeer d { p with st := .lost, pepoch := p.pepoch + 1, acked := 0, sent := 0, rx := 0, nakked := false }
  let c := (c.bindingsTo d).foldl (fun c b => c.renew d b) c
  let c := queues.foldl (fun c i => c.resetQueue i 3) c
  let c := imports.foldl (fun c b =>
    match b.who with
    | .chan e g n =>
      let k := e.toNat * 0x10000 + chanKey g n
      { c with impSerial := Tbl.set c.impSerial k (Tbl.get c.impSerial k 0 + 1) 0 }.setImport b.who
        ((c.importStream b.who).closing 4 c.time.dtime)
    | _ => c) c
  let c := (c.dropTo d outPeerLost).abortRdmaTo d
  let c := { c with
    tl := { c.tl with wait := c.tl.wait.filter fun x => match x with | .forward _ _ => true | x => decide (x.dst ≠ some d) }
    farHeld := c.farHeld.filter fun e : Nat × Bool => decide (e.1 / 1024 ≠ d.toNat)
    hands := c.hands.map fun e : Nat × Hand => (e.1, { e.2 with awaiting := e.2.awaiting.filter fun a => decide (a.1 ≠ d) }) }
  c.log { cls := 1, source := 0x32, code := 0x0102, unit := d.setWidth 32, detail := d.setWidth 16, addr := 0 }

/-! ### What a tick sends (R430, R432, R437, R443) -/

/-- The virtual channel on which a flit leaves by port t (R432). -/
def Core.outVc (c : Core) (f : Flit) (arrived t : BitVec 2) : BitVec 1 :=
  if tlDateline (c.tlCtl t) then 1 else if tlDim (c.tlCtl t) = tlDim (c.tlCtl arrived) then f.vc else 0

/-- The room of a replay buffer (R430), and of a pair and the device (R437). -/
def replayMax : Nat := 512
def pairMax : Nat := 256
def unackedMax : Nat := 8192

/-- The class of an item (R432): cards, the class of a flit that is passed on, else CTRL. -/
def Core.itemClass (c : Core) : TlItem → BitVec 3
  | .message d q => match (c.messages d)[(q - (c.peer d).acked).toNat]? with
    | some f => (match f.parcel with | .toRemote _ _ _ => 2 | _ => 1)
    | none => 1
  | .forward f _ => f.cls
  | .time => 0
  | _ => 1

/-- The virtual channel on which an item leaves by port t: one of this device starts on channel 0. -/
def Core.itemVc (c : Core) (t : BitVec 2) : TlItem → BitVec 1
  | .forward f a => c.outVc f a t
  | _ => if tlDateline (c.tlCtl t) then 1 else 0

/-- An item leaves by the port for its device, when the replay buffer and the neighbour's buffers have room; a forwarded flit that no port takes
is lost. `none`: it waits. -/
def Core.emitItem (c : Core) (x : TlItem) : Option Core :=
  match x.dst with
  | none => some c
  | some d =>
    match c.portFor d with
    | none => match x with | .forward _ _ => some c | _ => none
    | some t =>
      let p := c.tlPort t
      let k := linkKey (c.itemClass x) (c.itemVc t x)
      if replayMax ≤ p.buf.length ∨ linkRoom ≤ Tbl.get p.spent k 0 then none
      else
        let x := match x with | .forward f a => TlItem.forward { f with vc := c.outVc f a t } a | x => x
        some (c.setTlPort t ((p.put x).spend k))

/-- The items beside messages that wait go out in order as far as they can. -/
def Core.sendWaiting (c : Core) : Core :=
  c.tl.wait.foldl (fun c x => (c.emitItem x).getD (c.tlWait x)) { c with tl := { c.tl with wait := [] } }

/-- Messages sent and not acknowledged, to all devices. -/
def Core.unackedAll (c : Core) : Nat := c.peers.foldl (fun n e => n + e.2.sent) 0

/-- The next messages to device d go out while there is room (R437). -/
def Core.sendMessages (c : Core) (d : DeviceId) : Nat → Core
  | 0 => c
  | n + 1 =>
    let p := c.peer d
    if p.st ≠ .idle ∨ pairMax ≤ p.sent ∨ unackedMax ≤ c.unackedAll ∨ (c.messages d).length ≤ p.sent then c
    else match c.portFor d with
      | none => c
      | some _ =>
        match c.emitItem (.message d (p.acked + BitVec.ofNat 16 p.sent)) with
        | none => c
        | some c' => (c'.setPeer d { p with sent := p.sent + 1 }).sendMessages d n

/-- The cards that peer d's channels sent and that no acknowledgement it has received covers, by channel (R443). -/
def PairRec.counts (p : PairRec) : List (Nat × Nat) :=
  ((p.fresh.map Prod.snd).dedup).map fun k => (k, (p.fresh.filter fun e => e.2 = k).length)

/-- A LOST pair whose peer is reachable enters SYNCING and sends PAIR_SYNC (R443). -/
def Core.startSync (c : Core) (d : DeviceId) : Core :=
  let p := c.peer d
  (c.setPeer d { p with st := .syncing }).tlWait (.sync d p.pepoch c.aon.inc p.counts)

/-- What goes to device d at a tick: a card to a device that is absent, or whose pair stays LOST, is refused REMOTE_DOWN (R195, R442). -/
def Core.serveDevice (c : Core) (d : DeviceId) : Core :=
  if !(c.tlRoute d).getLsbD 31 then (if (c.peer d).sent = 0 then c.dropTo d outRemoteDown else c)
  else if (c.peer d).st = .lost then
    (if (c.portFor d).isSome then c.startSync d else c.dropTo d outRemoteDown)
  else c.sendMessages d pairMax

/-- The other devices for which something waits. -/
def Core.awaitedDevices (c : Core) : List DeviceId :=
  ((c.fly.filterMap c.messageTo) ++ (c.peers.filterMap fun e => if e.2.st = .lost then some (BitVec.ofNat 9 e.1) else none)).dedup.filter
    fun d => d ≠ c.dev

/-- Teinglink's part of a tick. -/
def Core.tlSend (c : Core) : Core := (c.awaitedDevices.foldl Core.serveDevice c).sendWaiting

end Sys2Proof.Machine
end

