-- ==== Sys2Proof/Machine/ErrFam.lean ====
section
/-!
DEFINITION. Sys2Proof/Machine/ErrFam.lean: error cards and the host error ring, freezing and thawing, QUIESCE, close cards, and errors
that stop a unit or the core (spec/14_errors_and_ordering.md, R373 to R389, R501).
-/
namespace Sys2Proof.Machine

/-! ### Entries and cards (R374, R375, R379) -/

/-- The words of an entry; word 0 carries the epoch of the Steward error queue. -/
def ErrEntry.card (e : ErrEntry) (epoch : Byte) : CardWords :=
  { w0 := sysHeader 0x03 0x10 epoch
    w1 := (e.info.cls.setWidth 32 <<< 28) ||| (e.info.source.setWidth 32 <<< 16) ||| e.info.code.setWidth 32
    w2 := e.info.unit
    w3 := (e.info.detail.setWidth 32 <<< 16) ||| (e.info.addr >>> 32).setWidth 32
    w4 := e.info.addr.setWidth 32
    w5 := e.at_.setWidth 32, w6 := (e.at_ >>> 32).setWidth 32
    w7 := (e.seq.setWidth 32 <<< 16) ||| e.lost.setWidth 32 }

/-- The entry at a log index. -/
def ErrBlk.entry (e : ErrBlk) (i : BitVec 11) : Option ErrEntry := Tbl.get e.ring (i.toNat % 1024) none

/-- The image of the entry at a log index; one never written reads 0. -/
def Core.errCard (c : Core) (i : BitVec 11) : CardWords :=
  match c.err.entry i with
  | some e => e.card (c.prod .errorEngine).epoch
  | none => { w0 := 0, w1 := 0, w2 := 0, w3 := 0, w4 := 0, w5 := 0, w6 := 0, w7 := 0 }

/-- ERROR_CARD_SEND: the error engine sends the next entry to queue 7 while it holds credit (R374). -/
def execErrorCardSend (s : State) : Out :=
  onCore (fun c =>
    let p : Producer := .errorEngine
    let x := c.prod p
    if c.err.sdel = c.err.tail ∨ x.credit < 1 then c
    else
      let card : Card := { w := c.errCard c.err.sdel, route := p, serial := x.serial, seq := x.nextSeq }
      (({ c with err := { c.err with sdel := c.err.sdel + 1 } }).setProd p x.spend).launch (prodKey p) (.toQueue 7 card false)) s

/-- Fields of ERR_HQ_CFG and the ring's base (R378, R379). -/
def ErrBlk.hqEn (e : ErrBlk) : Bool := e.hqCfg.getLsbD 31
def ErrBlk.hqSize (e : ErrBlk) : Nat := pairSize e.hqCfg
def ErrBlk.hqBase (e : ErrBlk) : Nat := (e.hqBaseHi ++ (e.hqBaseLo &&& 0xFFFFF000#32)).toNat
def ErrBlk.hqFill (e : ErrBlk) : Nat := ringDiff e.hqSize (e.hqTail.setWidth 17) (e.hqHead.setWidth 17)

/-- ERR_HOST_COPY: the next entry is written into a free slot of the host error ring, then the tail shadow (R379). -/
def execErrHostCopy (s : State) : Out :=
  onCore (fun c =>
    let e := c.err
    if !e.hqEn ∨ e.hcopy = e.tail ∨ 2 ^ e.hqSize ≤ e.hqFill then c
    else
      let t : BitVec 13 := (ringNext e.hqSize (e.hqTail.setWidth 17)).setWidth 13
      let c := c.hostWrite (e.hqBase + 32 * (e.hqTail.toNat % 2 ^ e.hqSize)) (cardBytes (c.errCard e.hcopy))
      let c := c.hostWrite (e.hqBase + 32 * 2 ^ e.hqSize) (bytesOf (t.setWidth 64 : DWord) 8)
      { c with err := { c.err with hqTail := t, hcopy := e.hcopy + 1 } }) s

/-- A write of ERR_LOG_ACK that does not lie between the old value and TAIL is ignored; only Steward sprigs write it (R378). -/
def Core.writeErrAck (c : Core) (m : Master) (v : Word) : Core :=
  c.writeBy m (match m with | .sprig g => isSteward g | _ => false) fun c =>
    let a : BitVec 11 := v.setWidth 11
    if (a - c.err.ack).toNat ≤ (c.err.tail - c.err.ack).toNat then { c with err := { c.err with ack := a } } else c

def execErrLogAckWrite (m : Master) (v : Word) (s : State) : Out := onCore (fun c => c.writeErrAck m v) s

/-- ERR_LOST as it reads, and the block after the read (R378). -/
def Core.readErrLost (c : Core) : Word × Core :=
  (c.err.lostCorrected ++ c.err.lostOther, { c with err := { c.err with lostCorrected := 0, lostOther := 0 } })

def execErrLostRead (m : Master) (s : State) : Out :=
  onCore (fun c => c.readBy m false fun c => c.readErrLost) s

/-- A write of ERR_HQ_HEAD frees slots; R214 judges it. -/
def Core.writeErrHead (c : Core) (m : Master) (v : Word) : Core :=
  c.writeBy m true fun c =>
    let e := c.err
    let h : BitVec 13 := BitVec.ofNat 13 (v.toNat % 2 ^ (e.hqSize + 1))
    if e.hqFill < ringDiff e.hqSize (h.setWidth 17) (e.hqHead.setWidth 17) then c.ignoredReg m 214 0x0E 0x20
    else { c with err := { c.err with hqHead := h } }

def execErrHqHeadWrite (m : Master) (v : Word) (s : State) : Out := onCore (fun c => c.writeErrHead m v) s

/-- ERR_HQ_BASE_LO, ERR_HQ_BASE_HI, ERR_HQ_CFG: the PF alone. EN rising starts copying at the oldest entry that is not free (R378, R379). -/
def Core.writeErrHq (c : Core) (m : Master) (off : Nat) (v : Word) : Core :=
  c.writeBy m (decide (m = .host 0)) fun c =>
    let e := c.err
    match off with
    | 0x10 => { c with err := { e with hqBaseLo := v &&& 0xFFFFF000#32 } }
    | 0x14 => { c with err := { e with hqBaseHi := v } }
    | _ =>
      let w := v &&& 0x81E00000#32
      { c with err := { e with
          hqCfg := w
          hcopy := if w.getLsbD 31 && !e.hqEn then e.tail - BitVec.ofNat 11 e.used else e.hcopy } }

/-! ### Commands (R383, R384) -/

/-- The entries that the log holds with SEQ from `first` on, at most n (R383). -/
def Core.errFrom (c : Core) (first : BitVec 16) (n : Nat) : List CardWords :=
  ((List.range 1024).filterMap fun k =>
    match c.err.entry (c.err.tail - BitVec.ofNat 11 (1024 - k)) with
    | some e => if (e.seq - first).toNat < 0x8000 then some (e.card (c.prod .errorEngine).epoch) else none
    | none => none).take n

def Core.cmdErrRead (c : Core) (q : CmdSrc) (a : Args) : Core × Option Reply :=
  if !between 1 (a.w 1).toNat 1024 ∨ 0xFFFF < (a.w 0).toNat then (c, some ⟨stBadParam, []⟩)
  else
    let es := (c.errFrom ((a.w 0).setWidth 16) (a.w 1).toNat).take (a.x.outLen / 32)
    c.bulkReply q a.x [num es.length] (es.flatMap cardBytes)

def execErrRead (q : CmdSrc) (s : State) : Out :=
  command q { opc := 0x0700, who := .supervisors, minLen := 8, needs := true } (coreBody fun c a => c.cmdErrRead q a) s

/-- A freezable master as a command names it (R383). -/
inductive Freezable where
  | sprig (g : SprigId)
  | func (f : FuncId)
  | peer (d : DeviceId)
  | engine (b : BunchId)
deriving DecidableEq, Repr

def freezable (kind index : Word) : Option Freezable :=
  let n := index.toNat
  match kind.toNat with
  | 0 => if n < 2048 then some (.sprig (index.setWidth 11)) else none
  | 1 => if n < 16 then some (.func (index.setWidth 4)) else none
  | 2 => if n < 512 then some (.peer (index.setWidth 9)) else none
  | 3 => if n < 64 then some (.engine (index.setWidth 6)) else none
  | _ => none

/-- R383: a Steward sprig, or the function that issues the command. -/
def Core.freezeDenied (c : Core) (q : CmdSrc) (x : Freezable) : Bool :=
  match x, q with
  | .sprig g, _ => isSteward g
  | .func f, .pair h => decide (c.cmdFunc h = f)
  | _, _ => false

/-- The master's part is in QUIESCE (R384, R386). -/
def Core.freezeBusy (c : Core) (x : Freezable) : Bool :=
  match x with
  | .sprig g => c.quietSprig g
  | .engine b => c.quiet (.bunch b)
  | .peer d => c.quiet (.remote d)
  | .func _ => false

/-- The port by which a peer's traffic goes, when its route is set (R435). -/
def Core.peerPort (c : Core) (d : DeviceId) : Option Part :=
  if (c.tlRoute d).getLsbD 31 then some (.tlPort ((c.tlRoute d >>> 6).setWidth 2)) else none

/-- A THAW meets QUIESCE of the master's own part or of a peer's port (R384). -/
def Core.thawBusy (c : Core) (x : Freezable) : Bool :=
  c.freezeBusy x || match x with
    | .peer d => (match c.peerPort d with | some p => c.quiet p | none => false)
    | _ => false

def Core.frozenCause (c : Core) (x : Freezable) : Option Byte :=
  match x with
  | .sprig g => if (c.sprig g).state = .frozen then some (c.sprig g).cause else none
  | .func f => if Tbl.get c.err.ffrz f.toNat 0 = 0 then none else some (Tbl.get c.err.ffrz f.toNat 0)
  | .peer d => if Tbl.get c.err.pfrz d.toNat 0 = 0 then none else some (Tbl.get c.err.pfrz d.toNat 0)
  | .engine b => if Tbl.get c.err.dfrz b.toNat 0 = 0 then none else some (Tbl.get c.err.dfrz b.toNat 0)

def Core.freezeOne (c : Core) (x : Freezable) : Core :=
  match x with
  | .sprig g => c.freezeByCommand g
  | .func f => c.freezeMaster (.host f) causeCommand
  | .peer d => c.freezeMaster (.peer d) causeCommand
  | .engine b => c.freezeDma b causeCommand

/-- The checks FREEZE and THAW share, in the order DENIED, BUSY. -/
def Core.withFreezable (c : Core) (q : CmdSrc) (a : Args) (busy : Freezable → Bool) (k : Freezable → Core × Option Reply) : Core × Option Reply :=
  match freezable (a.w 0) (a.w 1) with
  | none => (c, some ⟨stBadParam, []⟩)
  | some x =>
    if c.freezeDenied q x then (c, some ⟨stDenied, []⟩)
    else if busy x then (c, some ⟨stBusy, []⟩)
    else k x

/-- A FREEZE or THAW of a sprig, or engine, of a gated bunch waits for the bunch to wake (R410). -/
def awakeMaster (c : Core) (x : Cmd) : Bool :=
  match freezable (pword x.own 0) (pword x.own 1) with
  | some (.sprig g) => !c.asleep (bunchOf g)
  | some (.engine b) => !c.asleep b
  | _ => true

def execFreeze (q : CmdSrc) (s : State) : Out :=
  commandWhen awakeMaster q { opc := 0x0701, who := .supervisors, minLen := 8 }
    (coreBody fun c a => c.withFreezable q a c.freezeBusy fun x => (c.freezeOne x, some (ok []))) s

/-- A THAW entry: the cause that was cleared (R376, R383). -/
def Core.logThaw (c : Core) (x : Freezable) (cause : Byte) : Core :=
  let (source, unit) : Byte × Word := match x with
    | .sprig g => (0x30, g.setWidth 32)
    | .func f => (0x31, f.setWidth 32)
    | .peer d => (0x32, d.setWidth 32)
    | .engine b => (0x33, b.setWidth 32)
  c.log { cls := 0, source := source, code := 0x000D, unit := unit, detail := cause.setWidth 16, addr := 0 }

/-- The thaw itself: NEWPC names a sprig's PC, DISCARD aborts an engine's descriptors (R383). -/
def Core.thawOne (c : Core) (x : Freezable) (flags pc : Word) : Core :=
  match x with
  | .sprig g => c.thawSprig g (if flags.getLsbD 0 then some (pc.setWidth 16) else none)
  | .func f => { c with err := { c.err with ffrz := Tbl.set c.err.ffrz f.toNat 0 0 } }
  | .peer d => { c with err := { c.err with pfrz := Tbl.set c.err.pfrz d.toNat 0 0 } }
  | .engine b =>
    let c := { c with err := { c.err with dfrz := Tbl.set c.err.dfrz b.toNat 0 0 } }
    if flags.getLsbD 1 then c.abortDma b else c

def Core.cmdThaw (c : Core) (q : CmdSrc) (a : Args) : Core × Option Reply :=
  if 3 < (a.w 2).toNat ∨ ((a.w 2).getLsbD 0 ∧ 0xFFFF < (a.w 3).toNat) then (c, some ⟨stBadParam, []⟩)
  else c.withFreezable q a c.thawBusy fun x =>
    match c.frozenCause x with
    | none => (c, some ⟨stConflict, []⟩)
    | some cause => ((c.thawOne x (a.w 2) (a.w 3)).logThaw x cause, some (ok []))

def execThaw (q : CmdSrc) (s : State) : Out :=
  commandWhen awakeMaster q { opc := 0x0702, who := .supervisors, minLen := 16 } (coreBody fun c a => c.cmdThaw q a) s

/-! ### QUIESCE (R385 to R388, R501) -/

/-- DETAIL and UNIT of a QUIESCE_CUT entry (R501); a SerDes group and the core are no part of it. -/
def cutName : Part → Option (BitVec 16 × Word)
  | .sprig g => some (0, g.setWidth 32)
  | .bunch b => some (1, b.setWidth 32)
  | .posy p => some (2, p.setWidth 32)
  | .hostPair h => some (3, h.setWidth 32)
  | .ethPort p => some (4, p.setWidth 32)
  | .cxpConn x => some (5, x.setWidth 32)
  | .channel k => if k.toNat < 36 then some (6, k.setWidth 32) else none
  | .tlPort t => some (7, t.setWidth 32)
  | .remote d => some (8, d.setWidth 32)
  | .serdes _ => none
  | .core => none

/-- QUIESCE: a part enters QUIESCE now. -/
def execQuiesce (p : Part) (s : State) : Out := onCoreIf (cutName p).isSome (fun c => c.enterQuiesce p) s

/-- The instant at which a part entered QUIESCE. -/
def Core.quietSince (c : Core) (p : Part) : Option DWord := (c.quiesce.find? fun e => e.1 == p).map Prod.snd

/-- Ticks of 10 µs. -/
def windowTicks : Nat := 80000

/-- A unit stands in reset until it is released (R403). -/
def Core.putInReset (c : Core) (p : Part) : Core :=
  if p ∈ c.power.inReset then c else { c with power := { c.power with inReset := c.power.inReset ++ [p] } }

/-- A pair's commands not yet answered are answered ABANDONED in ring order (R386). -/
def Core.abandonCmds (c : Core) (q : CmdSrc) : Core :=
  (c.cmdsOf q).foldl (fun c x => c.sendReply q x ⟨stAbandoned, []⟩) (c.setCmds q [])

/-- A command or host queue pair at the end of its window: its indices take their reset values; one that CMDQ_DELETE ended carries no
commands any more. -/
def Core.cutPair (c : Core) (h : BitVec 8) : Core :=
  let c := if c.isCmdPair h then c.abandonCmds (.pair (h.setWidth 7)) else c
  let c := c.setHqp h Hqp.reset
  if pairEn (c.pairCfg h) then c else { c with cmdPairs := c.cmdPairs.erase h }

/-- A deal unit that is reset discards its queue, and DEAL_UTAIL returns to 0 (R241). -/
def Core.resetUnitQueue (c : Core) (u : BitVec 16) : Core :=
  let c := c.missAll u missReset
  c.setUnit u { c.unit u with tail := 0 }

/-- An Ethernet or CoaXPress port at the end of its window takes its reset state (R386). -/
def Core.cutEth (c : Core) (p : BitVec 3) : Core :=
  ((c.resetUnitQueue (0x100#16 + p.setWidth 16)).setEth p Eth.reset).dropShadows (regAt 0x08 (0x20000 * p.toNat)) 0x20000
def Core.cutCxp (c : Core) (x : BitVec 4) : Core :=
  ((c.resetUnitQueue (0x110#16 + x.setWidth 16)).setCxp x Cxp.reset).dropShadows (regAt 0x09 (0x10000 * x.toNat)) 0x10000

/-- A channel controller takes its reset state; the contents of its devices stay (R310, R311). -/
def Core.cutChannel (c : Core) (k : Nat) : Core :=
  (c.setGdc k { Gdc.reset with zero := (c.gdc k).zero }).dropShadows (regAt 0x0A (0x4000 * k)) 0x4000

/-- The crossings into a bunch's event latches resynchronise when the bunch is reset (R398, R399). -/
def Core.resyncLatches (c : Core) (b : BunchId) : Core :=
  { c with latchX := (List.range 256).foldl (fun t k =>
      Tbl.set t (256 * b.toNat + k) { resync := true } LatchX.reset) c.latchX }

/-- A bunch at the end of its window, before its reset or power-down proceeds (R385, R386). -/
def Core.cutBunch (c : Core) (b : BunchId) : Core := (((c.abortRdma b).resetBunchNow b).resyncLatches b).abandonFar

/-- PWR_BWAKE of a bunch (R412). -/
def Core.bwake (c : Core) (b : BunchId) : Word := cfgGet c.cfg (sid 0x01 (0x300 + 4 * b.toNat))

/-- The sprigs of a bunch that will restart when it wakes: those in WAIT, and at a power entry those in RUN, when EN is 1 (R412, R415). -/
def Core.noteRestart (c : Core) (b : BunchId) (running : Bool) : Core :=
  let m : Word :=
    if !(c.bwake b).getLsbD 31 then 0
    else (List.range 32).foldl (fun m s =>
      match (c.sprig (sprigAt b (BitVec.ofNat 5 s))).state with
      | .wait => putBit m s true
      | .run => putBit m s running
      | _ => m) 0
  { c with power := { c.power with restart := Tbl.set c.power.restart b.toNat m 0 } }

/-- What a bunch' power-down or reset keeps of its sprigs: at a power entry the ones to restart, unless it is gated already. -/
def Core.keepRestart (c : Core) (b : BunchId) : Core :=
  if c.power.request.isSome then (if c.asleep b then c else c.noteRestart b true)
  else { c with power := { c.power with restart := Tbl.set c.power.restart b.toNat 0 0 } }

/-- The window of a part ends: what is still outstanding is abandoned, the epoch rises, and the reset proceeds (R385). -/
def Core.cut (c : Core) (p : Part) : Core :=
  match p with
  | .sprig g => (c.resetSprigNow g).answerReset g (ok [])
  | .bunch b => ((c.keepRestart b).cutBunch b).putInReset p
  | .posy _ => (c.bumpEpoch p).leaveQuiesce p
  | .hostPair h => ((c.cutPair h).bumpEpoch p).leaveQuiesce p
  | .ethPort n => ((c.cutEth n).bumpEpoch p).putInReset p
  | .cxpConn x => ((c.cutCxp x).bumpEpoch p).putInReset p
  | .channel k => (((c.cutChannel k.toNat).bumpEpoch p).abandonFar).putInReset p
  | .tlPort t => ((((c.portDown t).setTlPort t TlPort.reset).holdParent c).bumpEpoch p).putInReset p
  | .remote d => ((c.peerLost d).bumpEpoch p).leaveQuiesce p
  | .serdes _ => (c.bumpEpoch p).putInReset p
  | .core => c

/-- A QUIESCE_CUT entry (R501). -/
def Core.logCut (c : Core) (p : Part) : Core :=
  match cutName p with
  | some (detail, unit) => c.log { cls := 1, source := 0x0E, code := 0x0019, unit := unit, detail := detail, addr := 0 }
  | none => c

/-- QUIESCE_CUT: 10 µs after Q the window of a part ends. A part in reset has had its cut. -/
def execQuiesceCut (p : Part) (s : State) : Out :=
  onCore (fun c =>
    match c.quietSince p with
    | none => c
    | some t =>
      if (c.time.dtime - t).toNat < windowTicks ∨ p ∈ c.power.inReset then c else (c.logCut p).cut p) s

/-- QUIESCE_DRAINED: the window of a sprig ends early once nothing of it is outstanding (R80). -/
def execQuiesceDrained (g : SprigId) (s : State) : Out :=
  onCore (fun c =>
    if c.quiet (.sprig g) && (c.sprig g).drained then c.cut (.sprig g) else c) s

/-! ### Close cards (R389) -/

/-- Word 1 of a close card. -/
def closeWord (dev : DeviceId) : Producer → Word
  | .chan d g n => (d.setWidth 32 <<< 23) ||| (g.setWidth 32 <<< 11) ||| (n.setWidth 32 <<< 7)
  | .hostPair h => (dev.setWidth 32 <<< 23) ||| 0x00400000#32 ||| (h.setWidth 32 <<< 11)
  | .farPair d h => (d.setWidth 32 <<< 23) ||| 0x00400000#32 ||| (h.setWidth 32 <<< 11)
  | _ => 0

/-- The close card of a stream. -/
def closeCard (dev : DeviceId) (p : Producer) (x : Chan) (cause : BitVec 3) (t : DWord) : CardWords :=
  { w0 := sysHeader 0x02 0x30 x.epoch
    w1 := closeWord dev p
    w2 := cause.setWidth 32, w3 := x.since, w4 := x.lastTag.setWidth 32
    w5 := t.setWidth 32, w6 := (t >>> 32).setWidth 32, w7 := 0 }

/-- The stream is closed: its close card has taken a credit and left. -/
def Chan.closed (x : Chan) : Chan :=
  { x.spend with close := none, isOpen := false, since := 0 }

/-- Where the stream of a producer of this device goes; a card bound for a held posy waits in the outbound slot (R207). -/
def Core.sendClose (c : Core) (p : Producer) (w : CardWords) : Core :=
  let x := c.prod p
  let card : Card := { w := w, route := p, serial := x.serial, seq := x.nextSeq }
  match p with
  | .chan _ g n =>
    if ((c.scfg g n) >>> 29).setWidth 2 = 1#2 then
      (c.setProd p x.closed).launch (prodKey p) (.toPair ((c.shandle g n).setWidth 8) card)
    else if c.handleHeld (c.shandle g n) then c.setProd p { x.closed with out := some card }
    else (c.setProd p x.closed).launch (prodKey p) (c.route (c.shandle g n) card)
  | .hostPair h => (c.setProd p x.closed).launch (prodKey p) (c.route (c.hqpReg h 0x0C) card)
  | _ => c

/-- This device makes the close card of a lost peer's stream: no resolution or credit goes back for it (R389). -/
def Core.sendImportClose (c : Core) (p : Producer) (w : CardWords) : Core :=
  let x := c.importStream p
  match c.importWord p with
  | none => c.setImport p { x with close := none, isOpen := false, since := 0 }
  | some e =>
    let card : Card := { w := withEpoch w (c.importEpoch e), route := p, serial := Tbl.get c.impSerial (importKey p - 0x1000000) 0, mute := true }
    (c.setImport p { x with close := none, isOpen := false, since := 0 }).launch (prodKey p) (importParcel e card)

/-- The outbound stage of a producer still holds a card bound for a held posy (R207). -/
def Core.closeWaits (c : Core) (p : Producer) : Bool :=
  match p with
  | .chan _ g n => c.isLocal p && c.outboundBusy p (c.shandle g n)
  | .hostPair h => c.handleHeld (c.hqpReg h 0x0C)
  | _ => false

/-- CLOSE_CARD: the close card that producer p owes leaves, when its channel holds a credit. -/
def execCloseCard (p : Producer) (cause : BitVec 3) (s : State) : Out :=
  onCore (fun c =>
    let near := c.isLocal p
    let x := if near then c.prod p else c.importStream p
    match x.close with
    | none => c
    | some (k, t) =>
      if k ≠ cause ∨ (near ∧ x.credit < 1) ∨ x.out.isSome ∨ c.closeWaits p then c
      else if near then c.sendClose p (closeCard c.dev p x k t)
      else c.sendImportClose p (closeCard c.dev p x k t)) s

/-! ### Errors that stop a unit or the core (R373, R380) -/

/-- UNIT_FATAL: a unit error is logged; the unit goes through QUIESCE to its reset. In bunch 0 it is DEVICE_FATAL. -/
def execUnitFatal (p : Part) (e : ErrInfo) (s : State) : Out :=
  onCoreIf (cutName p).isSome (fun c => c.unitError p e) s

end Sys2Proof.Machine
end

