-- ==== Sys2Proof/Machine/IslandFam.lean ====
section
/-!
DEFINITION. Sys2Proof/Machine/IslandFam.lean: the Sorrel island: its start, seal, requests, audit trail, records and signatures, and the MET
block on the core side (spec/12_sorrel_island.md, R313 to R336).
-/
namespace Sys2Proof.Machine

/-! ### Words and results -/

/-- RESULT codes (R322). -/
def resOk : Byte := 0x00
def resBadReq : Byte := 0x01
def resSealed : Byte := 0x02
def resAuth : Byte := 0x03
def resTrailFull : Byte := 0x04
def resNotPermitted : Byte := 0x05
def resState : Byte := 0x06
def resGone : Byte := 0x07
def resReset : Byte := 0x08

/-- The bytes of a SHA3-256 digest, byte 0 first. -/
def digestBytes (d : BitVec 256) : List Byte := bytesOf d 32

/-- The head of a request (R321). -/
def reqNum (r : List Byte) : Nat := (pword r 0).toNat % 65536
def reqArg (r : List Byte) (k : Nat) : Word := pword r (1 + k)

def trailMax : Nat := 16384
def retainMax : Nat := 1024

/-- MET_STAT (R320); it reads 0 while the island is in reset. -/
def Island.stat (x : Island) : Word :=
  if !x.enabled || x.inReset then 0
  else 0x80000000#32 ||| (if x.alive then 0x40000000#32 else 0) ||| (if x.sealed then 0x20000000#32 else 0)
    ||| (x.prog.code.setWidth 32 <<< 26) ||| (if trailMax ≤ x.trail.length then 0x02000000#32 else 0)
    ||| (if x.dbg then 0x01000000#32 else 0) ||| (x.progNum.setWidth 32 <<< 16) ||| BitVec.ofNat 32 (x.trail.length % 32768)

/-- MET_RSTAT: while the island is in reset, BUSY reads 1 and DONE 0 (R324). -/
def State.metRstat (s : State) : Word :=
  if !s.isl.enabled then 0
  else if s.isl.inReset then 0x80000000#32 ||| (s.core.met.result.setWidth 32 <<< 16) ||| s.core.met.rlen.setWidth 32
  else (if s.core.met.busy then 0x80000000#32 else 0) ||| (if s.core.met.done then 0x40000000#32 else 0)
    ||| (s.core.met.result.setWidth 32 <<< 16) ||| s.core.met.rlen.setWidth 32

def State.metBusy (s : State) : Bool := s.core.met.busy || s.isl.inReset

/-! ### The mailbox (R321 to R324) -/

/-- The island copies the request at GO; DONE clears. -/
def State.metGo (s : State) (req : List Byte) : State :=
  { s with
    core := { s.core with met := { s.core.met with busy := true, done := false, request := some req } }
    isl := { s.isl with reply := none } }

/-- A write of MET_RQCTL. A GO while BUSY is ignored and logged. On -S variants every write is ignored (R3). -/
def State.writeRqctl (s : State) (m : Master) (v : Word) : State :=
  let ok := match m with | .sprig g => isSteward g | _ => false
  if !ok then { s with core := s.core.writeBy m false id }
  else if !s.isl.enabled || s.core.frozenMaster m || !v.getLsbD 31 then s
  else if s.metBusy then { s with core := s.core.ignoredReg m 323 0x13 0x200 }
  else s.metGo ((List.range (v.setWidth 13 : BitVec 13).toNat).map fun k => Tbl.get s.core.met.reqBuf k 0)

/-- MET_RQCTL_GO. -/
def execMetRqctlGo (m : Master) (v : Word) (s : State) : Out := .next (s.writeRqctl m v)

/-- A write of a word of MET_REQBUF; while BUSY it is ignored and logged (R323). -/
def State.writeReqBuf (s : State) (m : Master) (off : Nat) (v : Word) : State :=
  let ok := match m with | .sprig g => isSteward g | _ => false
  if !ok then { s with core := s.core.writeBy m false id }
  else if !s.isl.enabled || s.core.frozenMaster m then s
  else if s.metBusy then { s with core := s.core.ignoredReg m 323 0x13 (0x1000 + off) }
  else { s with core := { s.core with met := { s.core.met with
    reqBuf := (List.range 4).foldl (fun t k => Tbl.set t (off + k) ((bytesOf v 4)[k]?.getD 0) 0) s.core.met.reqBuf } } }

/-- A Sorrel command at a queue's head that has not begun: its submitter, its packet. -/
def Core.sorrelHead (c : Core) : Option (CmdSrc × Cmd) :=
  (c.cmds.findSome? fun e : Nat × List Cmd => match e.2 with
    | x :: _ => if x.opcode.toNat / 256 = 8 ∧ !x.begun then some (srcOf e.1, x) else none
    | [] => none)

/-- The next Sorrel command is checked, and its request written and started (R4, R321, R349): its head and payload are the parameters,
with what stands at IN_ADDR behind them. The head must name the opcode's request. On a -S every one is answered DENIED with detail 1. -/
def State.startSorrel (s : State) : State :=
  if !s.core.boot.steward then s
  else match s.core.sorrelHead with
    | none => s
    | some (q, x) =>
      let answer (c : Core) (r : Reply) : State := { s with core := c.answerCmd q r }
      if !s.isl.enabled then answer s.core ⟨stDenied, [1]⟩
      else match s.core.cmdCheck q x { opc := x.opcode, who := .supervisorsSprigs, minLen := 16 } with
      | some r => answer s.core r
      | none =>
        if s.metBusy || s.core.buffersWait q x then s
        else match s.core.readIn q x with
          | (none, c) => answer c ⟨stBadAddr, []⟩
          | (some (bs, p), c) =>
            let req := x.own ++ bs
            if p then answer c ⟨stPoison, []⟩
            else if 4096 < req.length then answer c ⟨stBadLength, []⟩
            else if reqNum req ≠ x.opcode.toNat % 256 then answer c ⟨stBadParam, []⟩
            else
              let c := { c with met := { c.met with
                reqBuf := (List.range req.length).foldl (fun t k => Tbl.set t k (req[k]?.getD 0) 0) c.met.reqBuf } }
              ({ s with core := c.beginCmd q }).metGo req

/-- The Sorrel command whose reply is owed. -/
def Core.sorrelBegun (c : Core) : Option (CmdSrc × Cmd) :=
  (c.cmds.findSome? fun e : Nat × List Cmd => match e.2 with
    | x :: _ => if x.opcode.toNat / 256 = 8 ∧ x.begun then some (srcOf e.1, x) else none
    | [] => none)

/-- The command status of a RESULT (R322). -/
def resultStatus (r : Byte) : BitVec 16 :=
  match r.toNat with
  | 0 => stOk
  | 1 => stBadParam
  | 2 => stSealed
  | 3 => stDenied
  | 4 => stConflict
  | 5 => stDenied
  | 6 => stConflict
  | 7 => stConflict
  | _ => stAbandoned

/-- The Steward answers the command that waits for the mailbox (R322). -/
def Core.answerSorrel (c : Core) (result : Byte) (bs : List Byte) : Core :=
  match c.sorrelBegun with
  | none => c
  | some (q, x) =>
    if result = resOk then
      match c.bulkReply q x [result.setWidth 32] bs with
      | (c, some r) => c.answerCmd q r
      | (c, none) => c
    else c.answerCmd q ⟨resultStatus result, [result.setWidth 32]⟩

/-- The island writes reply, RESULT and RLEN, sets DONE and clears BUSY. -/
def State.metFinish (s : State) (result : Byte) (bs : List Byte) : State :=
  let out := bs.take 4096
  { s with
    core := ({ s.core with met := { s.core.met with
        busy := false, done := true, result := result, rlen := BitVec.ofNat 13 out.length, request := none
        rsp := if out.isEmpty then s.core.met.rsp else out } }).answerSorrel result out
    isl := { s.isl with reply := none } }

/-- The requests that exist (R321). -/
def knownReq (n : Nat) : Bool := decide (1 ≤ n ∧ n ≤ 10)

/-- MET_REQUEST_DONE: the request served is answered; the island refuses an unknown one with BAD_REQ. Then the next command starts. -/
def execMetRequestDone (s : State) : Out :=
  .next (
    if s.isl.inReset then s
    else match s.core.met.request, s.isl.reply with
      | some _, some (r, bs) => (s.metFinish r bs).startSorrel
      | some req, none => if knownReq (reqNum req) && decide (16 ≤ req.length) then s else (s.metFinish resBadReq []).startSorrel
      | none, _ => s.startSorrel)

/-- MET_DONE_TIMEOUT: the Steward gives up; the mailbox is left to the next GO (R324). -/
def execMetDoneTimeout (s : State) : Out :=
  onCore (fun c =>
    match c.sorrelBegun with
    | none => c
    | some (q, _) => c.answerCmd q ⟨stAbandoned, [0xFF]⟩) s

/-! ### Requests -/

/-- The island serves request `n`: the request that crossed at GO, or the one that a waiting command starts now. `len`: the length that the
request must have; in FW_REFUSED only IDENTIFY and READ_AUDIT are served (R322). -/
def serve (n len : Nat) (body : List Byte → Island → Island × Byte × List Byte) (s : State) : Out :=
  let s := if s.core.met.request.isNone then s.startSorrel else s
  .next (
    if s.isl.inReset || s.isl.reply.isSome then s
    else match s.core.met.request with
      | none => s
      | some req =>
        if reqNum req ≠ n ∨ req.length < 16 then s
        else if s.isl.prog = .refused ∧ n ≠ 1 ∧ n ≠ 7 then { s with isl := { s.isl with reply := some (resState, []) } }
        else if 0 < len ∧ req.length ≠ len then { s with isl := { s.isl with reply := some (resBadReq, []) } }
        else
          let (x, r, bs) := body req s.isl
          { s with isl := { x with reply := some (r, bs) } })

/-- A reply without effect. -/
def Island.says (x : Island) (r : Byte) : Island × Byte × List Byte := (x, r, [])

/-- n bytes: cut, or padded with zeros. -/
def padTo (n : Nat) (bs : List Byte) : List Byte := (bs ++ List.replicate n 0).take n

/-- The firmware identity: name, version, digest (R317). -/
def Island.identity (x : Island) : List Byte := padTo 32 x.name ++ bytesOf x.version 4 ++ digestBytes x.digest

def execMetIdentify (s : State) : Out :=
  serve 1 16 (fun _ x => (x, resOk, x.identity ++ padTo 1312 Config.islandKey ++ Config.islandCert)) s

/-- The images of n records from SEQ `first`: `none` when one that has been made is no longer retained (R322). -/
def Island.records (x : Island) (first : Word) : Nat → Option (List Byte)
  | 0 => some []
  | n + 1 =>
    if (first - x.seq).toInt ≥ 0 then some []
    else match x.retained.find? fun e => e.1 == first, Island.records x (first + 1) n with
      | some e, some rest => some (e.2 ++ rest)
      | _, _ => none

def execReadResults (s : State) : Out :=
  serve 2 16 (fun req x =>
    if !between 1 (reqArg req 1).toNat 63 then x.says resBadReq
    else match x.records (reqArg req 0) (reqArg req 1).toNat with
      | some bs => (x, resOk, bs)
      | none => x.says resGone) s

def execMetStart (s : State) : Out :=
  serve 3 16 (fun req x =>
    if 255 < (reqArg req 0).toNat then x.says resBadReq
    else if x.prog = .running then x.says resState
    else
      let n := s.core.aon.dipCount.setWidth 8
      ({ x with
          prog := .running, progNum := (reqArg req 0).setWidth 8
          dipAt := (List.range 8).foldl (fun t k => Tbl.set t k n 0) x.dipAt }, resOk, [])) s

/-- The SEQ and H of the latest record: before the first record after an uncommitted restart, those committed (R336). -/
def Island.latest (x : Island) : Option (Word × BitVec 256) :=
  if x.restart then x.committed.map fun e => (e.1, x.chain)
  else if x.retained.isEmpty && x.committed.isNone then none
  else some (x.seq - 1, x.chain)

/-- STOP: the program stops, the chain state is committed, and a signature follows (R332, R336). -/
def execMetStop (s : State) : Out :=
  serve 4 16 (fun _ x =>
    if x.prog ≠ .running ∧ x.prog ≠ .outFull then x.says resState
    else
      let x := { x with prog := .idle }
      match x.latest with
      | none => x.says resOk
      | some (q, h) => ({ x with committed := some (q, h, true), due := x.due ++ [(2, q, h)] }, resOk, [])) s

/-- ZERO, as the island firmware permits: the channel's load now is its zero. -/
def execZero (permitted : Bool) (load : Word) (s : State) : Out :=
  serve 5 16 (fun req x =>
    let k := (reqArg req 0).toNat
    if 7 < k then x.says resBadReq
    else if !permitted then x.says resNotPermitted
    else ({ x with zeros := Tbl.set x.zeros k load 0 }, resOk, [])) s

/-- TARE, as the island firmware permits: the channel's load now, or the preset tare of ARG2. -/
def execTare (permitted : Bool) (load : Word) (s : State) : Out :=
  serve 6 16 (fun req x =>
    if 7 < (reqArg req 0).toNat ∨ 1 < (reqArg req 1).toNat then x.says resBadReq
    else if !permitted then x.says resNotPermitted
    else
      let t := if reqArg req 1 = 0 then load else reqArg req 2
      ({ x with tares := Tbl.set x.tares (reqArg req 0).toNat (some t) none }, resOk, [])) s

/-! ### The audit trail (R325 to R327) -/

def AuditEntry.image (e : AuditEntry) : List Byte :=
  bytesOf e.counter 4 ++ bytesOf e.dtime 8 ++ bytesOf e.kind 2 ++ bytesOf e.param 2 ++ bytesOf e.old 4 ++ bytesOf e.new 4
    ++ [e.key, 0, 0, 0] ++ bytesOf e.digest 4

/-- READ_AUDIT returns entries from a counter value on, and notes which it has returned (R326). -/
def execReadAudit (s : State) : Out :=
  serve 7 16 (fun req x =>
    let n := (reqArg req 1).toNat
    if !between 1 n 127 then x.says resBadReq
    else
      let es := (x.trail.filter fun e => decide ((reqArg req 0).toNat ≤ e.counter.toNat)).take n
      ({ x with trail := x.trail.map fun e => if e ∈ es then { e with seen := true } else e }, resOk, es.flatMap AuditEntry.image)) s

/-- DTIME of an audited event: all ones when the time crossing is not valid. -/
def State.auditTime (s : State) : DWord := if s.core.time.running then s.core.time.dtime else BitVec.allOnes 64

/-- The first 4 bytes of a digest. -/
def digestHead (d : BitVec 256) : Word := d.setWidth 32

/-- The event counter rises by one and an entry is written (R326). -/
def Island.audit (x : Island) (e : AuditEntry) : Island :=
  { x with evCnt := x.evCnt + 1, trail := x.trail ++ [{ e with counter := x.evCnt + 1 }] }

/-- The checks of R325 that precede those of the changes: seal, key, signature, counter. -/
def Island.authCheck (x : Island) (req : List Byte) (k : Nat) : Option Byte :=
  let n := 16 + 8 * k
  let key := (req.drop n).take 1312
  if x.sealed then some resSealed
  else if (x.paramKeys[(reqArg req 2).toNat]?) ≠ some (Config.sha3 key) then some resAuth
  else if !Config.mldsaVerify key (digestBytes (Config.sha3 (req.take n))) (req.drop (n + 1312)) then some resAuth
  else if reqArg req 0 ≠ x.evCnt then some resAuth
  else none

/-- ACK_AUDIT frees the entries up to a counter value that READ_AUDIT has returned. -/
def execAckAudit (s : State) : Out :=
  serve 8 3748 (fun req x =>
    match x.authCheck req 0 with
    | some r => x.says r
    | none => ({ x with trail := x.trail.filter fun e => !(e.seen && decide (e.counter.toNat ≤ (reqArg req 1).toNat)) }, resOk, [])) s

/-- The j-th change of a SET_PARAM. -/
def changeId (req : List Byte) (j : Nat) : BitVec 16 := (pword req (4 + 2 * j)).setWidth 16
def changeVal (req : List Byte) (j : Nat) : Word := pword req (5 + 2 * j)

def Island.param (x : Island) (id : BitVec 16) : Word := (Tbl.get x.params id.toNat none).getD (Config.paramReset x.digest id)

/-- One change, with its entry. -/
def Island.change (x : Island) (req : List Byte) (t : DWord) (j : Nat) : Island :=
  let id := changeId req j
  let v := changeVal req j
  let e : AuditEntry :=
    { counter := 0, dtime := t, kind := 0x0001, param := id, old := x.param id, new := v, key := (reqArg req 2).setWidth 8
      digest := digestHead (Config.sha3 req), seen := false }
  { x.audit e with params := Tbl.set x.params id.toNat (some v) none }

def execSetParam (s : State) : Out :=
  serve 9 0 (fun req x =>
    let k := (reqArg req 1).toNat
    if !between 1 k 32 ∨ req.length ≠ 16 + 8 * k + 3732 then x.says resBadReq
    else match x.authCheck req k with
      | some r => x.says r
      | none =>
        if (List.range k).any fun j => !Config.paramOk x.digest (changeId req j) (changeVal req j) then x.says resBadReq
        else if trailMax < x.trail.length + k then x.says resTrailFull
        else ((List.range k).foldl (fun x j => x.change req s.auditTime j) x, resOk, [])) s

/-- SIGN: the signature of the latest record follows; there must be one. -/
def execSign (s : State) : Out :=
  serve 10 16 (fun _ x =>
    match x.latest with
    | none => x.says resState
    | some (q, h) => ({ x with due := x.due ++ [(1, q, h)] }, resOk, [])) s

/-! ### Records and signatures (R329 to R333) -/

/-- The header of an island card, its EPOCH 0 (R329). -/
def metHeader (tag : Byte) : Word := sysHeader 0x04 0x10 0 ||| tag.setWidth 32

/-- STATUS of a record (R330, R331). The intervals of a channel follow each other from START on (log entry 83). -/
def Island.status (x : Island) (c : Core) (r : Measured) (valid : Bool) : Byte :=
  let bit (k : Nat) (b : Bool) : Byte := if b then 1#8 <<< k else 0
  let dip := r.dipSeen || c.aon.inDip || decide (c.aon.dipCount.setWidth 8 ≠ Tbl.get x.dipAt r.channel.toNat 0)
  bit 0 r.stable ||| bit 1 r.zeroCentre ||| bit 2 (Tbl.get x.tares r.channel.toNat none).isSome ||| bit 3 r.overRange ||| bit 4 r.underRange
    ||| bit 5 (r.dtNotFine || decide (c.time.qual ≠ qualFine) || !valid) ||| bit 6 x.restart ||| bit 7 dip

/-- The LINK words: word 7 of card A, words 1 to 7 of card B. -/
def linkWord (h : BitVec 256) (k : Nat) : Word := (h >>> (32 * k)).setWidth 32

def Island.cardA (x : Island) (c : Core) (r : Measured) : CardWords :=
  let valid := r.dtValid && c.time.running
  let t : DWord := if valid then c.time.dtime else BitVec.allOnes 64
  { w0 := metHeader 0x01, w1 := x.seq, w2 := t.setWidth 32, w3 := (t >>> 32).setWidth 32, w4 := x.mtime.setWidth 32
    w5 := ((x.mtime >>> 32).setWidth 32 <<< 16) ||| ((x.status c r valid).setWidth 32 <<< 8) ||| (r.unit.setWidth 32 <<< 3)
      ||| r.channel.setWidth 32
    w6 := r.value, w7 := linkWord x.chain 0 }

def Island.cardB (x : Island) : CardWords :=
  { w0 := metHeader 0x02, w1 := linkWord x.chain 1, w2 := linkWord x.chain 2, w3 := linkWord x.chain 3, w4 := linkWord x.chain 4
    w5 := linkWord x.chain 5, w6 := linkWord x.chain 6, w7 := linkWord x.chain 7 }

/-- The oldest record would be dropped before it has been accepted (R333). -/
def State.outFull (s : State) : Bool :=
  decide (retainMax ≤ s.isl.retained.length)
    && (match s.isl.retained with | e :: _ => s.core.met.waiting.contains e.1 | [] => false)

/-- The island completes a record: it is chained, retained and put on the result path. -/
def State.record (s : State) (r : Measured) : State :=
  let x := s.isl
  let a := x.cardA s.core r
  let b := x.cardB
  let image := cardBytes a ++ cardBytes b
  let h := Config.sha3 image
  let kept := x.retained ++ [(x.seq, image)]
  { s with
    isl := { x with
      seq := x.seq + 1, chain := h, restart := false
      dipAt := Tbl.set x.dipAt r.channel.toNat (s.core.aon.dipCount.setWidth 8) 0
      retained := kept.drop (kept.length - retainMax)
      due := if x.seq.toNat % 1024 = 1023 then x.due ++ [(0, x.seq, h)] else x.due }
    core := ({ s.core with met := { s.core.met with
      outq := s.core.met.outq ++ [({ w := a, first := true } : MetCard), ({ w := b, rec? := some x.seq } : MetCard)]
      waiting := s.core.met.waiting ++ [x.seq] } }).metPump 8 }

/-- What the firmware sampled for an interval, and the outputs that it drives (R313, R315). -/
def Island.sampled (x : Island) (r : Measured) : Island :=
  { x with ins := r.inputs, outs := r.outs, adc := Tbl.set x.adc r.channel.toNat r.sample 0 }

/-- ISLAND_RECORD. When the oldest record would be lost the program stops; the firmware applies its own rule to the outputs (R333). -/
def execIslandRecord (r : Measured) (s : State) : Out :=
  .next (
    if s.isl.inReset || decide (s.isl.prog ≠ .running) then s
    else
    let s := { s with isl := s.isl.sampled r }
    if s.outFull then { s with isl := { s.isl with prog := .outFull } }
    else s.record r)

/-- The block that a signature covers (R332). -/
def Island.block (x : Island) (reason : BitVec 2) (q : Word) (h : BitVec 256) : List Byte :=
  [0x4D, 0x51, 0x53, 0x52] ++ bytesOf q 4 ++ bytesOf x.evCnt 4 ++ bytesOf (reason.setWidth 32 : Word) 4 ++ digestBytes h
    ++ (digestBytes x.digest).take 16

/-- The head card of a signature and its 87 data cards. -/
def Island.signCards (x : Island) (reason : BitVec 2) (q : Word) (h : BitVec 256) (t : DWord) : List CardWords :=
  let sig := padTo 2420 (Config.mldsaSign 1 (digestBytes (Config.sha3 (x.block reason q h))))
  let head : CardWords :=
    { w0 := metHeader 0x20, w1 := q, w2 := reason.setWidth 32, w3 := t.setWidth 32, w4 := (t >>> 32).setWidth 32, w5 := x.evCnt
      w6 := 87, w7 := 0 }
  head :: (List.range 87).map fun k =>
    { w0 := metHeader 0x21, w1 := pword sig (7 * k), w2 := pword sig (7 * k + 1), w3 := pword sig (7 * k + 2)
      w4 := pword sig (7 * k + 3), w5 := pword sig (7 * k + 4), w6 := pword sig (7 * k + 5), w7 := pword sig (7 * k + 6) }

/-- ISLAND_SIGNATURE: the first signature due is made, when it has this reason; the chain state is committed (R332, R336). -/
def execIslandSignature (reason : BitVec 2) (s : State) : Out :=
  .next (
    match s.isl.inReset, s.isl.due with
    | false, (k, q, h) :: rest =>
      if k ≠ reason then s
      else
        { s with
          isl := { s.isl with
            due := rest
            committed := some (q, h, decide (k = 2)) }
          core := ({ s.core with met := { s.core.met with
            outq := s.core.met.outq ++ (s.isl.signCards k q h s.auditTime).map fun w => ({ w := w } : MetCard) } }).metPump 90 }
    | _, _ => s)

/-! ### Start, reset, seal, heartbeat -/

/-- The island enters reset (R315, R324): what its RAM holds is lost; flash and OTP stay. A request that is BUSY stays so. -/
def Island.enterReset (x : Island) : Island :=
  { x with
    inReset := true, prog := .idle, alive := false, sealCnt := 0, dbg := false, progNum := 0, mtime := 0, frac := 0, name := [],
    version := 0, digest := 0, image := [], sprigs := [], stores := [], ram := [], ins := 0, outs := 0, adc := [], seq := 0, chain := 0,
    restart := false, retained := [], zeros := [], tares := [], dipAt := [], reply := none, due := [] }

def State.islandReset (s : State) : State :=
  { s with
    isl := s.isl.enterReset
    core := { s.core with met := { s.core.met with request := none, outq := [], sent := [], waiting := [] } } }

/-- ISLAND_RESET. -/
def execIslandReset (_porst : Bool) (s : State) : Out := .next (if s.isl.enabled then s.islandReset else s)

/-- A word of an island sprig's control store: the ROM's base microcode below the customer region, which the image may fill (R127, R313). -/
def islandStoreWord (img : IslandImage) (k : Nat) : Word := if k < 0xF00 then Config.islandMicrocode k else (img.customer[k - 0xF00]?).getD 0
/-- A decode entry: 0xE0 to 0xFF are the image's. -/
def islandDecodeWord (img : IslandImage) (k : Nat) : Word := if k < 0xE0 then Config.islandDecode k else (img.decode[k - 0xE0]?).getD 0

/-- The image is loaded (R316): into RAM, and its microcode beside the ROM's into every control store; sprig 0 runs. -/
def Island.loaded (x : Island) (img : IslandImage) : Island :=
  let st : IslandStore :=
    { store := (List.range 4096).foldl (fun t k => Tbl.set t k (islandStoreWord img k) 0) []
      decode := (List.range 256).foldl (fun t k => Tbl.set t k (islandDecodeWord img k) 0) [] }
  { x with
    ram := (img.bytes.take 0x40000).zipIdx.foldl (fun t e => Tbl.set t ((Config.islandPlace + e.2) % 0x40000) e.1 0) []
    stores := [(0, st), (1, st), (2, st), (3, st)]
    sprigs := Tbl.set [] 0 { Sprig.reset with state := .run } Sprig.reset }

/-- What the boot ROM makes of the image (R316, R318): verified, and if it differs from the last one started, a firmware change that an open
seal and a free entry allow. `none`: FW_REFUSED. -/
def Island.boot (x : Island) (img : IslandImage) (t : DWord) : Option Island :=
  let d := Config.sha3 img.bytes
  if Config.sha3 img.key ≠ x.keyHash ∨ !Config.mldsaVerify img.key (digestBytes d) img.signature ∨ img.rbi < x.rollback then none
  else
    let x := { x with name := img.name, version := img.version, digest := d, image := img.bytes }.loaded img
    if x.flashDigest = some d then some x
    else if x.sealed ∨ trailMax ≤ x.trail.length then none
    else
      let e : AuditEntry :=
        { counter := 0, dtime := t, kind := 0x0002, param := 0, old := digestHead (x.flashDigest.getD 0), new := digestHead d
          key := 0xFF, digest := 0, seen := false }
      some { x.audit e with flashDigest := some d }

/-- The chain state that a start restores (R332, R336). -/
def Island.restore (x : Island) : Island :=
  match x.committed with
  | none => { x with seq := 0, chain := Config.sha3 Config.islandKey, restart := false }
  | some (c, h, true) => { x with seq := c + 1, chain := h, restart := false }
  | some (c, h, false) => { x with seq := c + 1025, chain := h, restart := true }

/-- Debug is enabled at a start with the seal open, as an audited event (R319, R326). -/
def Island.openDebug (x : Island) (ask : Bool) (t : DWord) : Island :=
  if !ask ∨ x.sealed ∨ trailMax ≤ x.trail.length then x
  else { x.audit { counter := 0, dtime := t, kind := 0x0003, param := 0, old := 0, new := 0, key := 0xFF, digest := 0, seen := false } with
    dbg := true }

/-- ISLAND_START: the island leaves reset, in OFF it has no power (R334). A request that was BUSY ends with ISLAND_RESET before anything else; then the boot ROM runs. -/
def execIslandStart (img : IslandImage) (s : State) : Out :=
  .next (
    if !s.isl.enabled || !s.isl.inReset || decide (s.core.aon.power = .off) then s
    else
      let s := { s with isl := { s.isl with inReset := false } }
      let s := if s.core.met.busy then s.metFinish resReset [] else s
      let t := s.auditTime
      { s with isl := match s.isl.boot img t with
        | none => { s.isl with prog := .refused }
        | some x => { (x.restore.openDebug img.debug t) with prog := .idle } })

/-- SEAL_TRANSITION: the debounced state of SEAL_N changes; low disables debug access in hardware (R319). -/
def execSealTransition (low : Bool) (s : State) : Out :=
  .next (
    if !s.isl.enabled then s
    else { s with isl := { s.isl with
      sealed := low
      dbg := s.isl.dbg && !low
      sealCnt := if s.isl.sealed && !low && !s.isl.inReset then s.isl.sealCnt + 1 else s.isl.sealCnt } })

/-- ISLAND_HEARTBEAT, and 10 ms without one. -/
def execIslandHeartbeat (s : State) : Out :=
  .next { s with isl := { s.isl with alive := s.isl.alive || (s.isl.enabled && !s.isl.inReset) } }
def execIslandHeartbeatTimeout (s : State) : Out := .next { s with isl := { s.isl with alive := false } }

/-- STATUS (R349): CFG_GEN, MET_STAT, hands that are OPEN, log entries that the Steward has not read. -/
def statusReply (s : State) : Reply :=
  ok [s.core.store.gen, s.isl.stat, num ((s.core.hands.filter fun e => decide (e.2.st = .open)).length),
    num (s.core.err.tail - s.core.err.ack).toNat]

def execStatus (q : CmdSrc) (s : State) : Out :=
  command q { opc := 0x0101, who := .functionsSprigs } (readBody fun s _ => statusReply s) s

end Sys2Proof.Machine
end

