-- ==== Sys2Proof/Machine/ResetOps.lean ====
section
/-!
DEFINITION. Sys2Proof/Machine/ResetOps.lean: what a reset of the core domain and a power-on reset leave (spec/15_clock_domains.md, R400
to R403; R30, R310, R333, R334, R357, R361, R444).
-/
namespace Sys2Proof.Machine

/-! ### What survives a reset of the core domain -/

/-- PWR_WAKE_EN and PWR_I2C, which the always-on domain holds (R422, R423). -/
def aonSettings (t : Tbl Word) : Tbl Word := t.filter fun e : Nat × Word => decide (e.1 = sid 0x01 0x04 ∨ e.1 = sid 0x01 0x08)

/-- A hand that a core reset cuts: an accepted one fails, an OPEN one is folded with its owner, a system hand leaves its slot empty
(R355, R357, R444). -/
def Hand.cut (h : Hand) : Hand :=
  let bare : Hand := { h with entries := [], loads := [], sys := none, submit := none, awaiting := [], halted := [], instant := none }
  if h.sys.isSome then { Hand.reset with serial := h.serial }
  else if h.st.accepted then { bare with st := .failed, status := stAbandoned, detail := 0 }
  else if h.st = .open then { bare with st := .folded }
  else h

/-- The hands whose loss the Steward will log when it restarts (R357). -/
def Core.cutHands (c : Core) : List (BitVec 4 × Word) :=
  c.acceptedHands.map fun k => (k, (c.hand k).id k)

/-- The configuration store over a core reset: generation G stands in GDDR6; when that is lost the copy in flash is used (R361). A device
with none is in generation 1. -/
def Store.afterReset (s : Store) (cfg : Tbl Word) (handedOver memLost : Bool) (cut : List (BitVec 4 × Word)) : Store :=
  let kept := if handedOver then cfg else s.kept
  let t : Store := { s with isolated := false, split := false, last := 0, abandoned := s.abandoned ++ cut }
  if memLost && !s.mirrored && decide (s.gen ≠ 1) then
    { t with
      gen := if s.flashGen = 0 then 1 else s.flashGen, kept := s.flash, images := s.flashImages, hasPrior := false, prior := [], priorImages := []
      mirrored := decide (s.flashGen ≠ 0), restored := true }
  else { t with kept := kept }

/-- Time over a core reset: the stop is treated as sleep; one that was not planned saves the latest copy that the always-on domain holds
(R217, R224, R401). -/
def Core.timeStops (c : Core) (unplanned : Bool) : TimeBlk :=
  let t := (c.stopTime c.aon.ticks).time
  if c.time.running && unplanned then { t with dtime := c.aon.copy, sleepDt := c.aon.copy, unplanned := true }
  else t

/-- The channel controllers over a core reset: memory stays in self-refresh, or is to be cleared (R310). -/
def Core.channelsAfter (c : Core) (memLost : Bool) : Tbl Gdc :=
  (List.range 36).foldl (fun t k => Tbl.set t k { Gdc.reset with zero := memLost || (c.gdc k).zero } Gdc.reset) []

/-- The levels at a bank's pins and its supply, which no reset of the core changes; a bank whose VIO is out stays stopped (R257). -/
def Bank.afterReset (x : Bank) : Bank := { inp := x.inp, raw := x.raw, viook := x.viook, vio33 := x.vio33, stopped := x.stopped }

/-- MET over a core reset: the island runs on; its cards that had left wait again, in order, with those that wait (R333, R334). -/
def Met.afterReset (m : Met) : Met :=
  { busy := m.busy, request := m.request, waiting := m.waiting
    outq := (m.sent.map fun x => { x with again := true }) ++ m.outq }

/-- Whether a key of the error marks belongs to GDDR6: a data or a check granule. -/
def memMarkKey (k : Nat) : Bool := decide (k < 0x400000000) || decide (0x1000000000000000 ≤ k)

/-- Bytes below the end of GDDR6 (R38). -/
def memOnly (t : List Host.Cell) : List Host.Cell := t.filter fun e => decide (e.1 < 0x2000000000)

/-- The core domain in reset (R400, R402). -/
def Core.inCoreReset (c : Core) (unplanned memLost : Bool) : Core :=
  { mem := if memLost then [] else memOnly c.mem
    ecc := if memLost then [] else c.ecc.filter fun e => memMarkKey e.1
    cfg := aonSettings c.cfg
    partEpoch := (c.bumpEpoch .core).partEpoch
    impSerial := c.impSerial.map fun e =>
      if (c.peer (BitVec.ofNat 9 (e.1 / 0x10000))).st = .lost then e else (e.1, e.2 + 1)
    hmem := c.hmem
    dev := c.dev
    time := c.timeStops unplanned
    hic := { sent := c.hic.sent }
    fioBanks := c.fioBanks.filterMap fun e => if e.2.afterReset = Bank.reset then none else some (e.1, e.2.afterReset)
    lvIn := c.lvIn
    gdcs := c.channelsAfter memLost
    hands := c.hands.filterMap fun e => if e.2.cut = Hand.reset then none else some (e.1, e.2.cut)
    store := c.store.afterReset c.cfg (decide (c.boot.phase = .handedOver)) memLost c.cutHands
    met := c.met.afterReset
    aon := { c.aon with
      inc := c.aon.inc + 1
      count := if c.aon.count = 0xFF then 0xFF else c.aon.count + 1 }
    power := { coreReset := true, porst := false }
    free := c.free }

/-- GDDR6 contents are gone while the core domain is in reset. -/
def Core.loseMemory (c : Core) : Core :=
  { c with
    mem := c.mem.filter fun e => decide (0x2000000000 ≤ e.1)
    ecc := c.ecc.filter fun e => !memMarkKey e.1
    gdcs := c.channelsAfter true
    resumeRec := none
    store := c.store.afterReset c.cfg false true [] }

/-- A cause resets the core domain; one that comes while it is in reset joins (R402). -/
def Core.coreReset (c : Core) (unplanned memLost : Bool) : Core :=
  if c.power.coreReset then (if memLost then c.loseMemory else c) else c.inCoreReset unplanned memLost

/-- A bit of RST_CAUSE from 1 to 4 is set (R404). -/
def Core.resetCause (c : Core) (k : Nat) : Core := { c with aon := { c.aon with causes := putBit c.aon.causes (k - 1) true } }

def causeSysrst : Nat := 1
def causeWdog : Nat := 2
def causeBrownout : Nat := 3
def causeFatal : Nat := 4

/-- The always-on sequencer raises PWR_EN and waits for PGOOD (R403 step 3, R406); `back` is where it stays if that fails. -/
def Aon.powerUp (a : Aon) (back : PowerState) : Aon :=
  { a with power := .starting, pwrEn := true, pgood := false, tries := 1, back := back }

/-- A reset of the core domain that starts it again. In STANDBY and WATCH its supply comes up first (R403). -/
def Core.resetAndStart (c : Core) (cause : Nat) : Core :=
  let c := (c.coreReset true false).resetCause cause
  if c.aon.power = .standby ∨ c.aon.power = .watch then { c with aon := c.aon.powerUp c.aon.power } else c

/-! ### Power-on reset (R400, R403, R216) -/

/-- Every domain is reset; what flash and fuses hold stays. -/
def State.powerOn (s : State) (strap : DeviceId) : State :=
  let c := s.core
  let core : Core :=
    { hmem := c.hmem
      dev := strap
      time := { running := false }
      hic := { sent := c.hic.sent }
      store :=
        { gen := if c.store.flashGen = 0 then 1 else c.store.flashGen, kept := c.store.flash, images := c.store.flashImages, flashGen := c.store.flashGen
          flash := c.store.flash, flashImages := c.store.flashImages, mirrored := decide (c.store.flashGen ≠ 0)
          restored := decide (c.store.flashGen ≠ 0 ∧ c.store.gen ≠ c.store.flashGen) }
      met := { busy := c.met.busy }
      aon := Aon.powerUp { strapId := strap } .off
      power := { coreReset := true }
      free := c.free }
  let s : State := { s with core := core }
  if s.isl.enabled then s.islandReset else s

/-! ### OFF (R407, R415, R421) -/

/-- The device is OFF: everything but the always-on domain loses its power; the island resets with it. -/
def State.enterOff (s : State) : State :=
  let c := s.core.coreReset false true
  let c := { c with
    aon := { c.aon with power := .off, pwrEn := false, pgood := false, entry := s.core.aon.ticks, inc := s.core.aon.inc, count := s.core.aon.count }
    met := { busy := c.met.busy } }
  let s : State := { s with core := c }
  if s.isl.enabled then s.islandReset else s

end Sys2Proof.Machine
end

