-- ==== Sys2Proof/Machine/ResetFam.lean ====
section
/-!
DEFINITION. Sys2Proof/Machine/ResetFam.lean: reset sources, the RST block, release from reset, and crossings (spec/15_clock_domains.md,
R395 to R404; R224, R298, R380, R496).
-/
namespace Sys2Proof.Machine

/-! ### DEVICE_FATAL (R380) -/

/-- The newest log entry with these words. -/
def ErrBlk.newest (e : ErrBlk) (i : ErrInfo) : Option ErrEntry :=
  ((List.range 1024).filterMap fun k => e.entry (e.tail - 1 - BitVec.ofNat 11 k)).find? fun x => decide (x.info = i)

/-- The entry stands in the always-on domain before the core resets; a second one replaces it with LOST 1. -/
def Core.preserve (c : Core) (i : ErrInfo) : Core :=
  let x := (c.err.newest i).getD ⟨i, c.time.dtime, c.err.seq, BitVec.ofNat 16 (min c.err.lostSince 0xFFFF)⟩
  { c with aon := { c.aon with fatal := some (i, x.at_, x.seq, if c.aon.fatal.isSome then 1 else x.lost) } }

/-- A DEVICE_FATAL error: logged, unless it was logged when it was found (R373), preserved, and the core domain is reset. -/
def Core.deviceFatal (c : Core) (e : ErrInfo) : Core :=
  let i : ErrInfo := c.fatal.getD { e with cls := 3 }
  let c := if c.fatal.isSome then c else c.log i
  (c.preserve i).resetAndStart causeFatal

def execDeviceFatal (e : ErrInfo) (s : State) : Out := onCore (fun c => if c.power.coreReset then c else c.deviceFatal e) s

/-! ### Pins and supplies -/

/-- PORST_N: the device ID is read from the straps (R25). -/
def execPorstN (devid : DeviceId) (s : State) : Out := .next (s.powerOn devid)

/-- VAUX_LOSS acts as PORST_N; the straps are as they were (R496). -/
def execVauxLoss (s : State) : Out := .next (s.powerOn s.core.aon.strapId)

/-- Whether a low pulse on SYSRST_N resets (R402): the spec leaves open one from 100 ns to 1 µs. -/
def sysrstResets (ns : Nat) : Bool := if ns < 100 then false else if 1000 ≤ ns then true else Config.sysrstPulse ns

/-- SYSRST_N: in OFF there is no core domain to reset. -/
def execSysrstN (lowNs : Nat) (s : State) : Out :=
  onCore (fun c => if sysrstResets lowNs && decide (c.aon.power ≠ .off) then c.resetAndStart causeSysrst else c) s

/-- A BROWNOUT resets the core domain; a dip that is open ended in it (R427). -/
def Core.brownout (c : Core) : Core :=
  let a := c.aon
  let c := { c with aon := { a with
    brown := true, inDip := false, dipOut := if a.inDip then BitVec.allOnes 64 else a.dipOut } }
  (c.coreReset true false).resetCause causeBrownout

/-- BROWNOUT: VCORE below 0.52 V; with `pgood` because PGOOD fell, which also lowers PWR_EN, so that VMEM is lost and the sequence of R406
runs again after 10 ms (R427, R496). PGOOD matters only while the VRM supplies VCORE. -/
def execBrownout (pgood : Bool) (s : State) : Out :=
  onCore (fun c =>
    if c.aon.power = .off ∨ (c.aon.power = .starting ∧ !pgood) then c
    else if !pgood then c.brownout
    else if c.aon.power = .run ∨ c.aon.power = .starting then
      let c := c.brownout.loseMemory
      { c with aon := { c.aon with power := .starting, pwrEn := false, pgood := false, pgfail := true, tries := 0, back := .off } }
    else c) s

/-- INPUT_48V_LOSS: in STANDBY or WATCH the device moves to OFF; in RUN it acts through PGOOD (R496). -/
def execInput48vLoss (s : State) : Out :=
  .next (if s.core.aon.power = .standby ∨ s.core.aon.power = .watch then s.enterOff else s)

/-! ### The watchdog and RST registers (R404) -/

/-- Ticks of CK_AON since the watchdog was restarted reach its timeout; it stands still outside RUN. -/
def Core.watchdogDue (c : Core) : Bool :=
  c.power.wdogEn && decide (c.aon.power = .run) && !c.power.coreReset
    && decide (c.power.wdogMs.toNat * 32768 ≤ (c.aon.ticks - c.power.wdogAt).toNat * 1000)

def execWatchdogExpiry (s : State) : Out := onCore (fun c => if c.watchdogDue then c.resetAndStart causeWdog else c) s

/-- A write of RST_WDOG_KICK: any key but 0xC1A0 counts as expiry. -/
def Core.kick (c : Core) (m : Master) (v : Word) : Core :=
  c.writeBy m (c.privileged m) fun c =>
    if v.setWidth 16 = 0xC1A0#16 then { c with power := { c.power with wdogAt := c.aon.ticks } } else c.resetAndStart causeWdog

def execRstWdogKick (m : Master) (v : Word) (s : State) : Out := onCore (fun c => c.kick m v) s

/-- A write of RST_WDOG: EN is cleared by a core reset alone; a write with TIMEOUT below 10 is ignored. -/
def Core.writeWdog (c : Core) (m : Master) (v : Word) : Core :=
  c.writeBy m (c.privileged m) fun c =>
    let p := c.power
    let en := p.wdogEn || v.getLsbD 31
    if (v.setWidth 16 : BitVec 16).toNat < 10 then c.ignoredReg m 404 0x03 0x10
    else { c with power := { p with
      wdogEn := en, wdogMs := v.setWidth 16, wdogAt := if en && !p.wdogEn then c.aon.ticks else p.wdogAt } }

/-- The unit that RST_UNIT names; `none`: reserved, out of range, or bunch 0. -/
def unitOf (v : Word) : Option Part :=
  let n := field v 0 6
  match field v 28 3 with
  | 0 => if n = 0 then none else some (.bunch (v.setWidth 6))
  | 1 => if n < 8 then some (.ethPort (v.setWidth 3)) else none
  | 2 => if n < 16 then some (.cxpConn (v.setWidth 4)) else none
  | 3 => if n < 4 then some (.tlPort (v.setWidth 2)) else none
  | 4 => if n < 36 then some (.channel (v.setWidth 6)) else none
  | _ => none

/-- RST_UNIT: GO takes the unit through QUIESCE to its reset; one already there joins (R402). -/
def Core.resetUnit (c : Core) (m : Master) (v : Word) : Core :=
  c.writeBy m (c.privileged m) fun c =>
    if !v.getLsbD 31 then c
    else match unitOf v with
      | none => c.ignoredReg m 404 0x03 0x20
      | some p => c.enterQuiesce p

def execRstUnit (m : Master) (v : Word) (s : State) : Out := onCore (fun c => c.resetUnit m v) s

/-- RST_XSTAT as it reads, and the core after the read. -/
def Core.readXstat (c : Core) : Word × Core := (c.power.xstat.setWidth 32, { c with power := { c.power with xstat := 0 } })

def execRstXstatRead (m : Master) (s : State) : Out :=
  onCore (fun c => c.readBy m false fun c => c.readXstat) s

/-! ### Leaving reset (R403) -/

/-- The core leaves reset once its supply and CK_TIME are there; any other unit is released, and takes the settings of generation G. -/
def Core.release (c : Core) (p : Part) : Core :=
  if p = .core then
    (if c.power.coreReset && c.time.running && decide (c.aon.power = .run) && c.aon.pgood then
      { c with power := { c.power with coreReset := false, wdogAt := c.aon.ticks } } else c)
  else if p ∈ c.power.inReset then
    { c with power := { c.power with inReset := c.power.inReset.filter fun x => decide (x ≠ p) } }.leaveQuiesce p
  else c

def execResetRelease (p : Part) (s : State) : Out := onCore (fun c => c.release p) s

/-- DTIME_RELOAD: CK_TIME has locked again. After PORST_N DTIME starts at 0; otherwise it is reloaded (R216, R224). -/
def Core.timeStarts (c : Core) : Core :=
  if c.time.running ∨ c.aon.power ≠ .run ∨ !c.aon.pgood then c
  else if c.power.porst && c.power.coreReset then { c with time := { c.time with running := true } }
  else c.reloadTime c.aon.ticks

def execDtimeReload (s : State) : Out := onCore Core.timeStarts s

/-! ### Crossings (R397 to R399) -/

/-- CROSSING_RESYNC: a queue or value crossing counts its PEER_RESET; an event latch whose own side was reset is 0, one whose source side was
reset keeps its value, and its handshake ends, with which an edge that merged in it sets the latch again (R396). -/
def Core.resync (c : Core) (x : Crossing) (receiverReset : Bool) : Core :=
  match x with
  | .dcq _ => { c with power := { c.power with xstat := satInc16 c.power.xstat } }
  | .svf _ => { c with power := { c.power with xstat := satInc16 c.power.xstat } }
  | .eventLatch g e =>
    let again := (c.crossing g e).again
    let c := c.setCrossing g e LatchX.reset
    if receiverReset || again then c.modPage g fun p => { p with latch := putBit p.latch e.toNat (again && !receiverReset) } else c

def execCrossingResync (x : Crossing) (receiverReset : Bool) (s : State) : Out := onCore (fun c => c.resync x receiverReset) s

/-- ASYNC_WAKE: a request reaches a clock domain that is stopped. A channel in self-refresh is retrained and ready again (R311); the clocks
of CK_TIME, of the ports and of PCIe start with the supply, the link and the host, whose own commands follow. -/
def Core.asyncWake (c : Core) (d : ClockDomain) : Core :=
  match d with
  | .mem k =>
    if k.toNat < 36 ∧ (c.gdc k.toNat).st = .selfref ∧ c.aon.power = .run ∧ !c.power.coreReset then
      c.setGdc k.toNat { c.gdc k.toNat with st := .ready } else c
  | .time => c.timeStarts
  | .eth _ => c
  | .tl _ => c
  | .cxp => c
  | .pcie => c

def execAsyncWake (d : ClockDomain) (s : State) : Out := onCore (fun c => c.asyncWake d) s

/-- The parts of a SerDes group, in the order of R400. -/
def serdesParts (g : BitVec 3) : List Part :=
  match g.toNat with
  | 0 => []
  | 1 => [.ethPort 0, .ethPort 1, .ethPort 2, .ethPort 3]
  | 2 => [.ethPort 4, .ethPort 5, .ethPort 6, .ethPort 7]
  | 3 => (List.range 16).map fun x => .cxpConn (BitVec.ofNat 4 x)
  | n => [.tlPort (BitVec.ofNat 2 (n - 4))]

/-- SERDES_PLL_LOSS: the group and its ports go through QUIESCE to their reset, with a UNIT_FATAL entry (R400). -/
def execSerdesPllLoss (g : BitVec 3) (s : State) : Out :=
  onCore (fun c =>
    let c := c.log { cls := 2, source := 0x0E, code := Config.pllCode, unit := g.setWidth 32, detail := 0, addr := 0 }
    (serdesParts g).foldl Core.enterQuiesce (c.enterQuiesce (.serdes g))) s

/-- FUNCTION_LEVEL_RESET: the function's sources are no longer active, its vectors are masked with nothing pending, Bus Master Enable and the function mask are clear, VF Enable too for the PF, its pairs enter QUIESCE,
its OPEN hands are folded, and it is not frozen any more (R215, R298, R355, R383). -/
def execFunctionLevelReset (f : FuncId) (s : State) : Out :=
  onCore (fun c =>
    let h := c.hic
    let c := { c with hic := { h with
      active := h.active.filter fun e => decide (e.2 ≠ some f)
      unmasked := h.unmasked.filter fun e => decide (e.1 / 2048 ≠ f.toNat)
      pba := h.pba.filter fun e => decide (e.1 / 2048 ≠ f.toNat)
      fmask := Tbl.set h.fmask f.toNat false false
      bme := Tbl.set h.bme f.toNat false false
      vfe := h.vfe && decide (f ≠ 0) } }
    let c := { c with err := { c.err with ffrz := Tbl.set c.err.ffrz f.toNat 0 0 } }
    ((c.pairsOf f).foldl (fun c h => c.enterQuiesce (.hostPair h)) c).ownerGone (.func f)) s

end Sys2Proof.Machine
end

