-- ==== Sys2Proof/Machine/PowerFam.lean ====
section
/-!
DEFINITION. Sys2Proof/Machine/PowerFam.lean: bunch gating, power states, supplies, wake, WATCH and dips (spec/16_power.md), and what passes
while no command waits.
-/
namespace Sys2Proof.Machine

/-! ### Bunch gating (R408 to R413) -/

def Core.bunchBit (b : BunchId) : DWord := 1#64 <<< b.toNat

/-- PWR_IDLE. -/
def Core.idleNs (c : Core) : Word := cfgGet c.cfg (sid 0x01 0x40)

/-- A sprig that does not keep its bunch from being idle. -/
def Core.sprigIdle (c : Core) (g : SprigId) : Bool :=
  let s := c.sprig g
  (decide (s.state = .disabled)
      || (decide (s.state = .wait) && (c.bwake (bunchOf g)).getLsbD 31 && !c.wakeCondition g))
    && decide (s.board = 0) && s.drained

/-- Whether some queue of a bunch holds a card, or is being reset (R192). -/
def Core.queuesBusy (c : Core) (b : BunchId) : Bool :=
  c.queues.any fun e => decide (e.1 / 256 = b.toNat)
    && (decide ((c.queue (BitVec.ofNat 14 e.1)).count ≠ 0) || !e.2.walk.isEmpty || !e.2.deferred.isEmpty)

def Core.leasesBusy (c : Core) (b : BunchId) : Bool :=
  (List.range 4).any fun l => match (c.lease b (BitVec.ofNat 2 l)).st with
    | .copying => true
    | .active => true
    | .restoring => true
    | _ => false

/-- Whether some source with an effective target in the bunch is eligible. -/
def Core.bicBusy (c : Core) (b : BunchId) : Bool :=
  decide ((c.bic b).en ≠ 0) && (List.range 32).any fun s => (c.bicSelect b (BitVec.ofNat 5 s)).isSome

/-- A bunch is idle (R408). -/
def Core.bunchIdle (c : Core) (b : BunchId) : Bool :=
  decide (b ≠ 0) && !c.power.hold.getLsbD b.toNat && (sprigsOf b).all c.sprigIdle && !c.queuesBusy b && !c.leasesBusy b
    && (c.dma b).queue.isEmpty && !c.bicBusy b

/-- The device runs, so that bunches are gated and woken. -/
def Core.running (c : Core) : Bool := decide (c.aon.power = .run) && !c.power.coreReset

/-- BUNCH_IDLE_EXPIRY: a bunch has been idle for PWR_IDLE.NS; its preparation phase starts (R409). -/
def execBunchIdleExpiry (b : BunchId) (s : State) : Out :=
  onCore (fun c =>
    if c.running && decide (c.idleNs ≠ 0) && !c.asleep b && !c.quiet (.bunch b) && c.bunchIdle b then
      { c with power := { c.power with prep := c.power.prep ||| Core.bunchBit b } } else c) s

/-- The bunches of PWR_BUNCH_RET. -/
def Core.retMask (c : Core) : DWord :=
  (List.range 64).foldl (fun m b => if c.retained b then m ||| (1#64 <<< b) else m) 0

/-- Bunches are gated; what their banks 0 keep is decided now (R181). -/
def Core.gate (c : Core) (bs : DWord) : Core :=
  { c with power := { c.power with
      gated := c.power.gated ||| bs
      kept := (c.power.kept &&& ~~~(bs &&& ~~~c.power.gated)) ||| (c.retMask &&& bs &&& ~~~c.power.gated) } }

/-- BUNCH_GATED: the preparation phase ends without an access and the switch opens. -/
def execBunchGated (b : BunchId) (s : State) : Out :=
  onCore (fun c =>
    if !c.power.prep.getLsbD b.toNat then c
    else
      let c := { c with power := { c.power with prep := c.power.prep &&& ~~~Core.bunchBit b } }
      if c.bunchIdle b && !c.quiet (.bunch b) then (c.noteRestart b false).gate (Core.bunchBit b) else c) s

/-- A gated bunch starts to wake. -/
def Core.startBunch (c : Core) (b : BunchId) : Core :=
  if c.power.gated.getLsbD b.toNat then
    { c with power := { c.power with gated := c.power.gated &&& ~~~Core.bunchBit b, waking := c.power.waking ||| Core.bunchBit b } }
  else c

/-- FIRST_ACCESS: an event that must reach a gated bunch wakes it; the event itself stalls (R410). -/
def execFirstAccess (b : BunchId) (s : State) : Out := onCore (fun c => if c.running then c.startBunch b else c) s

/-- Bank 0 of a scratchpad: 128 KiB. -/
def bank0Bytes : Nat := 0x20000

/-- Whether the byte at an address is cleared when bunch b wakes (R179). -/
def clearedAt (b : BunchId) (keepBank0 : Bool) (a : Nat) : Bool :=
  let s := scratchBase b + (if keepBank0 then bank0Bytes else 0)
  (decide (s ≤ a) && decide (a < scratchBase b + 0x200000))
    || (decide (localsBase (sprigAt b 0) ≤ a) && decide (a < localsBase (sprigAt b 0) + 0x400000))

/-- The memories of a bunch that are not retained are cleared (R179 to R181). -/
def Core.clearBunch (c : Core) (b : BunchId) : Core :=
  let k := c.power.kept.getLsbD b.toNat
  { c with
    mem := c.mem.filter fun e => !clearedAt b k e.1
    parity := c.parity.filter fun e => !clearedAt b k e.1
    ecc := c.ecc.filter fun e => !clearedAt b k (e.1 * 8)
    leases := c.leases.filter fun e => decide (e.1 / 4 ≠ b.toNat)
    banks := c.banks.filter fun e => decide (e.1 / 16 ≠ b.toNat) }

/-- The wake image of a bunch is copied into the instruction RAM of a sprig from word 0 (R412). -/
def Core.copyWakeImage (c : Core) (b : BunchId) (g : SprigId) : Core :=
  let w := c.bwake b
  if w.getLsbD 30 then
    c.setBytes (localsBase g + 0x10000) (c.bytes (scratchBase b + 1024 * field w 23 7) (1024 * field w 16 5)) else c

/-- A sprig as the release of its bunch leaves it: reset, and in RUN at the wake PC with MODE 0 if it restarts. -/
def Core.releaseSprig (c : Core) (b : BunchId) (g : SprigId) (restarts : Bool) : Core :=
  if restarts then (c.copyWakeImage b g).setSprig g { Sprig.reset with state := .run, pc := (c.bwake b).setWidth 16 }
  else c.setSprig g Sprig.reset

/-- The bunch has its supply again: memories cleared, sprigs released, the setting page rewritten from the store (R353, R411, R412). -/
def Core.releaseBunch (c : Core) (b : BunchId) : Core :=
  let m : Word := Tbl.get c.power.restart b.toNat 0
  let c := c.clearBunch b
  let c := (List.range 32).foldl (fun c s => c.releaseSprig b (sprigAt b (BitVec.ofNat 5 s)) (m.getLsbD s)) c
  let c := c.storeEcc (currentView b) (pageBytes c.cfg b c.store.gen c.store.last) false
  { c with power := { c.power with
      gated := c.power.gated &&& ~~~Core.bunchBit b, waking := c.power.waking &&& ~~~Core.bunchBit b
      kept := c.power.kept &&& ~~~Core.bunchBit b
      restart := Tbl.set c.power.restart b.toNat 0 0 } }

/-- The bunches that a BUNCH_HOLD command holds. -/
def heldMask (own : List Byte) : DWord := if pword own 2 = 1 then 0 else pword own 1 ++ pword own 0

/-- BUNCH_HOLD commands are answered once every bunch they hold is ready (R413). -/
def Core.answerHolds (c : Core) : Core :=
  c.answerWhere (fun x => decide (x.opcode = 0x0601) && decide (heldMask x.own &&& (c.power.gated ||| c.power.waking) = 0)) (ok [])

/-- BUNCH_WAKE_RELEASE. -/
def execBunchWakeRelease (b : BunchId) (s : State) : Out :=
  onCore (fun c => if c.running && c.power.waking.getLsbD b.toNat then (c.releaseBunch b).answerHolds else c) s

/-- PWR_BUNCH_HOLD takes a value; bit 0 reads 1. The bunches newly held wake, and a gating in preparation ends. -/
def Core.setHold (c : Core) (v : DWord) : Core :=
  let v := v ||| 1
  let c := { c with power := { c.power with hold := v, prep := c.power.prep &&& ~~~v } }
  (List.range 64).foldl (fun c b => if v.getLsbD b then c.startBunch (BitVec.ofNat 6 b) else c) c

/-- BUNCH_HOLD: operation 0 sets, 1 clears, 2 writes (R413). -/
def Core.cmdHold (c : Core) (a : Args) : Core × Option Reply :=
  let m : DWord := a.w 1 ++ a.w 0
  let go (v : DWord) : Core × Option Reply :=
    let c := c.setHold v
    (c, if heldMask a.own &&& (c.power.gated ||| c.power.waking) = 0 then some (ok []) else none)
  match (a.w 2).toNat with
  | 0 => go (c.power.hold ||| m)
  | 1 => go (c.power.hold &&& ~~~m)
  | 2 => go m
  | _ => (c, some ⟨stBadParam, []⟩)

def execBunchHold (q : CmdSrc) (s : State) : Out :=
  command q { opc := 0x0601, who := .supervisors, minLen := 12 } (coreBody fun c a => c.cmdHold a) s

/-! ### The WATCH registers (R420) -/

def watchChReset : Word := 0x0FFF0000#32

/-- A write of a WATCH register that is not read-only. The alarm is written low word first (R219). -/
def Core.writeWatch (c : Core) (m : Master) (off : Nat) (v : Word) : Core :=
  let a := c.aon
  if off = 0x400 then
    if (v &&& 0x00FFFFFF#32).toNat < 32 then c.ignoredReg m 420 0x01 off
    else { c with aon := { a with watchCfg := v &&& 0x00FFFFFF#32 } }
  else match inBlock off 0x410 4 8 with
  | some (i, _) => { c with aon := { a with watchPin := Tbl.set a.watchPin i (v &&& 0xC000001F#32) 0 } }
  | none =>
    match inBlock off 0x440 4 4 with
    | some (k, _) => { c with aon := { a with watchCh := Tbl.set a.watchCh k (v &&& 0x8FFF0FFF#32) watchChReset } }
    | none =>
      let low : Addr := BitVec.ofNat 40 (regAt 0x01 0x480)
      if off = 0x480 then c.stage m low v
      else if off = 0x484 then
        { c with aon := { a with alarm := (v ++ c.stagedLow m low : DWord).setWidth 48 } }.stage m low 0
      else c

/-- The registers of a WATCH_CFG buffer, in offset order from 0x0400 to 0x0484. -/
def watchWords : Nat := 34

/-- WATCH_CFG. -/
def execWatchCfg (q : CmdSrc) (s : State) : Out :=
  command q { opc := 0x0602, who := .supervisors, needs := true, inLen := some (4 * watchWords) }
    (coreBody fun c a =>
      ((List.range watchWords).foldl (fun c k => c.writeWatch (.sprig 0) (0x400 + 4 * k) (pword a.inb k)) c, some (ok []))) s

/-! ### Entering STANDBY, WATCH and OFF (R414, R415) -/

def Core.wakeEnable (c : Core) : Word := cfgGet c.cfg (sid 0x01 0x04)
def Core.wakeAddr (c : Core) : BitVec 7 := (cfgGet c.cfg (sid 0x01 0x08)).setWidth 7

/-- The sources of PWR_WAKE_EN that act in a state (R421, R422). -/
def wakeBits (st : PowerState) : Word := if st = .off then 0x00000879#32 else 0xFFF03879#32

/-- Sources that are edges: the address match and PCIe. -/
def wakeEdges : Word := 0x00002001#32

/-- The state that a POWER_STATE command names. -/
def powerOf (v : Word) : Option PowerState :=
  match v.toNat with
  | 0 => some .run
  | 1 => some .standby
  | 2 => some .watch
  | 3 => some .off
  | _ => none

/-- The parts that a power entry takes through QUIESCE. -/
def Core.entryParts (c : Core) (q : CmdSrc) : List Part :=
  ((List.range 63).map fun b => Part.bunch (BitVec.ofNat 6 (b + 1)))
    ++ ((List.range 8).map fun p => Part.ethPort (BitVec.ofNat 3 p))
    ++ ((List.range 16).map fun x => Part.cxpConn (BitVec.ofNat 4 x))
    ++ (allPorts.map fun t => Part.tlPort t)
    ++ (((0 :: c.cmdPairs).filter fun h => pairEn (c.pairCfg h) && match q with
        | .pair k => decide (k.setWidth 8 ≠ h)
        | .sprig _ _ => true).map fun h => Part.hostPair h)

/-- POWER_STATE. -/
def powerBody (q : CmdSrc) (s : State) (a : Args) : State × Option Reply :=
  let c := s.core
  match powerOf (a.w 0) with
  | none => (s, some ⟨stBadParam, []⟩)
  | some .run => (s, some (ok []))
  | some st =>
    if c.power.request.isSome then (s, some ⟨stBusy, []⟩)
    else if st = .off ∧ s.isl.prog = .running then (s, some (conflict 0x61 0))
    else if c.acceptedHands ≠ [] then (s, some (conflict 0x90 0))
    else if c.wakeEnable &&& wakeBits st = 0 then (s, some (badParam 0x91 0))
    else
      let c := { c with power := { c.power with request := some (q, st) }, aon := { c.aon with early := 0 } }
      ({ s with core := (c.entryParts q).foldl Core.enterQuiesce c }, none)

def execPowerState (q : CmdSrc) (s : State) : Out :=
  command q { opc := 0x0600, who := .supervisors, minLen := 4 } (powerBody q) s

/-- What the Steward leaves for a resume (R461, R415). -/
def Core.resumeRecord (c : Core) : ResumeRec :=
  let b := c.boot
  { comps := b.comps, bundle := b.bundle, meas := b.meas, slot := b.slot, src := b.src, patched := b.patched, trial := b.trial }

/-- A record's bytes. Its layout is the model's. -/
def ResumeRec.image (r : ResumeRec) : List Byte :=
  (r.comps.flatMap fun x => bytesOf x.digest 32) ++ r.bundle
    ++ ((List.range 16).flatMap fun i => bytesOf (Tbl.get r.meas i 0) 32)
    ++ [r.slot.setWidth 8, r.src.setWidth 8, if r.patched then 1 else 0, if r.trial then 1 else 0]

/-- A part in QUIESCE whose window has not ended (R385). -/
def Core.windowOpen (c : Core) (p : Part) : Bool :=
  match c.quietSince p with
  | none => false
  | some t => decide ((c.time.dtime - t).toNat < windowTicks) && !decide (p ∈ c.power.inReset)

/-- A part that the entry powers down has had its window: it is cut, unless QUIESCE_CUT did it, and does not stay in reset. -/
def Core.powerDown (c : Core) (p : Part) : Core :=
  let c := if p ∈ c.power.inReset ∨ !c.quiet p then c else (c.logCut p).cut p
  { c with power := { c.power with inReset := c.power.inReset.filter fun x => decide (x ≠ p) } }.leaveQuiesce p

/-- The channels in use that do not yet drain under QUIESCE (R311). -/
def Core.openChannels (c : Core) : List Part :=
  ((List.range 36).filter fun k => decide ((c.gdc k).st = .ready) && !c.quiet (.channel (BitVec.ofNat 6 k))).map fun k =>
    Part.channel (BitVec.ofNat 6 k)

/-- The channels whose controllers, drained, enter self-refresh (R311). -/
def Core.selfRefresh (c : Core) : Core :=
  (List.range 36).foldl (fun c k =>
    if (c.gdc k).st = .ready then (c.setGdc k { c.gdc k with st := .selfref }).leaveQuiesce (.channel (BitVec.ofNat 6 k)) else c) c

/-- Step 3 of R415 for STANDBY and WATCH. -/
def Core.leaveResume (c : Core) : Core :=
  let r := c.resumeRecord
  { c with resumeRec := some r, aon := { c.aon with resume := some (Config.sha3 r.image) } }.selfRefresh

/-- The always-on sequencer takes control at the entry instant. -/
def Core.enterLow (c : Core) (st : PowerState) : Core :=
  let c := (if c.asleep 0 then c else c.noteRestart 0 true).stopTime c.aon.ticks
  let c := c.gate (BitVec.allOnes 64 &&& ~~~c.power.waking)
  { c with
    boot := { c.boot with steward := false }
    mon := { c.mon with locked := true }
    power := { c.power with request := none, gated := BitVec.allOnes 64, waking := 0, prep := 0 }
    aon := { c.aon with power := st, pwrEn := false, pgood := false, entry := c.aon.ticks, watchN := 0, back := st } }

/-- POWER_ENTRY: steps 2 to 5 of R415, once the window of every part has ended (R385). For OFF the Steward waits until G stands in flash. A lease that keeps bunch 0 from being gated
delays the entry (R175; log entry 77). For STANDBY and WATCH the channel controllers first drain under QUIESCE (R311), and the entry goes on at
the next POWER_ENTRY. -/
def execPowerEntry (s : State) : Out :=
  .next (
    match s.core.power.request with
    | none => s
    | some (q, st) =>
      if (st = .off ∧ !s.core.store.mirrored) ∨ s.core.leasesBusy 0 ∨ (s.core.entryParts q).any s.core.windowOpen then s
      else if st ≠ .off ∧ s.core.openChannels ≠ [] then { s with core := s.core.openChannels.foldl Core.enterQuiesce s.core }
      else
        let c := (s.core.entryParts q).foldl Core.powerDown s.core
        let c := if st = .off then c else c.leaveResume
        let c := c.answerWhere (fun x => decide (x.opcode = 0x0600)) (ok [])
        if st = .off then { s with core := { c with power := { c.power with request := none } } }.enterOff
        else { s with core := c.enterLow st })

/-! ### Wake (R416 to R423) -/

/-- The entry window of 3 AON ticks. -/
def Core.inWindow (c : Core) : Bool := decide ((c.aon.ticks - c.aon.entry).toNat < 3)

def Core.asleepState (c : Core) : Bool := decide (c.aon.power = .standby ∨ c.aon.power = .watch)

/-- The alarm is due (R422). -/
def Core.alarmDue (c : Core) : Bool := decide (c.aon.alarm ≤ c.aon.ticks)

/-- Of the sources named active, those that can wake the device in a state: enabled, acting in the state, and for the alarm and the island also
true. -/
def Core.wakesIn (c : Core) (st : PowerState) (src : Word) : Word :=
  let m := src &&& c.wakeEnable &&& wakeBits st
  let m := if c.alarmDue then m else m &&& ~~~0x800#32
  if metWake c.metCfg && !c.met.waiting.isEmpty then m else m &&& ~~~0x1000#32

/-- The sources that can wake the device now. -/
def Core.wakesBy (c : Core) (src : Word) : Word := c.wakesIn c.aon.power src

/-- A wake starts: its sources are recorded and the supply sequence runs (R418). -/
def Core.startWake (c : Core) (src : Word) : Core :=
  let a := c.aon
  { c with aon := { (a.powerUp a.power) with wake := true, left := a.power, wakeStat := a.wakeStat ||| src, early := 0 } }

/-- Sources become active: within the entry window, or while the device still prepares, edges are lost and levels wait for the window's
end (R416). -/
def Core.wakeNow (c : Core) (src : Word) : Core :=
  if src = 0 then c
  else if c.inWindow then { c with aon := { c.aon with early := c.aon.early ||| (src &&& ~~~wakeEdges) } }
  else c.startWake src

/-- WAKE: sources active in STANDBY or WATCH, or levels that become active while an entry is under way. -/
def execWake (src : Word) (s : State) : Out :=
  onCore (fun c =>
    if c.asleepState then c.wakeNow (c.wakesBy src)
    else match c.power.request with
      | some (_, st) =>
        { c with aon := { c.aon with early := c.aon.early ||| (c.wakesIn st src &&& ~~~wakeEdges) } }
      | none => c) s

/-- OFF_WAKE. -/
def execOffWake (src : Word) (s : State) : Out :=
  onCore (fun c => if c.aon.power = .off then c.wakeNow (c.wakesBy src) else c) s

/-- MGMT_ADDRESS_MATCH: the first byte after a START is compared with PWR_I2C.ADDR. -/
def execMgmtAddressMatch (addr : BitVec 7) (s : State) : Out :=
  onCore (fun c =>
    if (c.asleepState ∨ c.aon.power = .off) ∧ addr = c.wakeAddr then c.wakeNow (c.wakesBy 1) else c) s

/-- RTC_ALARM: AON_TICKS has reached the alarm. -/
def execRtcAlarm (s : State) : Out :=
  onCore (fun c => if c.asleepState ∨ c.aon.power = .off then c.wakeNow (c.wakesBy 0x800) else c) s

/-- Whether a WATCH cycle that reads these codes and pins wakes the device (R419). -/
def Core.watchTrips (c : Core) (codes : List (BitVec 12)) (pins : Word) : Bool :=
  ((List.range 4).any fun k =>
    let w := Tbl.get c.aon.watchCh k watchChReset
    let v := ((codes[k]?).getD 0).toNat
    w.getLsbD 31 && (decide (v < field w 0 12) || decide (field w 16 12 < v)))
  || (List.range 8).any fun i =>
    let w := Tbl.get c.aon.watchPin i 0
    w.getLsbD 31 && (pins.getLsbD (field w 0 5) != w.getLsbD 30)

/-- The results of a cycle. -/
def Aon.watched (a : Aon) (codes : List (BitVec 12)) (pins : Word) : Aon :=
  { a with
    watchN := if a.watchN = BitVec.allOnes 32 then a.watchN else a.watchN + 1
    watchLast := (List.range 4).foldl (fun t k =>
      if (Tbl.get a.watchCh k watchChReset).getLsbD 31 then Tbl.set t k (((codes[k]?).getD 0).setWidth 32) 0 else t) a.watchLast
    watchLpin := (List.range 8).foldl (fun v i =>
      let w := Tbl.get a.watchPin i 0
      if w.getLsbD 31 then putBit v i (pins.getLsbD (field w 0 5)) else v) a.watchLpin }

/-- WATCH_CYCLE: one code for each channel, and the levels at the pins of bank 0. -/
def execWatchCycle (codes : List (BitVec 12)) (pins : Word) (s : State) : Out :=
  onCoreIf (decide (codes.length = 4)) (fun c =>
    if c.aon.power ≠ .watch ∨ c.inWindow then c
    else
      let trips := c.watchTrips codes pins
      let c := { c with aon := c.aon.watched codes pins }
      if trips then c.startWake 0x8000#32 else c) s

/-! ### The supply sequence (R406) -/

/-- PGOOD_RISE: power-up proceeds, with VCORE at code 60; the LPR hands VCORE back. PGTRY counts the attempts of a wake (R423). -/
def execPgoodRise (s : State) : Out :=
  onCore (fun c =>
    let a := c.aon
    if a.power = .starting ∧ a.pwrEn ∧ !a.pgood then
      { c with
        aon := { a with pgood := true, power := .run, wake := false, pgtry := if a.wake then BitVec.ofNat 3 a.tries else a.pgtry }
        power := { c.power with wdogAt := a.ticks }
        slack := { c.slack with vt := 0x3C, vmeas := 0x3C } }
    else c) s

/-- PGOOD_TIMEOUT: PGOOD has not risen in 2 ms. After three attempts the device stays in its low-power state. -/
def execPgoodTimeout (s : State) : Out :=
  onCore (fun c =>
    let a := c.aon
    if a.power = .starting ∧ a.pwrEn ∧ !a.pgood then
      { c with aon := { a with pwrEn := false, pgfail := true, wake := a.wake && decide (a.tries < 3), power := if 3 ≤ a.tries then a.back else .starting } }
    else c) s

/-- POWER_UP_RETRY: 10 ms later PWR_EN rises again. -/
def execPowerUpRetry (s : State) : Out :=
  onCore (fun c =>
    let a := c.aon
    if a.power = .starting ∧ !a.pwrEn then { c with aon := { a with pwrEn := true, tries := a.tries + 1 } } else c) s

/-! ### Dips (R425, R426) -/

/-- DIP_START: in RUN, VCORE has stayed below the warning threshold; `stamp` is the start of the dip. -/
def execDipStart (stamp : DWord) (s : State) : Out :=
  onCore (fun c =>
    let a := c.aon
    if a.power ≠ .run ∨ a.inDip then c
    else
      let t := stamp &&& ~~~7#64
      { c with aon := { a with dipCount := a.dipCount + 1, inDip := true, dipIn := t, dipOut := BitVec.allOnes 64 } }.source
        0x3400 true true t) s

/-- DIP_END. -/
def execDipEnd (stamp : DWord) (minv : Byte) (s : State) : Out :=
  onCore (fun c =>
    let a := c.aon
    if !a.inDip then c
    else
      let t := stamp &&& ~~~7#64
      { c with aon := { a with inDip := false, dipOut := t, minv := minv } }.source 0x3400 false false t) s

/-! ### Time that passes while no command waits -/

/-- An AON tick, 1 / 32,768 s, in units of 1/64 ns; a CK_TIME cycle of 1 ns is 64 of them. -/
def aonUnits : Nat := 1953125
def cycleUnits : Nat := 64

/-- The always-on domain over a CK_TIME cycle: at an edge of CK_AON it counts and takes a copy of DTIME (R401). -/
def Aon.cycle (a : Aon) (t : DWord) : Aon :=
  if aonUnits ≤ a.frac + cycleUnits then { a with frac := a.frac + cycleUnits - aonUnits, ticks := a.ticks + 1, copy := t }
  else { a with frac := a.frac + cycleUnits }

/-- Levels seen in the entry window wake the device as the window ends (R416). -/
def Core.endWindow (c : Core) : Core :=
  let low := c.asleepState || decide (c.aon.power = .off)
  if low && !c.inWindow && decide (c.aon.early ≠ 0) then c.startWake c.aon.early else c

/-- One CK_TIME cycle; one CK_AON tick while CK_TIME stands still (log entry 1). -/
def Core.tick (c : Core) : Core :=
  if c.time.running then
    let t := c.time.count
    { c with time := t, aon := c.aon.cycle t.dtime }.settleCaps.tlSend
  else { c with aon := { c.aon with ticks := c.aon.ticks + 1 } }.endWindow

/-- MTIME counts the island's microseconds, 64,000 units each (R314). -/
def Island.tick (x : Island) (u : Nat) : Island :=
  if x.inReset then x
  else { x with frac := (x.frac + u) % 64000, mtime := x.mtime + BitVec.ofNat 48 ((x.frac + u) / 64000) }

/-- What an idle step does. -/
def State.tick (s : State) : State :=
  { s with core := s.core.tick, isl := s.isl.tick (if s.core.time.running then cycleUnits else aonUnits) }

end Sys2Proof.Machine
end

