-- ==== Sys2Proof/Machine/BootOps.lean ====
section
/-!
DEFINITION. Sys2Proof/Machine/BootOps.lean: the boot bundle, its checks, and what the boot ROM loads and hands over
(spec/18_boot_and_security.md, R453 to R457, R464; R361).
-/
namespace Sys2Proof.Machine

/-! ### The bundle (R453, R454) -/

/-- A component as it stands in a bundle. -/
structure Component where
  kind : Nat
  rbi : Nat
  version : Word
  kclass : Nat
  kindex : Nat
  load : Nat
  header : List Byte
  payload : List Byte
  key : List Byte
  signature : List Byte
deriving DecidableEq, Repr

def kindSteward : Nat := 1
def kindBase : Nat := 2
def kindPatch : Nat := 3
def kindOwner : Nat := 4

def keyBytes : Nat := 1312
def signatureBytes : Nat := 2420
def bundleMax : Nat := 16777152
def baseWords : Nat := 0xC00
def vendorOpcodes : Nat := 0xE0

def byteAt (bs : List Byte) (k : Nat) : Byte := (bs[k]?).getD 0
def zeros (bs : List Byte) (k n : Nat) : Bool := ((bs.drop k).take n).all fun b => decide (b = 0)

/-- The length of the image at the front of some bytes, by its section headers (R369). -/
def imageLength (bs : List Byte) : Nat → Nat → Nat
  | 0, at_ => at_
  | n + 1, at_ => imageLength bs n (at_ + 16 + (pword (bs.drop at_) 2).toNat)

/-- The n images that fill some bytes; `none` when they do not. -/
def splitImages (bs : List Byte) : Nat → Option (List (List Byte))
  | 0 => if bs.isEmpty then some [] else none
  | n + 1 =>
    let count := min (pword bs 1).toNat bs.length
    let len := imageLength bs count 16
    match parseImage (bs.take len) with
    | .error _ => none
    | .ok _ => if bs.length < len then none else (splitImages (bs.drop len) n).map fun l => bs.take len :: l

/-- Whether a component's payload has the form of its KIND. -/
def Component.formed (x : Component) : Bool :=
  let n := x.payload.length
  if x.kind = kindSteward then (splitImages x.payload 4).isSome
  else if x.kind = kindBase then decide (n = 4 * baseWords + 4 * vendorOpcodes)
  else if x.kind = kindPatch then decide (28 ≤ n)
  else decide (n ≤ 0x400000) && decide (x.load % 4096 = 0) && decide (x.load + n ≤ 0x2000000000)
    && disjoint x.load n 0x1FF000000 0x10000000

/-- Whether a component obeys R454 in everything but its place. -/
def Component.wellFormed (x : Component) : Bool :=
  let h := x.header
  decide (x.payload.length % 4 = 0) && between 1 x.kind 4 && decide (x.rbi ≤ 64) && decide (x.kclass ≤ 1) && decide (x.kindex ≤ 3)
    && zeros h 18 6 && zeros h 32 32 && (decide (x.kind = kindOwner) || decide (x.load = 0)) && x.formed

/-- The component at the front of some bytes, and how many it takes. One that is not well formed fails the bundle, unless it is a PATCH,
which R455 drops. -/
def component (bs : List Byte) : Option (Component × Nat) :=
  let h := bs.take 64
  let l := (pword h 1).toNat
  let total := 64 + l + keyBytes + signatureBytes
  let x : Component :=
    { kind := (pword h 0).toNat, rbi := (pword h 2).toNat, version := pword h 3
      kclass := (byteAt h 16).toNat, kindex := (byteAt h 17).toNat, load := (pword h 7 ++ pword h 6).toNat
      header := h, payload := (bs.drop 64).take l
      key := (bs.drop (64 + l)).take keyBytes, signature := (bs.drop (64 + l + keyBytes)).take signatureBytes }
  if bs.length < 64 ∨ bs.length < total ∨ (x.kind ≠ kindPatch ∧ !x.wellFormed) then none
  else some (x, total)

/-- The n components that follow; an error names the index of the first that is not well formed, 0xFF the whole. -/
def components (bs : List Byte) : Nat → Nat → Except Nat (List Component)
  | 0, _ => if bs.isEmpty then .ok [] else .error 0xFF
  | n + 1, i =>
    match component bs with
    | none => .error i
    | some (x, len) => match components (bs.drop len) n (i + 1) with
      | .ok l => .ok (x :: l)
      | .error e => .error e

def countKind (l : List Component) (k : Nat) : Nat := (l.filter fun x => decide (x.kind = k)).length

/-- A bundle's components. -/
def parseBundle (bs : List Byte) : Except Nat (List Component) :=
  let n := (pword bs 1).toNat / 65536
  let len := (pword bs 2).toNat
  if bs.length < 64 ∨ pword bs 0 ≠ 0x4942514D#32 ∨ (pword bs 1).toNat % 65536 ≠ 1 ∨ !between 2 n 7 ∨ bundleMax < len ∨ len ≠ bs.length
      ∨ !zeros bs 16 48 then .error 0xFF
  else match components (bs.drop 64) n 0 with
    | .error i => .error i
    | .ok l =>
      if countKind l kindSteward = 1 ∧ countKind l kindBase = 1 ∧ countKind l kindPatch ≤ 1 ∧ countKind l kindOwner ≤ 4 then .ok l
      else .error 0xFF

/-- The digest that a component's signature covers. -/
def Component.digest (x : Component) : BitVec 256 := Config.sha3 (x.header ++ x.payload)
def Component.comp (x : Component) : Comp := ⟨x.kind, x.rbi, x.version, x.digest⟩

/-! ### Checks (R455) -/

def failFormat : Nat := 1
def failKey : Nat := 2
def failSig : Nat := 3
def failRollback : Nat := 4
def failDecrypt : Nat := 5
def failScope : Nat := 6
def failSource : Byte := 7
def failNoImage : Byte := 8
def failResume : Byte := 9
def failRetired : Byte := 10

def Component.byOwner (x : Component) : Bool := decide (x.kind = kindSteward ∨ x.kind = kindOwner)

/-- The key class that a component needs; `none`: no key serves. -/
def Sec.needs (s : Sec) (x : Component) : Option Nat :=
  if !x.byOwner then some 1
  else match s.life with
    | .owned => some 0
    | .blank => some 1
    | .retired => none

/-- The public key's digest is that of its slot, which is not revoked. -/
def Sec.keyOk (s : Sec) (x : Component) : Bool :=
  let h := Config.sha3 x.key
  let k := x.kindex
  decide (s.needs x = some x.kclass)
    && (if x.kclass = 0 then s.ownSet.getLsbD k && !s.ownRev.getLsbD k && decide ((s.ownHash[k]?).getD 0 = h)
      else !s.vendRev.getLsbD k && decide (Config.vendorHash k = h))

/-- OWNER_RB or VENDOR_RB, by the component's class. -/
def Sec.counter (s : Sec) (x : Component) : Nat := if x.byOwner then s.ownerRb.toNat else s.vendorRb.toNat

/-- A patch's plaintext: IV, ciphertext and tag under the device class key, with the header authenticated. -/
def Component.plaintext (x : Component) : Option (List Byte) := Config.classDecrypt (x.payload.take 12) x.header (x.payload.drop 12)

/-- A record of a patch writes a patch microword or replaces the ENTRY of a vendor decode entry (R153, R454). -/
def recordOk (w v : Word) : Bool :=
  match field w 30 2 with
  | 0 => decide (field w 12 18 = 0) && between 0xC00 (field w 0 12) 0xEFF
  | 1 => decide (field w 8 22 = 0) && decide (field w 0 8 < vendorOpcodes) && decide (v.toNat < 0x1000)
  | _ => false

/-- The records of a patch's plaintext; `none` breaks R153. -/
def patchRecords (bs : List Byte) : Option (List (Word × Word)) :=
  let n := (pword bs 0).toNat
  let l := (List.range (min n bs.length)).map fun k => (pword bs (4 + 2 * k), pword bs (5 + 2 * k))
  if bs.length < 16 ∨ bs.length ≠ 16 + 8 * n ∨ !zeros bs 4 12 ∨ !l.all (fun e => recordOk e.1 e.2) then none else some l

/-- The first check of R455 that a component fails. -/
def Sec.check (s : Sec) (x : Component) : Option Nat :=
  if !x.wellFormed then some failFormat
  else if !s.keyOk x then some failKey
  else if !Config.mldsaVerify x.key (bytesOf x.digest 32) x.signature then some failSig
  else if x.rbi < s.counter x then some failRollback
  else if x.kind ≠ kindPatch then none
  else match x.plaintext with
    | none => some failDecrypt
    | some bs => if (patchRecords bs).isSome then none else some failScope

/-- The components of a bundle that can be booted, with the index and code of a patch that was dropped; or the index and code that fail the
bundle. -/
def Sec.checkBundle (s : Sec) (bs : List Byte) : Except (Nat × Nat) (List Component × Option (Nat × Nat)) :=
  match parseBundle bs with
  | .error i => .error (i, failFormat)
  | .ok l =>
    let bad := l.zipIdx.filterMap fun e => (s.check e.1).map fun code => (e.1, e.2, code)
    match bad.find? fun e => decide (e.1.kind ≠ kindPatch) with
    | some (_, i, code) => .error (i, code)
    | none => match bad with
      | [] => .ok (l, none)
      | (_, i, code) :: _ => .ok (l.filter fun x => decide (x.kind ≠ kindPatch), some (i, code))

/-! ### Loading (R129, R151 to R153, R457) -/

/-- A word of every sprig's control store, or decode table, written through the broadcast aliases. -/
def Core.broadcast (c : Core) (off : Nat) (bs : List Byte) : Core :=
  (List.range 2048).foldl (fun c g => c.writeStore (storeBase (BitVec.ofNat 11 g) + off) bs) c

/-- A patch record applied to every sprig. -/
def Core.patchWith (c : Core) (e : Word × Word) : Core :=
  if field e.1 30 2 = 0 then c.broadcast (4 * field e.1 0 12) (bytesOf e.2 4)
  else if (vendorFmt (BitVec.ofNat 8 (field e.1 0 8))).isNone then c
  else
    let a := 0x4000 + 4 * field e.1 0 8
    let old := c.word (storeBase 0 + a)
    c.broadcast a (bytesOf ((old &&& 0xFFFFF000#32) ||| (e.2 &&& 0xFFF#32)) 4)

/-- A decode entry of the base table: a listed opcode is valid, has its row's format, and is PLAIN but for RECV, BLOCK, and WAIT, SLEEP; its
SB and ENTRY are the image's. Every other vendor entry is empty (R83, R131). -/
def baseEntry (opc : Byte) (w : Word) : Word :=
  match vendorFmt opc with
  | none => 0
  | some f =>
    let cls : Word := if opc = 0x81#8 then 1 else if opc = 0x90#8 then 2 else 0
    0x80000000#32 ||| (f.setWidth 32 <<< 28) ||| (cls <<< 26) ||| (w &&& 0x03F00FFF#32)

/-- The vendor entries of a base image, as they are loaded (log entry 74). -/
def baseTable (bs : List Byte) : List Byte :=
  (List.range vendorOpcodes).flatMap fun k => bytesOf (baseEntry (BitVec.ofNat 8 k) (pword bs k)) 4

/-- The base image, then the patch's records, go into every control store and decode table. -/
def Core.loadMicrocode (c : Core) (l : List Component) : Core :=
  let c := (l.filter fun x => decide (x.kind = kindBase)).foldl (fun c x =>
    (c.broadcast 0 (x.payload.take (4 * baseWords))).broadcast 0x4000 (baseTable (x.payload.drop (4 * baseWords)))) c
  ((l.filter fun x => decide (x.kind = kindPatch)).flatMap fun x =>
    ((x.plaintext.bind patchRecords).getD [])).foldl Core.patchWith c

/-- The four STEWARD images go into sprigs 0.0 to 0.3. -/
def Core.loadSteward (c : Core) (l : List Component) : Core :=
  (l.filter fun x => decide (x.kind = kindSteward)).foldl (fun c x =>
    (((splitImages x.payload 4).getD []).zipIdx).foldl (fun c e => c.loadImage (BitVec.ofNat 11 e.2) e.1) c) c

/-- Each OWNER_DATA payload goes to its LOAD address; what falls into a FAILED channel is discarded and logged (R386). -/
def Core.loadOwnerData (c : Core) (l : List Component) : Core :=
  (l.filter fun x => decide (x.kind = kindOwner)).foldl (fun c x => c.unitStore (sprigUnit 0) x.load x.payload []) c

/-- The four Steward sprigs start at vector 0. -/
def Core.startSteward (c : Core) : Core := [(0 : SprigId), 1, 2, 3].foldl Core.startSprig c

/-- What MEAS0 is extended by: the digest of ROM version, LIFE, BOOT_SEL, SLOT and SEC_RB. The layout of what is hashed is the model's. -/
def rbWord (s : Sec) : Word := (s.vendorRb.setWidth 32 <<< 8) ||| s.ownerRb.setWidth 32
def bootDigest (s : Sec) (b : Boot) : BitVec 256 :=
  Config.sha3 (Config.romVersion ++ [s.life.code.setWidth 8, b.strap.setWidth 8, b.slot.setWidth 8] ++ bytesOf (rbWord s) 4)

/-- MEAS0 to MEAS4 (R464). -/
def Core.measureBoot (c : Core) (s : Sec) (l : List Component) : Core :=
  let dig (k : Nat) : List (BitVec 256) := (l.filter fun x => decide (x.kind = k)).map Component.digest
  let c := c.measure 0 (bootDigest s c.boot)
  let c := (dig kindSteward).foldl (fun c d => c.measure 1 d) c
  let c := (dig kindBase).foldl (fun c d => c.measure 2 d) c
  let c := match dig kindPatch with
    | [] => c.measure 3 0
    | ds => ds.foldl (fun c d => c.measure 3 d) c
  (dig kindOwner).foldl (fun c d => c.measure 4 d) c

/-! ### Restoring generation G (R361) -/

/-- Whether no channel controller still initialises or holds its devices in self-refresh. -/
def Core.memSettled (c : Core) : Bool :=
  (List.range 36).all fun k => match (c.gdc k).st with
    | .init => false
    | .selfref => false
    | _ => true

/-- The entry of a DEVICE_FATAL error that the always-on domain kept comes first, with its own DTIME and SEQ (R380). -/
def Core.logFatal (c : Core) : Core :=
  match c.aon.fatal with
  | none => c
  | some (i, t, seq, lost) =>
    let b := c.err
    { c with
      aon := { c.aon with fatal := none }
      err := { b with ring := Tbl.set b.ring (b.tail.toNat % 1024) (some ⟨i, t, seq, lost⟩) none, tail := b.tail + 1 } }

/-- The hands that a core reset cut, and a generation restored from an older copy in flash (R357, R361). -/
def Core.logLosses (c : Core) : Core :=
  let s := c.store
  let c := s.abandoned.foldl (fun c e =>
    c.log { cls := 1, source := 0x0F, code := 0x001C, unit := e.2, detail := e.1.setWidth 16, addr := 0 }) c
  let c := if s.restored then
      c.log { cls := 1, source := 0x0F, code := 0x0017, unit := 0, detail := s.gen.setWidth 16, addr := 0 } else c
  { c with store := { c.store with abandoned := [], restored := false } }

/-- After a reset of the core domain every queue has been reset with cause BUNCH_RESET; producers on other devices hear of it when the link
is up again (R209). -/
def Core.queuesReturn (c : Core) : Core :=
  let c' := (List.range 16384).foldl (fun c i => c.resetNow (BitVec.ofNat 14 i) 5 (c.qcfg (BitVec.ofNat 14 i))) c
  { c' with fly := c'.fly.filter fun f => match f.parcel with | .notice p _ _ => !c.isLocal p | _ => true }

/-- The members of posy 0: queues of the Steward's sprigs, the error queue not among them (R30, R344). -/
def stewardMembers : List (BitVec 5) :=
  (List.range (1 + Config.stewardCount % 31)).map fun m => if Config.stewardMember m = 7 then 8 else Config.stewardMember m

/-- The settings of the boot firmware: posy 0 dispatches by key hash on word 1 with KMASK all ones (R344); its members and the error queue
are enabled, the error queue with a ring of at least 64 cards (R374). -/
def Core.bootSettings (c : Core) : List (Nat × Word) :=
  [(sid 0x0B 0x40000, 0xA0000800#32 ||| BitVec.ofNat 32 stewardMembers.length), (sid 0x0B 0x40004, 0xFFFFFFFF#32)]
    ++ (stewardMembers.zipIdx.map fun e => (sid 0x0B (0x40080 + 4 * e.2), c.handleOf (e.1.setWidth 14)))
    ++ (((7#5 : BitVec 5) :: stewardMembers).map fun i : BitVec 5 =>
      (sid 0x0B (0x10 * i.toNat), 0x80000000#32 ||| (Config.stewardRing i.toNat &&& 0x001FFFE0#32) |||
        (if i = 7 then 0x06000000#32 + (BitVec.ofNat 32 ((Config.stewardRing 7 >>> 24).toNat % 7) <<< 24)
        else Config.stewardRing i.toNat &&& 0x0F000000#32)))

/-- The boot firmware's settings stand before the Steward starts (R30). -/
def Core.bootFirmware (c : Core) : Core := { c with cfg := c.bootSettings.foldl (fun t e => cfgSet t e.1 e.2) c.cfg }

/-- Every owned register takes its value in G; bindings, pins, lines, Teinglink ports that a
loader used (R459), pages and the code of hands follow. -/
def Core.restoreG (c : Core) : Core :=
  let old := c
  let lost := !c.store.mirrored && (c.gdcs.any fun e => decide (e.2.st = .failed))
  let c := { c with store := c.store.afterReset c.cfg false lost [] }
  let c := { c with cfg := c.store.kept }.bootFirmware
  let c := c.queuesReturn
  let lb := c.bindings
  let c := (lb.foldl (fun c b => c.rebind {} [] lb b.who) c).metPump 90
  let ids := c.cfg.map fun e : Nat × Word => e.1
  let c := ((c.commitPins old ids).commitLines ids c.time.dtime).commitRef old
  let c := allPorts.foldl (fun c t => c.commitPort old (sid 0x10 (0x40000 * t.toNat))) c
  let c := (List.range 64).foldl (fun c b =>
    c.storeEcc (currentView (BitVec.ofNat 6 b)) (pageBytes c.cfg (BitVec.ofNat 6 b) c.store.gen c.store.last) false) c
  let c := c.store.images.foldl (fun c e => c.loadImage (BitVec.ofNat 11 e.1) e.2) c
  c.measure 5 (generationDigest c.store.gen c.cfg)

/-! ### Hand-over (R457) -/

/-- The components of the running bundle, with the patch only if it was applied. -/
def Core.bootComponents (c : Core) : List Component :=
  match parseBundle c.boot.bundle with
  | .error _ => []
  | .ok l => if c.boot.patched then l else l.filter fun x => decide (x.kind ≠ kindPatch)

/-- Microcode, Steward images and owner data are loaded and measured; then the Steward runs, and restores G. -/
def State.handOver (s : State) : State :=
  let l := s.core.bootComponents
  let c := ((s.core.loadMicrocode l).loadSteward l).loadOwnerData l
  let c := c.measureBoot s.sec l
  let c := { c with boot := { c.boot with phase := .handedOver, romMode := false, steward := true } }
  let c := (c.bootFirmware.startSteward.logFatal).restoreG
  { s with core := c.logLosses }

/-- A bundle that was checked is loaded once GDDR6 is there. -/
def State.finishLoad (s : State) : State :=
  if s.core.boot.phase = .load ∧ s.core.memSettled then s.handOver else s

/-! ### Trying a bundle -/

/-- FAIL and COMP of SEC_BOOT_STAT. -/
def Core.bootFail (c : Core) (code : Byte) (comp : Nat) : Core :=
  { c with boot := { c.boot with fail := code, comp := BitVec.ofNat 8 comp } }

/-- An entry of the SEC block. -/
def Core.logSec (c : Core) (cls : BitVec 4) (code detail : BitVec 16) : Core :=
  c.log { cls := cls, source := 0x11, code := code, unit := 0, detail := detail, addr := 0 }

/-- A bundle from a slot or a loader: checked, and on the way to being loaded. A slot that fails leaves a BOOT_COMPONENT entry (R458). -/
def State.tryBundle (s : State) (slot : BitVec 2) (trial : Bool) (bs : List Byte) : State × Bool :=
  match s.sec.checkBundle bs with
  | .error (i, code) =>
    let c := s.core.bootFail (BitVec.ofNat 8 code) i
    ({ s with core := if slot = 2 then c else c.logSec 1 0x0110 (BitVec.ofNat 16 (256 * i + code)) }, false)
  | .ok (l, dropped) =>
    let c := match dropped with
      | none => s.core
      | some (i, code) => (s.core.bootFail (BitVec.ofNat 8 code) i).logSec 1 0x0015 0
    ({ s with core := { c with boot := { c.boot with
        phase := .load, slot := slot, trial := trial, bundle := bs, comps := l.map Component.comp
        patched := l.any fun x => decide (x.kind = kindPatch) } } }, true)

/-! ### Text on MON_TXD -/

/-- A text of printable characters as bytes. -/
def ascii (t : List Char) : List Byte := t.map fun ch => BitVec.ofNat 8 ch.toNat

def hexDigit (n : Nat) : Byte := BitVec.ofNat 8 (if n < 10 then 48 + n else 87 + n)
/-- Bytes as lowercase hexadecimal digits. -/
def hexBytes (bs : List Byte) : List Byte := bs.flatMap fun b => [hexDigit (b.toNat / 16), hexDigit (b.toNat % 16)]

/-- A number of n bytes in hexadecimal, its highest byte first. -/
def hexNumber {w : Nat} (v : BitVec w) (n : Nat) : List Byte := hexBytes (bytesOf v n).reverse

end Sys2Proof.Machine
end

