-- ==== Sys2Proof/Machine/BootFam.lean ====
section
/-!
DEFINITION. Sys2Proof/Machine/BootFam.lean: the boot ROM's sources, serial recovery, and the resume path (spec/18_boot_and_security.md,
R456 to R461; R418).
-/
namespace Sys2Proof.Machine

/-! ### Slots (R458) -/

def Sec.slot (s : Sec) (b : Bool) : Slot := if b then s.slotB else s.slotA
def Sec.setSlot (s : Sec) (b : Bool) (x : Slot) : Sec := if b then { s with slotB := x } else { s with slotA := x }
def slotNum (b : Bool) : BitVec 2 := if b then 1 else 0

/-- The slot in a state; slot A first. -/
def Sec.slotIn (s : Sec) (st : SlotState) : Option Bool :=
  if s.slotA.st = st then some false else if s.slotB.st = st then some true else none

/-- A slot takes a state. -/
def State.mark (s : State) (b : Bool) (st : SlotState) : State :=
  { s with sec := s.sec.setSlot b { s.sec.slot b with st := st } }

/-- A slot's bundle is tried. -/
def State.trySlot (s : State) (b trial : Bool) : State × Bool :=
  s.tryBundle (slotNum b) trial ((s.sec.slot b).bytes.take (s.sec.slot b).length)

/-- A TRIED slot was not confirmed: it is given up (R458). -/
def State.revertTrial (s : State) : State :=
  match s.sec.slotIn .tried with
  | none => s
  | some b =>
    let s := s.mark b .empty
    { s with core := s.core.logSec 1 0x0113 ((slotNum b).setWidth 16) }

/-- A STAGED slot is booted on trial; one that fails is given up. -/
def State.tryStaged (s : State) : State × Bool :=
  match s.sec.slotIn .staged with
  | none => (s, false)
  | some b =>
    let (s, done) := (s.mark b .tried).trySlot b true
    if done then (s, true) else (s.mark b .empty, false)

def State.tryIn (s : State) (st : SlotState) : State × Bool :=
  match s.sec.slotIn st with
  | none => (s, false)
  | some b => s.trySlot b false

/-- What the boot ROM prints in serial recovery: "MQM-2048 recovery" and the serial number. -/
def Sec.banner (s : Sec) : List Byte :=
  ascii ['M', 'Q', 'M', '-', '2', '0', '4', '8', ' ', 'r', 'e', 'c', 'o', 'v', 'e', 'r', 'y', ' '] ++ hexNumber s.serial 8

/-- Serial recovery waits for a load command (R460). -/
def State.enterRecovery (s : State) : State :=
  let c := s.core
  { s with core := { c with
      boot := { c.boot with phase := .recovery, expect := none, got := [] }
      mon := { c.mon with recovery := true, answer := some (.text s.sec.banner) } } }

/-- Nothing can be booted. -/
def State.noImage (s : State) : State :=
  let c := s.core.bootFail failNoImage 0xFF
  if s.sec.recovDis then { s with core := { c with boot := { c.boot with phase := .failed } } }
  else { s with core := c }.enterRecovery

/-- Mode 00: the first row of R458 that applies. -/
def State.fromFlash (s : State) : State :=
  let (s, a) := s.revertTrial.tryStaged
  let (s, b) := if a then (s, true) else s.tryIn .active
  let (s, d) := if b then (s, true) else s.tryIn .previous
  if d then s.finishLoad else s.noImage

/-! ### Loaders (R459) -/

def goRecordAt : Nat := 0x01FFFFC0

/-- The staging area is cleared before PHASE reads WAIT_LOADER. -/
def Core.clearStaging (c : Core) : Core :=
  { c with
    mem := c.mem.filter fun e => !(decide (stagingBase ≤ e.1) && decide (e.1 < stagingEnd))
    ecc := c.ecc.filter fun e => !(decide (stagingBase ≤ 8 * e.1) && decide (8 * e.1 < stagingEnd)) }

/-- Mode 10: the four ports are enabled, and window 0 lets any device write the staging area. -/
def Core.openLoaderPorts (c : Core) : Core :=
  let t := [(sid 0x10 0, 0x80000000#32), (sid 0x10 0x40000, 0x80000000#32), (sid 0x10 0x80000, 0x80000000#32),
    (sid 0x10 0xC0000, 0x80000000#32), (sid 0x10 0x21100, 0xA00001FF#32), (sid 0x10 0x21104, 0x1000#32),
    (sid 0x10 0x21108, 0x1000#32)]
  { c with cfg := t.foldl (fun (g : Tbl Word) e => cfgSet g e.1 e.2) c.cfg }

def State.waitLoader (s : State) (src : BitVec 2) : State :=
  if !s.core.memSettled then s
  else
    let c := s.core.clearStaging
    let c := if src = 2 then c.openLoaderPorts else c
    { s with core := { c with boot := { c.boot with phase := .waitLoader } } }

/-- BOOT_SEL in effect: a mode that BOOT_DIS disables is recorded, and the boot proceeds as mode 00 (R456). RECOV_DIS disables serial
recovery. -/
def Sec.disabled (s : Sec) (sel : BitVec 2) : Bool :=
  match sel.toNat with
  | 0 => false
  | 3 => s.bootDis.getLsbD 2 || s.recovDis
  | n => s.bootDis.getLsbD (n - 1)

/-- The boot ROM starts: BOOT_SEL is sampled. -/
def State.startRom (s : State) (sel : BitVec 2) : State :=
  let s : State := { s with core := { s.core with boot := { s.core.boot with strap := sel } } }
  if s.sec.life = .retired then
    { s with core := { s.core.bootFail failRetired 0xFF with boot := { (s.core.bootFail failRetired 0xFF).boot with phase := .failed } } }
  else
    let off := s.sec.disabled sel
    let src : BitVec 2 := if off then 0 else sel
    let c := if off then s.core.bootFail failSource 0xFF else s.core
    let s := { s with core := { c with boot := { c.boot with src := src } } }
    match src.toNat with
    | 0 => s.fromFlash
    | 3 => s.enterRecovery
    | _ => s.waitLoader src

/-- BOOT_ROM: sprig 0.0 runs the boot ROM after the core has left reset; a bundle that waits for GDDR6 is loaded. -/
def execBootRom (sel : BitVec 2) (s : State) : Out :=
  .next (
    if !s.core.running then s
    else match s.core.boot.phase with
      | .rom => s.startRom sel
      | .load => s.finishLoad
      | _ => s)

/-- A bundle from a loader or from serial recovery is checked and booted; if it cannot be, the ROM halts (R457). -/
def State.bootLoaded (s : State) (bs : List Byte) : State :=
  let s : State := { s with core := { s.core with mon := { s.core.mon with recovery := false } } }
  let (s, done) := s.tryBundle 2 false bs
  if done then s.finishLoad else { s with core := { s.core with boot := { s.core.boot with phase := .failed } } }

/-- The go record: "MQGO", LENGTH, and 8 bytes of 0. -/
def Core.goRecord (c : Core) : Option Nat :=
  let n := (c.word (goRecordAt + 4)).toNat
  if c.word goRecordAt = 0x4F47514D#32 ∧ c.word (goRecordAt + 8) = 0 ∧ c.word (goRecordAt + 12) = 0 ∧ n ≤ bundleMax then some n else none

/-- GO_RECORD: the ROM polls and finds it. -/
def execGoRecord (s : State) : Out :=
  .next (
    match s.core.boot.phase, s.core.goRecord with
    | .waitLoader, some n => s.bootLoaded (s.core.bytes stagingBase n)
    | _, _ => s)

/-! ### Serial recovery (R460) -/

/-- RECOVERY_LOAD: `load n`. -/
def execRecoveryLoad (n : Nat) (s : State) : Out :=
  onCore (fun c =>
    if c.boot.phase = .recovery ∧ n ≤ bundleMax then { c with boot := { c.boot with expect := some n, got := [] } } else c) s

def loadFrameBytes : Nat := 1024
def recoveryAck : Byte := 0x06
def recoveryNak : Byte := 0x15

/-- RECOVERY_LOAD_FRAME: a frame whose CRC is right is accepted; the last one makes the bundle. -/
def execRecoveryLoadFrame (data : List Byte) (crc : Word) (s : State) : Out :=
  .next (
    match s.core.boot.phase, s.core.boot.expect with
    | .recovery, some n =>
      let sends (c : Core) (b : Byte) : Core := { c with mon := { c.mon with answer := some (.text [b]) } }
      if data.length ≠ loadFrameBytes ∨ crc32 data ≠ crc then { s with core := sends s.core recoveryNak }
      else
        let got := s.core.boot.got ++ data
        let c := sends { s.core with boot := { s.core.boot with got := got } } recoveryAck
        if got.length < n then { s with core := c }
        else { s with core := { c with boot := { c.boot with expect := none, got := [] } } }.bootLoaded (got.take n)
    | _, _ => s)

/-! ### Resume (R461, R418) -/

/-- The record that the resume path finds, when it is the one of the digest in AON RAM and the bundle copy's components are those of the
record. -/
def Core.resumable (c : Core) : Option ResumeRec :=
  match c.resumeRec with
  | none => none
  | some r =>
    let same : Bool := match parseBundle r.bundle with
      | .error _ => false
      | .ok l => decide ((if r.patched then l else l.filter fun x => decide (x.kind ≠ kindPatch)).map Component.comp = r.comps)
    if c.aon.resume = some (Config.sha3 r.image) ∧ same = true then some r else none

/-- The Steward runs again from its record; bunch 0 has woken and the other bunches stay gated. -/
def Core.resumeFrom (c : Core) (r : ResumeRec) : Core :=
  let l := { c with boot := { c.boot with bundle := r.bundle, patched := r.patched } }.bootComponents
  let c := ((c.releaseBunch 0).loadMicrocode l).loadSteward l
  { c with
    boot := { c.boot with
      comps := r.comps, bundle := r.bundle, meas := r.meas, slot := r.slot, src := r.src, patched := r.patched, trial := r.trial
      resumed := true, steward := true }
    mon := { c.mon with locked := true, challenge := none }
    resumeRec := none
    aon := { c.aon with resume := none } }.startSteward

/-- RESUME: after a wake from STANDBY or WATCH. A mismatch starts the core as after SYSRST_N. -/
def execResume (s : State) : Out :=
  onCore (fun c =>
    if !c.running ∨ !c.time.running ∨ c.boot.phase ≠ .handedOver ∨ c.boot.steward ∨ !c.memSettled then c
    else match c.resumable with
      | some r => c.resumeFrom r
      | none => (c.coreReset false false).bootFail failResume 0xFF) s

end Sys2Proof.Machine
end

