-- ==== Sys2Proof/Machine/HandFam.lean ====
section
/-!
DEFINITION. Sys2Proof/Machine/HandFam.lean: the commands and instants of configuration hands (spec/13_commands_and_hands.md, R349, R355 to
R370; R449).
-/
namespace Sys2Proof.Machine

/-- Ticks in 1 µs, and in 2 µs and 10 µs. -/
def usTicks : Nat := 8000
def us (n : Nat) : DWord := BitVec.ofNat 64 (n * usTicks)

/-! ### Opening, staging, checking -/

/-- The participant mask: bit d of the 64 bytes is device d. -/
def maskOf (bs : List Byte) : BitVec 512 := bs.foldr (fun b m => (m <<< 8) ||| b.setWidth 512) 0

def Core.handOpen (c : Core) (q : CmdSrc) (a : Args) : Core × Option Reply :=
  let flags := a.w 0
  if flags &&& 0xFFFFFFFE#32 ≠ 0 then (c, some ⟨stBadParam, []⟩)
  else if flags = 1 ∧ !a.x.indirect then (c, some ⟨stBadParam, [0]⟩)
  else if flags = 1 ∧ a.inb.length ≠ 64 then (c, some ⟨stBadLength, []⟩)
  else if flags = 1 ∧ !(maskOf a.inb).getLsbD c.dev.toNat then (c, some (badParam 0x78 (c.dev.setWidth 32)))
  else
    let sys : Option SysHand := if flags = 1 then some { mask := maskOf a.inb, coordinator := c.dev, hand := 0 } else none
    match c.openHand (c.ownerOf q) sys [] [] with
    | none => (c, some ⟨0x0401, []⟩)
    | some (k, c) =>
      let h := c.hand k
      (c.setHand k { h with sys := h.sys.map fun x => { x with hand := h.id k } }, some (ok [h.id k]))

def execHandOpen (q : CmdSrc) (s : State) : Out :=
  command q { opc := 0x0200, who := .supervisorsSprigs, minLen := 4 } (coreBody fun c a => c.handOpen q a) s

/-- Entries of HAND_SET: in the command's own parameters, and behind them in its input buffer. -/
def Core.handSet (c : Core) (q : CmdSrc) (a : Args) : Core × Option Reply :=
  c.withHand q (a.w 0) fun slot =>
    let h := c.hand slot
    let n := (a.w 1).toNat
    let bs := (a.own ++ a.inb).drop 8
    if h.st ≠ .open then (c, some ⟨stHandClosed, []⟩)
    else if bs.length < 12 * n ∨ (a.x.indirect ∧ bs.length ≠ 12 * n) then (c, some ⟨stBadLength, []⟩)
    else
      let rs := (List.range n).map (rawEntry bs)
      match rs.findSome? (c.setFault h) with
      | some r => (c, some r)
      | none =>
        let l := rs.foldl (fun l r => c.stageRaw l r) h.entries
        if handMax < l.length then (c, some ⟨stHandFull, []⟩)
        else (c.setHand slot { h with entries := l }, some (ok []))

def execHandSet (q : CmdSrc) (s : State) : Out :=
  command q { opc := 0x0201, who := .supervisorsSprigs, minLen := 8 } (coreBody fun c a => c.handSet q a) s

/-- The other participants of a system hand. -/
def Core.others (c : Core) (x : SysHand) : List DeviceId :=
  ((List.range 512).filter fun d => x.mask.getLsbD d && decide (d ≠ c.dev.toNat)).map fun d => BitVec.ofNat 9 d

/-- The first fault that the other participants of a system hand find, with its device; what they find is free (R364). -/
def Core.checkOthers (c : Core) (slot : BitVec 4) : Core × Option Reply :=
  match (c.hand slot).sys with
  | none => (c, some (ok []))
  | some x =>
    if c.others x = [] then (c, some (ok []))
    else match Config.remoteFault c.free with
      | none => ({ c with free := c.free + 1 }, some (ok []))
      | some (st, a, b, d) => ({ c with free := c.free + 1 }, some ⟨st, [a, b, d.setWidth 32]⟩)

def Core.handCheck (c : Core) (q : CmdSrc) (a : Args) : Core × Option Reply :=
  c.withHand q (a.w 0) fun slot =>
    if (c.hand slot).st ≠ .open then (c, some ⟨stHandClosed, []⟩)
    else match c.handFault slot with
      | none => c.checkOthers slot
      | some r =>
        (c, some (if (c.hand slot).sys.isSome then { r with d := [r.word 1, r.word 2, c.dev.setWidth 32] } else r))

def execHandCheck (q : CmdSrc) (s : State) : Out :=
  command q { opc := 0x0202, who := .supervisorsSprigs, minLen := 4 } (coreBody fun c a => c.handCheck q a) s

/-! ### Committing -/

/-- The first firing of a comparator at or after an instant (R364). -/
def Cmp.firstAt (x : Cmp) (t : Nat) : Nat :=
  if t ≤ x.cmp.toNat then x.cmp.toNat else x.cmp.toNat + (t - x.cmp.toNat + x.per.toNat - 1) / x.per.toNat * x.per.toNat

/-- The comparator that drives a line, when its PER is not 0. -/
def Core.lineComparator (c : Core) (l : BitVec 12) : Option (BitVec 12) :=
  let w := c.lineCfg l
  let k : BitVec 12 := w.setWidth 12
  if w.getLsbD 31 ∧ (w >>> 12).setWidth 4 = 1#4 ∧ (c.cmp k).per ≠ 0 then some k else none

/-- Why HAND_COMMIT refuses its parameters, if it does (R345, R357, R364, R365, R368). -/
def Core.commitParams (c : Core) (h : Hand) (mode arg0 arg1 notify win : Word) : Option Reply :=
  if 2 < mode.toNat then some ⟨stBadParam, []⟩
  else if notify ≠ 0 ∧ (c.replyQueue notify).isNone then some (badParam 0x83 notify)
  else if h.loads ≠ [] ∧ !(between 1 win.toNat 1000000) then some ⟨stBadParam, []⟩
  else if mode = 2 ∧ 4095 < arg0.toNat then some ⟨stBadParam, []⟩
  else if h.sys.isSome ∧ mode = 0 ∧ !(between 100 arg1.toNat 1000000) then some ⟨stBadParam, []⟩
  else if h.sys.isSome ∧ mode = 2 ∧ (c.lineComparator (arg0.setWidth 12)).isNone then some ⟨stBadParam, []⟩
  else none

/-- The vote deadline of a system hand, and its commit instant (R364, R365). -/
def Core.sysInstants (c : Core) (mode arg0 arg1 : Word) : DWord × DWord :=
  let d := c.time.dtime + us (if mode = 0 then arg1.toNat else 1000)
  (d, if mode = 0 then d + us 100
    else if mode = 1 then arg1 ++ arg0
    else match c.lineComparator (arg0.setWidth 12) with
      | some k => BitVec.ofNat 64 ((c.cmp k).firstAt (d + us 100).toNat + 160)
      | none => never)

/-- PREPARE leaves for every other participant with its entries (R365). -/
def Core.sendPrepares (c : Core) (h : Hand) (x : SysHand) (t : DWord) : Core :=
  (c.others x).foldl (fun c d =>
    c.launch (devicePlace c.dev) (.prepare d
      { coordinator := c.dev, hand := x.hand, mask := x.mask, deadline := x.deadline, instant := t
        entries := (h.entries.filter fun e => e.dev = d).map fun e => (num e.id, e.val) })) c

/-- A failed HAND_COMMIT leaves the hand OPEN with its report (R356). -/
def Core.commitFailed (c : Core) (slot : BitVec 4) (r : Reply) : Core :=
  c.setHand slot { c.hand slot with st := .open, status := r.status, detail := r.word 1, submit := none, instant := none }

def Core.handCommit (c : Core) (q : CmdSrc) (a : Args) : Core × Option Reply :=
  c.withHand q (a.w 0) fun slot =>
    let h := c.hand slot
    if h.st ≠ .open then (c, some ⟨stHandClosed, []⟩)
    else match c.commitParams h (a.w 1) (a.w 2) (a.w 3) (a.w 4) (a.w 5) with
      | some r => (c, some r)
      | none =>
        match c.handFault slot with
        | some r => (c.commitFailed slot r, some r)
        | none =>
          let h := { h with st := HandState.pending, mode := a.w 1, arg0 := a.w 2, arg1 := a.w 3, notify := a.w 4
                            drainwin := (a.w 5).toNat, submit := some q, order := a.x.order, instant := none, status := stPending
                            detail := 0 }
          match h.sys with
          | none => (c.setHand slot h, none)
          | some x =>
            let (d, t) := c.sysInstants (a.w 1) (a.w 2) (a.w 3)
            if t < d + us 100 then
              let r := conflict 0x73 ((d + us 100).setWidth 32)
              (c.commitFailed slot r, some r)
            else
              let x := { x with deadline := d, votes := [], decided := none, report := {} }
              ((c.setHand slot { h with sys := some x, instant := some t }).sendPrepares h x t, none)

def execHandCommit (q : CmdSrc) (s : State) : Out :=
  command q { opc := 0x0203, who := .supervisorsSprigs, minLen := 24 } (coreBody fun c a => c.handCommit q a) s

/-- L of a hand with loads (R368). -/
def Core.loadTime (c : Core) (h : Hand) : DWord := us (20 + 8 * ((c.handTargets h).map bunchOf).dedup.length)

/-- T of a hand whose MODE gives the instant t (R357, R368). -/
def Core.commitInstant (c : Core) (h : Hand) (t : DWord) : DWord :=
  if h.loads = [] then t else t + us h.drainwin + c.loadTime h

/-- TIME_NOT_FINE: the first detail word of the NO of a participant whose QUAL is not FINE, the coordinator among them (R449). -/
def notFine : Word := 0xA0

/-- The HAND_COMMIT that waits is answered. -/
def Core.answerCommit (c : Core) (q : CmdSrc) (r : Reply) : Core :=
  match c.cmdsOf q with
  | x :: _ => if x.begun ∧ x.opcode = 0x0203 then c.answerCmd q r else c
  | [] => c

/-- Staging ends at r: the pages hold the new values, T is known or its line is watched, and the PENDING reply is written (R357). -/
def Core.staged_ (c : Core) (slot : BitVec 4) (q : CmdSrc) : Core :=
  let h := c.hand slot
  let now := c.time.dtime
  let early := now + us 2
  let arg : DWord := h.arg1 ++ h.arg0
  let l := c.ownEntries h
  let c := (pageBunches l).foldl (fun c b => c.stagePage (layEntries c.cfg l) b) c
  let h := { h with submit := none, ready := early }
  if h.sys.isNone ∧ h.mode = 1#32 ∧ arg < early then
    let r := conflict 0x73 (early.setWidth 32)
    (c.commitFailed slot r).answerCommit q r
  else
    let t : Option DWord :=
      match h.sys with
      | some _ => h.instant
      | none => if h.mode = 0 then some early else if h.mode = 1 then some arg else none
    let h := { h with
      instant := t
      sys := h.sys.map fun x => let yes := decide (c.time.qual = qualFine)
        { x with votes := x.votes ++ [(c.dev, yes, if yes then 0 else notFine)], votedYes := yes, report := joinReports x.report (c.under (layEntries c.futureCfg l)).report } }
    let shown : DWord := match t with | some t => c.commitInstant h t | none => never
    let c := c.setHand slot h
    let c := if t.isNone then { c with handLines := Tbl.insert (Tbl.erase c.handLines slot.toNat) slot.toNat (h.arg0.setWidth 12) } else c
    c.answerCommit q ⟨stPending, [0, shown.setWidth 32, (shown >>> 32).setWidth 32]⟩

/-- HAND_STAGED. -/
def execHandStaged (slot : BitVec 4) (s : State) : Out :=
  onCore (fun c =>
    match (c.hand slot).st, (c.hand slot).submit with
    | .pending, some q => c.staged_ slot q
    | _, _ => c) s

/-- HAND_BOUNDARY_EDGE: the first edge of the line at or after r + 2 µs fixes the instant (R357). -/
def execHandBoundaryEdge (slot : BitVec 4) (s : State) : Out :=
  onCore (fun c =>
    match c.popEdge (.hand slot) with
    | none => c
    | some (stamp, c) =>
      let h := c.hand slot
      if h.st = .pending ∧ h.instant.isNone ∧ h.submit.isNone ∧ h.ready ≤ stamp then
        { c with handLines := c.handLines.filter fun e => decide (e.1 ≠ slot.toNat) }.setHand slot { h with instant := some (stamp + 160) }
      else c) s

def Core.targetPosies (c : Core) (h : Hand) : List (BitVec 10) := (h.loads.filterMap fun x => c.localPosy x.target).dedup

/-- The devices whose import entries name a posy through which dispatch is held, with that posy (R207, R368). -/
def Core.heldImports (c : Core) : List (DeviceId × BitVec 10) :=
  (c.importBindings.filterMap fun b =>
    match b.who, c.localPosy b.handle with
    | .chan d _ _, some p => if c.handleHeld b.handle then some (d, p) else none
    | _, _ => none).dedup

/-- Dispatch through some posies is held, or resumes. -/
def Core.holdPosies (c : Core) (ps : List (BitVec 10)) (on : Bool) : Core :=
  ps.foldl (fun c p => { c with held := Tbl.set c.held p.toNat on false }) c

/-- HOLD or RELEASE notices leave. -/
def Core.sendHolds (c : Core) (l : List (DeviceId × BitVec 10)) (release : Bool) : Core :=
  l.foldl (fun c n => c.launch (posyPlace n.2) (.hold n.1 n.2 release)) c

/-- Dispatch through the target posies resumes, and the devices that acknowledged a HOLD get a RELEASE, unless the posy still reaches one
that another hand holds (R207, R368). -/
def Core.releasePosies (c : Core) (h : Hand) : Core :=
  let c' := c.holdPosies (c.targetPosies h) false
  c'.sendHolds (c.heldImports.filter fun n => !c'.heldImports.contains n && !h.awaiting.contains n) true

/-- Whether a hand's commit may take place: a system hand's decision is COMMIT (R365). -/
def Hand.decidedYes (h : Hand) : Bool :=
  match h.sys with
  | none => true
  | some x => decide (x.decided = some true)

/-- HAND_COMMIT_INSTANT (R357, R368): at T, or at the edge of a step or reload that skipped it. -/
def execHandCommitInstant (slot : BitVec 4) (s : State) : Out :=
  onCore (fun c =>
    let h := c.hand slot
    match h.st, h.instant with
    | .pending, some t =>
      if h.loads = [] ∧ h.submit.isNone ∧ h.decidedYes ∧ t ≤ c.time.dtime then c.commitHand slot t else c
    | .draining, some _ =>
      if h.loaded ∧ h.decidedYes ∧ h.commitAt ≤ c.time.dtime then
        let gs := c.handTargets h
        let c := (c.releasePosies h).commitHand slot h.commitAt
        if (c.hand slot).st = .committed then gs.foldl (fun c g => c.startSprig g) c else c
      else c
    | _, _ => c) s

/-! ### Folding and recalling -/

/-- Whether the instant t that MODE gives a hand fixes a commit instant T less than 10 µs ahead (R359). -/
def Core.tooLate (c : Core) (h : Hand) (t : DWord) : Bool :=
  decide (c.commitInstant h t < c.time.dtime + us 10)

/-- Whether a boundary edge that fixes such a T has occurred and is on its way. -/
def Core.edgeComing (c : Core) (slot : BitVec 4) : Bool :=
  c.fabric.edges.any fun e =>
    decide (e.1 = Sink.hand slot) && decide ((c.hand slot).ready ≤ e.2) && c.tooLate (c.hand slot) (e.2 + 160)

/-- HAND_FOLD (R359). -/

def Core.handFold (c : Core) (q : CmdSrc) (a : Args) : Core × Option Reply :=
  c.withHand q (a.w 0) fun slot =>
    let h := c.hand slot
    match h.st with
    | .open => (c.endHand slot .folded (ok []), some (ok []))
    | .pending =>
      match h.sys with
      | some x =>
        if x.decided.isNone ∧ c.time.dtime < x.deadline then
          (c.setHand slot { h with sys := some { x with votes := (c.dev, false, 0) :: x.votes.filter fun v => v.1 ≠ c.dev } }, some (ok []))
        else (c, some ⟨stHandClosed, []⟩)
      | none =>
        let closed := match h.instant with
          | some t => c.tooLate h t
          | none => c.edgeComing slot
        if closed then (c, some ⟨stHandClosed, []⟩) else (c.endHand slot .folded (ok []), some (ok []))
    | _ => (c, some ⟨stHandClosed, []⟩)

/-- Operations on hands are serialised: a fold waits until the commit it names has been staged (R343). -/
def Core.staging (c : Core) (id : Word) : Bool :=
  match c.findHand id with
  | some slot => (c.hand slot).submit.isSome
  | none => false

def execHandFold (q : CmdSrc) (s : State) : Out :=
  match s.core.cmdsOf q with
  | [] => .next s
  | x :: _ =>
    if s.core.staging (pword x.own 0) then .next s
    else command q { opc := 0x0204, who := .supervisorsSprigs, minLen := 4 } (coreBody fun c a => c.handFold q a) s

/-- The settings and images in which the prior generation differs (R362, R370). -/
def Core.recallEntries (c : Core) : List HandEntry :=
  ((((c.cfg ++ c.store.prior).map Prod.fst).dedup.filter fun k => cfgGet c.cfg k ≠ cfgGet c.store.prior k).map fun k =>
    ⟨c.dev, k, cfgGet c.store.prior k, c.store.commits⟩)
def Core.recallImages (c : Core) : List HandImage :=
  (c.store.priorImages.filter fun e => decide (Tbl.get c.store.images e.1 [] ≠ e.2)).map fun e =>
    ⟨c.handleOf (queueAt (BitVec.ofNat 11 e.1) 0), Config.recallDrainq, e.2⟩

def Core.handRecall (c : Core) (q : CmdSrc) : Core × Option Reply :=
  if !c.store.hasPrior then (c, some ⟨stNoPrior, []⟩)
  else match c.openHand (c.ownerOf q) none c.recallEntries c.recallImages with
    | none => (c, some ⟨0x0401, []⟩)
    | some (k, c) => (c, some (ok [(c.hand k).id k]))

def execHandRecall (q : CmdSrc) (s : State) : Out :=
  command q { opc := 0x0205, who := .supervisors } (coreBody fun c _ => c.handRecall q) s

/-- HAND_STATUS. The spec gives the states no codes. -/
def Core.handStatus (c : Core) (q : CmdSrc) (a : Args) : Core × Option Reply :=
  c.withHand q (a.w 0) fun slot =>
    let h := c.hand slot
    let t : DWord := match h.instant with
      | some t => if h.st = .draining ∨ h.st = .pending then c.commitInstant h t else t
      | none => never
    (c, some (ok [Config.handStateCode h.st.num, h.status.setWidth 32, h.detail, h.gen, t.setWidth 32, (t >>> 32).setWidth 32]))

def execHandStatus (q : CmdSrc) (s : State) : Out :=
  command q { opc := 0x0206, who := .supervisorsSprigs, minLen := 4 } (coreBody fun c a => c.handStatus q a) s

/-! ### Loads (R368 to R370) -/

def Core.handLoad (c : Core) (q : CmdSrc) (a : Args) : Core × Option Reply :=
  c.withHand q (a.w 0) fun slot =>
    let h := c.hand slot
    let gs := c.targets (a.w 1)
    if h.st ≠ .open then (c, some ⟨stHandClosed, []⟩)
    else if !handleValid (a.w 1) ∨ 0xFF < (a.w 2).toNat ∨ gs = [] then (c, some ⟨stBadParam, []⟩)
    else if gs.any isSteward then (c, some ⟨stDenied, []⟩)
    else match imageRefusal c gs a.inb with
      | some r => (c, some r)
      | none =>
        (c.setHand slot { h with
          loads := (h.loads.filter fun x => decide (x.target ≠ a.w 1)) ++ [⟨a.w 1, (a.w 2).setWidth 8, a.inb⟩] }, some (ok []))

def execHandLoad (q : CmdSrc) (s : State) : Out :=
  command q { opc := 0x0207, who := .supervisors, minLen := 12, needs := true } (coreBody fun c a => c.handLoad q a) s

/-- HAND_DRAIN_START: at S dispatch through the target posies is held (R368 step 1). -/
def execHandDrainStart (slot : BitVec 4) (s : State) : Out :=
  onCore (fun c =>
    let h := c.hand slot
    match h.st, h.instant with
    | .pending, some t =>
      if h.loads ≠ [] ∧ h.submit.isNone ∧ h.decidedYes ∧ t ≤ c.time.dtime then
        let before := c.heldImports
        let c := c.holdPosies (c.targetPosies h) true
        let notices := c.heldImports.filter fun n => !before.contains n
        let c := c.sendHolds notices false
        c.setHand slot { h with st := .draining, awaiting := notices, halted := [], loaded := false, commitAt := c.commitInstant h t }
      else c
    | _, _ => c) s

/-- Whether every queue that DRAINQ names at a target is empty. -/
def Core.queuesEmpty (c : Core) (h : Hand) (g : SprigId) : Bool :=
  (h.loads.filter fun x => (c.targets x.target).contains g).all fun x =>
    (List.range 8).all fun q => !x.drainq.getLsbD q || decide ((c.queue (queueAt g (BitVec.ofNat 3 q))).count = 0)

/-- HAND_TARGET_HALT (R368 step 2). -/
def execHandTargetHalt (slot : BitVec 4) (g : SprigId) (s : State) : Out :=
  onCore (fun c =>
    let h := c.hand slot
    if h.st = .draining ∧ !h.loaded ∧ (c.handTargets h).contains g ∧ !h.halted.contains g ∧ h.awaiting = []
        ∧ (c.sprig g).state = .wait ∧ c.queuesEmpty h g then
      (c.haltSprig g).setHand slot { h with halted := h.halted ++ [g] }
    else c) s

/-- HAND_LOAD_TARGETS (R368 step 3). -/
def execHandLoadTargets (slot : BitVec 4) (s : State) : Out :=
  onCore (fun c =>
    let h := c.hand slot
    let gs := c.handTargets h
    if h.st = .draining ∧ !h.loaded ∧ gs.all h.halted.contains then
      let c := gs.foldl (fun c g => c.resetSprigNow g) c
      let l := c.ownEntries h
      let cfg := c.cfg
      let c := h.loads.foldl (fun c x => (c.targets x.target).foldl (fun c g => (c.loadImage g x.image).measureImage x.image) c) { c with cfg := layEntries cfg l }
      { c with cfg := cfg }.setHand slot { h with loaded := true }
    else c) s

/-- DRAIN_TIMEOUT: a target is not halted by S + DRAINWIN (R368). -/
def execDrainTimeout (slot : BitVec 4) (s : State) : Out :=
  onCore (fun c =>
    let h := c.hand slot
    match h.instant, (c.handTargets h).find? fun g => !h.halted.contains g with
    | some t, some g =>
      if h.st = .draining ∧ !h.loaded ∧ t + us h.drainwin ≤ c.time.dtime then
        let c := h.halted.foldl (fun c g => c.resumeSprig g) c
        (c.releasePosies h).endHand slot .failed ⟨stAbandoned, [0x80, g.setWidth 32]⟩
      else c
    | _, _ => c) s

/-! ### Generations -/

/-- GENERATION_MIRROR (R361). -/
def execGenerationMirror (s : State) : Out :=
  onCore (fun c =>
    if c.store.mirrored then c
    else { c with store := { c.store with mirrored := true, flashGen := c.store.gen, flash := c.cfg, flashImages := c.store.images } }) s

/-- The value that an accepted hand stages for a setting of this device. -/
def Core.stagedValue (c : Core) (id : Nat) : Option Word :=
  (c.acceptedHands.flatMap fun k => c.ownEntries (c.hand k)).findSome? fun e => if e.id = id then some e.val else none

def settingReply (c : Core) (id : Nat) : Reply :=
  if (ownedSetting id 0).isNone ∨ id / 0x10000 = 0x20FF then badParam 0x70 (num id)
  else
    let v := c.stagedValue id
    ok [c.setting id, if c.store.hasPrior then cfgGet c.store.prior id else 0, v.getD 0,
      (if c.store.hasPrior then 1#32 else 0) ||| (if v.isSome then 2#32 else 0)]

def execSettingRead (q : CmdSrc) (s : State) : Out :=
  command q { opc := 0x0208, who := .supervisorsSprigs, minLen := 4 } (readBody fun s a => settingReply s.core (a.w 0).toNat) s

/-! ### System hands (R364 to R367) -/

/-- A vote leaves for the coordinator. -/
def Core.sendVote (c : Core) (p : Prepare) (yes : Bool) (detail : Word) (report : HandReport := {}) : Core :=
  c.launch (devicePlace c.dev) (.vote p.coordinator p.hand yes detail report)

/-- SYSTEM_PREPARE: the participant stages the hand and votes (R365, R449). Its copy of the hand has the function 0 as owner. -/
def Core.prepare (c : Core) (p : Prepare) : Core :=
  if p.coordinator = c.dev then c
  else if c.time.qual ≠ qualFine then c.sendVote p false notFine
  else if p.deadline < c.time.dtime then c.sendVote p false 0
  else
    let entries := p.entries.flatMap fun e => (spreadId e.1.toNat).map fun id => ⟨c.dev, id, e.2, c.store.commits⟩
    let x : SysHand := { mask := p.mask, coordinator := p.coordinator, hand := p.hand, deadline := p.deadline }
    match c.openHand (.func 0) (some x) entries [] with
    | none => c.sendVote p false 0
    | some (k, c') =>
      match c'.handFault k with
      | some r => c.sendVote p false (r.word 1)
      | none =>
        let h := c'.hand k
        let l := c'.ownEntries h
        let c' := (pageBunches l).foldl (fun c b => c.stagePage (layEntries c.cfg l) b) c'
        (c'.setHand k { h with st := .pending, instant := some p.instant, sys := some { x with votedYes := true } }).sendVote p true 0
          (c'.under (layEntries c'.futureCfg l)).report

def execSystemPrepare (p : Prepare) (s : State) : Out := onCore (fun c => c.prepare p) s

/-- The decision leaves for every other participant, with what all of them have reported. -/
def Core.sendDecision (c : Core) (x : SysHand) (commit : Bool) : Core :=
  (c.others x).foldl (fun c d => c.launch (devicePlace c.dev) (.decision d x.hand commit x.report)) c

/-- The posies that a reported posy names. -/
def reportNext (r : HandReport) (w : Word) : List Word :=
  (((r.posies.find? fun e => decide (e.1 = w)).map Prod.snd).getD []).filter handlePosy

/-- The posies within n steps of some posies, on every device that reports. -/
def reportReach (r : HandReport) : Nat → List Word → List Word
  | 0, l => l
  | n + 1, l => reportReach r n ((l ++ l.flatMap (reportNext r)).dedup)

/-- The graph of the posies of every participant has a cycle, or a posy of a participant without members (R33). -/
def graphFault (r : HandReport) (mask : BitVec 512) : Option Reply :=
  match r.posies.find? fun e => (reportReach r r.posies.length (reportNext r e.1)).contains e.1 with
  | some e => some (conflict 0x10 ((handlePosyIdx e.1).setWidth 32))
  | none =>
    match (r.posies.filterMap fun e => if e.2 = [] then some e.1 else none) ++ (r.posies.flatMap fun e => reportNext r e.1).filter fun w =>
        mask.getLsbD (handleDev w).toNat && !r.posies.any fun e => decide (e.1 = w) with
    | w :: _ => some (conflict 0x11 ((handlePosyIdx w).setWidth 32))
    | [] => none

/-- Why a system hand folds at its deadline, if it does: a NO, which is the coordinator's own vote while its staging is not complete, else a
missing vote (R365), else a fault of the posies of all participants together, when the hand changes a descriptor (R33). -/
def Core.voteFault (c : Core) (h : Hand) (x : SysHand) : Option Reply :=
  match x.votes.find? fun v => !v.2.1 with
  | some (d, _, w) => some ⟨stConflict, [0x75, d.setWidth 32, w]⟩
  | none =>
    if !x.votes.any fun v => v.1 = c.dev then some ⟨stConflict, [0x75, c.dev.setWidth 32, 0]⟩
    else match (c.dev :: c.others x).find? fun d => !x.votes.any fun v => v.1 = d with
    | some d => some ⟨stPeerLost, [0x76, d.setWidth 32]⟩
    | none => if h.entries.any fun e => isPosyId e.id then graphFault x.report x.mask else none

/-- SYSTEM_VOTE_DEADLINE: at D the coordinator decides. -/
def execSystemVoteDeadline (slot : BitVec 4) (s : State) : Out :=
  onCore (fun c =>
    let h := c.hand slot
    match h.st, h.sys with
    | .pending, some x =>
      if x.coordinator = c.dev ∧ x.decided.isNone ∧ x.deadline ≤ c.time.dtime then
        match c.voteFault h x with
        | some r =>
          let t : DWord := h.instant.getD never
          let c' := ((c.sendDecision x false).setHand slot { h with sys := some { x with decided := some false } }).endHand slot .folded r
          (match h.submit with
          | some q => c'.answerCommit q ⟨stPending, [0, t.setWidth 32, (t >>> 32).setWidth 32]⟩
          | none => c')
        | none => (c.sendDecision x true).setHand slot { h with sys := some { x with decided := some true } }
      else c
    | _, _ => c) s

/-- A participant learns COMMIT or FOLD. -/
def Core.takeDecision (c : Core) (slot : BitVec 4) (commit : Bool) (report : HandReport) : Core :=
  let h := c.hand slot
  match h.st, h.sys with
  | .pending, some x =>
    if x.coordinator = c.dev ∨ x.decided.isSome then c
    else if commit then c.setHand slot { h with sys := some { x with decided := some true, report := report } }
    else c.endHand slot .folded (ok [])
  | _, _ => c

/-- SYSTEM_DECISION. -/
def execSystemDecision (slot : BitVec 4) (commit : Bool) (report : HandReport) (s : State) : Out :=
  onCore (fun c => c.takeDecision slot commit report) s

/-- ISOLATED_COMMIT (R366): a participant that voted YES and knows no decision commits at T; its entry goes to the coordinator. -/
def execIsolatedCommit (slot : BitVec 4) (s : State) : Out :=
  onCore (fun c =>
    let h := c.hand slot
    match h.st, h.sys, h.instant with
    | .pending, some x, some t =>
      if x.coordinator ≠ c.dev ∧ x.votedYes ∧ x.decided.isNone ∧ t ≤ c.time.dtime then
        let c := { c with store := { c.store with isolated := true } }.commitHand slot t
        (c.log { cls := 1, source := 0x0F, code := 0x0013, unit := h.id slot, detail := c.dev.setWidth 16, addr := 0 }).launch
          (devicePlace c.dev) (.isolated x.coordinator x.hand)
      else c
    | _, _, _ => c) s

end Sys2Proof.Machine
end

