-- ==== Sys2Proof/Machine/SecFam.lean ====
section
/-!
DEFINITION. Sys2Proof/Machine/SecFam.lean: OTP, rollback counters, measurements, attestation, firmware update and identity
(spec/18_boot_and_security.md, R462 to R470; spec/13_commands_and_hands.md, R349, R499).
-/
namespace Sys2Proof.Machine

/-! ### SEC registers (R463, R470) -/

/-- A write that only Steward sprigs make, on a machine whose fuses it may change. -/
def State.stewardWrite (s : State) (m : Master) (k : State → State) : State :=
  let ok := match m with | .sprig g => isSteward g | _ => false
  if ok && !s.core.frozenMaster m then k s else { s with core := s.core.writeBy m ok id }

/-- SEC_EXTBUF as a digest: word 0 holds its low bytes. -/
def Core.extDigest (c : Core) : BitVec 256 :=
  (List.range 8).foldl (fun (d : BitVec 256) k => d ||| ((Tbl.get c.boot.ext k 0).setWidth 256 <<< (32 * k))) 0

/-- Counters only rise, to at most 64. -/
def raiseTo (x : BitVec 7) (target : Nat) : BitVec 7 := BitVec.ofNat 7 (max x.toNat (min target 64))

/-- The rollback counters take targets; a rise leaves an RB_ADVANCE entry (R470, R476). -/
def State.raiseRb (s : State) (vendor owner : Nat) : State :=
  let x := s.sec
  let y := { x with vendorRb := raiseTo x.vendorRb vendor, ownerRb := raiseTo x.ownerRb owner }
  if y = x then s
  else { s with sec := y, core := s.core.logSec 0 0x0112 ((y.vendorRb.setWidth 16 <<< 8) ||| y.ownerRb.setWidth 16) }

def State.advanceRb (s : State) (m : Master) (v : Word) : State :=
  s.stewardWrite m fun s => if v.getLsbD 31 then s.raiseRb (field v 8 7) (field v 0 7) else s

def execSecRbAdv (m : Master) (v : Word) (s : State) : Out := .next (s.advanceRb m v)

/-- SEC_MEAS_EXT: MEAS0 to MEAS4 are locked after hand-over (R464). -/
def Core.measExt (c : Core) (m : Master) (v : Word) : Core :=
  c.writeBy m (match m with | .sprig g => isSteward g | _ => false) fun c =>
    let i := field v 0 4
    if !v.getLsbD 31 then c
    else if i ≤ 4 ∧ c.boot.phase = .handedOver then c.ignoredReg m 464 0x11 0x420
    else c.measure i c.extDigest

def execSecMeasExt (m : Master) (v : Word) (s : State) : Out := onCore (fun c => c.measExt m v) s

/-- A program of OTP: refused, or the fuses after it. -/
def Sec.program (x : Sec) (fld idx : Nat) (d : BitVec 256) : Option Sec :=
  match fld with
  | 0 =>
    if 3 < idx ∨ x.ownSet.getLsbD idx ∨ x.life = .retired then none
    else some { x with
      ownHash := x.ownHash.set! idx d, ownSet := putBit x.ownSet idx true, life := if x.life = .blank then .owned else x.life }
  | 1 =>
    let live := x.ownSet &&& ~~~x.ownRev
    if 3 < idx ∨ (live.getLsbD idx ∧ live = putBit 0 idx true) then none else some { x with ownRev := putBit x.ownRev idx true }
  | 2 =>
    let r := putBit x.vendRev idx true
    if 3 < idx ∨ r = 0xF#4 then none else some { x with vendRev := r }
  | 3 => if x.dbgSet then none else some { x with dbgHash := d, dbgSet := true }
  | 4 => some { x with bootDis := x.bootDis ||| BitVec.ofNat 3 idx }
  | 5 => some { x with recovDis := true }
  | 6 => if x.life = .blank then none else some { x with life := .retired }
  | _ => none

/-- SEC_OTP_PROG with GO set. -/
def State.otp (s : State) (m : Master) (v : Word) : State :=
  s.stewardWrite m fun s =>
    if !v.getLsbD 31 then s
    else match s.sec.program (field v 24 4) (field v 0 4) s.core.extDigest with
      | none => { s with core := { s.core with boot := { s.core.boot with otpDone := true, otpRefused := true } } }
      | some x => { s with sec := x, core := { s.core with boot := { s.core.boot with otpDone := true, otpRefused := false } } }

/-- A row of the table: the write whose FIELD it names. -/
def otpRow (fld : Nat) (m : Master) (v : Word) (s : State) : Out := .next (if field v 24 4 = fld then s.otp m v else s)

def execOtpOwnerHash (m : Master) (v : Word) (s : State) : Out := otpRow 0 m v s
def execOtpRevokeOwner (m : Master) (v : Word) (s : State) : Out := otpRow 1 m v s
def execOtpRevokeVendor (m : Master) (v : Word) (s : State) : Out := otpRow 2 m v s
def execOtpDebugHash (m : Master) (v : Word) (s : State) : Out := otpRow 3 m v s
def execOtpBootDis (m : Master) (v : Word) (s : State) : Out := otpRow 4 m v s
def execOtpRecovDis (m : Master) (v : Word) (s : State) : Out := otpRow 5 m v s
def execRetire (m : Master) (v : Word) (s : State) : Out := otpRow 6 m v s

/-! ### Attestation (R466, R467) -/

/-- MEAS0 to MEAS15, 512 bytes. -/
def Core.measBytes (c : Core) : List Byte := (List.range 16).flatMap fun i => bytesOf (Tbl.get c.boot.meas i 0) 32

/-- Bytes 0 to 575 of a quote. -/
def State.quote (s : State) (nonce : List Byte) : List Byte :=
  let c := s.core
  let b := c.boot
  let flags : Byte := b.slot.setWidth 8 ||| (if b.resumed then 4 else 0) ||| (if b.trial then 8 else 0) ||| (if b.patched then 16 else 0)
  [0x4D, 0x51, 0x41, 0x51, 1, s.sec.life.code.setWidth 8, c.time.qual.setWidth 8, flags]
    ++ bytesOf s.sec.serial 8 ++ bytesOf (c.dev.setWidth 16) 2 ++ bytesOf c.aon.inc 2 ++ bytesOf c.store.gen 4 ++ bytesOf c.time.dtime 8
    ++ nonce ++ c.measBytes

/-- ATTEST_QUOTE. A device being retired signs nothing (R463). -/
def execAttestQuote (q : CmdSrc) (s : State) : Out :=
  command q { opc := 0x0A00, who := .functions, needs := true, inLen := some 32 }
    (fun s a =>
      if s.sec.life = .retired then (s, some ⟨stDenied, []⟩)
      else
        let bs := s.quote a.inb
        coreBody (fun c a => c.bulkReply q a.x [] (bs ++ padTo 2420 (Config.mldsaSign 0 (digestBytes (Config.sha3 bs))))) s a) s

/-- MEAS_READ. -/
def execMeasRead (q : CmdSrc) (s : State) : Out :=
  command q { opc := 0x0A01, who := .functions, needs := true } (coreBody fun c a => c.bulkReply q a.x [] c.measBytes) s

/-- CERT_READ: 0 the device certificate, 1 the intermediate. -/
def execCertRead (q : CmdSrc) (s : State) : Out :=
  command q { opc := 0x0A02, who := .functions, minLen := 4, needs := true }
    (fun s a =>
      if 1 < (a.w 0).toNat then (s, some ⟨stBadParam, []⟩)
      else match (s.sec.certs[(a.w 0).toNat]?).join with
        | none => (s, some (conflict 0xB3 (a.w 0)))
        | some bs => coreBody (fun c a => c.bulkReply q a.x [] bs) s a) s

/-! ### Firmware update (R468, R469) -/

/-- The slot that is not ACTIVE. -/
def Sec.idle (x : Sec) : Bool := decide (x.slotA.st = .active)
def Sec.idleSlot (x : Sec) : Slot := x.slot x.idle
def State.setIdle (s : State) (y : Slot) : State := { s with sec := s.sec.setSlot s.sec.idle y }
def State.setUpd (s : State) (u : Option Nat) : State := { s with core := { s.core with boot := { s.core.boot with upd := u } } }

/-- FW_STATE names the state of the slot. -/
def State.fwState (s : State) : Reply := conflict 0xB0 (s.sec.idleSlot.st.code.setWidth 32)

/-- Whether the running bundle is on trial in the slot. -/
def State.onTrial (s : State) : Bool := s.core.boot.trial && decide (s.sec.idleSlot.st = .tried)

def fwBegin (s : State) (a : Args) : State × Option Reply :=
  if s.core.boot.upd.isSome ∨ s.onTrial then (s, some s.fwState)
  else if !between 1 (a.w 0).toNat bundleMax then (s, some ⟨stBadParam, []⟩)
  else ((s.setIdle {}).setUpd (some (a.w 0).toNat), some (ok [num (if s.sec.idle then 1 else 0)]))

def execFwBegin (q : CmdSrc) (s : State) : Out := command q { opc := 0x0B00, who := .pf, minLen := 4 } fwBegin s

/-- Bytes laid over others at an offset; what was never written in flash reads 0xFF. -/
def layBytes (old : List Byte) (off : Nat) (bs : List Byte) : List Byte :=
  (old ++ List.replicate (off - old.length) 0xFF).take off ++ bs ++ old.drop (off + bs.length)

def chunkUnit : Nat := 65536

def fwChunk (s : State) (a : Args) : State × Option Reply :=
  let off := (a.w 0).toNat
  let n := a.inb.length
  match s.core.boot.upd with
  | none => (s, some s.fwState)
  | some len =>
    if len < off + n then (s, some (badParam 0xB2 (a.w 0)))
    else if off % chunkUnit ≠ 0 ∨ (n % chunkUnit ≠ 0 ∧ off + n ≠ len) then (s, some ⟨stBadParam, []⟩)
    else
      let y := s.sec.idleSlot
      (s.setIdle { y with bytes := layBytes y.bytes off a.inb }, some (ok []))

def execFwChunk (q : CmdSrc) (s : State) : Out := command q { opc := 0x0B01, who := .pf, minLen := 4, needs := true } fwChunk s

/-- STAGE: the whole slot passes the checks of the boot ROM, a patch among them. -/
def fwStage (s : State) (a : Args) : State × Option Reply :=
  if a.w 0 ≠ 0 ∨ a.w 1 &&& ~~~1#32 ≠ 0 then (s, some ⟨stBadParam, []⟩)
  else match s.core.boot.upd with
    | none => (s, some s.fwState)
    | some len =>
      let y := s.sec.idleSlot
      let bs := y.bytes.take len
      let bad (e : Nat × Nat) : State × Option Reply := (s, some (badParam 0xB1 (num (256 * e.1 + e.2))))
      match s.sec.checkBundle bs with
      | .error e => bad e
      | .ok (_, some e) => bad e
      | .ok (_, none) =>
        ((s.setIdle { y with st := .staged, length := len, digest := Config.sha3 bs }).setUpd none, some (ok []))

/-- Which FW_FINISH a command is, by its ACTION. -/
def isConfirm (x : Cmd) : Bool := decide (pword x.own 0 = 1)

def execFwFinishStage (q : CmdSrc) (s : State) : Out :=
  commandWhen (fun _ x => !isConfirm x) q { opc := 0x0B02, who := .pf, minLen := 8 } fwStage s

/-- The lowest RBI of the running components of the owner's class, or the vendor's. -/
def lowestRbi (l : List Comp) (owner : Bool) : Nat :=
  ((l.filter fun x => decide (x.kind = kindSteward ∨ x.kind = kindOwner) == owner).map Comp.rbi).foldl min 64

/-- CONFIRM: the TRIED slot becomes ACTIVE and the other PREVIOUS; ADVANCE raises the counters. -/
def fwConfirm (s : State) (a : Args) : State × Option Reply :=
  if a.w 1 &&& ~~~1#32 ≠ 0 then (s, some ⟨stBadParam, []⟩)
  else if !s.onTrial then (s, some s.fwState)
  else
    let b := s.sec.idle
    let s := (s.mark (!b) .previous).mark b .active
    let s := { s with core := { s.core with boot := { s.core.boot with trial := false } } }
    let l := s.core.boot.comps
    (if (a.w 1).getLsbD 0 then s.raiseRb (lowestRbi l false) (lowestRbi l true) else s, some (ok []))

def execFwFinishConfirm (q : CmdSrc) (s : State) : Out :=
  commandWhen (fun _ x => isConfirm x) q { opc := 0x0B02, who := .pf, minLen := 8 } fwConfirm s

/-- FW_ABORT: closes an update, un-stages a slot, or gives up a trial. -/
def fwAbort (s : State) (_a : Args) : State × Option Reply :=
  if s.core.boot.upd.isSome ∨ s.sec.idleSlot.st = .staged ∨ s.onTrial then
    let s := (s.setIdle {}).setUpd none
    ({ s with core := { s.core with boot := { s.core.boot with trial := false } } }, some (ok []))
  else (s, some s.fwState)

def execFwAbort (q : CmdSrc) (s : State) : Out := command q { opc := 0x0B03, who := .pf } fwAbort s

/-! ### Identity (R1, R6, R349, R499) -/

/-- SYS_VARIANT. -/
def State.variant (s : State) : Word :=
  0x00800000#32 ||| (Config.stepping.setWidth 32 <<< 8) ||| (if Config.gradeE then 2 else 0) ||| (if s.isl.enabled then 1 else 0)

/-- The ordering code. -/
def State.orderingCode (s : State) : List Byte :=
  ascii ['M', 'Q', 'M', '-', '2', '0', '4', '8', '-', '1', '2', '8', '-'] ++ ascii [if s.isl.enabled then 'M' else 'S', '-']
    ++ ascii [if Config.gradeE then 'E' else 'C']

/-- A number below 100,000 in decimal. -/
def decimal (n : Nat) : List Byte :=
  let ds := [n / 10000, n / 1000 % 10, n / 100 % 10, n / 10 % 10, n % 10]
  (ds.dropWhile fun d => decide (d = 0)) |> fun l => (if l.isEmpty then [0] else l).map fun d => BitVec.ofNat 8 (48 + d)

def newline : List Byte := [0x0A]

/-- A version as major.minor.build. -/
def versionText (v : Word) : List Byte := decimal (field v 24 8) ++ ascii ['.'] ++ decimal (field v 16 8) ++ ascii ['.'] ++ decimal (field v 0 16)

/-- The text of IDENTIFY: the ordering code, and on -M variants the island firmware's name, version and digest, each on a line. -/
def State.identityText (s : State) : List Byte :=
  let x := s.isl
  s.orderingCode ++ newline
    ++ (if x.enabled then
      x.name ++ newline ++ versionText x.version ++ newline ++ hexBytes (digestBytes x.digest) ++ newline
    else [])

/-- The version of a component of the running bundle, or 0. -/
def Core.versionOf (c : Core) (kind : Nat) : Word :=
  match c.boot.comps.find? fun x => decide (x.kind = kind) with
  | some x => x.version
  | none => 0

/-- IDENTIFY. -/
def execIdentify (q : CmdSrc) (s : State) : Out :=
  command q { opc := 0x0100, who := .functionsSprigs }
    (fun s a =>
      let d : List Word := [s.variant, s.core.dev.setWidth 32, s.core.versionOf kindBase, s.core.versionOf kindPatch,
        if s.core.boot.patched then 1 else 0]
      let bs := if a.x.indirect then s.identityText else []
      coreBody (fun c a => c.bulkReply q a.x d bs) s a) s

end Sys2Proof.Machine
end

