-- ==== Sys2Proof/Machine/SlackFam.lean ====
section
/-!
DEFINITION. Sys2Proof/Machine/SlackFam.lean: the slack and voltage controller (spec/07_time_and_deals.md, R247 to R250;
spec/19_module_hardware.md, R498).
-/
namespace Sys2Proof.Machine

def Core.slackTarget (c : Core) : Word := c.timeReg 0x100 0x01F403E8#32
def Core.slackMask (c : Core) : DWord := c.timeReg 0x11C 0xFFFFFFFF#32 ++ c.timeReg 0x118 0xFFFFFFFF#32
/-- PWR_CAP. -/
def Core.powerCap (c : Core) : Word := Tbl.get c.cfg (sid 0x01 0x100) 0x800A0190#32
def capWatts (w : Word) : Nat := (w.setWidth 9 : BitVec 9).toNat
def vcMin (w : Word) : Nat := (w.setWidth 8 : Byte).toNat
def vcMax (w : Word) : Nat := ((w >>> 8).setWidth 8 : Byte).toNat
def stepUpOf (w : Word) : Nat := ((w >>> 8).setWidth 8 : Byte).toNat
def stepDownOf (w : Word) : Nat := (w.setWidth 8 : Byte).toNat

/-- CAPPED is set, which raises source 0x3403 at its entry. -/
def Core.cap0 (c : Core) : Core :=
  if c.slack.capped then c
  else ({ c with slack := { c.slack with capped := true } }).source 0x3403 true true c.time.dtime

def Core.uncap (c : Core) : Core :=
  ({ c with slack := { c.slack with capped := false } }).source 0x3403 false false c.time.dtime

/-- The measured code follows VT by at most 10 codes in 10 µs (R249; log entry 17). -/
def slew (meas vt : Byte) : Byte :=
  if meas.toNat < vt.toNat then BitVec.ofNat 8 (min vt.toNat (meas.toNat + 10)) else BitVec.ofNat 8 (max vt.toNat (meas.toNat - 10))

/-- PWR_CAP.WIN: the periods of 10 µs that the input power is averaged over (R250). -/
def capWin (w : Word) : Nat := max 1 ((w >>> 16).setWidth 9 : BitVec 9).toNat

/-- The power cap's rules for one 10 µs, in which the input power was `power` tenths of a watt; PWR_PIN is its average over the window, rounded
down (R249, R250, R498). -/
def Core.capTick (c : Core) (power : BitVec 16) : Core :=
  let cap := c.powerCap
  let l := (power :: c.slack.powers).take (capWin cap)
  let sum := l.foldl (fun n (x : BitVec 16) => n + x.toNat) 0
  let c := { c with slack := { c.slack with powers := l, pin := BitVec.ofNat 16 (sum / l.length) } }
  let c :=
    if c.slack.thermal || (cap.getLsbD 31 && decide (10 * capWatts cap * l.length < sum)) then
      let c := c.cap0
      { c with slack := { c.slack with vt := BitVec.ofNat 8 (max (c.slack.vt.toNat - 1) 20) } }
    else if c.slack.capped && decide (10 * sum < 97 * capWatts cap * l.length) then c.uncap
    else c
  { c with slack := { c.slack with
      vmeas := slew c.slack.vmeas c.slack.vt
      floorSent := c.slack.floorSent && c.slack.capped && decide (c.slack.vt = 20) } }

/-- VC_CAP_TICK. -/
def execVcCapTick (power : BitVec 16) (s : State) : Out := onCore (fun c => c.capTick power) s

/-- The smallest TIME_BSLACK over the bunches of the mask (R248). -/
def slackMinOf (t : Tbl Word) (mask : DWord) : Word :=
  (List.range 64).foldl (fun (m : Word) b =>
    let v := Tbl.get t b maxI
    if mask.getLsbD b && v.slt m then v else m) maxI

/-- VT after a period with slack s (R249). -/
def Core.periodVt (c : Core) (s : Word) : Byte :=
  let t : Int := ((c.slackTarget.setWidth 16 : BitVec 16).toNat : Int)
  let band : Int := (((c.slackTarget >>> 16).setWidth 16 : BitVec 16).toNat : Int)
  let vt := c.slack.vt.toNat
  if s ≠ maxI ∧ s.toInt < t then BitVec.ofNat 8 (min (vt + stepUpOf c.slackCtl) (vcMax c.vcLim))
  else if s = maxI ∨ t + band < s.toInt then BitVec.ofNat 8 (max (vt - stepDownOf c.slackCtl) (vcMin c.vcLim))
  else c.slack.vt

/-- VC_PERIOD_END: the period's samples become TIME_BSLACK and TIME_SLACK_MIN, and the slack rules act. -/
def execVcPeriodEnd (s : State) : Out :=
  onCore (fun c =>
    let m := slackMinOf c.slack.cur c.slackMask
    let c := { c with slack := { c.slack with bslack := c.slack.cur, cur := [], slackMin := m } }
    if c.slackCtl.getLsbD 31 && !c.slack.capped then { c with slack := { c.slack with vt := c.periodVt m } } else c) s

/-- VC_FLOOR: CAPPED has held at code 20 for 1 ms; one error card of class CONTAINED. -/
def execVcFloor (s : State) : Out :=
  onCore (fun c =>
    if c.slack.capped && decide (c.slack.vt = 20) && !c.slack.floorSent then
      { c with slack := { c.slack with floorSent := true } }.log
        { cls := 1, source := 0x04, code := 0x0012, unit := 0, detail := 0, addr := 0 }
    else c) s

/-- THERMAL_CAP: a code of MON_ADC3, n / 16 − 64 °C (R420, R498): at 103 °C the controller is held as by the power cap; at 100 °C it is
let go, and CAPPED ends when the power rule permits. -/
def execThermalCap (code : BitVec 12) (s : State) : Out :=
  onCore (fun c =>
    if 16 * (103 + 64) ≤ code.toNat then ({ c with slack := { c.slack with thermal := true } }).cap0
    else if code.toNat ≤ 16 * (100 + 64) then { c with slack := { c.slack with thermal := false } }
    else c) s

/-- TIME_VC_STAT. -/
def Core.vcStat (c : Core) : Word :=
  let x := c.slack
  let t : Int := ((c.slackTarget.setWidth 16 : BitVec 16).toNat : Int)
  let band : Int := (((c.slackTarget >>> 16).setWidth 16 : BitVec 16).toNat : Int)
  let atMin := decide (x.vt.toNat = vcMin c.vcLim) && decide (x.slackMin = maxI ∨ t + band < x.slackMin.toInt)
  let atMax := decide (x.vt.toNat = vcMax c.vcLim) && decide (x.slackMin ≠ maxI ∧ x.slackMin.toInt < t)
  putBit (putBit (putBit ((x.vt.setWidth 32 <<< 16) ||| x.vmeas.setWidth 32) 31 x.capped) 30 atMin) 29 atMax

end Sys2Proof.Machine
end

