-- ==== Sys2Proof/Machine/TlFam.lean ====
section
/-!
DEFINITION. Sys2Proof/Machine/TlFam.lean: Teinglink: links, pair messages, peer loss, system time, remote DMA and the Teinglink commands
(spec/17_teinglink.md).
-/
namespace Sys2Proof.Machine

/-! ### Links (R430, R431) -/

/-- Whether a cumulative acknowledgement covers a sequence number. -/
def covers (lack lseq : BitVec 12) : Bool := decide ((lack - lseq).toNat < 2048)

/-- LACK removes what it covers; an acknowledgement of the pair sequence that it covers has reached its hop (R430, R443). -/
def Core.takeLack (c : Core) (t : BitVec 2) (lack : BitVec 12) : Core :=
  let p := c.tlPort t
  let gone := p.buf.filter fun e => covers lack e.1
  let c := c.setTlPort t { p with buf := p.buf.filter fun e => !covers lack e.1, stuck := if gone.isEmpty then p.stuck else 0 }
  gone.foldl (fun c e =>
    match e.2 with
    | .ack d q => c.setPeer d { c.peer d with fresh := (c.peer d).fresh.filter fun x => decide (0x8000 ≤ (q - x.1).toNat) }
    | _ => c) c

/-- A port that is UP goes down with an entry; one on its way up, or REFUSED by a neighbour that has reset, trains again (R431, R446). -/
def Core.linkDown (c : Core) (t : BitVec 2) : Core :=
  let old := c
  let c := if (c.tlPort t).st = .down then c else c.portDown t
  if !old.portUp t then c
  else (c.log { cls := 0, source := 0x10, code := 0x0100, unit := t.setWidth 32, detail := t.setWidth 16, addr := 0 }).holdParent old

/-- TL_LINK_DOWN. -/
def execTlLinkDown (t : BitVec 2) (s : State) : Out := onCore (fun c => c.linkDown t) s

/-- A NAK: every flit from `lseq` on is sent again; the sixteenth replay without progress takes the port down (R430, R431). -/
def Core.replay (c : Core) (t : BitVec 2) : Core :=
  let p := c.tlPort t
  if p.st = .down then c
  else
    let c := c.setTlPort t { p with replays := satInc16 p.replays, stuck := p.stuck + 1 }
    if 16 ≤ p.stuck + 1 then c.linkDown t else c

/-- NAK: it names a flit of the replay buffer, or the next one. -/
def execNak (t : BitVec 2) (lseq : BitVec 12) (s : State) : Out :=
  onCore (fun c =>
    let p := c.tlPort t
    if (p.buf.any fun e => decide (e.1 = lseq)) ∨ lseq = p.tx then c.replay t else c) s

/-- The first flit discarded is answered with a NAK. -/
def TlPort.discard (p : TlPort) : TlPort := { p with nakked := true }

/-- A flit that the receiver accepts: one for another device is forwarded. -/
def Core.takeFlit (c : Core) (t : BitVec 2) (f : Flit) : Core :=
  if f.kind = 7 ∨ f.dst = c.dev ∨ !c.portUp t then c else c.tlWait (.forward f t)

/-- FLIT_RECEIVE (R430): kinds 1 to 4 and 7 carry an LSEQ; what a flit for this device carries is the matter of its own row. -/
def Core.receiveFlit (c : Core) (t : BitVec 2) (f : Flit) (crcOk : Bool) : Core :=
  if (c.portState t).code.toNat < 2 then c
  else if !crcOk then
    c.setTlPort t { (c.tlPort t).discard with crcErr := satInc16 (c.tlPort t).crcErr }
  else
    let c := if f.ackv then c.takeLack t f.lack else c
    if f.kind = 0 then c
    else if f.kind = 6 then c.setTlPort t ((c.tlPort t).repay f)
    else if f.kind = 5 then c.replay t
    else if f.lseq ≠ (c.tlPort t).rx then c.setTlPort t (c.tlPort t).discard
    else (c.setTlPort t { c.tlPort t with rx := (c.tlPort t).rx + 1, nakked := false }).takeFlit t f

def execFlitReceive (t : BitVec 2) (f : Flit) (crcOk : Bool) (s : State) : Out := onCore (fun c => c.receiveFlit t f crcOk) s

/-- TL_TRAINING_DONE: the port sends its IDENT (R431). -/
def execTlTrainingDone (t : BitVec 2) (s : State) : Out :=
  .next (
    let c := s.core
    if c.portState t = .training then
      let i : Ident := { dev := c.dev, sysid := c.tlSysid, serial := s.sec.serial, port := t, inc := c.aon.inc }
      { s with core := c.setTlPort t ({ c.tlPort t with st := .idcheck, lchg := true }.put (.ident i)) }
    else s)

/-- A peer's incarnation as IDENT or PAIR_SYNC shows it: a changed one means that it has reset (R444). -/
def Core.seeIncarnation (c : Core) (d : DeviceId) (inc : BitVec 16) : Core :=
  let p := c.peer d
  let c := if p.known ∧ p.inc ≠ inc ∧ p.st ≠ .lost ∧ p.st ≠ .syncing then c.peerLost d else c
  c.setPeer d { c.peer d with inc := inc, known := true }

def causeSysid : BitVec 4 := 1
def causeDupid : BitVec 4 := 2

/-- While the boot ROM waits for a neighbour to load a bundle it takes the SYSID of the first one to come UP (R459). -/
def Core.adoptSysid (c : Core) (i : Ident) : Core :=
  if c.boot.phase = .waitLoader ∧ c.boot.src = 2 ∧ !allPorts.any c.portUp then
    { c with cfg := cfgSet c.cfg (sid 0x10 0x21000) i.sysid } else c

/-- IDCHECK: the neighbour's IDENT brings the port UP or REFUSED (R431). -/
def Core.idcheck (c : Core) (t : BitVec 2) (i : Ident) (probeDup : Bool) : Core :=
  let p := c.tlPort t
  if c.portState t ≠ .idcheck then c
  else
    let refuse (cause : BitVec 4) : Core :=
      (c.setTlPort t { p with st := .refused, cause := cause, lchg := true }).log
        { cls := 1, source := 0x10, code := 0x0101, unit := t.setWidth 32, detail := (cause.setWidth 16 <<< 12) ||| t.setWidth 16, addr := 0 }
    let c := c.adoptSysid i
    if i.sysid ≠ c.tlSysid then refuse causeSysid
    else if i.dev = c.dev ∨ probeDup then refuse causeDupid
    else (c.setTlPort t { p with st := .up, lchg := true, nbr := i.dev, nbrPort := i.port }).seeIncarnation i.dev i.inc

def execIdcheck (t : BitVec 2) (i : Ident) (probeDup : Bool) (s : State) : Out := onCore (fun c => c.idcheck t i probeDup) s

/-! ### Pair messages (R437, R208, R365) -/

/-- Messages up to a PSEQ are acknowledged: as many of those sent. -/
def Core.takeAck (c : Core) (d : DeviceId) (pseq : BitVec 16) : Core :=
  let p := c.peer d
  let n := (pseq - p.acked).toNat + 1
  if p.sent < n then c
  else (c.dropMessages d n).setPeer d { p with acked := p.acked + BitVec.ofNat 16 n, sent := p.sent - n }

/-- A NAK of the pair sequence: messages from that PSEQ on are sent again. -/
def Core.takePairNak (c : Core) (d : DeviceId) (pseq : BitVec 16) : Core :=
  let p := c.peer d
  let n := (pseq - p.acked).toNat
  if p.sent < n then c else c.setPeer d { p with sent := n }

/-- The system hand of this device that an ID names as coordinator. -/
def Core.coordinated (c : Core) (id : Word) : Option (BitVec 4) :=
  match c.findHand id with
  | some k => match (c.hand k).sys with
    | some x => if x.coordinator = c.dev ∧ (c.hand k).st = .pending then some k else none
    | none => none
  | none => none

/-- A vote arrives (R365). -/
def Core.takeVote (c : Core) (d : DeviceId) (id : Word) (yes : Bool) (detail : Word) (report : HandReport) : Core :=
  match c.coordinated id with
  | none => c
  | some k =>
    let h := c.hand k
    match h.sys with
    | none => c
    | some x =>
      if x.decided.isSome ∨ !x.mask.getLsbD d.toNat ∨ x.votes.any fun v => v.1 = d then c
      else c.setHand k { h with sys := some { x with votes := x.votes ++ [(d, yes, detail)], report := joinReports x.report report } }

/-- The slot of the hand that device d coordinates under an ID. -/
def Core.participating (c : Core) (d : DeviceId) (id : Word) : Option (BitVec 4) :=
  allSlots.find? fun k => match (c.hand k).st, (c.hand k).sys with
    | .pending, some x => decide (x.coordinator = d ∧ x.hand = id ∧ d ≠ c.dev)
    | _, _ => false

/-- Device d has committed in isolation a system hand that this coordinator folded: the hand's outcome becomes SPLIT (R367). -/
def Core.splitHand (c : Core) (d : DeviceId) (id : Word) : Core :=
  match c.findHand id with
  | some k =>
    let h := c.hand k
    (match h.st, h.sys with
    | .folded, some x =>
      if x.coordinator = c.dev ∧ x.decided = some false ∧ x.mask.getLsbD d.toNat then
        { c.setHand k { h with status := stSplit, detail := 0x77 } with store := { c.store with split := true } }
      else c
    | _, _ => c)
  | none => c

/-- A HOLD notice is acknowledged. A device that acknowledges it after its hand has released the posy gets the RELEASE then. -/
def Core.takeHoldAck (c : Core) (d : DeviceId) (p : BitVec 10) : Core :=
  let awaited := c.hands.any fun e => e.2.awaiting.contains (d, p)
  let c := { c with hands := c.hands.map fun e => (e.1, { e.2 with awaiting := e.2.awaiting.erase (d, p) }) }
  if awaited || c.handleHeld (c.posyHandle p) then c else c.launch (posyPlace p) (.hold d p true)

/-- A card from a channel of device d enters this device under its import entry; its stream is noted (R208, R389). -/
def Core.takeCard (c : Core) (d : DeviceId) (pseq : BitVec 16) (handle : Word) (card : Card) (viaPosy : Bool) : Core :=
  let x := c.importStream card.route
  let last := decide (card.w.w0 &&& flagLast ≠ 0)
  let c := c.setImport card.route { x with
    isOpen := !last, since := if last then 0 else x.since + 1, lastTag := card.w.w0.setWidth 8, epoch := headerEpoch card.w.w0 }
  let key := match card.route with | .chan _ g n => chanKey g n | .farPair _ h => 0x10000 + h.toNat | _ => 0
  let c := c.setPeer d { c.peer d with fresh := (c.peer d).fresh ++ [(pseq, key)] }
  if handleDev handle ≠ c.dev then c.refuse (devicePlace d) card outRemoteDown
  else c.launch (prodKey card.route)
    (if viaPosy && !handlePosy handle then .toQueue (handleQueue handle) card true else c.route handle card)

/-- A producer that a message of device d names, as this device knows it: a host pair is the sender's (R185). -/
def Core.fromPeer (c : Core) (d : DeviceId) (p : Producer) : Producer :=
  match p with
  | .hostPair h => .farPair d h
  | .farPair e h => if e = c.dev then .hostPair h else .farPair e h
  | p => p

/-- What an accepted message does. -/
def Core.takeBody (c : Core) (d : DeviceId) (m : PairMsg) : Core :=
  match m.body with
  | .card handle w poison route serial seq bcast viaPosy =>
    c.takeCard d m.pseq handle
      { w := w, poison := poison, route := c.fromPeer d route, serial := serial, seq := seq, bcast := bcast.map (farBcast d) } viaPosy
  | .resolution dst o back b seq => c.launch (devicePlace d) (.resolved (c.fromPeer d dst) o back b seq)
  | .credit dst serial refused => c.launch (devicePlace d) (.credit (c.fromPeer d dst) serial refused)
  | .popped b => c.bcastPop (devicePlace d) b
  | .notice dst epoch direct => c.launch (devicePlace d) (.notice (c.fromPeer d dst) epoch direct)
  | .hold p release => c.takeHold d p release
  | .holdAck p => c.takeHoldAck d p
  | .prepare p => c.prepare p
  | .vote id yes detail report => c.takeVote d id yes detail report
  | .decision id commit report => match c.participating d id with | some k => c.takeDecision k commit report | none => c
  | .isolated id =>
    (c.splitHand d id).log { cls := 1, source := 0x0F, code := 0x0013, unit := id, detail := d.setWidth 16, addr := 0 }
  | .ack _ => c
  | .nak _ => c
  | .heartbeat => c

/-- PAIR_MESSAGE_ACCEPT: a message is accepted only under the current PEPOCH and as the next PSEQ; a gap is answered with a NAK (R437).
Acknowledgements, NAKs and heartbeats take no PSEQ. -/
def Core.takeMessage (c : Core) (d : DeviceId) (m : PairMsg) : Core :=
  let p := c.peer d
  if d = c.dev ∨ p.st ≠ .idle ∨ m.pepoch ≠ p.pepoch then c
  else match m.body with
    | .ack q => c.takeAck d q
    | .nak q => c.takePairNak d q
    | .heartbeat => c
    | _ =>
      if m.pseq = p.rx then ((c.setPeer d { p with rx := p.rx + 1, nakked := false }).tlWait (.ack d m.pseq)).takeBody d m
      else if (m.pseq - p.rx).toNat < 0x8000 ∧ !p.nakked then (c.setPeer d { p with nakked := true }).tlWait (.nak d p.rx)
      else c

def execPairMessageAccept (d : DeviceId) (msg : PairMsg) (s : State) : Out := onCore (fun c => c.takeMessage d msg) s

/-- PAIR_RETRANSMIT: what has been sent and stayed unacknowledged for 20 µs is sent again. -/
def execPairRetransmit (d : DeviceId) (s : State) : Out :=
  onCore (fun c => if (c.peer d).st = .idle then c.setPeer d { c.peer d with sent := 0 } else c) s

/-- HEARTBEAT: one leaves on an active pair (R441). -/
def execHeartbeat (d : DeviceId) (s : State) : Out :=
  onCore (fun c => if c.pairState d = .active then c.tlWait (.heartbeat d) else c) s

/-- TL_PEER_LOST: a pair that is active, or resynchronising, loses its peer (R441 to R443). -/
def execTlPeerLost (d : DeviceId) (s : State) : Out :=
  onCore (fun c =>
    match c.pairState d with
    | .active => c.peerLost d
    | .syncing => c.peerLost d
    | _ => c) s

/-- The exchange is complete: both sides start at PSEQ 0, and each channel's count is logged (R443). -/
def Core.synced (c : Core) (d : DeviceId) (counts : List (Nat × Nat)) : Core :=
  let c := c.setPeer d { c.peer d with st := .idle, acked := 0, sent := 0, rx := 0, nakked := false, fresh := [] }
  (counts.filter fun e => decide (e.2 ≠ 0)).foldl (fun c e =>
    c.log { cls := 0, source := 0x32, code := 0x0103, unit := d.setWidth 32, detail := BitVec.ofNat 16 e.2, addr := 0 }) c

/-- PAIR_SYNC from device d: a newer PEPOCH means that d has lost this device (R441); the exchange completes once both have sent it. -/
def Core.pairSync (c : Core) (d : DeviceId) (pepoch : Byte) (inc : BitVec 16) (counts : List (Nat × Nat)) : Core :=
  if d = c.dev then c
  else
    let newer := decide (0 < (pepoch - (c.peer d).pepoch).toNat ∧ (pepoch - (c.peer d).pepoch).toNat < 128)
    let c := if newer ∧ (c.peer d).st ≠ .lost ∧ (c.peer d).st ≠ .syncing then c.peerLost d else c
    let c := c.seeIncarnation d inc
    let p := c.peer d
    let fresher := decide (0 < (pepoch - p.pepoch).toNat ∧ (pepoch - p.pepoch).toNat < 128)
    let c := if fresher then c.setPeer d { p with pepoch := pepoch } else c
    let c := match (c.peer d).st with
      | .lost => if (c.portFor d).isSome then c.startSync d else c
      | .syncing => if fresher then c.startSync d else c
      | _ => c
    if (c.peer d).st = .syncing ∧ (c.peer d).pepoch = pepoch then c.synced d counts else c

def execPairSync (d : DeviceId) (pepoch : Byte) (inc : BitVec 16) (counts : List (Nat × Nat)) (s : State) : Out :=
  onCore (fun c => c.pairSync d pepoch inc counts) s

/-! ### System time (R445 to R448) -/

def syncEn (w : Word) : Bool := w.getLsbD 31
def syncExt (w : Word) : Bool := w.getLsbD 30
def Core.timeRoot (c : Core) : DeviceId := c.tlSync.setWidth 9

def signedSum (l : List Int) : Int := l.foldl (· + ·) 0

/-- The engine's averaged offset after one more exchange with the parent, in ps. -/
def TlBlk.average (x : TlBlk) (offset : Int) : TlBlk :=
  let l := (offset :: x.offsets).take 64
  let avg := signedSum l / (l.length : Int)
  { x with
    offsets := l, tofs := BitVec.ofInt 32 (clampInt avg (-2147483648) 2147483647)
    fine := if -100 ≤ avg ∧ avg ≤ 100 then x.fine + 1 else 0 }

/-- The engine steers DTIME, within ±200 ppm. -/
def Core.steer (c : Core) : Core := { c.setTrim (Config.steer c.free) with free := c.free + 1 }

/-- 10 ms and 1 µs in ticks. -/
def aheadMax : Int := 80000000
def aheadNear : Int := 8000

/-- One exchange with the parent (R446); a device that has not joined does not steer, and one that is still ahead by more than 1 µs
steers at −200 ppm (R448). -/
def Core.followParent (c : Core) (x : Exchange) : Core :=
  let offset : Int := (((x.t2 - x.t1).toInt - (x.t4 - x.t3).toInt) * 125) / 2
  let c := { c with tl := c.tl.average offset }
  let c := if !c.tl.joined then c else if 125 * aheadNear < offset then c.setTrim (-858993) else c.steer
  if !x.parentFine then (if c.time.qual = qualFine then c.setQual qualHoldover else c)
  else if 16 ≤ c.tl.fine then c.setQual qualFine else c

/-- TIME_EXCHANGE: the port's delay is measured; on the parent port the engine takes the offset; the root with TL time is FINE (R446). -/
def Core.exchange (c : Core) (t : BitVec 2) (x : Exchange) : Core :=
  if !c.portUp t then c
  else
    let delay : Int := (((x.t2 - x.t1).toInt + (x.t4 - x.t3).toInt) * 125) / 2 - Config.laneSkew t.toNat
    let c := c.setTlPort t { c.tlPort t with delay := BitVec.ofInt 32 delay }
    if !syncEn c.tlSync then c
    else if c.dev = c.timeRoot then (if syncExt c.tlSync then c else c.setQual qualFine)
    else if c.portFor c.timeRoot = some t then c.followParent x else c

def execTimeExchange (t : BitVec 2) (x : Exchange) (s : State) : Out := onCore (fun c => c.exchange t x) s

/-- The table of R448 for an offset from the parent in ticks, positive when this device is ahead; `t`: the parent port. -/
def Core.join (c : Core) (t : BitVec 2) (offset : Int) : Core :=
  if aheadMax < offset then
    { c with tl := { c.tl with joined := false } }.log { cls := 1, source := 0x10, code := 0x0104, unit := t.setWidth 32, detail := t.setWidth 16, addr := 0 }
  else
    let c := { c with tl := { c.tl with joined := true } }
    if aheadNear < offset then c.setTrim (-858993)
    else if offset < -aheadNear then
      let amount := BitVec.ofInt 64 (-offset)
      (if c.stepAllowed amount then c.stepTime amount else c).steer
    else c.steer

/-- TIME_JOIN: a device that is not the root joins, or regains, its parent. -/
def execTimeJoin (offset : Int) (s : State) : Out :=
  onCore (fun c =>
    if c.dev = c.timeRoot ∨ !syncEn c.tlSync then c
    else match c.portFor c.timeRoot with
      | some t => c.join t offset
      | none => c) s

/-- TIME_SYNC: the averaging restarts, and the table applies to the offset averaged so far. -/
def Core.cmdTimeSync (c : Core) : Core × Option Reply :=
  let offset : Int := c.tl.tofs.toInt / 125
  let c := { c with tl := { c.tl with offsets := [], fine := 0 } }
  if c.dev = c.timeRoot ∨ !syncEn c.tlSync then (c, some (ok []))
  else match c.portFor c.timeRoot with
    | some t => (c.join t offset, some (ok []))
    | none => (c, some (ok []))

def execTimeSync (q : CmdSrc) (s : State) : Out :=
  command q { opc := 0x0502, who := .supervisors } (coreBody fun c _ => c.cmdTimeSync) s

/-! ### Remote DMA (R439, R440) -/

/-- Fields of a remote descriptor are legal. -/
def rdmaFieldsOk (w : CardWords) : Bool :=
  decide (w.w0 >>> 28 = 0) && decide (w.w0.setWidth 27 = (0 : BitVec 27)) && decide ((w.w2 >>> 16).setWidth 6 = (0 : BitVec 6))
    && decide (1 ≤ dmaWidth w) && decide (1 ≤ dmaHeight w)
    && (decide (dmaHeight w = 1) || (decide (dmaWidth w ≤ w.w6.toNat) && decide (dmaWidth w ≤ w.w5.toNat)))

/-- DIR: 1 copies remote to local. -/
def rdmaIn (w : CardWords) : Bool := w.w2.getLsbD 22
/-- The local side: its address and its stride. -/
def rdmaLocal (w : CardWords) : Nat × Nat := if rdmaIn w then (dmaDst w, w.w6.toNat) else (dmaSrc w, w.w5.toNat)

/-- The local place of a legal descriptor. -/
def rdmaPlace (b : BunchId) (w : CardWords) : Option DmaPlace :=
  let (a, stride) := rdmaLocal w
  if !rdmaFieldsOk w then none
  else match dmaPlace b a (regionEnd a (dmaWidth w) (dmaHeight w) stride) with
    | some .mem => some .mem
    | some .scratch => some .scratch
    | _ => none

def Core.rdmaSubmit (c : Core) (g : SprigId) (b : BunchId) (off : BitVec 21) : Core :=
  let a := scratchBase b + off.toNat
  let (_, p, c) := c.unitRead whoTl a 32
  let j : RdmaJob := ⟨b, off, cardFromBytes c a, .sprig g⟩
  if 64 ≤ c.tl.rdma.length then c.rdmaState j dmaRefused 1
  else if p then c.rdmaState j dmaRefused 2
  else match rdmaPlace b j.words with
    | none => c.rdmaState j dmaRefused 2
    | some place =>
      let (la, stride) := rdmaLocal j.words
      if c.dmaGranted g place la (dmaWidth j.words) (dmaHeight j.words) stride (rdmaIn j.words) then
        { c with tl := { c.tl with rdma := c.tl.rdma ++ [j] } }.rdmaState j dmaQueued 0
      else (c.rdmaState j dmaRefused 3).log
        { cls := 1, source := 0x10, code := Config.dmaPermCode, unit := b.setWidth 32, detail := 0, addr := BitVec.ofNat 40 a }

/-- A write of TL_RDMA_SUBMIT: only sprigs of the bunch that it names (R451). -/
def Core.writeRdma (c : Core) (m : Master) (v : Word) : Core :=
  let b : BunchId := (v >>> 21).setWidth 6
  match m with
  | .sprig g => c.writeBy m (decide (bunchOf g = b)) fun c => c.reach b fun c => c.rdmaSubmit g b ((v &&& 0x001FFFE0#32).setWidth 21)
  | _ => c

/-- TL_RDMA_SUBMIT. -/
def execTlRdmaSubmit (m : Master) (v : Word) (s : State) : Out := onCore (fun c => c.writeRdma m v) s

/-- The rows of a transfer from the remote side are written, as far as the data reaches, with the poison of its flits (R304, R440). -/
def Core.rdmaRows (c : Core) (w : CardWords) (data : List Byte) (ms : List Bool) : Core :=
  let (a, stride) := rdmaLocal w
  (List.range (dmaHeight w)).foldl (fun c r =>
    c.unitStore tlUnit (a + r * stride) ((data.drop (r * dmaWidth w)).take (dmaWidth w)) ((ms.drop (r * dmaWidth w)).take (dmaWidth w))) c

/-- The rows of a transfer to the remote side are read: whether they carried poison. -/
def Core.rdmaReads (c : Core) (w : CardWords) : Bool × Core :=
  let (a, stride) := rdmaLocal w
  (List.range (dmaHeight w)).foldl (fun (acc : Bool × Core) r =>
    let (_, ms, c) := acc.2.unitFetch tlUnit (a + r * stride) (dmaWidth w)
    (acc.1 || ms.any id, c)) (false, c)

/-- Some row waits for a channel that initialises or refreshes itself (R310, R311). -/
def Core.rdmaWaits (c : Core) (w : CardWords) : Bool :=
  let (a, stride) := rdmaLocal w
  (List.range (dmaHeight w)).any fun r => c.waits (a + r * stride) (dmaWidth w)

/-- RDMA_DONE: the running transfer ends; `data` is what arrived of a transfer from the remote side, with the marks of its bytes. Loss of the
peer ends it ABORTED. -/
def Core.rdmaDone (c : Core) (refused : Bool) (data : List Byte) (ms : List Bool) : Core :=
  match c.tl.rdma with
  | [] => c
  | j :: rest =>
    if (c.peer (rdmaPeer j.words)).st = .lost then { c with tl := { c.tl with rdma := rest } }.rdmaState j dmaAborted 0
    else if c.rdmaWaits j.words then c
    else
      let c := { c with tl := { c.tl with rdma := rest } }
      let (p, c) := if rdmaIn j.words then (ms.any id, c.rdmaRows j.words data ms) else c.rdmaReads j.words
      if refused then c.rdmaState j dmaRefused 3 p
      else { c with tl := { c.tl with rdmaDone := c.tl.rdmaDone + 1 } }.rdmaState j dmaDone 0 p

def execRdmaDone (refused : Bool) (data : List Byte) (ms : List Bool) (s : State) : Out := onCore (fun c => c.rdmaDone refused data ms) s

/-- A window that opens a request to device d (R439). -/
def Core.windowOpens (c : Core) (d : DeviceId) (a n : Nat) (write : Bool) : Bool :=
  (List.range 16).any fun w =>
    let ctl := c.rwin w 0
    let base := (c.rwin w 4).toNat * 4096
    ctl.getLsbD 31 && (decide (ctl.setWidth 9 = d) || decide (ctl.setWidth 9 = (0x1FF : BitVec 9)))
      && (if write then ctl.getLsbD 29 else ctl.getLsbD 30)
      && decide (base ≤ a) && decide (a + n ≤ base + (c.rwin w 8).toNat * 4096)

/-- A request of a peer to a scratchpad. -/
def Core.peerScratch (c : Core) (d : DeviceId) (r : MemReq) : Core :=
  let a := r.addr.toNat
  let b := scratchBunch a
  match r.data with
  | some bs => if c.quiet (.bunch b) then c.logAbandoned (.peer d) a else c.reach b fun c => c.unitWrite whoTl a bs r.poisoned
  | none =>
    if c.quiet (.bunch b) then c.answerBytes (.peer d) (List.replicate r.len.toNat 0) (List.replicate r.len.toNat true)
    else c.reach b fun c =>
      let (bs, ms, c) := c.unitReadMarks whoTl a r.len.toNat
      c.answerBytes (.peer d) bs ms

/-- REMOTE_REQUEST: a request that a window opens is served; another is an unmapped access by the peer (R439, R41). A frozen peer's is
refused with ABANDONED (R381). -/
def Core.remoteRequest (c : Core) (d : DeviceId) (r : MemReq) : Core :=
  let a := r.addr.toNat
  let r := { r with who := .peer d }
  let n := match r.data with | some bs => bs.length | none => r.len.toNat
  if c.frozenMaster (.peer d) then (if r.data.isSome then c else c.answer (.peer d) 0 false true)
  else if !c.windowOpens d a n r.data.isSome then
    (match r.data with
    | some _ => c.freezeMaster (.peer d) causePerm
    | none => (c.logRead (.peer d) r.addr).answerBytes (.peer d) (List.replicate n 0) [])
  else if isMem a then c.memAccess r .ok
  else c.peerScratch d r

def execRemoteRequest (d : DeviceId) (r : MemReq) (s : State) : Out :=
  let n := match r.data with | some bs => bs.length | none => r.len.toNat
  onCoreIf (decide (0 < n) && decide (n ≤ 256)) (fun c => c.remoteRequest d r) s

/-! ### Commands (R433, R436) -/

/-- A binding, import entry or posy member names another device. -/
def Core.namesOther (c : Core) : Bool :=
  (c.bindings.any fun b => !b.toPair && decide (handleDev b.handle ≠ c.dev))
    || (c.importBindings.any fun b => match b.who with | .chan d _ _ => decide (d ≠ c.dev) | _ => false)
    || allPosies.any fun p => posyDef (c.posyReg p 0) && (c.members p).any fun w => decide (handleDev w ≠ c.dev)

/-- TL_SET_ID. -/
def Core.cmdSetId (c : Core) (a : Args) : Core × Option Reply :=
  if 511 < (a.w 0).toNat then (c, some ⟨stBadParam, []⟩)
  else if (allPorts.any fun t => decide (c.portState t ≠ .down)) || c.namesOther then (c, some (conflict 0xA1 0))
  else ({ c with dev := (a.w 0).setWidth 9 }, some (ok []))

def execTlSetId (q : CmdSrc) (s : State) : Out :=
  command q { opc := 0x0900, who := .supervisors, minLen := 4 } (coreBody fun c a => c.cmdSetId a) s

/-- A topology of R434 with its sizes: N, or X and Y. -/
inductive Topology where
  | ring (n : Nat)
  | double (n : Nat)
  | torus (x y : Nat)
deriving DecidableEq, Repr

def topologyOf (topo x y : Nat) : Option Topology :=
  match topo with
  | 0 => if between 2 x 64 then some (.ring x) else none
  | 1 => if between 2 x 64 then some (.double x) else none
  | 2 => if between 2 x 16 && between 2 y 32 && decide (x * y ≤ 512) then some (.torus x y) else none
  | _ => none

def Topology.size : Topology → Nat
  | .ring n => n
  | .double n => n
  | .torus x y => x * y

/-- The shorter way round a ring of n: 0 forward, 1 backward; a tie goes forward. -/
def shortWay (n i d : Nat) : Nat := if (d + n - i) % n ≤ (i + n - d) % n then 0 else 1

def rtWord (pri alt : Nat) (altEn : Bool) : Word :=
  0x80000000#32 ||| num (64 * pri) ||| num (16 * alt) ||| (if altEn then 8 else 0)

/-- The route from device i to device d (R436). -/
def Topology.route (t : Topology) (i d : Nat) : Word :=
  match t with
  | .ring n => rtWord (shortWay n i d) 0 false
  | .double n => rtWord (shortWay n i d) (2 + shortWay n i d) true
  | .torus x _ =>
    if i % x ≠ d % x then rtWord (shortWay x (i % x) (d % x)) 0 false
    else rtWord (2 + shortWay (t.size / x) (i / x) (d / x)) 0 false

/-- DATELINE of port p at device i. -/
def Topology.dateline (t : Topology) (i p : Nat) : Bool :=
  let at_ (pos n : Nat) : Bool := if p % 2 = 0 then decide (pos = n - 1) else decide (pos = 0)
  match t with
  | .ring n => decide (p < 2) && at_ i n
  | .double n => at_ i n
  | .torus x y => if p < 2 then at_ (i % x) x else at_ (i / x) y

def Topology.dim (t : Topology) (p : Nat) : Bool :=
  match t with
  | .torus _ _ => decide (2 ≤ p)
  | _ => false

/-- The entries that TL_ROUTE stages for device i: the routes to the others, and DATELINE and DIM of each port beside its EN. -/
def Topology.entries (t : Topology) (i : Nat) (ctl : Nat → Word) : List (Nat × Word) :=
  (((List.range t.size).filter fun d => decide (d ≠ i)).map fun d => (sid 0x10 (0x20000 + 4 * d), t.route i d))
    ++ (List.range 4).map fun p => (sid 0x10 (0x40000 * p),
      (ctl p &&& 0x80000000#32) ||| (if t.dateline i p then 0x40000000#32 else 0) ||| (if t.dim p then 0x20000000#32 else 0))

/-- TL_ROUTE: hand ID, TOPO, N or X, Y, the root. -/
def Core.cmdRoute (c : Core) (q : CmdSrc) (a : Args) : Core × Option Reply :=
  c.withHand q (a.w 0) fun slot =>
    let h := c.hand slot
    if h.st ≠ .open then (c, some ⟨stHandClosed, []⟩)
    else match topologyOf (a.w 1).toNat (a.w 2).toNat (a.w 3).toNat with
      | none => (c, some ⟨stBadParam, []⟩)
      | some t =>
        if t.size ≤ (a.w 4).toNat ∨ t.size ≤ c.dev.toNat then (c, some ⟨stBadParam, []⟩)
        else
          let ctl (p : Nat) : Word :=
            ((h.entries.find? fun e => decide (e.dev = c.dev ∧ e.id = sid 0x10 (0x40000 * p))).map HandEntry.val).getD
              (cfgGet c.cfg (sid 0x10 (0x40000 * p)))
          let es := t.entries c.dev.toNat ctl
          match es.findSome? fun e => c.settingFault h e.1 e.2 with
          | some r => (c, some r)
          | none =>
            let l := es.foldl (fun l e => stageEntry c.store.commits l c.dev e.1 e.2) h.entries
            if handMax < l.length then (c, some ⟨stHandFull, []⟩) else (c.setHand slot { h with entries := l }, some (ok []))

def execTlRoute (q : CmdSrc) (s : State) : Out :=
  command q { opc := 0x0901, who := .supervisors, minLen := 20 } (coreBody fun c a => c.cmdRoute q a) s

/-- TL_STAT, TL_NBR and TL_CNT of a port; a read of TL_CNT clears it (R450). -/
def Core.tlStat (c : Core) (t : BitVec 2) : Word :=
  ((c.portState t).code.setWidth 32 <<< 29) ||| ((c.tlPort t).cause.setWidth 32 <<< 20) ||| (if (c.tlPort t).lchg then 0x00080000#32 else 0)
def Core.tlNbr (c : Core) (t : BitVec 2) : Word :=
  if c.portUp t then ((c.tlPort t).nbr.setWidth 32 <<< 23) ||| (c.tlPort t).nbrPort.setWidth 32 else 0
def Core.readTlCnt (c : Core) (t : BitVec 2) : Word × Core :=
  let p := c.tlPort t
  (p.crcErr ++ p.replays, c.setTlPort t { p with crcErr := 0, replays := 0 })

def Core.cmdTlStatus (c : Core) (a : Args) : Core × Option Reply :=
  if 3 < (a.w 0).toNat then (c, some ⟨stBadParam, []⟩)
  else
    let t : BitVec 2 := (a.w 0).setWidth 2
    let (n, c') := c.readTlCnt t
    (c', some (ok [c.tlStat t, c.tlNbr t, (c.tlPort t).delay, n]))

def execTlStatus (q : CmdSrc) (s : State) : Out :=
  command q { opc := 0x0902, who := .supervisors, minLen := 4 } (coreBody fun c a => c.cmdTlStatus a) s

/-- TL_PEERd (R451). -/
def Core.peerWord (c : Core) (d : DeviceId) : Word :=
  ((c.pairState d).code.setWidth 32 <<< 30) ||| ((c.peer d).pepoch.setWidth 32 <<< 16) ||| (c.peer d).inc.setWidth 32

def execSysStatus (q : CmdSrc) (s : State) : Out :=
  command q { opc := 0x0903, who := .supervisors, needs := true }
    (coreBody fun c a => c.bulkReply q a.x [] ((List.range 512).flatMap fun d => bytesOf (c.peerWord (BitVec.ofNat 9 d)) 4)) s

end Sys2Proof.Machine
end

