-- ==== Sys2Proof/Machine/RegRead.lean ====
section
/-!
DEFINITION. Sys2Proof/Machine/RegRead.lean: what every register reads (R13 to R17, R42, and the register tables of every chapter), by
block slot and byte offset. An offset that holds no register reads 0 (R16).
-/
namespace Sys2Proof.Machine

/-- Half of a 64-bit register: the low word at an offset divisible by 8, the high word behind it. -/
def half64 (v : DWord) (hi : Bool) : Word := if hi then (v >>> 32).setWidth 32 else v.setWidth 32

def rbit (b : Bool) (k : Nat) : Word := if b then 1#32 <<< k else 0

/-! ### The blocks -/

/-- SYS (R6, R486). -/
def State.sysReg (s : State) (off : Nat) : Word :=
  match off with
  | 0x10 => s.variant
  | 0x14 => (s.core.boot.strap.setWidth 32 <<< 14) ||| s.core.aon.strapId.setWidth 32
  | _ => 0

def aonRamBase : Nat := 0x10000

/-- PWR (R250, R413, R420, R423, R424, R427). -/
def Core.pwrReg (c : Core) (m : Master) (off : Nat) : Word :=
  let a := c.aon
  match off with
  | 0x00 => (a.left.code.setWidth 32 <<< 30) ||| rbit a.pgfail 29 ||| (a.pgtry.setWidth 32 <<< 26)
  | 0x0C => a.wakeStat
  | 0x20 => a.dipCount
  | 0x24 => rbit a.inDip 31 ||| rbit a.brown 30 ||| a.minv.setWidth 32
  | 0x28 => half64 a.dipIn false
  | 0x2C => half64 a.dipIn true
  | 0x30 => half64 a.dipOut false
  | 0x34 => half64 a.dipOut true
  | 0x104 => c.slack.pin.setWidth 32
  | 0x208 => half64 c.power.hold false
  | 0x20C => half64 c.power.hold true
  | 0x210 => half64 c.power.gated false
  | 0x214 => half64 c.power.gated true
  | 0x400 => a.watchCfg
  | 0x470 => a.watchLpin.setWidth 32
  | 0x474 => a.watchN
  | 0x480 => half64 (a.alarm.setWidth 64) false
  | 0x484 => half64 (a.alarm.setWidth 64) true
  | 0x488 => half64 (a.ticks.setWidth 64) false
  | 0x48C => half64 (a.ticks.setWidth 64) true
  | _ =>
    match inBlock off 0x410 4 8, inBlock off 0x440 4 4, inBlock off 0x460 4 4, inBlock off aonRamBase 4 4096 with
    | some (i, _), _, _, _ => Tbl.get a.watchPin i 0
    | _, some (i, _), _, _ => Tbl.get a.watchCh i watchChReset
    | _, _, some (i, _), _ => Tbl.get a.watchLast i 0
    | _, _, _, some (i, _) => if c.privileged m then Tbl.get a.ram i 0 else 0
    | _, _, _, _ => 0

/-- RST (R404). -/
def Core.rstReg (c : Core) (off : Nat) : Word :=
  match off with
  | 0x00 => (c.aon.count.setWidth 32 <<< 24) ||| (c.aon.causes.setWidth 32 <<< 1) ||| rbit c.power.porst 0
  | 0x10 => rbit c.power.wdogEn 31 ||| c.power.wdogMs.setWidth 32
  | _ => 0

/-- A capture channel's words that no read changes (R228). -/
def Core.capReg (c : Core) (m : Master) (k : BitVec 9) (o : Nat) : Word :=
  let x := c.cap k
  match o with
  | 0x04 => rbit x.ovf 31 ||| (BitVec.ofNat 32 x.fifo.length <<< 16) ||| (x.glitch.setWidth 32 <<< 8) ||| x.lost.setWidth 32
  | 0x0C => half64 (c.popBuf m k).stamp true
  | 0x10 => rbit (c.popBuf m k).valid 31 ||| rbit (c.popBuf m k).pol 0
  | _ => 0

/-- A comparator (R234). -/
def Cmp.reg (x : Cmp) (o : Nat) : Word :=
  match o with
  | 0x00 => half64 x.cmp false
  | 0x04 => half64 x.cmp true
  | 0x08 => x.per
  | _ => rbit x.armed 31 ||| rbit x.pend 30 ||| rbit x.ovr 29 ||| rbit x.stepped 28 ||| x.skip.setWidth 32

/-- A deadline monitor (R237). -/
def Dm.reg (x : Dm) (o : Nat) : Word :=
  match o with
  | 0x08 => rbit x.armed 31 ||| rbit x.miss 30 ||| rbit x.stepped 29 ||| rbit x.overrun 28 ||| x.missCnt.setWidth 32
  | 0x0C => x.slack
  | 0x10 => half64 x.dl false
  | 0x14 => half64 x.dl true
  | _ => 0

/-- TIME (R221, R228, R234, R237, R250). -/
def Core.timeBlockReg (c : Core) (m : Master) (off : Nat) : Word :=
  let t := c.time
  match off with
  | 0x00 => half64 t.dtime false
  | 0x04 => half64 t.dtime true
  | 0x08 => t.trim
  | 0x18 => rbit t.busy 0
  | 0x1C => t.stat.setWidth 32
  | 0x20 => t.qual.setWidth 32
  | 0x24 => t.uncert
  | 0x2C => t.rtcPpm.setWidth 32
  | 0x30 => half64 t.sleepDt false
  | 0x34 => half64 t.sleepDt true
  | 0x38 => half64 (t.sleepN.setWidth 64) false
  | 0x3C => half64 (t.sleepN.setWidth 64) true
  | 0x10C => c.vcStat
  | 0x110 => c.slack.slackMin
  | 0x114 => c.slack.missCapped ++ c.slack.missCnt
  | _ =>
    match inBlock off 0x200 4 64, inBlock off 0x10000 0x20 288, inBlock off 0x20000 0x10 4096, inBlock off 0x60000 0x20 4096 with
    | some (b, _), _, _, _ => Tbl.get c.slack.bslack b maxI
    | _, some (k, o), _, _ => c.capReg m (BitVec.ofNat 9 k) o
    | _, _, some (k, o), _ => (c.cmp (BitVec.ofNat 12 k)).reg o
    | _, _, _, some (k, o) => (c.dm (BitVec.ofNat 12 k)).reg o
    | _, _, _, _ => 0

/-- Thirty-two levels as a word, line 32·w first. -/
def packBits (f : Nat → Bool) (w : Nat) : Word := (List.range 32).foldl (fun v i => if f (32 * w + i) then v ||| (1#32 <<< i) else v) 0

/-- TRIG (R230). -/
def Core.trigReg (c : Core) (off : Nat) : Word :=
  match inBlock off 0x20000 8 4096, inBlock off 0x30000 4 8, inBlock off 0x30020 4 8, inBlock off 0x30100 4 128 with
  | some (l, o), _, _, _ => half64 (Tbl.get c.fabric.stamp l 0) (decide (o = 4))
  | _, some (w, _), _, _ => swWord c.fabric.sw (BitVec.ofNat 3 w)
  | _, _, some (w, _), _ => swWord c.fabric.sw (BitVec.ofNat 3 w)
  | _, _, _, some (w, _) => packBits (fun l => c.lineLevel (BitVec.ofNat 12 l)) w
  | _, _, _, _ => 0

/-- DEAL (R245). -/
def Core.dealReg (c : Core) (off : Nat) : Word :=
  match dealUnitOff off, inBlock off 0x10000 4 2048 with
  | some o, _ =>
    let x := c.unit (BitVec.ofNat 16 (off / 0x40))
    (match o with
    | 0x04 => (x.last.setWidth 32 <<< 28) ||| (x.mcause.setWidth 32 <<< 24) ||| (x.tempty.setWidth 32 <<< 16) ||| BitVec.ofNat 32 x.queue.length
    | 0x10 => half64 x.tail false
    | 0x14 => half64 x.tail true
    | _ => 0)
  | _, some (g, _) =>
    let x := c.sstat (BitVec.ofNat 11 g)
    (x.outcome.setWidth 32 <<< 28) ||| (x.refcnt.setWidth 32 <<< 20) ||| x.num.setWidth 32
  | _, _ => 0

/-- The serial master that a bank and offset name: SSI in banks 4 and 5, SPI in banks 6 and 7 (R260). -/
def serialAt (k off : Nat) : Option (BitVec 6 × Nat) :=
  match inBlock off 0x400 0x40 16, inBlock off 0x800 0x40 8 with
  | some (l, o), _ => if k = 4 ∨ k = 5 then some (BitVec.ofNat 6 (16 * (k - 4) + l), o) else none
  | _, some (l, o) => if k = 6 ∨ k = 7 then some (BitVec.ofNat 6 (32 + 8 * (k - 6) + l), o) else none
  | _, _ => none

/-- A serial master's words: the latest frame's come from the reader's shadow once it has one (R260, R261). -/
def Core.serialReg (c : Core) (m : Master) (j : BitVec 6) (o : Nat) : Word :=
  let x := c.serial j
  let sh := (Tbl.get c.serShadows (serShadowKey m j) none).getD ⟨(x.data >>> 32).setWidth 32, x.stamp, x.seq⟩
  match o with
  | 0x08 => if isSpi j then x.tx.setWidth 32 else 0
  | 0x0C => if isSpi j then 0 else sh.dataHi
  | 0x10 => half64 sh.stamp false
  | 0x14 => half64 sh.stamp true
  | 0x18 => rbit x.busy 31 ||| rbit x.skipped 30 ||| rbit (x.notReady && !isSpi j) 29 ||| sh.seq.setWidth 32
  | 0x20 => if isSpi j then 0 else half64 x.tx false
  | 0x24 => if isSpi j then 0 else half64 x.tx true
  | _ => 0

/-- FIO bank k (R256, R258 to R262). -/
def Core.fioBlockReg (c : Core) (m : Master) (k off : Nat) : Word :=
  let b := c.bank (BitVec.ofNat 3 k)
  match off with
  | 0x100 => packBits (fun i => c.pinNow (32 * k + i)) 0
  | 0x104 => b.out
  | 0x108 => b.out
  | 0x10C => b.out
  | 0x110 => rbit b.viook 31 ||| rbit b.vio33 30 ||| rbit b.fault 29
  | _ =>
    if k = 7 ∧ off = 0x10100 then packBits c.lvNow 0
    else if k = 7 ∧ off = 0x10104 then c.lvOut
    else match inBlock off 0x200 0x20 8, serialAt k off with
      | some (l, o), _ =>
        let x := c.qd (BitVec.ofNat 6 (8 * k + l))
        (match o with
        | 0x04 => x.count
        | 0x10 => half64 x.idxT false
        | 0x14 => half64 x.idxT true
        | 0x18 => x.smp
        | 0x1C => rbit x.err 31 ||| rbit x.iovr 30 ||| x.errCnt.setWidth 32
        | _ => 0)
      | _, some (j, o) => c.serialReg m j o
      | _, _ => 0

/-- ETH port p (R263 to R269). -/
def Eth.reg (x : Eth) (off : Nat) : Word :=
  match off with
  | 0x0C => rbit x.link 31 ||| rbit x.pact 30 ||| rbit x.lchg 3 ||| rbit x.cyc 2 ||| rbit x.txdone 1 ||| rbit x.arr 0
  | 0x10 => (x.rxdrop.setWidth 32 <<< 16) ||| (x.unmatched.setWidth 32 <<< 8) ||| x.fcserr.setWidth 32
  | _ =>
    match inBlock off 0xA0 4 8, inBlock off 0x200 0x20 16, inBlock off 0x1000 0x10 256 with
    | some (k, _), _, _ => BitVec.ofNat 32 (x.classQ (BitVec.ofNat 3 k)).length
    | _, some (r, 0x0C), _ => (Tbl.get x.head r 0).setWidth 32
    | _, some (r, 0x10), _ => (Tbl.get x.tail r 0).setWidth 32
    | _, _, some (i, o) =>
      let d := x.desc (BitVec.ofNat 8 i)
      (match o with
      | 0x0 => d.word ||| rbit d.busy 31
      | 0x8 => half64 d.stamp false
      | 0xC => half64 d.stamp true
      | _ => 0)
    | _, _, _ => if 0x10000 ≤ off then wordOf (x.memBytes (off - 0x10000) 4) else 0

/-- CXP connection (R270). -/
def Cxp.reg (x : Cxp) (off : Nat) : Word :=
  match off with
  | 0x04 => rbit x.link 31 ||| (x.spd.setWidth 32 <<< 28) ||| rbit x.trigsent 3 ||| rbit x.line 2 ||| rbit x.fend 1 ||| rbit x.fstart 0
  | 0x08 => x.drop ++ x.errCnt
  | 0x1C => x.rhead.setWidth 32
  | 0x20 => x.rtail.setWidth 32
  | _ => 0

/-- GDC channel k: STATE reads QUIESCE while the channel drains (R308 to R312, R385). -/
def Core.gdcBlockReg (c : Core) (k off : Nat) : Word :=
  let x := c.gdc k
  let st := if c.quiet (.channel (BitVec.ofNat 6 k)) then ChannelState.quiesce else x.st
  if 36 ≤ k then 0
  else match off with
  | 0x00 => (st.code.setWidth 32 <<< 29) ||| (x.level.setWidth 32 <<< 26) ||| x.temp.setWidth 32
  | 0x08 => half64 x.errAddr false
  | 0x0C => half64 x.errAddr true
  | 0x14 => x.scrubPos.setWidth 32
  | _ => 0

/-- QMGR (R187, R203, R211). -/
def Core.qmgrReg (c : Core) (off : Nat) : Word :=
  match inBlock off 0 0x10 16384, inBlock off 0x40000 0x100 1024, inBlock off 0xC0000 0x40 256 with
  | some (i, 0x04), _, _ => c.queueStat (BitVec.ofNat 14 i)
  | _, some (p, 0x08), _ => (Tbl.get c.posyNext p 0).setWidth 32
  | _, _, some (h, o) =>
    let x := c.hqp (BitVec.ofNat 8 h)
    (match o with
    | 0x10 => x.itail.setWidth 32
    | 0x14 => x.ihead.setWidth 32
    | 0x18 => x.otail.setWidth 32
    | 0x1C => x.ohead.setWidth 32
    | 0x20 => (c.hchan (BitVec.ofNat 8 h)).statWord
    | _ => 0)
  | _, _, _ => 0

/-- HIC: a VF that is no supervisor sees the bits of the sources mapped to it (R296, R297, R339). -/
def Core.hicReg (c : Core) (m : Master) (off : Nat) : Word :=
  let mine (n : BitVec 10) : Bool := c.seesAll m || (match m with
    | .host f => decide (hicFunc (c.hicMap n) = f)
    | _ => false)
  match inBlock off 0x2100 4 32, inBlock off 0x2180 4 32 with
  | some (w, _), _ => packBits (fun n => mine (BitVec.ofNat 10 n) && c.hicLevel (BitVec.ofNat 10 n)) w
  | _, some (w, _) => packBits (fun n => mine (BitVec.ofNat 10 n) && (c.hicActive (BitVec.ofNat 10 n)).isSome) w
  | _, _ => if off = 0x2200 then c.hic.spurious.setWidth 32 else 0

/-- BIC b with its stream DMA registers (R275, R285 to R289). -/
def Core.bicReg (c : Core) (b : BunchId) (off : Nat) : Word :=
  let x := c.bic b
  let level (w : Nat) : Word := packBits (fun i => c.bicLevel b (BitVec.ofNat 8 i)) w
  match off with
  | 0xA04 => rbit x.stranded 31 ||| x.spurious.setWidth 32
  | 0x3004 =>
    let d := c.dma b
    rbit (!d.queue.isEmpty) 31 ||| rbit d.lvl 30 ||| (BitVec.ofNat 32 d.queue.length <<< 16) ||| d.done.setWidth 32
  | _ =>
    match inBlock off 0x400 0x20 5, inBlock off 0x900 4 32, inBlock off 0x980 4 32 with
    | some (k, o), _, _ =>
      (match k with
      | 0 => word256 x.en (BitVec.ofNat 3 (o / 4))
      | 1 => word256 x.en (BitVec.ofNat 3 (o / 4))
      | 2 => level (o / 4)
      | 3 => word256 x.active (BitVec.ofNat 3 (o / 4))
      | _ => level (o / 4))
    | _, some (t, _), _ => Tbl.get x.thresh t 0
    | _, _, some (t, _) =>
      (match Tbl.get x.latch t none with
      | some (i, p) => claimWord i p
      | none => 0)
    | _, _, _ => 0

/-- A freeze register (R382). -/
def freezeWord (cause : Byte) : Word := rbit (decide (cause ≠ 0)) 31 ||| cause.setWidth 32

/-- ERR (R174, R378, R382). -/
def Core.errReg (c : Core) (off : Nat) : Word :=
  let e := c.err
  match off with
  | 0x00 => (e.seq.setWidth 32 <<< 16) ||| e.tail.setWidth 32
  | 0x04 => e.ack.setWidth 32
  | 0x08 => e.sdel.setWidth 32
  | 0x10 => e.hqBaseLo
  | 0x14 => e.hqBaseHi
  | 0x18 => e.hqCfg
  | 0x1C => e.hqTail.setWidth 32
  | 0x20 => e.hqHead.setWidth 32
  | _ =>
    match inBlock off 0x8000 0x20 1024, inBlock off 0x10000 4 16, inBlock off 0x10100 4 512, inBlock off 0x10900 4 64 with
    | some (k, o), _, _, _ =>
      (match Tbl.get e.ring k none with
      | some x => cardWord (x.card (c.prod .errorEngine).epoch) (BitVec.ofNat 3 (o / 4))
      | none => 0)
    | _, some (f, _), _, _ => freezeWord (Tbl.get e.ffrz f 0)
    | _, _, some (d, _), _ => freezeWord (Tbl.get e.pfrz d 0)
    | _, _, _, some (b, _) => freezeWord (Tbl.get e.dfrz b 0)
    | _, _, _, _ =>
      match inBlock off 0x20000 0x100 64 with
      | some (b, o) =>
        if o < 0x40 then
          let x := c.lease (BitVec.ofNat 6 b) (BitVec.ofNat 2 (o / 0x10))
          (match o % 0x10 with
          | 0x0 => x.ctlWord
          | 0x4 => x.statWord
          | _ => 0)
        else 0
      | none => 0

/-- The earliest known T of a hand that waits to commit (R363). -/
def Core.nextCommit (c : Core) : DWord :=
  (c.acceptedHands.filterMap fun k => (c.hand k).instant).foldl (fun (a : DWord) t => if t < a then t else a) never

/-- CFG (R363). -/
def Core.cfgReg (c : Core) (off : Nat) : Word :=
  let x := c.store
  match off with
  | 0x00 => x.gen
  | 0x04 => if x.hasPrior then x.gen - 1 else 0
  | 0x08 => rbit x.mirrored 31 ||| rbit (!c.acceptedHands.isEmpty) 30 ||| rbit x.isolated 29 ||| rbit x.split 28 ||| BitVec.ofNat 32 c.openHands
  | 0x10 => half64 c.nextCommit false
  | 0x14 => half64 c.nextCommit true
  | 0x18 => half64 x.last false
  | 0x1C => half64 x.last true
  | 0x20 => 0x1FF000#32
  | 0x24 => 256
  | _ => 0

/-- TL instance t; instance 0 holds the device's registers too (R450, R451). -/
def Core.tlReg (c : Core) (t off : Nat) : Word :=
  let p : BitVec 2 := BitVec.ofNat 2 t
  match off with
  | 0x04 => c.tlStat p
  | 0x0C => c.tlNbr p
  | 0x10 => (c.tlPort p).delay
  | _ =>
    if t ≠ 0 then 0
    else if off = 0x21008 then c.tl.tofs
    else if off = 0x21204 then
      rbit (!c.tl.rdma.isEmpty) 31 ||| (BitVec.ofNat 32 c.tl.rdma.length <<< 16) ||| c.tl.rdmaDone.setWidth 32
    else match inBlock off 0x22000 4 512 with
      | some (d, _) => c.peerWord (BitVec.ofNat 9 d)
      | none => 0

/-- SEC_LIFE and SEC_BOOT_STAT (R470). -/
def Sec.lifeWord (x : Sec) : Word :=
  rbit x.dbgSet 21 ||| rbit x.recovDis 20 ||| (x.bootDis.setWidth 32 <<< 17) ||| (x.vendRev.setWidth 32 <<< 12)
    ||| (x.ownRev.setWidth 32 <<< 8) ||| (x.ownSet.setWidth 32 <<< 4) ||| x.life.code.setWidth 32
def Boot.statWord (x : Boot) : Word :=
  (x.phase.code.setWidth 32 <<< 28) ||| (x.src.setWidth 32 <<< 26) ||| (x.slot.setWidth 32 <<< 24) ||| rbit x.resumed 23
    ||| rbit x.patched 22 ||| rbit x.trial 21 ||| (x.fail.setWidth 32 <<< 8) ||| x.comp.setWidth 32

/-- SEC (R470). -/
def State.secReg (s : State) (off : Nat) : Word :=
  let x := s.sec
  let b := s.core.boot
  match off with
  | 0x00 => x.lifeWord
  | 0x04 => b.statWord
  | 0x08 => rbWord x
  | 0x10 => half64 x.serial false
  | 0x14 => half64 x.serial true
  | 0x424 => rbit b.otpDone 30 ||| rbit b.otpRefused 29
  | _ =>
    match inBlock off 0x100 0x20 4, inBlock off 0x180 0x20 1, inBlock off 0x200 0x20 16, inBlock off 0x1000 4 328 with
    | some (n, o), _, _, _ => linkWord (if h : n < 4 then x.ownHash[n] else 0) (o / 4)
    | _, some (_, o), _, _ => linkWord x.dbgHash (o / 4)
    | _, _, some (i, o), _ => linkWord (Tbl.get b.meas i 0) (o / 4)
    | _, _, _, some (k, _) => pword Config.devicePublic k
    | _, _, _, _ => 0

/-- MON (R475). -/
def Mon.reg (x : Mon) (off : Nat) : Word :=
  match off with
  | 0x00 => x.baud.setWidth 32
  | 0x04 => rbit x.locked 31 ||| rbit x.recovery 30 ||| rbit x.overrun 29 ||| x.fails.setWidth 32
  | _ =>
    match inBlock off 0x100 4 4 with
    | some (k, _) => Tbl.get x.adc k 0
    | none => 0

/-- MET: what reflects the island reads 0 while it is in reset; the whole block reads 0 without an island (R320). -/
def State.metReg (s : State) (off : Nat) : Word :=
  let x := s.isl
  let m := s.core.met
  if !x.enabled then 0
  else match off with
  | 0x00 => x.stat
  | 0x100 => s.core.metBind
  | 0x104 => s.core.metCfg
  | 0x108 => (s.core.prod .island).statWord
  | 0x204 => s.metRstat
  | _ =>
    match inBlock off 0x2000 4 1024 with
    | some (k, _) => pword m.rsp k
    | none =>
      if x.inReset then 0
      else match off with
      | 0x04 => x.evCnt
      | 0x08 => x.seq
      | 0x0C => BitVec.ofNat 32 ((x.retained.filter fun e => m.waiting.contains e.1).length)
      | 0x10 => x.sealCnt.setWidth 32
      | 0x60 => x.version
      | _ =>
        match inBlock off 0x20 4 8, inBlock off 0x40 4 8 with
        | some (k, _), _ => linkWord x.digest k
        | _, some (k, _) => pword (padTo 32 x.name) k
        | _, _ => 0

/-- PCIE (R341): the admin pair's registers. -/
def Core.pcieReg (c : Core) (off : Nat) : Word :=
  match inBlock off 0x200 4 3 with
  | some (k, _) => c.reg (admqAddr k) 0
  | none => 0

/-! ### Any register -/


/-- The live value of a register word; owned words read the current generation (R352). -/
def State.liveReg (s : State) (m : Master) (slot off : Nat) : Word :=
  let c := s.core
  if slot = 0x13 then s.metReg off
  else match ownedReg slot off 0 with
  | some _ => c.setting (sid slot off)
  | none =>
    match slot with
    | 0x00 => s.sysReg off
    | 0x01 => c.pwrReg m off
    | 0x03 => c.rstReg off
    | 0x04 => c.timeBlockReg m off
    | 0x05 => c.trigReg off
    | 0x06 => c.dealReg off
    | 0x07 => c.fioBlockReg m (off / 0x20000) (off % 0x20000)
    | 0x08 => (c.eth (BitVec.ofNat 3 (off / 0x20000))).reg (off % 0x20000)
    | 0x09 => (c.cxp (BitVec.ofNat 4 (off / 0x10000))).reg (off % 0x10000)
    | 0x0A => c.gdcBlockReg (off / 0x4000) (off % 0x4000)
    | 0x0B => c.qmgrReg off
    | 0x0C => c.hicReg m off
    | 0x0D => c.bicReg (BitVec.ofNat 6 (off / 0x4000)) (off % 0x4000)
    | 0x0E => c.errReg off
    | 0x0F => c.cfgReg off
    | 0x10 => c.tlReg (off / 0x40000) (off % 0x40000)
    | 0x11 => s.secReg off
    | 0x12 => c.mon.reg off
    | 0x14 => c.pcieReg off
    | _ => 0

/-- The low words of the 64-bit registers (R17). -/
def lowWord (slot off : Nat) : Bool :=
  let at_ (l : List Nat) : Bool := l.contains off
  let inst (o : Nat) (l : List Nat) : Bool := l.contains o
  match slot with
  | 0x01 => at_ [0x28, 0x30, 0x200, 0x208, 0x210, 0x480, 0x488]
  | 0x04 => at_ [0x00, 0x30, 0x38, 0x118] || (match inBlock off 0x20000 0x10 4096, inBlock off 0x60000 0x20 4096 with
      | some (_, o), _ => decide (o = 0)
      | _, some (_, o) => decide (o = 0x10)
      | _, _ => false)
  | 0x05 => decide (0x20000 ≤ off) && decide (off < 0x28000) && decide (off % 8 = 0)
  | 0x06 => (match dealUnitOff off with
      | some o => inst o [0x10, 0x18]
      | none => false)
  | 0x07 => (match inBlock (off % 0x20000) 0x200 0x20 8, serialAt (off / 0x20000) (off % 0x20000) with
      | some (_, o), _ => decide (o = 0x10)
      | _, some (j, o) => decide (o = 0x10) || (decide (o = 0x20) && !isSpi j)
      | _, _ => false)
  | 0x08 => inst (off % 0x20000) [0x04, 0x404] || (match inBlock (off % 0x20000) 0x200 0x20 16, inBlock (off % 0x20000) 0x1000 0x10 256 with
      | some (_, o), _ => decide (o = 0)
      | _, some (_, o) => decide (o = 8)
      | _, _ => false)
  | 0x09 => decide (off % 0x10000 = 0x10)
  | 0x0A => decide (off / 0x4000 < 36) && decide (off % 0x4000 = 0x08)
  | 0x0B => (match inBlock off 0xC0000 0x40 256 with
      | some (_, o) => decide (o = 0)
      | none => false)
  | 0x0E => at_ [0x10]
  | 0x0F => at_ [0x10, 0x18]
  | 0x11 => at_ [0x10]
  | 0x14 => at_ [0x200]
  | _ => false

/-- Reads with a side effect: the value, and the core after them (the RSE fields of R13). -/
def Core.rseRead (c : Core) (m : Master) (slot off : Nat) : Option (Word × Core) :=
  match slot with
  | 0x03 => if off = 0x30 then some c.readXstat else none
  | 0x04 =>
    (match inBlock off 0x10000 0x20 288 with
    | some (k, 0x08) => some (c.popCapture m (BitVec.ofNat 9 k))
    | _ => none)
  | 0x06 =>
    (match dealUnitOff off with
    | some 0x08 => some (c.readUerr (BitVec.ofNat 16 (off / 0x40)))
    | _ => none)
  | 0x07 =>
    (match inBlock (off % 0x20000) 0x200 0x20 8, serialAt (off / 0x20000) (off % 0x20000) with
    | some (l, 0x0C), _ => some (c.readIdx (BitVec.ofNat 6 (8 * (off / 0x20000) + l)))
    | _, some (j, 0x08) => if isSpi j then none else some (c.readSerial m j)
    | _, some (j, 0x0C) => if isSpi j then some (c.readSerial m j) else none
    | _, _ => none)
  | 0x0A => if off / 0x4000 < 36 ∧ off % 0x4000 = 4 then some (c.readGdcEcc (off / 0x4000)) else none
  | 0x0D =>
    (match inBlock (off % 0x4000) 0x800 4 32 with
    | some (t, _) => some (c.claim (BitVec.ofNat 6 (off / 0x4000)) (BitVec.ofNat 5 t))
    | none => none)
  | 0x0E => if off = 0x0C then some c.readErrLost else none
  | 0x10 => if off % 0x40000 = 8 then some (c.readTlCnt (BitVec.ofNat 2 (off / 0x40000))) else none
  | _ => none

def devAddr (slot off : Nat) : Addr := BitVec.ofNat 40 (regAt slot off)

/-- A read of a register word, with the shadows of R17. -/
def State.regRead (s : State) (m : Master) (slot off : Nat) : Word × Core :=
  let c := s.core
  match c.rseRead m slot off with
  | some r => r
  | none =>
    let v := s.liveReg m slot off
    if lowWord slot off then (v, c.setShadow m (devAddr slot off) (s.liveReg m slot (off + 4)))
    else if 4 ≤ off ∧ lowWord slot (off - 4) then ((c.shadow m (devAddr slot (off - 4))).getD v, c)
    else (v, c)

/-- The registers that a VF sees though it is no supervisor (R339). -/
def Core.seenReg (c : Core) (m : Master) (slot off : Nat) : Bool :=
  match m, slot with
  | .host _, 0x00 => true
  | .host _, 0x04 => decide (off < 8)
  | .host _, 0x0C => decide (off = 0x2000) || (decide (0x2100 ≤ off) && decide (off < 0x2200))
  | .host _, 0x0B =>
    (match inBlock off 0xC0000 0x40 256 with
    | some (h, _) => c.ownsPair m (BitVec.ofNat 8 h)
    | none => false)
  | _, _ => false

end Sys2Proof.Machine
end

