-- ==== Sys2Proof/Machine/RegWrite.lean ====
section
/-!
DEFINITION. Sys2Proof/Machine/RegWrite.lean: what a write of every register does (R13 to R17, R21, R42, R219, R339, and the register
tables of every chapter), by block slot and byte offset. A write of a read-only register, or of an offset that holds none, does nothing.
-/
namespace Sys2Proof.Machine

/-- A source takes the level that its register now shows, without an event. -/
def Core.refresh (c : Core) (src : BitVec 16) : Core := c.source src (c.sourceLevel src) false c.time.dtime

/-- A low word of a 64-bit register is staged for its master (R219). -/
def Core.stageLow (c : Core) (m : Master) (allowed : Bool) (slot off : Nat) (v : Word) : Core :=
  c.writeBy m allowed fun c => c.stage m (devAddr slot off) v

/-! ### The blocks -/

/-- AON RAM: Steward sprigs and host supervisor functions; its top 1 KiB Steward sprigs only (R424). -/
def Core.writeAonRam (c : Core) (m : Master) (k : Nat) (v : Word) : Core :=
  let steward : Bool := match m with | .sprig g => isSteward g | _ => false
  c.writeBy m (c.privileged m) fun c =>
    if 0xF00 ≤ k ∧ !steward then c else { c with aon := { c.aon with ram := Tbl.set c.aon.ram k v 0 } }

def Core.pwrWrite (c : Core) (m : Master) (off : Nat) (v : Word) : Core :=
  match off with
  | 0x00 => c.writeBy m true fun c => if v.getLsbD 29 then { c with aon := { c.aon with pgfail := false } } else c
  | 0x0C => c.writeBy m true fun c => { c with aon := { c.aon with wakeStat := c.aon.wakeStat &&& ~~~v } }
  | 0x24 => c.writeBy m true fun c => if v.getLsbD 30 then { c with aon := { c.aon with brown := false } } else c
  | 0x208 => c.stageLow m (c.privileged m) 0x01 0x208 v
  | 0x20C => c.writeBy m (c.privileged m) fun c =>
      (c.setHold (v ++ c.stagedLow m (devAddr 0x01 0x208))).stage m (devAddr 0x01 0x208) 0
  | _ =>
    match inBlock off aonRamBase 4 4096 with
    | some (k, _) => c.writeAonRam m k v
    | none => if 0x400 ≤ off ∧ off < 0x488 then c.writeBy m (c.privileged m) fun c => c.writeWatch m off v else c

def Core.rstWrite (c : Core) (m : Master) (off : Nat) (v : Word) : Core :=
  match off with
  | 0x00 => c.writeBy m true fun c =>
      { c with aon := { c.aon with causes := c.aon.causes &&& ~~~((v >>> 1).setWidth 4) }
               power := { c.power with porst := c.power.porst && !v.getLsbD 0 } }
  | 0x10 => c.writeWdog m v
  | 0x14 => c.kick m v
  | 0x20 => c.resetUnit m v
  | _ => c

/-- TIME_STAT is cleared by writing 1; sources 0x3401 and 0x3402 follow it. -/
def Core.clearTimeStat (c : Core) (v : Word) : Core :=
  (({ c with time := { c.time with stat := c.time.stat &&& ~~~(v.setWidth 5) } } : Core).refresh 0x3401).refresh 0x3402

/-- TIME_VC_STAT: the Steward writes VT while the slack rules do not act (R250); while CAPPED is 1 VT does not rise (R249). DESIGN CHOICE: a
code outside 20 to 90 is taken as written (log entry 69). -/
def Core.writeVt (c : Core) (m : Master) (v : Word) : Core :=
  c.writeBy m (match m with | .sprig g => isSteward g | _ => false) fun c =>
    let vt : Byte := (v >>> 16).setWidth 8
    if c.slackCtl.getLsbD 31 then c
    else { c with slack := { c.slack with vt := if c.slack.capped ∧ c.slack.vt < vt then c.slack.vt else vt } }

def Core.clearCmp (c : Core) (k : BitVec 12) (v : Word) : Core :=
  let x := c.cmp k
  (c.setCmp k { x with
    pend := x.pend && !v.getLsbD 30, ovr := x.ovr && !v.getLsbD 29, stepped := x.stepped && !v.getLsbD 28 }).refresh
      (0x1000#16 + k.setWidth 16)
def Core.clearDm (c : Core) (k : BitVec 12) (v : Word) : Core :=
  let x := c.dm k
  (c.setDm k { x with
    miss := x.miss && !v.getLsbD 30, stepped := x.stepped && !v.getLsbD 29, overrun := x.overrun && !v.getLsbD 28 }).refresh
      (0x2000#16 + k.setWidth 16)

def Core.timeWrite (c : Core) (m : Master) (off : Nat) (v : Word) : Core :=
  match off with
  | 0x08 => c.writeRate m v
  | 0x10 => c.stageLow m (c.privileged m) 0x04 0x10 v
  | 0x14 => c.writeBy m (c.privileged m) fun c =>
      (((c.setReg (regAt 0x04 0x10) (c.stagedLow m (devAddr 0x04 0x10)) 0).setReg (regAt 0x04 0x14) v 0)).stage m
        (devAddr 0x04 0x10) 0
  | 0x18 => c.stepGo m v
  | 0x1C => c.writeBy m true fun c => c.clearTimeStat v
  | 0x20 => c.writeQuality m v
  | 0x2C => c.writeBy m (c.privileged m) fun c => { c with time := { c.time with rtcPpm := v.setWidth 16 } }
  | 0x10C => c.writeVt m v
  | _ =>
    match inBlock off 0x10000 0x20 288, inBlock off 0x20000 0x10 4096, inBlock off 0x60000 0x20 4096 with
    | some (k, 0x04), _, _ => c.writeBy m true fun c =>
        let k := BitVec.ofNat 9 k
        if v.getLsbD 31 then c.setCap k { c.cap k with ovf := false } else c
    | _, some (k, o), _ =>
      let k : BitVec 12 := BitVec.ofNat 12 k
      (match o with
      | 0x00 => c.writeBy m true fun c => c.stage m (cmpAddr k) v
      | 0x04 => c.writeCmpHi m k v
      | 0x08 => c.writeCmpPer m k v
      | 0x0C => c.writeBy m true fun c => c.clearCmp k v
      | _ => c)
    | _, _, some (k, o) =>
      let k : BitVec 12 := BitVec.ofNat 12 k
      (match o with
      | 0x08 => c.writeBy m true fun c => c.clearDm k v
      | 0x10 => c.writeBy m true fun c => c.stage m (dmAddr k) v
      | 0x14 => c.writeDmDl m k v
      | _ => c)
    | _, _, _ => c

def Core.trigWrite (c : Core) (m : Master) (off : Nat) (v : Word) : Core :=
  match inBlock off 0x30000 4 8, inBlock off 0x30020 4 8 with
  | some (w, _), _ => c.swset m (BitVec.ofNat 3 w) v
  | _, some (w, _) => c.swclr m (BitVec.ofNat 3 w) v
  | _, _ => c

def Core.dealWrite (c : Core) (m : Master) (off : Nat) (v : Word) : Core :=
  match dealUnitOff off with
  | some 0x0C => if v.getLsbD 31 then c.flushUnit m (BitVec.ofNat 16 (off / 0x40)) else c
  | _ => c

/-- Whether the data input of SSI master j is low: pin FIO129 + 2 j, or pair LV2j+1 with SRC set (R254, R260). -/
def Core.ssiLow (c : Core) (j : BitVec 6) : Bool :=
  if (c.serCfg j).getLsbD 30 then !c.lvNow (2 * j.toNat + 1)
  else
    let n := 129 + 2 * j.toNat
    !c.pinNow n

/-- W1C bits of SSI_STAT and SPI_STAT. -/
def Core.clearSerial (c : Core) (j : BitVec 6) (v : Word) : Core :=
  let x := c.serial j
  c.setSerial j { x with skipped := x.skipped && !v.getLsbD 30, notReady := x.notReady && !v.getLsbD 29 }

/-- Half of the transmit word. -/
def Core.writeTx (c : Core) (j : BitVec 6) (hi : Bool) (v : Word) : Core :=
  let x := c.serial j
  c.setSerial j { x with tx := if hi then v ++ (x.tx.setWidth 32 : Word) else ((x.tx >>> 32).setWidth 32 : Word) ++ v }

def Core.serialWrite (c : Core) (m : Master) (j : BitVec 6) (o : Nat) (v : Word) : Core :=
  match o with
  | 0x08 => if isSpi j then c.writeBy m true fun c => c.writeTx j false v else c
  | 0x18 => c.writeBy m true fun c => c.clearSerial j v
  | 0x1C => if v.getLsbD 31 then c.serialGo m j (!isSpi j && c.ssiLow j) else c
  | 0x20 => if isSpi j then c else c.writeBy m true fun c => c.writeTx j false v
  | 0x24 => if isSpi j then c else c.writeBy m true fun c => c.writeTx j true v
  | _ => c

def Core.fioWrite (c : Core) (m : Master) (k off : Nat) (v : Word) : Core :=
  let kb : BitVec 3 := BitVec.ofNat 3 k
  match off with
  | 0x104 => c.writeBy m true fun c => c.setBank kb { c.bank kb with out := v }
  | 0x108 => c.oset m kb v
  | 0x10C => c.oclr m kb v
  | 0x110 => c.writeBy m true fun c => if v.getLsbD 29 then c.setBank kb { c.bank kb with fault := false } else c
  | _ =>
    if k = 7 ∧ off = 0x10104 then c.writeBy m true fun c => { c with lvOut := v }
    else match inBlock off 0x200 0x20 8, serialAt k off with
      | some (l, o), _ =>
        let q : BitVec 6 := BitVec.ofNat 6 (8 * k + l)
        (match o with
        | 0x08 => c.qdPreset m q v
        | 0x1C => c.writeBy m true fun c =>
            let x := c.qd q
            c.setQd q { x with err := x.err && !v.getLsbD 31, iovr := x.iovr && !v.getLsbD 30 }
        | _ => c)
      | _, some (j, o) => c.serialWrite m j o v
      | _, _ => c

/-- The four event bits of ETH_STAT, whose levels follow them. -/
def Core.clearEth (c : Core) (p : BitVec 3) (v : Word) : Core :=
  let x := c.eth p
  let c := c.setEth p { x with
    lchg := x.lchg && !v.getLsbD 3, cyc := x.cyc && !v.getLsbD 2, txdone := x.txdone && !v.getLsbD 1, arr := x.arr && !v.getLsbD 0 }
  (List.range 4).foldl (fun c e => c.refresh (ethSource p e)) c

def Core.ethWrite (c : Core) (m : Master) (p : BitVec 3) (off : Nat) (v : Word) : Core :=
  if off = 0x0C then c.writeBy m true fun c => c.clearEth p v
  else match inBlock off 0x80 4 8, inBlock off 0x200 0x20 16, inBlock off 0x1000 0x10 256 with
    | some (k, _), _, _ => c.ethQueue m p (BitVec.ofNat 3 k) v
    | _, some (r, 0x0C), _ => c.writeBy m true fun c =>
        let x := c.eth p
        c.setEth p { x with head := Tbl.set x.head r (BitVec.ofNat 13 (v.toNat % 2 ^ ((c.rxRing p r).log2 + 1))) 0 }
    | _, _, some (i, 0x00) => c.ethDesc m p (BitVec.ofNat 8 i) v
    | _, _, _ => if 0x10000 ≤ off then c.writeBy m true fun c => c.setEth p ((c.eth p).setMem (off - 0x10000) (bytesOf v 4)) else c

/-- The four event bits of CXP_STAT. -/
def Core.clearCxp (c : Core) (k : BitVec 4) (v : Word) : Core :=
  let x := c.cxp k
  let c := c.setCxp k { x with
    trigsent := x.trigsent && !v.getLsbD 3, line := x.line && !v.getLsbD 2, fend := x.fend && !v.getLsbD 1
    fstart := x.fstart && !v.getLsbD 0 }
  (List.range 4).foldl (fun c e => c.refresh (cxpSource k e)) c

def Core.cxpWrite (c : Core) (m : Master) (k : BitVec 4) (off : Nat) (v : Word) : Core :=
  match off with
  | 0x04 => c.writeBy m true fun c => c.clearCxp k v
  | 0x1C => c.writeBy m true fun c => c.setCxp k { c.cxp k with rhead := v.setWidth 8 }
  | _ => c

def Core.qmgrWrite (c : Core) (m : Master) (off : Nat) (v : Word) : Core :=
  if off = 0xD0000 then c.qreset m v
  else match inBlock off 0xC0000 0x40 256 with
    | some (h, 0x10) => c.writeItail m (BitVec.ofNat 8 h) v
    | some (h, 0x1C) => c.writeOhead m (BitVec.ofNat 8 h) v
    | _ => c

def Core.bicWrite (c : Core) (m : Master) (b : BunchId) (off : Nat) (v : Word) : Core :=
  match off with
  | 0xA04 => c.writeBy m true fun c =>
      if v.getLsbD 31 then c.setBic b { c.bic b with stranded := false, spurious := 0 } else c
  | 0x3000 => c.dmaSubmit m b v
  | 0x3004 => c.writeBy m true fun c => if v.getLsbD 30 then c.setDma b { c.dma b with lvl := false } else c
  | _ =>
    match inBlock off 0x400 4 8, inBlock off 0x420 4 8, inBlock off 0x880 4 32, inBlock off 0x900 4 32 with
    | some (w, _), _, _, _ => c.bicEnset m b (BitVec.ofNat 3 w) v
    | _, some (w, _), _, _ => c.bicEnclr m b (BitVec.ofNat 3 w) v
    | _, _, some _, _ => c.bicComplete m b v
    | _, _, _, some (t, _) => c.writeBy m true fun c =>
        c.setBic b { c.bic b with thresh := Tbl.set (c.bic b).thresh t (v &&& 0xF#32) 0 }
    | _, _, _, _ => c

/-- ERR_LEASE_CTL: CMD 1 TAKE, 2 RELEASE, 3 ACK (R174). -/
def Core.leaseCmd (c : Core) (m : Master) (b : BunchId) (l : BitVec 2) (v : Word) : Core :=
  match field v 30 2 with
  | 1 => c.takeLease m b l v
  | 2 => c.releaseLease m b l
  | 3 => c.ackLease m b l
  | _ => c

def Core.errWrite (c : Core) (m : Master) (off : Nat) (v : Word) : Core :=
  match off with
  | 0x04 => c.writeErrAck m v
  | 0x10 => c.writeErrHq m 0x10 v
  | 0x14 => c.writeErrHq m 0x14 v
  | 0x18 => c.writeErrHq m 0x18 v
  | 0x20 => c.writeErrHead m v
  | _ =>
    match inBlock off 0x20000 0x100 64 with
    | some (b, o) => if o < 0x40 ∧ o % 0x10 = 0 then c.leaseCmd m (BitVec.ofNat 6 b) (BitVec.ofNat 2 (o / 0x10)) v else c
    | none => c

def Core.cfgWrite (c : Core) (m : Master) (off : Nat) (v : Word) : Core :=
  if off = 0x08 then c.writeBy m (match m with | .sprig g => isSteward g | _ => false) fun c =>
    { c with store := { c.store with
        isolated := c.store.isolated && !v.getLsbD 29, split := c.store.split && !v.getLsbD 28 } }
  else c

def Core.tlWrite (c : Core) (m : Master) (t off : Nat) (v : Word) : Core :=
  let p : BitVec 2 := BitVec.ofNat 2 t
  if off = 0x04 then c.writeBy m true fun c =>
    if v.getLsbD 19 then c.setTlPort p { c.tlPort p with lchg := false } else c
  else if t = 0 ∧ off = 0x21200 then c.writeRdma m v
  else c

/-- The rates that the monitor port accepts (R471). -/
def baudOk (r : Nat) : Bool := [115200, 230400, 460800, 921600, 1000000, 2000000, 3000000].contains r

def Core.monWrite (c : Core) (m : Master) (off : Nat) (v : Word) : Core :=
  match off with
  | 0x00 => c.writeBy m (match m with | .sprig g => isSteward g | _ => false) fun c =>
      if baudOk (field v 0 24) then { c with mon := { c.mon with baud := v.setWidth 24 } } else c
  | 0x04 => c.writeBy m true fun c => if v.getLsbD 29 then { c with mon := { c.mon with overrun := false } } else c
  | _ => c

def Core.pcieWrite (c : Core) (m : Master) (off : Nat) (v : Word) : Core :=
  match off with
  | 0x200 => c.writeBy m (decide (m = .host 0)) fun c => c.setReg (admqAddr 0) (v &&& 0xFFFFF000#32) 0
  | 0x204 => c.writeBy m (decide (m = .host 0)) fun c => c.setReg (admqAddr 1) v 0
  | 0x208 => c.writeAdmq m v
  | _ => c

/-- A write of a register that no hand owns, in the blocks of the core domain. -/
def Core.coreWrite (c : Core) (m : Master) (slot off : Nat) (v : Word) : Core :=
  match slot with
  | 0x01 => c.pwrWrite m off v
  | 0x03 => c.rstWrite m off v
  | 0x04 => c.timeWrite m off v
  | 0x05 => c.trigWrite m off v
  | 0x06 => c.dealWrite m off v
  | 0x07 => c.fioWrite m (off / 0x20000) (off % 0x20000) v
  | 0x08 => c.ethWrite m (BitVec.ofNat 3 (off / 0x20000)) (off % 0x20000) v
  | 0x09 => c.cxpWrite m (BitVec.ofNat 4 (off / 0x10000)) (off % 0x10000) v
  | 0x0B => c.qmgrWrite m off v
  | 0x0C => if off = 0x2000 then c.hicComplete m v else c
  | 0x0D => c.bicWrite m (BitVec.ofNat 6 (off / 0x4000)) (off % 0x4000) v
  | 0x0E => c.errWrite m off v
  | 0x0F => c.cfgWrite m off v
  | 0x10 => c.tlWrite m (off / 0x40000) (off % 0x40000) v
  | 0x12 => c.monWrite m off v
  | 0x14 => c.pcieWrite m off v
  | _ => c

/-- SEC_EXTBUF. -/
def Core.writeExt (c : Core) (k : Nat) (v : Word) : Core := { c with boot := { c.boot with ext := Tbl.set c.boot.ext k v 0 } }

def State.secWrite (s : State) (m : Master) (off : Nat) (v : Word) : State :=
  match off with
  | 0x0C => s.advanceRb m v
  | 0x420 => { s with core := s.core.measExt m v }
  | 0x424 => s.otp m v
  | _ =>
    match inBlock off 0x400 4 8 with
    | some (k, _) => s.stewardWrite m fun s => { s with core := s.core.writeExt k v }
    | none => s

def State.metWrite (s : State) (m : Master) (off : Nat) (v : Word) : State :=
  if off = 0x200 then s.writeRqctl m v
  else if 0x1000 ≤ off ∧ off < 0x2000 then s.writeReqBuf m (off - 0x1000) v
  else s

/-- Whether a hand owns the register, so that a write of it is ignored and logged (R21); without an island no register of MET is there
(R3). -/
def State.handOwned (s : State) (slot off : Nat) : Bool :=
  (ownedReg slot off 0).isSome && (decide (slot ≠ 0x13) || s.isl.enabled)

/-- A write of a register word. -/
def State.regWrite (s : State) (m : Master) (slot off : Nat) (v : Word) : State :=
  let c := s.core
  if c.frozenMaster m then s
  else if !c.seesAll m && !c.seenReg m slot off then s
  else if s.handOwned slot off then { s with core := c.ignoredReg m 21 slot off }
  else match slot with
    | 0x11 => s.secWrite m off v
    | 0x13 => s.metWrite m off v
    | _ => { s with core := c.coreWrite m slot off v }

end Sys2Proof.Machine
end

