-- ==== Sys2Proof/Machine/RegFam.lean ====
section
/-!
DEFINITION. Sys2Proof/Machine/RegFam.lean: the debug view, the control-store region, register and unmapped accesses, and the returns of far
accesses (R17, R20, R37 to R42, R52 to R57, R70, R127 to R130).
-/
namespace Sys2Proof.Machine

/-! ### The debug view (R38, R39, R54, R158) -/

/-- A read that a gated bunch holds up, or a part in QUIESCE refuses (R386, R410). -/
def Core.debugRead (c : Core) (m : Master) (a : Nat) : Core :=
  let b := bunchOf (viewSprig a)
  if c.quiet (.bunch b) then c.answer m 0 true false
  else c.reach b fun c =>
    let (bs, p, c') := c.viewRead a 4
    c'.answer m (wordOf bs) p false

/-- DEBUG_VIEW_READ: a host's comes through its BAR4 window (R43). A frozen function's read ends as a Completer Abort; a peer's windows reach no locals (R381, R439). -/
def execDebugViewRead (m : Master) (a : Addr) (s : State) : Out :=
  onCoreIf (isLocals a.toNat) (fun c =>
    match m with
    | .peer _ => c
    | _ =>
      if !c.bar4Reaches m a.toNat 4 then c
      else if c.frozenMaster m then c.answer m 0 false true else c.debugRead m a.toNat) s

def Core.debugWrite (c : Core) (m : Master) (a : Nat) (bs : List Byte) : Core :=
  let b := bunchOf (viewSprig a)
  if c.quiet (.bunch b) then c.logAbandoned m a else c.reach b fun c => c.viewWrite m a bs

/-- DEBUG_VIEW_WRITE. -/
def execDebugViewWrite (m : Master) (a : Addr) (v : Word) (s : State) : Out :=
  onCoreIf (isLocals a.toNat) (fun c =>
    match m with
    | .peer _ => c
    | _ => if !c.bar4Reaches m a.toNat 4 || c.frozenMaster m then c else c.debugWrite m a.toNat (bytesOf v 4)) s

/-! ### Control stores (R38, R40, R127, R130) -/

/-- CONTROL_STORE_WRITE: the boot ROM and Steward sprigs; a host's write is discarded as a Completer Abort (R40). -/
def Core.storeAccess (c : Core) (m : Master) (a : Nat) (v : Word) : Core :=
  match m with
  | .sprig g => c.writeBy m (isSteward g) fun c => c.storeWrite m a (bytesOf v 4)
  | .bootRom => c.storeWrite m a (bytesOf v 4)
  | .host _ => if c.bar4Reaches m a 4 then c.answer m 0 false true else c
  | _ => c

def execControlStoreWrite (m : Master) (a : Addr) (v : Word) (s : State) : Out :=
  onCoreIf (isStore a.toNat || isAlias a.toNat) (fun c => c.storeAccess m a.toNat v) s

/-! ### Unmapped addresses (R41) -/

/-- UNMAPPED_READ. A peer's windows reach memory alone (R439). -/
def execUnmappedRead (m : Master) (a : Addr) (s : State) : Out :=
  onCoreIf (!mapped a) (fun c =>
    if !c.bar4Reaches m a.toNat 4 then c else
    match m with
    | .host _ => if c.frozenMaster m then c.answer m 0 false true else (c.logRead m a).answer m 0 false false
    | _ => (c.logRead m a).answer m 0 false false) s

/-- UNMAPPED_WRITE: the master is frozen; a poke of the monitor's freezes nothing (R473). -/
def execUnmappedWrite (m : Master) (a : Addr) (_v : Word) (s : State) : Out :=
  onCoreIf (!mapped a) (fun c =>
    if !c.bar4Reaches m a.toNat 4 then c else
    match m with
    | .monitor => c.logRead m a
    | .host _ => if c.frozenMaster m then c else c.freezeMaster m causePerm
    | _ => c.freezeMaster m causePerm) s

/-! ### Registers (R13 to R17) -/

/-- An access of another size than 32 bits, or at an unaligned offset (R14). -/
def misfit (a : Addr) (how : RegAcc) : Bool := decide (how.size ≠ 4) || decide (a.toNat % 4 ≠ 0)

/-- Such an access changes no register: a host's ends as a Completer Abort; a sprig takes the ALIGN fault, at the far-window address whose low
bits the access has (R14; log entry 79). -/
def Core.refuseMisfit (c : Core) (m : Master) (a : Addr) : Core :=
  match m with
  | .host _ => c.answer m 0 false true
  | .sprig g => if (c.sprig g).issues then c.raise g vecAlign 0x01 (some (0xE000#32 ||| (a.setWidth 12).setWidth 32)) else c
  | _ => c

/-- The BAR2 window of pair h reads its indices, for the function that owns the pair (R340). -/
def Core.windowRead (c : Core) (m : Master) (a : Nat) : Word :=
  let h : BitVec 8 := BitVec.ofNat 8 (a / 16)
  let x := c.hqp h
  if !c.windowShows m h then 0
  else match a % 16 with
    | 0 => x.itail.setWidth 32
    | 4 => x.ihead.setWidth 32
    | 8 => x.otail.setWidth 32
    | _ => x.ohead.setWidth 32

/-- A write through the window: a doorbell of a pair that the function owns (R340). -/
def Core.windowWrite (c : Core) (m : Master) (a : Nat) (v : Word) : Core :=
  let h : BitVec 8 := BitVec.ofNat 8 (a / 16)
  if !c.windowShows m h then c
  else match a % 16 with
    | 0 => c.writeItail m h v
    | 12 => c.writeOhead m h v
    | _ => c

/-- REGISTER_WRITE. -/
def execRegisterWrite (m : Master) (a : Addr) (v : Word) (how : RegAcc) (s : State) : Out :=
  if !accessExists m a how then .fault .illFormed
  else if misfit a how then onCore (fun c => c.refuseMisfit m a) s
  else if how.window then onCore (fun c => c.windowWrite m a.toNat v) s
  else .next (s.regWrite m (slotOf a) (offOf a) v)

/-- LOW_WORD_READ: a read of any register; the low word of a 64-bit register leaves its high word in the master's shadow. -/
def execLowWordRead (m : Master) (a : Addr) (how : RegAcc) (s : State) : Out :=
  if !accessExists m a how then .fault .illFormed
  else if misfit a how then onCore (fun c => c.refuseMisfit m a) s
  else if how.window then onCore (fun c => c.readBy m true fun c => (c.windowRead m a.toNat, c)) s
  else onCore (fun c => c.readBy m (c.seenReg m (slotOf a) (offOf a)) fun _ => s.regRead m (slotOf a) (offOf a)) s

/-! ### Far accesses (R52, R53, R57, R70) -/

/-- What a read of device memory or an unmapped address gives a sprig, or the monitor, whose reads take no side effect of a register
(R20): `none` while it stalls. -/
def State.farRead (s : State) (m : Master) (a : Addr) (n : Nat) : Option (List Byte × Bool × Core) :=
  let c := s.core
  let k := a.toNat
  if isMem k then (if c.memAvail k = .ok then some (c.readMem k n) else none)
  else if isScratch k then
    (if c.asleep (scratchBunch k) then none else some ((c.reach (scratchBunch k) id).unitRead whoHost k n))
  else if isLocals k then
    (if c.asleep (bunchOf (viewSprig k)) then none else some ((c.reach (bunchOf (viewSprig k)) id).viewRead k n))
  else if isStore k || isAlias k then some (c.storeRead m k n, false, c)
  else if inRegs a then
    let (v, c') := s.regRead m (slotOf a) (offOf a)
    some (bytesOf v n, false, if m = .monitor then c else c')
  else some (List.replicate n 0, false, c.logRead m a)

/-- The far load of sprig g returns. -/
def State.loadReturn (s : State) (g : SprigId) : Core :=
  match (s.core.sprig g).farLoad with
  | none => s.core
  | some f =>
    if s.core.refused f.addr.toNat then s.core.abandonLoad g
    else match s.farRead (.sprig g) f.addr f.size with
      | none => s.core
      | some (bs, p, c) => c.endFarLoad g (extend bs f.signed) p

/-- FAR_LOAD_RETURN. -/
def execFarLoadReturn (g : SprigId) (s : State) : Out := .next { s with core := s.loadReturn g }

/-- A write of a sprig or of the monitor reaches its target: `none` while it stalls. A supervisor's write to the setting-page views is
discarded (R353). -/
def State.farWrite (s : State) (m : Master) (a : Addr) (bs : List Byte) : Option State :=
  let c := s.core
  let k := a.toNat
  let put (c : Core) : Option State := some { s with core := c }
  if isMem k then (if c.memAvail k = .ok then put (c.writeMem k bs false) else none)
  else if isScratch k then
    (if c.asleep (scratchBunch k) then none
    else put (let c := c.reach (scratchBunch k) id
      if inPages (scratchOffset k) then c else c.unitWrite whoHost k bs false))
  else if isLocals k then
    (if c.asleep (bunchOf (viewSprig k)) then none else put (c.debugWrite m k bs))
  else if isStore k || isAlias k then put (c.storeWrite m k bs)
  else if inRegs a then some (s.regWrite m (slotOf a) (offOf a) (wordOf bs))
  else some s

/-- The far store of sprig g is accepted, and takes effect. -/
def State.storeAccepted (s : State) (g : SprigId) : State :=
  match (s.core.sprig g).farStore with
  | none => s
  | some f =>
    if s.core.refused f.addr.toNat then { s with core := s.core.abandonStore g }
    else match s.farWrite (.sprig g) f.addr f.data with
      | none => s
      | some s' => { s' with core := s'.core.endFarStore g }

/-- FAR_STORE_ACCEPT. -/
def execFarStoreAccept (g : SprigId) (s : State) : Out := .next (s.storeAccepted g)

/-- Slot k of the frame. -/
def Dest.isSlotK (d : Dest) (k : BitVec 2) : Bool :=
  match d with
  | .slot _ n => decide (n = k)
  | _ => false

/-- FRAME_SLOT_RETURN: the operation whose result goes to slot k of a frame returns it. -/
def execFrameSlotReturn (g : SprigId) (k : BitVec 2) (s : State) : Out :=
  let x := s.core.sprig g
  if (match x.farLoad with | some f => f.dst.isSlotK k | none => false) then .next { s with core := s.loadReturn g }
  else if (match x.div with | some d => d.dq.isSlotK k || d.dr.isSlotK k | none => false) then onCore (fun c => c.divReturn g) s
  else if (match x.atomics with | t :: _ => t.dst.isSlotK k | [] => false) then onCore (fun c => c.atomicReturn g) s
  else .next s

end Sys2Proof.Machine
end

