-- ==== Sys2Proof/Machine/MonFam.lean ====
section
/-!
DEFINITION. Sys2Proof/Machine/MonFam.lean: the monitor's commands (spec/18_boot_and_security.md, R471 to R475). The Steward serves them; its
answer to the latest stands in `mon.answer`: the words or the text printed before ok, or the name after er.
-/
namespace Sys2Proof.Machine

def Core.monReply (c : Core) (r : MonReply) : Core := { c with mon := { c.mon with answer := some r } }
def Core.monEr (c : Core) (name : String) : Core := c.monReply (.er name)

/-- A command that is open while the monitor is locked. -/
def Core.served (c : Core) (k : Core → Core) : Core := if c.boot.steward then k c else c

/-- A command that needs the monitor unlocked. -/
def Core.unlocked (c : Core) (k : Core → Core) : Core := c.served fun c => if c.mon.locked then c.monEr "locked" else k c

/-! ### Reports -/

/-- The lines of `id`: ordering code, serial, device ID, stepping, microcode and patch versions, island firmware identity (R317, R472). -/
def State.monIdText (s : State) : List Byte :=
  s.orderingCode ++ newline ++ hexNumber s.sec.serial 8 ++ newline ++ hexNumber (s.core.dev.setWidth 16) 2 ++ newline
    ++ hexNumber Config.stepping 1 ++ newline ++ versionText (s.core.versionOf kindBase) ++ newline
    ++ versionText (s.core.versionOf kindPatch) ++ newline
    ++ (if s.isl.enabled then
      s.isl.name ++ newline ++ versionText s.isl.version ++ newline ++ hexBytes (digestBytes s.isl.digest) ++ newline
    else [])

/-- MON_ID. -/
def execMonId (s : State) : Out := onCore (fun c => c.served fun c => c.monReply (.text s.monIdText)) s

/-- The words of a card. -/
def cardList (w : CardWords) : List Word := [w.w0, w.w1, w.w2, w.w3, w.w4, w.w5, w.w6, w.w7]

/-- The latest n entries, oldest first (R472). -/
def Core.latestEntries (c : Core) (n : Nat) : List Word :=
  (List.range n).reverse.flatMap fun k =>
    match c.err.entry (c.err.tail - BitVec.ofNat 11 (k + 1)) with
    | some e => cardList (e.card (c.prod .errorEngine).epoch)
    | none => []

/-- MON_ERR. -/
def execMonErr (n : BitVec 7) (s : State) : Out :=
  onCore (fun c => c.served fun c =>
    if 1 ≤ n.toNat ∧ n.toNat ≤ 64 then c.monReply (.ok (c.latestEntries n.toNat)) else c.monEr "range") s

/-- MON_TIME. -/
def execMonTime (s : State) : Out :=
  onCore (fun c => c.served fun c =>
    c.monReply (.ok [(c.time.dtime >>> 32).setWidth 32, c.time.dtime.setWidth 32, c.time.qual.setWidth 32, c.time.uncert])) s

/-- MON_Q: QMGR_QSTAT and QMGR_QCFG. -/
def execMonQ (i : QueueId) (s : State) : Out := onCore (fun c => c.unlocked fun c => c.monReply (.ok [c.queueStat i, c.qcfg i])) s

/-- PWR: PWR_STATE, TIME_VC_STAT, PWR_PIN and PWR_DIP_COUNT. -/
def execPwr (s : State) : Out :=
  onCore (fun c => c.unlocked fun c =>
    c.monReply (.ok [c.pwrReg .monitor 0, c.vcStat, c.slack.pin.setWidth 32, c.aon.dipCount])) s

/-! ### The lock (R474) -/

/-- Ticks of DTIME for which a challenge stands: 60 s. -/
def challengeTicks : Nat := 480000000000

/-- Bytes in groups of eight hexadecimal digits, with spaces between. -/
def hexGroups (bs : List Byte) : List Byte :=
  (List.range ((bs.length + 3) / 4)).flatMap fun k =>
    (if k = 0 then [] else [(0x20 : Byte)]) ++ hexBytes ((bs.drop (4 * k)).take 4)

/-- `unlock` alone: any earlier challenge is consumed, and 32 new random bytes are printed. -/
def State.newChallenge (s : State) : Core :=
  let c : Core := { s.core with mon := { s.core.mon with challenge := none } }
  if !s.sec.dbgSet then c.monEr "nokey"
  else
    let x := padTo 32 (Config.challenge c.free)
    { c with free := c.free + 1, mon := { c.mon with challenge := some (x, c.time.dtime), answer := some (.text (hexGroups x)) } }

/-- Whether a key and a signature answer the challenge. -/
def State.unlocks (s : State) (key sig : List Byte) : Bool :=
  match s.core.mon.challenge with
  | none => false
  | some (x, at_) =>
    decide ((s.core.time.dtime - at_).toNat ≤ challengeTicks) && decide (key.length = 1312) && decide (sig.length = 2420)
      && decide (Config.sha3 key = s.sec.dbgHash)
      && Config.mldsaVerify key (digestBytes (Config.sha3 ([0x4D, 0x51, 0x55, 0x4C] ++ x ++ bytesOf s.sec.serial 8))) sig

/-- An attempt, which consumes the challenge and leaves a MON_UNLOCK entry. -/
def State.attempt (s : State) (key sig : List Byte) : Core :=
  let c := s.core
  let m := { c.mon with challenge := none }
  if s.sec.dbgSet && s.unlocks key sig then
    ({ c with mon := { m with locked := false, answer := some (.ok []) } }).logSec 0 0x0111 1
  else
    ({ c with mon := { m with
        fails := if m.fails = 0xFF#8 then m.fails else m.fails + 1
        answer := some (.er (if s.sec.dbgSet then "fail" else "nokey")) } }).logSec 0 0x0111 0

/-- UNLOCK. -/
def execUnlock (arg : Option (List Byte × List Byte)) (s : State) : Out :=
  onCore (fun c => c.served fun _ => match arg with
    | none => s.newChallenge
    | some (key, sig) => s.attempt key sig) s

/-- The debugger's halt-on-break of sprig g. -/
def Core.setBreak (c : Core) (g : SprigId) (on : Bool) : Core := c.modSprig g fun s => { s with req := { s.req with haltOnBreak := on } }

/-- No sprig is held any more. -/
def Core.dropBreaks (c : Core) : Core :=
  (c.sprigs.filter fun e => e.2.req.haltOnBreak).foldl (fun c e => c.setBreak (BitVec.ofNat 11 e.1) false) c

/-- LOCK. The monitor's halt-on-break ends with its session (log entry 75). -/
def execLock (s : State) : Out :=
  onCore (fun c => c.served fun c => { c.dropBreaks with mon := { c.mon with locked := true, answer := some (.ok []) } }) s

/-! ### The line (R460, R471) -/

/-- The rate changes after the answer, for one of the rates of R471. -/
def Core.setBaud (c : Core) (r : BitVec 24) : Core :=
  if baudOk r.toNat then { c with mon := { c.mon with baud := r, answer := some (.ok []) } } else c.monEr "range"

/-- BAUD: of the monitor unlocked, or of the boot ROM in serial recovery (R460). -/
def execBaud (r : BitVec 24) (s : State) : Out :=
  onCore (fun c => if c.boot.phase = .recovery then c.setBaud r else c.unlocked fun c => c.setBaud r) s

/-- OVERRUN: 256 characters are buffered, the line is discarded. -/
def execOverrun (s : State) : Out :=
  onCore (fun c => c.served fun c => { c with mon := { c.mon with overrun := true, answer := some (.er "overrun") } }) s

/-! ### Memory (R473) -/

/-- Words read from a device address upwards: `none` while one stalls, `some none` when a part refuses one (R386). -/
def State.peekWords (s : State) (a : Nat) : Nat → Option (Option (List Word × Core))
  | 0 => some (some ([], s.core))
  | n + 1 =>
    if s.core.refused a then some none
    else match s.farRead .monitor (BitVec.ofNat 40 a) 4 with
      | none => none
      | some (bs, _, c) =>
        match State.peekWords { s with core := c } (a + 4) n with
        | some (some (ws, c')) => some (some (wordOf bs :: ws, c'))
        | r => r

/-- PEEK: n aligned words; it waits for a bunch that wakes. -/
def execPeek (a : Addr) (n : Nat) (s : State) : Out :=
  onCore (fun c => c.unlocked fun c =>
    if n < 1 ∨ 256 < n ∨ a.toNat % 4 ≠ 0 ∨ 2 ^ 40 < a.toNat + 4 * n then c.monEr "range"
    else match s.peekWords a.toNat n with
      | none => c
      | some none => c.monEr "fail"
      | some (some (ws, c')) => c'.monReply (.ok ws)) s

/-- Writes that a poke may not make. -/
def pokeDenied (a : Addr) : Bool :=
  isStore a.toNat || isAlias a.toNat
    || (inRegs a && (match slotOf a with
      | 0x01 => decide (0x13C00 ≤ offOf a) && decide (offOf a < 0x14000)
      | 0x11 => true
      | 0x13 => decide (offOf a = 0x200) || (decide (0x1000 ≤ offOf a) && decide (offOf a < 0x2000))
      | _ => false))

/-- A poke that may be made. -/
def State.poke (s : State) (a : Addr) (v : Word) : State :=
  if s.core.refused a.toNat then { s with core := (s.core.logAbandoned .monitor a.toNat).monEr "fail" }
  else match s.farWrite .monitor a (bytesOf v 4) with
    | none => s
    | some s' => { s' with core := s'.core.monReply (.ok []) }

/-- POKE: one 32-bit write; one to an unmapped address is logged and freezes nothing. -/
def execPoke (a : Addr) (v : Word) (s : State) : Out :=
  .next (
    if !s.core.boot.steward then s
    else if s.core.mon.locked then { s with core := s.core.monEr "locked" }
    else if a.toNat % 4 ≠ 0 then { s with core := s.core.monEr "range" }
    else if !mapped a then { s with core := (s.core.logRead .monitor a).monEr "denied" }
    else if pokeDenied a then { s with core := s.core.monEr "denied" }
    else s.poke a v)

/-! ### Sprigs (R472, R473) -/

/-- The monitor's word for a command's status. -/
def Reply.mon (r : Reply) : MonReply :=
  if r.status = stOk then .ok []
  else if r.status = stFrozen then .er "frozen"
  else if r.status = stDenied then .er "denied"
  else .er "fail"

/-- A sprig command, carried out as the command packet of the same name; it waits for a bunch that wakes. -/
def Core.monSprig (c : Core) (g : SprigId) (k : Core → Args → Core × Option Reply) : Core :=
  c.unlocked fun c =>
    if c.asleep (bunchOf g) then c
    else
      let own := bytesOf (g.setWidth 32 : Word) 4
      match k c ⟨{ words := [] }, own, []⟩ with
      | (c', some r) => c'.monReply r.mon
      | (c', none) => c'

/-- A debugger's command: where it succeeds the monitor holds halt-on-break of the sprig, until LOCK or the sprig's reset. DESIGN CHOICE: the
spec names no command that takes it (R66, R79; log entry 75). -/
def Core.debugs (k : Core → Args → Core × Option Reply) (c : Core) (a : Args) : Core × Option Reply :=
  match k c a with
  | (c', some r) => (if r.status = stOk then c'.setBreak ((a.w 0).setWidth 11) true else c', some r)
  | x => x

/-- MON_HALT, MON_STEP, MON_RUN. -/
def execMonHalt (g : SprigId) (s : State) : Out := onCore (fun c => c.monSprig g (Core.debugs Core.cmdHalt)) s
def execMonStep (g : SprigId) (s : State) : Out := onCore (fun c => c.monSprig g (Core.debugs Core.cmdStep)) s
def execMonRun (g : SprigId) (s : State) : Out := onCore (fun c => c.monSprig g Core.cmdStart) s

/-- REGS: the register image (R54). -/
def execRegs (g : SprigId) (s : State) : Out :=
  onCore (fun c => c.unlocked fun c =>
    if isSteward g then c.monEr "denied"
    else if c.asleep (bunchOf g) then c
    else c.monReply (.ok ((List.range 44).map fun k => (c.sprig g).imageWord k))) s

end Sys2Proof.Machine
end

