-- ==== Sys2Proof/Machine/Dispatch.lean ====
section
/-!
DEFINITION. Sys2Proof/Machine/Dispatch.lean: one arm per command, each one direct call of the command's meaning.
-/
namespace Sys2Proof.Machine

def exec (i : Instr) (s : State) : Host.Outcome State Fault Refusal :=
  match i with
  | .mov g gd op => Sys2Proof.Machine.execMov g gd op s
  | .lea g gd op => Sys2Proof.Machine.execLea g gd op s
  | .ldi g gd op => Sys2Proof.Machine.execLdi g gd op s
  | .ldih g gd op => Sys2Proof.Machine.execLdih g gd op s
  | .ldiA g gd op => Sys2Proof.Machine.execLdiA g gd op s
  | .ldB g gd op => Sys2Proof.Machine.execLdB g gd op s
  | .ldBs g gd op => Sys2Proof.Machine.execLdBs g gd op s
  | .ldH g gd op => Sys2Proof.Machine.execLdH g gd op s
  | .ldHs g gd op => Sys2Proof.Machine.execLdHs g gd op s
  | .ldW g gd op => Sys2Proof.Machine.execLdW g gd op s
  | .stB g gd op => Sys2Proof.Machine.execStB g gd op s
  | .stH g gd op => Sys2Proof.Machine.execStH g gd op s
  | .stW g gd op => Sys2Proof.Machine.execStW g gd op s
  | .add g gd op => Sys2Proof.Machine.execAdd g gd op s
  | .sub g gd op => Sys2Proof.Machine.execSub g gd op s
  | .andD g gd op => Sys2Proof.Machine.execAndD g gd op s
  | .orD g gd op => Sys2Proof.Machine.execOrD g gd op s
  | .xorD g gd op => Sys2Proof.Machine.execXorD g gd op s
  | .shl g gd op => Sys2Proof.Machine.execShl g gd op s
  | .shr g gd op => Sys2Proof.Machine.execShr g gd op s
  | .sar g gd op => Sys2Proof.Machine.execSar g gd op s
  | .rot g gd op => Sys2Proof.Machine.execRot g gd op s
  | .minD g gd op => Sys2Proof.Machine.execMinD g gd op s
  | .maxD g gd op => Sys2Proof.Machine.execMaxD g gd op s
  | .absD g gd op => Sys2Proof.Machine.execAbsD g gd op s
  | .negD g gd op => Sys2Proof.Machine.execNegD g gd op s
  | .clz g gd op => Sys2Proof.Machine.execClz g gd op s
  | .sat g gd op => Sys2Proof.Machine.execSat g gd op s
  | .mul g gd op => Sys2Proof.Machine.execMul g gd op s
  | .div g gd op => Sys2Proof.Machine.execDiv g gd op s
  | .divResult g => Sys2Proof.Machine.execDivResult g s
  | .addI g gd op => Sys2Proof.Machine.execAddI g gd op s
  | .andI g gd op => Sys2Proof.Machine.execAndI g gd op s
  | .orI g gd op => Sys2Proof.Machine.execOrI g gd op s
  | .xorI g gd op => Sys2Proof.Machine.execXorI g gd op s
  | .fadd g gd op => Sys2Proof.Machine.execFadd g gd op s
  | .fsub g gd op => Sys2Proof.Machine.execFsub g gd op s
  | .fmul g gd op => Sys2Proof.Machine.execFmul g gd op s
  | .fmac g gd op => Sys2Proof.Machine.execFmac g gd op s
  | .fcvt g gd op => Sys2Proof.Machine.execFcvt g gd op s
  | .cmp g gd op => Sys2Proof.Machine.execCmp g gd op s
  | .tst g gd op => Sys2Proof.Machine.execTst g gd op s
  | .pand g gd op => Sys2Proof.Machine.execPand g gd op s
  | .por g gd op => Sys2Proof.Machine.execPor g gd op s
  | .pnot g gd op => Sys2Proof.Machine.execPnot g gd op s
  | .mac g gd op => Sys2Proof.Machine.execMac g gd op s
  | .macs g gd op => Sys2Proof.Machine.execMacs g gd op s
  | .macx2 g gd op => Sys2Proof.Machine.execMacx2 g gd op s
  | .macx4 g gd op => Sys2Proof.Machine.execMacx4 g gd op s
  | .fmaca g gd op => Sys2Proof.Machine.execFmaca g gd op s
  | .clra g gd op => Sys2Proof.Machine.execClra g gd op s
  | .rnda g gd op => Sys2Proof.Machine.execRnda g gd op s
  | .ash g gd op => Sys2Proof.Machine.execAsh g gd op s
  | .stasM g gd op => Sys2Proof.Machine.execStasM g gd op s
  | .stasR g gd op => Sys2Proof.Machine.execStasR g gd op s
  | .br g gd op => Sys2Proof.Machine.execBr g gd op s
  | .brl g gd op => Sys2Proof.Machine.execBrl g gd op s
  | .brr g gd op => Sys2Proof.Machine.execBrr g gd op s
  | .brlr g gd op => Sys2Proof.Machine.execBrlr g gd op s
  | .ret g gd op => Sys2Proof.Machine.execRet g gd op s
  | .reti g gd op => Sys2Proof.Machine.execReti g gd op s
  | .trap g gd op => Sys2Proof.Machine.execTrap g gd op s
  | .bkpt g gd op => Sys2Proof.Machine.execBkpt g gd op s
  | .send g gd op => Sys2Proof.Machine.execSend g gd op s
  | .recv g gd op => Sys2Proof.Machine.execRecv g gd op s
  | .recvUnblock g => Sys2Proof.Machine.execRecvUnblock g s
  | .recvFill g => Sys2Proof.Machine.execRecvFill g s
  | .recvNb g gd op => Sys2Proof.Machine.execRecvNb g gd op s
  | .fenceQ g gd op => Sys2Proof.Machine.execFenceQ g gd op s
  | .waitI g gd op => Sys2Proof.Machine.execWaitI g gd op s
  | .waitWake g => Sys2Proof.Machine.execWaitWake g s
  | .evr g gd op => Sys2Proof.Machine.execEvr g gd op s
  | .evc g gd op => Sys2Proof.Machine.execEvc g gd op s
  | .rdt g gd op => Sys2Proof.Machine.execRdt g gd op s
  | .deal g gd op => Sys2Proof.Machine.execDeal g gd op s
  | .aadd g gd op => Sys2Proof.Machine.execAadd g gd op s
  | .aswp g gd op => Sys2Proof.Machine.execAswp g gd op s
  | .atomicResult g => Sys2Proof.Machine.execAtomicResult g s
  | .mmode g gd op => Sys2Proof.Machine.execMmode g gd op s
  | .mmodeS g gd op => Sys2Proof.Machine.execMmodeS g gd op s
  | .mmodeC g gd op => Sys2Proof.Machine.execMmodeC g gd op s
  | .fenceI g gd op => Sys2Proof.Machine.execFenceI g gd op s
  | .syncI g gd op => Sys2Proof.Machine.execSyncI g gd op s
  | .halt g gd op => Sys2Proof.Machine.execHalt g gd op s
  | .customerInstruction g gd opc op => Sys2Proof.Machine.execCustomerInstruction g gd opc op s
  | .farLoadReturn g => Sys2Proof.Machine.execFarLoadReturn g s
  | .farStoreAccept g => Sys2Proof.Machine.execFarStoreAccept g s
  | .storeBufferDrain g => Sys2Proof.Machine.execStoreBufferDrain g s
  | .interruptEntry g => Sys2Proof.Machine.execInterruptEntry g s
  | .frameSlotReturn g k => Sys2Proof.Machine.execFrameSlotReturn g k s
  | .spgQpopRead g q => Sys2Proof.Machine.execSpgQpopRead g q s
  | .spgClaimRead g => Sys2Proof.Machine.execSpgClaimRead g s
  | .bicComplete m b v => Sys2Proof.Machine.execBicComplete m b v s
  | .spgEvWrite g v => Sys2Proof.Machine.execSpgEvWrite g v s
  | .spgDlarmWrite g slot v => Sys2Proof.Machine.execSpgDlarmWrite g slot v s
  | .debugViewRead m a => Sys2Proof.Machine.execDebugViewRead m a s
  | .debugViewWrite m a v => Sys2Proof.Machine.execDebugViewWrite m a v s
  | .controlStoreWrite m a v => Sys2Proof.Machine.execControlStoreWrite m a v s
  | .unmappedRead m a => Sys2Proof.Machine.execUnmappedRead m a s
  | .unmappedWrite m a v => Sys2Proof.Machine.execUnmappedWrite m a v s
  | .registerWrite m a v how => Sys2Proof.Machine.execRegisterWrite m a v how s
  | .scratchAccess b bank reqs err => Sys2Proof.Machine.execScratchAccess b bank reqs err s
  | .scrCe b w => Sys2Proof.Machine.execScrCe b w s
  | .mailboxPortBAccess b r pas => Sys2Proof.Machine.execMailboxPortBAccess b r pas s
  | .take m b l v => Sys2Proof.Machine.execTake m b l v s
  | .leaseCopyDone b l => Sys2Proof.Machine.execLeaseCopyDone b l s
  | .leaseRevoke b l => Sys2Proof.Machine.execLeaseRevoke b l s
  | .release m b l => Sys2Proof.Machine.execRelease m b l s
  | .ack m b l => Sys2Proof.Machine.execAck m b l s
  | .secondPortAccess g xs y => Sys2Proof.Machine.execSecondPortAccess g xs y s
  | .cardAccept k => Sys2Proof.Machine.execCardAccept k s
  | .ringToChainMove q => Sys2Proof.Machine.execRingToChainMove q s
  | .posyDispatch k => Sys2Proof.Machine.execPosyDispatch k s
  | .cardResolution k => Sys2Proof.Machine.execCardResolution k s
  | .creditReturn k => Sys2Proof.Machine.execCreditReturn k s
  | .epochNotice k => Sys2Proof.Machine.execEpochNotice k s
  | .qmgrQreset m v => Sys2Proof.Machine.execQmgrQreset m v s
  | .queueResetInstant n cause => Sys2Proof.Machine.execQueueResetInstant n cause s
  | .ringWalk n => Sys2Proof.Machine.execRingWalk n s
  | .deferredQueueReset n => Sys2Proof.Machine.execDeferredQueueReset n s
  | .posyHoldRelease g n => Sys2Proof.Machine.execPosyHoldRelease g n s
  | .hold d p release => Sys2Proof.Machine.execHold d p release s
  | .hqpItailWrite m h v => Sys2Proof.Machine.execHqpItailWrite m h v s
  | .hqpOheadWrite m h v => Sys2Proof.Machine.execHqpOheadWrite m h v s
  | .hqpInboundFetch h c poison => Sys2Proof.Machine.execHqpInboundFetch h c poison s
  | .hqpOutboundWrite k => Sys2Proof.Machine.execHqpOutboundWrite k s
  | .timeRateWrite m v => Sys2Proof.Machine.execTimeRateWrite m v s
  | .timeStepGo m v => Sys2Proof.Machine.execTimeStepGo m v s
  | .dtimeReload => Sys2Proof.Machine.execDtimeReload s
  | .refChange ref trim => Sys2Proof.Machine.execRefChange ref trim s
  | .timeQualityWrite m v => Sys2Proof.Machine.execTimeQualityWrite m v s
  | .holdoverUncertGrowth ns => Sys2Proof.Machine.execHoldoverUncertGrowth ns s
  | .captureEdge c stamp pol => Sys2Proof.Machine.execCaptureEdge c stamp pol s
  | .timeCapPop m c => Sys2Proof.Machine.execTimeCapPop m c s
  | .triggerSourceEvent src level stamp => Sys2Proof.Machine.execTriggerSourceEvent src level stamp s
  | .eventLatchSet g e => Sys2Proof.Machine.execEventLatchSet g e s
  | .trigSwset m w v => Sys2Proof.Machine.execTrigSwset m w v s
  | .trigSwclr m w v => Sys2Proof.Machine.execTrigSwclr m w v s
  | .timeCmpHiWrite m k v => Sys2Proof.Machine.execTimeCmpHiWrite m k v s
  | .timeCmpPerWrite m k v => Sys2Proof.Machine.execTimeCmpPerWrite m k v s
  | .comparatorFire k => Sys2Proof.Machine.execComparatorFire k s
  | .timeDmDlWrite m k v => Sys2Proof.Machine.execTimeDmDlWrite m k v s
  | .deadlineAutoArm k => Sys2Proof.Machine.execDeadlineAutoArm k s
  | .deadlineSatisfy k => Sys2Proof.Machine.execDeadlineSatisfy k s
  | .deadlineMiss k => Sys2Proof.Machine.execDeadlineMiss k s
  | .dealCardAccept k => Sys2Proof.Machine.execDealCardAccept k s
  | .dealRelease u => Sys2Proof.Machine.execDealRelease u s
  | .pulseReturnEdge u => Sys2Proof.Machine.execPulseReturnEdge u s
  | .triggeredDealTake u => Sys2Proof.Machine.execTriggeredDealTake u s
  | .flush m u => Sys2Proof.Machine.execFlush m u s
  | .dealUerrRead m u => Sys2Proof.Machine.execDealUerrRead m u s
  | .vcCapTick power => Sys2Proof.Machine.execVcCapTick power s
  | .vcPeriodEnd => Sys2Proof.Machine.execVcPeriodEnd s
  | .vcFloor => Sys2Proof.Machine.execVcFloor s
  | .thermalCap code => Sys2Proof.Machine.execThermalCap code s
  | .fioOset m k v => Sys2Proof.Machine.execFioOset m k v s
  | .fioOclr m k v => Sys2Proof.Machine.execFioOclr m k v s
  | .vioFault k => Sys2Proof.Machine.execVioFault k s
  | .vioResume k => Sys2Proof.Machine.execVioResume k s
  | .qdEdge k qa qb => Sys2Proof.Machine.execQdEdge k qa qb s
  | .qdPreset m k v => Sys2Proof.Machine.execQdPreset m k v s
  | .qdIndexEdge k stamp => Sys2Proof.Machine.execQdIndexEdge k stamp s
  | .qdIdxRead m k => Sys2Proof.Machine.execQdIdxRead m k s
  | .qdSample k => Sys2Proof.Machine.execQdSample k s
  | .serialFrameStart j low => Sys2Proof.Machine.execSerialFrameStart j low s
  | .serialGo m j low => Sys2Proof.Machine.execSerialGo m j low s
  | .serialFrameEnd j data => Sys2Proof.Machine.execSerialFrameEnd j data s
  | .serialDataRead m j => Sys2Proof.Machine.execSerialDataRead m j s
  | .ethTxq m p c v => Sys2Proof.Machine.execEthTxq m p c v s
  | .ethTxdWrite m p n v => Sys2Proof.Machine.execEthTxdWrite m p n v s
  | .ethFrameStart p c => Sys2Proof.Machine.execEthFrameStart p c s
  | .ethDealtFrame p stamp => Sys2Proof.Machine.execEthDealtFrame p stamp s
  | .ethFrameEnd p stamp => Sys2Proof.Machine.execEthFrameEnd p stamp s
  | .qbvCycleStart p => Sys2Proof.Machine.execQbvCycleStart p s
  | .ethFrameReceive p bytes fcsOk stamp => Sys2Proof.Machine.execEthFrameReceive p bytes fcsOk stamp s
  | .ethLinkChange p up spd => Sys2Proof.Machine.execEthLinkChange p up spd s
  | .cxpFrameStart x width height fmt stamp => Sys2Proof.Machine.execCxpFrameStart x width height fmt stamp s
  | .cxpLine x stamp => Sys2Proof.Machine.execCxpLine x stamp s
  | .cxpFrameEnd x data incomplete crcErrs stamp => Sys2Proof.Machine.execCxpFrameEnd x data incomplete crcErrs stamp s
  | .cxpTriggerPacket x => Sys2Proof.Machine.execCxpTriggerPacket x s
  | .dmaSubmit m b v => Sys2Proof.Machine.execDmaSubmit m b v s
  | .dmaDescriptorDone b => Sys2Proof.Machine.execDmaDescriptorDone b s
  | .bicArbitrate b sp => Sys2Proof.Machine.execBicArbitrate b sp s
  | .bicEnset m b w v => Sys2Proof.Machine.execBicEnset m b w v s
  | .bicEnclr m b w v => Sys2Proof.Machine.execBicEnclr m b w v s
  | .bicTargetLeave b sp => Sys2Proof.Machine.execBicTargetLeave b sp s
  | .hicMessage n => Sys2Proof.Machine.execHicMessage n s
  | .hicComplete m v => Sys2Proof.Machine.execHicComplete m v s
  | .msixUnmask f ctl => Sys2Proof.Machine.execMsixUnmask f ctl s
  | .functionLevelReset f => Sys2Proof.Machine.execFunctionLevelReset f s
  | .gddrAccess r err => Sys2Proof.Machine.execGddrAccess r err s
  | .correctedRewrite a => Sys2Proof.Machine.execCorrectedRewrite a s
  | .scrub c err => Sys2Proof.Machine.execScrub c err s
  | .memThermal c temp => Sys2Proof.Machine.execMemThermal c temp s
  | .channelTraining c trained => Sys2Proof.Machine.execChannelTraining c trained s
  | .gdcEccRead m c => Sys2Proof.Machine.execGdcEccRead m c s
  | .selfrefExit c => Sys2Proof.Machine.execSelfrefExit c s
  | .metRqctlGo m v => Sys2Proof.Machine.execMetRqctlGo m v s
  | .metRequestDone => Sys2Proof.Machine.execMetRequestDone s
  | .metIdentify => Sys2Proof.Machine.execMetIdentify s
  | .readResults => Sys2Proof.Machine.execReadResults s
  | .metStart => Sys2Proof.Machine.execMetStart s
  | .metStop => Sys2Proof.Machine.execMetStop s
  | .zero permitted load => Sys2Proof.Machine.execZero permitted load s
  | .tare permitted load => Sys2Proof.Machine.execTare permitted load s
  | .readAudit => Sys2Proof.Machine.execReadAudit s
  | .ackAudit => Sys2Proof.Machine.execAckAudit s
  | .setParam => Sys2Proof.Machine.execSetParam s
  | .sign => Sys2Proof.Machine.execSign s
  | .islandRecord r => Sys2Proof.Machine.execIslandRecord r s
  | .islandSignature reason => Sys2Proof.Machine.execIslandSignature reason s
  | .islandReset porst => Sys2Proof.Machine.execIslandReset porst s
  | .islandStart img => Sys2Proof.Machine.execIslandStart img s
  | .sealTransition low => Sys2Proof.Machine.execSealTransition low s
  | .islandHeartbeat => Sys2Proof.Machine.execIslandHeartbeat s
  | .commandFetch h pkt poisoned inBuf => Sys2Proof.Machine.execCommandFetch h pkt poisoned inBuf s
  | .sprigCommandCard n => Sys2Proof.Machine.execSprigCommandCard n s
  | .replySend n => Sys2Proof.Machine.execReplySend n s
  | .identify q => Sys2Proof.Machine.execIdentify q s
  | .status q => Sys2Proof.Machine.execStatus q s
  | .handOpen q => Sys2Proof.Machine.execHandOpen q s
  | .handSet q => Sys2Proof.Machine.execHandSet q s
  | .handCheck q => Sys2Proof.Machine.execHandCheck q s
  | .handCommit q => Sys2Proof.Machine.execHandCommit q s
  | .handStaged slot => Sys2Proof.Machine.execHandStaged slot s
  | .handBoundaryEdge slot => Sys2Proof.Machine.execHandBoundaryEdge slot s
  | .handCommitInstant slot => Sys2Proof.Machine.execHandCommitInstant slot s
  | .handFold q => Sys2Proof.Machine.execHandFold q s
  | .handRecall q => Sys2Proof.Machine.execHandRecall q s
  | .handStatus q => Sys2Proof.Machine.execHandStatus q s
  | .handLoad q => Sys2Proof.Machine.execHandLoad q s
  | .handDrainStart slot => Sys2Proof.Machine.execHandDrainStart slot s
  | .handTargetHalt slot g => Sys2Proof.Machine.execHandTargetHalt slot g s
  | .handLoadTargets slot => Sys2Proof.Machine.execHandLoadTargets slot s
  | .drainTimeout slot => Sys2Proof.Machine.execDrainTimeout slot s
  | .generationMirror => Sys2Proof.Machine.execGenerationMirror s
  | .settingRead q => Sys2Proof.Machine.execSettingRead q s
  | .systemPrepare p => Sys2Proof.Machine.execSystemPrepare p s
  | .systemVoteDeadline slot => Sys2Proof.Machine.execSystemVoteDeadline slot s
  | .systemDecision slot commit report => Sys2Proof.Machine.execSystemDecision slot commit report s
  | .isolatedCommit slot => Sys2Proof.Machine.execIsolatedCommit slot s
  | .queueReset q => Sys2Proof.Machine.execQueueReset q s
  | .queueStatus q => Sys2Proof.Machine.execQueueStatus q s
  | .cmdqCreate q => Sys2Proof.Machine.execCmdqCreate q s
  | .cmdqDelete q => Sys2Proof.Machine.execCmdqDelete q s
  | .pcieAdmqCfgWrite m v => Sys2Proof.Machine.execPcieAdmqCfgWrite m v s
  | .sprigLoad q => Sys2Proof.Machine.execSprigLoad q s
  | .sprigStart q => Sys2Proof.Machine.execSprigStart q s
  | .sprigHalt q => Sys2Proof.Machine.execSprigHalt q s
  | .sprigStep q => Sys2Proof.Machine.execSprigStep q s
  | .sprigReset q => Sys2Proof.Machine.execSprigReset q s
  | .timeRead q => Sys2Proof.Machine.execTimeRead q s
  | .timeStep q => Sys2Proof.Machine.execTimeStep q s
  | .timeSync q => Sys2Proof.Machine.execTimeSync q s
  | .timeQuality q => Sys2Proof.Machine.execTimeQuality q s
  | .powerState q => Sys2Proof.Machine.execPowerState q s
  | .powerEntry => Sys2Proof.Machine.execPowerEntry s
  | .bunchHold q => Sys2Proof.Machine.execBunchHold q s
  | .watchCfg q => Sys2Proof.Machine.execWatchCfg q s
  | .errRead q => Sys2Proof.Machine.execErrRead q s
  | .freeze q => Sys2Proof.Machine.execFreeze q s
  | .thaw q => Sys2Proof.Machine.execThaw q s
  | .tlSetId q => Sys2Proof.Machine.execTlSetId q s
  | .tlRoute q => Sys2Proof.Machine.execTlRoute q s
  | .tlStatus q => Sys2Proof.Machine.execTlStatus q s
  | .sysStatus q => Sys2Proof.Machine.execSysStatus q s
  | .attestQuote q => Sys2Proof.Machine.execAttestQuote q s
  | .measRead q => Sys2Proof.Machine.execMeasRead q s
  | .certRead q => Sys2Proof.Machine.execCertRead q s
  | .fwBegin q => Sys2Proof.Machine.execFwBegin q s
  | .fwChunk q => Sys2Proof.Machine.execFwChunk q s
  | .fwFinishStage q => Sys2Proof.Machine.execFwFinishStage q s
  | .fwFinishConfirm q => Sys2Proof.Machine.execFwFinishConfirm q s
  | .fwAbort q => Sys2Proof.Machine.execFwAbort q s
  | .errorCardSend => Sys2Proof.Machine.execErrorCardSend s
  | .errHostCopy => Sys2Proof.Machine.execErrHostCopy s
  | .errLogAckWrite m v => Sys2Proof.Machine.execErrLogAckWrite m v s
  | .errLostRead m => Sys2Proof.Machine.execErrLostRead m s
  | .errHqHeadWrite m v => Sys2Proof.Machine.execErrHqHeadWrite m v s
  | .quiesce p => Sys2Proof.Machine.execQuiesce p s
  | .quiesceCut p => Sys2Proof.Machine.execQuiesceCut p s
  | .quiesceDrained g => Sys2Proof.Machine.execQuiesceDrained g s
  | .closeCard p cause => Sys2Proof.Machine.execCloseCard p cause s
  | .unitFatal p e => Sys2Proof.Machine.execUnitFatal p e s
  | .deviceFatal e => Sys2Proof.Machine.execDeviceFatal e s
  | .porstN devid => Sys2Proof.Machine.execPorstN devid s
  | .sysrstN lowNs => Sys2Proof.Machine.execSysrstN lowNs s
  | .watchdogExpiry => Sys2Proof.Machine.execWatchdogExpiry s
  | .rstWdogKick m v => Sys2Proof.Machine.execRstWdogKick m v s
  | .rstUnit m v => Sys2Proof.Machine.execRstUnit m v s
  | .rstXstatRead m => Sys2Proof.Machine.execRstXstatRead m s
  | .resetRelease p => Sys2Proof.Machine.execResetRelease p s
  | .bootRom sel => Sys2Proof.Machine.execBootRom sel s
  | .goRecord => Sys2Proof.Machine.execGoRecord s
  | .recoveryLoadFrame data crc => Sys2Proof.Machine.execRecoveryLoadFrame data crc s
  | .resume => Sys2Proof.Machine.execResume s
  | .crossingResync x receiverReset => Sys2Proof.Machine.execCrossingResync x receiverReset s
  | .asyncWake d => Sys2Proof.Machine.execAsyncWake d s
  | .bunchIdleExpiry b => Sys2Proof.Machine.execBunchIdleExpiry b s
  | .bunchGated b => Sys2Proof.Machine.execBunchGated b s
  | .firstAccess b => Sys2Proof.Machine.execFirstAccess b s
  | .bunchWakeRelease b => Sys2Proof.Machine.execBunchWakeRelease b s
  | .pgoodTimeout => Sys2Proof.Machine.execPgoodTimeout s
  | .powerUpRetry => Sys2Proof.Machine.execPowerUpRetry s
  | .brownout pgood => Sys2Proof.Machine.execBrownout pgood s
  | .wake src => Sys2Proof.Machine.execWake src s
  | .offWake src => Sys2Proof.Machine.execOffWake src s
  | .mgmtAddressMatch addr => Sys2Proof.Machine.execMgmtAddressMatch addr s
  | .watchCycle codes pins => Sys2Proof.Machine.execWatchCycle codes pins s
  | .rtcAlarm => Sys2Proof.Machine.execRtcAlarm s
  | .dipStart stamp => Sys2Proof.Machine.execDipStart stamp s
  | .dipEnd stamp minv => Sys2Proof.Machine.execDipEnd stamp minv s
  | .vauxLoss => Sys2Proof.Machine.execVauxLoss s
  | .input48vLoss => Sys2Proof.Machine.execInput48vLoss s
  | .flitReceive t f crcOk => Sys2Proof.Machine.execFlitReceive t f crcOk s
  | .nak t lseq => Sys2Proof.Machine.execNak t lseq s
  | .tlTrainingDone t => Sys2Proof.Machine.execTlTrainingDone t s
  | .idcheck t n probeDup => Sys2Proof.Machine.execIdcheck t n probeDup s
  | .tlLinkDown t => Sys2Proof.Machine.execTlLinkDown t s
  | .pairMessageAccept d msg => Sys2Proof.Machine.execPairMessageAccept d msg s
  | .pairRetransmit d => Sys2Proof.Machine.execPairRetransmit d s
  | .heartbeat d => Sys2Proof.Machine.execHeartbeat d s
  | .tlPeerLost d => Sys2Proof.Machine.execTlPeerLost d s
  | .pairSync d pepoch inc counts => Sys2Proof.Machine.execPairSync d pepoch inc counts s
  | .timeExchange t x => Sys2Proof.Machine.execTimeExchange t x s
  | .timeJoin offset => Sys2Proof.Machine.execTimeJoin offset s
  | .tlRdmaSubmit m v => Sys2Proof.Machine.execTlRdmaSubmit m v s
  | .remoteRequest d r => Sys2Proof.Machine.execRemoteRequest d r s
  | .rdmaDone refused data marks => Sys2Proof.Machine.execRdmaDone refused data marks s
  | .secRbAdv m v => Sys2Proof.Machine.execSecRbAdv m v s
  | .secMeasExt m v => Sys2Proof.Machine.execSecMeasExt m v s
  | .otpOwnerHash m v => Sys2Proof.Machine.execOtpOwnerHash m v s
  | .otpRevokeOwner m v => Sys2Proof.Machine.execOtpRevokeOwner m v s
  | .otpRevokeVendor m v => Sys2Proof.Machine.execOtpRevokeVendor m v s
  | .otpDebugHash m v => Sys2Proof.Machine.execOtpDebugHash m v s
  | .otpBootDis m v => Sys2Proof.Machine.execOtpBootDis m v s
  | .otpRecovDis m v => Sys2Proof.Machine.execOtpRecovDis m v s
  | .retire m v => Sys2Proof.Machine.execRetire m v s
  | .monId => Sys2Proof.Machine.execMonId s
  | .monErr n => Sys2Proof.Machine.execMonErr n s
  | .monTime => Sys2Proof.Machine.execMonTime s
  | .unlock arg => Sys2Proof.Machine.execUnlock arg s
  | .lock => Sys2Proof.Machine.execLock s
  | .baud r => Sys2Proof.Machine.execBaud r s
  | .peek a n => Sys2Proof.Machine.execPeek a n s
  | .poke a v => Sys2Proof.Machine.execPoke a v s
  | .monHalt g => Sys2Proof.Machine.execMonHalt g s
  | .monStep g => Sys2Proof.Machine.execMonStep g s
  | .monRun g => Sys2Proof.Machine.execMonRun g s
  | .regs g => Sys2Proof.Machine.execRegs g s
  | .monQ n => Sys2Proof.Machine.execMonQ n s
  | .pwr => Sys2Proof.Machine.execPwr s
  | .overrun => Sys2Proof.Machine.execOverrun s
  | .serdesPllLoss grp => Sys2Proof.Machine.execSerdesPllLoss grp s
  | .cxpLinkChange x up spd => Sys2Proof.Machine.execCxpLinkChange x up spd s
  | .preemptionVerification p => Sys2Proof.Machine.execPreemptionVerification p s
  | .islandHeartbeatTimeout => Sys2Proof.Machine.execIslandHeartbeatTimeout s
  | .metDoneTimeout => Sys2Proof.Machine.execMetDoneTimeout s
  | .recoveryLoad n => Sys2Proof.Machine.execRecoveryLoad n s
  | .latchHandshakeEnd g e => Sys2Proof.Machine.execLatchHandshakeEnd g e s
  | .pgoodRise => Sys2Proof.Machine.execPgoodRise s
  | .viookReturn k v33 => Sys2Proof.Machine.execViookReturn k v33 s
  | .lowWordRead m a how => Sys2Proof.Machine.execLowWordRead m a how s

end Sys2Proof.Machine
end

