-- ==== Sys2Proof/Safety.lean ====
section
/-!
DEFINITION. Sys2Proof/Safety.lean: the words that statements use: what it takes for a sprig to run an instruction, how a state differs from
another in one sprig, and the canonical form of memory.
-/
namespace Sys2Proof

/-- The sprig, guard field and opcode of a command that is a sprig's instruction (R81, R83; spec/opcode_table.source.json's opcodes). -/
def Instr.sprigOp : Instr → Option (SprigId × BitVec 4 × Byte)
  | .mov g gd _ => some (g, gd, 0x01) | .ldi g gd _ => some (g, gd, 0x02) | .ldih g gd _ => some (g, gd, 0x03)
  | .ldiA g gd _ => some (g, gd, 0x04) | .lea g gd _ => some (g, gd, 0x05) | .ldB g gd _ => some (g, gd, 0x08)
  | .ldBs g gd _ => some (g, gd, 0x09) | .ldH g gd _ => some (g, gd, 0x0A) | .ldHs g gd _ => some (g, gd, 0x0B)
  | .ldW g gd _ => some (g, gd, 0x0C) | .stB g gd _ => some (g, gd, 0x10) | .stH g gd _ => some (g, gd, 0x11)
  | .stW g gd _ => some (g, gd, 0x12) | .add g gd _ => some (g, gd, 0x20) | .sub g gd _ => some (g, gd, 0x21)
  | .andD g gd _ => some (g, gd, 0x22) | .orD g gd _ => some (g, gd, 0x23) | .xorD g gd _ => some (g, gd, 0x24)
  | .shl g gd _ => some (g, gd, 0x25) | .shr g gd _ => some (g, gd, 0x26) | .sar g gd _ => some (g, gd, 0x27)
  | .rot g gd _ => some (g, gd, 0x28) | .minD g gd _ => some (g, gd, 0x29) | .maxD g gd _ => some (g, gd, 0x2A)
  | .absD g gd _ => some (g, gd, 0x2B) | .negD g gd _ => some (g, gd, 0x2C) | .clz g gd _ => some (g, gd, 0x2D)
  | .sat g gd _ => some (g, gd, 0x2E) | .mul g gd _ => some (g, gd, 0x2F) | .div g gd _ => some (g, gd, 0x30)
  | .addI g gd _ => some (g, gd, 0x38) | .andI g gd _ => some (g, gd, 0x39) | .orI g gd _ => some (g, gd, 0x3A)
  | .xorI g gd _ => some (g, gd, 0x3B) | .fadd g gd _ => some (g, gd, 0x40) | .fsub g gd _ => some (g, gd, 0x41)
  | .fmul g gd _ => some (g, gd, 0x42) | .fmac g gd _ => some (g, gd, 0x43) | .fcvt g gd _ => some (g, gd, 0x44)
  | .cmp g gd _ => some (g, gd, 0x50) | .tst g gd _ => some (g, gd, 0x51) | .pand g gd _ => some (g, gd, 0x52)
  | .por g gd _ => some (g, gd, 0x53) | .pnot g gd _ => some (g, gd, 0x54) | .mac g gd _ => some (g, gd, 0x60)
  | .macs g gd _ => some (g, gd, 0x61) | .macx2 g gd _ => some (g, gd, 0x62) | .macx4 g gd _ => some (g, gd, 0x63)
  | .fmaca g gd _ => some (g, gd, 0x64) | .clra g gd _ => some (g, gd, 0x68) | .rnda g gd _ => some (g, gd, 0x69)
  | .ash g gd _ => some (g, gd, 0x6A) | .stasM g gd _ => some (g, gd, 0x6B) | .stasR g gd _ => some (g, gd, 0x6C)
  | .br g gd _ => some (g, gd, 0x70) | .brl g gd _ => some (g, gd, 0x71) | .brr g gd _ => some (g, gd, 0x72)
  | .brlr g gd _ => some (g, gd, 0x73) | .ret g gd _ => some (g, gd, 0x74) | .reti g gd _ => some (g, gd, 0x75)
  | .trap g gd _ => some (g, gd, 0x76) | .bkpt g gd _ => some (g, gd, 0x77) | .send g gd _ => some (g, gd, 0x80)
  | .recv g gd _ => some (g, gd, 0x81) | .recvNb g gd _ => some (g, gd, 0x82) | .fenceQ g gd _ => some (g, gd, 0x83)
  | .waitI g gd _ => some (g, gd, 0x90) | .evr g gd _ => some (g, gd, 0x91) | .evc g gd _ => some (g, gd, 0x92)
  | .rdt g gd _ => some (g, gd, 0x93) | .deal g gd _ => some (g, gd, 0x94) | .aadd g gd _ => some (g, gd, 0xA0)
  | .aswp g gd _ => some (g, gd, 0xA1) | .mmode g gd _ => some (g, gd, 0xB0) | .mmodeS g gd _ => some (g, gd, 0xB1)
  | .mmodeC g gd _ => some (g, gd, 0xB2) | .fenceI g gd _ => some (g, gd, 0xB3) | .syncI g gd _ => some (g, gd, 0xB4)
  | .halt g gd _ => some (g, gd, 0xB5) | .customerInstruction g gd opc _ => some (g, gd, opc)
  | _ => none

end Sys2Proof

namespace Sys2Proof.Machine

/-- Memory in its canonical form: addresses strictly rising, and no byte listed that reads 0, as an unlisted one does. -/
def Memory.wf (m : List Host.Cell) : Bool := Tbl.wf m 0

/-- An outcome is a next state that satisfies `P`. -/
def Runs (o : Out) (P : State → Prop) : Prop := ∃ t, o = .next t ∧ P t

/-- The state with sprig g replaced: everything else, every byte of memory and every other sprig among it, stays. -/
def State.put (s : State) (g : SprigId) (x : Sprig) : State := { s with core := s.core.setSprig g x }

/-- The state with its core replaced. -/
def State.on (s : State) (c : Core) : State := { s with core := c }

/-- F fetches the word at sprig g's PC without an error and without a wait: the instruction RAM's parity is good; in the shared code the ECC
word is free of errors and no lease slot holds the region (R46, R59, R158, R163, R173). -/
def Core.fetchClean (c : Core) (g : SprigId) : Bool :=
  let pc := (c.sprig g).pc
  if pc.toNat < 0x1000 then (c.firstBad (localsBase g + 0x10000 + 4 * pc.toNat) 4).isNone
  else
    let off := c.codeOff g pc
    decide (c.mark (scratchBase (bunchOf g) + off.toNat) = .ok)
      && (List.range 4).all fun l => decide ((c.lease (bunchOf g) (BitVec.ofNat 2 l)).st ∈ [LeaseState.free, .refused, .lost])
        || decide ((c.lease (bunchOf g) (BitVec.ofNat 2 l)).region ≠ (off >>> 8).setWidth 13)

/-- Sprig g runs an instruction with guard field gd and opcode opc: it issues (RUN, no request waiting), is not in QUIESCE, fetches the
word without an error, its guard is true, and the decode entry and the routine's first microword are valid and read without an error
(R67, R80 to R83, R128). -/
def State.ready (s : State) (g : SprigId) (gd : BitVec 4) (opc : Byte) : Bool :=
  let c := s.core
  (c.sprig g).issues && !c.quietSprig g && c.fetchClean g && (c.sprig g).guard gd && (c.entryFault g opc).isNone
    && decide (c.csMark (storeBase g + 0x4000 + 4 * opc.toNat) ≠ .single) && decide (c.firstMark g opc = .ok)

/-- No result is outstanding in the registers that an instruction reads or writes, and those that it reads carry no poison (R52, R53). -/
def Sprig.open_ (x : Sprig) (reads writes : List (BitVec 4)) : Bool :=
  ((reads ++ writes).all fun i => !x.board.getLsbD i.toNat) && reads.all fun i => !x.tags.getLsbD i.toNat

/-- The sprig after an instruction of n steps, beside what the instruction writes. -/
def Sprig.past (x : Sprig) (n : Nat) : Sprig := x.retire { steps := n }

/-- The sprig after a transfer of control. -/
def Sprig.goes (x : Sprig) (n : Nat) (pc : BitVec 16) : Sprig := x.retire { steps := n, npc := some pc }

/-- An integer result with its flags in register d. -/
def Sprig.result (x : Sprig) (d : BitVec 4) (o : AluOut) : Sprig := { x.setD d o.r with sw := swInt x.sw o }

/-- An access of n bytes at a lies wholly in the X bank or wholly in the Y bank. -/
def inBank (a : BitVec 16) (n : Nat) : Bool :=
  decide (a.toNat + n ≤ 0x6000) || (decide (0x6000 ≤ a.toNat) && decide (a.toNat + n ≤ 0xC000))

/-- It takes two accesses where it crosses a row of four bytes (R120). -/
def bankSteps (a : BitVec 16) (n : Nat) : Nat := if a.toNat % 4 + n ≤ 4 then 1 else 2

/-- The entries that a store of bytes to a bank puts into the store buffer: one, or a linked pair where it crosses a row (R122, R123). -/
def Sprig.entries (x : Sprig) (g : SprigId) (a : BitVec 16) (bs : List Byte) : List SbEntry :=
  let left := 4 - a.toNat % 4
  if bs.length ≤ left then [⟨localsBase g + a.toNat, bs, false, x.depth⟩]
  else [⟨localsBase g + a.toNat, bs.take left, true, x.depth⟩, ⟨localsBase g + a.toNat + left, bs.drop left, false, x.depth⟩]

/-- The store buffer, of four entries, has room for them. -/
def Sprig.fits (x : Sprig) (a : BitVec 16) (n : Nat) : Bool := inBank a n && decide (x.buf.length + bankSteps a n ≤ 4)

/-- The sprig with a store of bytes to a bank in its buffer. -/
def Sprig.stored (x : Sprig) (g : SprigId) (a : BitVec 16) (bs : List Byte) : Sprig := { x with buf := x.buf ++ x.entries g a bs }

/-- A load of n bytes from a bank meets neither a store of the sprig's own nor bad parity. -/
def Core.clear (c : Core) (g : SprigId) (a : BitVec 16) (n : Nat) : Bool :=
  inBank a n && (c.sprig g).buf.isEmpty && (c.firstBad (localsBase g + a.toNat) n).isNone

/-- The word at a bank address of sprig g. -/
def Core.bankWord (c : Core) (g : SprigId) (a : BitVec 16) : Word := c.word (localsBase g + a.toNat)

/-- The vector requested by a fault of sprig g, with everything else as it was (R76). -/
def State.faulted (s : State) (g : SprigId) (vec : BitVec 6) (detail : Word) : State := s.on (s.core.raise g vec detail none)

/-! ### FP32 results (R98 to R100) -/

/-- A binary32 operand, or an exact result: a NaN, an infinity, a zero with its sign, or a number that is not 0. -/
inductive FpExact where
  | nan (invalid : Bool)
  | inf (neg : Bool)
  | zero (neg : Bool)
  | num (x : Int)
deriving DecidableEq, Repr

/-- What a word holds, a number in units of 2 to the -150; a subnormal reads as a zero of its sign, and a signalling NaN is invalid (R99). -/
def fpRead (w : Word) : FpExact :=
  let e := ((w >>> 23).setWidth 8 : Byte).toNat
  let f := (w.setWidth 23 : BitVec 23).toNat
  if e = 255 then (if f = 0 then .inf w.msb else .nan (!w.getLsbD 22))
  else if e = 0 then .zero w.msb
  else .num ((if w.msb then -1 else 1) * (2 ^ 23 + f) * 2 ^ e)

/-- In units smaller by 2 to the -k. -/
def FpExact.scale (k : Nat) : FpExact → FpExact
  | .num x => .num (x * 2 ^ k)
  | y => y

/-- With the other sign. -/
def FpExact.neg : FpExact → FpExact
  | .nan i => .nan i
  | .inf s => .inf (!s)
  | .zero s => .zero (!s)
  | .num x => .num (-x)

/-- The exact sum: a sum of opposite infinities is invalid; a zero sum of opposite signs is +0, but -0 when rounding down (IEEE 754). -/
def FpExact.add (rm : BitVec 2) : FpExact → FpExact → FpExact
  | .nan a, .nan b => .nan (a || b)
  | .nan a, _ => .nan a
  | _, .nan b => .nan b
  | .inf s, .inf t => if s = t then .inf s else .nan true
  | .inf s, _ => .inf s
  | _, .inf t => .inf t
  | .zero s, .zero t => .zero (if s = t then s else decide (rm = 3#2))
  | .zero _, .num y => .num y
  | .num x, .zero _ => .num x
  | .num x, .num y => if x + y = 0 then .zero (decide (rm = 3#2)) else .num (x + y)

/-- The exact product: a zero times an infinity is invalid. -/
def FpExact.mul : FpExact → FpExact → FpExact
  | .nan a, .nan b => .nan (a || b)
  | .nan a, _ => .nan a
  | _, .nan b => .nan b
  | .inf _, .zero _ => .nan true
  | .zero _, .inf _ => .nan true
  | .inf s, .inf t => .inf (s != t)
  | .inf s, .num y => .inf (s != decide (y < 0))
  | .num x, .inf t => .inf (decide (x < 0) != t)
  | .zero s, .zero t => .zero (s != t)
  | .zero s, .num y => .zero (s != decide (y < 0))
  | .num x, .zero t => .zero (decide (x < 0) != t)
  | .num x, .num y => .num (x * y)

/-- q times u is x rounded to a multiple of u: to the nearest, an even q at a tie; toward zero; up; down (MODE.FPRM, R50). -/
def RoundsTo (rm : BitVec 2) (x q u : Int) : Prop :=
  match rm.toNat with
  | 0 => 2 * |q * u - x| ≤ u ∧ (2 * |q * u - x| = u → q % 2 = 0)
  | 1 => |q * u| ≤ |x| ∧ |x| < |q * u| + u ∧ 0 ≤ q * x
  | 2 => x ≤ q * u ∧ q * u < x + u
  | _ => q * u ≤ x ∧ x < q * u + u

/-- The word and the flags that the exact result, in units of 2 to the -324, gives (R99): it is rounded to 24 significant bits as though the
exponent were unbounded, and judged then: below 2 to the -126 it is a zero with FUNF and FINX, from 2 to the 128 on an infinity or the
largest finite number with FOVF and FINX, else the rounded number, with FINX where it is not exact. -/
def FpDelivers (rm : BitVec 2) (v : FpExact) (r : Word) (f : FpFlags) : Prop :=
  match v with
  | .nan i => r = 0x7FC00000#32 ∧ f = { inv := i }
  | .inf s => r = (if s then 0xFF800000#32 else 0x7F800000#32) ∧ f = {}
  | .zero s => r = (if s then 0x80000000#32 else 0) ∧ f = {}
  | .num x =>
    ∃ (j : Nat) (q : Int), 2 ^ (23 + j) ≤ |x| ∧ |x| < 2 ^ (24 + j) ∧ RoundsTo rm x q (2 ^ j)
      ∧ (if |q * 2 ^ j| < 2 ^ 198 then r = (if x < 0 then 0x80000000#32 else 0) ∧ f = { unf := true, inx := true }
        else if 2 ^ 452 ≤ |q * 2 ^ j| then
          f = { ovf := true, inx := true }
          ∧ r = (if x < 0 then (if rm = 0 ∨ rm = 3 then 0xFF800000#32 else 0xFF7FFFFF#32)
            else (if rm = 0 ∨ rm = 2 then 0x7F800000#32 else 0x7F7FFFFF#32))
        else (∃ z, fpRead r = .num z ∧ z * 2 ^ 174 = q * 2 ^ j) ∧ f = { inx := decide (q * 2 ^ j ≠ x) })

/-- The integer and the flags of an FP-to-integer conversion with q fraction bits into lo to hi (R100). -/
def FpToInt (rm : BitVec 2) (q : Nat) (lo hi : Int) (v : FpExact) (r : Word) (f : FpFlags) : Prop :=
  match v with
  | .nan _ => r = 0 ∧ f = { inv := true }
  | .inf s => r = BitVec.ofInt 32 (if s then lo else hi) ∧ f = { inv := true }
  | .zero _ => r = 0 ∧ f = {}
  | .num x =>
    ∃ n : Int, RoundsTo rm (x * 2 ^ q) n (2 ^ 150)
      ∧ (if n < lo then r = BitVec.ofInt 32 lo ∧ f = { inv := true }
        else if hi < n then r = BitVec.ofInt 32 hi ∧ f = { inv := true }
        else r = BitVec.ofInt 32 n ∧ f = { inx := decide (n * 2 ^ 150 ≠ x * 2 ^ q) })

/-! ### Registers, commands and items in transit -/

/-- The write of a register by master m is one that the register takes: m is not frozen, it is among the `allowed`, and it sees the register
(R339, R381). -/
def Core.takes (c : Core) (m : Master) (allowed : Bool) : Bool := !c.frozenMaster m && (allowed && c.seesAll m)

/-- Packet x stands at the head of queue q, has not begun, passes every check that precedes execution (R347 to R349), no buffer of it lies in
memory that is not available yet (R310), and its input buffer reads as bs. -/
def Core.heads (c : Core) (q : CmdSrc) (sp : CmdSpec) (x : Cmd) (bs : List Byte) : Prop :=
  (c.cmdsOf q).head? = some x ∧ x.opcode = sp.opc ∧ x.begun = false ∧ c.cmdCheck q x sp = none ∧ c.buffersWait q x = false
    ∧ c.readIn q x = (some (bs, false), c)

/-- The command at the head of queue q is answered with details d and the bytes bs, which stand at its OUT_ADDR (R347). -/
def Core.bulkAnswer (c : Core) (q : CmdSrc) (x : Cmd) (d : List Word) (bs : List Byte) : Core :=
  match c.bulkReply q x d bs with
  | (c', some r) => c'.answerCmd q r
  | (c', none) => c'.beginCmd q

/-- The k-th item in transit is p, and no earlier one of its origin goes to its target (R202). -/
def Core.brings (c : Core) (k : Nat) (p : Parcel) : Prop := ∃ o d, c.arrives k = some ⟨o, d, p⟩

/-- Two cores hold the same bytes of memory outside n bytes from a. -/
def SameBytesBut (c d : Core) (a n : Nat) : Prop := ∀ b, (b < a ∨ a + n ≤ b) → d.byte b = c.byte b

/-- The latest entry of the error log. -/
def Core.lastLog (c : Core) : Option ErrInfo :=
  (Tbl.get c.err.ring ((c.err.tail - 1).toNat % 1024) none).map fun e => e.info

/-- The error log takes an entry of the class. -/
def ErrBlk.takes (b : ErrBlk) (cls : BitVec 4) : Bool := decide (b.used < 1024) && (decide (cls ≠ 0) || decide (16 ≤ 1024 - b.used))

/-! ### Fuses (R463, R470) -/

/-- A vendor key slot remains, the rollback counters are at most 64, and a BLANK device has no owner hash. -/
def Sec.sound (x : Sec) : Bool :=
  decide (x.vendRev ≠ 0xF) && decide (x.ownerRb.toNat ≤ 64) && decide (x.vendorRb.toNat ≤ 64) && (decide (x.life ≠ .blank) || decide (x.ownSet = 0))

/-- Fuses y hold at least what fuses x hold: bits stay programmed, a programmed hash keeps its value, counters and LIFE do not go back. -/
def Sec.grows (x y : Sec) : Prop :=
  y.serial = x.serial ∧ y.certs = x.certs
  ∧ x.ownSet &&& ~~~y.ownSet = 0 ∧ x.ownRev &&& ~~~y.ownRev = 0 ∧ x.vendRev &&& ~~~y.vendRev = 0 ∧ x.bootDis &&& ~~~y.bootDis = 0
  ∧ (x.recovDis = true → y.recovDis = true) ∧ (x.dbgSet = true → y.dbgSet = true ∧ y.dbgHash = x.dbgHash)
  ∧ x.ownerRb.toNat ≤ y.ownerRb.toNat ∧ x.vendorRb.toNat ≤ y.vendorRb.toNat
  ∧ (∀ k, x.ownSet.getLsbD k = true → (y.ownHash[k]?) = (x.ownHash[k]?))
  ∧ (x.life ≠ .blank → y.life ≠ .blank) ∧ (x.life = .retired → y.life = .retired)

end Sys2Proof.Machine
end

