-- ==== Sys2Proof/Certificates/Slice0/Obligations.lean ====
section
/-!
DEFINITION. Sys2Proof/Certificates/Slice0/Obligations.lean: the statements for the provers. Each says in its docstring which rules of spec/ it
formalises. A clause about a command has the form: in every state that meets the conditions, `exec` answers exactly this next state, or a
next state of which this holds.
-/

open Sys2Proof Sys2Proof.Machine

/-! ### Sprig instructions -/

/-- R92 to R95: MOV copies a value between register classes, LEA writes an effective address without an access, LDI, LDIH and LDI.A load an
immediate; the immediate forms read and write Dd; ADD.I sign-extends its immediate, AND.I, OR.I and XOR.I zero-extend theirs. Each takes 1
step and changes nothing else. -/
def Obligations.MoveAndImmediateResults : Prop :=
  ∀ (s : State) (g : SprigId) (gd : BitVec 4) (op : BitVec 20),
    let x := s.core.sprig g
    let dc : BitVec 3 := (fAux op >>> 5).setWidth 3
    let sc : BitVec 3 := (fAux op >>> 2).setWidth 3
    (∀ v y, fSrcB op = 0 → (fAux op).setWidth 2 = 0#2 → x.movSrc sc (fSrcA op) = some v → x.movDst dc (fDst op) v = some y →
      x.open_ (movRegs sc (fSrcA op)) (movRegs dc (fDst op)) = true → s.ready g gd 0x01 = true → exec (.mov g gd op) s = .next (s.put g (y.past 1)))
    ∧ (∀ e, op.getLsbD 19 = false → ((fAmode op).toNat = 0 ∨ (fAmode op).toNat = 3 ∨ (fAmode op).toNat = 4) → x.ea op 4 false = some e →
      x.open_ e.idx [] = true → s.ready g gd 0x05 = true →
      exec (.lea g gd op) s = .next (s.put g ((x.setA ((fDst op).setWidth 3) e.addr).past 1)))
    ∧ (x.open_ [] [fDst op] = true → s.ready g gd 0x02 = true →
      exec (.ldi g gd op) s = .next (s.put g ((x.setD (fDst op) ((fImm op).signExtend 32)).past 1)))
    ∧ (x.open_ [fDst op] [fDst op] = true → s.ready g gd 0x03 = true →
      exec (.ldih g gd op) s
        = .next (s.put g ((x.setD (fDst op) (fImm op ++ ((x.rd (fDst op)).setWidth 16 : BitVec 16))).past 1)))
    ∧ (op.getLsbD 19 = false → s.ready g gd 0x04 = true →
      exec (.ldiA g gd op) s = .next (s.put g ((x.setA ((fDst op).setWidth 3) (fImm op)).past 1)))
    ∧ (x.open_ [fDst op] [fDst op] = true →
      let a := x.rd (fDst op)
      let i := fImm op
      let z : Word := i.setWidth 32
      let sum := a.toInt + i.toInt
      let out : Bool := decide (sum < -2147483648) || decide (2147483647 < sum)
      let gives (o : AluOut) : State := s.put g ((x.result (fDst op) o).past 1)
      (s.ready g gd 0x38 = true → exec (.addI g gd op) s = .next (gives
        { r := if modeSat x.mode && out then (if sum < 0 then 0x80000000#32 else 0x7FFFFFFF#32) else BitVec.ofInt 32 sum
          c := some (decide (2 ^ 32 ≤ a.toNat + (i.signExtend 32 : Word).toNat)), v := some out, clip := modeSat x.mode && out }))
      ∧ (s.ready g gd 0x39 = true → exec (.andI g gd op) s = .next (gives { r := a &&& z, v := some false }))
      ∧ (s.ready g gd 0x3A = true → exec (.orI g gd op) s = .next (gives { r := a ||| z, v := some false }))
      ∧ (s.ready g gd 0x3B = true → exec (.xorI g gd op) s = .next (gives { r := a ^^^ z, v := some false })))

/-- R92, R120, R121: a load from the X or the Y bank, with no store of the sprig still in its buffer, writes the zero- or sign-extended
datum and the base update; a split one takes 2 steps. Memory stays. -/
def Obligations.LoadsFromBanks : Prop :=
  ∀ (s : State) (g : SprigId) (gd : BitVec 4) (op : BitVec 20) (e : Ea),
    let c := s.core
    let x := c.sprig g
    let a := localsBase g + e.addr.toNat
    let ok (n : Nat) : Prop := x.ea op n false = some e ∧ x.open_ e.idx [fDst op] = true ∧ c.clear g e.addr n = true
    let gives (n : Nat) (v : Word) : State := s.put g (((x.setD (fDst op) v).applyUpd e.upd).past (bankSteps e.addr n))
    (ok 1 → s.ready g gd 0x08 = true → exec (.ldB g gd op) s = .next (gives 1 ((c.byte a).setWidth 32)))
    ∧ (ok 1 → s.ready g gd 0x09 = true → exec (.ldBs g gd op) s = .next (gives 1 ((c.byte a).signExtend 32)))
    ∧ (ok 2 → s.ready g gd 0x0A = true →
      exec (.ldH g gd op) s = .next (gives 2 ((c.byte (a + 1) ++ c.byte a : BitVec 16).setWidth 32)))
    ∧ (ok 2 → s.ready g gd 0x0B = true →
      exec (.ldHs g gd op) s = .next (gives 2 ((c.byte (a + 1) ++ c.byte a : BitVec 16).signExtend 32)))
    ∧ (ok 4 → s.ready g gd 0x0C = true →
      exec (.ldW g gd op) s = .next (gives 4 (c.byte (a + 3) ++ c.byte (a + 2) ++ c.byte (a + 1) ++ c.byte a)))

/-- R92, R122, R123: a store to the X or the Y bank puts its bytes into the store buffer, a split one as a linked pair; no byte of memory
changes before the buffer drains. -/
def Obligations.StoresToBanks : Prop :=
  ∀ (s : State) (g : SprigId) (gd : BitVec 4) (op : BitVec 20) (e : Ea),
    let x := s.core.sprig g
    let v := x.rd (fDst op)
    let ok (n : Nat) : Prop := x.ea op n false = some e ∧ x.open_ (fDst op :: e.idx) [] = true ∧ x.fits e.addr n = true
    let gives (bs : List Byte) : State := s.put g (((x.stored g e.addr bs).applyUpd e.upd).past (bankSteps e.addr bs.length))
    (ok 1 → s.ready g gd 0x10 = true → exec (.stB g gd op) s = .next (gives [v.setWidth 8]))
    ∧ (ok 2 → s.ready g gd 0x11 = true → exec (.stH g gd op) s = .next (gives [v.setWidth 8, (v >>> 8).setWidth 8]))
    ∧ (ok 4 → s.ready g gd 0x12 = true →
      exec (.stW g gd op) s = .next (gives [v.setWidth 8, (v >>> 8).setWidth 8, (v >>> 16).setWidth 8, (v >>> 24).setWidth 8]))

/-- R56 to R58, R60, R126: word loads and stores outside the banks. A far load leaves its register pending, a far store its bytes; the
control page answers and takes a word at once; a store to the scratch window goes to the store buffer at its device address. -/
def Obligations.LoadsAndStoresElsewhere : Prop :=
  ∀ (s : State) (g : SprigId) (gd : BitVec 4) (op : BitVec 20) (e : Ea),
    let c := s.core
    let x := c.sprig g
    let d := fDst op
    let t : Addr := x.farAddr e.addr
    let a := e.addr.toNat
    let word : Prop := x.ea op 4 false = some e ∧ a % 4 = 0
    let quiet : Prop := x.farLoad = none ∧ x.farStore = none ∧ x.buf = []
    let far : Prop := 0xE000 ≤ a ∧ a < 0xF000
    (word → far → quiet → c.farGrants g t false = true → x.open_ e.idx [d] = true → s.ready g gd 0x0C = true →
      exec (.ldW g gd op) s = .next (s.put g
        (({ x.applyUpd e.upd with farLoad := some ⟨t, 4, false, .reg d⟩, board := putBit x.board d.toNat true } : Sprig).past 1)))
    ∧ (word → far → x.farLoad = none → x.farStore = none → c.farGrants g t false = false → x.open_ e.idx [d] = true → s.ready g gd 0x0C = true →
      exec (.ldW g gd op) s = .next ((s.on (c.logRead (.sprig g) t)).put g (((x.setD d 0).applyUpd e.upd).past 1)))
    ∧ (word → far → quiet → c.farGrants g t true = true → c.writerDenied g t (x.rd d) = false → x.open_ (d :: e.idx) [] = true →
      s.ready g gd 0x12 = true →
      exec (.stW g gd op) s = .next (s.put g
        ((({ x with farStore := some ⟨t, bytesOf (x.rd d) 4⟩ } : Sprig).applyUpd e.upd).past 1)))
    ∧ (word → 0xF000 ≤ a → x.open_ e.idx [d] = true → s.ready g gd 0x0C = true →
      ∀ v c', c.pageRead g (e.addr.setWidth 12) = (v, false, c') →
      exec (.ldW g gd op) s = .next ((s.on c').put g ((((c'.sprig g).setD d v).applyUpd e.upd).past 1)))
    ∧ (word → 0xF000 ≤ a → x.open_ (d :: e.idx) [] = true → s.ready g gd 0x12 = true →
      let c' := c.pageWrite g (e.addr.setWidth 12) (x.rd d)
      exec (.stW g gd op) s = .next ((s.on c').put g (((c'.sprig g).applyUpd e.upd).past 1)))
    ∧ (word → 0xC000 ≤ a → a < 0xE000 → c.slimGrants g (x.scratchOff e.addr) true = true → inPages (x.scratchOff e.addr) = false →
      c.holderGate g (x.scratchOff e.addr) = .pass → x.buf.length < 4 → x.open_ (d :: e.idx) [] = true → s.ready g gd 0x12 = true →
      Runs (exec (.stW g gd op) s) fun u =>
        (u.core.sprig g).buf = x.buf ++ [⟨scratchBase (bunchOf g) + (x.scratchOff e.addr).toNat, bytesOf (x.rd d) 4, false, x.depth⟩]
        ∧ u.core.mem = c.mem ∧ (u.core.sprig g).d = x.d ∧ (u.core.sprig g).pc = x.pc + 1)

/-- R94 to R96: results and flags of the two-operand integer instructions. C of ADD is the carry out of bit 31, C of SUB is 1 without a borrow,
V is signed overflow; under MODE.SAT an overflowing sum saturates and sets SATS. AND, OR and XOR clear V; MIN and MAX leave C and V. -/
def Obligations.ArithmeticResults : Prop :=
  ∀ (s : State) (g : SprigId) (gd : BitVec 4) (op : BitVec 20),
    let x := s.core.sprig g
    let a := x.rd (fSrcA op)
    let b := x.rd (fSrcB op)
    let sum := a.toInt + b.toInt
    let dif := a.toInt - b.toInt
    let out (t : Int) : Bool := decide (t < -2147483648) || decide (2147483647 < t)
    let top (t : Int) (w : Word) : Word := if modeSat x.mode && out t then (if t < 0 then 0x80000000#32 else 0x7FFFFFFF#32) else w
    let gives (o : AluOut) : State := s.put g ((x.result (fDst op) o).past 1)
    x.open_ [fSrcA op, fSrcB op] [fDst op] = true →
    (fAux op = 0 → s.ready g gd 0x20 = true → exec (.add g gd op) s = .next (gives
      { r := top sum (a + b), c := some (decide (2 ^ 32 ≤ a.toNat + b.toNat)), v := some (out sum), clip := modeSat x.mode && out sum }))
    ∧ (fAux op = 0 → s.ready g gd 0x21 = true → exec (.sub g gd op) s = .next (gives
      { r := top dif (a - b), c := some (decide (b.toNat ≤ a.toNat)), v := some (out dif), clip := modeSat x.mode && out dif }))
    ∧ (fAux op = 0 → s.ready g gd 0x22 = true → exec (.andD g gd op) s = .next (gives { r := a &&& b, v := some false }))
    ∧ (fAux op = 0 → s.ready g gd 0x23 = true → exec (.orD g gd op) s = .next (gives { r := a ||| b, v := some false }))
    ∧ (fAux op = 0 → s.ready g gd 0x24 = true → exec (.xorD g gd op) s = .next (gives { r := a ^^^ b, v := some false }))
    ∧ (fAux op = 0 → s.ready g gd 0x29 = true → exec (.minD g gd op) s = .next (gives { r := BitVec.ofInt 32 (min a.toInt b.toInt) }))
    ∧ (fAux op = 1 → s.ready g gd 0x29 = true → exec (.minD g gd op) s = .next (gives { r := BitVec.ofNat 32 (min a.toNat b.toNat) }))
    ∧ (fAux op = 0 → s.ready g gd 0x2A = true → exec (.maxD g gd op) s = .next (gives { r := BitVec.ofInt 32 (max a.toInt b.toInt) }))
    ∧ (fAux op = 1 → s.ready g gd 0x2A = true → exec (.maxD g gd op) s = .next (gives { r := BitVec.ofNat 32 (max a.toNat b.toNat) }))

/-- R94, R95: shifts by 0 to 63, counted in a register (AUX[7] clear; AUX[4:0] is then not read: the model's reading, log entry 30) or in AUX[4:0] (AUX[7] set); C is the last bit shifted out and stays on a count
of 0; ROT rotates left by the count modulo 32 and leaves C and V. ABS and NEG wrap 0x8000_0000 to itself and set V for it alone; CLZ counts
leading zeros, 32 for 0; SAT clips to AUX[4:0] + 1 bits, signed, or unsigned with AUX[5], and sets SATS when it clips. -/
def Obligations.ShiftAndUnaryResults : Prop :=
  ∀ (s : State) (g : SprigId) (gd : BitVec 4) (op : BitVec 20) (k : Nat),
    let x := s.core.sprig g
    let a := x.rd (fSrcA op)
    let gives (o : AluOut) : State := s.put g ((x.result (fDst op) o).past 1)
    let counts : Prop :=
      (fAux op &&& 0xE0 = 0 ∧ x.open_ [fSrcA op, fSrcB op] [fDst op] = true ∧ k = (x.rd (fSrcB op)).toNat % 64)
      ∨ (fSrcB op = 0 ∧ x.open_ [fSrcA op] [fDst op] = true ∧ (fAux op).toNat = 0x80 + k ∧ k < 32)
    let unary : Prop := x.open_ [fSrcA op] [fDst op] = true ∧ fSrcB op = 0
    (counts → s.ready g gd 0x25 = true → exec (.shl g gd op) s = .next (gives
      { r := a <<< k, c := if k = 0 then none else some (decide (k ≤ 32) && a.getLsbD (32 - k)) }))
    ∧ (counts → s.ready g gd 0x26 = true → exec (.shr g gd op) s = .next (gives
      { r := a >>> k, c := if k = 0 then none else some (decide (k ≤ 32) && a.getLsbD (k - 1)) }))
    ∧ (counts → s.ready g gd 0x27 = true → exec (.sar g gd op) s = .next (gives
      { r := BitVec.ofInt 32 (a.toInt / 2 ^ k), c := if k = 0 then none else some (a.getLsbD (min (k - 1) 31)) }))
    ∧ (counts → s.ready g gd 0x28 = true → exec (.rot g gd op) s = .next (gives { r := (a <<< (k % 32)) ||| (a >>> (32 - k % 32)) }))
    ∧ (unary → fAux op = 0 → s.ready g gd 0x2B = true → exec (.absD g gd op) s = .next (gives
      { r := BitVec.ofNat 32 a.toInt.natAbs, v := some (decide (a = 0x80000000#32)) }))
    ∧ (unary → fAux op = 0 → s.ready g gd 0x2C = true → exec (.negD g gd op) s = .next (gives
      { r := BitVec.ofInt 32 (-a.toInt), v := some (decide (a = 0x80000000#32)) }))
    ∧ (unary → fAux op = 0 → s.ready g gd 0x2D = true → k ≤ 32 → (∀ i, i < k → a.getLsbD (31 - i) = false) → (k < 32 → a.getLsbD (31 - k) = true) →
      exec (.clz g gd op) s = .next (gives { r := BitVec.ofNat 32 k }))
    ∧ (unary → k < 32 → (fAux op).toNat = k → s.ready g gd 0x2E = true →
      exec (.sat g gd op) s = .next (gives
        { r := BitVec.ofInt 32 (max (-(2 ^ k)) (min a.toInt (2 ^ k - 1))), clip := decide (a.toInt < -(2 ^ k)) || decide (2 ^ k ≤ a.toInt) }))
    ∧ (unary → k < 32 → (fAux op).toNat = 0x20 + k → s.ready g gd 0x2E = true →
      exec (.sat g gd op) s = .next (gives
        { r := BitVec.ofInt 32 (max 0 (min a.toInt (2 ^ (k + 1) - 1))), clip := decide (a.toInt < 0) || decide (2 ^ (k + 1) ≤ a.toInt) }))

/-- R94, R95, R97: MUL writes the 64-bit product of an even-odd pair in 2 steps; DIV with a divisor other than 0 sets the pair's scoreboard
bits and leaves the operands with the divider, whose result writes quotient and remainder and clears them, also when nothing else is known of
the state; a divisor of 0 takes DIV0. -/
def Obligations.MultiplyAndDivide : Prop :=
  ∀ (s : State) (g : SprigId) (gd : BitVec 4) (op : BitVec 20) (u : Bool),
    let x := s.core.sprig g
    let d := fDst op
    let a := x.rd (fSrcA op)
    let b := x.rd (fSrcB op)
    let sw (p : DWord) : Word := putBit (putBit x.sw bitZ (decide (p = 0))) bitN p.msb
    (∀ quo rem i j, x.div = some ⟨quo, rem, .reg i, .reg j⟩ → exec (.divResult g) s = .next (s.put g
      { (x.setD i quo).setD j rem with div := none, board := putBit (putBit x.board i.toNat false) j.toNat false }))
    ∧ (x.div = none → exec (.divResult g) s = .next s)
    ∧ (d.getLsbD 0 = false → fAux op = (if u then 1 else 0) → x.open_ [fSrcA op, fSrcB op] [d, d + 1] = true →
    (∀ p : DWord, p = (if u then BitVec.ofNat 64 (a.toNat * b.toNat) else BitVec.ofInt 64 (a.toInt * b.toInt)) → s.ready g gd 0x2F = true →
      exec (.mul g gd op) s = .next (s.put g
        (({ (x.setD d (p.setWidth 32)).setD (d + 1) ((p >>> 32).setWidth 32) with sw := sw p } : Sprig).past 2)))
    ∧ (b ≠ 0 → x.div = none → s.ready g gd 0x30 = true →
      Runs (exec (.div g gd op) s) fun t =>
        (t.core.sprig g).board = putBit (putBit x.board d.toNat true) (d + 1).toNat true
        ∧ (t.core.sprig g).pc = x.pc + 1 ∧ (t.core.sprig g).d = x.d
        ∧ Runs (exec (.divResult g) t) fun t' =>
          (u = true → (t'.core.sprig g).rd d = BitVec.ofNat 32 (a.toNat / b.toNat)
            ∧ (t'.core.sprig g).rd (d + 1) = BitVec.ofNat 32 (a.toNat % b.toNat))
          ∧ (u = false → (t'.core.sprig g).rd d = BitVec.ofInt 32 (a.toInt.tdiv b.toInt)
            ∧ (t'.core.sprig g).rd (d + 1) = BitVec.ofInt 32 (a.toInt.tmod b.toInt))
          ∧ (t'.core.sprig g).div = none ∧ (t'.core.sprig g).board.getLsbD d.toNat = false
          ∧ (t'.core.sprig g).board.getLsbD (d + 1).toNat = false)
    ∧ (b = 0 → s.ready g gd 0x30 = true → exec (.div g gd op) s = .next (s.faulted g 4 0x04)))

/-- R98 to R100: FADD, FSUB, FMUL, FMAC and FCVT write the exact result of their operands, rounded once under MODE.FPRM, with the special
values and the flags of R99 and R100; the FP flags of SW are only ever set. It rests on the model's choices of log entry 30 too. -/
def Obligations.FloatResults : Prop :=
  ∀ (s : State) (g : SprigId) (gd : BitVec 4) (op : BitVec 20),
    let x := s.core.sprig g
    let a := x.rd (fSrcA op)
    let b := x.rd (fSrcB op)
    let d := fDst op
    let m := modeFprm x.mode
    let writes (o : Out) (n : Nat) (P : Word → FpFlags → Prop) : Prop :=
      ∃ r f, P r f ∧ o = .next (s.put g (({ x.setD d r with sw := swFp x.sw f } : Sprig).past n))
    let rounds (v : FpExact) (r : Word) (f : FpFlags) : Prop := FpDelivers m v r f
    let q := ((fAux op >>> 3).setWidth 5 : BitVec 5).toNat
    let t : BitVec 2 := if (fAux op).getLsbD 2 then 1 else m
    let conv : BitVec 2 := (fAux op).setWidth 2
    (fAux op = 0 → x.open_ [fSrcA op, fSrcB op] [d] = true →
      (s.ready g gd 0x40 = true → writes (exec (.fadd g gd op) s) 2 (rounds (((fpRead a).add m (fpRead b)).scale 174)))
      ∧ (s.ready g gd 0x41 = true → writes (exec (.fsub g gd op) s) 2 (rounds (((fpRead a).add m (fpRead b).neg).scale 174)))
      ∧ (s.ready g gd 0x42 = true → writes (exec (.fmul g gd op) s) 2 (rounds (((fpRead a).mul (fpRead b)).scale 24)))
      ∧ (x.open_ [d] [] = true → s.ready g gd 0x43 = true → writes (exec (.fmac g gd op) s) 3
        (rounds ((((fpRead (x.rd d)).scale 150).add m ((fpRead a).mul (fpRead b))).scale 24))))
    ∧ (fSrcB op = 0 → x.open_ [fSrcA op] [d] = true → s.ready g gd 0x44 = true →
      let int (v : Int) : FpExact := if v = 0 then .zero false else .num (v * 2 ^ (324 - q))
      (conv = 0 → writes (exec (.fcvt g gd op) s) 2 (rounds (int a.toInt)))
      ∧ (conv = 1 → writes (exec (.fcvt g gd op) s) 2 (rounds (int a.toNat)))
      ∧ (conv = 2 → writes (exec (.fcvt g gd op) s) 2 (FpToInt t q (-(2 ^ 31)) (2 ^ 31 - 1) (fpRead a)))
      ∧ (conv = 3 → writes (exec (.fcvt g gd op) s) 2 (FpToInt t q 0 (2 ^ 32 - 1) (fpRead a))))
    ∧ (∀ (sw : Word) (f : FpFlags), swFp sw f &&& sw = sw)

/-- R101: CMP writes a predicate from the condition that AUX[7:4] names, of Da with Db, or with 0 when AUX[3] is set, TST from
a bit test, PAND, POR and PNOT from predicates. P0 reads 1 whatever is written to it (R48). -/
def Obligations.PredicateResults : Prop :=
  ∀ (s : State) (g : SprigId) (gd : BitVec 4) (op : BitVec 20),
    let x := s.core.sprig g
    let a := x.rd (fSrcA op)
    let b := x.rd (fSrcB op)
    let p := fPd op
    let aux := fAux op
    let gives (v : Bool) : State := s.put g ((x.setP p v).past 1)
    let cc : BitVec 4 := (fAux op >>> 4).setWidth 4
    fDst op = 0 →
    (∀ r, aux.getLsbD 3 = false → cc.toNat < 14 → cond cc a b = some r → x.open_ [fSrcA op, fSrcB op] [] = true → s.ready g gd 0x50 = true →
      exec (.cmp g gd op) s
        = .next (s.put g (({ x.setP p r with sw := if condInv cc a b then putBit x.sw bitFinv true else x.sw } : Sprig).past 1)))
    ∧ (∀ r, aux.getLsbD 3 = true → fSrcB op = 0 → cc.toNat < 14 → cond cc a 0 = some r → x.open_ [fSrcA op] [] = true → s.ready g gd 0x50 = true →
      exec (.cmp g gd op) s
        = .next (s.put g (({ x.setP p r with sw := if condInv cc a 0 then putBit x.sw bitFinv true else x.sw } : Sprig).past 1)))
    ∧ (aux &&& 0xF0 = 0 → x.open_ [fSrcA op, fSrcB op] [] = true → s.ready g gd 0x51 = true →
      exec (.tst g gd op) s = .next (gives ((a &&& b != 0) != aux.getLsbD 3)))
    ∧ (aux &&& 0xE8 = 0 → (fSrcA op).getLsbD 3 = false → (fSrcB op).getLsbD 3 = false →
      let pa := x.rp ((fSrcA op).setWidth 3)
      let pb := x.rp ((fSrcB op).setWidth 3) != aux.getLsbD 4
      (s.ready g gd 0x52 = true → exec (.pand g gd op) s = .next (gives (pa && pb)))
      ∧ (s.ready g gd 0x53 = true → exec (.por g gd op) s = .next (gives (pa || pb))))
    ∧ (aux &&& 0xF8 = 0 → (fSrcA op).getLsbD 3 = false → fSrcB op = 0 → s.ready g gd 0x54 = true →
      exec (.pnot g gd op) s = .next (gives (!x.rp ((fSrcA op).setWidth 3))))
    ∧ (∀ (y : Sprig) (i : BitVec 3) (v : Bool), (y.setP i v).rp 0 = true ∧ (i ≠ 0 → (y.setP i v).rp i = v)
      ∧ ∀ j, j ≠ i → (y.setP i v).rp j = y.rp j)


/-- R103 to R106: MAC and MACS add the lane products of MODE.LANE to the whole accumulator or take them away, MACX2 and MACX4 lane by lane,
FMACA fused in FP32; under MODE.SAT a sum leaving its signed range clips and sets SATS, else it wraps within its lane. The operands come from
the X and the Y bank; XM and YM update the two base registers. -/
def Obligations.MacResults : Prop :=
  ∀ (s : State) (g : SprigId) (gd : BitVec 4) (op : BitVec 20),
    let c := s.core
    let x := c.sprig g
    let xa : BitVec 3 := (fXa op).setWidth 3
    let ya : BitVec 3 := 4 + (fYa op).setWidth 3
    let wx := c.bankWord g (x.ra xa)
    let wy := c.bankWord g (x.ra ya)
    let ac := x.rac (fAcc op)
    let el (w : Word) (b i : Nat) (signed : Bool) : Int :=
      if signed then ((w >>> (b * i)).setWidth b).toInt else ((w >>> (b * i)).setWidth b).toNat
    let term (b i : Nat) (sg : Bool) : Int := el wx b i true * el wy b i sg
    let dot (sg : Bool) : Int :=
      if modeLane x.mode = 0 then term 32 0 sg
      else if modeLane x.mode = 1 then term 16 0 sg + term 16 1 sg
      else term 8 0 sg + term 8 1 sg + term 8 2 sg + term 8 3 sg
    let signed (p : Int) : Int := if fNeg op then -p else p
    let lim (b : Nat) : Int := 2 ^ (b - 1)
    let fit (b : Nat) (t : Int) : Int := if modeSat x.mode then max (-(lim b)) (min t (lim b - 1)) else t
    let clips (b : Nat) (t : Int) : Bool := modeSat x.mode && (decide (t < -(lim b)) || decide (lim b ≤ t))
    let k := (bankSteps (x.ra xa) 4 - 1) + (bankSteps (x.ra ya) 4 - 1)
    let gives (n : Nat) (r : BitVec 80) (sw : Word) : State := s.put g
      (({ ((x.setAc (fAcc op) r).setA xa (if fXm op = 0 then x.ra xa else x.modulo xa (macStep (fXm op) (x.rd 6)))).setA ya
            (if fYm op = 0 then x.ra ya else BitVec.ofInt 16 ((x.ra ya).toNat + macStep (fYm op) (x.rd 7)))
          with sw := sw } : Sprig).past (n + k))
    let sats (b : Bool) : Word := if b then putBit x.sw bitSats true else x.sw
    let lane (r : BitVec 80) (w i : Nat) : Int := ((r >>> (w * i)).setWidth w).toInt
    (op.setWidth 10 : BitVec 10) = 0 → fYa op ≠ 3#2 → x.open_ (macReads op) [] = true →
    (x.ra xa).toNat + 4 ≤ 0x6000 → 0x6000 ≤ (x.ra ya).toNat → c.clear g (x.ra xa) 4 = true → c.clear g (x.ra ya) 4 = true →
    (let t := ac.toInt + signed (dot true);
      s.ready g gd 0x60 = true → exec (.mac g gd op) s = .next (gives 1 (BitVec.ofInt 80 (fit 80 t)) (sats (clips 80 t))))
    ∧ (let t := ac.toInt + signed (dot false);
      s.ready g gd 0x61 = true → exec (.macs g gd op) s = .next (gives 1 (BitVec.ofInt 80 (fit 80 t)) (sats (clips 80 t))))
    ∧ (let t (i : Nat) : Int := lane ac 40 i + signed (term 16 i true);
      s.ready g gd 0x62 = true → ∃ r, exec (.macx2 g gd op) s = .next (gives 1 r (sats ((List.range 2).any fun i => clips 40 (t i))))
        ∧ ∀ i, i < 2 → lane r 40 i = (BitVec.ofInt 40 (fit 40 (t i))).toInt)
    ∧ (let t (i : Nat) : Int := lane ac 20 i + signed (term 8 i true);
      s.ready g gd 0x63 = true → ∃ r, exec (.macx4 g gd op) s = .next (gives 1 r (sats ((List.range 4).any fun i => clips 20 (t i))))
        ∧ ∀ i, i < 4 → lane r 20 i = (BitVec.ofInt 20 (fit 20 (t i))).toInt)
    ∧ (s.ready g gd 0x64 = true →
      let r := fma (modeFprm x.mode) (fNeg op) (ac.setWidth 32) wx wy
      exec (.fmaca g gd op) s = .next (gives 2 (r.1.setWidth 80) (swFp x.sw r.2)))

/-- R104, R106: CLRA clears or loads an accumulator, RNDA rounds each lane at bit k and clears the bits below, ASH shifts each lane, STAS.M
stores and STAS.R writes the word built from it, clipped under MODE.SAT. CLRA, RNDA and ASH change no flag. CLRA with AUX[0] clear
does not look at SRCA (the model's reading, log entry 30). -/
def Obligations.AccumulatorResults : Prop :=
  ∀ (s : State) (g : SprigId) (gd : BitVec 4) (op : BitVec 20),
    let x := s.core.sprig g
    let n : BitVec 1 := (op >>> 16).setWidth 1
    let ac := x.rac n
    let pk : BitVec 2 := (op >>> 6).setWidth 2
    let b := if pk = 0 then 80 else if pk = 1 then 40 else 20
    let k : BitVec 6 := op.setWidth 6
    let lane (r : BitVec 80) (i : Nat) : Int := ((r >>> (b * i)).setWidth b).toInt
    let gives (r : BitVec 80) : State := s.put g ((x.setAc n r).past 1)
    let sats (v : Bool) : Word := if v then putBit x.sw bitSats true else x.sw
    (op &&& 0xE0FFF = 0 → s.ready g gd 0x68 = true → exec (.clra g gd op) s = .next (gives 0))
    ∧ (op &&& 0xE0FFF = 1 → x.open_ [fSrcA op] [] = true → s.ready g gd 0x68 = true →
      exec (.clra g gd op) s = .next (gives ((x.rd (fSrcA op)).signExtend 80)))
    ∧ (op &&& 0xEFF00 = 0 → pk ≠ 3 → k.toNat < b → s.ready g gd 0x69 = true →
      ∃ r, exec (.rnda g gd op) s = .next (gives r)
        ∧ ∀ i, i < 80 / b → lane r i = (BitVec.ofInt b (roundInt (modeRnd x.mode) (lane ac i) k.toNat * 2 ^ k.toNat)).toInt)
    ∧ (op &&& 0xEFF00 = 0 → pk ≠ 3 → s.ready g gd 0x6A = true →
      ∃ r, exec (.ash g gd op) s = .next (gives r)
        ∧ ∀ i, i < 80 / b → lane r i = (BitVec.ofInt b
          (if 0 ≤ k.toInt then lane ac i * 2 ^ k.toNat else lane ac i / 2 ^ (64 - k.toNat))).toInt)
    ∧ (∀ e, let pk : BitVec 2 := (op >>> 17).setWidth 2
        let w := stasWord (x.rac (fAcc op)) pk (modeRnd x.mode) (modeSat x.mode) ((op >>> 4).setWidth 6 : BitVec 6).toNat
        op.getLsbD 16 = false → (op.setWidth 4 : BitVec 4) = 0 → (pk = 3#2 → (op >>> 4).setWidth 6 = (0 : BitVec 6)) →
        x.ea op 4 true = some e → x.fits e.addr 4 = true → s.ready g gd 0x6B = true →
        exec (.stasM g gd op) s = .next (s.put g
          (({ (x.stored g e.addr (bytesOf w.1 4)).applyUpd e.upd with sw := sats w.2 } : Sprig).past (1 + bankSteps e.addr 4))))
    ∧ (let w := stasWord (x.rac ((op >>> 12).setWidth 1)) pk (modeRnd x.mode) (modeSat x.mode) k.toNat;
      op &&& 0x0EF00 = 0 → (pk = 3#2 → k = 0) → x.open_ [] [fDst op] = true → s.ready g gd 0x6C = true →
      exec (.stasR g gd op) s = .next (s.put g (({ x.setD (fDst op) w.1 with sw := sats w.2 } : Sprig).past 2)))

/-- R107, R108: BR, BRL, BRR, BRLR and RET transfer control modulo 2^16; the calls push PC + 1 below A7, RET pops it. -/
def Obligations.BranchResults : Prop :=
  ∀ (s : State) (g : SprigId) (gd : BitVec 4) (op : BitVec 20),
    let c := s.core
    let x := c.sprig g
    let a := x.ra 7
    let pushed : Sprig := (x.stored g (a - 4) (bytesOf ((x.pc + 1).setWidth 32 : Word) 4)).setA 7 (a - 4)
    let target : BitVec 16 := (x.rd (fSrcA op)).setWidth 16
    (fDst op = 0 → s.ready g gd 0x70 = true → exec (.br g gd op) s = .next (s.put g (x.goes 1 (x.pc + op.setWidth 16))))
    ∧ (fDst op = 0 → x.fits (a - 4) 4 = true → s.ready g gd 0x71 = true →
      exec (.brl g gd op) s = .next (s.put g (pushed.goes 3 (x.pc + op.setWidth 16))))
    ∧ (op &&& 0xF0FFF = 0 → x.open_ [fSrcA op] [] = true → s.ready g gd 0x72 = true →
      exec (.brr g gd op) s = .next (s.put g (x.goes 1 target)))
    ∧ (op &&& 0xF0FFF = 0 → x.open_ [fSrcA op] [] = true → x.fits (a - 4) 4 = true → s.ready g gd 0x73 = true →
      exec (.brlr g gd op) s = .next (s.put g (pushed.goes 3 target)))
    ∧ (op = 0 → c.clear g a 4 = true → s.ready g gd 0x74 = true →
      exec (.ret g gd op) s = .next (s.put g ((x.setA 7 (a + 4)).goes 3 ((c.bankWord g a).setWidth 16))))

/-- R66, R68 to R71, R79, R107, R108: entry writes the six words of the frame below A7 in the Y bank, with the resume PC, the predicates, the
poison tags and SW, and goes to the vector's handler with interrupts and tracing off; RETI takes all of it back. TRAP and BKPT request their
vectors; with halt-on-break BKPT, and HALT always, leave the sprig HALTED. It rests on the model's choices of log entries 5, 28 too. -/
def Obligations.FramesAndTraps : Prop :=
  ∀ (s : State) (g : SprigId) (gd : BitVec 4) (op : BitVec 20),
    let c := s.core
    let x := c.sprig g
    let a := x.ra 7
    let fw (k : Nat) : Word := c.word (localsBase g + a.toNat + k)
    (op = 0 → 0x6000 ≤ a.toNat → a.toNat + 24 ≤ 0xC000 → c.clear g a 24 = true → x.slotsOpen = false → x.open_ [] [0, 1, 2, 3] = true →
      s.ready g gd 0x75 = true →
      Runs (exec (.reti g gd op) s) fun t =>
        let y := t.core.sprig g
        t = s.put g y ∧ y.pc = (fw 0).setWidth 16 ∧ y.p = (fw 0 >>> 16).setWidth 8 ∧ y.sw = swWrite x.sw (fw 4)
        ∧ y.rd 0 = fw 8 ∧ y.rd 1 = fw 12 ∧ y.rd 2 = fw 16 ∧ y.rd 3 = fw 20 ∧ y.ra 7 = a + 24 ∧ y.depth = x.depth - 1
        ∧ y.tags.setWidth 4 = ((fw 0 >>> 24).setWidth 4 : BitVec 4)
        ∧ modeIen y.mode = (fw 4).getLsbD 14 ∧ modeTrace y.mode = (fw 4).getLsbD 15 ∧ y.req.trace = false)
    ∧ (op &&& 0xFFFE0 = 0 → s.ready g gd 0x76 = true →
      exec (.trap g gd op) s = .next (s.put g
        (({ x with req := { x.req with rank1 := some (32#6 + (op.setWidth 5 : BitVec 5).setWidth 6), resume := x.pc + 1 } } : Sprig).past 1)))
    ∧ (op = 0 → s.ready g gd 0x77 = true → exec (.bkpt g gd op) s = .next (s.put g
        ((if x.req.haltOnBreak then { x with state := .halted }
          else { x with req := { x.req with rank1 := some 5, resume := x.pc + 1 } } : Sprig).past 1)))
    ∧ (op = 0 → s.ready g gd 0xB5 = true → exec (.halt g gd op) s = .next (s.put g (({ x with state := .halted } : Sprig).past 1)))
    ∧ (∀ v r, c.recognise g = some (v, r) → (x.state = .run ∨ (x.state = .wait ∧ x.req.stepping = false)) → c.quietSprig g = false →
      c.asleep (bunchOf g) = false → 0x6000 + 24 ≤ a.toNat → a.toNat ≤ 0xC000 → (c.vectorWord g v).getLsbD 16 = true →
      (∀ k, k < 7 → c.csMark (storeBase g + 4 * k) ≠ .double) →
      Runs (exec (.interruptEntry g) s) fun t =>
        let y := t.core.sprig g
        let fr := a - 24
        let w (k : Nat) : Word := t.core.word (localsBase g + fr.toNat + k)
        y.pc = (c.vectorWord g v).setWidth 16 ∧ y.ra 7 = fr ∧ y.depth = x.depth + 1 ∧ y.state = .run ∧ y.req.rank1 = none
        ∧ modeIen y.mode = false ∧ modeTrace y.mode = false ∧ y.d = x.d ∧ y.p = x.p
        ∧ (y.sw >>> 16).setWidth 6 = v ∧ y.sw.getLsbD 14 = modeIen x.latestMode ∧ y.sw.getLsbD 15 = modeTrace x.latestMode
        ∧ (w 0).setWidth 16 = r ∧ (w 0 >>> 16).setWidth 8 = x.pImage ∧ (w 0 >>> 24).setWidth 4 = (x.tags.setWidth 4 : BitVec 4)
        ∧ w 4 = y.sw ∧ w 8 = x.rd 0 ∧ w 12 = x.rd 1 ∧ w 16 = x.rd 2 ∧ w 20 = x.rd 3
        ∧ ∀ b, (b < localsBase g + fr.toNat ∨ localsBase g + fr.toNat + 24 ≤ b) → t.core.byte b = c.byte b)

/-- R110, R111, R185, R195, R196, R207: SEND hands D8 to D15 on as a card whose header carries the channel's epoch and whose number is the
channel's next, and spends a credit; it leaves for the queue or posy of this device that the handle names, for another device, or for a host
pair, and waits in the channel's slot while its posy is held; without a credit it freezes the sprig. RECV and RECV.NB pop the head card, whose
credit leaves for its producer, or the EPOCH marker; a card whose header or sideband is poisoned gets the substitute header, and one whose
sideband is, an entry in the error log in place of its credit; D8 to D15 take it when it fills. RECV blocks at an empty queue until a card is there,
RECV.NB says so. -/
def Obligations.SendAndReceive : Prop :=
  ∀ (s : State) (g : SprigId) (gd : BitVec 4) (op : BitVec 20) (card : Card) (rest : List Card),
    let c := s.core
    let x := c.sprig g
    let n := fS op
    let q : BitVec 3 := (fS op).setWidth 3
    let i : QueueId := queueAt g q
    let y := c.queue i
    let ch := c.chan g n
    let me : Producer := .chan c.dev g n
    let last := (x.rd 8).getLsbD 19
    let head : Word := ((x.rd 8 &&& 0xFF0F00FF#32) ||| (ch.epoch.setWidth 32 <<< 8)) ||| (if x.cardTags = 0 then 0 else 0x00800000#32)
    let out : Card := { w := ⟨head, x.rd 9, x.rd 10, x.rd 11, x.rd 12, x.rd 13, x.rd 14, x.rd 15⟩, poison := x.cardTags, route := me
                        serial := ch.serial, seq := ch.nextSeq }
    let paid : Chan := { ch with
      credit := ch.credit - 1, nextSeq := ch.nextSeq + 1, owed := ch.owed ++ [⟨ch.nextSeq, ch.serial, none⟩]
      isOpen := !last, since := if last then 0 else ch.since + 1, lastTag := (x.rd 8).setWidth 8 }
    let toPair : Bool := decide (((c.scfg g n) >>> 29).setWidth 2 = 1#2)
    let h := c.shandle g n
    let dest : Parcel :=
      if toPair then .toPair (h.setWidth 8) out
      else if handleDev h = c.dev then (if h.getLsbD 22 then .toPosy (h.setWidth 10) out else .toQueue (h.setWidth 14) out false)
      else .toRemote h out false
    let sends : Prop := fR op = 0 ∧ fK op = 0 ∧ x.open_ [] cardRegs = true ∧ x.rd 8 >>> 24 ≠ 0 ∧ ch.out = none
      ∧ c.outboundBusy me h = false ∧ s.ready g gd 0x80 = true
    let takes (f : RecvFill) (z : Sprig) : Sprig := { z with fill := some f, board := z.board ||| 0xFF00 }
    let cardOpen : Prop := x.open_ [] cardRegs = true ∧ x.fill = none
    let plain : Prop := y.mark = false ∧ y.chain = card :: rest
    let gone := c.setQueue i { y with chain := rest }
    let popped : Core :=
      if card.badSide then gone.log { cls := 1, source := 0x0B, code := 0x0018, unit := i.setWidth 32, detail := 0, addr := 0 }
      else if card.bcast = none ∧ card.mute = false then gone.launch (queuePlace i) (.credit card.route card.serial false)
      else gone.returnCredit (queuePlace i) card
    let substitute : Word := 0x05900000#32 ||| (y.epoch.setWidth 32 <<< 8)
    let got : RecvFill :=
      if card.badSide then ⟨{ card.w with w0 := substitute }, 0xFF⟩
      else if card.poison.getLsbD 0 then ⟨{ card.w with w0 := substitute }, card.poison &&& 0xFE⟩
      else ⟨card.w, card.poison⟩
    let taken : Core := c.setQueue i { y with mark := false, first := 0, resets := 0, discarded := 0, cause := 0, at_ := 0 }
    let marker : RecvFill := ⟨{ w0 := 0x01500000#32 ||| (y.epoch.setWidth 32 <<< 8)
                                w1 := (y.resets.setWidth 32 <<< 16) ||| (y.epoch.setWidth 32 <<< 8) ||| y.first.setWidth 32
                                w2 := y.discarded, w3 := y.cause.setWidth 32, w4 := y.at_.setWidth 32
                                w5 := (y.at_ >>> 32).setWidth 32, w6 := 0, w7 := 0 }, 0⟩
    let empty : Prop := y.mark = false ∧ y.chain = []
    let recvs : Prop := fR op = 0 ∧ fK op = 0 ∧ (fS op).getLsbD 3 = false ∧ cardOpen ∧ s.ready g gd 0x81 = true
    let tries : Prop := fR op = 0 ∧ (fS op).getLsbD 3 = false ∧ fK op &&& 0xFF8 = 0 ∧ cardOpen ∧ s.ready g gd 0x82 = true
    let blocked : Prop := x.req.block = .recv q ∧ x.issues = true ∧ c.quietSprig g = false
    (sends → 1 ≤ ch.credit → toPair = true ∨ c.handleHeld h = false → exec (.send g gd op) s
        = .next (s.on (((c.setChan g n paid).launch (prodKey me) dest).setSprig g (x.past 3))))
    ∧ (sends → 1 ≤ ch.credit → toPair = false → c.handleHeld h = true → exec (.send g gd op) s
        = .next (s.on ((c.setChan g n { paid with out := some out }).setSprig g (x.past 3))))
    ∧ (sends → ch.credit < 1 → Runs (exec (.send g gd op) s) fun t =>
      (t.core.sprig g).state = .frozen ∧ (t.core.sprig g).cause = causeCredit ∧ (t.core.sprig g).pc = x.pc ∧ t.core.fly = c.fly ∧ t.core.mem = c.mem)
    ∧ (recvs → plain → exec (.recv g gd op) s = .next (s.on (popped.setSprig g ((takes got x).past 1))))
    ∧ (recvs → y.mark = true → exec (.recv g gd op) s = .next (s.on (taken.setSprig g ((takes marker x).past 1))))
    ∧ (recvs → empty → exec (.recv g gd op) s = .next (s.put g { x with req := { x.req with block := .recv q } }))
    ∧ (blocked → plain → exec (.recvUnblock g) s = .next (s.on (popped.setSprig g ((takes got x).past 1))))
    ∧ (blocked → y.mark = true → exec (.recvUnblock g) s = .next (s.on (taken.setSprig g ((takes marker x).past 1))))
    ∧ (blocked → empty → exec (.recvUnblock g) s = .next s)
    ∧ (∀ f, x.fill = some f → Runs (exec (.recvFill g) s) fun t =>
      let z := t.core.sprig g
      t = s.put g z ∧ z.fill = none ∧ z.board = x.board &&& 0x00FF ∧ z.pc = x.pc ∧ z.state = x.state
      ∧ (∀ k : BitVec 3, z.rd (8 + k.setWidth 4) = cardWord f.card k ∧ z.tags.getLsbD (8 + k.toNat) = f.poison.getLsbD k.toNat)
      ∧ ∀ j : BitVec 4, j.toNat < 8 → z.rd j = x.rd j ∧ z.tags.getLsbD j.toNat = x.tags.getLsbD j.toNat)
    ∧ (tries → plain → exec (.recvNb g gd op) s
        = .next (s.on (popped.setSprig g (((takes got x).setP (op.setWidth 3) true).past 1))))
    ∧ (tries → y.mark = true → exec (.recvNb g gd op) s = .next (s.on (taken.setSprig g (((takes marker x).setP (op.setWidth 3) true).past 1))))
    ∧ (tries → empty → exec (.recvNb g gd op) s = .next (s.put g ((x.setP (op.setWidth 3) false).past 1)))

/-- R64, R65, R112, R113: WAIT goes on when a wake condition holds and
else sleeps until WAIT_WAKE finds one; EVR reads the latches, EVC clears those it names, RDT reads both halves of one DTIME. -/
def Obligations.EventInstructions : Prop :=
  ∀ (s : State) (g : SprigId) (gd : BitVec 4) (op : BitVec 20),
    let c := s.core
    let x := c.sprig g
    let d := fR op
    let m : Byte := op.setWidth 8
    (op = 0 → s.ready g gd 0x90 = true → exec (.waitI g gd op) s
        = .next (s.put g (if c.wakeCondition g then x.past 1 else { x with state := .wait })))
    ∧ (x.state = .wait → c.wakeCondition g = true → c.quietSprig g = false → c.asleep (bunchOf g) = false →
      exec (.waitWake g) s = .next (s.put g (({ x with state := .run } : Sprig).past 1)))
    ∧ (x.state = .wait → c.wakeCondition g = false → exec (.waitWake g) s = .next s)
    ∧ (op.setWidth 16 = (0 : BitVec 16) → x.open_ [] [d] = true → s.ready g gd 0x91 = true →
      exec (.evr g gd op) s
        = .next (s.put g ((x.setD d ((x.page.merged.setWidth 32 <<< 8) ||| x.page.latch.setWidth 32)).past 1)))
    ∧ (op &&& 0xFFE00 = 0 → s.ready g gd 0x92 = true → exec (.evc g gd op) s = .next (s.put g
        (({ x with page := { x.page with
            latch := x.page.latch &&& ~~~m
            merged := if op.getLsbD 8 then x.page.merged &&& ~~~m else x.page.merged } } : Sprig).past 1)))
    ∧ (op.setWidth 16 = (0 : BitVec 16) → d.getLsbD 0 = false → x.open_ [] [d, d + 1] = true → s.ready g gd 0x93 = true →
      exec (.rdt g gd op) s
        = .next (s.put g (((x.setD d (c.time.dtime.setWidth 32)).setD (d + 1) ((c.time.dtime >>> 32).setWidth 32)).past 2)))

/-- R114 to R116, R172, R238: DEAL sends the value, the unit and the instant to a unit that grants the bunch and freezes the sprig otherwise; AADD
and ASWP are issued to the scratch window and leave their register pending; the result is the word's old value, and the word holds the sum or
the operand. -/
def Obligations.DealsAndAtomics : Prop :=
  ∀ (s : State) (g : SprigId) (gd : BitVec 4) (op : BitVec 20) (sw : Bool),
    let c := s.core
    let x := c.sprig g
    let t := fSrcA op
    let u := x.rd (fSrcB op)
    (t.getLsbD 0 = false → fAux op = 0 → x.open_ [fDst op, t, t + 1, fSrcB op] [] = true → s.ready g gd 0x94 = true →
      (c.mayDeal g (u.setWidth 16) = true → Runs (exec (.deal g gd op) s) fun v =>
        v.core.fly = c.fly ++ [⟨dealOrigin g, unitPlace (u.setWidth 16), .deal (u.setWidth 16) (x.rd (fDst op)) (x.rd (t + 1) ++ x.rd t) g⟩]
        ∧ v.core.sprig g = ({ x with dealsOut := x.dealsOut + 1 } : Sprig).past 2)
      ∧ (c.mayDeal g (u.setWidth 16) = false → Runs (exec (.deal g gd op) s) fun v =>
        (v.core.sprig g).state = .frozen ∧ (v.core.sprig g).cause = causePerm ∧ v.core.fly = c.fly))
    ∧ (∀ e, x.ea op 4 false = some e → 0xC000 ≤ e.addr.toNat → e.addr.toNat < 0xE000 → e.addr.toNat % 4 = 0 → c.slimGrants g (x.scratchOff e.addr) true = true →
      inPages (x.scratchOff e.addr) = false → c.holderGate g (x.scratchOff e.addr) = .pass → x.atomics.length < 2 → x.buf = [] →
      x.open_ (fDst op :: e.idx) [fDst op] = true →
      let after : State := s.put g ((({ x.reportLease none with
        atomics := x.atomics ++ [⟨x.scratchOff e.addr, sw, x.rd (fDst op), .reg (fDst op), x.depth⟩]
        board := putBit x.board (fDst op).toNat true } : Sprig).applyUpd e.upd).past 1)
      (sw = false → s.ready g gd 0xA0 = true → exec (.aadd g gd op) s = .next after)
      ∧ (sw = true → s.ready g gd 0xA1 = true → exec (.aswp g gd op) s = .next after))
    ∧ (∀ (p : Atomic) (rest : List Atomic) (d : BitVec 4), x.atomics = p :: rest → p.dst = .reg d → p.off.toNat % 4 = 0 →
      c.leaseGate (bunchOf g) ((inBunch g).setWidth 8) (some p.depth) p.off = (.pass, c) →
      let a := scratchBase (bunchOf g) + p.off.toNat
      c.mark a = .ok → Runs (exec (.atomicResult g) s) fun v =>
        v.core.word a = (if p.swap then p.operand else c.word a + p.operand)
        ∧ (v.core.sprig g).rd d = c.word a ∧ (v.core.sprig g).board = putBit x.board d.toNat false ∧ (v.core.sprig g).atomics = rest
        ∧ ∀ b, (b < a ∨ a + 4 ≤ b) → v.core.byte b = c.byte b)

/-- R50, R51, R117, R118: MMODE and its set and clear forms write MODE's nine fields, which come into force after the next instruction; LANE 3 is
refused. FENCE goes on when every store is settled, FENCE.Q when every SEND and DEAL is accepted or refused, SYNC when both hold and no
register is pending; before that each waits where it stands. -/
def Obligations.ModeAndFences : Prop :=
  ∀ (s : State) (g : SprigId) (gd : BitVec 4) (op : BitVec 20),
    let c := s.core
    let x := c.sprig g
    let k : Word := (op.setWidth 9 : BitVec 9).setWidth 32
    let now := x.written.getD x.mode
    let takes (v : Word) (o : Out) : Prop :=
      if modeLane v = 3 then o = .next (s.faulted g 2 0x02)
      else ∃ y : Sprig, o = .next (s.put g y) ∧ y.written = some (v &&& 0x1FF#32) ∧ y.mode = now ∧ y.pc = x.pc + 1 ∧ y.d = x.d ∧ y.a = x.a
    let stores : Prop := x.buf = [] ∧ x.farStore = none ∧ x.atomics = []
    let sends : Prop := c.sendsSettled g = true
    let holds (p : Prop) (o : Out) : Prop :=
      (p → o = .next (s.put g (x.past 1)))
      ∧ (¬p → Runs o fun t => (t.core.sprig g).pc = x.pc ∧ (t.core.sprig g).state = x.state ∧ (t.core.sprig g).d = x.d ∧ (t.core.sprig g).board = x.board
        ∧ t.core.mem = c.mem ∧ t.core.fly = c.fly)
    (op.setWidth 16 = (0 : BitVec 16) → x.open_ [fR op] [] = true → s.ready g gd 0xB0 = true →
      takes (x.rd (fR op)) (exec (.mmode g gd op) s))
    ∧ (op &&& 0xFFE00 = 0 → s.ready g gd 0xB1 = true → takes (now ||| k) (exec (.mmodeS g gd op) s))
    ∧ (op &&& 0xFFE00 = 0 → s.ready g gd 0xB2 = true → takes (now &&& ~~~k) (exec (.mmodeC g gd op) s))
    ∧ (op = 0 → s.ready g gd 0xB3 = true → holds stores (exec (.fenceI g gd op) s))
    ∧ (op = 0 → s.ready g gd 0x83 = true → holds sends (exec (.fenceQ g gd op) s))
    ∧ (op = 0 → s.ready g gd 0xB4 = true → holds (stores ∧ sends ∧ x.board = 0) (exec (.syncI g gd op) s))

/-- R131 to R139: a customer instruction runs the microwords from its entry. Here a routine of one word, an addition of SRCA and SRCB into DST
that updates all four flags and ends: its result is ADD's, its micro-result bits are set from it, and it takes 1 step. It rests on the model's
choices of log entry 7 too. -/
def Obligations.CustomerInstructionRuns : Prop :=
  ∀ (s : State) (g : SprigId) (gd : BitVec 4) (k : BitVec 5) (op : BitVec 20),
    let c := s.core
    let x := c.sprig g
    let opc : Byte := 0xE0 + k.setWidth 8
    let entry := c.word (storeBase g + 0x4000 + 4 * opc.toNat)
    let ua : BitVec 12 := entry.setWidth 12
    let sum := x.rd (fSrcA op) + x.rd (fSrcB op)
    let out : Bool := decide ((x.rd (fSrcA op)).toInt + (x.rd (fSrcB op)).toInt ≠ sum.toInt)
    let carry : Bool := decide (2 ^ 32 ≤ (x.rd (fSrcA op)).toNat + (x.rd (fSrcB op)).toNat)
    c.recognise g = none → s.ready g gd opc = true → c.word (storeBase g + 4 * ua.toNat) = 0x2010C7F3#32 → c.csMark (storeBase g + 4 * ua.toNat) = .ok →
    ((entry >>> 20).setWidth 6 : BitVec 6) = 7#6 → x.open_ [fSrcA op, fSrcB op] [fDst op] = true →
    Runs (exec (.customerInstruction g gd opc op) s) fun t =>
      let y := t.core.sprig g
      t = s.put g y ∧ y.rd (fDst op) = sum ∧ y.sw = swInt x.sw { r := sum, c := some carry, v := some out } ∧ y.pc = x.pc + 1
      ∧ y.page.cntStep = x.page.cntStep + 1 ∧ y.a = x.a ∧ y.p = x.p ∧ y.m = x.m ∧ y.ac = x.ac
      ∧ y.micro.az = decide (sum = 0) ∧ y.micro.an = sum.msb ∧ y.micro.t = x.micro.t ∧ (∀ j, j ≠ fDst op → y.rd j = x.rd j)

/-! ### What a sprig's accesses come to -/

/-- R52, R57, R70, R123, R124: a far load's return writes its register and ends its scoreboard bit, a far store's acceptance writes memory, the
store buffer drains its oldest entry to its bank, and a value whose register an entry took over goes to its slot of the frame. -/
def Obligations.AccessesReturn : Prop :=
  ∀ (s : State) (g : SprigId),
    let c := s.core
    let x := c.sprig g
    (∀ f d, x.farLoad = some f → f.dst = .reg d → isMem f.addr.toNat = true → c.memAvail f.addr.toNat = .ok →
      Runs (exec (.farLoadReturn g) s) fun t =>
        let y := t.core.sprig g
        y.farLoad = none ∧ y.rd d = extend (c.bytes f.addr.toNat f.size) f.signed
        ∧ y.tags.getLsbD d.toNat = (c.readMem f.addr.toNat f.size).2.1 ∧ y.board.getLsbD d.toNat = false ∧ t.core.mem = c.mem)
    ∧ (∀ f, x.farStore = some f → isMem f.addr.toNat = true → c.memAvail f.addr.toNat = .ok →
      Runs (exec (.farStoreAccept g) s) fun t =>
        (t.core.sprig g).farStore = none ∧ SameBytesBut c t.core f.addr.toNat f.data.length
        ∧ (∀ k b, f.data[k]? = some b → t.core.byte (f.addr.toNat + k) = b))
    ∧ (∀ e rest, x.buf = e :: rest → e.linked = false → x.atomics = [] → localsBase g ≤ e.addr →
      Runs (exec (.storeBufferDrain g) s) fun t =>
        (t.core.sprig g).buf = rest ∧ SameBytesBut c t.core e.addr e.bytes.length
        ∧ (∀ k b, e.bytes[k]? = some b → t.core.byte (e.addr + k) = b ∧ t.core.badParity (e.addr + k) = false))
    ∧ (∀ v fr, x.farLoad = none → x.div = some v → v.dq = .slot fr 2 → v.dr = .slot fr 3 →
      Runs (exec (.frameSlotReturn g 2) s) fun t =>
        let a := localsBase g + fr.toNat
        (t.core.sprig g).div = none ∧ t.core.word (a + 16) = v.quo ∧ t.core.word (a + 20) = v.rem ∧ SameBytesBut c t.core (a + 16) 8
        ∧ (t.core.sprig g).d = x.d)

/-- R60 to R62, R185, R200, R235, R236, R287 to R291: reads and writes of a sprig's control page and of its interrupt controller that have an
effect: a pop port takes the head card or the EPOCH marker, and reads 0 at an empty queue; a claim takes the latched source while it is
pending, else the eligible one of highest priority and lowest number, and makes it active for the sprig, or counts as spurious; a completion
ends it; SPG_EV clears what it names; a write of SPG_DLARM arms, disarms or satisfies the monitor bound to the slot. -/
def Obligations.ControlPageResults : Prop :=
  ∀ (s : State) (g : SprigId) (q : BitVec 3) (m : Master) (b : BunchId) (v : Word) (slot : BitVec 2) (w : DWord) (card : Card) (rest : List Card),
    let c := s.core
    let x := c.sprig g
    let i := queueAt g q
    let y := c.queue i
    let zero : RecvFill := ⟨⟨0, 0, 0, 0, 0, 0, 0, 0⟩, 0⟩
    let shows (d : Core) (f : RecvFill) : State := s.on
      ((d.setSprig g { x with page := { x.page with ports := Tbl.set x.page.ports q.toNat f zero } }).answer (.sprig g) f.card.w0 (f.poison.getLsbD 0) false)
    let z := c.bic (bunchOf g)
    let t := (inBunch g).toNat
    let took (k : Byte) (p : BitVec 4) : State := s.on
      ((c.setBic (bunchOf g) { z with
          active := putBit z.active k.toNat true, owner := Tbl.set z.owner k.toNat (inBunch g) 0
          latch := Tbl.set z.latch t none none, latchSrc := Tbl.set z.latchSrc t 0 0 }).answer (.sprig g)
        (0x80000000#32 ||| (p.setWidth 32 <<< 16) ||| k.setWidth 32) false false)
    let free : Prop := ∀ k p, Tbl.get z.latch t none = some (k, p) → c.latchPending (bunchOf g) (inBunch g) k = false
    let can (k : Byte) : Bool := c.bicEligible (bunchOf g) (inBunch g) k
    let pri (k : Byte) : BitVec 4 := ((c.bicSrc (bunchOf g) k) >>> 16).setWidth 4
    let ended (e : BitVec 256) (l : BitVec 16) : Bic := { c.bic b with active := e, spurious := l }
    let n : Byte := v.setWidth 8
    let late : BitVec 16 := if v.getLsbD 31 then satInc16 (c.bic b).spurious else (c.bic b).spurious
    (y.mark = false → y.chain = card :: rest → card.badSide = false → card.poison.getLsbD 0 = false → card.bcast = none → card.mute = false →
      exec (.spgQpopRead g q) s = .next
        (shows ((c.setQueue i { y with chain := rest }).launch (queuePlace i) (.credit card.route card.serial false)) ⟨card.w, card.poison⟩))
    ∧ (y.mark = true → exec (.spgQpopRead g q) s = .next
        (shows (c.setQueue i { y with mark := false, first := 0, resets := 0, discarded := 0, cause := 0, at_ := 0 }) ⟨y.marker, 0⟩))
    ∧ (y.mark = false → y.chain = [] → exec (.spgQpopRead g q) s = .next (shows c zero))
    ∧ (∀ k p, Tbl.get z.latch t none = some (k, p) → c.latchPending (bunchOf g) (inBunch g) k = true →
      exec (.spgClaimRead g) s = .next (took k p))
    ∧ (∀ k, free → can k = true → (∀ j, j ≠ k → can j = true → pri j < pri k ∨ (pri j = pri k ∧ k < j)) →
      exec (.spgClaimRead g) s = .next (took k (pri k)))
    ∧ (free → (∀ k, can k = false) → exec (.spgClaimRead g) s = .next (s.on
      ((c.setBic (bunchOf g) { z with
          spurious := satInc16 z.spurious, latch := Tbl.set z.latch t none none, latchSrc := Tbl.set z.latchSrc t 0 0 }).answer
        (.sprig g) 0 false false)))
    ∧ (c.takes m true = true → (c.bic b).active.getLsbD n.toNat = true → exec (.bicComplete m b v) s = .next (s.on
      (c.setBic b { ended (putBit (c.bic b).active n.toNat false) late with owner := Tbl.set (c.bic b).owner n.toNat 0 0 })))
    ∧ (c.takes m true = true → (c.bic b).active.getLsbD n.toNat = false → exec (.bicComplete m b v) s = .next (s.on
      ((c.setBic b (ended (c.bic b).active late)).log
        { cls := 0, source := masterSource m, code := 0x0007, unit := masterNum m, detail := 291, addr := 0 })))
    ∧ exec (.spgEvWrite g v) s = .next (s.put g { x with page := { x.page with
        latch := x.page.latch &&& ~~~(v.setWidth 8 : Byte)
        merged := x.page.merged &&& ~~~((v >>> 8).setWidth 8 : Byte) } })
    ∧ (c.dmOf g slot = none → exec (.spgDlarmWrite g slot w) s = .next (s.on
      (c.log { cls := 0, source := 0x30, code := 0x0007, unit := g.setWidth 32, detail := 236, addr := 0 })))
    ∧ (∀ k, c.dmOf g slot = some k → (∀ e, e ∈ c.fabric.edges → e.1 ≠ Sink.watch k) →
      let d := c.dm k
      let now := c.time.dtime
      let due : Prop := c.time.running = true ∧ d.dl.toNat + 8 ≤ now.toNat
      let watch : BitVec 3 := (c.dmCtl k >>> 28).setWidth 3
      (w ≠ never → (d.armed = false ∨ ¬due) → exec (.spgDlarmWrite g slot w) s = .next (s.on
        (c.setDm k { d with armed := true, overrun := d.overrun || d.armed, dl := w, since := now })))
      ∧ (w = never → (d.armed = false ∨ (¬due ∧ watch ≠ 0)) → exec (.spgDlarmWrite g slot w) s = .next (s.on
        (c.setDm k { d with armed := false, dl := never })))
      ∧ (w = never → d.armed = true → ¬due → watch = 0 → (c.dmCtl k).getLsbD 27 = false → exec (.spgDlarmWrite g slot w) s = .next (s.on
        (c.setDm k { d with
          armed := false, dl := never
          slack := BitVec.ofInt 32 (clampInt (((d.dl.toNat : Int) - (now.toNat : Int)) / 8) (-2147483648) 2147483647) }))))

/-- R14, R38 to R43, R54, R130, R158, R340: the debug view reads any sprig and writes a stopped one; the control stores take the Steward's words; an
unmapped read answers 0 with an entry and an unmapped write freezes its master; a host function reaches all of these through its BAR4 window
alone. A register read leaves its word with the master that made it; through its BAR2 window a function reads the indices of its own pairs; an
access of another size or alignment ends as a Completer Abort, or as the ALIGN fault of a sprig (the address is the model's reading, log
entry 79). It rests on the model's choices of log entry 52 too. -/
def Obligations.DeviceAddresses : Prop :=
  ∀ (s : State) (m : Master) (a : Addr) (v : Word) (how : RegAcc),
    let c := s.core
    let n := a.toNat
    let g := viewSprig n
    let o := viewOff n
    let reached : Prop := c.bar4Reaches m n 4 = true ∧ c.frozenMaster m = false ∧ ∀ d, m ≠ .peer d
    let local_ : Prop := isLocals n = true ∧ c.quiet (.bunch (bunchOf g)) = false ∧ c.asleep (bunchOf g) = false ∧ reached
    let shown (t : State) (w : Word) : Prop :=
      (Tbl.get t.core.rdata (masterKey m) {}).value = w ∧ (Tbl.get t.core.rdata (masterKey m) {}).abort = false
    let h : SprigId := BitVec.ofNat 11 ((n - 0x5000000000) / 0x8000)
    let fits : Prop := how.size = 4 ∧ n % 4 = 0
    (local_ → n % 4 = 0 → 0x18000 ≤ o → o < 0x18100 → Runs (exec (.debugViewRead m a) s) fun t =>
      shown t ((c.sprig g).imageWord ((o - 0x18000) / 4)) ∧ t.core.sprig g = c.sprig g)
    ∧ (local_ → n % 4 = 0 → o < 0xC000 → c.firstBad n 4 = none → exec (.debugViewRead m a) s = .next (s.on
      { (c.answer m (c.word n) false false) with
        power := { c.power with prep := c.power.prep &&& ~~~(1#64 <<< (bunchOf g).toNat) } }))
    ∧ (local_ → n % 4 = 0 → o < 0xC000 → c.stopped m g = true → Runs (exec (.debugViewWrite m a v) s) fun t =>
      t.core.word n = v ∧ SameBytesBut c t.core n 4 ∧ t.core.sprigs = c.sprigs)
    ∧ (local_ → n % 4 = 0 → c.stopped m g = true → ∀ k : BitVec 4, o = 0x18000 + 4 * k.toNat → (c.sprig g).board.getLsbD k.toNat = false →
      Runs (exec (.debugViewWrite m a v) s) fun t => t.core.sprig g = (c.sprig g).setD k v ∧ t.core.mem = c.mem)
    ∧ (local_ → n % 4 = 0 → c.stopped m g = false → Runs (exec (.debugViewWrite m a v) s) fun t =>
      t.core.mem = c.mem ∧ t.core.sprigs = c.sprigs)
    ∧ (∀ f, m = .host f → c.bar4Reaches m n 4 = false → isLocals n = true →
      exec (.debugViewRead m a) s = .next s ∧ exec (.debugViewWrite m a v) s = .next s)
    ∧ ((∃ k, m = .sprig k ∧ isSteward k = true) ∨ m = .bootRom → isStore n = true → (n - 0x5000000000) % 0x8000 < 0x4400 → n % 4 = 0 →
      c.asleep (bunchOf h) = false → c.stopped .bootRom h = true →
      Runs (exec (.controlStoreWrite m a v) s) fun t =>
        t.core.word n = v ∧ SameBytesBut c t.core n 4 ∧ t.core.csMark n = .ok ∧ t.core.sprigs = c.sprigs)
    ∧ (∀ f, m = .host f → isStore n = true → c.bar4Reaches m n 4 = true → exec (.controlStoreWrite m a v) s = .next (s.on (c.answer m 0 false true)))
    ∧ (mapped a = false → reached → c.err.takes 0 = true → Runs (exec (.unmappedRead m a) s) fun t =>
      shown t 0 ∧ t.core.mem = c.mem ∧ t.core.sprigs = c.sprigs
      ∧ t.core.lastLog = some { cls := 0, source := masterSource m, code := 0x0006, unit := masterNum m, detail := 0, addr := a })
    ∧ (mapped a = false → ∀ k, m = .sprig k → (c.sprig k).state = .run → Runs (exec (.unmappedWrite m a v) s) fun t =>
      (t.core.sprig k).state = .frozen ∧ (t.core.sprig k).cause = 1 ∧ t.core.mem = c.mem ∧ t.core.fly = c.fly)
    ∧ (mapped a = false → reached → ∀ f, m = .host f → Runs (exec (.unmappedWrite m a v) s) fun t =>
      Tbl.get t.core.err.ffrz f.toNat 0 = 1 ∧ t.core.mem = c.mem ∧ t.core.fly = c.fly ∧ t.core.sprigs = c.sprigs)
    ∧ (inRegs a = true → how.window = false → fits → exec (.registerWrite m a v how) s = .next (s.regWrite m (slotOf a) (offOf a) v))
    ∧ (inRegs a = true → how.window = false → fits → c.frozenMaster m = false → c.seesAll m = true → Runs (exec (.lowWordRead m a how) s) fun t =>
      shown t (s.regRead m (slotOf a) (offOf a)).1)
    ∧ (∀ f (k : BitVec 8), m = .host f → how.window = true → how.size = 4 → c.frozenMaster m = false → pairFunc (c.pairCfg k) = f →
      (n = 16 * k.toNat → exec (.lowWordRead m a how) s = .next (s.on (c.answer m ((c.hqp k).itail.setWidth 32) false false)))
      ∧ (n = 16 * k.toNat + 12 → exec (.lowWordRead m a how) s = .next (s.on (c.answer m ((c.hqp k).ohead.setWidth 32) false false)))
      ∧ (n = 16 * k.toNat + 4 → exec (.lowWordRead m a how) s = .next (s.on (c.answer m ((c.hqp k).ihead.setWidth 32) false false)))
      ∧ (n = 16 * k.toNat + 8 → exec (.lowWordRead m a how) s = .next (s.on (c.answer m ((c.hqp k).otail.setWidth 32) false false))))
    ∧ (∀ f, m = .host f → accessExists m a how = true → ¬fits → exec (.registerWrite m a v how) s = .next (s.on (c.answer m 0 false true))
      ∧ exec (.lowWordRead m a how) s = .next (s.on (c.answer m 0 false true)))
    ∧ (∀ k, m = .sprig k → inRegs a = true → how.window = false → ¬fits → (c.sprig k).issues = true →
      let faulted : State := s.on (c.raise k 1 0x01 (some (0xE000#32 ||| (a.setWidth 12).setWidth 32)))
      exec (.registerWrite m a v how) s = .next faulted ∧ exec (.lowWordRead m a how) s = .next faulted)

/-! ### Scratch memory -/

/-- R160, R161, R163, R164, R167, R168, R170 to R172: the bank grants one of the requests that stand there and reads or writes its bytes, or
performs the atomic, which holds the bank a second round; where two requesters wait, the one of higher priority is granted; a queued corrected
word is rewritten; port B of the mailbox reads and writes beside the round; at the X bank's top kilobyte the second port and the sprig's
port are served in one step, reads giving the new data and the sprig's write persisting. -/
def Obligations.ScratchAccesses : Prop :=
  ∀ (s : State) (b : BunchId) (r : ScrReq) (g : SprigId) (w : BitVec 18) (u : PortUser) (z : BankAcc),
    let c := s.core
    let bank : BitVec 4 := (r.off >>> 17).setWidth 4
    let a := scratchBase b + r.off.toNat
    let buf (r : ScrReq) : List SbEntry := (c.sprig (sprigAt b (r.who.setWidth 5))).buf
    let stands (r : ScrReq) : Prop := r.src = .x ∧ (0x20 ≤ r.who.toNat ∨ buf r = [])
    let quiet : Prop := c.asleep b = false ∧ c.leases = []
    let alone : Prop := quiet ∧ c.mark a = .ok ∧ r.off.toNat % 4 = 0 ∧ stands r
    let idle (k : BitVec 4) : Prop := (c.arb b k).hold = 0 ∧ (c.arb b k).last = none ∧ (c.arb b k).behind = []
    (alone → idle bank → r.kind = .read → r.len = 4 →
      Runs (exec (.scratchAccess b bank [r] .ok) s) fun t =>
        (t.core.arb b bank).out = c.bytes a 4 ∧ (t.core.arb b bank).outPoison = false ∧ t.core.mem = c.mem ∧ t.core.sprigs = c.sprigs
        ∧ (t.core.arb b bank).last = some (portOf r.who) ∧ (t.core.arb b bank).hold = 0)
    ∧ (∀ bs, alone → idle bank → r.kind = .write bs false → bs.length = 4 → portOf r.who ≠ 0x22 →
      Runs (exec (.scratchAccess b bank [r] .ok) s) fun t =>
        (∀ k v, bs[k]? = some v → t.core.byte (a + k) = v) ∧ SameBytesBut c t.core a 4 ∧ t.core.mark a = .ok ∧ t.core.sprigs = c.sprigs)
    ∧ (∀ v, alone → idle bank → r.kind = .aadd v ∨ r.kind = .aswp v → Runs (exec (.scratchAccess b bank [r] .ok) s) fun t =>
        t.core.word a = (if r.kind = .aadd v then c.word a + v else v) ∧ wordOf (t.core.arb b bank).out = c.word a
        ∧ (t.core.arb b bank).hold = 1 ∧ (t.core.arb b bank).holdWord = some ((r.off >>> 3).setWidth 18) ∧ SameBytesBut c t.core a 4)
    ∧ (∀ reqs e, c.asleep b = false → (c.arb b bank).hold = 1 → Runs (exec (.scratchAccess b bank reqs e) s) fun t =>
        (t.core.arb b bank).hold = 0 ∧ t.core.mem = c.mem ∧ (t.core.arb b bank).last = (c.arb b bank).last)
    ∧ (∀ r2 : ScrReq, alone → idle bank → stands r2 → r.kind = .read → r.len = 4 → r2.kind = .read → r2.len = 4 → r2.off = r.off →
      r.who.toNat < r2.who.toNat → r2.who.toNat < 0x20 →
      Runs (exec (.scratchAccess b bank [r2, r] .ok) s) fun t =>
        (t.core.arb b bank).last = some r.who ∧ (t.core.arb b bank).behind = [(r.who, r2.who)] ∧ t.core.mem = c.mem)
    ∧ (let a := scratchBase b + 8 * w.toNat
      let bank : BitVec 4 := (w >>> 14).setWidth 4
      w ∈ (c.arb b bank).ceWords → c.mark a = .single → exec (.scrCe b w) s = .next (s.on
        ((c.setArb b bank { c.arb b bank with ceWords := (c.arb b bank).ceWords.erase w }).setMark a .ok)))
    ∧ (alone → (c.arb b 15).hold = 0 → 0x1F8000 ≤ r.off.toNat → r.who = 0x22 →
      (r.kind = .read → r.len = 4 → Runs (exec (.mailboxPortBAccess b r []) s) fun t =>
        (t.core.arb b 15).outB = c.bytes a 4 ∧ (t.core.arb b 15).outBPoison = false ∧ t.core.mem = c.mem)
      ∧ (∀ bs, r.kind = .write bs false → bs.length = 4 → Runs (exec (.mailboxPortBAccess b r []) s) fun t =>
        (∀ k v, bs[k]? = some v → t.core.byte (a + k) = v) ∧ SameBytesBut c t.core a 4))
    ∧ (c.asleep (bunchOf g) = false →
      let a := localsBase g + 0x5C00 + 4 * z.wordOff.toNat
      (z.data = none → c.firstBad a 4 = none → Runs (exec (.secondPortAccess g [⟨u, z⟩] none) s) fun t =>
        t.core.port2 = { value := c.word a } ∧ t.core.mem = c.mem ∧ t.core.sprigs = c.sprigs)
      ∧ (∀ v, z.data = some v → z.mask = 15 → Runs (exec (.secondPortAccess g [⟨u, z⟩] none) s) fun t =>
        t.core.word a = v ∧ SameBytesBut c t.core a 4 ∧ t.core.sprigs = c.sprigs)
      ∧ (∀ v k, z.data = some v → z.mask = 15 → Runs (exec (.secondPortAccess g [⟨u, z⟩] (some ⟨z.wordOff, none, k⟩)) s) fun t =>
        t.core.port1 = { value := v } ∧ t.core.word a = v)
      ∧ (∀ v v', z.data = some v → Runs (exec (.secondPortAccess g [⟨u, z⟩] (some ⟨z.wordOff, some v', 15⟩)) s) fun t =>
        t.core.word a = v' ∧ SameBytesBut c t.core a 4))

/-- R173 to R178: TAKE starts a copy for a slot that is free or refused, and is refused for predicate 0, an overlap, or without a write grant;
the copy keeps the region's rows with their marks and makes the lease active; an access of another requester, the holder's other depths
among them, is held and starts the restore; at its end the rows stand as they were and the slot is LOST; RELEASE starts the same restore, which
then frees the slot; ACK frees a lost or refused one. A freed slot keeps the PRED and REGION that its TAKE latched. It rests on the model's choices
of log entry 14 too. -/
def Obligations.LeaseLifeCycle : Prop :=
  ∀ (s : State) (b : BunchId) (l : BitVec 2) (g : SprigId) (v : Word) (m : Master) (r : ScrReq),
    let c := s.core
    let x := c.lease b l
    let a := scratchBase b + 256 * x.region.toNat
    let pred : BitVec 3 := (v >>> 13).setWidth 3
    let region : BitVec 13 := v.setWidth 13
    let base : Lease := { Lease.reset with pred := pred, region := region, holder := inBunch g, depth := (c.sprig g).depth }
    let may : Prop := bunchOf g = b ∧ (x.st = .free ∨ x.st = .refused)
    let shared : Prop := ∃ k : BitVec 2, k ≠ l ∧ (c.lease b k).region = region ∧ (c.lease b k).st ∈ [LeaseState.copying, .active, .restoring, .lost]
    let gone : Lease := { Lease.reset with pred := x.pred, region := x.region }
    let holder (deep : Bool) : Prop := ∃ h, m = .sprig h ∧ bunchOf h = b ∧ inBunch h = x.holder ∧ (deep = true → (c.sprig h).depth = x.depth)
    let turned (k : BitVec 4) : Out := .next (s.on (c.setLease b l { base with st := .refused, cause := k }))
    (may → pred = 0 → exec (.take (.sprig g) b l v) s = turned 4)
    ∧ (may → pred ≠ 0 → shared → exec (.take (.sprig g) b l v) s = turned 1)
    ∧ (may → pred ≠ 0 → ¬shared → c.slimGrants g ((region.setWidth 21) <<< 8) true = false → exec (.take (.sprig g) b l v) s = turned 2)
    ∧ (may → pred ≠ 0 → ¬shared → c.slimGrants g ((region.setWidth 21) <<< 8) true = true →
      exec (.take (.sprig g) b l v) s = .next (s.on (c.setLease b l { base with st := .copying })))
    ∧ (x.st = .copying → Runs (exec (.leaseCopyDone b l) s) fun t =>
      let y := t.core.lease b l
      y.st = .active ∧ y.buf = c.bytes a 256 ∧ y.holder = x.holder ∧ y.depth = x.depth ∧ y.pred = x.pred ∧ y.region = x.region ∧ t.core.mem = c.mem
      ∧ (∀ k, k < 32 → y.marks[k]? = some (if c.mark (a + 8 * k) = .poisoned ∨ c.mark (a + 8 * k) = .double then .poisoned else .ok)))
    ∧ (x.st = .active → x.releasing = false → x.held = none → c.asleep b = false → (∀ k, k ≠ l → (c.lease b k).region ≠ x.region) →
      (r.off >>> 8).setWidth 13 = x.region → r.kind = .read → r.len = 4 → r.off.toNat % 4 = 0 → r.src = .x → 0x20 ≤ r.who.toNat →
      let bank : BitVec 4 := (r.off >>> 17).setWidth 4
      (c.arb b bank).hold = 0 → (c.arb b bank).last = none → (c.arb b bank).behind = [] →
      Runs (exec (.scratchAccess b bank [r] .ok) s) fun t =>
        t.core.lease b l = { x with st := .restoring, revoker := r.who.setWidth 8, byHandler := false, held := some r } ∧ t.core.mem = c.mem)
    ∧ (x.st = .restoring → x.held = none → x.buf.length = 256 → Runs (exec (.leaseRevoke b l) s) fun t =>
      t.core.lease b l = (if x.releasing then gone else { x with st := .lost, buf := [], marks := [], rows := 0 })
      ∧ t.core.bytes a 256 = x.buf ∧ SameBytesBut c t.core a 256)
    ∧ (x.st = .active → c.takes m true = true → holder true ∨ c.privileged m = true →
      exec (.release m b l) s = .next (s.on (c.setLease b l { x with st := .restoring, releasing := true })))
    ∧ (x.st = .lost ∨ x.st = .refused → c.takes m true = true → holder false ∨ c.privileged m = true →
      exec (.ack m b l) s = .next (s.on (c.setLease b l gone)))


/-! ### Cards -/

/-- R186, R188, R190, R193, R195, R196, R198, R235: a card that its queue does not refuse enters the chain, or the ring's tail slot with its
sideband, and its acceptance leaves for the producer; a refused card's resolution carries the credit. The ring's head moves into a free chain
stage. A resolution reaches the producer's channel and takes effect in send order; a credit of the current serial reaches it, an epoch notice
the epoch too. It rests on the model's choices of log entries 8, 9 too. -/
def Obligations.CardsArrive : Prop :=
  ∀ (s : State) (k o : Nat) (d : Nat) (i : QueueId) (card : Card) (g : SprigId) (n : BitVec 4) (e : Owed) (rest : List Owed),
    let c := s.core
    let q := c.queue i
    let w := c.qcfg i
    let me : Producer := .chan c.dev g n
    let ch := c.chan g n
    let comes : Prop := c.arrives k = some ⟨o, d, .toQueue i card false⟩ ∧ c.asleep (queueBunch i) = false ∧ card.mute = false
    let gone := c.fly.eraseIdx k
    let reply (r : BitVec 4) (back : Bool) : Flight := ⟨queuePlace i, prodKey card.route, .resolved card.route r back card.bcast card.seq⟩
    let enters (t : State) : Prop :=
      (t.core.queue i).count = q.count + 1 ∧ (∀ j, j ≠ i → t.core.queue j = c.queue j) ∧ t.core.fly = gone ++ [reply 0 false]
      ∧ t.core.fabric.edges = c.fabric.edges ++ (c.watchers 1 (i.setWidth 32)).map fun m => (Sink.watch m, c.time.dtime)
    let slot := scratchBase (queueBunch i) + qcfgRbase w + 32 * (q.ptrs.tail.toNat % ringSlots w)
    let side (x : Nat) := scratchBase (queueBunch i) + qcfgRbase w + 32 * ringSlots w + 8 * (x % ringSlots w)
    let first := scratchBase (queueBunch i) + qcfgRbase w + 32 * (q.ptrs.head.toNat % ringSlots w)
    let ringed : Prop := 0 < ringSlots w ∧ qcfgRbase w + 40 * ringSlots w ≤ 0x200000 ∧ q.ptrsAgree = true
    let next (x : BitVec 13) : BitVec 13 := BitVec.ofNat 13 ((x.toNat + 1) % ringSlots w)
    let back (r : BitVec 4) (credit : Bool) (x : Chan) : Chan := { x with
      outcome := r, refcnt := if 1 < r.toNat then x.refcnt + 1 else x.refcnt, credit := if credit then x.credit + 1 else x.credit }
    let apart : Prop := ∀ x, x ∈ rest → x.seq ≠ e.seq ∧ x.res = none
    (comes → c.queueRefusal i card false = none → q.chain.length < 4 → q.ring = [] → Runs (exec (.cardAccept k) s) fun t =>
      (t.core.queue i).chain = q.chain ++ [card] ∧ enters t ∧ t.core.mem = c.mem)
    ∧ (comes → c.queueRefusal i card false = none → q.chain.length = 4 ∨ q.ring ≠ [] → q.walk.length + q.ring.length < ringSlots w → ringed →
      c.leases = [] → Runs (exec (.cardAccept k) s) fun t =>
        (t.core.queue i).ring = q.ring ++ [card] ∧ (t.core.queue i).chain = q.chain ∧ (t.core.queue i).ptrs.tail = next q.ptrs.tail
        ∧ (t.core.queue i).ptrsAgree = true ∧ enters t ∧ (∀ j, t.core.word (slot + 4 * BitVec.toNat j) = cardWord card.w j)
        ∧ (t.core.byte (side q.ptrs.tail.toNat + 7)).getLsbD 7 = true)
    ∧ (∀ r, comes → c.queueRefusal i card false = some r → Runs (exec (.cardAccept k) s) fun t =>
      t.core.queues = c.queues ∧ t.core.fly = gone ++ [reply r true] ∧ t.core.mem = c.mem)
    ∧ (∀ rest, q.ring = card :: rest → q.walk = [] → q.chain.length < 4 → ringed → (∀ j, j < 4 → c.mark (first + 8 * j) = .ok) →
      c.mark (side q.ptrs.head.toNat) = .ok → Runs (exec (.ringToChainMove i) s) fun t =>
        (t.core.queue i).ring = rest ∧ (t.core.queue i).count = q.count ∧ (t.core.queue i).ptrsAgree = true
        ∧ (t.core.queue i).chain = q.chain ++ [{ card with w := cardFromBytes c first, poison := 0, badSide := false }]
        ∧ (t.core.queue i).ptrs.head = next q.ptrs.head ∧ (t.core.queue i).ptrs.tail = q.ptrs.tail ∧ t.core.fly = c.fly
        ∧ SameBytesBut c t.core (side q.ptrs.head.toNat) 8 ∧ t.core.byte (side q.ptrs.head.toNat + 7) = 0)
    ∧ (∀ r credit, c.arrives k = some ⟨o, d, .resolved me r credit none e.seq⟩ → apart →
      (ch.owed = e :: rest → exec (.cardResolution k) s = .next (s.on
        ((c.land k).setChan g n
          (if ch.noticed && decide (r.toNat ≤ 1) then back (if r = 0 then 1 else r) credit { ch with noticed := false, owed := rest }
            else back r credit { ch with owed := rest }))))
      ∧ (∀ x, ch.owed = x :: e :: rest → x.serial = e.serial → x.seq ≠ e.seq → x.res = none → ch.noticed = false →
        exec (.cardResolution k) s = .next (s.on
          ((c.land k).setChan g n { ch with owed := x :: { e with res := some ⟨r, decide (1 < r.toNat), credit⟩ } :: rest })))
      ∧ (ch.owed = rest → exec (.cardResolution k) s = .next (s.on ((c.land k).setChan g n ch))))
    ∧ (∀ ser refused, c.arrives k = some ⟨o, d, .credit me ser refused⟩ → exec (.creditReturn k) s = .next (s.on
      (if refused = true ∨ ser = ch.serial then (c.land k).setChan g n { ch with credit := ch.credit + 1 } else c.land k)))
    ∧ (∀ e direct, c.arrives k = some ⟨o, d, .notice me e direct⟩ → exec (.epochNotice k) s = .next (s.on
      ((c.land k).setChan g n { ch with noticed := true, epoch := if direct then e else ch.epoch })))

/-- R30 to R35, R203 to R207, R368: a card at an enabled posy goes on: round robin to the next member, by key to the member that the product
selects, as a broadcast to every member; a member queue of this device gives it its epoch, and what goes to another device joins the messages to
it. A disabled or empty posy refuses it with PORT_DOWN. While a posy is held, cards of this device stand, and one in an outbound slot
leaves at the release; a notice of another device is acknowledged. It rests on the model's choices of log entry 31 too. -/
def Obligations.PosiesDispatch : Prop :=
  ∀ (s : State) (k o z : Nat) (p : BitVec 10) (card : Card) (g : SprigId) (n : BitVec 4) (d : DeviceId) (release : Bool),
    let c := s.core
    let w := c.posyReg p 0
    let count := (w.setWidth 6 : BitVec 6).toNat
    let policy : BitVec 2 := (w >>> 29).setWidth 2
    let here : Prop := c.arrives k = some ⟨o, z, .toPosy p card⟩
    let stopped : Prop := c.isLocal card.route = true ∧ c.handleHeld (c.posyHandle p) = true
    let on_ : Prop := w.getLsbD 31 = true ∧ count ≠ 0 ∧ c.quiet (.posy p) = false
    let goes : Prop := here ∧ ¬stopped ∧ on_ ∧ card.bcast = none
    let member (m : Nat) : Word := c.posyReg p (0x80 + 4 * m)
    let near (m : Nat) : Bool := decide ((member m >>> 23).setWidth 9 = c.dev)
    let q (m : Nat) : QueueId := (member m).setWidth 14
    let parcel (m : Nat) (x : Card) : Parcel :=
      if near m then
        (if (member m).getLsbD 22 then .toPosy ((member m).setWidth 10) x
          else .toQueue (q m) { x with w := { x.w with w0 := (x.w.w0 &&& 0xFFFF00FF#32) ||| ((c.queue (q m)).epoch.setWidth 32 <<< 8) } } true)
      else .toRemote (member m) x true
    let item (m : Nat) (x : Card) : Flight := ⟨o, parcelPlace (parcel m x), parcel m x⟩
    let spread (ms : List Nat) (x : Card) : List Flight :=
      c.fly.take k ++ (ms.filter near).map (fun m => item m x) ++ c.fly.drop (k + 1) ++ (ms.filter fun m => !near m).map fun m => item m x
    (goes → policy = 0 →
      let m := (Tbl.get c.posyNext p.toNat 0).toNat
      exec (.posyDispatch k) s = .next (s.on
        { c with posyNext := Tbl.set c.posyNext p.toNat (BitVec.ofNat 5 ((m + 1) % count)) 0, fly := spread [m] card }))
    ∧ (goes → policy = 1 →
      let key := cardWord card.w ((w >>> 11).setWidth 3) &&& c.posyReg p 4
      let m := (key * 0x9E3779B1#32).toNat * count / 2 ^ 32
      exec (.posyDispatch k) s = .next (s.on { c with fly := spread [m] card }))
    ∧ (goes → policy = 2 → exec (.posyDispatch k) s = .next (s.on { c with
        bcasts := Tbl.set c.bcasts c.nextBcast (some ⟨card.route, card.serial, card.seq, card.mute, none, count, count, 0, false⟩) none
        nextBcast := c.nextBcast + 1, fly := spread (List.range count) { card with bcast := some c.nextBcast } }))
    ∧ (here → ¬stopped → ¬on_ → card.mute = false → exec (.posyDispatch k) s = .next (s.on
      ((c.land k).launch (posyPlace p) (.resolved card.route 2 true card.bcast card.seq))))
    ∧ (here → stopped → exec (.posyDispatch k) s = .next s)
    ∧ (∀ x, (c.chan g n).out = some x →
      let h := c.shandle g n
      (c.handleHeld h = true → exec (.posyHoldRelease g n) s = .next s)
      ∧ (c.handleHeld h = false → exec (.posyHoldRelease g n) s = .next (s.on
        ((c.setChan g n { c.chan g n with out := none }).launch (prodKey (.chan c.dev g n))
          (if (h >>> 23).setWidth 9 = c.dev then (if h.getLsbD 22 then .toPosy (h.setWidth 10) x else .toQueue (h.setWidth 14) x false)
            else .toRemote h x false)))))
    ∧ (d ≠ c.dev → Runs (exec (.hold d p release) s) fun t =>
      t.core.isHeld d p = !release ∧ t.core.fly = c.fly ++ [⟨posyPlace p, devicePlace d, .holdAck d p⟩] ∧ t.core.held = c.held)

/-- R193, R198 to R201: a reset raises the queue's epoch, sets its marker over everything discarded, returns the credits of its chain and sends
the notices; the walk clears the ring's old slots and returns the credits of those that were valid; resets over the rate limit wait in turn. It
rests on the model's choices of log entry 31 too. -/
def Obligations.QueuesReset : Prop :=
  ∀ (s : State) (i : QueueId) (cause : BitVec 3) (m : Master) (v : Word) (rest : List (BitVec 3)) (card : Card),
    let c := s.core
    let q := c.queue i
    let w := c.qcfg i
    let recent := (c.time.dtime :: recentOf c.time.dtime q.recent)
    let few : Prop := (recentOf c.time.dtime q.recent).length < 255
    let sideOf (x : Nat) := scratchBase (queueBunch i) + qcfgRbase w + 32 * ringSlots w + 8 * (x % ringSlots w)
    let valid (x : Nat) : Bool := (c.byte (sideOf x + 7)).getLsbD 7
    let live := ((List.range q.ring.length).filter fun j => valid (q.ptrs.head.toNat + q.walk.length + j)).length
    let plain (card : Card) : Prop := card.bcast = none ∧ card.mute = false ∧ card.badSide = false
    let credit (card : Card) : Flight := ⟨queuePlace i, prodKey card.route, .credit card.route card.serial false⟩
    let isReset (t : State) (k : BitVec 3) (later : List (BitVec 3)) : Prop :=
      let r := t.core.queue i
      r.epoch = q.epoch + 1 ∧ r.mark = true ∧ r.first = (if q.mark then q.first else q.epoch) ∧ r.resets = satInc16 q.resets
      ∧ r.discarded = BitVec.ofNat 32 (min (q.discarded.toNat + q.chain.length + live) 0xFFFFFFFF)
      ∧ r.cause = k ∧ r.at_ = c.time.dtime ∧ r.chain = [] ∧ r.ring = [] ∧ r.walk = q.walk ++ q.ring ∧ r.deferred = later ∧ r.recent = recent
      ∧ r.ptrs = q.ptrs ∧ (∀ j, j ≠ i → t.core.queue j = c.queue j) ∧ t.core.mem = c.mem ∧ (∀ f, f ∈ c.fly → f ∈ t.core.fly)
      ∧ (∀ p, p ∈ c.boundTo i → ⟨queuePlace i, prodKey p, .notice p (q.epoch + 1) true⟩ ∈ t.core.fly)
      ∧ (∀ x, x ∈ q.chain → plain x → credit x ∈ t.core.fly)
      ∧ (∀ x, x ∈ q.chain → x.route ∉ c.boundTo i → ⟨queuePlace i, prodKey x.route, .notice x.route (q.epoch + 1) false⟩ ∈ t.core.fly)
    let legal : Prop := 1 ≤ cause.toNat ∧ cause.toNat ≤ 5
    (legal → q.deferred = [] → few → Runs (exec (.queueResetInstant i cause) s) fun t =>
      isReset t cause [] ∧ (cause = 2 → c.err.takes 1 = true →
        t.core.lastLog = some { cls := 1, source := 0x0B, code := 0x0009, unit := i.setWidth 32, detail := 0, addr := 0 }))
    ∧ (legal → q.deferred ≠ [] ∨ ¬few → Runs (exec (.queueResetInstant i cause) s) fun t =>
      t.core.queue i = { q with deferred := q.deferred ++ [cause] } ∧ t.core.fly = c.fly ∧ t.core.mem = c.mem)
    ∧ (c.takes m (c.privileged m) = true → v.getLsbD 31 = true → v.setWidth 14 = i → q.deferred = [] → few →
      Runs (exec (.qmgrQreset m v) s) fun t => isReset t 1 [])
    ∧ (c.takes m (c.privileged m) = true → v.getLsbD 31 = false → exec (.qmgrQreset m v) s = .next s)
    ∧ (q.deferred = cause :: rest → few → Runs (exec (.deferredQueueReset i) s) fun t => isReset t cause rest)
    ∧ (q.deferred = [] ∨ ¬few → exec (.deferredQueueReset i) s = .next s)
    ∧ (q.walk.length ≤ 4 → q.ptrsAgree = true → Runs (exec (.ringWalk i) s) fun t =>
      (t.core.queue i).walk = [] ∧ (t.core.queue i).ring = q.ring ∧ (t.core.queue i).chain = q.chain ∧ (t.core.queue i).epoch = q.epoch
      ∧ (t.core.queue i).ptrsAgree = true)
    ∧ (q.walk = [card] → q.ptrsAgree = true → qcfgRbase w + 40 * ringSlots w ≤ 0x200000 → 0 < ringSlots w →
      let side := sideOf q.ptrs.head.toNat
      c.mark side = .ok → plain card → Runs (exec (.ringWalk i) s) fun t =>
        t.core.fly = c.fly ++ (if valid q.ptrs.head.toNat then [credit card] else []) ∧ t.core.bytes side 8 = List.replicate 8 0
        ∧ (t.core.queue i).ptrs.head = BitVec.ofNat 13 ((q.ptrs.head.toNat + 1) % ringSlots w) ∧ (t.core.queue i).ptrs.tail = q.ptrs.tail)

/-- R211 to R214: index writes of a host queue pair are checked; an OHEAD write returns the credits of the cards it passes; the inbound card
leaves for the pair's destination with one credit less, and one of type 0 goes nowhere (the model's choice, log entry 10); an outbound card is
written to host memory at the tail, which moves on, and the tail shadow follows it; a pair that is off, or under another serial, refuses it. -/
def Obligations.HostQueuePairs : Prop :=
  ∀ (s : State) (h : BitVec 8) (m : Master) (v : Word) (w : CardWords) (poison : BitVec 8) (k o d : Nat) (card : Card),
    let c := s.core
    let x := c.hqp h
    let size := pairSize (c.pairCfg h)
    let ix : BitVec 17 := BitVec.ofNat 17 ((v.setWidth 17 : BitVec 17).toNat % 2 ^ (size + 1))
    let mine : Prop := c.frozenMaster m = false ∧ c.ownsPair m h = true
    let next (i : BitVec 17) : BitVec 17 := BitVec.ofNat 17 ((i.toNat + 1) % 2 ^ (size + 1))
    let ch := c.hchan h
    let dest := c.hqpReg h 0x0C
    let last := w.w0.getLsbD 19
    let head : Word := ((w.w0 &&& 0xFF0F00FF#32) ||| (ch.epoch.setWidth 32 <<< 8)) ||| (if poison = 0 then 0 else 0x00800000#32)
    let sent : Card := { w := { w with w0 := head }, poison := poison, route := .hostPair h, serial := ch.serial, seq := ch.nextSeq }
    let paid : Chan := { ch with
      credit := ch.credit - 1, nextSeq := ch.nextSeq + 1, owed := ch.owed ++ [⟨ch.nextSeq, ch.serial, none⟩]
      isOpen := !last, since := if last then 0 else ch.since + 1, lastTag := w.w0.setWidth 8 }
    let to_ : Parcel :=
      if (dest >>> 23).setWidth 9 = c.dev then (if dest.getLsbD 22 then .toPosy (dest.setWidth 10) sent else .toQueue (dest.setWidth 14) sent false)
      else .toRemote dest sent false
    let fetches : Prop := pairEn (c.pairCfg h) = true ∧ c.isCmdPair h = false ∧ c.quiet (.hostPair h) = false
      ∧ c.frozenMaster (.host (pairFunc (c.pairCfg h))) = false ∧ x.itail ≠ x.ihead ∧ 1 ≤ ch.credit ∧ c.handleHeld dest = false
    let taken : Core := c.setHqp h { x with ihead := next x.ihead }
    let brought : Prop := c.arrives k = some ⟨o, d, .toPair h card⟩
    let serves : Prop := pairEn (c.pairCfg h) = true ∧ c.quiet (.hostPair h) = false
    let answered (e : Core) (r : BitVec 4) (back : Bool) : State := s.on
      (e.launch (pairPlace h) (.resolved card.route r back card.bcast card.seq))
    let word (j : BitVec 3) : Word := if card.poison.getLsbD j.toNat then 0 else cardWord card.w j
    let image : CardWords :=
      ⟨if card.poison.getLsbD 0 then 0x05900000#32 ||| ((c.prod card.route).epoch.setWidth 32 <<< 8)
        else if card.poison = 0 then card.w.w0 else card.w.w0 ||| 0x00800000#32, word 1, word 2, word 3, word 4, word 5, word 6, word 7⟩
    let ring := c.pairBase h + (if c.isCmdPair h then 64 * 2 ^ size else 32 * 2 ^ size)
    let put : Core := ((c.land k).hostWrite (ring + 32 * (x.otail.toNat % 2 ^ size)) (cardBytes image)).hostWrite (ring + 32 * 2 ^ size)
      (bytesOf ((next x.otail).setWidth 64 : DWord) 8)
    (mine → ringDiff size ix x.ihead ≤ 2 ^ size → ringDiff size x.itail x.ihead ≤ ringDiff size ix x.ihead →
      exec (.hqpItailWrite m h v) s = .next (s.on (c.setHqp h { x with itail := ix })))
    ∧ (mine → 2 ^ size < ringDiff size ix x.ihead ∨ ringDiff size ix x.ihead < ringDiff size x.itail x.ihead →
      Runs (exec (.hqpItailWrite m h v) s) fun t => t.core.hqps = c.hqps ∧ t.core.fly = c.fly
        ∧ (c.err.takes 0 = true → ∃ e, t.core.lastLog = some e ∧ e.code = 0x0007 ∧ e.unit = h.setWidth 32 ∧ e.detail = 214))
    ∧ (mine → ringDiff size ix x.ohead ≤ ringDiff size x.otail x.ohead → Runs (exec (.hqpOheadWrite m h v) s) fun t =>
      t.core.hqp h = { x with ohead := ix, routes := x.routes.drop (ringDiff size ix x.ohead) }
      ∧ t.core.fly = c.fly ++ (x.routes.take (ringDiff size ix x.ohead)).map fun e => ⟨pairPlace h, prodKey e.1, .credit e.1 e.2 false⟩)
    ∧ (mine → ringDiff size x.otail x.ohead < ringDiff size ix x.ohead → Runs (exec (.hqpOheadWrite m h v) s) fun t =>
      t.core.hqps = c.hqps ∧ t.core.fly = c.fly)
    ∧ (fetches → w.w0 >>> 24 ≠ 0 → exec (.hqpInboundFetch h w poison) s
        = .next (s.on ((taken.setHchan h paid).launch (prodKey (.hostPair h)) to_)))
    ∧ (fetches → w.w0 >>> 24 = 0 → exec (.hqpInboundFetch h w poison) s = .next (s.on taken))
    ∧ (¬fetches → exec (.hqpInboundFetch h w poison) s = .next s)
    ∧ (brought → card.mute = false → serves → card.serial = (c.prod card.route).serial → ringDiff size x.otail x.ohead < 2 ^ size →
      exec (.hqpOutboundWrite k) s = .next
        (answered (put.setHqp h { x with otail := next x.otail, routes := x.routes ++ [(card.route, card.serial)] }) 0 false))
    ∧ (brought → card.mute = false → ¬serves → exec (.hqpOutboundWrite k) s = .next (answered (c.land k) 2 true))
    ∧ (brought → card.mute = false → serves → card.serial ≠ (c.prod card.route).serial →
      exec (.hqpOutboundWrite k) s = .next (answered (c.land k) 5 true))

/-! ### Device time -/

/-- R216, R219 to R225: TRIM is clamped to 200 ppm; a step moves DTIME forward at once, and one of 0, past the end or during another is ignored;
the quality changes with QCHG, FREE and FINE without an uncertainty, which grows by 50 ppm in HOLDOVER; a change to a reference that SRC or
AUTO allows is logged, and one to any other has no effect (the model's reading, log entry 33); a TRIM out of range there means HOLDOVER;
DTIME restarts at 0 after PORST_N, else from the always-on count, in COARSE. It rests on the model's choices of log entries 11, 12 too. -/
def Obligations.DeviceTime : Prop :=
  ∀ (s : State) (m : Master) (v : Word) (ns : Nat) (r : BitVec 1) (trim : Int),
    let c := s.core
    let t0 := c.time
    let priv : Prop := c.takes m (c.privileged m) = true
    let amount := c.reg (regAt 0x04 0x14) 0 ++ c.reg (regAt 0x04 0x10) 0
    let good : Prop := t0.busy = false ∧ amount ≠ 0 ∧ t0.dtime.toNat + amount.toNat < 2 ^ 64 - 1
    let q : BitVec 2 := v.setWidth 2
    let lim (x : Int) : Int := max (-858993) (min x 858993)
    let refsel := Tbl.get c.cfg (sid 0x04 0x28) 0
    let allowed : Prop := r = t0.ref ∨ r = refsel.setWidth 1 ∨ (refsel.getLsbD 1 = true ∧ r = 1)
    let up : Prop := c.aon.power = .run ∧ c.aon.pgood = true
    let cold : Bool := c.power.porst && c.power.coreReset
    (priv → Runs (exec (.timeRateWrite m v) s) fun t =>
      t.core.time = { t0 with trim := BitVec.ofInt 32 (lim v.toInt), stat := if lim v.toInt = v.toInt then t0.stat else t0.stat ||| 1 }
      ∧ t.core.fabric = c.fabric ∧ t.core.sprigs = c.sprigs)
    ∧ (priv → v.getLsbD 31 = true → good → Runs (exec (.timeStepGo m v) s) fun t =>
        t.core.time = { t0 with
          dtime := t0.dtime + amount, busy := true, stat := t0.stat ||| 2, skips := t0.skips ++ [(t0.dtime, t0.dtime + amount, false)] }
        ∧ t.core.mem = c.mem ∧ t.core.sprigs = c.sprigs)
    ∧ (priv → v.getLsbD 31 = true → ¬good → Runs (exec (.timeStepGo m v) s) fun t => t.core.time = t0 ∧ t.core.fabric = c.fabric)
    ∧ (priv → v.getLsbD 31 = false → exec (.timeStepGo m v) s = .next s)
    ∧ (priv → q ≠ t0.qual →
      let u : Word := if q = 0 ∨ q = 1 then 0 else t0.uncert
      Runs (exec (.timeQualityWrite m v) s) fun t =>
        t.core.time = { t0 with qual := q, uncert := u, holdBase := u, holdNs := 0, stat := t0.stat ||| 16 })
    ∧ (priv → q = t0.qual → exec (.timeQualityWrite m v) s = .next s)
    ∧ (t0.qual = 3 → exec (.holdoverUncertGrowth ns) s = .next (s.on { c with time := { t0 with
        holdNs := t0.holdNs + ns
        uncert := BitVec.ofNat 32 (min (t0.holdBase.toNat + (t0.holdNs + ns) * 50 / 1000000) 0xFFFFFFFF) } }))
    ∧ (t0.qual ≠ 3 → exec (.holdoverUncertGrowth ns) s = .next s)
    ∧ (allowed → -858993 ≤ trim → trim ≤ 858993 → c.err.takes 0 = true → Runs (exec (.refChange r trim) s) fun t =>
      t.core.time = { t0 with ref := r, trim := BitVec.ofInt 32 trim, stat := t0.stat ||| 8 }
      ∧ t.core.lastLog
        = some { cls := 0, source := 0x04, code := 0x001A, unit := 0, detail := (t0.ref.setWidth 16 <<< 4) ||| r.setWidth 16, addr := 0 })
    ∧ (allowed → trim < -858993 ∨ 858993 < trim → Runs (exec (.refChange r trim) s) fun t =>
      t.core.time.ref = r ∧ t.core.time.trim = BitVec.ofInt 32 (lim trim) ∧ t.core.time.qual = 3 ∧ t.core.time.dtime = t0.dtime)
    ∧ (¬allowed → exec (.refChange r trim) s = .next s)
    ∧ (t0.running = false → up → cold = true → exec .dtimeReload s = .next (s.on { c with time := { t0 with running := true } }))
    ∧ (t0.running = false → up → cold = false → Runs (exec .dtimeReload s) fun t =>
        let n := c.aon.ticks - t0.aonStop
        let slept : Int := (n.toNat : Int) * 15625000 * (256000000 - t0.rtcPpm.toInt) / (64 * 256000000)
        let y := t.core.time
        y.running = true ∧ y.sleepN = n ∧ y.dtime = t0.sleepDt + BitVec.ofNat 64 slept.toNat + (if t0.unplanned then 244141 else 0)
        ∧ y.unplanned = false ∧ y.qual = (if t0.qual = 0 then 0 else 2)
        ∧ (t0.qual ≠ 0 → y.uncert = BitVec.ofNat 32 (min (t0.uncertStop.toNat + n.toNat * 30518 * 50 / 1000000) 0xFFFFFFFF)))
    ∧ (t0.running = true ∨ ¬up → exec .dtimeReload s = .next s)

/-- R226 to R232, R252, R395, R396, R399: a capture channel holds an edge for the smallest spacing; an edge that follows sooner makes a pulse too
narrow with it, which is counted and not stored; an edge that EDGE selects is stored with its stamp when the next edge or the clock finds it
over its spacing (the instant at which it enters is the model's, log entry 54), and lost when the FIFO is full; a pop takes the oldest. A
source's event pulses the lines that follow it, or gives them its level, and a line's edge sets its event latches; a second edge during the
handshake merges. The software sources follow their bits. -/
def Obligations.CaptureAndTriggers : Prop :=
  ∀ (s : State) (k : BitVec 9) (t : DWord) (pol : Bool) (m : Master) (src : BitVec 16) (g : SprigId) (e : BitVec 3) (w : BitVec 3) (v : Word)
    (before after : List (Sink × DWord)),
    let c := s.core
    let x := c.cap k
    let gap : Nat := if k.toNat < 64 then 8 else 32
    let stamp (t : DWord) : DWord := if k.toNat < 64 then t else t &&& ~~~7#64
    let held := some (t, pol, (c.capCfg k).getLsbD (if pol then 29 else 30))
    let sees : Prop := k.toNat < 288 ∧ c.captures k = true
    let pops : Prop := k.toNat < 288 ∧ c.frozenMaster m = false ∧ c.seesAll m = true
    let latched (sink : Sink) : Prop := c.fabric.edges = before ++ (sink, t) :: after ∧ ∀ z, z ∈ before → z.1 ≠ sink
    let y := c.crossing g e
    let p := (c.sprig g).page
    let awake : Prop := c.asleep (bunchOf g) = false
    let left (u : State) : Prop := u.core.fabric.edges = before ++ after ∧ (∀ h, h ≠ g → u.core.sprig h = c.sprig h)
    (sees → x.hold = none → Runs (exec (.captureEdge k t pol) s) fun u => u.core.cap k = { x with hold := held } ∧ u.core.fabric = c.fabric)
    ∧ (∀ t0 b sel, sees → x.hold = some (t0, b, sel) → t.toNat < t0.toNat + gap → Runs (exec (.captureEdge k t pol) s) fun u =>
      u.core.cap k = { x with hold := none, glitch := x.glitch + 1 } ∧ u.core.fabric = c.fabric)
    ∧ (∀ t0 b, sees → x.hold = some (t0, b, true) → t0.toNat + gap ≤ t.toNat → x.fifo.length < 16 → Runs (exec (.captureEdge k t pol) s) fun u =>
      u.core.cap k = { x with fifo := x.fifo ++ [(stamp t0, b)], hold := held })
    ∧ (∀ t0 b, sees → x.hold = some (t0, b, true) → t0.toNat + gap ≤ t.toNat → 16 ≤ x.fifo.length → Runs (exec (.captureEdge k t pol) s) fun u =>
      u.core.cap k = { x with ovf := true, lost := x.lost + 1, hold := held })
    ∧ (∀ t0 b, sees → x.hold = some (t0, b, false) → t0.toNat + gap ≤ t.toNat → Runs (exec (.captureEdge k t pol) s) fun u =>
      u.core.cap k = { x with hold := held })
    ∧ (k.toNat < 256 → ((c.pcfg (k.setWidth 8)) >>> 14).setWidth 3 = (0 : BitVec 3) → Runs (exec (.captureEdge k t pol) s) fun u =>
      u.core.pinIn k.toNat = pol ∧ u.core.mem = c.mem)
    ∧ (∀ rest, pops → x.fifo = (t, pol) :: rest → Runs (exec (.timeCapPop m k) s) fun u =>
        u.core.cap k = { x with fifo := rest } ∧ u.core.popBuf m k = { valid := true, stamp := t, pol := pol }
        ∧ (Tbl.get u.core.rdata (masterKey m) {}).value = t.setWidth 32)
    ∧ (pops → x.fifo = [] → Runs (exec (.timeCapPop m k) s) fun u =>
        u.core.popBuf m k = { c.popBuf m k with valid := false } ∧ (Tbl.get u.core.rdata (masterKey m) {}).value = 0 ∧ u.core.fabric = c.fabric)
    ∧ (∀ l, src ≠ 0xFFFF → c.linesOf src = [l] → (c.lineCfg l).getLsbD 30 = true → Runs (exec (.triggerSourceEvent src true t) s) fun u =>
      Tbl.get u.core.fabric.stamp l.toNat 0 = t ∧ u.core.fabric.edges = c.fabric.edges ++ (c.sinksOf l).map fun k => (k, t))
    ∧ (∀ l b, src ≠ 0xFFFF → c.linesOf src = [l] → (c.lineCfg l).getLsbD 30 = false →
      let new := b != (c.lineCfg l).getLsbD 29
      Runs (exec (.triggerSourceEvent src b t) s) fun u => Tbl.get u.core.fabric.level l.toNat false = new
        ∧ u.core.fabric.edges = c.fabric.edges ++ (if new && !Tbl.get c.fabric.level l.toNat false then (c.sinksOf l).map fun k => (k, t) else []))
    ∧ (src = 0xFFFF → exec (.triggerSourceEvent src pol t) s = .next s)
    ∧ (latched (.latch g e) → awake → y.resync = false → y.busy = false → p.latch.getLsbD e.toNat = false →
      Runs (exec (.eventLatchSet g e) s) fun u => left u ∧ u.core.crossing g e = { y with busy := true, again := false }
        ∧ u.core.sprig g = { c.sprig g with page := { p with latch := putBit p.latch e.toNat true } })
    ∧ (latched (.latch g e) → awake → y.resync = false → y.busy = true → Runs (exec (.eventLatchSet g e) s) fun u =>
        left u ∧ u.core.crossing g e = { y with again := true }
        ∧ u.core.sprig g = { c.sprig g with page := { p with merged := putBit p.merged e.toNat true } })
    ∧ (latched (.latch g e) → awake → y.resync = true ∨ (y.busy = false ∧ p.latch.getLsbD e.toNat = true) → Runs (exec (.eventLatchSet g e) s) fun u =>
        left u ∧ u.core.crossing g e = y ∧ u.core.sprig g = { c.sprig g with page := { p with merged := putBit p.merged e.toNat true } })
    ∧ (y.busy = true → Runs (exec (.latchHandshakeEnd g e) s) fun u =>
      u.core.crossing g e = { y with busy := false, again := false }
      ∧ u.core.sprig g = (if y.again then { c.sprig g with page := { p with latch := putBit p.latch e.toNat true } } else c.sprig g))
    ∧ (y.busy = false → exec (.latchHandshakeEnd g e) s = .next s)
    ∧ (c.takes m true = true → Runs (exec (.trigSwset m w v) s) fun u =>
      u.core.fabric.sw = swPut c.fabric.sw w (swWord c.fabric.sw w ||| v) ∧ u.core.mem = c.mem ∧ u.core.sprigs = c.sprigs)
    ∧ (c.takes m true = true → Runs (exec (.trigSwclr m w v) s) fun u =>
      u.core.fabric.sw = swPut c.fabric.sw w (swWord c.fabric.sw w &&& ~~~v) ∧ u.core.mem = c.mem ∧ u.core.sprigs = c.sprigs)

/-- R219, R233 to R237: a comparator is armed by its high word, after a firing of the old value that is due, and fires when DTIME reaches it, again
and again with a period; a monitor armed by a supervisor, its sprig or an edge is satisfied by an occurrence in time and misses otherwise;
disarmed, its deadline reads never. It rests on the model's choices of log entry 16 too. -/
def Obligations.ComparatorsAndDeadlines : Prop :=
  ∀ (s : State) (k : BitVec 12) (m : Master) (v : Word) (u : DWord) (before after : List (Sink × DWord)),
    let c := s.core
    let x := c.cmp k
    let y := c.dm k
    let now := c.time.dtime
    let given (lo : Nat) : DWord := v ++ c.stagedLow m (BitVec.ofNat 40 (regAt 0x04 lo))
    let due : Prop := x.armed = true ∧ c.time.running = true ∧ x.cmp.toNat ≤ now.toNat
    let given1 := given (0x20000 + 0x10 * k.toNat)
    let given2 := given (0x60000 + 0x20 * k.toNat + 0x10)
    let late := c.time.skipped x.cmp x.since
    let written (z : Cmp) : Cmp := { z with cmp := given1, armed := decide (given1 ≠ never), skip := 0, since := now }
    let fired : Cmp := { x with pend := true, ovr := x.ovr || x.pend, stepped := x.stepped || late, since := now }
    let armed (d : DWord) : Dm :=
      if d = never then { y with armed := false, dl := never } else { y with armed := true, overrun := y.overrun || y.armed, dl := d, since := now }
    let calm : Prop := ∀ e, e ∈ c.fabric.edges → e.1 ≠ Sink.watch k
    let beyond (t : DWord) : Prop := y.armed = true ∧ c.time.running = true ∧ y.dl.toNat + 8 ≤ t.toNat
    let next (sink : Sink) : Prop := c.fabric.edges = before ++ (sink, u) :: after ∧ ∀ z, z ∈ before → z.1 ≠ sink
    let en := (c.dmCtl k).getLsbD 31
    let still (t : State) : Prop := t.core.mem = c.mem ∧ t.core.sprigs = c.sprigs ∧ t.core.time = c.time
    (c.takes m true = true → ¬due → Runs (exec (.timeCmpHiWrite m k v) s) fun t => t.core.cmp k = written x ∧ still t)
    ∧ (c.takes m true = true → due → Runs (exec (.timeCmpHiWrite m k v) s) fun t => t.core.cmp k = written fired ∧ still t)
    ∧ (c.takes m true = true → (v.toNat = 0 ∨ 800 ≤ v.toNat) →
      exec (.timeCmpPerWrite m k v) s = .next (s.on (c.setCmp k { x with per := v })))
    ∧ (c.takes m true = true → 1 ≤ v.toNat → v.toNat ≤ 799 → Runs (exec (.timeCmpPerWrite m k v) s) fun t => t.core.cmps = c.cmps ∧ still t)
    ∧ (due → x.per = 0 → Runs (exec (.comparatorFire k) s) fun t => t.core.cmp k = { fired with armed := false } ∧ still t)
    ∧ (due → x.per ≠ 0 → now.toNat + x.per.toNat < 2 ^ 64 → Runs (exec (.comparatorFire k) s) fun t =>
        let z := t.core.cmp k
        z = { fired with cmp := z.cmp, skip := z.skip } ∧ now.toNat < z.cmp.toNat ∧ z.cmp.toNat ≤ now.toNat + x.per.toNat
        ∧ x.per.toNat ∣ z.cmp.toNat - x.cmp.toNat
        ∧ z.skip.toNat = min (x.skip.toNat + ((z.cmp.toNat - x.cmp.toNat) / x.per.toNat - 1)) 0xFFFF ∧ still t)
    ∧ (¬due → exec (.comparatorFire k) s = .next s)
    ∧ (c.frozenMaster m = false → c.privileged m = true → en = true → calm → ¬beyond now → Runs (exec (.timeDmDlWrite m k v) s) fun t =>
      t.core.dm k = armed given2 ∧ still t)
    ∧ (c.frozenMaster m = false → c.privileged m = false ∨ en = false → Runs (exec (.timeDmDlWrite m k v) s) fun t =>
      t.core.dms = c.dms ∧ still t)
    ∧ (next (.arm k) → en = true → calm → ¬beyond u → Runs (exec (.deadlineAutoArm k) s) fun t =>
      t.core.dm k = armed (u + 8 * ((c.dmAuto k).setWidth 19 : BitVec 19).setWidth 64) ∧ t.core.fabric.edges = before ++ after ∧ still t)
    ∧ (next (.watch k) → y.armed = true → u.toNat < y.dl.toNat + 8 → Runs (exec (.deadlineSatisfy k) s) fun t =>
      t.core.dm k = { y with
        armed := false, dl := never, slack := BitVec.ofInt 32 (max (-2147483648) (min (((y.dl.toNat : Int) - u.toNat) / 8) 2147483647)) }
      ∧ t.core.fabric.edges = before ++ after ∧ still t)
    ∧ (next (.watch k) → y.armed = false ∨ y.dl.toNat + 8 ≤ u.toNat → Runs (exec (.deadlineSatisfy k) s) fun t =>
      t.core.dms = c.dms ∧ t.core.fabric.edges = before ++ after ∧ still t)
    ∧ (y.armed = true → c.time.running = true → y.dl.toNat < now.toNat → (∀ e, e ∈ c.fabric.edges → e.1 = Sink.watch k → y.dl.toNat + 8 ≤ e.2.toNat) →
      Runs (exec (.deadlineMiss k) s) fun t =>
        t.core.dm k = { y with
          armed := false, dl := never, miss := true, stepped := y.stepped || c.time.skipped y.dl y.since, missCnt := y.missCnt + 1 } ∧ still t)
    ∧ (y.armed = false → exec (.deadlineMiss k) s = .next s)

/-- R238 to R246: a deal that passes the checks enters its unit's queue, any other is refused with the first check's outcome; at its instant it
drives its pin, whose pulse returns at its own, or leaves for its port or connection; a trigger's edge gives the oldest waiting deal its
instant; FLUSH misses every queued deal; a read of DEAL_UERR clears the counts. -/
def Obligations.DealUnits : Prop :=
  ∀ (s : State) (k o d : Nat) (n : Byte) (w : BitVec 16) (v : Word) (t : DWord) (g : SprigId) (m : Master) (e : DealEntry) (rest : List DealEntry)
    (before after : List (Sink × DWord)),
    let c := s.core
    let u : BitVec 16 := n.setWidth 16
    let x := c.unit u
    let now := c.time.dtime
    let comes : Prop := c.arrives k = some ⟨o, d, .deal u v t g⟩ ∧ (c.uctl u).getLsbD 29 = false
    let up : Prop := (c.uctl u).getLsbD 31 = true ∧ ((c.pcfg n) >>> 28).setWidth 4 = 3#4 ∧ (c.bank (pinBank n)).stopped = false
    let pulse (v : Word) : Bool := decide (v >>> 28 = 3) || decide (v >>> 28 = 4)
    let width (v : Word) : Nat := (v.setWidth 24 : BitVec 24).toNat
    let legal : Prop := (v >>> 24).setWidth 4 = 0#4 ∧ (if pulse v then 16 ≤ width v else (v >>> 28).toNat ≤ 6 ∧ width v = 0)
    let early : Prop := t.toNat < now.toNat + 800
    let behind : Prop := t.toNat < x.tail.toNat
    let full : Prop := 16 ≤ x.queue.length
    let settled (r : State) (b : BitVec 4) : Prop :=
      r.core.fly = c.fly.eraseIdx k ∧ (r.core.sprig g).dealsOut = (c.sprig g).dealsOut - 1
      ∧ r.core.sstat g = ⟨b, if b = 0 then (c.sstat g).refcnt else (c.sstat g).refcnt + 1, u⟩
    let turned (b : BitVec 4) (y : DealUnit) : Prop := Runs (exec (.dealCardAccept k) s) fun r => r.core.unit u = { y with last := b } ∧ settled r b
    let tail (r : DWord) (v : Word) : DWord := if pulse v then r + BitVec.ofNat 64 (width v) else r
    let first : Prop := x.queue = e :: rest
    let pin (y : State) : Pin := y.core.pin n
    let released (v : Word) (P : State → Prop) : Prop :=
      ∀ r, first → e.value = v → e.release = some r → r.toNat ≤ now.toNat → x.returns = [] → c.time.skipped r e.since = false →
        Runs (exec (.dealRelease u) s) fun y => y.core.unit u = { x with
          queue := rest, returns := if pulse v then [(r + BitVec.ofNat 64 (width v), decide (v >>> 28 = 4))] else [] } ∧ P y
    let edge : Prop := c.fabric.edges = before ++ (Sink.deal u, t) :: after ∧ (∀ z, z ∈ before → z.1 ≠ Sink.deal u) ∧ (c.uctl u).getLsbD 29 = true
    let waits (taken : List DealEntry) : Prop := x.queue = taken ++ e :: rest ∧ (∀ z, z ∈ taken → z.release ≠ none) ∧ e.release = none
    let at_ : DWord := t + ((e.time.setWidth 32 : Word).setWidth 64)
    (comes → up → legal → ¬early → ¬behind → ¬full → Runs (exec (.dealCardAccept k) s) fun r =>
        r.core.unit u = { x with queue := x.queue ++ [⟨v, t, g, some t, now⟩], tail := tail t v } ∧ settled r 0)
    ∧ (comes → ¬up → turned 4 { x with other := satInc8 x.other })
    ∧ (comes → up → ¬legal → turned 5 { x with other := satInc8 x.other })
    ∧ (comes → up → legal → early → turned 1 { x with late := satInc8 x.late })
    ∧ (comes → up → legal → ¬early → behind → turned 2 { x with order := satInc8 x.order })
    ∧ (comes → up → legal → ¬early → ¬behind → full → turned 3 { x with other := satInc8 x.other })
    ∧ released 0x00000000#32 (fun y => (pin y).level = false)
    ∧ released 0x10000000#32 (fun y => (pin y).level = true)
    ∧ released 0x20000000#32 (fun y => (pin y).level = !(c.pin n).level)
    ∧ released 0x50000000#32 (fun y => (pin y).hiz = true)
    ∧ (∀ w : BitVec 24, 16 ≤ w.toNat → released (0x30#8 ++ w) (fun y => (pin y).level = true))
    ∧ (∀ r b, x.returns = [(r, b)] → r.toNat ≤ now.toNat → Runs (exec (.pulseReturnEdge u) s) fun y =>
        pin y = { c.pin n with level := b } ∧ y.core.unit u = { x with returns := [] })
    ∧ (∀ r b, x.returns = [(r, b)] → now.toNat < r.toNat → Runs (exec (.pulseReturnEdge u) s) fun y => y.core.unit u = x ∧ y.core.pins = c.pins)
    ∧ (∀ r (p : BitVec 3), (c.unit (0x100 + p.setWidth 16)).queue = e :: rest → e.release = some r → r.toNat ≤ now.toNat → (c.eth p).link = true →
      c.time.skipped r e.since = false → Runs (exec (.dealRelease (0x100 + p.setWidth 16)) s) fun y =>
        (y.core.eth p).due = (c.eth p).due ++ [(e.value.setWidth 8, r)] ∧ (y.core.unit (0x100 + p.setWidth 16)).queue = rest)
    ∧ (∀ taken, edge → waits taken → x.tail.toNat ≤ at_.toNat → Runs (exec (.triggeredDealTake u) s) fun y =>
        y.core.unit u = { x with queue := taken ++ { e with release := some at_, since := now } :: rest, tail := tail at_ e.value }
        ∧ y.core.fabric.edges = before ++ after)
    ∧ (∀ taken, edge → waits taken → at_.toNat < x.tail.toNat → Runs (exec (.triggeredDealTake u) s) fun y =>
        y.core.unit u = { x with queue := taken ++ rest, last := 6, mcause := 6, missed := satInc8 x.missed })
    ∧ (edge → x.queue = [] → Runs (exec (.triggeredDealTake u) s) fun y => y.core.unit u = { x with tempty := x.tempty + 1 })
    ∧ (c.takes m (c.mayFlush m u) = true → Runs (exec (.flush m u) s) fun y =>
        (y.core.unit u).queue = [] ∧ (y.core.unit u).returns = x.returns ∧ (y.core.unit u).tail = x.tail
        ∧ (x.queue ≠ [] → (y.core.unit u).last = 6 ∧ (y.core.unit u).mcause = 3 ∧ (y.core.unit u).missed.toNat = min (x.missed.toNat + x.queue.length) 255))
    ∧ (unitExists w = true → c.frozenMaster m = false → c.seesAll m = true → Runs (exec (.dealUerrRead m w) s) fun y =>
        let x := c.unit w
        (Tbl.get y.core.rdata (masterKey m) {}).value = x.late ++ x.order ++ x.missed ++ x.other
        ∧ y.core.unit w = { x with late := 0, order := 0, missed := 0, other := 0 })

/-- R247 to R250, R498: in a 10 µs whose input power, averaged over the window, is over the power cap, or held by heat, the voltage code falls
by 1 down to 20 and CAPPED is set; under 97 % of the cap CAPPED ends; at a period's end the smallest sample of the masked bunches moves the
code up or down within its limits; CAPPED at the floor is logged once; 103 °C holds the controller and 100 °C lets it go. PWR_PIN is the
average rounded down (the model's choice, log entry 17). -/
def Obligations.VoltageController : Prop :=
  ∀ (s : State) (p : BitVec 16) (code : BitVec 12),
    let c := s.core
    let x := c.slack
    let cap := c.powerCap
    let watts := (cap.setWidth 9 : BitVec 9).toNat
    let window := (p :: x.powers).take (max 1 ((cap >>> 16).setWidth 9 : BitVec 9).toNat)
    let sum := (window.map BitVec.toNat).sum
    let target : Int := ((c.slackTarget.setWidth 16 : BitVec 16).toNat : Int)
    let band : Int := (((c.slackTarget >>> 16).setWidth 16 : BitVec 16).toNat : Int)
    let beyond : Prop := cap.getLsbD 31 = true ∧ 10 * watts * window.length < sum
    let up := ((c.slackCtl >>> 8).setWidth 8 : Byte).toNat
    let down := (c.slackCtl.setWidth 8 : Byte).toNat
    let vmax := ((c.vcLim >>> 8).setWidth 8 : Byte).toNat
    let vmin := (c.vcLim.setWidth 8 : Byte).toNat
    let ticked (P : State → Prop) : Prop := Runs (exec (.vcCapTick p) s) fun t =>
      P t ∧ t.core.slack.powers = window ∧ t.core.slack.pin = BitVec.ofNat 16 (sum / window.length)
    let ended (P : Word → Byte → Prop) : Prop := Runs (exec .vcPeriodEnd s) fun t =>
      let y := t.core.slack
      y.bslack = x.cur ∧ y.cur = [] ∧ (∀ b, b < 64 → c.slackMask.getLsbD b = true → y.slackMin.toInt ≤ (Tbl.get x.cur b maxI).toInt)
      ∧ (y.slackMin = maxI ∨ ∃ b, b < 64 ∧ c.slackMask.getLsbD b = true ∧ y.slackMin = Tbl.get x.cur b maxI) ∧ y.capped = x.capped ∧ P y.slackMin y.vt
    (beyond ∨ x.thermal = true → ticked fun t => t.core.slack.capped = true ∧ t.core.slack.vt = BitVec.ofNat 8 (max (x.vt.toNat - 1) 20))
    ∧ (x.thermal = false → x.capped = true → 10 * sum < 97 * watts * window.length → ticked fun t =>
      t.core.slack.capped = false ∧ t.core.slack.vt = x.vt)
    ∧ (¬beyond → x.thermal = false → x.capped = false ∨ 97 * watts * window.length ≤ 10 * sum → ticked fun t =>
      t.core.slack.capped = x.capped ∧ t.core.slack.vt = x.vt)
    ∧ (c.slackCtl.getLsbD 31 = true → x.capped = false → ended fun low vt =>
      (low ≠ maxI → low.toInt < target → vt = BitVec.ofNat 8 (min (x.vt.toNat + up) vmax))
      ∧ (low = maxI ∨ target + band < low.toInt → vt = BitVec.ofNat 8 (max (x.vt.toNat - down) vmin))
      ∧ (low ≠ maxI → target ≤ low.toInt → low.toInt ≤ target + band → vt = x.vt))
    ∧ (c.slackCtl.getLsbD 31 = false ∨ x.capped = true → ended fun _ vt => vt = x.vt)
    ∧ (x.capped = true → x.vt = 20 → x.floorSent = false → c.err.takes 1 = true → Runs (exec .vcFloor s) fun t =>
      t.core.slack = { x with floorSent := true }
      ∧ t.core.lastLog = some { cls := 1, source := 0x04, code := 0x0012, unit := 0, detail := 0, addr := 0 })
    ∧ (x.capped = false ∨ x.vt ≠ 20 ∨ x.floorSent = true → exec .vcFloor s = .next s)
    ∧ (2672 ≤ code.toNat → Runs (exec (.thermalCap code) s) fun t => t.core.slack = { x with thermal := true, capped := true })
    ∧ (code.toNat ≤ 2624 → exec (.thermalCap code) s = .next (s.on { c with slack := { x with thermal := false } }))
    ∧ (2624 < code.toNat → code.toNat < 2672 → exec (.thermalCap code) s = .next s)


/-! ### Interrupts, field and camera ports, memory channels -/

/-- R285 to R291, R296 to R298: enables are set and cleared by the bits written; a free target latches the eligible source of highest priority and
lowest number; a source that no sprig can take is STRANDED with an entry; a target that leaves RUN and WAIT loses its latch to the fallback; a
host source that is pending, enabled and not active sends its message, or sets its entry's pending bit while the entry or its function is
masked, and sends nothing without Bus Master Enable; a completion ends its service and a source still pending is sent again; an unmasked entry
sends what is pending and clears its bit. -/
def Obligations.InterruptControllers : Prop :=
  ∀ (s : State) (m : Master) (b : BunchId) (w : BitVec 3) (v : Word) (t : BitVec 5) (n : BitVec 10) (k : Byte) (f : FuncId) (e : BitVec 11),
    let c := s.core
    let x := c.bic b
    let pri (k : Byte) : BitVec 4 := ((c.bicSrc b k) >>> 16).setWidth 4
    let wants (k : Byte) : Prop := c.bicLevel b k = true ∧ x.active.getLsbD k.toNat = false ∧ x.en.getLsbD k.toNat = true
    let can (t : BitVec 5) (k : Byte) : Prop := wants k ∧ c.bicTarget b k = some t ∧ (Tbl.get x.thresh t.toNat 0).setWidth 4 ≤ pri k
    let best (t : BitVec 5) (k : Byte) : Prop := can t k ∧ ∀ j, j ≠ k → can t j → pri j < pri k ∨ (pri j = pri k ∧ k < j)
    let lost (k : Byte) : Prop := wants k ∧ (((c.bicSrc b k) >>> 20).setWidth 5 : BitVec 5) = t ∧ c.bicTarget b k = none
    let quiet : Prop := x.stranded = true ∨ ∀ k, ¬lost k
    let gone : Bic := { x with latch := Tbl.set x.latch t.toNat none none, latchSrc := Tbl.set x.latchSrc t.toNat 0 0 }
    let latched (x : Bic) (t : BitVec 5) (k : Byte) : Bic := { x with
      latch := Tbl.set x.latch t.toNat (some (k, pri k)) none, latchSrc := Tbl.set x.latchSrc t.toNat (c.bicSrc b k) 0 }
    let back : BitVec 5 := (c.bicFallback b).setWidth 5
    let falls : Prop := (c.bicFallback b).getLsbD 31 = true ∧ c.awake (sprigAt b back) = true
    let h := c.hic
    let src := c.hicMap n
    let to_ := hicFunc src
    let key := msixKey to_ (hicVector src)
    let due : Prop := c.hicLevel n = true ∧ src.getLsbD 31 = true
    let masked : Prop := Tbl.get h.unmasked key false = false ∨ Tbl.get h.fmask to_.toNat false = true
    let free (h : Hic) : Hic := { h with active := Tbl.set h.active n.toNat none none }
    let sent (h : Hic) : Hic := { h with active := Tbl.set h.active n.toNat (some to_) none, sent := h.sent ++ [(to_, hicVector src)] }
    let with_ (h : Hic) : State := s.on { c with hic := h }
    let slot := msixKey f e
    (c.takes m true = true → ∃ en, exec (.bicEnset m b w v) s = .next (s.on (c.setBic b { x with en := en }))
      ∧ ∀ i, i < 256 → en.getLsbD i = (x.en.getLsbD i || (decide (i / 32 = w.toNat) && v.getLsbD (i % 32))))
    ∧ (c.takes m true = true → ∃ en, exec (.bicEnclr m b w v) s = .next (s.on (c.setBic b { x with en := en }))
      ∧ ∀ i, i < 256 → en.getLsbD i = (x.en.getLsbD i && !(decide (i / 32 = w.toNat) && v.getLsbD (i % 32))))
    ∧ (quiet → Tbl.get x.latch t.toNat none = none → best t k → exec (.bicArbitrate b t) s = .next (s.on (c.setBic b (latched x t k))))
    ∧ (quiet → (Tbl.get x.latch t.toNat none ≠ none ∨ ∀ k, ¬can t k) → exec (.bicArbitrate b t) s = .next s)
    ∧ (x.stranded = false → lost k → (∀ j, lost j → k ≤ j) → c.err.takes 1 = true → Runs (exec (.bicArbitrate b t) s) fun u =>
      (u.core.bic b).stranded = true ∧ (u.core.bic b).active = x.active ∧ u.core.lastLog
        = some { cls := 1, source := 0x0D, code := 0x000F, unit := b.setWidth 32, detail := k.setWidth 16, addr := 0 })
    ∧ (c.awake (sprigAt b t) = true → exec (.bicTargetLeave b t) s = .next s)
    ∧ (c.awake (sprigAt b t) = false → falls → Tbl.get x.latch back.toNat none = none → best back k →
      exec (.bicTargetLeave b t) s = .next (s.on (c.setBic b (latched gone back k))))
    ∧ (c.awake (sprigAt b t) = false → falls → (Tbl.get x.latch back.toNat none ≠ none ∨ ∀ k, ¬can back k) →
      exec (.bicTargetLeave b t) s = .next (s.on (c.setBic b gone)))
    ∧ (c.awake (sprigAt b t) = false → ¬falls → quiet → exec (.bicTargetLeave b t) s = .next (s.on (c.setBic b gone)))
    ∧ (due → c.hicActive n = none → c.busMaster to_ = true → ¬masked → exec (.hicMessage n) s = .next (with_ (sent h)))
    ∧ (due → c.hicActive n = none → c.busMaster to_ = true → masked →
      exec (.hicMessage n) s = .next (with_ { h with pba := Tbl.set h.pba key true false }))
    ∧ ((¬due ∨ c.hicActive n ≠ none ∨ c.busMaster to_ = false) → exec (.hicMessage n) s = .next s)
    ∧ (v.setWidth 10 = n → v.getLsbD 31 = false → c.frozenMaster m = false → m = .host f ∨ (∃ g, m = .sprig g) → c.hicActive n = some f →
      (¬due ∨ c.busMaster to_ = false → exec (.hicComplete m v) s = .next (with_ (free h)))
      ∧ (due → c.busMaster to_ = true → ¬masked → exec (.hicComplete m v) s = .next (with_ (sent (free h)))))
    ∧ (v.setWidth 10 = n → v.getLsbD 31 = false → c.frozenMaster m = false → m = .host to_ → c.hicActive n = none →
      exec (.hicComplete m v) s = .next (s.on (c.log
        { cls := 0, source := 0x31, code := 0x0007, unit := to_.setWidth 32, detail := 297, addr := BitVec.ofNat 40 (regAt 0x0C 0x2000) })))
    ∧ (∀ f', v.setWidth 10 = n → m = .host f → c.hicActive n = some f' → f' ≠ f → exec (.hicComplete m v) s = .next s)
    ∧ exec (.msixUnmask f (.entry e true)) s = .next (with_ { h with unmasked := Tbl.set h.unmasked slot false false })
    ∧ (Tbl.get h.pba slot false = false ∨ Tbl.get h.fmask f.toNat false = true →
      exec (.msixUnmask f (.entry e false)) s = .next (with_ { h with unmasked := Tbl.set h.unmasked slot true false }))
    ∧ (Tbl.get h.pba slot false = true → Tbl.get h.fmask f.toNat false = false → Runs (exec (.msixUnmask f (.entry e false)) s) fun u =>
      Tbl.get u.core.hic.unmasked slot false = true ∧ Tbl.get u.core.hic.pba slot false = false
      ∧ (to_ = f → hicVector src = e → due → c.hicActive n = none → c.busMaster f = true →
        u.core.hicActive n = some f ∧ (f, e) ∈ u.core.hic.sent))
    ∧ exec (.msixUnmask f (.function true)) s = .next (with_ { h with fmask := Tbl.set h.fmask f.toNat true false })
    ∧ ((∀ e, Tbl.get h.pba (msixKey f e) false = false) →
      exec (.msixUnmask f (.function false)) s = .next (with_ { h with fmask := Tbl.set h.fmask f.toNat false false }))
    ∧ exec (.msixUnmask f (.busMaster false)) s = .next (with_ { h with bme := Tbl.set h.bme f.toNat false false })
    ∧ (to_ = f → due → c.hicActive n = none → ¬masked → Runs (exec (.msixUnmask f (.busMaster true)) s) fun u =>
      u.core.busMaster f = true ∧ u.core.hicActive n = some f ∧ (f, hicVector src) ∈ u.core.hic.sent)
    ∧ ∀ on, exec (.msixUnmask f (.vfEnable on)) s = .next (if f = 0 then with_ { h with vfe := on } else s)

/-- R252 to R262: output bits are set and cleared; a supply out of range stops its bank with an entry, and 1 ms after its return the pins resume; a
decoder counts by its mode, with the two directions of R258 free (log entry 18), latches index and sample; a serial master's frame runs from
its start to its end, unless one runs or TGAP has not passed, and is read with its stamp, a Gray code as binary. It rests on the model's choices of
log entries 19, 20, 34 too. -/
def Obligations.FieldPins : Prop :=
  ∀ (s : State) (m : Master) (k : BitVec 3) (v : Word) (q : BitVec 6) (a b : Bool) (t data : DWord) (d : Int)
      (before after : List (Sink × DWord)),
    let c := s.core
    let bank := c.bank k
    let x := c.qd q
    let w := c.qdCfg q
    let mode := ((w >>> 28).setWidth 2 : BitVec 2).toNat
    let counts (d : Int) : Prop := Runs (exec (.qdEdge q a b) s) fun u =>
      u.core.qd q = { x with qa := a, qb := b, count := x.count + BitVec.ofInt 32 (if w.getLsbD 25 then -d else d) }
    let signed (d : Int) : Int := if Config.leadUp then d else -d
    let rises : Prop := x.qa = false ∧ a = true
    let j := q
    let y := c.serial j
    let bits : Nat := if 32 ≤ j.toNat then ((c.serCfg j >>> 23).setWidth 5 : BitVec 5).toNat + 1 else ((c.serCfg j >>> 23).setWidth 6 : BitVec 6).toNat + 1
    let gap : Nat := ((c.serClk j >>> 16).setWidth 8 : Byte).toNat * (if 32 ≤ j.toNat then 80 else 8000)
    let busy : Prop := y.busy = true ∨ ∃ e, y.lastEnd = some e ∧ (c.time.dtime - e).toNat < gap
    let started (t : DWord) : Serial := { y with
      busy := true, start := t, txNow := y.tx, notReady := y.notReady || (a && decide (j.toNat < 32)) }
    let raw : DWord := data &&& BitVec.ofNat 64 (2 ^ bits - 1)
    let gray : Prop := j.toNat < 32 ∧ (c.serCfg j).getLsbD 29 = true
    let ended (v : DWord) : State := s.on (c.setSerial j { y with
      busy := false, data := v, stamp := y.start, seq := y.seq + 1, level := true, lastEnd := some c.time.dtime })
    let reads : Prop := c.frozenMaster m = false ∧ c.seesAll m = true
    let edge (z : Sink) : Prop := c.fabric.edges = before ++ (z, t) :: after ∧ ∀ y, y ∈ before → y.1 ≠ z
    let rest : Core := { c with fabric := { c.fabric with edges := before ++ after } }
    (c.takes m true = true → exec (.fioOset m k v) s = .next (s.on (c.setBank k { bank with out := bank.out ||| v })))
    ∧ (c.takes m true = true → exec (.fioOclr m k v) s = .next (s.on (c.setBank k { bank with out := bank.out &&& ~~~v })))
    ∧ (Runs (exec (.vioFault k) s) fun u =>
      u.core.bank k = { bank with viook := false, fault := true, stopped := true }
      ∧ (∀ i : BitVec 16, i.toNat / 32 = k.toNat → (u.core.unit i).queue = [] ∧ (u.core.unit i).returns = (c.unit i).returns)
      ∧ (∀ j : BitVec 6, j.toNat < 48 → serialBank j = k.toNat → u.core.serial j = { c.serial j with busy := false })
      ∧ (c.err.takes 1 = true → (∀ i : BitVec 16, i.toNat / 32 = k.toNat → (c.unit i).queue = []) → u.core.lastLog
        = some { cls := 1, source := 0x07, code := 0x0010, unit := k.setWidth 32, detail := k.setWidth 16, addr := 0 }))
    ∧ exec (.viookReturn k a) s = .next (s.on (c.setBank k { bank with viook := true, vio33 := a }))
    ∧ (bank.viook = true → bank.stopped = true → Runs (exec (.vioResume k) s) fun u =>
      u.core.bank k = { bank with stopped := false }
      ∧ ∀ i : BitVec 16, i.toNat / 32 = k.toNat → (u.core.unit i).returns = [] ∧ (pinFunc (c.pcfg (i.setWidth 8)) = 3 →
        u.core.pin (i.setWidth 8) = { level := (c.pcfg (i.setWidth 8)).getLsbD 18, hiz := false }))
    ∧ (bank.viook = false ∨ bank.stopped = false → exec (.vioResume k) s = .next s)
    ∧ (c.qdRuns q = false → Runs (exec (.qdEdge q a b) s) fun u => u.core.qd q = { x with qa := a, qb := b })
    ∧ (c.qdRuns q = true →
      (mode = 0 → x.qa ≠ a → x.qb = b → counts (signed (if a = b then -1 else 1)))
      ∧ (mode = 0 → x.qa = a → x.qb ≠ b → counts (signed (if a = b then 1 else -1)))
      ∧ (mode = 0 → x.qa = a → x.qb = b → counts 0)
      ∧ (mode ≤ 1 → x.qa ≠ a → x.qb ≠ b → Runs (exec (.qdEdge q a b) s) fun u =>
        u.core.qd q = { x with qa := a, qb := b, err := true, errCnt := x.errCnt + 1 })
      ∧ (mode = 1 → rises → x.qb = b → counts (signed (if b then -1 else 1)))
      ∧ (mode = 2 → rises → counts (if b = Config.stepUp then 1 else -1))
      ∧ (1 ≤ mode → mode ≤ 2 → ¬rises → x.qa = a ∨ x.qb = b ∨ mode = 2 → counts 0)
      ∧ (mode = 3 → d = (if x.qa = false ∧ a = true then 1 else 0) - (if x.qb = false ∧ b = true then 1 else 0) → counts d))
    ∧ (c.takes m true = true → exec (.qdPreset m q v) s = .next (s.on (c.setQd q { x with count := v })))
    ∧ (c.qdRuns q = true → w.getLsbD 27 = true → Runs (exec (.qdIndexEdge q t) s) fun u =>
      (u.core.qd q).count = x.count ∧ (u.core.qd q).latched = true
      ∧ (x.latched = false → (u.core.qd q).idx = x.count ∧ (u.core.qd q).idxT = t &&& ~~~7#64 ∧ (u.core.qd q).iovr = x.iovr)
      ∧ (x.latched = true → (u.core.qd q).iovr = true ∧ (u.core.qd q).idx = x.idx ∧ (u.core.qd q).idxT = x.idxT))
    ∧ (c.qdRuns q = false ∨ w.getLsbD 27 = false → exec (.qdIndexEdge q t) s = .next s)
    ∧ (reads → Runs (exec (.qdIdxRead m q) s) fun u =>
      (Tbl.get u.core.rdata (masterKey m) {}).value = x.idx ∧ (u.core.qd q).latched = false ∧ (u.core.qd q).idx = x.idx
      ∧ (u.core.qd q).count = x.count)
    ∧ (∀ n more, edge (.sample q) → x.snaps = n :: more → exec (.qdSample q) s = .next (s.on (rest.setQd q { x with smp := n, snaps := more })))
    ∧ ((∀ y, y ∈ c.fabric.edges → y.1 ≠ Sink.sample q) → exec (.qdSample q) s = .next s)
    ∧ (j.toNat < 48 → edge (.serial j) →
      (c.serialRuns j = true → ¬busy → exec (.serialFrameStart j a) s = .next (s.on (rest.setSerial j (started ((t + 320) &&& ~~~7#64)))))
      ∧ (c.serialRuns j = true → busy → exec (.serialFrameStart j a) s = .next (s.on (rest.setSerial j { y with skipped := true })))
      ∧ (c.serialRuns j = false → exec (.serialFrameStart j a) s = .next (s.on rest)))
    ∧ (j.toNat < 48 → c.takes m true = true → c.serialRuns j = true →
      (¬busy → exec (.serialGo m j a) s = .next (s.on
        { (c.setSerial j (started (c.time.dtime + (Config.freeDelay c.free).setWidth 64))) with free := c.free + 1 }))
      ∧ (busy → exec (.serialGo m j a) s = .next (s.on { (c.setSerial j { y with skipped := true }) with free := c.free + 1 })))
    ∧ (j.toNat < 48 → c.takes m true = true → c.serialRuns j = false → exec (.serialGo m j a) s = .next s)
    ∧ (j.toNat < 48 → y.busy = true →
      (¬gray → exec (.serialFrameEnd j data) s = .next (ended raw))
      ∧ (gray → ∃ z, exec (.serialFrameEnd j data) s = .next (ended z) ∧ ∀ i, i < 64 → z.getLsbD i = (raw.getLsbD i ^^ z.getLsbD (i + 1))))
    ∧ (j.toNat < 48 → y.busy = false → exec (.serialFrameEnd j data) s = .next s)
    ∧ (j.toNat < 48 → reads → Runs (exec (.serialDataRead m j) s) fun u =>
      (Tbl.get u.core.rdata (masterKey m) {}).value = y.data.setWidth 32 ∧ u.core.serial j = { y with level := false }
      ∧ Tbl.get u.core.serShadows (serShadowKey m j) none = some ⟨(y.data >>> 32).setWidth 32, y.stamp, y.seq⟩
      ∧ u.core.shadow m (BitVec.ofNat 40 (serialAddr j + 0x10)) = some ((y.stamp >>> 32).setWidth 32))

/-- R263 to R269: a legal descriptor is written while it is not busy and queued in its class; the frame at a class' head starts when link, DGUARD
and gates allow, a dealt frame at its start position, and its end frees the descriptor, its bytes, padded to 60, sent with their FCS (what
the padding holds is free, log entry 80); a cycle takes its gate list, a committed one at its first start at or after the commit; a frame that
a filter takes goes to its ring; a link change is marked, and preemption is verified while the link stands. It rests on the model's choices of log
entry 34 too. -/
def Obligations.EthernetPorts : Prop :=
  ∀ (s : State) (m : Master) (p cls : BitVec 3) (i : Byte) (v : Word) (t : DWord) (bs : List Byte) (spd : BitVec 2) (up : Bool)
      (ty : BitVec 16) (f : Nat),
    let c := s.core
    let x := c.eth p
    let ctl := c.ethCtl p
    let now := c.time.dtime
    let word := (x.desc i).word
    let len (w : Word) : Nat := ((w >>> 13).setWidth 14 : BitVec 14).toNat
    let off (w : Word) : Nat := 8 * (w.setWidth 13 : BitVec 13).toNat
    let legal : Prop := 14 ≤ len word ∧ len word ≤ 9216 ∧ off word + len word ≤ 65536
    let becomes (e : Eth) : State := s.on (c.setEth p e)
    let ignored (rule : BitVec 16) (at_ : Nat) : State := s.on (c.log
      { cls := 0, source := 0x08, code := 0x0007, unit := p.setWidth 32, detail := rule, addr := BitVec.ofNat 40 (regAt 0x08 (0x20000 * p.toNat + at_)) })
    let byte := lineByte (c.ethMode p) x.spd
    let before (n : Nat) (r : DWord) : Prop := byte * (8 + n) ≤ 100 * (r.toNat - now.toNat)
    let clear (n : Nat) : Prop := byte * n ≤ 80000 ∧ (∀ j r, (j, r) ∈ x.due → before n r)
      ∧ ∀ e, e ∈ (c.unit (0x100 + p.setWidth 16)).queue → ∀ r, e.release = some r → before n r
    let guarded : Prop := ctl.getLsbD 23 = false ∨ clear (8 + max 60 (len word) + 4 + 12)
      ∨ (x.pact = true ∧ word.getLsbD 30 = true ∧ clear (8 + 60 + 4 + 12))
    let gate (e : Word) : Bool := (e >>> 24).getLsbD cls.toNat
    let cost := byte * (8 + max 60 (len word) + 4)
    let cycle (start : DWord) : Nat := (now - start).toNat / 8 % x.cycLen.toNat
    let opened : Prop := ctl.getLsbD 24 = false ∨ ∃ start e, x.cycle = some start ∧ x.cycLen ≠ 0
      ∧ ((x.gates = [e] ∧ gate e = true) ∨ ∃ e2, x.gates = [e, e2] ∧ gate e = true ∧ gate e2 = false
        ∧ (e.setWidth 24 : BitVec 24).toNat < x.cycLen.toNat ∧ cycle start < (e.setWidth 24 : BitVec 24).toNat
        ∧ cost ≤ 800 * ((e.setWidth 24 : BitVec 24).toNat - cycle start))
    let shut : Prop := ctl.getLsbD 24 = true ∧ (x.cycle = none ∨ ∃ start e, x.cycle = some start ∧ x.cycLen ≠ 0
      ∧ ((x.gates = [e] ∧ gate e = false) ∨ ∃ e2, x.gates = [e, e2] ∧ gate e = true ∧ gate e2 = false
        ∧ (e.setWidth 24 : BitVec 24).toNat < x.cycLen.toNat ∧ cycle start < (e.setWidth 24 : BitVec 24).toNat
        ∧ 800 * ((e.setWidth 24 : BitVec 24).toNat - cycle start) < cost))
    let ready : Prop := ctl.getLsbD 31 = true ∧ x.link = true ∧ x.sending = none ∧ x.late = none
    let yields : Prop := ∀ f, x.sending = some f → f.dealt = false ∧ x.pact = true ∧ (x.desc f.idx).word.getLsbD 30 = true
    let start (base : DWord) (period : Word) : DWord := base + BitVec.ofNat 64 ((now - base).toNat / (8 * period.toNat) * (8 * period.toNat))
    let period := c.ethReg p 0x400 0
    let base : DWord := c.ethReg p 0x408 0 ++ c.ethReg p 0x404 0
    let cycles : Prop := ctl.getLsbD 31 = true ∧ ctl.getLsbD 24 = true
    let new : Prop := period ≠ 0 ∧ base ≤ now ∧ x.qbvFrom ≤ start base period
    let old : Prop := x.cycLen ≠ 0 ∧ x.cycBase ≤ now
    let tag : BitVec 16 → Prop := fun z => z = 0x8100 ∨ z = 0x88A8
    let typed : Prop := ¬tag ty ∧ ∃ a b r, ty = a ++ b
      ∧ (bs.drop 12 = a :: b :: r ∨ ∃ a' b' y z, tag (a' ++ b') ∧ bs.drop 12 = a' :: b' :: y :: z :: a :: b :: r)
    let filter (k : Nat) : Word := c.ethReg p (0x100 + 4 * k) 0
    let takes (k : Nat) : Prop := (filter k).getLsbD 31 = true ∧ (filter k).setWidth 16 = ty
    let live : Prop := ctl.getLsbD 31 = true ∧ x.link = true ∧ c.quiet (.ethPort p) = false
    let r := (((filter f) >>> 24).setWidth 4 : BitVec 4).toNat
    let ring := c.rxRing p r
    let size := 2 ^ (ring.log2 + 1)
    let tail := (Tbl.get x.tail r 0).toNat % size
    let slot := ring.base + (tail % 2 ^ ring.log2) * ring.size
    let room : Prop := ring.en = true ∧ (tail + size - (Tbl.get x.head r 0).toNat % size) % size < 2 ^ ring.log2 ∧ 32 + bs.length ≤ ring.size
    (c.takes m true = true → (x.desc i).busy = false → exec (.ethTxdWrite m p i v) s
      = .next (becomes (x.setDesc i { x.desc i with word := v &&& 0x7FFFFFFF#32 })))
    ∧ (c.takes m true = true → (x.desc i).busy = true → exec (.ethTxdWrite m p i v) s = .next (ignored 264 (0x1000 + 0x10 * i.toNat)))
    ∧ (c.takes m true = true → v.setWidth 8 = i →
      ((x.desc i).busy = false → (x.classQ cls).length < 64 → legal → exec (.ethTxq m p cls v) s
        = .next (becomes ((x.setDesc i { x.desc i with busy := true }).setClassQ cls (x.classQ cls ++ [i]))))
      ∧ ((x.desc i).busy = true ∨ 64 ≤ (x.classQ cls).length ∨ ¬legal → exec (.ethTxq m p cls v) s = .next (ignored 265 (0x80 + 4 * cls.toNat))))
    ∧ (∀ rest, x.classQ cls = i :: rest →
      (ready → guarded → opened → exec (.ethFrameStart p cls) s = .next (becomes { x.setClassQ cls rest with sending := some ⟨i, false, 0⟩ }))
      ∧ (¬ready ∨ ¬guarded ∨ shut → exec (.ethFrameStart p cls) s = .next s))
    ∧ (x.classQ cls = [] → exec (.ethFrameStart p cls) s = .next s)
    ∧ (∀ r rest, x.due = (i, r) :: rest →
      let late : Prop := c.tmode (0x100 + p.setWidth 16) = false ∧ r.toNat + ticksUp (lineG (c.ethMode p) x.spd) < t.toNat
      (yields → r ≤ t → ¬late → exec (.ethDealtFrame p t) s = .next (becomes { x.setDesc i { x.desc i with stamp := t } with
        due := rest, late := x.sending.or x.late, sending := some ⟨i, true, t⟩ }))
      ∧ (¬yields ∨ t < r ∨ late → exec (.ethDealtFrame p t) s = .next s))
    ∧ (x.due = [] → exec (.ethDealtFrame p t) s = .next s)
    ∧ (∀ f, x.sending = some f → ∃ out, (Runs (exec (.ethFrameEnd p t) s) fun u =>
        u.core.eth p = { x.setDesc f.idx { x.desc f.idx with busy := false, stamp := if f.dealt then (x.desc f.idx).stamp else t } with
          sent := out, sending := x.late, late := none, txdone := x.txdone || f.dealt })
      ∧ (let w := (x.desc f.idx).word
        let body := max 60 (len w)
        out.length = body + 4 ∧ (∀ n, n < len w → out[n]? = some (Tbl.get x.mem ((off w + n) % 65536) 0))
        ∧ out.drop body = bytesOf (crc32 (out.take body)) 4))
    ∧ (x.sending = none → exec (.ethFrameEnd p t) s = .next s)
    ∧ (cycles → new → x.cycle ≠ some (start base period) → Runs (exec (.qbvCycleStart p) s) fun u =>
      u.core.eth p = { x with
        cycle := some (start base period), cyc := true, cycLen := period, cycBase := base
        gates := (List.range ((c.ethReg p 0x40C 0).setWidth 9 : BitVec 9).toNat).map fun e => c.ethReg p (0x800 + 4 * e) 0 })
    ∧ (cycles → ¬new → old → x.cycle ≠ some (start x.cycBase x.cycLen) → Runs (exec (.qbvCycleStart p) s) fun u =>
      u.core.eth p = { x with cycle := some (start x.cycBase x.cycLen), cyc := true })
    ∧ (¬cycles ∨ (new ∧ x.cycle = some (start base period)) ∨ (¬new ∧ ¬old) ∨ (¬new ∧ x.cycle = some (start x.cycBase x.cycLen)) →
      exec (.qbvCycleStart p) s = .next s)
    ∧ (live → exec (.ethFrameReceive p bs false t) s = .next (becomes { x with fcserr := x.fcserr + 1 }))
    ∧ (live → typed → (∀ k, k < 16 → ¬takes k) → exec (.ethFrameReceive p bs true t) s = .next (becomes { x with unmatched := x.unmatched + 1 }))
    ∧ (live → typed → f < 16 → takes f → (∀ k, k < f → ¬takes k) →
      (¬room → exec (.ethFrameReceive p bs true t) s = .next (becomes { x with rxdrop := x.rxdrop + 1 }))
      ∧ (room → slot + ring.size ≤ 0x2000000000 → (∀ k, k < 36 → c.chanAvail k = .ok) → Runs (exec (.ethFrameReceive p bs true t) s) fun u =>
        (∀ n y, bs[n]? = some y → u.core.byte (slot + 32 + n) = y) ∧ u.core.word slot = BitVec.ofNat 32 bs.length
        ∧ u.core.word (slot + 4) = BitVec.ofNat 32 f ∧ u.core.word (slot + 8) = t.setWidth 32 ∧ u.core.word (slot + 12) = (t >>> 32).setWidth 32
        ∧ (∀ n, n < 16 → u.core.byte (slot + 16 + n) = 0)
        ∧ u.core.eth p = { x with
            tail := Tbl.set x.tail r (BitVec.ofNat 13 ((tail + 1) % size)) 0, arr := x.arr || (filter f).getLsbD 30 }
        ∧ SameBytesBut c u.core slot (32 + bs.length)))
    ∧ (¬live → exec (.ethFrameReceive p bs true t) s = .next s ∧ exec (.ethFrameReceive p bs false t) s = .next s)
    ∧ (Runs (exec (.ethLinkChange p up spd) s) fun u =>
      u.core.eth p = { x with link := up, spd := spd, lchg := true, pact := x.pact && up })
    ∧ exec (.preemptionVerification p) s = .next
        (if ctl.getLsbD 31 && ctl.getLsbD 25 && x.link then becomes { x with pact := true } else s)

/-- R270 to R276: on its group's master a camera's frame starts, its lines and its end are marked, and its data and header stand in its slot; a
full ring drops it, and CRC errors are counted on every connection; a trigger edge that is due is sent with its direction and delay; a
legal descriptor that its submitter's grants cover is queued, any other refused with its cause, and when the engine is done with it every byte
of a row stands at its destination. It rests on the model's choices of log entries 21, 34 too. -/
def Obligations.CamerasAndDma : Prop :=
  ∀ (s : State) (x : BitVec 4) (w h fmt : Word) (t : DWord) (data : List Byte) (cut : Bool) (crc : BitVec 16) (spd : BitVec 3) (up : Bool)
      (b : BunchId) (g : SprigId) (v : Word),
    let c := s.core
    let y := c.cxp x
    let now := c.time.dtime
    let runs : Prop := c.cxpUp x = true ∧ c.isMaster x = true
    let at_ := t &&& ~~~7#64
    let slots := c.cxpSlots x
    let size := c.cxpSlotSize x
    let slot := c.cxpBase x + y.rtail.toNat * size
    let after : Nat := if slots = 0 then 0 else (y.rtail.toNat + 1) % slots
    let body := data.take (size - 64)
    let becomes (z : Cxp) (o : Out) : Prop := Runs o fun u => u.core.cxp x = z ∧ u.core.mem = c.mem
    let dmaAt (off : BitVec 21) : Nat := scratchBase b + off.toNat + 28
    let written (u : State) (off : BitVec 21) (w : Word) : Prop := u.core.word (dmaAt off) = w
    let e := c.dma b
    (runs → after ≠ y.rhead.toNat → becomes { y with fstart := true, frame := some ⟨at_, w, h, fmt⟩ } (exec (.cxpFrameStart x w h fmt t) s))
    ∧ (runs → after = y.rhead.toNat → becomes { y with fstart := true, drop := y.drop + 1, frame := none } (exec (.cxpFrameStart x w h fmt t) s))
    ∧ (¬runs → exec (.cxpFrameStart x w h fmt t) s = .next s)
    ∧ (runs → (c.cxpCtl x).setWidth 16 ≠ (0 : BitVec 16) → becomes { y with line := true } (exec (.cxpLine x t) s))
    ∧ (¬runs ∨ (c.cxpCtl x).setWidth 16 = (0 : BitVec 16) → exec (.cxpLine x t) s = .next s)
    ∧ (∀ f, y.frame = some f → runs → slot + 64 + body.length ≤ 0x2000000000 → (∀ k, k < 36 → c.chanAvail k = .ok) →
      Runs (exec (.cxpFrameEnd x data cut crc t) s) fun u =>
        (∀ n z, body[n]? = some z → u.core.byte (slot + 64 + n) = z) ∧ u.core.word slot = y.seq
        ∧ u.core.word (slot + 4) = (if cut then 1 else 0) ||| (if crc = 0 then 0 else 2) ||| (if body.length < data.length then 4 else 0)
        ∧ u.core.word (slot + 8) = f.start.setWidth 32 ∧ u.core.word (slot + 12) = (f.start >>> 32).setWidth 32
        ∧ u.core.word (slot + 16) = at_.setWidth 32 ∧ u.core.word (slot + 20) = (at_ >>> 32).setWidth 32
        ∧ u.core.word (slot + 24) = f.width ∧ u.core.word (slot + 28) = f.height ∧ u.core.word (slot + 32) = f.fmt
        ∧ u.core.word (slot + 36) = BitVec.ofNat 32 body.length ∧ (∀ n, n < 24 → u.core.byte (slot + 40 + n) = 0)
        ∧ u.core.cxp x = { y with
            fend := true, frame := none, seq := y.seq + 1, errCnt := y.errCnt + crc, rtail := BitVec.ofNat 8 after }
        ∧ SameBytesBut c u.core slot (64 + body.length))
    ∧ (c.cxpUp x = true → c.isMaster x = false ∨ y.frame = none → exec (.cxpFrameEnd x data cut crc t) s
      = .next (s.on (c.setCxp x { y with errCnt := y.errCnt + crc })))
    ∧ (c.cxpUp x = false → exec (.cxpFrameEnd x data cut crc t) s = .next s)
    ∧ (∀ r rises rest, y.trig = (r, rises) :: rest → r ≤ now →
      becomes { y with trig := rest, trigsent := true, packet := some ⟨rises, r, now - r⟩ } (exec (.cxpTriggerPacket x) s))
    ∧ ((∀ r rises rest, y.trig = (r, rises) :: rest → now < r) → exec (.cxpTriggerPacket x) s = .next s)
    ∧ exec (.cxpLinkChange x up spd) s = .next (s.on (c.setCxp x { y with link := up, spd := spd }))
    ∧ (let off : BitVec 21 := (v &&& 0x001FFFE0#32).setWidth 21
      let d := cardFromBytes c (scratchBase b + off.toNat)
      let marked : Prop := ∃ k, k < 4 ∧ c.mark (scratchBase b + off.toNat + 8 * k) ≠ .ok
      let ends (word : Word) (e : Dma) : Prop := Runs (exec (.dmaSubmit (.sprig g) b v) s) fun u =>
        written u off word ∧ u.core.dma b = e ∧ SameBytesBut c u.core (dmaAt off) 4
      let allowed : Prop := bunchOf g = b ∨ isSteward g = true
      let granted : Prop := ∃ p q, dmaPlaces b d = some (p, q) ∧ c.dmaPermitted g d p q = true;
      (allowed → c.asleep b = false → c.leases = [] → ¬marked →
        (64 ≤ e.queue.length → ends 0x31000000#32 e)
        ∧ (e.queue.length < 64 → dmaPlaces b d = none → ends 0x32000000#32 e)
        ∧ (e.queue.length < 64 → (∃ p q, dmaPlaces b d = some (p, q) ∧ c.dmaPermitted g d p q = false) → ends 0x33000000#32 e)
        ∧ (e.queue.length < 64 → granted → ends 0x10000000#32 { e with queue := e.queue ++ [⟨off, d, .sprig g⟩] }))
      ∧ (¬allowed → (c.sprig g).state = .run → Runs (exec (.dmaSubmit (.sprig g) b v) s) fun u =>
        (u.core.sprig g).state = .frozen ∧ (u.core.sprig g).cause = 1 ∧ u.core.dmas = c.dmas ∧ u.core.mem = c.mem)
      ∧ ∀ f, exec (.dmaSubmit (.host f) b v) s = .next s)
    ∧ (∀ j rest, e.queue = j :: rest →
      let d := j.words
      let runs : Prop := Tbl.get c.err.dfrz b.toNat 0 = 0 ∧ c.quiet (.bunch b) = false
      let width := dmaWidth d
      let memory : Prop := c.leases = [] ∧ c.asleep b = false ∧ ∀ k, k < 36 → c.chanAvail k = .ok
      let done (P : State → Prop) : Prop := Runs (exec (.dmaDescriptorDone b) s) fun u =>
        u.core.dma b = { e with queue := rest, lvl := e.lvl || d.w0.getLsbD 27, done := e.done + 1 } ∧ written u j.off 0x20000000#32 ∧ P u
      (runs → c.jobGranted b j = true → memory → dmaHeight d = 1 → j.off.toNat % 32 = 0 →
        (dmaFill d = true → dmaDst d + width ≤ 0x2000000000 → done fun u =>
          ∀ n, n < width → u.core.byte (dmaDst d + n) = (d.w1 >>> (8 * (n % 4))).setWidth 8)
        ∧ (dmaFill d = false → dmaSrc d + width ≤ 0x2000000000 → scratchBase b ≤ dmaDst d → dmaDst d + width ≤ scratchBase b + 0x200000 →
          (dmaDst d + width ≤ dmaAt j.off ∨ dmaAt j.off + 4 ≤ dmaDst d) → (∀ n, n < width → c.memMark (dmaSrc d + n) = .ok) → done fun u =>
            ∀ n, n < width → u.core.byte (dmaDst d + n) = c.byte (dmaSrc d + n)))
      ∧ (runs → c.jobGranted b j = false → Runs (exec (.dmaDescriptorDone b) s) fun u =>
        Tbl.get u.core.err.dfrz b.toNat 0 = 6 ∧ u.core.dma b = e ∧ u.core.mem = c.mem)
      ∧ (runs → c.jobGranted b j = true → c.dmaWaits d = true → exec (.dmaDescriptorDone b) s = .next s)
      ∧ (¬runs → exec (.dmaDescriptorDone b) s = .next s))
    ∧ (e.queue = [] → exec (.dmaDescriptorDone b) s = .next s)

/-- R301 to R311: a GDDR6 access reads or writes its bytes, each word with its mark: a single error is corrected and counted, a double one
poisons the word, and a channel that is gone answers poisoned or as a Completer Abort; a corrected word is rewritten; the scrubber moves on by
one ECC word; a temperature sets its level; a channel that trains is READY with its memory cleared, one that fails three times has FAILED
with an entry; the error counts clear when they are read; self-refresh ends. It rests on the model's choices of log entry 13 too. -/
def Obligations.MemoryChannels : Prop :=
  ∀ (s : State) (r : MemReq) (a : Addr) (k : Nat) (m : Master) (temp : Byte) (i : Nat),
    let c := s.core
    let x := c.gdc k
    let n := r.addr.toNat
    let len : Nat := match r.data with | some bs => bs.length | none => r.len.toNat
    let comes : Prop := 0 < len ∧ n + len ≤ 0x2000000000 ∧ c.bar4Reaches r.who n len = true
    let served : Prop := comes ∧ c.frozenMaster r.who = false ∧ c.rangeAvail n len = .ok
    let reads (o : Out) (data : List Byte) (marks : List Bool) (P : State → Prop) : Prop := Runs o fun t =>
      Tbl.get t.core.rdata (masterKey r.who) {} = { value := wordOf (data.take 4), poisoned := marks.any id, data := data, marks := marks }
      ∧ t.core.mem = c.mem ∧ P t
    let word := n / 32 * 32
    let one : Prop := n / 32 = (n + len - 1) / 32
    let ch := (memPlace n).dat
    let memLog (t : State) (cls : BitVec 4) (code : BitVec 16) (ch at_ : Nat) : Prop := c.err.takes cls = true → t.core.lastLog
      = some { cls := cls, source := 0x0A, code := code, unit := BitVec.ofNat 32 ch, detail := BitVec.ofNat 16 ch, addr := BitVec.ofNat 40 at_ }
    let abandoned : Core := c.log
      { cls := 1, source := masterSource r.who, code := 0x000E, unit := masterNum r.who, detail := masterKind r.who, addr := BitVec.ofNat 40 n }
    let th (l : Nat) : Int := (((c.gdcTherm k) >>> (8 * (l - 1))).setWidth 8 : Byte).toInt
    let cur := x.level.toNat
    let level : Prop := i ≤ 4 ∧ (i = 0 ∨ th i ≤ temp.toInt ∨ (i ≤ cur ∧ th i - 3 < temp.toInt))
      ∧ ∀ j, i < j → j ≤ 4 → temp.toInt < th j ∧ (j ≤ cur → temp.toInt ≤ th j - 3)
    let slot := 32 * x.scrubPos.toNat
    let runs : Prop := k < 36 ∧ (c.gdcScrub k).getLsbD 31 = true ∧ c.chanAvail k = .ok ∧ cur < 3
    let scrubbed : Core := c.setGdc k { x with scrubPos := x.scrubPos + 1 }
    (r.data = none → served → (∀ j, j < len → c.memMark (n + j) = .ok ∨ c.memMark (n + j) = .poisoned) →
      reads (exec (.gddrAccess r .ok) s) (c.bytes n len) ((List.range len).map fun j => decide (c.memMark (n + j) = .poisoned)) fun t => t.core.gdcs = c.gdcs)
    ∧ (r.data = none → served → one → c.memMark n = .ok → reads (exec (.gddrAccess r .single) s) (c.bytes n len) (List.replicate len false) fun t =>
      t.core.memMark n = .single ∧ (t.core.gdc ch).ce = satInc16 (c.gdc ch).ce ∧ memLog t 0 0x0004 ch word)
    ∧ (r.data = none → served → one → c.memMark n = .ok → reads (exec (.gddrAccess r .double) s) (c.bytes n len) (List.replicate len true) fun t =>
      t.core.memMark n = .poisoned ∧ (t.core.gdc ch).ue = satInc16 (c.gdc ch).ue ∧ (t.core.gdc ch).errAddr = BitVec.ofNat 64 word
      ∧ memLog t 1 0x0005 ch word)
    ∧ (∀ bs, r.data = some bs → served → c.loaderLate r.who n = false → Runs (exec (.gddrAccess r .ok) s) fun t =>
      (∀ j b, bs[j]? = some b → t.core.byte (n + j) = b) ∧ SameBytesBut c t.core n bs.length
      ∧ (r.poisoned = true → ∀ j, j < len → t.core.memMark (n + j) = .poisoned)
      ∧ (r.poisoned = false → ∀ j, j < len → c.memMark (n + j) = .ok → t.core.memMark (n + j) = .ok))
    ∧ (comes → c.frozenMaster r.who = false → c.rangeAvail n len = .stalls → exec (.gddrAccess r .ok) s = .next s)
    ∧ (comes → c.frozenMaster r.who = false → c.rangeAvail n len = .gone →
      (r.data ≠ none → exec (.gddrAccess r .ok) s = .next (s.on abandoned))
      ∧ (∀ f, r.data = none → r.who = .host f → exec (.gddrAccess r .ok) s = .next (s.on (c.answer r.who 0 false true)))
      ∧ (∀ g, r.data = none → r.who = .sprig g → exec (.gddrAccess r .ok) s = .next (s.on (abandoned.answer r.who 0 true false)))
      ∧ (∀ d, r.data = none → r.who = .peer d → exec (.gddrAccess r .ok) s = .next (s.on (c.answer r.who 0 true false))))
    ∧ (0 < len → n + len ≤ 0x2000000000 → c.bar4Reaches r.who n len = false → exec (.gddrAccess r .ok) s = .next s)
    ∧ (isMem a.toNat = true → exec (.correctedRewrite a) s
      = .next (if c.memMark a.toNat = .single ∧ c.memAvail a.toNat = .ok then s.on (c.setMemMark a.toNat .ok) else s))
    ∧ (∀ d, runs → memAddr k slot = some d →
      (c.memMark d = .ok ∨ c.memMark d = .poisoned → exec (.scrub k .ok) s = .next (s.on scrubbed))
      ∧ (c.memMark d = .ok → Runs (exec (.scrub k .single) s) fun t =>
        t.core.memMark d = .single ∧ (t.core.gdc k).scrubPos = x.scrubPos + 1 ∧ t.core.mem = c.mem)
      ∧ (c.memMark d = .ok → Runs (exec (.scrub k .double) s) fun t =>
        t.core.memMark d = .poisoned ∧ (t.core.gdc k).scrubPos = x.scrubPos + 1 ∧ t.core.mem = c.mem))
    ∧ (runs → memAddr k slot = none →
      (c.mark (checkKey k slot) = .ok → exec (.scrub k .ok) s = .next (s.on scrubbed))
      ∧ (c.mark (checkKey k slot) = .ok → Runs (exec (.scrub k .single) s) fun t =>
        t.core.mark (checkKey k slot) = .ok ∧ t.core.gdc k = { x with scrubPos := x.scrubPos + 1, ce := satInc16 x.ce } ∧ memLog t 0 0x0004 k 0)
      ∧ (c.mark (checkKey k slot) = .ok → Runs (exec (.scrub k .double) s) fun t =>
        t.core.mark (checkKey k slot) = .poisoned ∧ (t.core.gdc k).ue = satInc16 x.ue ∧ memLog t 1 0x0005 k 0))
    ∧ (k < 36 → ¬runs → exec (.scrub k .ok) s = .next s)
    ∧ (k < 36 → level → i = cur → exec (.memThermal k temp) s = .next (s.on (c.setGdc k { x with temp := temp, level := BitVec.ofNat 3 i })))
    ∧ (k < 36 → level → i ≠ cur → exec (.memThermal k temp) s = .next (s.on ((c.setGdc k { x with temp := temp, level := BitVec.ofNat 3 i }).log
        { cls := if i = 4 then 1 else 0, source := 0x0A, code := 0x0011, unit := BitVec.ofNat 32 k, detail := BitVec.ofNat 16 i, addr := 0 })))
    ∧ (k < 36 → x.st = .init → x.zero = true → Runs (exec (.channelTraining k true) s) fun t =>
      t.core.gdc k = { x with st := .ready, zero := false } ∧ (∀ b, isMem b = true → (memPlace b).dat = k → t.core.byte b = 0)
      ∧ ∀ b, (isMem b = false ∨ (memPlace b).dat ≠ k) → t.core.byte b = c.byte b)
    ∧ (k < 36 → x.st = .init → x.zero = false → exec (.channelTraining k true) s = .next (s.on (c.setGdc k { x with st := .ready, zero := false })))
    ∧ (k < 36 → x.st = .init → exec (.channelTraining k false) s = .next (s.on ((c.setGdc k { x with st := .failed }).log
        { cls := 1, source := 0x0A, code := 0x0016, unit := BitVec.ofNat 32 k, detail := BitVec.ofNat 16 k, addr := 0 })))
    ∧ (k < 36 → x.st ≠ .init → ∀ ok, exec (.channelTraining k ok) s = .next s)
    ∧ (k < 36 → c.frozenMaster m = false → c.seesAll m = true →
      exec (.gdcEccRead m k) s = .next (s.on ((c.setGdc k { x with ce := 0, ue := 0 }).answer m (x.ce ++ x.ue) false false)))
    ∧ (k < 36 → exec (.selfrefExit k) s = .next (if x.st = .selfref then s.on (c.setGdc k { x with st := .ready }) else s))


/-! ### The Sorrel island -/

/-- R3, R4, R320 to R326, R332, R336: a GO takes the request across, the island serves it with its result and bytes and no other change than the
request's own, and its completion writes RESULT, DONE and RLEN. A request of another length or with an argument out of range is BAD_REQ, one
that the firmware does not permit, the seal forbids or the signature does not cover is refused, and in FW_REFUSED two are served. What ZERO and TARE
take is the load that the firmware measures (log entry 83). It rests on the model's choices of log entries 41, 42 too. -/
def Obligations.IslandRequests : Prop :=
  ∀ (s : State) (req : List Byte) (g : SprigId) (v : Word) (permitted : Bool) (load : Word) (i : Instr) (n : Nat),
    let x := s.isl
    let met := s.core.met
    let a0 := pword req 1
    let a1 := pword req 2
    let a2 := pword req 3
    let crossed : Prop := met.request = some req ∧ 16 ≤ req.length
    let serves (n : Nat) : Prop := crossed ∧ x.reply = none ∧ x.inReset = false ∧ reqNum req = n ∧ (n = 1 ∨ n = 7 ∨ x.prog ≠ .refused)
    let plain (n : Nat) : Prop := serves n ∧ req.length = 16
    let answers (y : Island) (r : Byte) (bs : List Byte) : State := { s with isl := { y with reply := some (r, bs) } }
    let ended (r : Byte) (bs : List Byte) : State := { s with
      core := { s.core with met := { met with
        busy := false, done := true, result := r, rlen := BitVec.ofNat 13 bs.length, request := none, rsp := if bs.isEmpty then met.rsp else bs } }
      isl := { x with reply := none } }
    let dip : Byte := s.core.aon.dipCount.setWidth 8
    let latest (q : Word) (h : BitVec 256) : Prop :=
      (x.restart = true ∧ (∃ k b, x.committed = some (q, k, b)) ∧ h = x.chain)
      ∨ (x.restart = false ∧ (x.retained ≠ [] ∨ x.committed ≠ none) ∧ q = x.seq - 1 ∧ h = x.chain)
    let unsigned : Prop := x.committed = none ∧ (x.restart = true ∨ x.retained = [])
    let made (j : Nat) : Prop := (a0 + BitVec.ofNat 32 j - x.seq).toInt < 0
    let kept (j : Nat) : Option (Word × List Byte) := x.retained.find? fun e => e.1 == a0 + BitVec.ofNat 32 j
    let key (k : Nat) : List Byte := (req.drop (16 + 8 * k)).take 1312
    let signed (k : Nat) : Prop := (x.paramKeys[a2.toNat]?) = some (Config.sha3 (key k))
      ∧ Config.mldsaVerify (key k) (bytesOf (Config.sha3 (req.take (16 + 8 * k))) 32) (req.drop (16 + 8 * k + 1312)) = true ∧ a0 = x.evCnt
    let id (j : Nat) : BitVec 16 := (pword req (4 + 2 * j)).setWidth 16
    let val (j : Nat) : Word := pword req (5 + 2 * j)
    let k := a1.toNat
    let formed : Prop := serves 9 ∧ 1 ≤ k ∧ k ≤ 32 ∧ req.length = 16 + 8 * k + 3732
    let valid : Prop := ∀ j, j < k → Config.paramOk x.digest (id j) (val j) = true
    let es := (x.trail.filter fun e => decide (a0.toNat ≤ e.counter.toNat)).take k
    (isSteward g = true → x.enabled = true → v.getLsbD 31 = true →
      (s.metBusy = false → exec (.metRqctlGo (.sprig g) v) s = .next { s with
        core := { s.core with met := { met with
          busy := true, done := false, request := some ((List.range (v.setWidth 13 : BitVec 13).toNat).map fun k => Tbl.get met.reqBuf k 0) } }
        isl := { x with reply := none } })
      ∧ (s.metBusy = true → exec (.metRqctlGo (.sprig g) v) s = .next (s.on (s.core.log
        { cls := 0, source := 0x30, code := 0x0007, unit := g.setWidth 32, detail := 323, addr := BitVec.ofNat 40 (regAt 0x13 0x200) }))))
    ∧ (isSteward g = true → x.enabled = false ∨ v.getLsbD 31 = false → exec (.metRqctlGo (.sprig g) v) s = .next s)
    ∧ (isSteward g = false → (s.core.sprig g).state = .run → Runs (exec (.metRqctlGo (.sprig g) v) s) fun t =>
      (t.core.sprig g).state = .frozen ∧ (t.core.sprig g).cause = 1 ∧ t.core.met = met ∧ t.isl = x)
    ∧ (∀ r bs, crossed → x.inReset = false → x.reply = some (r, bs) → bs.length ≤ 4096 → s.core.cmds = [] →
      exec .metRequestDone s = .next (ended r bs))
    ∧ (met.request = some req → x.inReset = false → x.reply = none → reqNum req = 0 ∨ 10 < reqNum req ∨ req.length < 16 → s.core.cmds = [] →
      exec .metRequestDone s = .next (ended 1 []))
    ∧ (crossed → x.reply = none → 1 ≤ reqNum req → reqNum req ≤ 10 → exec .metRequestDone s = .next s)
    ∧ (∀ q c r bs, crossed → x.inReset = false → x.reply = some (r, bs) → bs.length ≤ 4096 → s.core.cmds = [(srcKey q, [c])] → c.begun = true →
      c.opcode.toNat / 256 = 8 → 1 ≤ r.toNat → r.toNat ≤ 8 → exec .metRequestDone s = .next { ended r bs with
        core := (ended r bs).core.answerCmd q
          ⟨([0x0101, 0x0301, 0x0300, 0x0200, 0x0300, 0x0200, 0x0200, 0x0501][r.toNat - 1]?).getD 0, [r.setWidth 32]⟩ })
    ∧ (x.inReset = true → exec .metRequestDone s = .next s)
    ∧ (∀ q c rest, s.core.cmds = [(srcKey q, c :: rest)] → c.begun = true → c.opcode.toNat / 256 = 8 →
      exec .metDoneTimeout s = .next (s.on (s.core.answerCmd q ⟨0x0501, [0xFF]⟩)))
    ∧ (s.core.cmds = [] → exec .metDoneTimeout s = .next s)
    ∧ (∀ q c, x.enabled = false → met.request = none → s.core.boot.steward = true → s.core.sorrelHead = some (q, c) →
      exec .metIdentify s = .next (s.on (s.core.answerCmd q ⟨0x0300, [1]⟩)))
    ∧ (crossed → (n, i) ∈ [(1, Instr.metIdentify), (2, .readResults), (3, .metStart), (4, .metStop), (5, .zero permitted load),
        (6, .tare permitted load), (7, .readAudit), (8, .ackAudit), (9, .setParam), (10, .sign)] →
      (x.inReset = true ∨ x.reply ≠ none ∨ reqNum req ≠ n → exec i s = .next s)
      ∧ (x.inReset = false → x.reply = none → reqNum req = n → x.prog = .refused → n ≠ 1 → n ≠ 7 → exec i s = .next (answers x 6 []))
      ∧ (serves n → n ≠ 9 → req.length ≠ (if n = 8 then 3748 else 16) → exec i s = .next (answers x 1 [])))
    ∧ (plain 1 → exec .metIdentify s = .next (answers x 0 ((x.name ++ List.replicate 32 0).take 32 ++ bytesOf x.version 4 ++ bytesOf x.digest 32
        ++ (Config.islandKey ++ List.replicate 1312 0).take 1312 ++ Config.islandCert)))
    ∧ (plain 2 → (k = 0 ∨ 63 < k → exec .readResults s = .next (answers x 1 []))
      ∧ (1 ≤ k → k ≤ 63 → ∀ (n : Nat) (img : Nat → List Byte), n ≤ k → n = k ∨ ¬made n →
        (∀ j, j < n → made j ∧ kept j = some (a0 + BitVec.ofNat 32 j, img j)) →
        exec .readResults s = .next (answers x 0 ((List.range n).flatMap img)))
      ∧ (1 ≤ k → k ≤ 63 → ∀ n, n < k → (∀ j, j ≤ n → made j) → kept n = none → exec .readResults s = .next (answers x 7 [])))
    ∧ (plain 3 → (255 < a0.toNat → exec .metStart s = .next (answers x 1 []))
      ∧ (a0.toNat ≤ 255 → x.prog = .running → exec .metStart s = .next (answers x 6 []))
      ∧ (a0.toNat ≤ 255 → x.prog ≠ .running → ∃ at_, exec .metStart s
          = .next (answers { x with prog := .running, progNum := a0.setWidth 8, dipAt := at_ } 0 []) ∧ ∀ c, c < 8 → Tbl.get at_ c 0 = dip))
    ∧ (plain 4 → (x.prog ≠ .running → x.prog ≠ .outFull → exec .metStop s = .next (answers x 6 []))
      ∧ (x.prog = .running ∨ x.prog = .outFull → unsigned → exec .metStop s = .next (answers { x with prog := .idle } 0 []))
      ∧ (∀ q h, x.prog = .running ∨ x.prog = .outFull → latest q h → exec .metStop s
          = .next (answers { x with prog := .idle, committed := some (q, h, true), due := x.due ++ [(2, q, h)] } 0 [])))
    ∧ (plain 5 → (7 < a0.toNat → exec (.zero permitted load) s = .next (answers x 1 []))
      ∧ (a0.toNat ≤ 7 → exec (.zero permitted load) s
          = .next (if permitted then answers { x with zeros := Tbl.set x.zeros a0.toNat load 0 } 0 [] else answers x 5 [])))
    ∧ (plain 6 → (7 < a0.toNat ∨ 1 < a1.toNat → exec (.tare permitted load) s = .next (answers x 1 []))
      ∧ (a0.toNat ≤ 7 → a1.toNat ≤ 1 → exec (.tare permitted load) s = .next (if permitted then
          answers { x with tares := Tbl.set x.tares a0.toNat (some (if a1 = 0 then load else a2)) none } 0 [] else answers x 5 [])))
    ∧ (plain 7 → (k = 0 ∨ 127 < k → exec .readAudit s = .next (answers x 1 []))
      ∧ (1 ≤ k → k ≤ 127 → exec .readAudit s = .next (answers
        { x with trail := x.trail.map fun e => if e ∈ es then { e with seen := true } else e } 0
        (es.flatMap fun e => bytesOf e.counter 4 ++ bytesOf e.dtime 8 ++ bytesOf e.kind 2 ++ bytesOf e.param 2 ++ bytesOf e.old 4
          ++ bytesOf e.new 4 ++ [e.key, 0, 0, 0] ++ bytesOf e.digest 4))))
    ∧ (serves 8 → req.length = 3748 →
      (x.sealed = true → exec .ackAudit s = .next (answers x 2 []))
      ∧ (x.sealed = false → ¬signed 0 → exec .ackAudit s = .next (answers x 3 []))
      ∧ (x.sealed = false → signed 0 → exec .ackAudit s
          = .next (answers { x with trail := x.trail.filter fun e => !(e.seen && decide (e.counter.toNat ≤ k)) } 0 [])))
    ∧ (serves 9 → ¬formed → exec .setParam s = .next (answers x 1 []))
    ∧ (formed →
      (x.sealed = true → exec .setParam s = .next (answers x 2 []))
      ∧ (x.sealed = false → ¬signed k → exec .setParam s = .next (answers x 3 []))
      ∧ (x.sealed = false → signed k → ¬valid → exec .setParam s = .next (answers x 1 []))
      ∧ (x.sealed = false → signed k → valid → 16384 < x.trail.length + k → exec .setParam s = .next (answers x 4 []))
      ∧ (x.sealed = false → signed k → valid → x.trail.length + k ≤ 16384 → Runs (exec .setParam s) fun t =>
        t.isl.reply = some (0, []) ∧ t.isl.evCnt = x.evCnt + BitVec.ofNat 32 k ∧ t.core = s.core ∧ t.isl.trail.length = x.trail.length + k
        ∧ t.isl.trail.take x.trail.length = x.trail
        ∧ (∀ j, j < k → ∃ e, t.isl.trail[x.trail.length + j]? = some e ∧ e.counter = x.evCnt + BitVec.ofNat 32 (j + 1) ∧ e.kind = 1
          ∧ e.param = id j ∧ e.new = val j ∧ e.key = a2.setWidth 8 ∧ e.digest = (Config.sha3 req).setWidth 32 ∧ e.seen = false
          ∧ e.dtime = if s.core.time.running then s.core.time.dtime else BitVec.allOnes 64)
        ∧ ∀ j, j < k → (∀ j', j < j' → j' < k → id j' ≠ id j) → t.isl.param (id j) = val j))
    ∧ (plain 10 → (unsigned → exec .sign s = .next (answers x 6 []))
      ∧ ∀ q h, latest q h → exec .sign s = .next (answers { x with due := x.due ++ [(1, q, h)] } 0 []))

/-- R315 to R319, R324, R327 to R336: a record is made of its two cards, chained, retained and put on the result path; a signature commits the chain
state; a reset of the island clears what its RAM holds and keeps flash and OTP; a start verifies the image and restores the committed chain; the
seal counts its openings and ends debug; the heartbeat shows the island alive. It rests on the model's choices of log entry 42 too. -/
def Obligations.IslandRuns : Prop :=
  ∀ (s : State) (r : Measured) (reason : BitVec 2) (img : IslandImage) (b : Bool),
    let x := s.isl
    let c := s.core
    let met := c.met
    let valid := r.dtValid && c.time.running
    let t : DWord := if valid then c.time.dtime else BitVec.allOnes 64
    let dip := r.dipSeen || c.aon.inDip || decide (c.aon.dipCount.setWidth 8 ≠ Tbl.get x.dipAt r.channel.toNat 0)
    let status : Byte := BitVec.ofBool dip ++ BitVec.ofBool x.restart ++ BitVec.ofBool (r.dtNotFine || decide (c.time.qual ≠ 1) || !valid)
      ++ BitVec.ofBool r.underRange ++ BitVec.ofBool r.overRange ++ BitVec.ofBool (Tbl.get x.tares r.channel.toNat none).isSome
      ++ BitVec.ofBool r.zeroCentre ++ BitVec.ofBool r.stable
    let link (k : Nat) : Word := (x.chain >>> (32 * k)).setWidth 32
    let cardA : CardWords :=
      { w0 := 0x04100001#32, w1 := x.seq, w2 := t.setWidth 32, w3 := (t >>> 32).setWidth 32, w4 := x.mtime.setWidth 32
        w5 := ((x.mtime >>> 32).setWidth 16 : BitVec 16) ++ status ++ r.unit ++ r.channel, w6 := r.value, w7 := link 0 }
    let cardB : CardWords :=
      { w0 := 0x04100002#32, w1 := link 1, w2 := link 2, w3 := link 3, w4 := link 4, w5 := link 5, w6 := link 6, w7 := link 7 }
    let image := cardBytes cardA ++ cardBytes cardB
    let h := Config.sha3 image
    let sampled : Island := { x with ins := r.inputs, outs := r.outs, adc := Tbl.set x.adc r.channel.toNat r.sample 0 }
    let runs : Prop := x.inReset = false ∧ x.prog = .running
    let full : Prop := 1024 ≤ x.retained.length ∧ ∃ e, x.retained.head? = some e ∧ e.1 ∈ met.waiting
    let now : DWord := if c.time.running then c.time.dtime else BitVec.allOnes 64
    let d := Config.sha3 img.bytes
    let good : Prop := Config.sha3 img.key = x.keyHash ∧ Config.mldsaVerify img.key (bytesOf d 32) img.signature = true ∧ x.rollback ≤ img.rbi
    let room : Prop := x.sealed = false ∧ x.trail.length < 16384
    let starts : Prop := x.enabled = true ∧ x.inReset = true ∧ c.aon.power ≠ .off
    let fresh : Nat := if x.flashDigest = some d then 0 else 1
    (runs → ¬full → Runs (exec (.islandRecord r) s) fun u =>
      u.isl = { sampled with
        seq := x.seq + 1, chain := h, restart := false, dipAt := Tbl.set x.dipAt r.channel.toNat (c.aon.dipCount.setWidth 8) 0
        retained := (x.retained ++ [(x.seq, image)]).drop (x.retained.length + 1 - 1024)
        due := if x.seq.toNat % 1024 = 1023 then x.due ++ [(0, x.seq, h)] else x.due }
      ∧ u.core.mem = c.mem ∧ u.core.met.waiting = met.waiting ++ [x.seq]
      ∧ (metBound c.metCfg = false → u.core = { c with met := { met with
          outq := met.outq ++ [{ w := cardA, first := true }, { w := cardB, rec? := some x.seq }], waiting := met.waiting ++ [x.seq] } }))
    ∧ (runs → full → exec (.islandRecord r) s = .next { s with isl := { sampled with prog := .outFull } })
    ∧ (¬runs → exec (.islandRecord r) s = .next s)
    ∧ (∀ q k rest, x.inReset = false → x.due = (reason, q, k) :: rest → Runs (exec (.islandSignature reason) s) fun u =>
      u.isl = { x with due := rest, committed := some (q, k, decide (reason = 2)) } ∧ u.core.mem = c.mem
      ∧ (metBound c.metCfg = false → ∃ cards, u.core = { c with met := { met with outq := met.outq ++ cards } } ∧ cards.length = 88
        ∧ cards.head? = some { w := { w0 := 0x04100020#32, w1 := q, w2 := reason.setWidth 32, w3 := now.setWidth 32, w4 := (now >>> 32).setWidth 32,
                                      w5 := x.evCnt, w6 := 87, w7 := 0 } }
        ∧ ∀ j, 1 ≤ j → j < 88 → ∃ y, cards[j]? = some y ∧ y.w.w0 = 0x04100021#32))
    ∧ ((x.inReset = true ∨ ∀ q k rest, x.due ≠ (reason, q, k) :: rest) → exec (.islandSignature reason) s = .next s)
    ∧ (x.enabled = true → Runs (exec (.islandReset b) s) fun u =>
      u.isl.inReset = true ∧ u.isl.prog = .idle ∧ u.isl.seq = 0 ∧ u.isl.retained = [] ∧ u.isl.mtime = 0 ∧ u.isl.ram = [] ∧ u.isl.sprigs = []
      ∧ u.isl.zeros = [] ∧ u.isl.tares = [] ∧ u.isl.dbg = false ∧ u.isl.reply = none ∧ u.isl.due = [] ∧ u.isl.sealed = x.sealed
      ∧ u.isl.evCnt = x.evCnt ∧ u.isl.trail = x.trail ∧ u.isl.committed = x.committed ∧ u.isl.params = x.params
      ∧ u.isl.flashDigest = x.flashDigest ∧ u.isl.keyHash = x.keyHash ∧ u.isl.paramKeys = x.paramKeys ∧ u.isl.rollback = x.rollback
      ∧ u.core = { c with met := { met with request := none, outq := [], sent := [], waiting := [] } })
    ∧ (x.enabled = false → exec (.islandReset b) s = .next s)
    ∧ (starts → met.busy = false → ¬good ∨ (fresh = 1 ∧ ¬room) →
      exec (.islandStart img) s = .next { s with isl := { x with inReset := false, prog := .refused } })
    ∧ (starts → good → fresh = 0 ∨ room → Runs (exec (.islandStart img) s) fun u =>
      let y := u.isl
      y.inReset = false ∧ y.prog = .idle ∧ y.name = img.name ∧ y.version = img.version ∧ y.digest = d ∧ y.flashDigest = some d
      ∧ (Tbl.get y.sprigs 0 Sprig.reset).state = .run ∧ y.trail.take x.trail.length = x.trail
      ∧ (x.committed = none → y.seq = 0 ∧ y.chain = Config.sha3 Config.islandKey ∧ y.restart = false)
      ∧ (∀ q k, x.committed = some (q, k, true) → y.seq = q + 1 ∧ y.chain = k ∧ y.restart = false)
      ∧ (∀ q k, x.committed = some (q, k, false) → y.seq = q + 1025 ∧ y.chain = k ∧ y.restart = true)
      ∧ (img.debug = false ∨ x.sealed = true ∨ 16384 ≤ x.trail.length + fresh →
        y.dbg = x.dbg ∧ y.evCnt = x.evCnt + BitVec.ofNat 32 fresh ∧ y.trail.length = x.trail.length + fresh)
      ∧ (img.debug = true → x.sealed = false → x.trail.length + fresh < 16384 →
        y.dbg = true ∧ y.evCnt = x.evCnt + BitVec.ofNat 32 (fresh + 1) ∧ y.trail.length = x.trail.length + fresh + 1)
      ∧ (met.busy = false → u.core = c) ∧ (met.busy = true → c.cmds = [] → u.core = { c with met := { met with
          busy := false, done := true, result := 8, rlen := 0, request := none } }))
    ∧ (¬starts → exec (.islandStart img) s = .next s)
    ∧ (x.enabled = true → exec (.sealTransition b) s = .next { s with isl := { x with
        sealed := b, dbg := x.dbg && !b, sealCnt := if x.sealed && !b && !x.inReset then x.sealCnt + 1 else x.sealCnt } })
    ∧ (x.enabled = false → exec (.sealTransition b) s = .next s)
    ∧ exec .islandHeartbeat s = .next { s with isl := { x with alive := x.alive || (x.enabled && !x.inReset) } }
    ∧ exec .islandHeartbeatTimeout s = .next { s with isl := { x with alive := false } }


/-! ### Commands to the Steward -/

/-- R341 to R350, R384, R499: a packet read at IHEAD is queued, one that is poisoned or has an unknown opcode is answered at once; a sprig's cards A
and B make a command, and cards that do not are discarded with an entry; a reply leaves for its queue on a credit, behind those of commands
accepted earlier; a command that fails a check is answered with its status and does nothing else (the order of the checks is the model's,
log entry 22); IDENTIFY, STATUS and QUEUE_STATUS report; QUEUE_RESET resets; a pair is created and deleted, and the admin pair enabled and
disabled. It rests on the model's choices of log entries 36, 37 too. -/
def Obligations.CommandPath : Prop :=
  ∀ (s : State) (h : BitVec 7) (pkt : List Word) (poisoned : Bool) (inb : Option (List Byte)) (q : CmdSrc) (x : Cmd) (bs : List Byte) (i : QueueId)
      (g : SprigId) (n : BitVec 4) (card : Card) (rest : List Card) (v : Word),
    let c := s.core
    let k : BitVec 8 := h.setWidth 8
    let y : Cmd := { words := pkt, poisoned := poisoned, inBuf := inb, order := c.nextCmd }
    let known (o : BitVec 16) : Bool := (o.toNat / 256, o.toNat % 256) ∈ [(1, 0), (1, 1), (2, 0), (2, 1), (2, 2), (2, 3), (2, 4), (2, 5), (2, 6), (2, 7), (2, 8),
      (3, 0), (3, 1), (3, 2), (3, 3), (4, 0), (4, 1), (4, 2), (4, 3), (4, 4), (5, 0), (5, 1), (5, 2), (5, 3), (6, 0), (6, 1), (6, 2), (7, 0), (7, 1), (7, 2),
      (9, 0), (9, 1), (9, 2), (9, 3), (10, 0), (10, 1), (10, 2), (11, 0), (11, 1), (11, 2), (11, 3)] || decide (o.toNat / 256 = 8)
    let asks (opc : BitVec 16) (who : Who) (minLen : Nat) : Prop := c.heads q { opc := opc, who := who, minLen := minLen } x bs
    let answers (r : Reply) : Out := .next (s.on (c.answerCmd q r))
    let w (j : Nat) : Word := pword x.own j
    let j : BitVec 8 := (w 0).setWidth 8
    let size := pairSize (c.pairCfg k)
    let fetched : Core := c.setHqp k { c.hqp k with ihead := ringNext size (c.hqp k).ihead }
    let reset : Prop := (c.queue i).deferred = [] ∧ (recentOf c.time.dtime (c.queue i).recent).length < 255
    let head : Prop := (c.cmdsOf q).head? = some x ∧ x.opcode = 0x0301 ∧ x.begun = false
    let may : Prop := (∃ g n, q = .sprig g n) ∨ ∃ h, q = .pair h ∧ c.supervisor (.host (c.cmdFunc h)) = true
    let short : Prop := x.plen < (if x.indirect then 28 else 4) ∨ (match q with | .pair _ => 56 | .sprig _ _ => 40) < x.plen
    let big : Prop := 0x100000 < x.inLen ∨ 0x100000 < x.outLen
    let out (t : State) (a : Nat) : Byte := Tbl.get t.core.hmem a 0
    let area := c.pairBase k + 64 * 2 ^ size
    let sent : Card := { card with poison := 0 }
    let z := c.queue i
    let popped : Core := (c.setQueue i { z with chain := rest }).launch (queuePlace i) (.credit card.route card.serial false)
    let pops : Prop := i.toNat < 32 ∧ i ≠ 7 ∧ c.boot.steward = true ∧ z.mark = false ∧ z.chain = card :: rest ∧ card = sent ∧ card.badSide = false
      ∧ card.bcast = none ∧ card.mute = false
    let from_ : Prop := pops ∧ card.route = .chan c.dev g n ∧ card.w.w0.getLsbD 20 = false
    let type : Byte := (card.w.w0 >>> 24).setWidth 8
    let dropped (c : Core) (cause : BitVec 16) (a : Addr) : Out := .next (s.on (c.log
      { cls := 0, source := 0x30, code := 0x001D, unit := g.setWidth 32, detail := cause, addr := a }))
    let made (a : HalfCmd) : Cmd :=
      { words := [a.w.w2, a.w.w3, a.w.w4, a.w.w5, a.w.w6, a.w.w7, card.w.w2, card.w.w3, card.w.w4, card.w.w5, card.w.w6, card.w.w7, 0, 0, 0, 0]
        handle := card.w.w1, order := c.nextCmd }
    (pkt.length = 16 → c.cmdFetches h = true →
      (poisoned = false → known y.opcode = true → (∀ z, (c.cmdsOf (.pair h)).head? = some z → z.poisoned = false ∧ known z.opcode = true) →
        exec (.commandFetch h pkt poisoned inb) s
          = .next (s.on ({ fetched with nextCmd := c.nextCmd + 1 }.setCmds (.pair h) (c.cmdsOf (.pair h) ++ [y]))))
      ∧ (poisoned = true ∨ known y.opcode = false → c.cmdsOf (.pair h) = [] → Runs (exec (.commandFetch h pkt poisoned inb) s) fun t =>
        t.core.cmdsOf (.pair h) = [] ∧ (t.core.hqp k).ihead = ringNext size (c.hqp k).ihead
        ∧ (t.core.hqp k).otail = ringNext size (c.hqp k).otail ∧ t.core.mem = c.mem
        ∧ (c.isCmdPair k = true → ∀ j, j < 4 → out t (area + 32 * ((c.hqp k).otail.toNat % 2 ^ size) + j)
          = (((if poisoned then 0x0502#16 else 0x0100#16) ++ y.tag : Word) >>> (8 * j)).setWidth 8)))
    ∧ (pkt.length = 16 → c.cmdFetches h = false → exec (.commandFetch h pkt poisoned inb) s = .next s)
    ∧ (from_ → type = 0xC1 → c.half g n = none → exec (.sprigCommandCard i) s = .next (s.on (popped.setHalf g n (some ⟨i, card.w, false⟩))))
    ∧ (∀ a, from_ → type = 0xC2 → c.half g n = some a → card.w.w0.getLsbD 19 = true → card.w.w1 = a.w.w1 →
      ((c.replyQueue card.w.w1).isSome = true → a.poisoned = false → known (made a).opcode = true →
        (∀ z, (c.cmdsOf (.sprig g n)).head? = some z → z.poisoned = false ∧ known z.opcode = true) → exec (.sprigCommandCard i) s
          = .next (s.on ({ (popped.setHalf g n none) with nextCmd := c.nextCmd + 1 }.setCmds (.sprig g n) (c.cmdsOf (.sprig g n) ++ [made a]))))
      ∧ (c.replyQueue card.w.w1 = none → exec (.sprigCommandCard i) s = dropped (popped.setHalf g n none) 3 (card.w.w1.setWidth 40)))
    ∧ (from_ → (type ≠ 0xC1 ∧ type ≠ 0xC2) ∨ (type = 0xC2 ∧ c.half g n = none)
        ∨ (∃ a, c.half g n = some a ∧ (type = 0xC1 ∨ card.w.w0.getLsbD 19 = false ∨ card.w.w1 ≠ a.w.w1)) →
      exec (.sprigCommandCard i) s = dropped popped 2 0)
    ∧ (∀ d, pops → card.route = .chan d g n → d ≠ c.dev → card.w.w0.getLsbD 20 = false → type = 0xC1 ∨ type = 0xC2 →
      exec (.sprigCommandCard i) s = dropped popped 1 0)
    ∧ (pops → card.w.w0.getLsbD 20 = true → card.w.w0 >>> 24 = 0x02 → (card.w.w1 >>> 23).setWidth 9 = c.dev → card.w.w1.getLsbD 22 = false →
      (card.w.w1 >>> 11).setWidth 11 = g → (card.w.w1 >>> 7).setWidth 4 = n → exec (.sprigCommandCard i) s = .next (s.on (popped.setHalf g n none)))
    ∧ (32 ≤ i.toNat ∨ i = 7 ∨ c.boot.steward = false ∨ (z.mark = false ∧ z.chain = []) → exec (.sprigCommandCard i) s = .next s)
    ∧ (∀ order r rest, Tbl.get c.replies i.toNat [] = (order, r) :: rest →
      let p := c.prod (.steward i)
      let owed : Prop := ∃ e, e ∈ c.cmds ∧ 256 ≤ e.1 ∧ ∃ z, z ∈ e.2 ∧ z.order < order ∧ c.replyQueue z.handle = some i
      let card : Card := { w := { r with w0 := (r.w0 &&& 0xFF0F00FF#32) ||| (p.epoch.setWidth 32 <<< 8) }, route := .steward i, serial := p.serial, seq := p.nextSeq }
      (1 ≤ p.credit → ¬owed → Runs (exec (.replySend i) s) fun t =>
        Tbl.get t.core.replies i.toNat [] = rest ∧ (t.core.prod (.steward i)).credit = p.credit - 1 ∧ t.core.cmds = c.cmds ∧ t.core.mem = c.mem
        ∧ t.core.fly = c.fly ++ [⟨prodKey (.steward i), queuePlace i, .toQueue i card false⟩])
      ∧ (p.credit < 1 ∨ owed → exec (.replySend i) s = .next s))
    ∧ (Tbl.get c.replies i.toNat [] = [] → exec (.replySend i) s = .next s)
    ∧ (let d : List Word := [s.variant, c.dev.setWidth 32, c.versionOf kindBase, c.versionOf kindPatch, if c.boot.patched then 1 else 0, 0]
      let text := s.identityText.take x.outLen
      asks 0x0100 .functionsSprigs 0 →
        (x.indirect = false → exec (.identify q) s = answers ⟨0, d ++ [0]⟩)
        ∧ (∀ h, q = .pair h → x.indirect = true → text ≠ [] →
          (c.busMaster (c.cmdFunc h) = true → exec (.identify q) s
            = .next (s.on ((c.hostWrite x.outAddr text).answerCmd q ⟨0, d ++ [BitVec.ofNat 32 text.length]⟩)))
          ∧ (c.busMaster (c.cmdFunc h) = false → exec (.identify q) s = answers ⟨0x0103, []⟩)))
    ∧ (asks 0x0101 .functionsSprigs 0 → exec (.status q) s = answers ⟨0, [c.store.gen, s.isl.stat,
        BitVec.ofNat 32 (c.hands.filter fun e => decide (e.2.st = .open)).length, BitVec.ofNat 32 (c.err.tail - c.err.ack).toNat]⟩)
    ∧ (asks 0x0300 .supervisors 4 → w 0 = i.setWidth 32 →
      (c.quietSprig (queueSprig i) = false → reset → Runs (exec (.queueReset q) s) fun t =>
        let u := t.core.queue i
        u.epoch = z.epoch + 1 ∧ u.mark = true ∧ u.chain = [] ∧ u.ring = [] ∧ u.walk = z.walk ++ z.ring ∧ u.cause = 1 ∧ u.at_ = c.time.dtime)
      ∧ (c.quietSprig (queueSprig i) = false → ¬reset → Runs (exec (.queueReset q) s) fun t =>
        t.core.queue i = { z with deferred := z.deferred ++ [1] })
      ∧ (c.quietSprig (queueSprig i) = true → exec (.queueReset q) s = answers ⟨0x0400, []⟩))
    ∧ (asks 0x0300 .supervisors 4 → 16384 ≤ (w 0).toNat → exec (.queueReset q) s = answers ⟨0x0101, []⟩)
    ∧ (asks 0x0301 .supervisorsSprigs 4 →
      (w 0 = i.setWidth 32 → exec (.queueStatus q) s = answers ⟨0, [(z.epoch.setWidth 32 <<< 24) ||| (if z.mark then 0x00800000#32 else 0)
          ||| BitVec.ofNat 32 z.count, c.qcfg i]⟩)
      ∧ (16384 ≤ (w 0).toNat → exec (.queueStatus q) s = answers ⟨0x0101, []⟩)
      ∧ (∀ h, q = .pair h → c.cmdsOf q = [x] → 16384 ≤ (w 0).toNat → c.isCmdPair (h.setWidth 8) = true → Runs (exec (.queueStatus q) s) fun t =>
        let k : BitVec 8 := h.setWidth 8
        let size := pairSize (c.pairCfg k)
        t.core.cmdsOf q = [] ∧ (t.core.hqp k).otail = ringNext size (c.hqp k).otail
        ∧ ∀ j, j < 32 → out t (c.pairBase k + 64 * 2 ^ size + 32 * ((c.hqp k).otail.toNat % 2 ^ size) + j)
          = if j < 4 then ((0x0101#16 ++ x.tag : Word) >>> (8 * j)).setWidth 8 else 0)
      ∧ (∀ g n, q = .sprig g n → c.cmdsOf q = [x] → 16384 ≤ (w 0).toNat → c.replyQueue x.handle = some i → Tbl.get c.replies i.toNat [] = [] →
        Runs (exec (.queueStatus q) s) fun t => t.core.cmdsOf q = [] ∧ ∃ r, Tbl.get t.core.replies i.toNat [] = [(x.order, r)]
          ∧ r.w0 >>> 24 = 0xC3 ∧ r.w1 = 0x0101#16 ++ x.tag ∧ r.w2 = 0 ∧ r.w3 = 0 ∧ r.w4 = 0 ∧ r.w5 = 0 ∧ r.w6 = 0 ∧ r.w7 = 0))
    ∧ (head → (¬may → exec (.queueStatus q) s = answers ⟨0x0300, []⟩)
      ∧ (may → x.flags &&& 0xFFFE ≠ 0 → exec (.queueStatus q) s = answers ⟨0x0101, []⟩)
      ∧ (may → x.flags &&& 0xFFFE = 0 → short → exec (.queueStatus q) s = answers ⟨0x0102, []⟩)
      ∧ (may → x.flags &&& 0xFFFE = 0 → ¬short → big → exec (.queueStatus q) s = answers ⟨0x0101, []⟩)
      ∧ (∀ h, may → x.flags &&& 0xFFFE = 0 → ¬short → ¬big → q = .pair h → x.inLen ≠ 0 →
        (x.inBuf = none ∨ c.busMaster (c.cmdFunc h) = false) → exec (.queueStatus q) s = answers ⟨0x0103, []⟩))
    ∧ ((∀ x, (c.cmdsOf q).head? = some x → x.opcode ≠ 0x0301 ∨ x.begun = true) → exec (.queueStatus q) s = .next s)
    ∧ (asks 0x0302 .pf 20 →
      let legal : Prop := 1 ≤ (w 0).toNat ∧ (w 0).toNat ≤ 64 ∧ (w 1).toNat ≤ 15 ∧ w 2 &&& 0xFFF = 0 ∧ 4 ≤ (w 4).toNat ∧ (w 4).toNat ≤ 12
      (legal → c.quiet (.hostPair j) = false → pairEn (c.pairCfg j) = false → Runs (exec (.cmdqCreate q) s) fun t =>
        t.core.pairCfg j = 0x80000000#32 ||| (w 1 <<< 25) ||| (w 4 <<< 21) ∧ t.core.pairBase j = (w 3 ++ w 2).toNat
        ∧ t.core.hqp j = Hqp.reset ∧ t.core.cmdPairs.contains j = true ∧ t.core.mem = c.mem ∧ t.core.cfg = c.cfg)
      ∧ (¬legal → exec (.cmdqCreate q) s = answers ⟨0x0101, []⟩)
      ∧ (legal → c.quiet (.hostPair j) = true → exec (.cmdqCreate q) s = answers ⟨0x0400, []⟩)
      ∧ (legal → c.quiet (.hostPair j) = false → pairEn (c.pairCfg j) = true → exec (.cmdqCreate q) s = answers ⟨0x0200, [0x84, w 0]⟩))
    ∧ (asks 0x0303 .pf 4 →
      let legal : Prop := 1 ≤ (w 0).toNat ∧ (w 0).toNat ≤ 64
      (legal → c.quiet (.hostPair j) = false → pairEn (c.pairCfg j) = true → Runs (exec (.cmdqDelete q) s) fun t =>
        t.core.pairCfg j = c.pairCfg j &&& 0x7FFFFFFF ∧ t.core.quiesce = c.quiesce ++ [(.hostPair j, c.time.dtime)] ∧ t.core.mem = c.mem)
      ∧ (¬legal → exec (.cmdqDelete q) s = answers ⟨0x0101, []⟩)
      ∧ (legal → c.quiet (.hostPair j) = true → exec (.cmdqDelete q) s = answers ⟨0x0400, []⟩)
      ∧ (legal → c.quiet (.hostPair j) = false → pairEn (c.pairCfg j) = false → exec (.cmdqDelete q) s = answers ⟨0x0200, [0x84, w 0]⟩))
    ∧ (c.takes (.host 0) true = true →
      let was := (c.reg (admqAddr 2) 0).getLsbD 31
      let put := c.setReg (admqAddr 2) (v &&& 0x81E00000) 0
      (v.getLsbD 31 = true → was = false → Runs (exec (.pcieAdmqCfgWrite (.host 0) v) s) fun t =>
        t.core.reg (admqAddr 2) 0 = v &&& 0x81E00000 ∧ t.core.hqp 0 = Hqp.reset ∧ t.core.pairCfg 0 = v &&& 0x81E00000
        ∧ t.core.pairBase 0 = (c.reg (admqAddr 1) 0 ++ (c.reg (admqAddr 0) 0 &&& 0xFFFFF000#32)).toNat ∧ t.core.quiesce = c.quiesce)
      ∧ (v.getLsbD 31 = false → was = true → c.quiet (.hostPair 0) = false → Runs (exec (.pcieAdmqCfgWrite (.host 0) v) s) fun t =>
        t.core.pairCfg 0 = c.pairCfg 0 &&& 0x7FFFFFFF ∧ t.core.quiesce = c.quiesce ++ [(.hostPair 0, c.time.dtime)])
      ∧ (v.getLsbD 31 = was → exec (.pcieAdmqCfgWrite (.host 0) v) s = .next (s.on put)))
    ∧ (∀ f, f ≠ 0 → exec (.pcieAdmqCfgWrite (.host f) v) s = .next s)

/-- R338, R343, R351, R352, R355, R356, R358, R362, R364, R365, R368, R370: HAND_OPEN takes the lowest free slot, HAND_SET stages entries, HAND_LOAD
an image, HAND_CHECK answers with the first fault, HAND_COMMIT makes a sound hand PENDING and leaves a faulty one OPEN, HAND_FOLD folds unless
T is too near, HAND_RECALL opens a hand with the difference to the prior generation, HAND_STATUS and SETTING_READ report; each stands with
what refuses it. A stale ID answers HAND_CLOSED, another's hand NOT_OWNER. It rests on the model's choices of log entries 22, 23, 36, 37, 38 too. -/
def Obligations.HandCommands : Prop :=
  ∀ (s : State) (q : CmdSrc) (x : Cmd) (bs : List Byte) (k : BitVec 4) (y : SysHand) (r : Reply) (r1 r2 : RawEntry) (t0 : DWord),
    let c := s.core
    let now := c.time.dtime
    let asks (opc : BitVec 16) (minLen : Nat) : Prop := c.heads q { opc := opc, who := .supervisorsSprigs, minLen := minLen } x bs
    let asksLoad : Prop := c.heads q { opc := 0x0207, who := .supervisors, minLen := 12, needs := true } x bs
    let recalls : Prop := c.heads q { opc := 0x0205, who := .supervisors } x bs
    let w (j : Nat) : Word := pword x.own j
    let h := c.hand k
    let names (f : HandState → Prop) : Prop := k = (w 0).setWidth 4 ∧ w 0 &&& 0xFFF0 = 0 ∧ h.serial = (w 0 >>> 16).setWidth 16 ∧ f h.st
    let mine (st : HandState) : Prop := names (fun u => u = st ∧ st ≠ .unused) ∧ h.owner = c.ownerOf q
    let closed : Prop := (w 0 &&& 0xFFF0 ≠ 0 ∨ (c.hand ((w 0).setWidth 4)).st = .unused
      ∨ (c.hand ((w 0).setWidth 4)).serial ≠ (w 0 >>> 16).setWidth 16)
    let bytes := (x.own ++ bs).drop 8
    let raw (n : Nat) (r : RawEntry) : Prop := r = ⟨(pword bytes (3 * n)).toNat % 65536, (pword bytes (3 * n)).toNat / 65536,
      (pword bytes (3 * n + 1)).toNat, pword bytes (3 * n + 2)⟩
    let raws := (List.range (w 1).toNat).map (rawEntry bytes)
    let gs := c.targets (w 1)
    let made (c' : Core) (r : Reply) : Out := .next (s.on (c'.answerCmd q r))
    let answers (r : Reply) : Out := made c r
    let isLive (k : BitVec 4) : Prop := (c.hand k).st = .open ∨ (c.hand k).st = .pending ∨ (c.hand k).st = .draining
    let free : Prop := ¬isLive k ∧ ∀ j, j < k → isLive j
    let none_ : Prop := ∀ j, isLive j
    let id : Word := ((h.serial + 1).setWidth 32 <<< 16) ||| k.setWidth 32
    let new : Hand := { serial := h.serial + 1, st := .open, owner := c.ownerOf q }
    let dev : Word := c.dev.setWidth 32
    let names64 : BitVec 512 := maskOf bs
    let lands (u : RawEntry) : List HandEntry :=
      if h.entries.any (fun e => decide (e.dev = c.dev) && decide (e.id = u.id)) then
        h.entries.map fun e => if e.dev = c.dev ∧ e.id = u.id then { e with val := u.val } else e
      else h.entries ++ [⟨c.dev, u.id, u.val, c.store.commits⟩]
    let sound : Prop := c.commitParams h (w 1) (w 2) (w 3) (w 4) (w 5) = none
    let pend : Hand := { h with
      st := .pending, mode := w 1, arg0 := w 2, arg1 := w 3, notify := w 4, drainwin := (w 5).toNat, submit := some q, order := x.order
      instant := none, status := 1, detail := 0 }
    let failed (r : Reply) : Hand := { h with st := .open, status := r.status, detail := r.word 1, submit := none, instant := none }
    let ended (st : HandState) : Hand := { h with
      st := st, status := 0, detail := 0, entries := [], loads := [], submit := none, awaiting := [] }
    let unlined : Core := { c with handLines := c.handLines.filter fun e => decide (e.1 ≠ k.toNat) }
    let folds : Out := made ((unlined.setHand k (ended .folded)).notify k) ⟨0, []⟩
    let late (t : DWord) : Prop :=
      (h.loads = [] → t < now + us 10)
      ∧ (h.loads ≠ [] → t + us h.drainwin + us (20 + 8 * ((c.handTargets h).map bunchOf).dedup.length) < now + us 10)
    let edge : Prop := ∃ e, e ∈ c.fabric.edges ∧ e.1 = .hand k ∧ h.ready ≤ e.2 ∧ late (e.2 + 160)
    let given (st : Nat) (t : Word) (i : DWord) : List Word := [Config.handStateCode st, h.status.setWidth 32, h.detail, t, i.setWidth 32, (i >>> 32).setWidth 32]
    (asks 0x0200 4 → free →
      (w 0 = 0 → exec (.handOpen q) s = made (c.setHand k new) ⟨0, [id]⟩)
      ∧ (w 0 = 1 → x.indirect = true → bs.length = 64 → names64.getLsbD c.dev.toNat = true → exec (.handOpen q) s
          = made (c.setHand k { new with sys := some { mask := names64, coordinator := c.dev, hand := id } }) ⟨0, [id]⟩))
    ∧ (asks 0x0200 4 → none_ → w 0 = 0 → exec (.handOpen q) s = answers ⟨0x0401, []⟩)
    ∧ (asks 0x0200 4 → w 0 ≠ 0 → w 0 ≠ 1 → exec (.handOpen q) s = answers ⟨0x0101, []⟩)
    ∧ (asks 0x0200 4 → w 0 = 1 → (x.indirect = false → exec (.handOpen q) s = answers ⟨0x0101, [0]⟩)
      ∧ (x.indirect = true → bs.length ≠ 64 → exec (.handOpen q) s = answers ⟨0x0102, []⟩)
      ∧ (x.indirect = true → bs.length = 64 → names64.getLsbD c.dev.toNat = false → exec (.handOpen q) s = answers ⟨0x0101, [0x78, dev]⟩))
    ∧ (bs.length = 64 → ∀ d, d < 512 → names64.getLsbD d = ((bs[d / 8]?).getD 0).getLsbD (d % 8))
    ∧ (asks 0x0201 8 → mine .open → 12 * (w 1).toNat = bytes.length →
      (w 1 = 1 → h.sys = none → raw 0 r1 → r1.id / 0x10000 ≠ 0x20FF → (lands r1).length ≤ 65536 →
        (r1.rsv = 0 → (r1.dev = 0xFFFF ∨ r1.dev = c.dev.toNat) → c.settingFault h r1.id r1.val = none → exec (.handSet q) s
          = made (c.setHand k { h with entries := lands r1 }) ⟨0, []⟩)
        ∧ (r1.rsv ≠ 0 → exec (.handSet q) s = answers ⟨0x0101, []⟩)
        ∧ (r1.rsv = 0 → r1.dev ≠ 0xFFFF → r1.dev ≠ c.dev.toNat → exec (.handSet q) s = answers ⟨0x0101, [0x78, BitVec.ofNat 32 r1.dev]⟩)
        ∧ (r1.rsv = 0 → r1.dev = 0xFFFF →
          (ownedSetting r1.id r1.val = none → exec (.handSet q) s = answers ⟨0x0101, [0x70, BitVec.ofNat 32 r1.id]⟩)
          ∧ (∀ o, ownedSetting r1.id r1.val = some o →
            (c.mayStage h r1.id r1.val = false → exec (.handSet q) s = answers ⟨0x0300, [0x79, BitVec.ofNat 32 r1.id]⟩)
            ∧ (c.mayStage h r1.id r1.val = true → (r1.val &&& ~~~o.mask ≠ 0 ∨ o.legal = false) → exec (.handSet q) s
              = answers ⟨0x0101, [0x71, BitVec.ofNat 32 r1.id]⟩))))
      ∧ (w 1 = 2 → h.sys = none → raw 0 r1 → raw 1 r2 → c.setFault h r1 = none → c.setFault h r2 = some r → exec (.handSet q) s = answers r)
      ∧ (raws.findSome? (c.setFault h) = none → (raws.foldl (fun l r => c.stageRaw l r) h.entries).length ≤ 65536 → exec (.handSet q) s
          = made (c.setHand k { h with entries := raws.foldl (fun l r => c.stageRaw l r) h.entries }) ⟨0, []⟩)
      ∧ (raws.findSome? (c.setFault h) = none → 65536 < (raws.foldl (fun l r => c.stageRaw l r) h.entries).length → exec (.handSet q) s
          = answers ⟨0x0402, []⟩))
    ∧ (asks 0x0201 8 → mine .open → bytes.length < 12 * (w 1).toNat → exec (.handSet q) s = answers ⟨0x0102, []⟩)
    ∧ (∀ st, st ≠ .open → mine st →
      (asks 0x0201 8 → exec (.handSet q) s = answers ⟨0x0201, []⟩) ∧ (asks 0x0202 4 → exec (.handCheck q) s = answers ⟨0x0201, []⟩)
      ∧ (asks 0x0203 24 → exec (.handCommit q) s = answers ⟨0x0201, []⟩) ∧ (asksLoad → exec (.handLoad q) s = answers ⟨0x0201, []⟩)
      ∧ (asks 0x0204 4 → st ≠ .pending → h.submit = none → exec (.handFold q) s = answers ⟨0x0201, []⟩))
    ∧ (closed →
      (asks 0x0201 8 → exec (.handSet q) s = answers ⟨0x0201, []⟩) ∧ (asks 0x0202 4 → exec (.handCheck q) s = answers ⟨0x0201, []⟩)
      ∧ (asks 0x0203 24 → exec (.handCommit q) s = answers ⟨0x0201, []⟩) ∧ (asks 0x0204 4 → exec (.handFold q) s = answers ⟨0x0201, []⟩)
      ∧ (asks 0x0206 4 → exec (.handStatus q) s = answers ⟨0x0201, []⟩) ∧ (asksLoad → exec (.handLoad q) s = answers ⟨0x0201, []⟩))
    ∧ (names (· ≠ .unused) → h.owner ≠ c.ownerOf q →
      (asks 0x0201 8 → exec (.handSet q) s = answers ⟨0x0300, [0x74, w 0]⟩) ∧ (asks 0x0202 4 → exec (.handCheck q) s = answers ⟨0x0300, [0x74, w 0]⟩)
      ∧ (asks 0x0203 24 → exec (.handCommit q) s = answers ⟨0x0300, [0x74, w 0]⟩)
      ∧ (asks 0x0204 4 → h.submit = none → exec (.handFold q) s = answers ⟨0x0300, [0x74, w 0]⟩)
      ∧ (asks 0x0206 4 → exec (.handStatus q) s = answers ⟨0x0300, [0x74, w 0]⟩) ∧ (asksLoad → exec (.handLoad q) s = answers ⟨0x0300, [0x74, w 0]⟩))
    ∧ (asks 0x0202 4 → mine .open →
      (h.sys = none → c.handFault k = none → exec (.handCheck q) s = answers ⟨0, []⟩)
      ∧ (h.sys = none → c.handFault k = some r → exec (.handCheck q) s = answers r)
      ∧ (h.sys = some y → c.handFault k = some r → exec (.handCheck q) s = answers ⟨r.status, [r.word 1, r.word 2, dev]⟩)
      ∧ (h.sys = some y → c.handFault k = none → c.others y = [] → exec (.handCheck q) s = answers ⟨0, []⟩)
      ∧ (∀ e es, h.sys = none → h.entries = e :: es → e.dev = c.dev → es = [] → c.settingFault h e.id e.val = none →
        (∀ j u, j ≠ k → ((c.hand j).st = .pending ∨ (c.hand j).st = .draining) → u ∈ (c.hand j).entries → u.dev = e.dev → u.id = e.id →
          exec (.handCheck q) s = answers ⟨0x0200, [0x72, BitVec.ofNat 32 e.id]⟩)
        ∧ (e.since < Tbl.get c.store.stamps e.id 0 → exec (.handCheck q) s = answers ⟨0x0200, [0x72, BitVec.ofNat 32 e.id]⟩)))
    ∧ (asks 0x0203 24 → mine .open →
      (2 < (w 1).toNat → exec (.handCommit q) s = answers ⟨0x0101, []⟩)
      ∧ ((w 1).toNat ≤ 2 → w 4 ≠ 0 → c.replyQueue (w 4) = none → exec (.handCommit q) s = answers ⟨0x0101, [0x83, w 4]⟩)
      ∧ ((w 1).toNat ≤ 2 → w 4 = 0 → h.loads ≠ [] → ((w 5).toNat = 0 ∨ 1000000 < (w 5).toNat) → exec (.handCommit q) s = answers ⟨0x0101, []⟩)
      ∧ (w 1 = 2 → w 4 = 0 → h.loads = [] → 4095 < (w 2).toNat → exec (.handCommit q) s = answers ⟨0x0101, []⟩)
      ∧ (w 1 = 0 → w 4 = 0 → h.loads = [] → h.sys.isSome = true → ((w 3).toNat < 100 ∨ 1000000 < (w 3).toNat) →
        exec (.handCommit q) s = answers ⟨0x0101, []⟩)
      ∧ ((w 1).toNat ≤ 1 → w 4 = 0 → h.loads = [] → h.sys = none → sound)
      ∧ (sound → c.handFault k = some r → exec (.handCommit q) s = made (c.setHand k (failed r)) r)
      ∧ (sound → c.handFault k = none → h.sys = none → exec (.handCommit q) s = .next (s.on ((c.setHand k pend).beginCmd q)))
      ∧ (sound → c.handFault k = none → h.sys = some y → w 1 = 0 →
        let d := now + us (w 3).toNat
        let z : SysHand := { y with deadline := d, votes := [], decided := none, report := {} }
        Runs (exec (.handCommit q) s) fun t =>
          t.core.hand k = { pend with sys := some z, instant := some (d + us 100) } ∧ t.core.cfg = c.cfg
          ∧ t.core.fly = c.fly ++ (c.others y).map (fun d' => ⟨devicePlace c.dev, devicePlace d', .prepare d'
            { coordinator := c.dev, hand := y.hand, mask := y.mask, deadline := d, instant := d + us 100
              entries := (h.entries.filter fun e => decide (e.dev = d')).map fun e => (BitVec.ofNat 32 e.id, e.val) }⟩))
      ∧ (sound → c.handFault k = none → h.sys = some y → w 1 = 1 →
        let d := now + us 1000
        (w 3 ++ w 2 : DWord) < d + us 100 → exec (.handCommit q) s
          = made (c.setHand k (failed ⟨0x0200, [0x73, (d + us 100).setWidth 32]⟩)) ⟨0x0200, [0x73, (d + us 100).setWidth 32]⟩))
    ∧ (asks 0x0204 4 →
      (mine .pending → h.submit.isSome = true → exec (.handFold q) s = .next s)
      ∧ (mine .open → h.submit = none → exec (.handFold q) s = folds)
      ∧ (mine .pending → h.submit = none → h.sys = none →
        (h.instant = some t0 → late t0 → exec (.handFold q) s = answers ⟨0x0201, []⟩)
        ∧ (h.instant = some t0 → ¬late t0 → exec (.handFold q) s = folds)
        ∧ (h.instant = none → edge → exec (.handFold q) s = answers ⟨0x0201, []⟩)
        ∧ (h.instant = none → ¬edge → exec (.handFold q) s = folds))
      ∧ (mine .pending → h.submit = none → h.sys = some y →
        (y.decided = none → now < y.deadline → exec (.handFold q) s = made (c.setHand k { h with
            sys := some { y with votes := (c.dev, false, 0) :: y.votes.filter fun v => decide (v.1 ≠ c.dev) } }) ⟨0, []⟩)
        ∧ ((y.decided ≠ none ∨ ¬now < y.deadline) → exec (.handFold q) s = answers ⟨0x0201, []⟩)))
    ∧ (recalls → c.store.hasPrior = false → exec (.handRecall q) s = answers ⟨0x0202, []⟩)
    ∧ (recalls → c.store.hasPrior = true → none_ → exec (.handRecall q) s = answers ⟨0x0401, []⟩)
    ∧ (recalls → c.store.hasPrior = true → free → Runs (exec (.handRecall q) s) fun t =>
      (t.core.hand k).st = .open ∧ (t.core.hand k).owner = c.ownerOf q ∧ (t.core.hand k).serial = h.serial + 1
      ∧ (∀ n v, (c.dev, n, v) ∈ (t.core.hand k).entries.map (fun e => (e.dev, e.id, e.val))
        ↔ (n ∈ (c.cfg ++ c.store.prior).map Prod.fst ∧ cfgGet c.cfg n ≠ cfgGet c.store.prior n ∧ v = cfgGet c.store.prior n))
      ∧ (∀ g : SprigId, ∀ img, (g.toNat, img) ∈ c.store.priorImages → Tbl.get c.store.images g.toNat [] ≠ img →
        ∃ l, l ∈ (t.core.hand k).loads ∧ l.target = c.handleOf (queueAt g 0) ∧ l.image = img)
      ∧ t.core.cfg = c.cfg)
    ∧ (asks 0x0206 4 →
      (mine .open → h.instant = none → exec (.handStatus q) s = answers ⟨0, given 1 h.gen 0xFFFFFFFFFFFFFFFF⟩)
      ∧ (mine .pending → h.instant = none → exec (.handStatus q) s = answers ⟨0, given 2 h.gen 0xFFFFFFFFFFFFFFFF⟩)
      ∧ (mine .pending → h.instant = some t0 → h.loads = [] → exec (.handStatus q) s = answers ⟨0, given 2 h.gen t0⟩)
      ∧ (mine .draining → h.instant = some t0 → h.loads ≠ [] → exec (.handStatus q) s
        = answers ⟨0, given 3 h.gen (t0 + us h.drainwin + us (20 + 8 * ((c.handTargets h).map bunchOf).dedup.length))⟩)
      ∧ (mine .committed → h.instant = some t0 → exec (.handStatus q) s = answers ⟨0, given 4 h.gen t0⟩)
      ∧ (mine .folded → h.instant = none → exec (.handStatus q) s = answers ⟨0, given 5 h.gen 0xFFFFFFFFFFFFFFFF⟩)
      ∧ (mine .failed → h.instant = some t0 → exec (.handStatus q) s = answers ⟨0, given 6 h.gen t0⟩))
    ∧ (asksLoad → mine .open →
      let bad : Prop := handleValid (w 1) = false ∨ 0xFF < (w 2).toNat ∨ gs = []
      (bad → exec (.handLoad q) s = answers ⟨0x0101, []⟩)
      ∧ (¬bad → (∃ g, g ∈ gs ∧ isSteward g = true) → exec (.handLoad q) s = answers ⟨0x0300, []⟩)
      ∧ (¬bad → (∀ g, g ∈ gs → isSteward g = false) →
        (imageRefusal c gs bs = some r → exec (.handLoad q) s = answers r)
        ∧ (imageRefusal c gs bs = none → exec (.handLoad q) s = made (c.setHand k { h with
            loads := (h.loads.filter fun e => decide (e.target ≠ w 1)) ++ [⟨w 1, (w 2).setWidth 8, bs⟩] }) ⟨0, []⟩)))
    ∧ (asks 0x0208 4 →
      let n := (w 0).toNat
      let real : Prop := (ownedSetting n 0).isSome = true ∧ n / 0x10000 ≠ 0x20FF
      let prior : Word := if c.store.hasPrior then cfgGet c.store.prior n else 0
      let bit : Word := if c.store.hasPrior then 1 else 0
      (¬real → exec (.settingRead q) s = answers ⟨0x0101, [0x70, w 0]⟩)
      ∧ (real → (∀ j e, ((c.hand j).st = .pending ∨ (c.hand j).st = .draining) → e ∈ (c.hand j).entries → e.dev ≠ c.dev ∨ e.id ≠ n) →
        exec (.settingRead q) s = answers ⟨0, [c.setting n, prior, 0, bit]⟩)
      ∧ (∀ e, real → ((c.hand k).st = .pending ∨ (c.hand k).st = .draining) → (c.hand k).entries = [e] → e.dev = c.dev → e.id = n →
        (∀ j, j ≠ k → (c.hand j).st ≠ .pending ∧ (c.hand j).st ≠ .draining) →
        exec (.settingRead q) s = answers ⟨0, [c.setting n, prior, e.val, bit ||| 2]⟩))

/-- R33, R196, R204, R338, R353, R354, R357, R360, R361, R365, R366, R368: the staging of a hand fills the staging pages and fixes its instant; the
boundary edge does so 20 ns later; at the instant every entry takes effect together as the next generation and the old one becomes the prior
one; a hand with loads first holds its posies, halts and loads its targets, or fails; a participant votes, NO where its QUAL is not FINE
(R449), learns the decision, and commits alone if it hears nothing; the coordinator decides at the deadline. It rests on the model's choices of log
entries 38, 39 too. -/
def Obligations.HandEvents : Prop :=
  ∀ (s : State) (k : BitVec 4) (g : SprigId) (p : Prepare) (commit : Bool) (q : CmdSrc) (t0 stamp : DWord) (y : SysHand) (x : Cmd)
      (rep : HandReport) (before after : List (Sink × DWord)) (r : Reply) (d : DeviceId) (wd : Word),
    let c := s.core
    let h := c.hand k
    let now := c.time.dtime
    let pend : Prop := h.st = .pending
    let own := c.ownEntries h
    let waiting : Prop := (c.cmdsOf q).head? = some x ∧ x.begun = true ∧ x.opcode = 0x0203
    let answer (t : DWord) : Reply := ⟨1, [0, t.setWidth 32, (t >>> 32).setWidth 32]⟩
    let times (t : DWord) : Reply := answer (if h.loads = [] then t else t + us h.drainwin + us (20 + 8 * ((c.handTargets h).map bunchOf).dedup.length))
    let dealt (c' : Core) : Core := { c' with handLines := c'.handLines.filter fun e => decide (e.1 ≠ k.toNat) }
    let ended (c' : Core) (st : HandState) (r : Reply) : Core := (((dealt c').setHand k { h with
      st := st, status := r.status, detail := r.word 1, entries := [], loads := [], submit := none, awaiting := [] })).notify k
    let sends (d : DeviceId) (m : Parcel) : Flight := ⟨devicePlace c.dev, devicePlace d, m⟩
    let frozen : Prop := c.hic.vfe = true
    let commits (t : State) (at_ : DWord) : Prop :=
      let z := t.core
      z.hand k = { h with
        st := .committed, gen := c.store.gen + 1, instant := some at_, status := 0, detail := 0, entries := [], loads := [], submit := none
        awaiting := [] }
      ∧ z.store.gen = c.store.gen + 1 ∧ z.store.hasPrior = true ∧ z.store.prior = c.cfg ∧ z.store.priorImages = c.store.images
      ∧ z.store.last = at_ ∧ z.store.mirrored = false ∧ z.store.commits = c.store.commits + 1
      ∧ (∀ e, e ∈ own → (∀ u, u ∈ own → u.id = e.id → u.val = e.val) →
        cfgGet z.cfg e.id = e.val ∧ Tbl.get z.store.stamps e.id 0 = c.store.commits + 1
        ∧ (cfgGet c.cfg e.id ≠ e.val → 0x0B010000 ≤ e.id → e.id < 0x0B020000 → Tbl.get z.posyNext ((e.id - 0x0B010000) / 64) 0 = 0))
      ∧ (∀ n, (∀ e, e ∈ own → e.id ≠ n) → cfgGet z.cfg n = cfgGet c.cfg n ∧ Tbl.get z.store.stamps n 0 = Tbl.get c.store.stamps n 0)
    let page (t : State) (at_ : DWord) : Prop := ∀ (b : BunchId), (∃ e, e ∈ own ∧ e.id / 0x10000 = 0x2000 + b.toNat) →
      t.core.word (currentView b) = c.store.gen + 1 ∧ t.core.word (currentView b + 8) = at_.setWidth 32
      ∧ t.core.word (currentView b + 12) = (at_ >>> 32).setWidth 32
      ∧ ∀ j, j < 1020 → t.core.word (currentView b + 16 + 4 * j) = cfgGet t.core.cfg (0x20000000 + 0x10000 * b.toNat + 4 + j)
    let canStart (g : SprigId) : Prop := (c.sprig g).state = .disabled ∧ 0x6018 ≤ ((c.sprig g).ra 7).toNat ∧ ((c.sprig g).ra 7).toNat ≤ 0xC000
      ∧ (c.vectorWord g 0).getLsbD 16 = true ∧ (c.sprig g).req.block = .none ∧ ∀ j, j < 7 → c.csMark (storeBase g + 4 * j) = .ok
    let staged : Prop := pend ∧ h.submit = some q ∧ ∀ e, e ∈ own → e.id / 0x1000000 ≠ 0x20
    let due (u : Option DWord) : Prop := ∃ t1, u = some t1 ∧ t1 ≤ now
    -- staging
    (staged → waiting → h.sys = none →
      let set (i : Option DWord) : Core := c.setHand k { h with submit := none, ready := now + us 2, instant := i }
      let arg : DWord := h.arg1 ++ h.arg0
      (h.mode = 0 → exec (.handStaged k) s = .next (s.on ((set (some (now + us 2))).answerCmd q (times (now + us 2)))))
      ∧ (h.mode = 1 → ¬arg < now + us 2 → exec (.handStaged k) s = .next (s.on ((set (some arg)).answerCmd q (times arg))))
      ∧ (h.mode = 1 → arg < now + us 2 →
        let r : Reply := ⟨0x0200, [0x73, (now + us 2).setWidth 32]⟩
        exec (.handStaged k) s = .next (s.on ((c.setHand k { h with
          st := .open, status := 0x0200, detail := 0x73, submit := none, instant := none }).answerCmd q r)))
      ∧ (h.mode = 2 → Runs (exec (.handStaged k) s) fun t =>
        t.core.hand k = { h with submit := none, ready := now + us 2, instant := none }
        ∧ (k.toNat, h.arg0.setWidth 12) ∈ t.core.handLines ∧ t.core.cfg = c.cfg
        ∧ ∃ z : Core, t.core = z.answerCmd q (answer 0xFFFFFFFFFFFFFFFF)))
    ∧ (staged → waiting → h.sys = some y → h.instant = some t0 →
      let fine : Bool := decide (c.time.qual = qualFine)
      Runs (exec (.handStaged k) s) fun t => (∃ z : Core, t.core = z.answerCmd q (times t0)) ∧ ∃ report,
        t.core.hand k = { h with submit := none, ready := now + us 2, sys := some { y with
          votes := y.votes ++ [(c.dev, fine, if fine then 0 else 0xA0)], votedYes := fine, report := report } })
    ∧ (∀ e (b : BunchId) j, pend → h.submit = some q → own = [e] → j < 1020 → e.id = 0x20000000 + 0x10000 * b.toNat + 4 + j →
      Runs (exec (.handStaged k) s) fun t => t.core.word (stagingView b + 16 + 4 * j) = e.val ∧ t.core.cfg = c.cfg
        ∧ ∀ a, (a < stagingView b + 16 ∨ stagingView b + 4096 ≤ a) → t.core.byte a = c.byte a)
    ∧ (¬pend ∨ h.submit = none → exec (.handStaged k) s = .next s)
    -- the boundary edge
    ∧ (c.fabric.edges = before ++ (.hand k, stamp) :: after → (∀ z, z ∈ before → z.1 ≠ .hand k) →
      let popped : Core := { c with fabric := { c.fabric with edges := before ++ after } }
      let waits : Prop := pend ∧ h.instant = none ∧ h.submit = none ∧ h.ready ≤ stamp
      (waits → exec (.handBoundaryEdge k) s = .next (s.on ((dealt popped).setHand k { h with instant := some (stamp + 160) })))
      ∧ (¬waits → exec (.handBoundaryEdge k) s = .next (s.on popped)))
    ∧ ((∀ z, z ∈ c.fabric.edges → z.1 ≠ .hand k) → exec (.handBoundaryEdge k) s = .next s)
    -- the commit
    ∧ (pend → h.instant = some t0 → h.loads = [] → h.submit = none → h.decidedYes = true → t0 ≤ now →
      (¬frozen → Runs (exec (.handCommitInstant k) s) fun t => commits t t0 ∧ page t t0)
      ∧ (∀ e f, frozen → own = [e] → 1 ≤ f → f ≤ 15 → e.id = 0x14000000 + 4 * f → e.val ≠ cfgGet c.cfg e.id →
        exec (.handCommitInstant k) s = .next (s.on (ended c .failed ⟨0x0200, [0x82, BitVec.ofNat 32 f]⟩))))
    ∧ (pend → ¬due h.instant ∨ h.submit ≠ none ∨ h.decidedYes = false ∨ h.loads ≠ [] → exec (.handCommitInstant k) s = .next s)
    ∧ (h.st = .draining → h.instant = some t0 → h.loaded = true → h.decidedYes = true → h.commitAt ≤ now → ¬frozen →
      Runs (exec (.handCommitInstant k) s) fun t => commits t h.commitAt ∧ (∀ j, j ∈ c.targetPosies h → Tbl.get t.core.held j.toNat false = false)
        ∧ (h.entries = [] → c.handTargets h = [g] → canStart g →
          (t.core.sprig g).state = .run ∧ (t.core.sprig g).pc = (c.vectorWord g 0).setWidth 16 ∧ (t.core.sprig g).ra 7 = (c.sprig g).ra 7 - 24))
    ∧ (h.st = .draining → h.loaded = false ∨ h.decidedYes = false ∨ now < h.commitAt → exec (.handCommitInstant k) s = .next s)
    -- loads
    ∧ (pend → h.instant = some t0 → h.loads ≠ [] → h.submit = none → h.decidedYes = true → t0 ≤ now → Runs (exec (.handDrainStart k) s) fun t =>
      ∃ notices, t.core.hand k = { h with
          st := .draining, awaiting := notices, halted := [], loaded := false
          commitAt := t0 + us h.drainwin + us (20 + 8 * ((c.handTargets h).map bunchOf).dedup.length) }
        ∧ t.core.fly = c.fly ++ notices.map (fun n => ⟨posyPlace n.2, devicePlace n.1, .hold n.1 n.2 false⟩)
        ∧ (c.importBindings = [] → notices = [])
        ∧ (∀ b n m, c.importBindings = [b] → b.who = .chan d g n → c.localPosy b.handle = some m → m ∈ c.targetPosies h → c.handleHeld b.handle = false →
          notices = [(d, m)])
        ∧ (∀ j, j ∈ c.targetPosies h → Tbl.get t.core.held j.toNat false = true) ∧ t.core.cfg = c.cfg ∧ t.core.mem = c.mem)
    ∧ (¬pend ∨ ¬due h.instant ∨ h.submit ≠ none ∨ h.decidedYes = false ∨ h.loads = [] → exec (.handDrainStart k) s = .next s)
    ∧ (let ready : Prop := h.st = .draining ∧ h.loaded = false ∧ g ∈ c.handTargets h ∧ g ∉ h.halted ∧ h.awaiting = []
          ∧ (c.sprig g).state = .wait ∧ ∀ l, l ∈ h.loads → g ∈ c.targets l.target → ∀ n : BitVec 3, l.drainq.getLsbD n.toNat = true →
            (c.queue (queueAt g n)).count = 0
      (ready → Runs (exec (.handTargetHalt k g) s) fun t =>
        t.core.hand k = { h with halted := h.halted ++ [g] } ∧ (t.core.sprig g).state = .halted ∧ (t.core.sprig g).pc = (c.sprig g).pc
        ∧ (t.core.sprig g).d = (c.sprig g).d ∧ (t.core.sprig g).a = (c.sprig g).a ∧ (t.core.sprig g).sw = (c.sprig g).sw
        ∧ (t.core.sprig g).buf = (c.sprig g).buf ∧ t.core.mem = c.mem ∧ t.core.cfg = c.cfg)
      ∧ (¬ready → exec (.handTargetHalt k g) s = .next s))
    ∧ (h.st = .draining → h.loaded = false → (∀ j, j ∈ c.handTargets h → j ∈ h.halted) → Runs (exec (.handLoadTargets k) s) fun t =>
      t.core.hand k = { h with loaded := true } ∧ t.core.cfg = c.cfg ∧ (∀ j, j ∈ c.handTargets h → (t.core.sprig j).state = .disabled)
      ∧ ∀ w0 dq img sec, h.loads = [⟨w0, dq, img⟩] → c.targets w0 = [g] → parseImage img = .ok [sec] → sec.kind = 2 →
        ∀ i, i < sec.bytes.length → t.core.byte (localsBase g + sec.start + i) = (sec.bytes[i]?).getD 0)
    ∧ (h.st ≠ .draining ∨ h.loaded = true ∨ (∃ j, j ∈ c.handTargets h ∧ j ∉ h.halted) → exec (.handLoadTargets k) s = .next s)
    ∧ (h.st = .draining → h.instant = some t0 → h.loaded = false → (c.handTargets h).find? (fun j => !h.halted.contains j) = some g →
      (¬now < t0 + us h.drainwin → Runs (exec (.drainTimeout k) s) fun t =>
        t.core.hand k = { h with
          st := .failed, status := 0x0501, detail := 0x80, entries := [], loads := [], submit := none, awaiting := [] }
        ∧ t.core.cfg = c.cfg ∧ t.core.mem = c.mem ∧ (∀ j, j ∈ h.halted → (t.core.sprig j).state = .run ∧ (t.core.sprig j).pc = (c.sprig j).pc)
        ∧ ∀ j, j ∈ c.targetPosies h → Tbl.get t.core.held j.toNat false = false)
      ∧ (now < t0 + us h.drainwin → exec (.drainTimeout k) s = .next s))
    -- generations
    ∧ (c.store.mirrored = false → exec .generationMirror s = .next (s.on { c with store := { c.store with
        mirrored := true, flashGen := c.store.gen, flash := c.cfg, flashImages := c.store.images } }))
    ∧ (c.store.mirrored = true → exec .generationMirror s = .next s)
    -- participants of a system hand
    ∧ (let votes (yes : Bool) (w : Word) (rep : HandReport) : Flight := sends p.coordinator (.vote p.coordinator p.hand yes w rep)
      let no (w : Word) : Out := .next (s.on { c with fly := c.fly ++ [votes false w {}] })
      let es := p.entries.flatMap fun e => (spreadId e.1.toNat).map fun id => (⟨c.dev, id, e.2, c.store.commits⟩ : HandEntry)
      let z : SysHand := { mask := p.mask, coordinator := p.coordinator, hand := p.hand, deadline := p.deadline }
      let new : Hand := { serial := h.serial + 1, st := .open, owner := .func 0, sys := some z, entries := es }
      let live (k : BitVec 4) : Prop := (c.hand k).st = .open ∨ (c.hand k).st = .pending ∨ (c.hand k).st = .draining
      let takes : Prop := p.coordinator ≠ c.dev ∧ c.time.qual = qualFine ∧ ¬p.deadline < now
      (p.coordinator = c.dev → exec (.systemPrepare p) s = .next s)
      ∧ (p.coordinator ≠ c.dev → c.time.qual ≠ qualFine → exec (.systemPrepare p) s = no 0xA0)
      ∧ (p.coordinator ≠ c.dev → c.time.qual = qualFine → p.deadline < now → exec (.systemPrepare p) s = no 0)
      ∧ (takes → (∀ j, live j) → exec (.systemPrepare p) s = no 0)
      ∧ (takes → ¬live k → (∀ j, j < k → live j) →
        ((c.setHand k new).handFault k = some r → exec (.systemPrepare p) s = no (r.word 1))
        ∧ ((c.setHand k new).handFault k = none → Runs (exec (.systemPrepare p) s) fun t =>
          t.core.hand k = { new with st := .pending, instant := some p.instant, sys := some { z with votedYes := true } } ∧ t.core.cfg = c.cfg
          ∧ ∃ rep, t.core.fly = c.fly ++ [votes true 0 rep]
            ∧ (p.entries = [] → ∀ b, b ∈ c.importBindings → handlePosy b.handle = false → c.acceptedHands = [] →
              (b.handle, (c.queue (handleQueue b.handle)).epoch) ∈ rep.epochs)
            ∧ (p.entries = [] → ∀ m, posyDef (c.pctl m) = true → c.acceptedHands = [] → (c.posyHandle m, c.members m) ∈ rep.posies))))
    ∧ (let live : Prop := pend ∧ h.sys = some y ∧ y.coordinator ≠ c.dev ∧ y.decided = none
      (live → commit = true → exec (.systemDecision k commit rep) s
        = .next (s.on (c.setHand k { h with sys := some { y with decided := some true, report := rep } })))
      ∧ (live → commit = false → exec (.systemDecision k commit rep) s = .next (s.on (ended c .folded ⟨0, []⟩))
        ∧ (∀ i, h.notify ≠ 0 → c.replyQueue h.notify = some i → Tbl.get c.replies i.toNat [] = [] → Runs (exec (.systemDecision k commit rep) s) fun t =>
          ∃ w, Tbl.get t.core.replies i.toNat [] = [(h.order, w)] ∧ w.w0 >>> 24 = 0xF0 ∧ w.w1 = (h.serial.setWidth 32 <<< 16) ||| k.setWidth 32
            ∧ w.w2 = 0 ∧ w.w3 = h.gen ∧ (∀ t1, h.instant = some t1 → w.w4 = t1.setWidth 32 ∧ w.w5 = (t1 >>> 32).setWidth 32) ∧ w.w6 = 0 ∧ w.w7 = 0))
      ∧ (¬pend ∨ h.sys = none ∨ (h.sys = some y ∧ (y.coordinator = c.dev ∨ y.decided ≠ none)) → exec (.systemDecision k commit rep) s = .next s))
    ∧ (pend → h.sys = some y → h.instant = some t0 →
      let alone : Prop := y.coordinator ≠ c.dev ∧ y.votedYes = true ∧ y.decided = none ∧ t0 ≤ now
      (alone → ¬frozen → Runs (exec (.isolatedCommit k) s) fun t => commits t t0 ∧ t.core.store.isolated = true
        ∧ ∃ u : Core, t.core = (u.log ⟨1, 0x0F, 0x0013, (h.serial.setWidth 32 <<< 16) ||| k.setWidth 32, c.dev.setWidth 16, 0⟩).launch
          (devicePlace c.dev) (.isolated y.coordinator y.hand))
      ∧ (¬alone → exec (.isolatedCommit k) s = .next s))
    -- the coordinator decides
    ∧ (pend → h.sys = some y →
      let tell (yes : Bool) : List Flight := (c.others y).map fun d => sends d (.decision d y.hand yes y.report)
      let turn : Prop := y.coordinator = c.dev ∧ y.decided = none ∧ ¬now < y.deadline
      let folds (r : Reply) : Prop := Runs (exec (.systemVoteDeadline k) s) fun t =>
        t.core.hand k = { h with
          st := .folded, status := r.status, detail := r.word 1, entries := [], loads := [], submit := none, awaiting := []
          sys := some { y with decided := some false } }
        ∧ t.core.fly = c.fly ++ tell false ∧ t.core.cfg = c.cfg
      let goes : Prop := exec (.systemVoteDeadline k) s
        = .next (s.on ({ c with fly := c.fly ++ tell true }.setHand k { h with sys := some { y with decided := some true } }))
      let allYes : Prop := ∀ v, v ∈ y.votes → v.2.1 = true
      let voted (d : DeviceId) : Prop := ∃ v, v ∈ y.votes ∧ v.1 = d
      let complete : Prop := allYes ∧ voted c.dev ∧ ∀ d, d ∈ c.others y → voted d
      let posies : Prop := ∃ e, e ∈ h.entries ∧ 0x0B010000 ≤ e.id ∧ e.id < 0x0B020000
      (∀ v1 v2, turn → y.votes = v1 ++ (d, false, wd) :: v2 → (∀ v, v ∈ v1 → v.2.1 = true) → folds ⟨0x0200, [0x75, d.setWidth 32, wd]⟩)
      ∧ (turn → allYes → ¬voted c.dev → folds ⟨0x0200, [0x75, c.dev.setWidth 32, 0]⟩)
      ∧ (∀ d1 d2, turn → allYes → voted c.dev → c.others y = d1 ++ d :: d2 → (∀ d, d ∈ d1 → voted d) → ¬voted d →
        folds ⟨0x0500, [0x76, d.setWidth 32]⟩)
      ∧ (turn → complete → ¬posies → goes)
      ∧ (turn → complete → posies → graphFault y.report y.mask = none → goes)
      ∧ (turn → complete → posies → graphFault y.report y.mask = some r → folds r)
      ∧ (∀ a b, turn → complete → posies → y.report.posies = [(a, [b]), (b, [a])] → a ≠ b → handlePosy a = true → handlePosy b = true →
        folds ⟨0x0200, [0x10, (handlePosyIdx a).setWidth 32]⟩)
      ∧ (¬turn → exec (.systemVoteDeadline k) s = .next s))

/-- R24, R66, R68, R78, R79, R222, R223, R369, R383, R384, R464, R500: the sprig commands load, start, halt, step and reset a sprig by the state it is
in, never the Steward's, and wait while its bunch sleeps; the time commands read, step and qualify DTIME; FREEZE freezes a sprig, function, peer
or engine and THAW takes it back, each with its entry. It rests on the model's choices of log entries 25, 37 too. -/
def Obligations.SprigAndTimeCommands : Prop :=
  ∀ (s : State) (q : CmdSrc) (x : Cmd) (bs : List Byte) (g : SprigId) (f : FuncId) (d : DeviceId) (b : BunchId),
    let c := s.core
    let now := c.time.dtime
    let w (j : Nat) : Word := pword x.own j
    let asks (opc : BitVec 16) (minLen : Nat) : Prop := c.heads q { opc := opc, who := .supervisors, minLen := minLen } x bs
    let y := c.sprig g
    let awake : Prop := c.asleep (bunchOf g) = false
    let on (j : Nat) : Prop := w j = g.setWidth 32 ∧ isSteward g = false ∧ c.quietSprig g = false ∧ awake
    let loads : Prop := c.heads q { opc := 0x0400, who := .supervisors, minLen := 4, needs := true } x bs
    let amount : DWord := w 1 ++ w 0
    let made (c' : Core) (r : Reply) : Out := .next (s.on (c'.answerCmd q r))
    let answers (r : Reply) : Out := made c r
    let code : Word := match y.state with | .disabled => 0 | .run => 1 | .wait => 2 | .halted => 3 | .frozen => 4
    let clash : Out := answers ⟨0x0200, [0x85, code]⟩
    let place (sec : Section) : Nat :=
      match sec.kind with
      | 1 => localsBase g + 0x10000 + 4 * sec.start
      | 5 => storeBase g + 0x4000 + 4 * sec.start
      | 6 => storeBase g + 4 * sec.start
      | _ => localsBase g + sec.start
    let a := y.ra 7
    let v := c.vectorWord g 0
    let starts : Prop := asks 0x0401 4 ∧ on 0 ∧ y.state = .disabled
    let bad (op : Instr) (r : Reply) : Prop := exec op s = answers r
    let head (op : Instr) : Prop := (op = .sprigLoad q ∧ loads) ∨ (op = .sprigStart q ∧ asks 0x0401 4) ∨ (op = .sprigHalt q ∧ asks 0x0402 4)
      ∨ (op = .sprigStep q ∧ asks 0x0403 4) ∨ (op = .sprigReset q ∧ asks 0x0404 4)
    let entry (code source : Nat) (unit : Word) (detail : BitVec 16) : ErrInfo :=
      ⟨if code = 0x0D then 0 else 1, BitVec.ofNat 8 source, BitVec.ofNat 16 code, unit, detail, 0⟩
    let logged (t : State) (e : ErrInfo) (P : Core → Prop) : Prop := ∃ u : Core, t.core = (u.log e).answerCmd q ⟨0, []⟩ ∧ P u
    let ofKind (n : Nat) (i : Word) : Prop := w 0 = BitVec.ofNat 32 n ∧ w 1 = i
    let other : Prop := ∀ h, q = .pair h → c.cmdFunc h ≠ f
    -- the sprig commands
    (∀ op, head op →
      (2048 ≤ (w 0).toNat → c.asleep (bunchOf ((w 0).setWidth 11)) = false → bad op ⟨0x0101, []⟩)
      ∧ (w 0 = g.setWidth 32 → isSteward g = true → awake → bad op ⟨0x0300, []⟩)
      ∧ (w 0 = g.setWidth 32 → isSteward g = false → c.quietSprig g = true → awake → bad op ⟨0x0400, []⟩)
      ∧ (w 0 = g.setWidth 32 → ¬awake → exec op s = .next s))
    ∧ (loads → on 0 → y.state = .disabled ∨ y.state = .halted ∨ y.state = .frozen →
      (imageRefusal c [g] bs = none → Runs (exec (.sprigLoad q) s) fun t => t.core.sprig g = y ∧ t.core.cfg = c.cfg
        ∧ Tbl.get t.core.boot.meas 7 0 = Config.sha3 (bytesOf (Tbl.get c.boot.meas 7 0 : BitVec 256) 32 ++ bytesOf (Config.sha3 bs) 32)
        ∧ ∀ l sec, parseImage bs = .ok (l ++ [sec]) → sec.kind ≠ 4 → ∀ i, i < sec.bytes.length → t.core.byte (place sec + i) = (sec.bytes[i]?).getD 0)
      ∧ (∀ r, imageRefusal c [g] bs = some r → exec (.sprigLoad q) s = answers r))
    ∧ (loads → on 0 → y.state = .run ∨ y.state = .wait → exec (.sprigLoad q) s = clash)
    ∧ (starts → 0x6018 ≤ a.toNat → a.toNat ≤ 0xC000 → v.getLsbD 16 = true → y.req.block = .none → (∀ j, j < 7 → c.csMark (storeBase g + 4 * j) = .ok) →
      Runs (exec (.sprigStart q) s) fun t =>
        let z := t.core.sprig g
        z.state = .run ∧ z.pc = v.setWidth 16 ∧ z.ra 7 = a - 24 ∧ z.depth = y.depth + 1 ∧ z.d = y.d ∧ z.p = y.p ∧ modeIen z.mode = false
        ∧ (z.sw >>> 16).setWidth 6 = (0 : BitVec 6) ∧ (t.core.word (localsBase g + (a - 24).toNat)).setWidth 16 = y.pc)
    ∧ (starts → (a.toNat < 0x6018 ∨ 0xC000 < a.toNat) → Runs (exec (.sprigStart q) s) fun t =>
      (t.core.sprig g).state = .frozen ∧ (t.core.sprig g).cause = 3 ∧ (t.core.sprig g).faultPc = y.pc ∧ t.core.mem = c.mem)
    ∧ (starts → 0x6018 ≤ a.toNat → a.toNat ≤ 0xC000 → v.getLsbD 16 = false → Runs (exec (.sprigStart q) s) fun t =>
      (t.core.sprig g).state = .frozen ∧ (t.core.sprig g).cause = 4 ∧ (t.core.sprig g).faultPc = y.pc ∧ t.core.mem = c.mem)
    ∧ (asks 0x0401 4 → on 0 →
      (y.state = .halted → exec (.sprigStart q) s = made (c.setSprig g { y with state := .run }) ⟨0, []⟩)
      ∧ (y.state = .run ∨ y.state = .wait → exec (.sprigStart q) s = answers ⟨0, []⟩)
      ∧ (y.state = .frozen → exec (.sprigStart q) s = answers ⟨0x0302, []⟩))
    ∧ (asks 0x0402 4 → on 0 →
      (y.state = .run ∨ y.state = .wait → Runs (exec (.sprigHalt q) s) fun t => ∃ far ats, t.core.sprig g = { y with
          state := .halted, farLoad := far, atomics := ats, held := none
          req := { y.req with block := .none, stepping := false, trace := false } }
        ∧ t.core.mem = c.mem ∧ t.core.cfg = c.cfg ∧ far.isSome = y.farLoad.isSome ∧ ats.length = y.atomics.length)
      ∧ (y.state = .disabled ∨ y.state = .halted → exec (.sprigHalt q) s = answers ⟨0, []⟩)
      ∧ (y.state = .frozen → exec (.sprigHalt q) s = answers ⟨0x0302, []⟩))
    ∧ (asks 0x0403 4 → on 0 →
      (y.state = .halted → exec (.sprigStep q) s = made (c.setSprig g { y with state := .run, req := { y.req with stepping := true } }) ⟨0, []⟩)
      ∧ (y.state = .disabled ∨ y.state = .run ∨ y.state = .wait → exec (.sprigStep q) s = clash)
      ∧ (y.state = .frozen → exec (.sprigStep q) s = answers ⟨0x0302, []⟩))
    ∧ (asks 0x0404 4 → on 0 → Runs (exec (.sprigReset q) s) fun t =>
      t.core.quiesce = c.quiesce ++ [(.sprig g, now)] ∧ t.core.cmdsOf q = { x with begun := true } :: (c.cmdsOf q).drop 1
      ∧ t.core.sprig g = y ∧ t.core.mem = c.mem)
    -- device time
    ∧ (c.heads q { opc := 0x0500, who := .functions } x bs → exec (.timeRead q) s = answers ⟨0, [c.time.dtime.setWidth 32,
        (c.time.dtime >>> 32).setWidth 32, c.time.qual.setWidth 32, c.time.uncert, c.time.stat.setWidth 32]⟩)
    ∧ (asks 0x0501 8 →
      let legal : Prop := amount ≠ 0 ∧ now.toNat + amount.toNat < 2 ^ 64 - 1
      let refused : Core := c.log ⟨0, masterSource (.sprig 0), 0x0007, masterNum (.sprig 0), 222, BitVec.ofNat 40 (regAt 0x04 0x18)⟩
      (c.time.busy = false → legal → Runs (exec (.timeStep q) s) fun t => t.core.time = { c.time with
          dtime := now + amount, skips := c.time.skips ++ [(now, now + amount, false)], stat := c.time.stat ||| 2, busy := true })
      ∧ (c.time.busy = true → exec (.timeStep q) s = made refused ⟨0x0400, []⟩)
      ∧ (c.time.busy = false → ¬legal → exec (.timeStep q) s = made refused ⟨0x0101, []⟩))
    ∧ (asks 0x0503 4 →
      let to_ : BitVec 2 := (w 0).setWidth 2
      let bound : Word := if to_ = 0 ∨ to_ = 1 then 0 else c.time.uncert
      ((w 0).toNat ≤ 3 → to_ = c.time.qual → exec (.timeQuality q) s = answers ⟨0, []⟩)
      ∧ ((w 0).toNat ≤ 3 → to_ ≠ c.time.qual → Runs (exec (.timeQuality q) s) fun t => t.core.time = { c.time with
          qual := to_, uncert := bound, holdBase := bound, holdNs := 0, stat := c.time.stat ||| 0x10 })
      ∧ (3 < (w 0).toNat → exec (.timeQuality q) s = answers ⟨0x0101, []⟩))
    -- freezing
    ∧ (asks 0x0701 8 → w 0 = 0 → on 1 → Runs (exec (.freeze q) s) fun t => logged t (entry 0x0C 0x30 (g.setWidth 32) 5) fun u =>
      let z := u.sprig g
      z.state = .frozen ∧ z.d = y.d ∧ z.a = y.a ∧ z.p = y.p ∧ z.sw = y.sw ∧ z.buf = y.buf ∧ u.mem = c.mem
      ∧ (y.state = .frozen → z.cause = y.cause ∧ z.faultPc = y.faultPc)
      ∧ (y.state ≠ .frozen → z.cause = 5 ∧ z.faultPc = (if y.req.rank1 = none then y.pc else y.req.resume) ∧ z.req.rank1 = none))
    ∧ (asks 0x0701 8 → other → ofKind 1 (f.setWidth 32) → Runs (exec (.freeze q) s) fun t => logged t (entry 0x0C 0x31 (f.setWidth 32) 5) fun u =>
      Tbl.get u.err.ffrz f.toNat 0 = (if Tbl.get c.err.ffrz f.toNat 0 = 0 then 5 else Tbl.get c.err.ffrz f.toNat 0) ∧ u.mem = c.mem)
    ∧ (asks 0x0701 8 → ofKind 2 (d.setWidth 32) → c.quiet (.remote d) = false → Runs (exec (.freeze q) s) fun t =>
      logged t (entry 0x0C 0x32 (d.setWidth 32) 5) fun u =>
        Tbl.get u.err.pfrz d.toNat 0 = (if Tbl.get c.err.pfrz d.toNat 0 = 0 then 5 else Tbl.get c.err.pfrz d.toNat 0) ∧ u.mem = c.mem)
    ∧ (asks 0x0701 8 → ofKind 3 (b.setWidth 32) → c.quiet (.bunch b) = false → c.asleep b = false → Runs (exec (.freeze q) s) fun t =>
      logged t (entry 0x0C 0x33 (b.setWidth 32) 5) fun u =>
        Tbl.get u.err.dfrz b.toNat 0 = (if Tbl.get c.err.dfrz b.toNat 0 = 0 then 5 else Tbl.get c.err.dfrz b.toNat 0) ∧ u.mem = c.mem)
    ∧ (asks 0x0702 16 → w 0 = 0 → on 1 → y.state = .frozen → (w 2).toNat ≤ 3 →
      ((w 2).getLsbD 0 = false → exec (.thaw q) s = made ((c.setSprig g { y with state := .run, cause := 0, pc := y.faultPc }).log
        (entry 0x0D 0x30 (g.setWidth 32) (y.cause.setWidth 16))) ⟨0, []⟩)
      ∧ ((w 2).getLsbD 0 = true → (w 3).toNat ≤ 0xFFFF → exec (.thaw q) s = made ((c.setSprig g { y with
          state := .run, cause := 0, pc := (w 3).setWidth 16 }).log (entry 0x0D 0x30 (g.setWidth 32) (y.cause.setWidth 16))) ⟨0, []⟩))
    ∧ (asks 0x0702 16 → (w 2).toNat ≤ 3 → (w 2).getLsbD 0 = false →
      (other → ofKind 1 (f.setWidth 32) → Tbl.get c.err.ffrz f.toNat 0 ≠ 0 → exec (.thaw q) s = made
        (({ c with err := { c.err with ffrz := Tbl.set c.err.ffrz f.toNat 0 0 } } : Core).log
          (entry 0x0D 0x31 (f.setWidth 32) ((Tbl.get c.err.ffrz f.toNat 0).setWidth 16))) ⟨0, []⟩)
      ∧ (ofKind 2 (d.setWidth 32) → Tbl.get c.err.pfrz d.toNat 0 ≠ 0 → c.quiet (.remote d) = false →
        let port : Part := .tlPort ((c.tlRoute d >>> 6).setWidth 2)
        let routed : Bool := (c.tlRoute d).getLsbD 31
        (routed = false ∨ c.quiet port = false → exec (.thaw q) s = made
          (({ c with err := { c.err with pfrz := Tbl.set c.err.pfrz d.toNat 0 0 } } : Core).log
            (entry 0x0D 0x32 (d.setWidth 32) ((Tbl.get c.err.pfrz d.toNat 0).setWidth 16))) ⟨0, []⟩)
        ∧ (routed = true → c.quiet port = true → exec (.thaw q) s = answers ⟨0x0400, []⟩))
      ∧ (ofKind 3 (b.setWidth 32) → Tbl.get c.err.dfrz b.toNat 0 ≠ 0 → c.quiet (.bunch b) = false → c.asleep b = false →
        ((w 2).getLsbD 1 = false → exec (.thaw q) s = made (({ c with err := { c.err with dfrz := Tbl.set c.err.dfrz b.toNat 0 0 } } : Core).log
          (entry 0x0D 0x33 (b.setWidth 32) ((Tbl.get c.err.dfrz b.toNat 0).setWidth 16))) ⟨0, []⟩)
        ∧ ((w 2).getLsbD 1 = true → Runs (exec (.thaw q) s) fun t => Tbl.get t.core.err.dfrz b.toNat 0 = 0 ∧ (t.core.dma b).queue = []
          ∧ ∀ j, (c.dma b).queue = [j] → t.core.word (scratchBase b + j.off.toNat + 28) = 0x40000000)))
    ∧ (asks 0x0702 16 → (w 2).toNat ≤ 3 → (w 2).getLsbD 0 = false →
      (w 0 = 0 → on 1 → y.state ≠ .frozen → exec (.thaw q) s = answers ⟨0x0200, []⟩)
      ∧ (other → ofKind 1 (f.setWidth 32) → Tbl.get c.err.ffrz f.toNat 0 = 0 → exec (.thaw q) s = answers ⟨0x0200, []⟩)
      ∧ (w 0 = 0 → w 1 = g.setWidth 32 → isSteward g = false → c.quietSprig g = true → awake → exec (.thaw q) s = answers ⟨0x0400, []⟩))
    ∧ (asks 0x0702 16 → w 0 = 1 → w 1 = f.setWidth 32 → 3 < (w 2).toNat ∨ ((w 2).getLsbD 0 = true ∧ 0xFFFF < (w 3).toNat) →
      exec (.thaw q) s = answers ⟨0x0101, []⟩)
    ∧ (∀ op, (op = .freeze q ∧ asks 0x0701 8) ∨ (op = .thaw q ∧ asks 0x0702 16 ∧ w 2 = 0) →
      (3 < (w 0).toNat → bad op ⟨0x0101, []⟩)
      ∧ (w 0 = 0 → w 1 = g.setWidth 32 → isSteward g = true → awake → bad op ⟨0x0300, []⟩)
      ∧ (∀ h, q = .pair h → ofKind 1 ((c.cmdFunc h).setWidth 32) → bad op ⟨0x0300, []⟩)
      ∧ (w 0 = 0 → w 1 = g.setWidth 32 → ¬awake → exec op s = .next s))


/-! ### Errors and QUIESCE -/

/-- R374 to R379, R383, R385 to R389, R501: the engine sends the next entry to queue 7 while it holds credit, and copies one into the host ring and
its shadow while a slot is free; ACK and HEAD move within what is filled; ERR_LOST clears as it is read; ERR_READ answers with the entries
held. A part enters QUIESCE once and closes its streams; its window ends 10 us later, or for a drained sprig at once, with its entry, its epoch
and its reset. A stream that owes a close card sends it on a credit. A unit's fatal error takes it into QUIESCE. It rests on the model's choices of
log entries 9, 40 too. -/
def Obligations.ErrorsAndQuiesce : Prop :=
  ∀ (s : State) (m : Master) (v : Word) (q : CmdSrc) (x : Cmd) (bs : List Byte) (p : Part) (g : SprigId) (n : BitVec 4) (cause : BitVec 3) (e : ErrInfo)
      (t0 : DWord),
    let c := s.core
    let now := c.time.dtime
    let b := c.err
    let eng := c.prod .errorEngine
    let a : BitVec 11 := v.setWidth 11
    let w (j : Nat) : Word := pword x.own j
    let image (i : BitVec 11) : CardWords :=
      match Tbl.get b.ring (i.toNat % 1024) none with
      | none => ⟨0, 0, 0, 0, 0, 0, 0, 0⟩
      | some en =>
        { w0 := 0x03100000#32 ||| (eng.epoch.setWidth 32 <<< 8), w1 := (en.info.cls.setWidth 32 <<< 28) ||| (en.info.source.setWidth 32 <<< 16) ||| en.info.code.setWidth 32
          w2 := en.info.unit, w3 := (en.info.detail.setWidth 32 <<< 16) ||| (en.info.addr >>> 32).setWidth 32, w4 := en.info.addr.setWidth 32
          w5 := en.at_.setWidth 32, w6 := (en.at_ >>> 32).setWidth 32, w7 := en.seq ++ en.lost }
    let bytes (w : CardWords) : List Byte := [w.w0, w.w1, w.w2, w.w3, w.w4, w.w5, w.w6, w.w7].flatMap fun u => bytesOf u 4
    let size := b.hqSize
    let base := b.hqBase
    let slot := base + 32 * (b.hqTail.toNat % 2 ^ size)
    let tail : BitVec 13 := BitVec.ofNat 13 ((b.hqTail.toNat + 1) % 2 ^ (size + 1))
    let out (t : State) (a : Nat) : Byte := Tbl.get t.core.hmem a 0
    let steward : Bool := match m with | .sprig g => isSteward g | _ => false
    let closing (k : BitVec 3) (y z : Chan) : Prop := z = if y.isOpen then { y with close := some (k, now) } else y
    let name : Option (BitVec 16 × Word) :=
      match p with
      | .sprig g => some (0, g.setWidth 32)
      | .bunch b => some (1, b.setWidth 32)
      | .posy k => some (2, k.setWidth 32)
      | .hostPair h => some (3, h.setWidth 32)
      | .ethPort k => some (4, k.setWidth 32)
      | .cxpConn k => some (5, k.setWidth 32)
      | .channel k => if k.toNat < 36 then some (6, k.setWidth 32) else none
      | .tlPort k => some (7, k.setWidth 32)
      | .remote d => some (8, d.setWidth 32)
      | .serdes _ => none
      | .core => none
    let since (t : DWord) : Prop := ∃ l r, c.quiesce = l ++ (p, t) :: r ∧ ∀ z, z ∈ l → z.1 ≠ p
    let ended (d : BitVec 16) (u : Word) : Prop := name = some (d, u) ∧ p ∉ c.power.inReset ∧ ∃ t, since t ∧ 80000 ≤ (now - t).toNat
    let logged (d : BitVec 16) (u : Word) : Core := c.log ⟨1, 0x0E, 0x0019, u, d, 0⟩
    let risen (t : State) : Prop := t.core.epochOf p = c.epochOf p + 1
    let left (c' : Core) : Core :=
      { c' with
        partEpoch := Tbl.set c'.partEpoch (partKey p) (Tbl.get c'.partEpoch (partKey p) 0 + 1) 0
        quiesce := c'.quiesce.filter fun z => decide (z.1 ≠ p) }
    let closes (y : Chan) (word1 : Word) : CardWords :=
      { w0 := 0x02300000#32 ||| (y.epoch.setWidth 32 <<< 8), w1 := word1, w2 := cause.setWidth 32, w3 := y.since, w4 := y.lastTag.setWidth 32
        w5 := t0.setWidth 32, w6 := (t0 >>> 32).setWidth 32, w7 := 0 }
    let owes (y : Chan) : Prop := y.close = some (cause, t0) ∧ y.out = none
    let not_ (y : Chan) : Prop := (∀ t1, y.close ≠ some (cause, t1)) ∨ y.out ≠ none ∨ y.credit < 1
    let leads (dest : Word) (card : Card) : Parcel :=
      if handleDev dest ≠ c.dev then .toRemote dest card false
      else if dest.getLsbD 22 then .toPosy (dest.setWidth 10) card else .toQueue (dest.setWidth 14) card false
    let spent (y : Chan) : Chan :=
      { y with
        credit := y.credit - 1, nextSeq := y.nextSeq + 1, owed := y.owed ++ [⟨y.nextSeq, y.serial, none⟩]
        close := none, isOpen := false, since := 0 }
    -- the log
    (b.sdel ≠ b.tail → 1 ≤ eng.credit → Runs (exec .errorCardSend s) fun t =>
      t.core.err = { b with sdel := b.sdel + 1 } ∧ (t.core.prod .errorEngine).credit = eng.credit - 1 ∧ t.core.mem = c.mem
      ∧ t.core.fly = c.fly ++ [⟨prodKey .errorEngine, queuePlace 7,
        .toQueue 7 { w := image b.sdel, route := .errorEngine, serial := eng.serial, seq := eng.nextSeq } false⟩])
    ∧ (b.sdel = b.tail ∨ eng.credit < 1 → exec .errorCardSend s = .next s)
    ∧ (let copies : Prop := b.hqEn = true ∧ b.hcopy ≠ b.tail ∧ b.hqFill < 2 ^ size
      (copies → Runs (exec .errHostCopy s) fun t =>
        t.core.err = { b with hcopy := b.hcopy + 1, hqTail := tail } ∧ t.core.mem = c.mem
        ∧ (∀ j, j < 32 → out t (slot + j) = ((bytes (image b.hcopy))[j]?).getD 0)
        ∧ (∀ j, j < 8 → out t (base + 32 * 2 ^ size + j) = ((tail.setWidth 64 : DWord) >>> (8 * j)).setWidth 8)
        ∧ ∀ a, (a < slot ∨ slot + 32 ≤ a) → (a < base + 32 * 2 ^ size ∨ base + 32 * 2 ^ size + 8 ≤ a) → out t a = Tbl.get c.hmem a 0)
      ∧ (¬copies → exec .errHostCopy s = .next s))
    ∧ (c.takes m steward = true → (a - b.ack).toNat ≤ (b.tail - b.ack).toNat → exec (.errLogAckWrite m v) s = .next (s.on { c with err := { b with ack := a } }))
    ∧ (c.takes m steward = true → (b.tail - b.ack).toNat < (a - b.ack).toNat → exec (.errLogAckWrite m v) s = .next s)
    ∧ (m = .sprig g → isSteward g = false → (c.sprig g).state ≠ .frozen → Runs (exec (.errLogAckWrite m v) s) fun t =>
      (t.core.sprig g).state = .frozen ∧ (t.core.sprig g).cause = 1 ∧ t.core.err.ack = b.ack)
    ∧ (∀ f, m = .host f → exec (.errLogAckWrite m v) s = .next s)
    ∧ (c.frozenMaster m = false → c.seesAll m = true → exec (.errLostRead m) s = .next (s.on { c with
        err := { b with lostCorrected := 0, lostOther := 0 }
        rdata := Tbl.set c.rdata (masterKey m) { value := b.lostCorrected ++ b.lostOther } {} }))
    ∧ (c.frozenMaster m = false → c.seesAll m = false → exec (.errLostRead m) s = .next (s.on { c with
        rdata := Tbl.set c.rdata (masterKey m) { value := 0 } {} }))
    ∧ (c.takes m true = true →
      let h : BitVec 13 := BitVec.ofNat 13 (v.toNat % 2 ^ (size + 1))
      let step := (h.toNat + 2 ^ (size + 1) - b.hqHead.toNat % 2 ^ (size + 1)) % 2 ^ (size + 1)
      (step ≤ b.hqFill → exec (.errHqHeadWrite m v) s = .next (s.on { c with err := { b with hqHead := h } }))
      ∧ (b.hqFill < step → exec (.errHqHeadWrite m v) s
        = .next (s.on (c.log ⟨0, masterSource m, 0x0007, masterNum m, 214, BitVec.ofNat 40 (regAt 0x0E 0x20)⟩))))
    ∧ (c.heads q { opc := 0x0700, who := .supervisors, minLen := 8, needs := true } x bs →
      let legal : Prop := (w 0).toNat ≤ 0xFFFF ∧ 1 ≤ (w 1).toNat ∧ (w 1).toNat ≤ 1024
      let held : List CardWords := (List.range 1024).filterMap fun k =>
        let i : BitVec 11 := b.tail - BitVec.ofNat 11 (1024 - k)
        (Tbl.get b.ring (i.toNat % 1024) none).bind fun en => if (en.seq - (w 0).setWidth 16).toNat < 0x8000 then some (image i) else none
      let es := (held.take (w 1).toNat).take (x.outLen / 32)
      (¬legal → exec (.errRead q) s = .next (s.on (c.answerCmd q ⟨0x0101, []⟩)))
      ∧ (legal → es = [] → exec (.errRead q) s = .next (s.on (c.answerCmd q ⟨0, [0, 0, 0, 0, 0, 0, 0]⟩)))
      ∧ (∀ h, legal → es ≠ [] → q = .pair h → c.busMaster (c.cmdFunc h) = true → exec (.errRead q) s
        = .next (s.on ((c.hostWrite x.outAddr (es.flatMap bytes)).answerCmd q ⟨0, [BitVec.ofNat 32 es.length, 0, 0, 0, 0, 0, BitVec.ofNat 32 (32 * es.length)]⟩)))
      ∧ (∀ h, legal → es ≠ [] → q = .pair h → c.busMaster (c.cmdFunc h) = false → exec (.errRead q) s = .next (s.on (c.answerCmd q ⟨0x0103, []⟩))))
    -- QUIESCE
    ∧ (name ≠ none → (∀ z, z ∈ c.quiesce → z.1 ≠ p) → Runs (exec (.quiesce p) s) fun t => t.core.quiesce = c.quiesce ++ [(p, now)] ∧ t.core.mem = c.mem
      ∧ (p = .sprig g → closing 2 (c.chan g n) (t.core.chan g n))
      ∧ (p = .bunch (bunchOf g) → closing 3 (c.chan g n) (t.core.chan g n))
      ∧ (∀ h, p = .hostPair h → closing 5 (c.hchan h) (t.core.hchan h)))
    ∧ (name ≠ none → (∃ z, z ∈ c.quiesce ∧ z.1 = p) → exec (.quiesce p) s = .next s)
    ∧ (name = none → exec (.quiesce p) s = .fault .illFormed)
    ∧ (∀ d u, ended d u →
      (p = .sprig g → Runs (exec (.quiesceCut p) s) fun t => t.core = ((logged d u).resetSprigNow g).answerReset g ⟨0, []⟩
        ∧ t.core.sprig g = Sprig.reset ∧ t.core.quiet p = false ∧ risen t)
      ∧ (∀ b, p = .bunch b → Runs (exec (.quiesceCut p) s) fun t => p ∈ t.core.power.inReset ∧ t.core.quiet p = true ∧ risen t
        ∧ Tbl.get t.core.err.dfrz b.toNat 0 = 0 ∧ (t.core.bic b).thresh = (c.bic b).thresh ∧ (t.core.dma b).queue = []
        ∧ (∀ g, bunchOf g = b → t.core.sprig g = Sprig.reset) ∧ ∀ l : BitVec 2, (t.core.lease b l).st = .free)
      ∧ (∀ k, p = .posy k → exec (.quiesceCut p) s = .next (s.on (left (logged d u))))
      ∧ (∀ h, p = .hostPair h → c.isCmdPair h = false → exec (.quiesceCut p) s = .next (s.on (left (if pairEn (c.pairCfg h) then (logged d u).setHqp h Hqp.reset
          else { ((logged d u).setHqp h Hqp.reset) with cmdPairs := c.cmdPairs.erase h }))))
      ∧ (∀ h, p = .hostPair h → c.isCmdPair h = true → Runs (exec (.quiesceCut p) s) fun t =>
        t.core.quiet p = false ∧ t.core.hqp h = Hqp.reset ∧ t.core.cmdsOf (.pair (h.setWidth 7)) = [] ∧ risen t)
      ∧ (∀ k, p = .ethPort k → Runs (exec (.quiesceCut p) s) fun t => t.core.eth k = Eth.reset ∧ p ∈ t.core.power.inReset ∧ risen t
        ∧ (t.core.unit (0x100 + k.setWidth 16)).queue = [] ∧ (t.core.unit (0x100 + k.setWidth 16)).tail = 0 ∧ t.core.mem = c.mem)
      ∧ (∀ k, p = .cxpConn k → Runs (exec (.quiesceCut p) s) fun t => t.core.cxp k = Cxp.reset ∧ p ∈ t.core.power.inReset ∧ risen t
        ∧ (t.core.unit (0x110 + k.setWidth 16)).queue = [] ∧ (t.core.unit (0x110 + k.setWidth 16)).tail = 0 ∧ t.core.mem = c.mem)
      ∧ (∀ k, p = .channel k → Runs (exec (.quiesceCut p) s) fun t =>
        p ∈ t.core.power.inReset ∧ t.core.gdc k.toNat = { Gdc.reset with zero := (c.gdc k.toNat).zero } ∧ t.core.quiet p = true ∧ risen t
        ∧ ∀ a, a < 0x2000000000 → t.core.byte a = c.byte a)
      ∧ (∀ k, p = .tlPort k → Runs (exec (.quiesceCut p) s) fun t => t.core.tlPort k = TlPort.reset ∧ p ∈ t.core.power.inReset ∧ risen t)
      ∧ (∀ k, p = .remote k → Runs (exec (.quiesceCut p) s) fun t => (t.core.peer k).st = .lost ∧ t.core.quiet p = false ∧ risen t))
    ∧ (since t0 → (now - t0).toNat < 80000 → exec (.quiesceCut p) s = .next s)
    ∧ ((∀ z, z ∈ c.quiesce → z.1 ≠ p) ∨ p ∈ c.power.inReset → exec (.quiesceCut p) s = .next s)
    ∧ (let drained : Prop := let y := c.sprig g
        y.buf = [] ∧ y.farLoad = none ∧ y.farStore = none ∧ y.atomics = [] ∧ y.dealsOut = 0 ∧ y.fill = none ∧ y.div = none
      (p = .sprig g → c.quiet p = true → drained → Runs (exec (.quiesceDrained g) s) fun t =>
        t.core = (c.resetSprigNow g).answerReset g ⟨0, []⟩ ∧ t.core.sprig g = Sprig.reset ∧ t.core.quiet p = false ∧ risen t)
      ∧ (p = .sprig g → c.quiet p = false ∨ ¬drained → exec (.quiesceDrained g) s = .next s))
    -- close cards
    ∧ (let y := c.chan g n
      let me : Producer := .chan c.dev g n
      let dest := c.shandle g n
      let toPair : Bool := decide (((c.scfg g n) >>> 29).setWidth 2 = 1#2)
      let card : Card := { w := closes y ((c.dev.setWidth 32 <<< 23) ||| (g.setWidth 32 <<< 11) ||| (n.setWidth 32 <<< 7)), route := me
                           serial := y.serial, seq := y.nextSeq }
      let sends (m : Parcel) : Out := .next (s.on ((c.setChan g n (spent y)).launch (prodKey me) m))
      let ready : Prop := owes y ∧ 1 ≤ y.credit ∧ c.outboundBusy me dest = false
      (ready → toPair = true → exec (.closeCard me cause) s = sends (.toPair (dest.setWidth 8) card))
      ∧ (ready → toPair = false → c.handleHeld dest = false → exec (.closeCard me cause) s = sends (leads dest card))
      ∧ (ready → toPair = false → c.handleHeld dest = true → exec (.closeCard me cause) s
        = .next (s.on (c.setChan g n { spent y with out := some card })))
      ∧ (not_ y ∨ c.outboundBusy me dest = true → exec (.closeCard me cause) s = .next s))
    ∧ (∀ h : BitVec 8,
      let y := c.hchan h
      let dest := c.hqpReg h 0x0C
      let card : Card := { w := closes y ((c.dev.setWidth 32 <<< 23) ||| 0x00400000#32 ||| (h.setWidth 32 <<< 11)), route := .hostPair h
                           serial := y.serial, seq := y.nextSeq }
      (owes y → 1 ≤ y.credit → c.handleHeld dest = false → exec (.closeCard (.hostPair h) cause) s
        = .next (s.on ((c.setHchan h (spent y)).launch (prodKey (.hostPair h)) (leads dest card))))
      ∧ (not_ y ∨ c.handleHeld dest = true → exec (.closeCard (.hostPair h) cause) s = .next s))
    ∧ (∀ d k w1, d ≠ c.dev → c.importStream (.chan d g n) = k → owes k → c.importWord (.chan d g n) = some w1 →
      let epoch : Byte := if w1.getLsbD 27 then 0 else (c.queue (w1.setWidth 14)).epoch
      let words := closes k ((d.setWidth 32 <<< 23) ||| (g.setWidth 32 <<< 11) ||| (n.setWidth 32 <<< 7))
      let card : Card := { w := { words with w0 := 0x02300000#32 ||| (epoch.setWidth 32 <<< 8) }, route := .chan d g n
                           serial := Tbl.get c.impSerial (d.toNat * 0x10000 + chanKey g n) 0, mute := true }
      exec (.closeCard (.chan d g n) cause) s = .next (s.on ((c.setImport (.chan d g n) { k with close := none, isOpen := false, since := 0 }).launch
        (prodKey (.chan d g n)) (if w1.getLsbD 27 then .toPosy (w1.setWidth 10) card else .toQueue (w1.setWidth 14) card false))))
    -- errors of a unit
    ∧ (name ≠ none → p ≠ .bunch 0 → c.quiet p = false → Runs (exec (.unitFatal p e) s) fun t =>
      t.core.quiesce = c.quiesce ++ [(p, now)] ∧ t.core.err = (c.log { e with cls := 2 }).err ∧ t.core.mem = c.mem)
    ∧ (name ≠ none → p ≠ .bunch 0 → c.quiet p = true → exec (.unitFatal p e) s = .next (s.on (c.log { e with cls := 2 })))
    ∧ (p = .bunch 0 → exec (.unitFatal p e) s = .next (s.on { (c.log { e with cls := 3 }) with fatal := some { e with cls := 3 } }))
    ∧ (name = none → exec (.unitFatal p e) s = .fault .illFormed)

/-! ### Reset -/

/-- R224, R298, R380, R395 to R403, R427, R496: what each reset source resets and what stands: a power-on reset takes the straps and clears memory and
everything but flash and the fuses; a reset of the core domain keeps GDDR6, the fuses, the island and the always-on domain, counts itself and
sets its cause; the watchdog, RST_UNIT, RST_XSTAT, the release, crossings, a stopped clock's wake, the loss of a SerDes group's PLL and a
function level reset. It rests on the model's choices of log entries 46, 47 too. -/
def Obligations.ResetSources : Prop :=
  ∀ (s : State) (m : Master) (v : Word) (d : DeviceId) (ns : Nat) (e : ErrInfo) (p : Part) (f : FuncId) (g : SprigId) (ev : BitVec 3) (k : BitVec 6)
      (i : Byte) (sg : BitVec 3) (b : Bool),
    let c := s.core
    let now := c.time.dtime
    let up : Prop := c.power.coreReset = false ∧ c.aon.power = .run
    let priv : Prop := c.takes m (c.privileged m) = true
    let counted (a : Aon) (cause : Nat) : Aon :=
      { a with
        inc := a.inc + 1, count := if a.count = 0xFF then 0xFF else a.count + 1
        causes := a.causes ||| (1#4 <<< (cause - 1)) }
    let resets (a : Aon) (cause : Nat) (t : State) : Prop :=
      t.sec = s.sec ∧ t.isl = s.isl ∧ t.core.power = { coreReset := true, porst := false } ∧ t.core.aon = counted a cause
      ∧ (∀ a, a < 0x2000000000 → t.core.byte a = c.byte a) ∧ (∀ a, 0x2000000000 ≤ a → t.core.byte a = 0)
      ∧ t.core.hmem = c.hmem ∧ t.core.dev = c.dev ∧ t.core.sprigs = [] ∧ t.core.queues = [] ∧ t.core.chans = [] ∧ t.core.fly = [] ∧ t.core.cmds = []
      ∧ t.core.quiesce = [] ∧ t.core.err = {} ∧ t.core.regs = [] ∧ t.core.boot = {}
      ∧ t.core.cfg = c.cfg.filter (fun z => decide (z.1 = 0x01000001 ∨ z.1 = 0x01000002))
      ∧ t.core.epochOf .core = c.epochOf .core + 1
      ∧ (c.time.running = true → t.core.time = { c.time with
          running := false, sleepDt := c.aon.copy, dtime := c.aon.copy, uncertStop := c.time.uncert, aonStop := c.aon.ticks, frac := 0, unplanned := true })
      ∧ (∀ j, j < 36 → t.core.gdc j = { Gdc.reset with zero := (c.gdc j).zero })
      ∧ t.core.store.gen = c.store.gen ∧ (c.boot.phase = .handedOver → t.core.store.kept = c.cfg) ∧ t.core.store.isolated = false
      ∧ ∀ z, z ∈ c.hands → z.2.sys = none → (z.2.st = .pending ∨ z.2.st = .draining) →
        ∃ h, (z.1, h) ∈ t.core.hands ∧ h.st = .failed ∧ h.status = 0x0501 ∧ h.entries = [] ∧ h.serial = z.2.serial
    let blank (t : State) (d : DeviceId) : Prop :=
      t.core.power = { coreReset := true } ∧ t.core.dev = d ∧ t.core.mem = [] ∧ t.core.ecc = [] ∧ t.core.sprigs = [] ∧ t.core.queues = [] ∧ t.core.fly = []
      ∧ t.core.cfg = [] ∧ t.core.regs = [] ∧ t.core.err = {} ∧ t.core.boot = {} ∧ t.core.hands = [] ∧ t.core.quiesce = []
      ∧ t.core.aon = { strapId := d, power := .starting, pwrEn := true, pgood := false, tries := 1, back := .off }
      ∧ t.core.time = { running := false } ∧ t.core.hmem = c.hmem ∧ t.sec = s.sec ∧ t.core.store.flash = c.store.flash
      ∧ t.core.store.gen = (if c.store.flashGen = 0 then 1 else c.store.flashGen) ∧ t.core.store.kept = c.store.flash
      ∧ t.isl = (if s.isl.enabled then s.isl.enterReset else s.isl)
    let lost (t : State) (a : Aon) : Prop := t.core.power = { coreReset := true, porst := false } ∧ t.core.aon = a ∧ (∀ a, t.core.byte a = 0)
      ∧ t.core.sprigs = [] ∧ t.core.fly = [] ∧ t.core.hmem = c.hmem ∧ ∀ j, j < 36 → (t.core.gdc j).zero = true
    let unit : Option Part :=
      let n := (v.setWidth 6 : BitVec 6).toNat
      match ((v >>> 28).setWidth 3 : BitVec 3) with
      | 0 => if n = 0 then none else some (.bunch (v.setWidth 6))
      | 1 => if n < 8 then some (.ethPort (v.setWidth 3)) else none
      | 2 => if n < 16 then some (.cxpConn (v.setWidth 4)) else none
      | 3 => if n < 4 then some (.tlPort (v.setWidth 2)) else none
      | 4 => if n < 36 then some (.channel (v.setWidth 6)) else none
      | _ => none
    let parts : List Part :=
      match sg with
      | 0 => []
      | 1 => [.ethPort 0, .ethPort 1, .ethPort 2, .ethPort 3]
      | 2 => [.ethPort 4, .ethPort 5, .ethPort 6, .ethPort 7]
      | 3 => (List.range 16).map fun x => .cxpConn (BitVec.ofNat 4 x)
      | n => [.tlPort (BitVec.ofNat 2 (n.toNat - 4))]
    let dipped : Aon := { c.aon with brown := true, inDip := false, dipOut := if c.aon.inDip then BitVec.allOnes 64 else c.aon.dipOut }
    let preserved : ErrInfo × DWord × BitVec 16 × BitVec 16 :=
      ({ e with cls := 3 }, now, c.err.seq, if c.aon.fatal.isSome then 1 else BitVec.ofNat 16 (min c.err.lostSince 0xFFFF))
    let x := c.crossing g ev
    let y := c.sprig g
    let latched (on : Bool) : Out := .next (s.on ((c.setCrossing g ev LatchX.reset).setSprig g { y with page := { y.page with
        latch := if on then y.page.latch ||| (1#8 <<< ev.toNat) else y.page.latch &&& ~~~(1#8 <<< ev.toNat) } }))
    -- power-on
    (Runs (exec (.porstN d) s) fun t => blank t d)
    ∧ (Runs (exec .vauxLoss s) fun t => blank t c.aon.strapId)
    -- pins, supplies, the watchdog and DEVICE_FATAL
    ∧ (up → 1000 ≤ ns → Runs (exec (.sysrstN ns) s) (resets c.aon 1))
    ∧ (ns < 100 ∨ c.aon.power = .off → exec (.sysrstN ns) s = .next s)
    ∧ (c.aon.power = .standby ∨ c.aon.power = .watch → 1000 ≤ ns → c.power.coreReset = false → Runs (exec (.sysrstN ns) s) fun t =>
      t.core.power.coreReset = true ∧ t.core.aon = { counted c.aon 1 with power := .starting, pwrEn := true, pgood := false, tries := 1, back := c.aon.power })
    ∧ (c.power.coreReset = true → c.aon.power = .run → 1000 ≤ ns → exec (.sysrstN ns) s
        = .next (s.on { c with aon := { c.aon with causes := c.aon.causes ||| 1 } }))
    ∧ (up → Runs (exec (.brownout false) s) (resets dipped 3))
    ∧ (up → Runs (exec (.brownout true) s) fun t => lost t { counted dipped 3 with
        power := .starting, pwrEn := false, pgood := false, pgfail := true, tries := 0, back := .off })
    ∧ (c.aon.power = .off → exec (.brownout b) s = .next s)
    ∧ (c.aon.power = .standby ∨ c.aon.power = .watch → c.power.coreReset = false → Runs (exec .input48vLoss s) fun t => lost t { c.aon with
        power := .off, pwrEn := false, pgood := false, entry := c.aon.ticks } ∧ t.isl = (if s.isl.enabled then s.isl.enterReset else s.isl))
    ∧ (c.aon.power = .run ∨ c.aon.power = .off ∨ c.aon.power = .starting → exec .input48vLoss s = .next s)
    ∧ (let due : Prop := c.power.wdogEn = true ∧ up ∧ c.power.wdogMs.toNat * 32768 ≤ (c.aon.ticks - c.power.wdogAt).toNat * 1000
      (due → Runs (exec .watchdogExpiry s) (resets c.aon 2))
      ∧ (¬due → exec .watchdogExpiry s = .next s))
    ∧ (up → c.fatal = none → c.err.takes 3 = true → Runs (exec (.deviceFatal e) s) (resets { c.aon with fatal := some preserved } 4))
    ∧ (c.power.coreReset = true → exec (.deviceFatal e) s = .next s)
    -- the RST block
    ∧ (priv → v.setWidth 16 = (0xC1A0 : BitVec 16) → exec (.rstWdogKick m v) s = .next (s.on { c with power := { c.power with wdogAt := c.aon.ticks } }))
    ∧ (priv → up → v.setWidth 16 ≠ (0xC1A0 : BitVec 16) → Runs (exec (.rstWdogKick m v) s) (resets c.aon 2))
    ∧ (priv → v.getLsbD 31 = true → unit = some p → c.quiet p = false → Runs (exec (.rstUnit m v) s) fun t =>
      t.core.quiesce = c.quiesce ++ [(p, now)] ∧ t.core.mem = c.mem ∧ t.core.power = c.power)
    ∧ (priv → v.getLsbD 31 = true → unit = some p → c.quiet p = true → exec (.rstUnit m v) s = .next s)
    ∧ (priv → v.getLsbD 31 = true → unit = none → exec (.rstUnit m v) s
        = .next (s.on (c.log ⟨0, masterSource m, 0x0007, masterNum m, 404, BitVec.ofNat 40 (regAt 0x03 0x20)⟩)))
    ∧ (priv → v.getLsbD 31 = false → exec (.rstUnit m v) s = .next s)
    ∧ (c.frozenMaster m = false → c.seesAll m = true → exec (.rstXstatRead m) s = .next (s.on { c with
        power := { c.power with xstat := 0 }, rdata := Tbl.set c.rdata (masterKey m) { value := c.power.xstat.setWidth 32 } {} }))
    -- leaving reset
    ∧ (let there : Prop := c.power.coreReset = true ∧ c.time.running = true ∧ c.aon.power = .run ∧ c.aon.pgood = true
      (there → exec (.resetRelease .core) s = .next (s.on { c with power := { c.power with coreReset := false, wdogAt := c.aon.ticks } }))
      ∧ (¬there → exec (.resetRelease .core) s = .next s))
    ∧ (p ≠ .core → p ∈ c.power.inReset → exec (.resetRelease p) s = .next (s.on { c with
        power := { c.power with inReset := c.power.inReset.filter fun z => decide (z ≠ p) }
        quiesce := c.quiesce.filter fun z => decide (z.1 ≠ p) }))
    ∧ (p ≠ .core → p ∉ c.power.inReset → exec (.resetRelease p) s = .next s)
    -- crossings and clocks
    ∧ (let more : Out := .next (s.on { c with power := { c.power with xstat := if c.power.xstat = 0xFFFF then 0xFFFF else c.power.xstat + 1 } })
      exec (.crossingResync (.dcq i) b) s = more ∧ exec (.crossingResync (.svf i) b) s = more)
    ∧ (exec (.crossingResync (.eventLatch g ev) true) s = latched false)
    ∧ (x.again = true → exec (.crossingResync (.eventLatch g ev) false) s = latched true)
    ∧ (x.again = false → exec (.crossingResync (.eventLatch g ev) false) s = .next (s.on (c.setCrossing g ev LatchX.reset)))
    ∧ (up → k.toNat < 36 → (c.gdc k.toNat).st = .selfref → exec (.asyncWake (.mem k)) s
        = .next (s.on (c.setGdc k.toNat { c.gdc k.toNat with st := .ready })))
    ∧ (36 ≤ k.toNat ∨ (c.gdc k.toNat).st ≠ .selfref ∨ ¬up → exec (.asyncWake (.mem k)) s = .next s)
    ∧ (exec (.asyncWake .time) s = exec .dtimeReload s)
    ∧ (∀ w, (∃ n, w = .eth n) ∨ (∃ n, w = .tl n) ∨ w = .cxp ∨ w = .pcie → exec (.asyncWake w) s = .next s)
    ∧ (c.quiet (.serdes sg) = false → (∀ z, z ∈ parts → c.quiet z = false) → Runs (exec (.serdesPllLoss sg) s) fun t =>
      t.core.quiesce = c.quiesce ++ (Part.serdes sg :: parts).map (fun z => (z, now)) ∧ t.core.mem = c.mem
      ∧ t.core.err = (c.log ⟨2, 0x0E, Config.pllCode, sg.setWidth 32, 0, 0⟩).err)
    -- functions
    ∧ (Runs (exec (.functionLevelReset f) s) fun t =>
      t.core.hic = { c.hic with
        active := c.hic.active.filter fun z => decide (z.2 ≠ some f)
        unmasked := c.hic.unmasked.filter fun z => decide (z.1 / 2048 ≠ f.toNat)
        pba := c.hic.pba.filter fun z => decide (z.1 / 2048 ≠ f.toNat)
        fmask := Tbl.set c.hic.fmask f.toNat false false, bme := Tbl.set c.hic.bme f.toNat false false
        vfe := if f = 0 then false else c.hic.vfe }
      ∧ (∀ h, pairEn (c.pairCfg h) = true → pairFunc (c.pairCfg h) = f → t.core.quiet (.hostPair h) = true
        ∧ (c.quiet (.hostPair h) = false → (c.hchan h).isOpen = true → (t.core.hchan h).close = some (5, now)))
      ∧ Tbl.get t.core.err.ffrz f.toNat 0 = 0 ∧ t.core.mem = c.mem
      ∧ ∀ z, z ∈ c.hands → z.2.st = .open → z.2.owner = .func f → ∃ h, (z.1, h) ∈ t.core.hands ∧ h.st = .folded ∧ h.entries = [] ∧ h.serial = z.2.serial)

/-- R404: RST_WDOG, RST_WDOG_KICK and RST_UNIT take the writes of Steward sprigs and of supervisor functions; a write by any other sprig is a PERM
violation, which freezes it, and one by any other function is ignored. RST_CAUSE counts the core's resets, holds their causes and PORST, and
clears what is written 1; a TIMEOUT below 10 and a unit that is reserved, out of range or bunch 0 are ignored with an entry; RST_XSTAT returns its
count and clears it. -/
def Obligations.ResetRegisterWriters : Prop :=
  ∀ (s : State) (m : Master) (v : Word) (p : Part) (ns : Nat) (d : DeviceId),
    let c := s.core
    let w := c.power
    let others : List Instr := [.registerWrite m 0x6000300010 v, .rstWdogKick m v, .rstUnit m v]
    let may : Prop := (∃ g, m = .sprig g ∧ isSteward g = true) ∨ ∃ f, m = .host f ∧ c.supervisor m = true ∧ c.frozenMaster m = false
    let ignored (off : Nat) : Out := .next (s.on (c.log ⟨0, masterSource m, 0x0007, masterNum m, 404, BitVec.ofNat 40 (0x6000300000 + off)⟩))
    let reads (a : Addr) (z : Word) : Prop := Runs (exec (.lowWordRead m a) s) fun t => t.core.rdata = Tbl.set c.rdata (masterKey m) { value := z } {}
      ∧ t.core.power = w ∧ t.core.aon = c.aon
    let bit (b : Bool) (n : Nat) : Word := if b then 1#32 <<< n else 0
    let kind : BitVec 3 := (v >>> 28).setWidth 3
    let n : Nat := (v.setWidth 6 : BitVec 6).toNat
    let names : Prop := (kind = 0 ∧ n ≠ 0 ∧ p = .bunch (v.setWidth 6)) ∨ (kind = 1 ∧ n < 8 ∧ p = .ethPort (v.setWidth 3))
      ∨ (kind = 2 ∧ n < 16 ∧ p = .cxpConn (v.setWidth 4)) ∨ (kind = 3 ∧ n < 4 ∧ p = .tlPort (v.setWidth 2)) ∨ (kind = 4 ∧ n < 36 ∧ p = .channel (v.setWidth 6))
    let nothing : Prop := (kind = 0 ∧ n = 0) ∨ (kind = 1 ∧ 8 ≤ n) ∨ (kind = 2 ∧ 16 ≤ n) ∨ (kind = 3 ∧ 4 ≤ n) ∨ (kind = 4 ∧ 36 ≤ n) ∨ 5 ≤ kind.toNat
    -- who may write
    (may → 10 ≤ (v.setWidth 16 : BitVec 16).toNat → exec (.registerWrite m 0x6000300010 v) s = .next (s.on { c with power := { w with
      wdogEn := w.wdogEn || v.getLsbD 31, wdogMs := v.setWidth 16
      wdogAt := if v.getLsbD 31 && !w.wdogEn then c.aon.ticks else w.wdogAt } }))
    ∧ (may → (v.setWidth 16 : BitVec 16).toNat < 10 → exec (.registerWrite m 0x6000300010 v) s = ignored 0x10)
    ∧ (may → v.setWidth 16 = (0xC1A0 : BitVec 16) →
      exec (.rstWdogKick m v) s = .next (s.on { c with power := { w with wdogAt := c.aon.ticks } }))
    ∧ (may → v.setWidth 16 ≠ (0xC1A0 : BitVec 16) → w.coreReset = false → c.aon.power = .run → Runs (exec (.rstWdogKick m v) s) fun t =>
      t.core.power.coreReset = true ∧ t.core.aon.causes = c.aon.causes ||| 2)
    ∧ (may → v.getLsbD 31 = true → names → c.quiet p = false → Runs (exec (.rstUnit m v) s) fun t =>
      t.core.quiesce = c.quiesce ++ [(p, c.time.dtime)])
    ∧ (may → v.getLsbD 31 = true → names → c.quiet p = true → exec (.rstUnit m v) s = .next s)
    ∧ (may → v.getLsbD 31 = true → nothing → exec (.rstUnit m v) s = ignored 0x20)
    ∧ (may → v.getLsbD 31 = false → exec (.rstUnit m v) s = .next s)
    ∧ (∀ i ∈ others, ∀ g, m = .sprig g → isSteward g = false → (c.sprig g).state ≠ .frozen → Runs (exec i s) fun t =>
      (t.core.sprig g).state = .frozen ∧ (t.core.sprig g).cause = causePerm ∧ t.core.power = c.power ∧ t.core.quiesce = c.quiesce ∧ t.core.aon = c.aon)
    ∧ (∀ i ∈ others, ∀ f, m = .host f → c.supervisor m = false → exec i s = .next s)
    -- what the registers hold
    ∧ (may → reads 0x6000300000 ((c.aon.count.setWidth 32 <<< 24) ||| (c.aon.causes.setWidth 32 <<< 1) ||| bit w.porst 0))
    ∧ (may → reads 0x6000300010 (bit w.wdogEn 31 ||| w.wdogMs.setWidth 32))
    ∧ (may → reads 0x6000300014 0 ∧ reads 0x6000300020 0)
    ∧ (may → exec (.registerWrite m 0x6000300000 v) s = .next (s.on { c with
        aon := { c.aon with causes := c.aon.causes &&& ~~~((v >>> 1).setWidth 4) }, power := { w with porst := w.porst && !v.getLsbD 0 } }))
    ∧ (may → exec (.rstXstatRead m) s = .next (s.on { c with
        power := { w with xstat := 0 }, rdata := Tbl.set c.rdata (masterKey m) { value := w.xstat.setWidth 32 } {} }))
    ∧ (Runs (exec (.porstN d) s) fun t => t.core.power.porst = true ∧ t.core.aon.causes = 0 ∧ t.core.aon.count = 0
      ∧ t.core.power.wdogEn = false ∧ t.core.power.wdogMs = 0x03E8 ∧ t.core.power.xstat = 0)
    ∧ (w.coreReset = false → c.aon.power = .run → 1000 ≤ ns → Runs (exec (.sysrstN ns) s) fun t => t.core.power.porst = false
      ∧ t.core.aon.causes = c.aon.causes ||| 1 ∧ t.core.aon.count = (if c.aon.count = 0xFF then 0xFF else c.aon.count + 1)
      ∧ t.core.power.wdogEn = false ∧ t.core.power.wdogMs = 0x03E8)
    ∧ (c.aon.power ≠ .run → exec .watchdogExpiry s = .next s)

/-! ### Boot -/

/-- R456 to R461, R418: the ROM samples BOOT_SEL; a RETIRED device stops; a mode that a fuse disables is recorded, and mode 00 follows. Mode
00 gives up a TRIED slot, boots a STAGED one on trial, then the ACTIVE, then the PREVIOUS; a slot that fails leaves its entry; with nothing
bootable serial recovery follows unless RECOV_DIS is set. Modes 01 and 10 clear the staging area and wait, mode 10 behind four ports and
window 0; a go record's bundle that fails halts the ROM. Serial recovery answers each frame by its CRC. What was accepted is handed over once
GDDR6 is there. RESUME runs the Steward again from its record; on a mismatch the core starts as after SYSRST_N. The layout of the record's
digest is the model's (log entry 49). It rests on the model's choices of log entry 50 too. -/
def Obligations.BootSources : Prop :=
  ∀ (s : State) (sel : BitVec 2) (n : Nat) (data : List Byte) (crc : Word) (r : ResumeRec) (l : List Component) (a : Nat),
    let c := s.core
    let boot (t : State) (f : Boot → Boot) : State := t.on { t.core with boot := f t.core.boot }
    let failing (t : State) (code : Byte) (i : Nat) : State := boot t fun b => { b with fail := code, comp := BitVec.ofNat 8 i }
    let logged (t : State) (code detail : BitVec 16) : State := t.on (t.core.log ⟨1, 0x11, code, 0, detail, 0⟩)
    let prints (t : State) (bs : List Byte) : State := t.on { t.core with mon := { t.core.mon with answer := some (.text bs) } }
    let settled (t : State) : Bool := (List.range 36).all fun k => match (t.core.gdc k).st with
      | .init => false
      | .selfref => false
      | _ => true
    -- a bundle: checked, and on the way to being loaded
    let attempt (t : State) (slot : BitVec 2) (trial : Bool) (bs : List Byte) : State × Bool :=
      match t.sec.checkBundle bs with
      | .error (i, code) =>
        let t := failing t (BitVec.ofNat 8 code) i
        (if slot = 2 then t else logged t 0x0110 (BitVec.ofNat 16 (256 * i + code)), false)
      | .ok (l, dropped) =>
        let t := match dropped with
          | none => t
          | some (i, code) => logged (failing t (BitVec.ofNat 8 code) i) 0x0015 0
        (boot t fun b => { b with
          phase := .load, slot := slot, trial := trial, bundle := bs, comps := l.map fun x => ⟨x.kind, x.rbi, x.version, x.digest⟩
          patched := l.any fun x => decide (x.kind = 3) }, true)
    let loaded (t : State) : State := if settled t then t.handOver else t
    -- serial recovery
    let recovers (t : State) : State :=
      prints (t.on { t.core with
        boot := { t.core.boot with phase := .recovery, expect := none, got := [] }, mon := { t.core.mon with recovery := true } })
        (ascii ['M', 'Q', 'M', '-', '2', '0', '4', '8', ' ', 'r', 'e', 'c', 'o', 'v', 'e', 'r', 'y', ' '] ++ hexNumber t.sec.serial 8)
    -- the flash slots, slot A before slot B
    let found (t : State) (st : SlotState) : Option (BitVec 2) :=
      if t.sec.slotA.st = st then some 0 else if t.sec.slotB.st = st then some 1 else none
    let bytes (t : State) (k : BitVec 2) : List Byte :=
      if k = 0 then t.sec.slotA.bytes.take t.sec.slotA.length else t.sec.slotB.bytes.take t.sec.slotB.length
    let marked (t : State) (k : BitVec 2) (st : SlotState) : State :=
      { t with sec := if k = 0 then { t.sec with slotA := { t.sec.slotA with st := st } } else { t.sec with slotB := { t.sec.slotB with st := st } } }
    let reverted (t : State) : State := match found t .tried with
      | none => t
      | some k => logged (marked t k .empty) 0x0113 (k.setWidth 16)
    let onTrial (t : State) : State × Bool := match found t .staged with
      | none => (t, false)
      | some k =>
        let u := attempt (marked t k .tried) k true (bytes (marked t k .tried) k)
        if u.2 then u else (marked u.1 k .empty, false)
    let plain (t : State × Bool) (st : SlotState) : State × Bool :=
      if t.2 then t else match found t.1 st with
      | none => (t.1, false)
      | some k => attempt t.1 k false (bytes t.1 k)
    let flash (t : State) : State :=
      let u := plain (plain (onTrial (reverted t)) .active) .previous
      if u.2 then loaded u.1
      else
        let f := failing u.1 8 0xFF
        if u.1.sec.recovDis then boot f fun b => { b with phase := .failed } else recovers f
    -- the loaders
    let cleared : Core := { c with
      mem := c.mem.filter fun e => !(decide (0x01000000 ≤ e.1) && decide (e.1 < 0x02000000))
      ecc := c.ecc.filter fun e => !(decide (0x01000000 ≤ 8 * e.1) && decide (8 * e.1 < 0x02000000)) }
    let ports : List (Nat × Word) := [(sid 0x10 0, 0x80000000#32), (sid 0x10 0x40000, 0x80000000#32), (sid 0x10 0x80000, 0x80000000#32),
      (sid 0x10 0xC0000, 0x80000000#32), (sid 0x10 0x21100, 0xA00001FF#32), (sid 0x10 0x21104, 0x1000#32), (sid 0x10 0x21108, 0x1000#32)]
    let waits (d : Core) : State := s.on { d with boot := { c.boot with strap := sel, src := sel, phase := .waitLoader } }
    let fromLoader (t : State) (bs : List Byte) : State :=
      let u := attempt (t.on { t.core with mon := { t.core.mon with recovery := false } }) 2 false bs
      if u.2 then loaded u.1 else boot u.1 fun b => { b with phase := .failed }
    let rom : Prop := c.running = true ∧ c.boot.phase = .rom
    let starts : Prop := rom ∧ s.sec.life ≠ .retired
    let off : Prop := (sel = 1 ∧ s.sec.bootDis.getLsbD 0 = true) ∨ (sel = 2 ∧ s.sec.bootDis.getLsbD 1 = true)
      ∨ (sel = 3 ∧ (s.sec.bootDis.getLsbD 2 = true ∨ s.sec.recovDis = true))
    let go (n : Nat) : Prop := c.word 0x01FFFFC0 = 0x4F47514D ∧ (c.word 0x01FFFFC4).toNat = n ∧ c.word 0x01FFFFC8 = 0 ∧ c.word 0x01FFFFCC = 0 ∧ n ≤ 16777152
    let got : List Byte := c.boot.got ++ data
    let record : Prop := c.aon.resume = some (Config.sha3 r.image) ∧ parseBundle r.bundle = .ok l
      ∧ ((if r.patched then l else l.filter fun x => decide (x.kind ≠ 3)).map fun x => (⟨x.kind, x.rbi, x.version, x.digest⟩ : Comp)) = r.comps
    let resumes : Prop := c.running = true ∧ c.time.running = true ∧ c.boot.phase = .handedOver ∧ c.boot.steward = false ∧ settled s = true
    (rom → s.sec.life = .retired → exec (.bootRom sel) s
        = .next (boot s fun b => { b with strap := sel, phase := .failed, fail := 10, comp := 0xFF }))
    ∧ (starts → off → exec (.bootRom sel) s = .next (flash (boot s fun b => { b with strap := sel, src := 0, fail := 7, comp := 0xFF })))
    ∧ (starts → sel = 0 → exec (.bootRom sel) s = .next (flash (boot s fun b => { b with strap := 0, src := 0 })))
    ∧ (starts → sel = 3 → ¬off → exec (.bootRom sel) s = .next (recovers (boot s fun b => { b with strap := 3, src := 3 })))
    ∧ (starts → sel = 1 → ¬off → settled s = true → exec (.bootRom sel) s = .next (waits cleared))
    ∧ (starts → sel = 2 → ¬off → settled s = true → exec (.bootRom sel) s
        = .next (waits { cleared with cfg := ports.foldl (fun g e => cfgSet g e.1 e.2) c.cfg }))
    ∧ (0x01000000 ≤ a → a < 0x02000000 → cleared.byte a = 0)
    ∧ (starts → sel = 1 ∨ sel = 2 → ¬off → settled s = false → exec (.bootRom sel) s = .next (boot s fun b => { b with strap := sel, src := sel }))
    ∧ (c.running = true → c.boot.phase = .load → exec (.bootRom sel) s = .next (loaded s))
    ∧ (c.running = false ∨ (c.boot.phase ≠ .rom ∧ c.boot.phase ≠ .load) → exec (.bootRom sel) s = .next s)
    -- hand-over
    ∧ (settled s = true → s.handOver.core.boot.phase = .handedOver ∧ s.handOver.core.boot.steward = true ∧ s.handOver.core.boot.romMode = false
        ∧ s.handOver.sec = s.sec ∧ s.handOver.isl = s.isl ∧ s.handOver.core.boot.bundle = c.boot.bundle ∧ s.handOver.core.boot.slot = c.boot.slot
        ∧ s.handOver.core.boot.comps = c.boot.comps ∧ s.handOver.core.boot.src = c.boot.src)
    -- GO_RECORD
    ∧ (c.boot.phase = .waitLoader → go n → exec .goRecord s = .next (fromLoader s (c.bytes 0x01000000 n)))
    ∧ (c.boot.phase ≠ .waitLoader ∨ (∀ k, ¬go k) → exec .goRecord s = .next s)
    -- serial recovery
    ∧ (c.boot.phase = .recovery → n ≤ 16777152 → exec (.recoveryLoad n) s = .next (boot s fun b => { b with expect := some n, got := [] }))
    ∧ (c.boot.phase ≠ .recovery ∨ 16777152 < n → exec (.recoveryLoad n) s = .next s)
    ∧ (c.boot.phase = .recovery → c.boot.expect = some n →
        (data.length ≠ 1024 ∨ crc32 data ≠ crc → exec (.recoveryLoadFrame data crc) s = .next (prints s [0x15]))
        ∧ (data.length = 1024 → crc32 data = crc →
          exec (.recoveryLoadFrame data crc) s = .next (if got.length < n then prints (boot s fun b => { b with got := got }) [0x06]
            else fromLoader (prints (boot s fun b => { b with expect := none, got := [] }) [0x06]) (got.take n))))
    ∧ (c.boot.phase ≠ .recovery ∨ c.boot.expect = none → exec (.recoveryLoadFrame data crc) s = .next s)
    -- RESUME
    ∧ (resumes → c.resumeRec = some r → record → Runs (exec .resume s) fun t =>
        t.core.boot = { c.boot with
          comps := r.comps, bundle := r.bundle, meas := r.meas, slot := r.slot, src := r.src, patched := r.patched, trial := r.trial
          resumed := true, steward := true }
        ∧ t.core.mon = { c.mon with locked := true, challenge := none } ∧ t.core.resumeRec = none ∧ t.core.aon = { c.aon with resume := none }
        ∧ t.core.power.gated = c.power.gated &&& ~~~1#64 ∧ t.core.cfg = c.cfg ∧ t.core.store = c.store ∧ t.sec = s.sec ∧ t.isl = s.isl)
    ∧ (resumes → (∀ r', c.resumeRec = some r' → ∀ l',
          ¬(c.aon.resume = some (Config.sha3 r'.image) ∧ parseBundle r'.bundle = .ok l'
            ∧ ((if r'.patched then l' else l'.filter fun x => decide (x.kind ≠ 3)).map fun x => (⟨x.kind, x.rbi, x.version, x.digest⟩ : Comp)) = r'.comps)) →
        Runs (exec .resume s) fun t => t.core = { c.coreReset false false with
          boot := { (c.coreReset false false).boot with fail := 9, comp := 0xFF } } ∧ t.sec = s.sec ∧ t.isl = s.isl)
    ∧ (¬resumes → exec .resume s = .next s)

/-! ### Power -/

/-- R179, R181, R353, R408 to R413: a bunch that is idle prepares to be gated; the switch opens if it is still idle, what its bank 0 keeps being
decided then; an access wakes a gated bunch; the release clears what is not retained, copies the wake image, rewrites the
setting page, and restarts the sprigs noted at the wake PC, the others being DISABLED; BUNCH_HOLD sets, clears or writes the held bunches,
wakes them, and answers once they are ready. A command that names no operation answers BAD_PARAM (DESIGN CHOICE, log entry 48). -/
def Obligations.BunchPower : Prop :=
  ∀ (s : State) (b : BunchId) (q : CmdSrc) (x : Cmd) (bs : List Byte),
    let c := s.core
    let w := c.power
    let bit : DWord := 1#64 <<< b.toNat
    let restart : Word := cfgGet c.cfg (sid 0x01 (0x300 + 4 * b.toNat))
    let waits (g : SprigId) : Prop := (c.sprig g).state = .disabled
      ∨ ((c.sprig g).state = .wait ∧ restart.getLsbD 31 = true ∧ c.wakeCondition g = false)
    let idle : Prop := b ≠ 0 ∧ w.hold.getLsbD b.toNat = false
      ∧ (∀ k : BitVec 5, waits (sprigAt b k) ∧ (c.sprig (sprigAt b k)).board = 0 ∧ (c.sprig (sprigAt b k)).drained = true)
      ∧ (∀ e ∈ c.queues, e.1 / 256 = b.toNat → (c.queue (BitVec.ofNat 14 e.1)).count = 0 ∧ e.2.walk = [] ∧ e.2.deferred = [])
      ∧ (∀ l : BitVec 2, (c.lease b l).st ≠ .copying ∧ (c.lease b l).st ≠ .active ∧ (c.lease b l).st ≠ .restoring)
      ∧ (c.dma b).queue = [] ∧ ((c.bic b).en = 0 ∨ ∀ k : BitVec 5, c.bicSelect b k = none)
    let running : Prop := c.aon.power = .run ∧ w.coreReset = false
    let ns := cfgGet c.cfg (sid 0x01 0x40)
    let runs : Prop := w.gated.getLsbD b.toNat = false ∧ w.waking.getLsbD b.toNat = false
    let ret : Bool := (cfgGet c.cfg (sid 0x01 (0x200 + 4 * (b.toNat / 32)))).getLsbD (b.toNat % 32)
    -- what a wake leaves in memory
    let cleared (a : Nat) : Prop :=
      (scratchBase b + (if w.kept.getLsbD b.toNat then 0x20000 else 0) ≤ a ∧ a < scratchBase b + 0x200000)
        ∨ (localsBase (sprigAt b 0) ≤ a ∧ a < localsBase (sprigAt b 0) + 0x400000)
    let restarts (k : BitVec 5) : Prop := (Tbl.get w.restart b.toNat 0).getLsbD k.toNat = true
    let page (a : Nat) : Prop := scratchBase b + 0x1F6000 ≤ a ∧ a < scratchBase b + 0x1F7000
    let ram (k : BitVec 5) : Nat := localsBase (sprigAt b k) + 0x10000
    let imaged (k : BitVec 5) (a : Nat) : Prop := restarts k ∧ restart.getLsbD 30 = true ∧ ram k ≤ a ∧ a < ram k + 1024 * field restart 16 5
    -- BUNCH_HOLD
    let mask : DWord := pword x.own 1 ++ pword x.own 0
    let holds (op : Word) : Prop := c.heads q { opc := 0x0601, who := .supervisors, minLen := 12 } x bs ∧ pword x.own 2 = op
    let held (v : DWord) : Core := { c with power := { w with
      hold := v ||| 1, prep := w.prep &&& ~~~(v ||| 1), gated := w.gated &&& ~~~(v ||| 1), waking := w.waking ||| (w.gated &&& (v ||| 1)) } }
    let gives (v waits : DWord) : Out := .next (s.on (
      if waits &&& ((w.gated &&& ~~~(v ||| 1)) ||| w.waking ||| (w.gated &&& (v ||| 1))) = 0 then (held v).answerCmd q ⟨0, []⟩ else (held v).beginCmd q))
    (running → ns ≠ 0 → runs → c.quiet (.bunch b) = false → idle →
      exec (.bunchIdleExpiry b) s = .next (s.on { c with power := { w with prep := w.prep ||| bit } }))
    ∧ (¬running ∨ ns = 0 ∨ ¬runs ∨ c.quiet (.bunch b) = true ∨ ¬idle → exec (.bunchIdleExpiry b) s = .next s)
    ∧ (w.prep.getLsbD b.toNat = true → idle → c.quiet (.bunch b) = false → Runs (exec (.bunchGated b) s) fun t =>
        (∃ m : Word, t = s.on { c with power := { w with
            prep := w.prep &&& ~~~bit, gated := w.gated ||| bit, kept := t.core.power.kept, restart := Tbl.set w.restart b.toNat m 0 } }
          ∧ ∀ k : BitVec 5, m.getLsbD k.toNat = (restart.getLsbD 31 && decide ((c.sprig (sprigAt b k)).state = .wait)))
        ∧ ∀ n, t.core.power.kept.getLsbD n = if n = b.toNat ∧ w.gated.getLsbD n = false then ret else w.kept.getLsbD n)
    ∧ (w.prep.getLsbD b.toNat = true → ¬idle ∨ c.quiet (.bunch b) = true → exec (.bunchGated b) s
        = .next (s.on { c with power := { w with prep := w.prep &&& ~~~bit } }))
    ∧ (w.prep.getLsbD b.toNat = false → exec (.bunchGated b) s = .next s)
    ∧ (running → w.gated.getLsbD b.toNat = true → exec (.firstAccess b) s
        = .next (s.on { c with power := { w with gated := w.gated &&& ~~~bit, waking := w.waking ||| bit } }))
    ∧ (¬running ∨ w.gated.getLsbD b.toNat = false → exec (.firstAccess b) s = .next s)
    ∧ (running → w.waking.getLsbD b.toNat = true → Runs (exec (.bunchWakeRelease b) s) fun t =>
        t.core.power = { w with
          gated := w.gated &&& ~~~bit, waking := w.waking &&& ~~~bit, kept := w.kept &&& ~~~bit, restart := Tbl.set w.restart b.toNat 0 0 }
        ∧ (∀ k : BitVec 5, (restarts k → t.core.sprig (sprigAt b k) = { Sprig.reset with state := .run, pc := restart.setWidth 16 })
          ∧ (¬restarts k → t.core.sprig (sprigAt b k) = Sprig.reset))
        ∧ (∀ g, bunchOf g ≠ b → t.core.sprig g = c.sprig g)
        ∧ (∀ k a, imaged k a → t.core.byte a = (let f := scratchBase b + 1024 * field restart 23 7 + (a - ram k)
            open Classical in if cleared f then 0 else c.byte f))
        ∧ t.core.bytes (scratchBase b + 0x1F6000) 4096 = pageBytes c.cfg b c.store.gen c.store.last
        ∧ (∀ a, ¬page a → (∀ k, ¬imaged k a) → (cleared a → t.core.byte a = 0) ∧ (¬cleared a → t.core.byte a = c.byte a))
        ∧ (∀ l : BitVec 2, t.core.lease b l = Lease.reset) ∧ t.core.queues = c.queues ∧ t.core.bics = c.bics ∧ t.core.dms = c.dms
        ∧ t.core.deals = c.deals ∧ t.core.partEpoch = c.partEpoch ∧ t.core.cfg = c.cfg)
    ∧ (¬running ∨ w.waking.getLsbD b.toNat = false → exec (.bunchWakeRelease b) s = .next s)
    ∧ (holds 0 → exec (.bunchHold q) s = gives (w.hold ||| mask) mask)
    ∧ (holds 1 → exec (.bunchHold q) s = gives (w.hold &&& ~~~mask) 0)
    ∧ (holds 2 → exec (.bunchHold q) s = gives mask mask)
    ∧ (∀ op, holds op → 3 ≤ op.toNat → exec (.bunchHold q) s = .next (s.on (c.answerCmd q ⟨0x0101, []⟩)))

/-- R175, R311, R406, R414 to R426, R461: POWER_STATE refuses or starts an entry; the entry waits for the windows of its parts, for a lease
of bunch 0 and, for OFF, for the mirror; STANDBY and WATCH first drain the channel controllers, then leave the resume record, self-refresh and
a stopped clock; an enabled source wakes the device, one in the entry window only if it is a level; WATCH compares its pins and channels; the
supply sequence retries; a dip is counted and stamped; WATCH_CFG writes the registers. A second request answers BUSY (DESIGN CHOICE, log
entry 48). -/
def Obligations.PowerStates : Prop :=
  ∀ (s : State) (q : CmdSrc) (x : Cmd) (bs : List Byte) (st : PowerState) (src : Word) (a : BitVec 7) (codes : List (BitVec 12)) (pins : Word)
      (stamp : DWord) (minv : Byte),
    let c := s.core
    let o := c.aon
    let en := cfgGet c.cfg (sid 0x01 0x04)
    let bits (st : PowerState) : Word := if st = .off then 0x00000879 else 0xFFF03879
    let answers (status : BitVec 16) (d : List Word) : Out := .next (s.on (c.answerCmd q ⟨status, d⟩))
    -- POWER_STATE
    let asks : Prop := c.heads q { opc := 0x0600, who := .supervisors, minLen := 4 } x bs
    let names : Prop := asks ∧ c.power.request = none
      ∧ (((pword x.own 0) = 1 ∧ st = .standby) ∨ ((pword x.own 0) = 2 ∧ st = .watch) ∨ ((pword x.own 0) = 3 ∧ st = .off))
    let parts (q : CmdSrc) : List Part :=
      ((List.range 63).map fun b => Part.bunch (BitVec.ofNat 6 (b + 1))) ++ ((List.range 8).map fun p => Part.ethPort (BitVec.ofNat 3 p))
        ++ ((List.range 16).map fun x => Part.cxpConn (BitVec.ofNat 4 x)) ++ ([0, 1, 2, 3].map fun t : BitVec 2 => Part.tlPort t)
        ++ (((0 :: c.cmdPairs).filter fun h => pairEn (c.pairCfg h) && match q with
            | .pair k => decide (k.setWidth 8 ≠ h)
            | .sprig _ _ => true).map fun h => Part.hostPair h)
    -- POWER_ENTRY
    let open_ (p : Part) : Prop := ∃ t, c.quietSince p = some t ∧ (c.time.dtime - t).toNat < 80000 ∧ p ∉ c.power.inReset
    let leased : Prop := ∃ l : BitVec 2, (c.lease 0 l).st = .copying ∨ (c.lease 0 l).st = .active ∨ (c.lease 0 l).st = .restoring
    let waits : Prop := (st = .off ∧ c.store.mirrored = false) ∨ leased ∨ ∃ p ∈ parts q, open_ p
    let down (d : Core) (p : Part) : Core :=
      let d := if p ∈ d.power.inReset ∨ d.quiet p = false then d else (d.logCut p).cut p
      { d with
        power := { d.power with inReset := d.power.inReset.filter fun x => decide (x ≠ p) }
        quiesce := d.quiesce.filter fun e => decide (e.1 ≠ p) }
    let used : List Part := ((List.range 36).filter fun k => decide ((c.gdc k).st = .ready) && !c.quiet (.channel (BitVec.ofNat 6 k))).map fun k =>
      Part.channel (BitVec.ofNat 6 k)
    let refreshed (d : Core) : Core := (List.range 36).foldl (fun d k =>
      if (d.gdc k).st = .ready then
        { (d.setGdc k { d.gdc k with st := .selfref }) with quiesce := d.quiesce.filter fun e => decide (e.1 ≠ .channel (BitVec.ofNat 6 k)) }
      else d) d
    let recorded (d : Core) : Core :=
      let r : ResumeRec := { comps := d.boot.comps, bundle := d.boot.bundle, meas := d.boot.meas, slot := d.boot.slot, src := d.boot.src
                             patched := d.boot.patched, trial := d.boot.trial }
      { d with resumeRec := some r, aon := { d.aon with resume := some (Config.sha3 r.image) } }
    let replied (d : Core) : Core := d.answerWhere (fun x => decide (x.opcode = 0x0600)) ⟨0, []⟩
    let stopped (d : Core) : TimeBlk := if d.time.running then
      { d.time with running := false, sleepDt := d.time.dtime, uncertStop := d.time.uncert, aonStop := d.aon.ticks, frac := 0 } else d.time
    let sleeps (d : Core) : Core :=
      let d := if d.asleep 0 then d else d.noteRestart 0 true
      let all : DWord := BitVec.allOnes 64
      { d with
        time := stopped d
        boot := { d.boot with steward := false }
        mon := { d.mon with locked := true }
        power := { d.power with
          request := none, gated := all, waking := 0, prep := 0
          kept := (d.power.kept &&& ~~~(~~~d.power.waking &&& ~~~d.power.gated)) ||| (d.retMask &&& ~~~d.power.waking &&& ~~~d.power.gated) }
        aon := { d.aon with power := st, pwrEn := false, pgood := false, entry := d.aon.ticks, watchN := 0, back := st } }
    let dark (d : Core) : Core :=
      let e := d.coreReset false true
      { e with
        aon := { e.aon with power := .off, pwrEn := false, pgood := false, entry := d.aon.ticks, inc := d.aon.inc, count := d.aon.count }
        met := { busy := e.met.busy } }
    -- a wake
    let low : Prop := o.power = .standby ∨ o.power = .watch
    let window : Prop := (o.ticks - o.entry).toNat < 3
    let may (st : PowerState) (u : Word) : Word :=
      let m := u &&& en &&& bits st
      let m := if o.alarm ≤ o.ticks then m else m &&& ~~~0x800#32
      if c.metCfg.getLsbD 30 && decide (c.met.waiting ≠ []) then m else m &&& ~~~0x1000#32
    let starts (o' : Aon) (u : Word) : Out := .next (s.on { c with aon := { o' with
      power := .starting, pwrEn := true, pgood := false, tries := 1, back := o'.power, wake := true, left := o'.power
      wakeStat := o'.wakeStat ||| u, early := 0 } })
    let later (u : Word) : Out := .next (s.on { c with aon := { o with early := o.early ||| (u &&& ~~~0x00002001#32) } })
    let comes (i : Instr) (u : Word) : Prop :=
      (may o.power u = 0 → exec i s = .next s) ∧ (may o.power u ≠ 0 → window → exec i s = later (may o.power u))
      ∧ (may o.power u ≠ 0 → ¬window → exec i s = starts o (may o.power u))
    -- WATCH
    let ch (k : Nat) : Word := Tbl.get o.watchCh k 0x0FFF0000
    let pin (k : Nat) : Word := Tbl.get o.watchPin k 0
    let code (k : Nat) : Nat := ((codes[k]?).getD 0).toNat
    let trips : Prop := (∃ k, k < 4 ∧ (ch k).getLsbD 31 = true ∧ (code k < field (ch k) 0 12 ∨ field (ch k) 16 12 < code k))
      ∨ ∃ k, k < 8 ∧ (pin k).getLsbD 31 = true ∧ pins.getLsbD (field (pin k) 0 5) ≠ (pin k).getLsbD 30
    let watched (o' : Aon) : Prop := o' = { o with watchN := o'.watchN, watchLast := o'.watchLast, watchLpin := o'.watchLpin }
      ∧ o'.watchN = (if o.watchN = 0xFFFFFFFF then o.watchN else o.watchN + 1)
      ∧ (∀ k, k < 4 → Tbl.get o'.watchLast k 0 = if (ch k).getLsbD 31 then BitVec.ofNat 32 (code k) else Tbl.get o.watchLast k 0)
      ∧ ∀ k, k < 8 → o'.watchLpin.getLsbD k = if (pin k).getLsbD 31 then pins.getLsbD (field (pin k) 0 5) else o.watchLpin.getLsbD k
    let up : Prop := o.power = .starting ∧ o.pwrEn = true ∧ o.pgood = false
    let t8 := stamp &&& ~~~7#64
    (asks → pword x.own 0 = 0 → exec (.powerState q) s = answers 0 [])
    ∧ (asks → 4 ≤ (pword x.own 0).toNat → exec (.powerState q) s = answers 0x0101 [])
    ∧ (asks → 1 ≤ (pword x.own 0).toNat → (pword x.own 0).toNat ≤ 3 → c.power.request.isSome = true → exec (.powerState q) s = answers 0x0400 [])
    ∧ (names → st = .off → s.isl.prog = .running → exec (.powerState q) s = answers 0x0200 [0x61, 0])
    ∧ (names → (st = .off → s.isl.prog ≠ .running) →
        (c.acceptedHands ≠ [] → exec (.powerState q) s = answers 0x0200 [0x90, 0])
        ∧ (c.acceptedHands = [] → en &&& bits st = 0 → exec (.powerState q) s = answers 0x0101 [0x91, 0])
        ∧ (c.acceptedHands = [] → en &&& bits st ≠ 0 → exec (.powerState q) s = .next (s.on (((parts q).foldl Core.enterQuiesce
          { c with power := { c.power with request := some (q, st) }, aon := { o with early := 0 } }).beginCmd q))))
    ∧ (c.power.request = none → exec .powerEntry s = .next s)
    ∧ (c.power.request = some (q, st) →
        (waits → exec .powerEntry s = .next s)
        ∧ (¬waits → st ≠ .off → used ≠ [] → exec .powerEntry s = .next (s.on (used.foldl Core.enterQuiesce c)))
        ∧ (¬waits → st ≠ .off → used = [] → exec .powerEntry s
            = .next (s.on (sleeps (replied (refreshed (recorded ((parts q).foldl down c)))))))
        ∧ (¬waits → st = .off →
          let d := replied ((parts q).foldl down c)
          let t := s.on (dark { d with power := { d.power with request := none } })
          exec .powerEntry s = .next (if s.isl.enabled then t.islandReset else t)))
    ∧ (low → comes (.wake src) src)
    ∧ (¬low → c.power.request = none → exec (.wake src) s = .next s)
    ∧ (¬low → c.power.request = some (q, st) → exec (.wake src) s = later (may st src))
    ∧ (o.power = .off → comes (.offWake src) src)
    ∧ (o.power ≠ .off → exec (.offWake src) s = .next s)
    ∧ (low ∨ o.power = .off → a = (cfgGet c.cfg (sid 0x01 0x08)).setWidth 7 → comes (.mgmtAddressMatch a) 1)
    ∧ ((¬low ∧ o.power ≠ .off) ∨ a ≠ (cfgGet c.cfg (sid 0x01 0x08)).setWidth 7 → exec (.mgmtAddressMatch a) s = .next s)
    ∧ (low ∨ o.power = .off → comes .rtcAlarm 0x800)
    ∧ (¬low → o.power ≠ .off → exec .rtcAlarm s = .next s)
    ∧ (codes.length = 4 → o.power = .watch → ¬window →
        (trips → ∃ o', watched o' ∧ exec (.watchCycle codes pins) s = starts o' 0x8000)
        ∧ (¬trips → ∃ o', watched o' ∧ exec (.watchCycle codes pins) s = .next (s.on { c with aon := o' })))
    ∧ (codes.length = 4 → o.power ≠ .watch ∨ window → exec (.watchCycle codes pins) s = .next s)
    ∧ (codes.length ≠ 4 → exec (.watchCycle codes pins) s = .fault .illFormed)
    -- the supply sequence
    ∧ (up → exec .pgoodRise s = .next (s.on { c with
          aon := { o with pgood := true, power := .run, wake := false, pgtry := if o.wake then BitVec.ofNat 3 o.tries else o.pgtry }
          power := { c.power with wdogAt := o.ticks }
          slack := { c.slack with vt := 0x3C, vmeas := 0x3C } })
        ∧ exec .pgoodTimeout s = .next (s.on { c with aon := { o with
          pwrEn := false, pgfail := true, wake := o.wake && decide (o.tries < 3), power := if 3 ≤ o.tries then o.back else .starting } }))
    ∧ (¬up → exec .pgoodRise s = .next s ∧ exec .pgoodTimeout s = .next s)
    ∧ (o.power = .starting → o.pwrEn = false → exec .powerUpRetry s = .next (s.on { c with aon := { o with pwrEn := true, tries := o.tries + 1 } }))
    ∧ (o.power ≠ .starting ∨ o.pwrEn = true → exec .powerUpRetry s = .next s)
    -- dips
    ∧ (o.power = .run → o.inDip = false → exec (.dipStart stamp) s = .next (s.on ({ c with
        aon := { o with dipCount := o.dipCount + 1, inDip := true, dipIn := t8, dipOut := BitVec.allOnes 64 } }.source 0x3400 true true t8)))
    ∧ (o.power ≠ .run ∨ o.inDip = true → exec (.dipStart stamp) s = .next s)
    ∧ (o.inDip = true → exec (.dipEnd stamp minv) s = .next (s.on ({ c with
        aon := { o with inDip := false, dipOut := t8, minv := minv } }.source 0x3400 false false t8)))
    ∧ (o.inDip = false → exec (.dipEnd stamp minv) s = .next s)
    -- WATCH_CFG
    ∧ (c.heads q { opc := 0x0602, who := .supervisors, needs := true, inLen := some 136 } x bs → ∃ d : Core, exec (.watchCfg q) s = .next (s.on (d.answerCmd q ⟨0, []⟩))
        ∧ (let v := pword bs 0 &&& 0x00FFFFFF
          let e := if v.toNat < 32 then (c.log ⟨0, masterSource (.sprig 0), 0x0007, 0, 420, BitVec.ofNat 40 (regAt 0x01 0x400)⟩) else c
          d = { e with aon := d.aon, staged := d.staged }
          ∧ d.aon = { o with watchCfg := d.aon.watchCfg, watchPin := d.aon.watchPin, watchCh := d.aon.watchCh, alarm := d.aon.alarm }
          ∧ d.aon.watchCfg = (if v.toNat < 32 then o.watchCfg else v) ∧ d.aon.alarm = (pword bs 33 ++ pword bs 32 : DWord).setWidth 48
          ∧ (∀ k, k < 8 → Tbl.get d.aon.watchPin k 0 = pword bs (4 + k) &&& 0xC000001F)
          ∧ (∀ k, k < 4 → Tbl.get d.aon.watchCh k 0x0FFF0000 = pword bs (16 + k) &&& 0x8FFF0FFF)
          ∧ ∀ m r, stageKey m r ≠ stageKey (.sprig 0) (BitVec.ofNat 40 (regAt 0x01 0x480)) → d.stagedLow m r = c.stagedLow m r))


/-! ### Teinglink -/

/-- R430 to R432, R434, R436, R444, R450, R451: a link that goes down forgets its sequence numbers and sends what it held for others again; a NAK
replays, and the sixteenth without progress takes the port down; a flit is accepted in its order, CREDIT returns link credits (how many is free,
log entry 43), and one for another device is passed on; a port trains and checks its neighbour's identity; TL_SET_ID, TL_ROUTE with the three
topologies, TL_STATUS and SYS_STATUS. It rests on the model's choices of log entry 44 too. -/
def Obligations.TeinglinkLinks : Prop :=
  ∀ (s : State) (p : BitVec 2) (lseq : BitVec 12) (f : Flit) (i : Ident) (dup : Bool) (q : CmdSrc) (x : Cmd) (bs : List Byte) (k : BitVec 4),
    let c := s.core
    let y := c.tlPort p
    let shown (t : BitVec 2) : TlState :=
      if !(Tbl.get c.cfg (sid 0x10 (0x40000 * t.toNat)) 0).getLsbD 31 then .down
      else if (c.tlPort t).st = .down then (if c.quiet (.tlPort t) then .down else .training) else (c.tlPort t).st
    let alive : Prop := shown p = .idcheck ∨ shown p = .up ∨ shown p = .refused
    let inc16 (v : BitVec 16) : BitVec 16 := if v = 0xFFFF then v else v + 1
    -- a port goes down
    let others (l : List (BitVec 12 × TlItem)) : List TlItem := (l.map Prod.snd).filter fun e => match e with
      | .ident _ => false
      | .time => false
      | _ => true
    let fallen (d : Core) : Core := { (d.setTlPort p { d.tlPort p with
        st := .down, cause := 0, lchg := true, tx := 0, rx := 0, nakked := false, buf := [], stuck := 0, spent := [] }) with
      tl := { d.tl with wait := others (d.tlPort p).buf ++ d.tl.wait } }
    let drops (d : Core) : Core :=
      if (d.tlPort p).st = .down then d
      else if (d.tlPort p).st = .up then
        ((fallen d).log ⟨0, 0x10, 0x0100, p.setWidth 32, p.setWidth 16, 0⟩).holdParent d
      else fallen d
    let replays (d : Core) : Core :=
      let z := d.tlPort p
      if z.st = .down then d
      else
        let e := d.setTlPort p { z with replays := inc16 z.replays, stuck := z.stuck + 1 }
        if 16 ≤ z.stuck + 1 then drops e else e
    -- a flit
    let covered (n : BitVec 12) : Bool := decide ((f.lack - n).toNat < 2048)
    let gone := y.buf.filter fun e => covered e.1
    let acked : Core := gone.foldl (fun d e => match e.2 with
        | .ack v n => d.setPeer v { d.peer v with fresh := (d.peer v).fresh.filter fun x => decide (0x8000 ≤ (n - x.1).toNat) }
        | _ => d)
      (c.setTlPort p { y with buf := y.buf.filter fun e => !covered e.1, stuck := if gone.isEmpty then y.stuck else 0 })
    let d : Core := if f.ackv then acked else c
    let z := d.tlPort p
    let key := 2 * f.cls.toNat + f.vc.toNat
    let passes : Prop := f.kind ≠ 7 ∧ f.dst ≠ c.dev ∧ z.st = .up
    let taken : Core := d.setTlPort p { z with rx := z.rx + 1, nakked := false }
    let good (t : Core) : Prop := alive → exec (.flitReceive p f true) s = .next (s.on t)
    let ordered : Prop := f.kind ≠ 0 ∧ f.kind ≠ 5 ∧ f.kind ≠ 6
    -- IDCHECK
    let e : Core := if c.boot.phase = .waitLoader ∧ c.boot.src = 2 ∧ (∀ t, (c.tlPort t).st ≠ .up) then
      { c with cfg := cfgSet c.cfg (sid 0x10 0x21000) i.sysid } else c
    let mine : Word := Tbl.get e.cfg (sid 0x10 0x21000) 0
    let refuses (cause : BitVec 4) : Out := .next (s.on ((e.setTlPort p { y with st := .refused, cause := cause, lchg := true }).log
      ⟨1, 0x10, 0x0101, p.setWidth 32, (cause.setWidth 16 <<< 12) ||| p.setWidth 16, 0⟩))
    let seen : Core := e.setTlPort p { y with st := .up, lchg := true, nbr := i.dev, nbrPort := i.port }
    let old := c.peer i.dev
    let reset : Prop := old.known = true ∧ old.inc ≠ i.inc ∧ old.st ≠ .lost ∧ old.st ≠ .syncing
    let knows (u : Core) : Core := u.setPeer i.dev { u.peer i.dev with inc := i.inc, known := true }
    -- commands
    let w (j : Nat) : Word := pword x.own j
    let asks (opc : BitVec 16) (minLen : Nat) : Prop := c.heads q { opc := opc, who := .supervisors, minLen := minLen } x bs
    let answers (status : BitVec 16) (l : List Word) : Out := .next (s.on (c.answerCmd q ⟨status, l⟩))
    let away : Prop := (∃ b ∈ c.bindings, b.toPair = false ∧ handleDev b.handle ≠ c.dev) ∨ c.importBindings ≠ []
      ∨ ∃ j : BitVec 10, posyDef (c.posyReg j 0) = true ∧ ∃ h ∈ c.members j, handleDev h ≠ c.dev
    -- TL_ROUTE
    let nx := (w 2).toNat
    let ny := (w 3).toNat
    let legal : Prop := ((w 1).toNat ≤ 1 ∧ 2 ≤ nx ∧ nx ≤ 64) ∨ (w 1 = 2 ∧ 2 ≤ nx ∧ nx ≤ 16 ∧ 2 ≤ ny ∧ ny ≤ 32 ∧ nx * ny ≤ 512)
    let size := if w 1 = 2 then nx * ny else nx
    let go (n a b : Nat) : Nat := if (b + n - a) % n ≤ (a + n - b) % n then 0 else 1
    let word (pri alt : Nat) (en : Bool) : Word :=
      0x80000000 ||| BitVec.ofNat 32 (64 * pri) ||| BitVec.ofNat 32 (16 * alt) ||| (if en then 8 else 0)
    let at_ := c.dev.toNat
    let route (b : Nat) : Word :=
      if w 1 = 0 then word (go nx at_ b) 0 false
      else if w 1 = 1 then word (go nx at_ b) (2 + go nx at_ b) true
      else if at_ % nx ≠ b % nx then word (go nx (at_ % nx) (b % nx)) 0 false
      else word (2 + go (nx * ny / nx) (at_ / nx) (b / nx)) 0 false
    let ends (t pos n : Nat) : Bool := if t % 2 = 0 then decide (pos = n - 1) else decide (pos = 0)
    let line (t : Nat) : Bool :=
      if w 1 = 0 then decide (t < 2) && ends t at_ nx
      else if w 1 = 1 then ends t at_ nx
      else if t < 2 then ends t (at_ % nx) nx else ends t (at_ / nx) ny
    let held (t : Nat) : Word := (((c.hand k).entries.find? fun e => decide (e.dev = c.dev ∧ e.id = sid 0x10 (0x40000 * t))).map HandEntry.val).getD
      (cfgGet c.cfg (sid 0x10 (0x40000 * t)))
    let es : List (Nat × Word) := (((List.range size).filter fun b => decide (b ≠ at_)).map fun b => (sid 0x10 (0x20000 + 4 * b), route b))
      ++ (List.range 4).map fun t => (sid 0x10 (0x40000 * t),
        (held t &&& 0x80000000) ||| (if line t then 0x40000000 else 0) ||| (if w 1 = 2 ∧ 2 ≤ t then 0x20000000 else 0))
    let staged := es.foldl (fun l e => stageEntry c.store.commits l c.dev e.1 e.2) (c.hand k).entries
    let routes : Prop := asks 0x0901 20 ∧ c.findHand (w 0) = some k
    let open_ : Prop := routes ∧ (c.hand k).owner = c.ownerOf q ∧ (c.hand k).st = .open
    let fits : Prop := open_ ∧ legal ∧ (w 4).toNat < size ∧ at_ < size
    (exec (.tlLinkDown p) s = .next (s.on (drops c)))
    ∧ ((∃ e ∈ y.buf, e.1 = lseq) ∨ lseq = y.tx → exec (.nak p lseq) s = .next (s.on (replays c)))
    ∧ ((∀ e ∈ y.buf, e.1 ≠ lseq) → lseq ≠ y.tx → exec (.nak p lseq) s = .next s)
    ∧ (¬alive → exec (.flitReceive p f dup) s = .next s)
    ∧ (alive → exec (.flitReceive p f false) s = .next (s.on (c.setTlPort p { y with nakked := true, crcErr := inc16 y.crcErr })))
    ∧ (f.kind = 0 → good d)
    ∧ (f.kind = 5 → good (replays d))
    ∧ (f.kind = 6 → good (d.setTlPort p { z with spent := Tbl.set z.spent key (Tbl.get z.spent key 0 - Config.linkCredits f) 0 }))
    ∧ (ordered → f.lseq ≠ z.rx → good (d.setTlPort p { z with nakked := true }))
    ∧ (ordered → f.lseq = z.rx → (¬passes → good taken) ∧ (passes → good { taken with tl := { taken.tl with wait := taken.tl.wait ++ [.forward f p] } }))
    ∧ (shown p = .training → exec (.tlTrainingDone p) s = .next (s.on (c.setTlPort p { y with
        st := .idcheck, lchg := true, tx := y.tx + 1
        buf := y.buf ++ [(y.tx, .ident ⟨c.dev, c.tlSysid, s.sec.serial, p, c.aon.inc⟩)] })))
    ∧ (shown p ≠ .training → exec (.tlTrainingDone p) s = .next s)
    ∧ (shown p = .idcheck →
        (i.sysid ≠ mine → exec (.idcheck p i dup) s = refuses 1)
        ∧ (i.sysid = mine → i.dev = c.dev ∨ dup = true → exec (.idcheck p i dup) s = refuses 2)
        ∧ (i.sysid = mine → i.dev ≠ c.dev → dup = false →
          (¬reset → exec (.idcheck p i dup) s = .next (s.on (knows seen))) ∧ (reset → exec (.idcheck p i dup) s = .next (s.on (knows (seen.peerLost i.dev))))))
    ∧ (shown p ≠ .idcheck → exec (.idcheck p i dup) s = .next s)
    ∧ (asks 0x0900 4 → 511 < (w 0).toNat → exec (.tlSetId q) s = answers 0x0101 [])
    ∧ (asks 0x0900 4 → (w 0).toNat ≤ 511 → (∃ t, shown t ≠ .down) ∨ away → exec (.tlSetId q) s = answers 0x0200 [0xA1, 0])
    ∧ (asks 0x0900 4 → (w 0).toNat ≤ 511 → (∀ t, shown t = .down) → ¬away → exec (.tlSetId q) s
        = .next (s.on ({ c with dev := (w 0).setWidth 9 }.answerCmd q ⟨0, []⟩)))
    ∧ (asks 0x0901 20 → c.findHand (w 0) = none → exec (.tlRoute q) s = answers 0x0201 [])
    ∧ (routes → (c.hand k).owner ≠ c.ownerOf q → exec (.tlRoute q) s = answers 0x0300 [0x74, w 0])
    ∧ (routes → (c.hand k).owner = c.ownerOf q → (c.hand k).st ≠ .open → exec (.tlRoute q) s = answers 0x0201 [])
    ∧ (open_ → ¬legal ∨ size ≤ (w 4).toNat ∨ size ≤ at_ → exec (.tlRoute q) s = answers 0x0101 [])
    ∧ (∀ r, fits → (es.findSome? fun e => c.settingFault (c.hand k) e.1 e.2) = some r → exec (.tlRoute q) s = .next (s.on (c.answerCmd q r)))
    ∧ (fits → (es.findSome? fun e => c.settingFault (c.hand k) e.1 e.2) = none →
        (staged.length ≤ 65536 → exec (.tlRoute q) s = .next (s.on ((c.setHand k { c.hand k with entries := staged }).answerCmd q ⟨0, []⟩)))
        ∧ (65536 < staged.length → exec (.tlRoute q) s = answers 0x0402 []))
    ∧ (asks 0x0902 4 → w 0 = p.setWidth 32 → exec (.tlStatus q) s = .next (s.on ((c.setTlPort p { y with crcErr := 0, replays := 0 }).answerCmd q ⟨0,
        [((shown p).code.setWidth 32 <<< 29) ||| (y.cause.setWidth 32 <<< 20) ||| (if y.lchg then 0x00080000 else 0),
         if y.st = .up then (y.nbr.setWidth 32 <<< 23) ||| y.nbrPort.setWidth 32 else 0, y.delay, y.crcErr ++ y.replays]⟩)))
    ∧ (asks 0x0902 4 → 3 < (w 0).toNat → exec (.tlStatus q) s = answers 0x0101 [])
    ∧ (c.heads q { opc := 0x0903, who := .supervisors, needs := true } x bs → exec (.sysStatus q) s
        = .next (s.on (c.bulkAnswer q x [] ((List.range 512).flatMap fun n =>
            let v : DeviceId := BitVec.ofNat 9 n
            bytesOf (((c.pairState v).code.setWidth 32 <<< 30) ||| ((c.peer v).pepoch.setWidth 32 <<< 16) ||| (c.peer v).inc.setWidth 32 : Word) 4))))

/-- R437, R439 to R444, R366, R367: a message is accepted in order under the current epoch, acknowledged, and does what its body says; a gap asks for it
again; the pair's timers; a lost peer and the exchange after it; an isolated commit against a fold is a SPLIT; a remote request that a window
opens is served, another reads 0 or freezes the peer; remote DMA. It rests on the model's choices of log entries 43, 44, 53 too. -/
def Obligations.TeinglinkPairs : Prop :=
  ∀ (s : State) (d : DeviceId) (m : PairMsg) (g : SprigId) (r : MemReq) (v : Word) (counts : List (Nat × Nat)) (pe : Byte) (inc : BitVec 16)
      (refused : Bool) (data : List Byte) (ms : List Bool),
    let c := s.core
    let y := c.peer d
    let goes (i : Instr) (t : Core) : Prop := exec i s = .next (s.on t)
    -- a message
    let live : Prop := d ≠ c.dev ∧ y.st = .idle ∧ m.pepoch = y.pepoch
    let c1 : Core := { (c.setPeer d { y with rx := y.rx + 1, nakked := false }) with tl := { c.tl with wait := c.tl.wait ++ [.ack d m.pseq] } }
    let does (t : Core) : Prop := live → m.pseq = y.rx → goes (.pairMessageAccept d m) t
    let theirs (p : Producer) : Producer := match p with
      | .hostPair h => .farPair d h
      | .farPair e h => if e = c.dev then .hostPair h else .farPair e h
      | p => p
    let takes (handle : Word) (card : Card) (passed : Bool) : Core :=
      let x := Tbl.get c1.hchans (importKey card.route) Chan.reset
      let last := card.w.w0.getLsbD 19
      let key := match card.route with | .chan _ g n => chanKey g n | .farPair _ h => 0x10000 + h.toNat | _ => 0
      let t : Core := { c1 with hchans := Tbl.set c1.hchans (importKey card.route) { x with
        isOpen := !last, since := if last then 0 else x.since + 1, lastTag := card.w.w0.setWidth 8, epoch := (card.w.w0 >>> 8).setWidth 8 } Chan.reset }
      let t := t.setPeer d { t.peer d with fresh := (t.peer d).fresh ++ [(m.pseq, key)] }
      if handleDev handle ≠ c.dev then (if card.mute then t else t.launch (devicePlace d) (.resolved card.route 3 true card.bcast card.seq))
      else t.launch (prodKey card.route)
        (if handlePosy handle then .toPosy (handlePosyIdx handle) card else .toQueue (handleQueue handle) card passed)
    let split (k : BitVec 4) (z : SysHand) : Prop := (c.hand k).st = .folded ∧ (c.hand k).sys = some z ∧ z.coordinator = c.dev ∧ z.decided = some false
      ∧ z.mask.getLsbD d.toNat = true
    let mine (k : BitVec 4) (z : SysHand) (id : Word) : Prop := c.findHand id = some k ∧ (c.hand k).sys = some z ∧ z.coordinator = c.dev
      ∧ (c.hand k).st = .pending
    let awaited (p : BitVec 10) : Bool := c.hands.any fun e => e.2.awaiting.contains (d, p)
    let acked : Core → BitVec 10 → Core := fun t p => { t with hands := t.hands.map fun e => (e.1, { e.2 with awaiting := e.2.awaiting.erase (d, p) }) }
    let behind (n : BitVec 16) : Nat := (n - y.acked).toNat
    -- a lost peer
    let renewed (t : Core) (b : Binding) : Core :=
      let mine := (t.messages d).filter fun f => match f.parcel with | .toRemote _ card _ => decide (card.route = b.who ∧ card.bcast = none) | _ => false
      let x := mine.foldl (fun x _ => x.settle ⟨4, true, true⟩) (t.prod b.who)
      let kept := match x.out with
        | some card => [{ seq := card.seq, serial := x.serial + 1 : Owed }]
        | none => []
      { t with fly := t.fly.filter fun f => !decide (f ∈ mine) }.setProd b.who
        { x with
          serial := x.serial + 1, credit := b.grant - kept.length, owed := kept
          out := x.out.map fun z : Card => { z with serial := x.serial + 1 } }
    let closed (t : Core) (b : Binding) : Core := match b.who with
      | .chan e g n =>
        let k := e.toNat * 0x10000 + chanKey g n
        { t with impSerial := Tbl.set t.impSerial k (Tbl.get t.impSerial k 0 + 1) 0 }.setImport b.who
          (if (t.importStream b.who).isOpen then { t.importStream b.who with close := some (4, t.time.dtime) } else t.importStream b.who)
      | _ => t
    let given (t : Core) : Core :=
      let stays (f : Flight) : Bool := match f.parcel with | .isolated _ _ => true | _ => false
      let gone := (t.messages d).filter fun f => !stays f
      gone.foldl (fun t f => match f.parcel with
          | .toRemote _ card _ => if card.mute then t else t.launch (devicePlace d) (.resolved card.route 4 true card.bcast card.seq)
          | _ => t)
        { t with fly := t.fly.filter fun f => decide (t.messageTo f ≠ some d) || stays f }
    let word7 (t : Core) (j : RdmaJob) (state cause : BitVec 4) (poison : Bool) : Core :=
      t.unitWrite whoTl (scratchBase j.b + j.off.toNat + 28)
        (bytesOf ((state.setWidth 32 <<< 28) ||| (cause.setWidth 32 <<< 24) ||| (if poison then 1 else 0) : Word) 4) false
    let peerOf (j : RdmaJob) : DeviceId := (j.words.w2 >>> 23).setWidth 9
    let lost : Core :=
      let imports := c.importBindings.filter fun b => match b.who with | .chan e _ _ => decide (e = d) | _ => false
      let queues := (imports.flatMap fun b => c.reaches b.handle).dedup
      let t := c.setPeer d { y with st := .lost, pepoch := y.pepoch + 1, acked := 0, sent := 0, rx := 0, nakked := false }
      let t := (t.bindings.filter fun b => !b.toPair && decide (handleDev b.handle = d) && t.isLocal b.who).foldl renewed t
      let t := queues.foldl (fun t i => t.resetQueue i 3) t
      let t := given (imports.foldl closed t)
      let t := match t.tl.rdma with
        | j :: rest => if peerOf j = d then word7 { t with tl := { t.tl with rdma := rest } } j 4 0 false else t
        | [] => t
      { t with
        tl := { t.tl with wait := t.tl.wait.filter fun x => match x with | .forward _ _ => true | x => decide (x.dst ≠ some d) }
        farHeld := t.farHeld.filter fun e : Nat × Bool => decide (e.1 / 1024 ≠ d.toNat)
        hands := t.hands.map fun e : Nat × Hand => (e.1, { e.2 with awaiting := e.2.awaiting.filter fun a => decide (a.1 ≠ d) })
      }.log ⟨1, 0x32, 0x0102, d.setWidth 32, d.setWidth 16, 0⟩
    -- PAIR_SYNC
    let newer (p : Byte) : Bool := decide (0 < (pe - p).toNat ∧ (pe - p).toNat < 128)
    let idle (z : PairRec) : Bool := decide (z.st ≠ .lost ∧ z.st ≠ .syncing)
    let sends (t : Core) : Core :=
      let z := t.peer d
      let l := ((z.fresh.map Prod.snd).dedup).map fun k => (k, (z.fresh.filter fun e => e.2 = k).length)
      { (t.setPeer d { z with st := .syncing }) with tl := { t.tl with wait := t.tl.wait ++ [.sync d z.pepoch t.aon.inc l] } }
    let met (t : Core) : Core :=
      let t := if (t.peer d).known ∧ (t.peer d).inc ≠ inc ∧ idle (t.peer d) = true then t.peerLost d else t
      let t := t.setPeer d { t.peer d with inc := inc, known := true }
      let fresh := newer (t.peer d).pepoch
      let t := if fresh then t.setPeer d { t.peer d with pepoch := pe } else t
      let t := match (t.peer d).st with
        | .lost => if (t.portFor d).isSome then sends t else t
        | .syncing => if fresh then sends t else t
        | _ => t
      if (t.peer d).st = .syncing ∧ (t.peer d).pepoch = pe then
        (counts.filter fun e => decide (e.2 ≠ 0)).foldl (fun t e => t.log ⟨0, 0x32, 0x0103, d.setWidth 32, BitVec.ofNat 16 e.2, 0⟩)
          (t.setPeer d { t.peer d with st := .idle, acked := 0, sent := 0, rx := 0, nakked := false, fresh := [] })
      else t
    -- a remote request
    let a := r.addr.toNat
    let size := match r.data with | some bs => bs.length | none => r.len.toNat
    let asks : Prop := 0 < size ∧ size ≤ 256
    let thawed : Prop := asks ∧ c.frozenMaster (.peer d) = false
    let wctl (w : Nat) : Word := Tbl.get c.cfg (sid 0x10 (0x21100 + 0x10 * w)) 0
    let base (w : Nat) : Nat := (Tbl.get c.cfg (sid 0x10 (0x21104 + 0x10 * w)) 0).toNat * 4096
    let opens : Prop := ∃ w, w < 16 ∧ (wctl w).getLsbD 31 = true ∧ ((wctl w).setWidth 9 = d ∨ (wctl w).setWidth 9 = 0x1FF#9)
      ∧ (wctl w).getLsbD (if r.data.isSome then 29 else 30) = true ∧ base w ≤ a
      ∧ a + size ≤ base w + (Tbl.get c.cfg (sid 0x10 (0x21108 + 0x10 * w)) 0).toNat * 4096
    let told (t : Core) (bs : List Byte) (ms : List Bool) : Core :=
      { t with rdata := Tbl.set t.rdata (masterKey (.peer d)) { value := wordOf (bs.take 4), poisoned := ms.any id, data := bs, marks := ms } {} }
    let b := scratchBunch a
    let up (b : BunchId) : Core := { c with power := { c.power with prep := c.power.prep &&& ~~~(1#64 <<< b.toNat) } }
    -- remote DMA
    let vb : BunchId := (v >>> 21).setWidth 6
    let off : BitVec 21 := (v &&& 0x001FFFE0#32).setWidth 21
    let at_ := scratchBase vb + off.toNat
    let found := (up vb).unitRead whoTl at_ 32
    let c2 := found.2.2
    let job : RdmaJob := ⟨vb, off, cardFromBytes c2 at_, .sprig g⟩
    let u := job.words
    let high := u.w4.toNat / 65536
    let wide := u.w4.toNat % 65536
    let inward (u : CardWords) : Bool := u.w2.getLsbD 22
    let local_ (u : CardWords) : Nat × Nat := if inward u then (dmaDst u, u.w6.toNat) else (dmaSrc u, u.w5.toNat)
    let legal : Prop := u.w0 >>> 28 = 0 ∧ u.w0.setWidth 27 = (0 : BitVec 27) ∧ (u.w2 >>> 16).setWidth 6 = (0 : BitVec 6) ∧ 1 ≤ wide ∧ 1 ≤ high
      ∧ (high = 1 ∨ (wide ≤ u.w6.toNat ∧ wide ≤ u.w5.toNat))
    let stop := (local_ u).1 + (high - 1) * (local_ u).2 + wide
    let mem : Prop := stop ≤ 0x2000000000
    let scr : Prop := ¬mem ∧ scratchBase vb ≤ (local_ u).1 ∧ stop ≤ scratchBase vb + 0x200000
    let submits : Prop := c.frozenMaster (.sprig g) = false ∧ bunchOf g = vb ∧ c.asleep vb = false
    let taken (place : DmaPlace) : Bool := c2.dmaGranted g place (local_ u).1 wide high (local_ u).2 (inward u)
    let queued : Core := word7 { c2 with tl := { c2.tl with rdma := c2.tl.rdma ++ [job] } } job 1 0 false
    let denied : Core := (word7 c2 job 3 3 false).log ⟨1, 0x10, Config.dmaPermCode, vb.setWidth 32, 0, BitVec.ofNat 40 at_⟩
    let ends (j : RdmaJob) (rest : List RdmaJob) : Core :=
      let n := j.words.w4.toNat % 65536
      let t : Core := { c with tl := { c.tl with rdma := rest } }
      let rows := List.range (j.words.w4.toNat / 65536)
      let z : Bool × Core := if inward j.words then
          (ms.any id, rows.foldl (fun t k => t.unitStore tlUnit ((local_ j.words).1 + k * (local_ j.words).2)
            ((data.drop (k * n)).take n) ((ms.drop (k * n)).take n)) t)
        else rows.foldl (fun (acc : Bool × Core) k =>
          let f := acc.2.unitFetch tlUnit ((local_ j.words).1 + k * (local_ j.words).2) n
          (acc.1 || f.2.1.any id, f.2.2)) (false, t)
      if refused then word7 z.2 j 3 3 z.1 else word7 { z.2 with tl := { z.2.tl with rdmaDone := z.2.tl.rdmaDone + 1 } } j 2 0 z.1
    let stalls (j : RdmaJob) : Prop := ∃ k, k < j.words.w4.toNat / 65536
      ∧ c.waits ((local_ j.words).1 + k * (local_ j.words).2) (j.words.w4.toNat % 65536) = true
    (¬live → goes (.pairMessageAccept d m) c)
    ∧ (∀ n, live → m.body = .ack n →
        (y.sent < behind n + 1 → goes (.pairMessageAccept d m) c)
        ∧ (behind n + 1 ≤ y.sent → goes (.pairMessageAccept d m) ((c.dropMessages d (behind n + 1)).setPeer d
          { y with acked := y.acked + BitVec.ofNat 16 (behind n + 1), sent := y.sent - (behind n + 1) })))
    ∧ (∀ n, live → m.body = .nak n → goes (.pairMessageAccept d m) (if y.sent < behind n then c else c.setPeer d { y with sent := behind n }))
    ∧ (live → m.body = .heartbeat → goes (.pairMessageAccept d m) c)
    ∧ (live → m.pseq ≠ y.rx → (∀ n, m.body ≠ .ack n ∧ m.body ≠ .nak n) → m.body ≠ .heartbeat →
        ((m.pseq - y.rx).toNat < 0x8000 → y.nakked = false → goes (.pairMessageAccept d m)
          { (c.setPeer d { y with nakked := true }) with tl := { c.tl with wait := c.tl.wait ++ [.nak d y.rx] } })
        ∧ (0x8000 ≤ (m.pseq - y.rx).toNat ∨ y.nakked = true → goes (.pairMessageAccept d m) c))
    ∧ (∀ h w po p se n bc via, m.body = .card h w po p se n bc via → does (takes h
        { w := w, poison := po, route := theirs p, serial := se, seq := n, bcast := bc.map fun k => (d.toNat + 1) * 0x100000000 + k } via))
    ∧ (∀ p o k bc n, m.body = .resolution p o k bc n → does (c1.launch (devicePlace d) (.resolved (theirs p) o k bc n)))
    ∧ (∀ p se rf, m.body = .credit p se rf → does (c1.launch (devicePlace d) (.credit (theirs p) se rf)))
    ∧ (∀ p e k, m.body = .notice p e k → does (c1.launch (devicePlace d) (.notice (theirs p) e k)))
    ∧ (∀ n, m.body = .popped n → does (c1.bcastPop (devicePlace d) n))
    ∧ (∀ p k, m.body = .hold p k → does ({ c1 with farHeld := Tbl.set c1.farHeld (d.toNat * 1024 + p.toNat) (!k) false }.launch (posyPlace p) (.holdAck d p)))
    ∧ (∀ p, m.body = .holdAck p →
        does (if awaited p = true ∨ (acked c1 p).handleHeld (c.posyHandle p) = true then acked c1 p
          else (acked c1 p).launch (posyPlace p) (.hold d p true)))
    ∧ (∀ p, m.body = .prepare p → does (c1.prepare p))
    ∧ (∀ id yes dt rp k z, m.body = .vote id yes dt rp → mine k z id → does (
        if z.decided.isSome = true ∨ z.mask.getLsbD d.toNat = false ∨ (∃ e ∈ z.votes, e.1 = d) then c1
        else c1.setHand k { c.hand k with sys := some { z with
          votes := z.votes ++ [(d, yes, dt)], report := { epochs := z.report.epochs ++ rp.epochs, posies := z.report.posies ++ rp.posies } } }))
    ∧ (∀ id yes dt rp, m.body = .vote id yes dt rp → (∀ k z, ¬mine k z id) → does c1)
    ∧ (∀ id cm rp, m.body = .decision id cm rp →
        (∀ k, c.participating d id = some k → does (c1.takeDecision k cm rp)) ∧ (c.participating d id = none → does c1))
    ∧ (∀ id, m.body = .isolated id →
        let logged (t : Core) : Core := t.log ⟨1, 0x0F, 0x0013, id, d.setWidth 16, 0⟩
        (∀ k z, c.findHand id = some k → split k z → does (logged
          { c1.setHand k { c.hand k with status := 0x0503, detail := 0x77 } with store := { c.store with split := true } }))
        ∧ ((∀ k z, c.findHand id = some k → ¬split k z) → does (logged c1)))
    ∧ (y.st = .idle → goes (.pairRetransmit d) (c.setPeer d { y with sent := 0 }))
    ∧ (y.st ≠ .idle → goes (.pairRetransmit d) c)
    ∧ (c.pairState d = .active → goes (.heartbeat d) { c with tl := { c.tl with wait := c.tl.wait ++ [.heartbeat d] } })
    ∧ (c.pairState d ≠ .active → goes (.heartbeat d) c)
    ∧ (c.pairState d = .active ∨ c.pairState d = .syncing → goes (.tlPeerLost d) lost)
    ∧ (c.pairState d = .idle ∨ c.pairState d = .lost → goes (.tlPeerLost d) c)
    ∧ (d ≠ c.dev → goes (.pairSync d pe inc counts) (met (if newer y.pepoch && idle y then c.peerLost d else c)))
    ∧ (d = c.dev → goes (.pairSync d pe inc counts) c)
    -- remote requests
    ∧ (¬asks → exec (.remoteRequest d r) s = .fault .illFormed)
    ∧ (asks → c.frozenMaster (.peer d) = true → goes (.remoteRequest d r) (if r.data.isSome then c
        else { c with rdata := Tbl.set c.rdata (masterKey (.peer d)) { value := 0, poisoned := false, abort := true } {} }))
    ∧ (thawed → ¬opens → r.data.isSome = true → goes (.remoteRequest d r) (c.freezeMaster (.peer d) 1))
    ∧ (thawed → ¬opens → r.data = none → goes (.remoteRequest d r)
        (told (c.log ⟨0, masterSource (.peer d), 0x0006, masterNum (.peer d), 0, r.addr⟩) (List.replicate size 0) []))
    ∧ (thawed → opens → a < 0x2000000000 → goes (.remoteRequest d r) (c.memAccess { r with who := .peer d } .ok))
    ∧ (thawed → opens → 0x2000000000 ≤ a →
        (∀ bs, r.data = some bs →
          (c.quiet (.bunch b) = true → goes (.remoteRequest d r)
            (c.log ⟨1, masterSource (.peer d), 0x000E, masterNum (.peer d), masterKind (.peer d), BitVec.ofNat 40 a⟩))
          ∧ (c.quiet (.bunch b) = false → c.asleep b = true → goes (.remoteRequest d r) c)
          ∧ (c.quiet (.bunch b) = false → c.asleep b = false → goes (.remoteRequest d r) ((up b).unitWrite whoTl a bs r.poisoned)))
        ∧ (r.data = none →
          (c.quiet (.bunch b) = true → goes (.remoteRequest d r) (told c (List.replicate size 0) (List.replicate size true)))
          ∧ (c.quiet (.bunch b) = false → c.asleep b = true → goes (.remoteRequest d r) c)
          ∧ (c.quiet (.bunch b) = false → c.asleep b = false → goes (.remoteRequest d r)
            (let f := (up b).unitReadMarks whoTl a size; told f.2.2 f.1 f.2.1))))
    -- remote DMA
    ∧ (submits →
        (64 ≤ c2.tl.rdma.length → goes (.tlRdmaSubmit (.sprig g) v) (word7 c2 job 3 1 false))
        ∧ (c2.tl.rdma.length < 64 → found.2.1 = true ∨ ¬legal ∨ (¬mem ∧ ¬scr) → goes (.tlRdmaSubmit (.sprig g) v) (word7 c2 job 3 2 false))
        ∧ (c2.tl.rdma.length < 64 → found.2.1 = false → legal →
          (mem → goes (.tlRdmaSubmit (.sprig g) v) (if taken .mem then queued else denied))
          ∧ (scr → goes (.tlRdmaSubmit (.sprig g) v) (if taken .scratch then queued else denied))))
    ∧ (c.frozenMaster (.sprig g) = false → bunchOf g = vb → c.asleep vb = true → goes (.tlRdmaSubmit (.sprig g) v) c)
    ∧ (c.frozenMaster (.sprig g) = false → bunchOf g ≠ vb → goes (.tlRdmaSubmit (.sprig g) v) (c.freezeSprig g 1 (c.sprig g).pc))
    ∧ (∀ f, goes (.tlRdmaSubmit (.host f) v) c)
    ∧ (c.tl.rdma = [] → goes (.rdmaDone refused data ms) c)
    ∧ (∀ j rest, c.tl.rdma = j :: rest →
        ((c.peer (peerOf j)).st = .lost → goes (.rdmaDone refused data ms) (word7 { c with tl := { c.tl with rdma := rest } } j 4 0 false))
        ∧ ((c.peer (peerOf j)).st ≠ .lost → stalls j → goes (.rdmaDone refused data ms) c)
        ∧ ((c.peer (peerOf j)).st ≠ .lost → ¬stalls j → goes (.rdmaDone refused data ms) (ends j rest)))

/-- R445 to R448: an exchange measures the port's delay; on the port to the parent it averages the offset over 64 exchanges and steers DTIME within
±200 ppm (by what, the spec leaves open, log entry 45), QUAL following the parent and the averaged offset; a root of its own time is FINE. A
device that joins follows the table of R448: far ahead it is an error, ahead it slows, behind it steps; TIME_SYNC restarts the averaging and
applies the table at once. It rests on the model's choices of log entry 44 too. -/
def Obligations.SystemTime : Prop :=
  ∀ (s : State) (p : BitVec 2) (x : Exchange) (offset : Int) (q : CmdSrc) (a : Cmd) (bs : List Byte),
    let c := s.core
    let y := c.tlPort p
    let w : Word := Tbl.get c.cfg (sid 0x10 0x21004) 0x80000000
    let root : DeviceId := w.setWidth 9
    let on : Prop := w.getLsbD 31 = true
    let out := (x.t2 - x.t1).toInt
    let back := (x.t4 - x.t3).toInt
    let trims (d : Core) (v : Int) : Core := { d with time := { d.time with trim := BitVec.ofInt 32 (max (-858993) (min v 858993)) } }
    let steers (d : Core) : Core := { trims d (Config.steer d.free) with free := d.free + 1 }
    -- an exchange
    let measured : Core := c.setTlPort p { y with delay := BitVec.ofInt 32 ((out + back) * 125 / 2 - Config.laneSkew p.toNat) }
    let ofs : Int := (out - back) * 125 / 2
    let l := (ofs :: c.tl.offsets).take 64
    let avg : Int := l.foldl (· + ·) 0 / (l.length : Int)
    let near : Prop := -100 ≤ avg ∧ avg ≤ 100
    let averaged (d : Core) (n : Nat) : Core := { d with tl := { d.tl with
      offsets := l, tofs := BitVec.ofInt 32 (max (-2147483648) (min avg 2147483647)), fine := n } }
    let steered (d : Core) : Core := if c.tl.joined = false then d else if 1000000 < ofs then trims d (-858993) else steers d
    let judged (d : Core) (n : Nat) : Core :=
      if x.parentFine = false then (if d.time.qual = qualFine then d.setQual qualHoldover else d)
      else if 16 ≤ n then d.setQual qualFine else d
    let follows (n : Nat) : Core := judged (steered (averaged measured n)) n
    -- joining
    let child : Prop := c.dev ≠ root ∧ on ∧ c.portFor root = some p
    let stops (d : Core) : Core := { d with tl := { d.tl with joined := false } }.log ⟨1, 0x10, 0x0104, p.setWidth 32, p.setWidth 16, 0⟩
    let joins (d : Core) (n : Int) : Core :=
      if 80000000 < n then stops d
      else
        let d : Core := { d with tl := { d.tl with joined := true } }
        if 8000 < n then trims d (-858993)
        else if n < -8000 then steers (if d.stepAllowed (BitVec.ofInt 64 (-n)) then d.stepTime (BitVec.ofInt 64 (-n)) else d)
        else steers d
    let fresh : Core := { c with tl := { c.tl with offsets := [], fine := 0 } }
    let asks : Prop := c.heads q { opc := 0x0502, who := .supervisors } a bs
    (y.st ≠ .up → exec (.timeExchange p x) s = .next s)
    ∧ (y.st = .up → ¬on → exec (.timeExchange p x) s = .next (s.on measured))
    ∧ (y.st = .up → on → c.dev = root →
        (w.getLsbD 30 = false → exec (.timeExchange p x) s = .next (s.on (measured.setQual qualFine)))
        ∧ (w.getLsbD 30 = true → exec (.timeExchange p x) s = .next (s.on measured)))
    ∧ (y.st = .up → child →
        (near → exec (.timeExchange p x) s = .next (s.on (follows (c.tl.fine + 1)))) ∧ (¬near → exec (.timeExchange p x) s = .next (s.on (follows 0))))
    ∧ (y.st = .up → on → c.dev ≠ root → c.portFor root ≠ some p → exec (.timeExchange p x) s = .next (s.on measured))
    ∧ (child → exec (.timeJoin offset) s = .next (s.on (joins c offset)))
    ∧ (c.dev = root ∨ ¬on ∨ c.portFor root = none → exec (.timeJoin offset) s = .next s)
    ∧ (asks → child → exec (.timeSync q) s = .next (s.on ((joins fresh (c.tl.tofs.toInt / 125)).answerCmd q ⟨0, []⟩)))
    ∧ (asks → c.dev = root ∨ ¬on ∨ c.portFor root = none → exec (.timeSync q) s = .next (s.on (fresh.answerCmd q ⟨0, []⟩)))

/-! ### Fuses, measurements, attestation and firmware -/

/-- R463, R464, R466, R467, R470: only the Steward's sprigs write; rollback counters only rise, to 64, with an entry; measurements 0 to 4 are locked
after hand-over, the others are extended; each OTP field is programmed as its row says, and a refused program changes no fuse; a quote holds
the fields of R467 and its signature; measurements and certificates are read. Which hash and signature these are is a constant of Config. It rests
on the model's choices of log entries 3, 50 too. -/
def Obligations.FusesAndAttestation : Prop :=
  ∀ (s : State) (g : SprigId) (v : Word) (q : CmdSrc) (x : Cmd) (bs : List Byte) (e : BitVec 256),
    let c := s.core
    let y := s.sec
    let o : Master := .sprig g
    let steward : Prop := isSteward g = true
    let i := field v 0 4
    let on : Prop := steward ∧ v.getLsbD 31 = true
    let buffer : Prop := ∀ k, k < 8 → (e >>> (32 * k)).setWidth 32 = Tbl.get c.boot.ext k (0 : Word)
    let row (f : Nat) (op : Master → Word → Instr) : Prop :=
      (f = 0 ∧ op = .otpOwnerHash) ∨ (f = 1 ∧ op = .otpRevokeOwner) ∨ (f = 2 ∧ op = .otpRevokeVendor) ∨ (f = 3 ∧ op = .otpDebugHash)
        ∨ (f = 4 ∧ op = .otpBootDis) ∨ (f = 5 ∧ op = .otpRecovDis) ∨ (f = 6 ∧ op = .retire)
    let goes (f : Nat) : Prop := on ∧ field v 24 4 = f
    let boot (f : Boot → Boot) : Core := { c with boot := f c.boot }
    let becomes (op : Instr) (z : Sec) : Prop := exec op s
      = .next { s with sec := z, core := boot fun b => { b with otpDone := true, otpRefused := false } }
    let refused (op : Instr) : Prop := exec op s = .next (s.on (boot fun b => { b with otpDone := true, otpRefused := true }))
    let bit (a : BitVec 4) : BitVec 4 := a ||| (1#4 <<< i)
    let live := y.ownSet &&& ~~~y.ownRev
    let up (a : BitVec 7) (n : Nat) : BitVec 7 := BitVec.ofNat 7 (max a.toNat (min n 64))
    let raised : Sec := { y with vendorRb := up y.vendorRb (field v 8 7), ownerRb := up y.ownerRb (field v 0 7) }
    let meas (k : Nat) : BitVec 256 := Tbl.get c.boot.meas k 0
    let allMeas : List Byte := (List.range 16).flatMap fun k => bytesOf (meas k) 32
    let text : List Byte := [0x4D, 0x51, 0x41, 0x51, 1, (match y.life with | .blank => 0 | .owned => 1 | .retired => 2), c.time.qual.setWidth 8,
        c.boot.slot.setWidth 8 ||| (if c.boot.resumed then 4 else 0) ||| (if c.boot.trial then 8 else 0) ||| (if c.boot.patched then 16 else 0)]
      ++ bytesOf y.serial 8 ++ bytesOf (c.dev.setWidth 16 : BitVec 16) 2 ++ bytesOf c.aon.inc 2 ++ bytesOf c.store.gen 4 ++ bytesOf c.time.dtime 8
      ++ bs ++ allMeas
    let asks : Prop := c.heads q { opc := 0x0A00, who := .functions, needs := true, inLen := some 32 } x bs
    let reads : Prop := c.heads q { opc := 0x0A02, who := .functions, minLen := 4, needs := true } x bs
    let w0 := pword x.own 0
    -- who may write
    (∀ op, op = .secRbAdv o v ∨ op = .secMeasExt o v ∨ (∃ f r, row f r ∧ op = r o v ∧ field v 24 4 = f) → isSteward g = false →
      exec op s = .next (s.on (c.freezeSprig g 1 (c.sprig g).pc)))
    ∧ (∀ f op, op = .secRbAdv (.host f) v ∨ op = .secMeasExt (.host f) v ∨ (∃ k r, row k r ∧ op = r (.host f) v) → exec op s = .next s)
    ∧ (∀ f op, row f op → field v 24 4 ≠ f → exec (op o v) s = .next s)
    ∧ (∀ f op, row f op → field v 24 4 = f → steward → v.getLsbD 31 = false → exec (op o v) s = .next s)
    ∧ (steward → v.getLsbD 31 = false → exec (.secRbAdv o v) s = .next s ∧ exec (.secMeasExt o v) s = .next s)
    -- the rollback counters
    ∧ (on → raised = y → exec (.secRbAdv o v) s = .next s)
    ∧ (on → raised ≠ y → exec (.secRbAdv o v) s = .next { s with
        sec := raised, core := c.log ⟨0, 0x11, 0x0112, 0, (raised.vendorRb.setWidth 16 <<< 8) ||| raised.ownerRb.setWidth 16, 0⟩ })
    -- measurements
    ∧ (on → buffer → 5 ≤ i ∨ c.boot.phase ≠ .handedOver → exec (.secMeasExt o v) s
        = .next (s.on (boot fun b => { b with meas := Tbl.set b.meas i (Config.sha3 (bytesOf (meas i) 32 ++ bytesOf e 32)) 0 })))
    ∧ (on → i ≤ 4 → c.boot.phase = .handedOver → exec (.secMeasExt o v) s
        = .next (s.on (c.log ⟨0, masterSource o, 0x0007, masterNum o, 464, BitVec.ofNat 40 (regAt 0x11 0x420)⟩)))
    -- fuses
    ∧ (goes 0 → (i ≤ 3 → y.ownSet.getLsbD i = false → y.life ≠ .retired → buffer → becomes (.otpOwnerHash o v) { y with
          ownHash := y.ownHash.set! i e, ownSet := bit y.ownSet, life := if y.life = .blank then .owned else y.life })
        ∧ (3 < i ∨ y.ownSet.getLsbD i = true ∨ y.life = .retired → refused (.otpOwnerHash o v)))
    ∧ (goes 1 → (i ≤ 3 → live ≠ 1#4 <<< i → becomes (.otpRevokeOwner o v) { y with ownRev := bit y.ownRev })
        ∧ (3 < i ∨ live = 1#4 <<< i → refused (.otpRevokeOwner o v)))
    ∧ (goes 2 → (i ≤ 3 → bit y.vendRev ≠ 0xF → becomes (.otpRevokeVendor o v) { y with vendRev := bit y.vendRev })
        ∧ (3 < i ∨ bit y.vendRev = 0xF → refused (.otpRevokeVendor o v)))
    ∧ (goes 3 → (y.dbgSet = false → buffer → becomes (.otpDebugHash o v) { y with dbgHash := e, dbgSet := true })
        ∧ (y.dbgSet = true → refused (.otpDebugHash o v)))
    ∧ (goes 4 → becomes (.otpBootDis o v) { y with bootDis := y.bootDis ||| BitVec.ofNat 3 i })
    ∧ (goes 5 → becomes (.otpRecovDis o v) { y with recovDis := true })
    ∧ (goes 6 → (y.life ≠ .blank → becomes (.retire o v) { y with life := .retired }) ∧ (y.life = .blank → refused (.retire o v)))
    -- attestation
    ∧ (asks → y.life ≠ .retired → exec (.attestQuote q) s
        = .next (s.on (c.bulkAnswer q x [] (text ++ padTo 2420 (Config.mldsaSign 0 (bytesOf (Config.sha3 text) 32))))))
    ∧ (bs.length = 32 → text.length = 576)
    ∧ (asks → y.life = .retired → exec (.attestQuote q) s = .next (s.on (c.answerCmd q ⟨0x0300, []⟩)))
    ∧ (c.heads q { opc := 0x0A01, who := .functions, needs := true } x bs → exec (.measRead q) s = .next (s.on (c.bulkAnswer q x [] allMeas)))
    ∧ (reads → 1 < w0.toNat → exec (.certRead q) s = .next (s.on (c.answerCmd q ⟨0x0101, []⟩)))
    ∧ (reads → w0.toNat ≤ 1 → (∀ cert, y.certs[w0.toNat]? ≠ some (some cert)) → exec (.certRead q) s = .next (s.on (c.answerCmd q ⟨0x0200, [0xB3, w0]⟩)))
    ∧ (∀ cert, reads → w0.toNat ≤ 1 → y.certs[w0.toNat]? = some (some cert) → exec (.certRead q) s = .next (s.on (c.bulkAnswer q x [] cert)))

/-- R468, R469: an update opens in the slot that is not ACTIVE, takes its chunks, is staged once its whole bundle passes the checks of the boot
ROM, is confirmed from its trial, with ADVANCE raising the counters, or aborted; a command out of sequence answers FW_STATE (whose second
detail word is the model's, log entry 50). What flash that was never written reads is the model's choice (log entry 50). -/
def Obligations.FirmwareUpdate : Prop :=
  ∀ (s : State) (q : CmdSrc) (x : Cmd) (bs : List Byte) (len : Nat),
    let c := s.core
    let y := s.sec
    let w (j : Nat) : Word := pword x.own j
    let asks (opc : BitVec 16) (minLen : Nat) : Prop := c.heads q { opc := opc, who := .pf, minLen := minLen } x bs
    let chunk : Prop := c.heads q { opc := 0x0B01, who := .pf, minLen := 4, needs := true } x bs
    let finish (confirm : Prop) : Prop := asks 0x0B02 8 ∧ (confirm ↔ w 0 = 1)
    let other : Bool := decide (y.slotA.st = .active)
    let idle : Slot := if other then y.slotB else y.slotA
    let put (z : Sec) (k : Slot) : Sec := if other then { z with slotB := k } else { z with slotA := k }
    let state : Word := match idle.st with | .empty => 0 | .staged => 1 | .tried => 2 | .active => 3 | .previous => 4
    let trial : Prop := c.boot.trial = true ∧ idle.st = .tried
    let upd (u : Option Nat) : Core := { c with boot := { c.boot with upd := u } }
    let answers (t : State) (status : BitVec 16) (d : List Word) : Out := .next (t.on (t.core.answerCmd q ⟨status, d⟩))
    let outOfTurn : Out := answers s 0x0200 [0xB0, state]
    let bad : Out := answers s 0x0101 []
    let off := (w 0).toNat
    let laid : List Byte := (idle.bytes ++ List.replicate (off - idle.bytes.length) 0xFF).take off ++ bs ++ idle.bytes.drop (off + bs.length)
    let image := idle.bytes.take len
    let fails (e : Nat × Nat) : Out := answers s 0x0101 [0xB1, BitVec.ofNat 32 (256 * e.1 + e.2)]
    let owners (k : Comp) : Bool := decide (k.kind = 1 ∨ k.kind = 4)
    let low (p : Comp → Bool) : Nat := ((c.boot.comps.filter p).map Comp.rbi).foldl min 64
    let up (a : BitVec 7) (n : Nat) : BitVec 7 := BitVec.ofNat 7 (max a.toNat (min n 64))
    let confirmed : Sec := if other then { y with slotA := { y.slotA with st := .previous }, slotB := { y.slotB with st := .active } }
      else { y with slotA := { y.slotA with st := .active }, slotB := { y.slotB with st := .previous } }
    let raised : Sec := { confirmed with vendorRb := up y.vendorRb (low fun k => !owners k), ownerRb := up y.ownerRb (low owners) }
    let ended : Core := { c with boot := { c.boot with trial := false } }
    -- FW_BEGIN
    (asks 0x0B00 4 → c.boot.upd.isSome = true ∨ trial → exec (.fwBegin q) s = outOfTurn)
    ∧ (asks 0x0B00 4 → c.boot.upd = none → ¬trial → w 0 = 0 ∨ 16777152 < (w 0).toNat → exec (.fwBegin q) s = bad)
    ∧ (asks 0x0B00 4 → c.boot.upd = none → ¬trial → 1 ≤ (w 0).toNat → (w 0).toNat ≤ 16777152 → exec (.fwBegin q) s
        = answers { s with sec := put y {}, core := upd (some (w 0).toNat) } 0 [if other then 1 else 0])
    -- FW_CHUNK
    ∧ (chunk → c.boot.upd = none → exec (.fwChunk q) s = outOfTurn)
    ∧ (chunk → c.boot.upd = some len →
        (len < off + bs.length → exec (.fwChunk q) s = answers s 0x0101 [0xB2, w 0])
        ∧ (off + bs.length ≤ len → off % 65536 ≠ 0 ∨ (bs.length % 65536 ≠ 0 ∧ off + bs.length ≠ len) → exec (.fwChunk q) s = bad)
        ∧ (off + bs.length ≤ len → off % 65536 = 0 → bs.length % 65536 = 0 ∨ off + bs.length = len → exec (.fwChunk q) s
          = answers { s with sec := put y { idle with bytes := laid } } 0 []))
    -- FW_FINISH
    ∧ (finish False → (w 0 ≠ 0 ∨ 2 ≤ (w 1).toNat → exec (.fwFinishStage q) s = bad)
        ∧ (w 0 = 0 → (w 1).toNat < 2 → c.boot.upd = none → exec (.fwFinishStage q) s = outOfTurn)
        ∧ (w 0 = 0 → (w 1).toNat < 2 → c.boot.upd = some len →
          (∀ l, y.checkBundle image = .ok (l, none) → exec (.fwFinishStage q) s
            = answers { s with sec := put y { idle with st := .staged, length := len, digest := Config.sha3 image }, core := upd none } 0 [])
          ∧ (∀ l e, y.checkBundle image = .ok (l, some e) → exec (.fwFinishStage q) s = fails e)
          ∧ (∀ e, y.checkBundle image = .error e → exec (.fwFinishStage q) s = fails e))
        ∧ exec (.fwFinishConfirm q) s = .next s)
    ∧ (finish True → (2 ≤ (w 1).toNat → exec (.fwFinishConfirm q) s = bad)
        ∧ ((w 1).toNat < 2 → ¬trial → exec (.fwFinishConfirm q) s = outOfTurn)
        ∧ (w 1 = 0 → trial → exec (.fwFinishConfirm q) s = answers { s with sec := confirmed, core := ended } 0 [])
        ∧ (w 1 = 1 → trial → raised = confirmed → exec (.fwFinishConfirm q) s = answers { s with sec := confirmed, core := ended } 0 [])
        ∧ (w 1 = 1 → trial → raised ≠ confirmed → exec (.fwFinishConfirm q) s = answers { s with
          sec := raised, core := ended.log ⟨0, 0x11, 0x0112, 0, (raised.vendorRb.setWidth 16 <<< 8) ||| raised.ownerRb.setWidth 16, 0⟩ } 0 [])
        ∧ exec (.fwFinishStage q) s = .next s)
    -- FW_ABORT
    ∧ (asks 0x0B03 0 → c.boot.upd.isSome = true ∨ idle.st = .staged ∨ trial → exec (.fwAbort q) s
        = answers { s with sec := put y {}, core := { c with boot := { c.boot with upd := none, trial := false } } } 0 [])
    ∧ (asks 0x0B03 0 → c.boot.upd = none → idle.st ≠ .staged → ¬trial → exec (.fwAbort q) s = outOfTurn)

/-! ### The monitor -/

/-- R460, R471 to R475, R66, R79: the Steward serves the monitor; what is open while it is locked and what is not; its answers; the challenge that
unlocks it, and LOCK; the rates; PEEK reads as the debug view and POKE writes as a supervisor, but for the denied places; HALT, STEP and RUN
act by the sprig's state. That HALT and STEP hold halt-on-break, until LOCK, is the model's (log entry 75). It rests on the model's choices of log
entry 51 too. -/
def Obligations.MonitorCommands : Prop :=
  ∀ (s : State) (n : BitVec 7) (i : QueueId) (g : SprigId) (a : Addr) (v : Word) (k : Nat) (r : BitVec 24) (key sig : List Byte) (x : List Byte) (t0 : DWord),
    let c := s.core
    let m := c.mon
    let replies (z : MonReply) : Core := { c with mon := { m with answer := some z } }
    let answers (op : Instr) (z : MonReply) : Prop := exec op s = .next (s.on (replies z))
    let on : Prop := c.boot.steward = true
    let free : Prop := on ∧ m.locked = false
    let open_ (op : Instr) : Prop := op = .monId ∨ op = .monErr n ∨ op = .monTime ∨ op = .unlock none ∨ op = .unlock (some (key, sig)) ∨ op = .lock ∨ op = .overrun
    let closed (op : Instr) : Prop := op = .monQ i ∨ op = .pwr ∨ op = .peek a k ∨ op = .poke a v ∨ op = .monHalt g ∨ op = .monStep g ∨ op = .monRun g
      ∨ op = .regs g ∨ (op = .baud r ∧ c.boot.phase ≠ .recovery)
    let nl : List Byte := [0x0A]
    let version (kind : Nat) : Word := match c.boot.comps.find? fun z => decide (z.kind = kind) with
      | some z => z.version
      | none => 0
    let identity : List Byte := s.orderingCode ++ nl ++ hexNumber s.sec.serial 8 ++ nl ++ hexNumber (c.dev.setWidth 16 : BitVec 16) 2 ++ nl
      ++ hexNumber Config.stepping 1 ++ nl ++ versionText (version 2) ++ nl ++ versionText (version 3) ++ nl
      ++ (if s.isl.enabled then s.isl.name ++ nl ++ versionText s.isl.version ++ nl ++ hexBytes (bytesOf s.isl.digest 32) ++ nl else [])
    let entries (n : Nat) : List Word := (List.range n).reverse.flatMap fun k => match c.err.entry (c.err.tail - BitVec.ofNat 11 (k + 1)) with
      | some e => let w := e.card (c.prod .errorEngine).epoch; [w.w0, w.w1, w.w2, w.w3, w.w4, w.w5, w.w6, w.w7]
      | none => []
    -- the lock
    let drawn := padTo 32 (Config.challenge c.free)
    let stands : Prop := m.challenge = some (x, t0) ∧ (c.time.dtime - t0).toNat ≤ 480000000000 ∧ key.length = 1312 ∧ sig.length = 2420
      ∧ Config.sha3 key = s.sec.dbgHash
      ∧ Config.mldsaVerify key (bytesOf (Config.sha3 ([0x4D, 0x51, 0x55, 0x4C] ++ x ++ bytesOf s.sec.serial 8)) 32) sig = true
    let failed (name : String) : Out := .next (s.on (({ c with mon := { m with
        challenge := none, fails := if m.fails = 0xFF then m.fails else m.fails + 1, answer := some (.er name) } } : Core).log ⟨0, 0x11, 0x0111, 0, 0, 0⟩))
    let rated : Prop := r.toNat ∈ [115200, 230400, 460800, 921600, 1000000, 2000000, 3000000]
    -- memory
    let legal : Prop := 1 ≤ k ∧ k ≤ 256 ∧ a.toNat % 4 = 0 ∧ a.toNat + 4 * k ≤ 2 ^ 40
    let hit : Prop := a.toNat < 0x2000000000 ∨ (0x4000000000 ≤ a.toNat ∧ a.toNat < 0x4008000000) ∨ (0x4800000000 ≤ a.toNat ∧ a.toNat < 0x4810000000)
      ∨ (0x5000000000 ≤ a.toNat ∧ a.toNat < 0x5004000000) ∨ (0x5040000000 ≤ a.toNat ∧ a.toNat < 0x5040200000)
      ∨ (0x6000000000 ≤ a.toNat ∧ a.toNat < 0x6002000000)
    let slot := (a.toNat - 0x6000000000) / 0x100000
    let off := (a.toNat - 0x6000000000) % 0x100000
    let denied : Prop := (0x5000000000 ≤ a.toNat ∧ a.toNat < 0x6000000000)
      ∨ (0x6000000000 ≤ a.toNat ∧ ((slot = 1 ∧ 0x13C00 ≤ off ∧ off < 0x14000) ∨ slot = 0x11
        ∨ (slot = 0x13 ∧ (off = 0x200 ∨ (0x1000 ≤ off ∧ off < 0x2000)))))
    let pokes : Prop := free ∧ a.toNat % 4 = 0 ∧ hit ∧ ¬denied
    -- sprigs
    let y := c.sprig g
    let reached : Prop := free ∧ c.asleep (bunchOf g) = false
    let target : Prop := reached ∧ isSteward g = false ∧ c.quietSprig g = false
    let broken (z : Sprig) : Sprig := { z with req := { z.req with haltOnBreak := true } }
    let becomes (op : Instr) (z : Sprig) : Prop := exec op s = .next (s.on ((replies (.ok [])).setSprig g z))
    let control (op : Instr) : Prop := op = .monHalt g ∨ op = .monStep g ∨ op = .monRun g
    (∀ op, (open_ op ∨ closed op) → ¬on → exec op s = .next s)
    ∧ (∀ op, closed op → on → m.locked = true → answers op (.er "locked"))
    ∧ (on → answers .monId (.text identity))
    ∧ (on → (1 ≤ n.toNat → n.toNat ≤ 64 → answers (.monErr n) (.ok (entries n.toNat))) ∧ (n = 0 ∨ 64 < n.toNat → answers (.monErr n) (.er "range")))
    ∧ (on → answers .monTime (.ok [(c.time.dtime >>> 32).setWidth 32, c.time.dtime.setWidth 32, c.time.qual.setWidth 32, c.time.uncert]))
    ∧ (free → answers (.monQ i) (.ok [c.queueStat i, c.qcfg i]))
    ∧ (free → answers .pwr (.ok [(c.aon.left.code.setWidth 32 <<< 30) ||| (if c.aon.pgfail then 0x20000000 else 0) ||| (c.aon.pgtry.setWidth 32 <<< 26),
        c.vcStat, c.slack.pin.setWidth 32, c.aon.dipCount]))
    -- unlock and lock
    ∧ (on → s.sec.dbgSet = true → exec (.unlock none) s = .next (s.on { c with
        free := c.free + 1, mon := { m with challenge := some (drawn, c.time.dtime), answer := some (.text (hexGroups drawn)) } }))
    ∧ (on → s.sec.dbgSet = false → exec (.unlock none) s = .next (s.on { c with mon := { m with challenge := none, answer := some (.er "nokey") } }))
    ∧ (on → s.sec.dbgSet = true → stands → exec (.unlock (some (key, sig))) s = .next (s.on (({ c with mon := { m with
        challenge := none, locked := false, answer := some (.ok []) } } : Core).log ⟨0, 0x11, 0x0111, 0, 1, 0⟩)))
    ∧ (on → s.sec.dbgSet = true → m.challenge = none ∨ (m.challenge = some (x, t0) ∧ ¬stands) → exec (.unlock (some (key, sig))) s = failed "fail")
    ∧ (on → s.sec.dbgSet = false → exec (.unlock (some (key, sig))) s = failed "nokey")
    ∧ (on → Runs (exec .lock s) fun t => t = s.on { c with sprigs := t.core.sprigs, mon := { m with locked := true, answer := some (.ok []) } }
        ∧ ∀ g, t.core.sprig g = { c.sprig g with req := { (c.sprig g).req with haltOnBreak := false } })
    -- the line
    ∧ (free ∨ c.boot.phase = .recovery →
        (rated → exec (.baud r) s = .next (s.on { c with mon := { m with baud := r, answer := some (.ok []) } })) ∧ (¬rated → answers (.baud r) (.er "range")))
    ∧ (on → exec .overrun s = .next (s.on { c with mon := { m with overrun := true, answer := some (.er "overrun") } }))
    -- PEEK and POKE
    ∧ (free → ¬legal → answers (.peek a k) (.er "range"))
    ∧ (free → legal → a.toNat + 4 * k ≤ 0x2000000000 →
        (∀ j, j < k → c.refused (a.toNat + 4 * j) = false ∧ c.memAvail (a.toNat + 4 * j) = .ok ∧ c.memMark (a.toNat + 4 * j) = .ok) →
        answers (.peek a k) (.ok ((List.range k).map fun j => c.word (a.toNat + 4 * j))))
    ∧ (free → legal → k = 1 →
        (c.refused a.toNat = true → answers (.peek a k) (.er "fail"))
        ∧ (c.refused a.toNat = false → s.farRead .monitor a 4 = none → exec (.peek a k) s = .next s)
        ∧ (∀ bs p d, c.refused a.toNat = false → s.farRead .monitor a 4 = some (bs, p, d) → exec (.peek a k) s
          = .next (s.on { d with mon := { d.mon with answer := some (.ok [wordOf bs]) } })))
    ∧ (free → a.toNat % 4 ≠ 0 → answers (.poke a v) (.er "range"))
    ∧ (free → a.toNat % 4 = 0 → ¬hit → exec (.poke a v) s
        = .next (s.on (let d := c.log ⟨0, masterSource .monitor, 0x0006, masterNum .monitor, 0, a⟩; { d with mon := { m with answer := some (.er "denied") } })))
    ∧ (free → a.toNat % 4 = 0 → hit → denied → answers (.poke a v) (.er "denied"))
    ∧ (pokes → c.refused a.toNat = true → exec (.poke a v) s = .next (s.on (
        let d := c.log ⟨1, masterSource .monitor, 0x000E, masterNum .monitor, masterKind .monitor, a⟩; { d with mon := { m with answer := some (.er "fail") } })))
    ∧ (pokes → c.refused a.toNat = false →
        (s.farWrite .monitor a (bytesOf v 4) = none → exec (.poke a v) s = .next s)
        ∧ (∀ u, s.farWrite .monitor a (bytesOf v 4) = some u → exec (.poke a v) s
          = .next { u with core := { u.core with mon := { u.core.mon with answer := some (.ok []) } } }))
    ∧ (pokes → a.toNat < 0x2000000000 → c.refused a.toNat = false → c.memAvail a.toNat = .ok → Runs (exec (.poke a v) s) fun t =>
        t.core.word a.toNat = v ∧ SameBytesBut c t.core a.toNat 4 ∧ t.core.mon.answer = some (.ok []))
    -- sprigs
    ∧ (∀ op, control op → (free → c.asleep (bunchOf g) = true → exec op s = .next s)
        ∧ (reached → isSteward g = true → answers op (.er "denied"))
        ∧ (reached → isSteward g = false → c.quietSprig g = true → answers op (.er "fail"))
        ∧ (target → y.state = .frozen → answers op (.er "frozen")))
    ∧ (target →
        (y.state = .run ∨ y.state = .wait → becomes (.monHalt g) (broken { y.abandon with
          state := .halted, req := { y.abandon.req with trace := false } }))
        ∧ (y.state = .disabled ∨ y.state = .halted → becomes (.monHalt g) (broken y))
        ∧ (y.state = .halted → becomes (.monStep g) (broken { y with state := .run, req := { y.req with stepping := true } }))
        ∧ (y.state = .disabled ∨ y.state = .run ∨ y.state = .wait → answers (.monStep g) (.er "fail"))
        ∧ (y.state = .halted → becomes (.monRun g) { y with state := .run })
        ∧ (y.state = .run ∨ y.state = .wait → answers (.monRun g) (.ok []))
        ∧ (y.state = .disabled → exec (.monRun g) s = .next (s.on (let d := c.takeEntry g 0 y.pc
          { d with mon := { d.mon with answer := some (.ok []) } }))))
    ∧ (free → isSteward g = true → answers (.regs g) (.er "denied"))
    ∧ (reached → isSteward g = false → answers (.regs g) (.ok ((List.range 44).map fun j => y.imageWord j)))
    ∧ (free → isSteward g = false → c.asleep (bunchOf g) = true → exec (.regs g) s = .next s)


/-! ### Every command -/

/-- One step runs the command at the front of the queue on the machine with the queue's rest; on an empty queue one cycle passes (log entry
1). No word spells a command (log entry 4). -/
def Obligations.StepRunsFrontCommand : Prop :=
  ∀ (s : State) (i : Instr) (rest : List Instr) (nbits w : Nat),
    (s.pending = i :: rest → step s = exec i { s with pending := rest }) ∧ (s.pending = [] → step s = .next s.tick)
    ∧ s.withFetchWord nbits w = s

/-- No command is refused: a well-formed one answers a next state in every state and leaves the queue as it is; an ill-formed one, which names a
unit that does not exist, faults. It rests on the model's choices of log entry 58 too. -/
def Obligations.EveryCommandCompletes : Prop :=
  ∀ (i : Instr) (s : State),
    (i.wf = true → Runs (exec i s) fun t => t.pending = s.pending) ∧ (i.wf = false → exec i s = .fault .illFormed)

/-- R46, R67, R80 to R83, R128, R158: any instruction of a sprig that does not issue, or is in QUIESCE, changes nothing; one with a false guard takes 1
step and does nothing else; one whose word has bad parity in the instruction RAM, whose decode entry faults, or whose routine's first microword
has a double-bit error requests the vector of that fault and commits nothing. An instruction word gives its guard and opcode fields to the
instruction that it spells. -/
def Obligations.GuardsAndDecodeEntries : Prop :=
  ∀ (i : Instr) (s : State) (g : SprigId) (gd : BitVec 4) (opc : Byte) (vec : BitVec 6) (d : Word),
    let c := s.core
    let x := c.sprig g
    let issues : Prop := x.issues = true ∧ c.quietSprig g = false
    let a := localsBase g + 0x10000 + 4 * x.pc.toNat
    let entry := c.csMark (storeBase g + 0x4000 + 4 * opc.toNat)
    (∀ w : Word, (instrOfWord g w).sprigOp = some (g, (w >>> 28).setWidth 4, (w >>> 20).setWidth 8))
    ∧ (i.sprigOp = some (g, gd, opc) →
      (x.issues = false ∨ c.quietSprig g = true → exec i s = .next s)
      ∧ (issues → c.fetchClean g = true → x.guard gd = false → exec i s = .next (s.put g (x.past 1)))
      ∧ (issues → x.pc.toNat < 0x1000 → (c.firstBad a 4).isSome = true → exec i s = .next (s.on ((c.logParity g a).raise g 3 0x03 none)))
      ∧ (issues → c.fetchClean g = true → x.guard gd = true → c.entryFault g opc = some (vec, d) → exec i s = .next (s.faulted g vec d))
      ∧ (issues → c.fetchClean g = true → x.guard gd = true → c.entryFault g opc = none → entry ≠ .single → c.firstMark g opc = .double →
        exec i s = .next (s.faulted g 3 0x03)))

/-- R400 to R403, R361, R456, R474: what reset leaves: no command waits, memory and the log are empty, every sprig is DISABLED, every queue empty in
epoch 0, DTIME 0 and FREE, no comparator armed, generation 1, bunch 0 held, the monitor locked, the boot ROM about to run, the island in
reset; the fuses are sound. It rests on the model's choices of log entries 26, 27 too. -/
def Obligations.ResetLeaves : Prop :=
  let s := State.reset
  let c := s.core
  s.pending = [] ∧ c.mem = [] ∧ Memory.wf c.mem = true ∧ c.err.used = 0 ∧ c.cmds = [] ∧ c.fly = [] ∧ c.quiesce = []
  ∧ (∀ g : SprigId, (c.sprig g).state = .disabled) ∧ (∀ i : QueueId, (c.queue i).count = 0 ∧ (c.queue i).epoch = 0 ∧ (c.queue i).mark = false)
  ∧ c.time.dtime = 0 ∧ c.time.qual = 0 ∧ (∀ k, (c.cmp k).cmp = never) ∧ c.store.gen = 1 ∧ c.store.hasPrior = false ∧ c.power.hold = 1
  ∧ c.power.gated = 0 ∧ c.mon.locked = true ∧ c.boot.phase = .rom ∧ c.boot.steward = false ∧ s.isl.inReset = true ∧ s.sec.sound = true

/-- R463, R470, R458: in every state whose fuses are sound, no step makes them unsound, clears a fuse, changes a programmed hash, or lowers a
rollback counter. It rests on the model's choices of log entry 50 too. -/
def Obligations.FusesOnlyGrow : Prop :=
  ∀ (s t : State), s.sec.sound = true → step s = .next t → t.sec.sound = true ∧ s.sec.grows t.sec
end

