-- ==== Sys2Proof/Laws/Table.lean ====
section
/-!
SUPPORT. Sys2Proof/Laws/Table.lean: what reading and writing a sparse table do. The read-after-write laws need no
hypothesis on the table; the canonical form is kept by every write.
-/
namespace Sys2Proof.Machine

variable {α : Type}

@[simp] theorem Tbl.get_nil (k : Nat) (d : α) : Tbl.get ([] : Tbl α) k d = d := rfl

theorem Tbl.get_erase_self (t : Tbl α) (k : Nat) (d : α) : (t.erase k).get k d = d := by
  induction t with
  | nil => rfl
  | cons e t ih =>
    obtain ⟨a, x⟩ := e
    by_cases h : a = k
    · simpa [Tbl.erase, h] using ih
    · simpa [Tbl.erase, Tbl.get, h] using ih

theorem Tbl.get_erase_ne (t : Tbl α) {k j : Nat} (hjk : j ≠ k) (d : α) :
    (t.erase k).get j d = t.get j d := by
  induction t with
  | nil => rfl
  | cons e t ih =>
    obtain ⟨a, x⟩ := e
    by_cases h : a = k
    · have : a ≠ j := fun h' => hjk (h'.symm.trans h)
      simpa [Tbl.erase, Tbl.get, h, hjk.symm] using ih
    · by_cases h' : a = j
      · subst h'
        simp [Tbl.erase, Tbl.get, hjk]
      · simpa [Tbl.erase, Tbl.get, h, h'] using ih

theorem Tbl.get_insert_self (t : Tbl α) (k : Nat) (v d : α) (hk : ∀ x, (k, x) ∉ t) :
    (t.insert k v).get k d = v := by
  induction t with
  | nil => simp [Tbl.insert, Tbl.get]
  | cons e t ih =>
    obtain ⟨a, x⟩ := e
    have ha : a ≠ k := fun h => hk x (by simp [h])
    have ht : ∀ x, (k, x) ∉ t := fun y hy => hk y (by simp [hy])
    by_cases h : k < a
    · simp [Tbl.insert, Tbl.get, h]
    · simpa [Tbl.insert, Tbl.get, h, ha] using ih ht

theorem Tbl.get_insert_ne (t : Tbl α) {k j : Nat} (hjk : j ≠ k) (v d : α) :
    (t.insert k v).get j d = t.get j d := by
  induction t with
  | nil => simp [Tbl.insert, Tbl.get, hjk.symm]
  | cons e t ih =>
    obtain ⟨a, x⟩ := e
    by_cases h : k < a
    · simp [Tbl.insert, Tbl.get, h, hjk.symm]
    · by_cases h' : a = j
      · subst h'
        simp [Tbl.insert, Tbl.get, h]
      · simpa [Tbl.insert, Tbl.get, h, h'] using ih

theorem Tbl.not_mem_erase (t : Tbl α) (k : Nat) (x : α) : (k, x) ∉ t.erase k := by
  induction t with
  | nil => simp [Tbl.erase]
  | cons e t ih =>
    obtain ⟨a, y⟩ := e
    by_cases h : a = k
    · simpa [Tbl.erase, h] using ih
    · simp only [Tbl.erase, h, if_false, List.mem_cons, not_or]
      refine ⟨fun hh => h ?_, ih⟩
      exact (congrArg Prod.fst hh).symm

/-- A key written reads back what was written. -/
@[simp] theorem Tbl.get_set_self [DecidableEq α] (t : Tbl α) (k : Nat) (v d : α) : (t.set k v d).get k d = v := by
  unfold Tbl.set
  split
  · next h => rw [Tbl.get_erase_self, h]
  · exact Tbl.get_insert_self _ _ _ _ (Tbl.not_mem_erase t k)

/-- A write leaves every other key as it was. -/
theorem Tbl.get_set_ne [DecidableEq α] (t : Tbl α) {k j : Nat} (h : j ≠ k) (v d : α) :
    (t.set k v d).get j d = t.get j d := by
  unfold Tbl.set
  split
  · exact Tbl.get_erase_ne t h d
  · rw [Tbl.get_insert_ne _ h, Tbl.get_erase_ne t h]

theorem Tbl.get_set [DecidableEq α] (t : Tbl α) (k j : Nat) (v d : α) :
    (t.set k v d).get j d = if j = k then v else t.get j d := by
  by_cases h : j = k
  · simp [h]
  · simp [h, Tbl.get_set_ne]

theorem Tbl.above_mono [DecidableEq α] (t : Tbl α) {lo lo' : Nat} (d : α) (hl : lo' ≤ lo) (h : Tbl.above lo d t = true) :
    Tbl.above lo' d t = true := by
  cases t with
  | nil => rfl
  | cons e t =>
    obtain ⟨a, x⟩ := e
    simp only [Tbl.above, Bool.and_eq_true, decide_eq_true_eq] at h ⊢
    exact ⟨⟨by omega, h.1.2⟩, h.2⟩

theorem Tbl.above_erase [DecidableEq α] (t : Tbl α) (lo k : Nat) (d : α) (h : Tbl.above lo d t = true) :
    Tbl.above lo d (t.erase k) = true := by
  induction t generalizing lo with
  | nil => rfl
  | cons e t ih =>
    obtain ⟨a, x⟩ := e
    simp only [Tbl.above, Bool.and_eq_true, decide_eq_true_eq] at h
    by_cases hk : a = k
    · simp only [Tbl.erase, hk, if_true]
      exact ih lo (Tbl.above_mono t d (by omega) h.2)
    · simp only [Tbl.erase, hk, if_false, Tbl.above, Bool.and_eq_true, decide_eq_true_eq]
      exact ⟨h.1, ih _ h.2⟩

theorem Tbl.above_insert [DecidableEq α] (t : Tbl α) (lo k : Nat) (v d : α) (hv : v ≠ d) (hlo : lo ≤ k)
    (hk : ∀ x, (k, x) ∉ t) (h : Tbl.above lo d t = true) : Tbl.above lo d (t.insert k v) = true := by
  induction t generalizing lo with
  | nil => simp [Tbl.insert, Tbl.above, hv, hlo]
  | cons e t ih =>
    obtain ⟨a, x⟩ := e
    have ha : a ≠ k := fun h => hk x (by simp [h])
    have ht : ∀ x, (k, x) ∉ t := fun y hy => hk y (by simp [hy])
    simp only [Tbl.above, Bool.and_eq_true, decide_eq_true_eq] at h
    by_cases hka : k < a
    · simp only [Tbl.insert, hka, if_true, Tbl.above, Bool.and_eq_true, decide_eq_true_eq]
      exact ⟨⟨hlo, hv⟩, ⟨by omega, h.1.2⟩, h.2⟩
    · simp only [Tbl.insert, hka, if_false, Tbl.above, Bool.and_eq_true, decide_eq_true_eq]
      exact ⟨h.1, ih (a + 1) (by omega) ht h.2⟩

/-- Every write keeps the canonical form. -/
theorem Tbl.wf_set [DecidableEq α] (t : Tbl α) (k : Nat) (v d : α) (h : t.wf d = true) : (t.set k v d).wf d = true := by
  unfold Tbl.set
  split
  · exact Tbl.above_erase t 0 k d h
  · next hv => exact Tbl.above_insert _ 0 k v d hv (by omega) (Tbl.not_mem_erase t k) (Tbl.above_erase t 0 k d h)

theorem Tbl.erase_erase (t : Tbl α) (k : Nat) : (t.erase k).erase k = t.erase k := by
  induction t with
  | nil => rfl
  | cons e t ih =>
    obtain ⟨a, x⟩ := e
    by_cases h : a = k <;> simp [Tbl.erase, h, ih]

theorem Tbl.erase_insert (t : Tbl α) (k : Nat) (v : α) : (t.insert k v).erase k = t.erase k := by
  induction t with
  | nil => simp [Tbl.insert, Tbl.erase]
  | cons e t ih =>
    obtain ⟨a, x⟩ := e
    by_cases hk : k < a
    · simp [Tbl.insert, hk, Tbl.erase]
    · by_cases h : a = k <;> simp [Tbl.insert, hk, Tbl.erase, h, ih]

/-- The later write of a key stands. -/
@[simp] theorem Tbl.set_set [DecidableEq α] (t : Tbl α) (k : Nat) (v w d : α) : (t.set k v d).set k w d = t.set k w d := by
  have h : (t.set k v d).erase k = t.erase k := by
    unfold Tbl.set
    split
    · exact Tbl.erase_erase t k
    · rw [Tbl.erase_insert, Tbl.erase_erase]
  unfold Tbl.set at h ⊢
  split <;> simp_all

/-- A part of a canonical table is canonical. -/
theorem Tbl.above_filter [DecidableEq α] (t : Tbl α) (p : Nat × α → Bool) (lo : Nat) (d : α) (h : Tbl.above lo d t = true) :
    Tbl.above lo d (t.filter p) = true := by
  induction t generalizing lo with
  | nil => rfl
  | cons e t ih =>
    obtain ⟨a, x⟩ := e
    simp only [Tbl.above, Bool.and_eq_true, decide_eq_true_eq] at h
    by_cases hp : p (a, x) = true
    · simp only [List.filter, hp, Tbl.above, Bool.and_eq_true, decide_eq_true_eq]
      exact ⟨h.1, ih _ h.2⟩
    · simp only [List.filter, hp]
      exact ih lo (Tbl.above_mono t d (by omega) h.2)

theorem Tbl.wf_filter [DecidableEq α] (t : Tbl α) (p : Nat × α → Bool) (d : α) (h : t.wf d = true) :
    Tbl.wf (t.filter p) d = true := Tbl.above_filter t p 0 d h

end Sys2Proof.Machine
end

