-- ==== Sys2Proof/Laws/Insn.lean ====
section
/-!
SUPPORT. Sys2Proof/Laws/Insn.lean: what running an instruction of a sprig comes to (R51, R52, R76, R82), said once.
-/
namespace Sys2Proof.Machine

@[simp] theorem Core.sprig_setSprig (c : Core) (g : SprigId) (x : Sprig) : (c.setSprig g x).sprig g = x := by
  simp [Core.sprig, Core.setSprig]

theorem Core.sprig_setSprig_ne (c : Core) {g h : SprigId} (x : Sprig) (hne : h ≠ g) : (c.setSprig g x).sprig h = c.sprig h := by
  simp only [Core.sprig, Core.setSprig]
  exact Tbl.get_set_ne _ (fun e => hne (BitVec.eq_of_toNat_eq e)) _ _

@[simp] theorem Core.setSprig_setSprig (c : Core) (g : SprigId) (x y : Sprig) : (c.setSprig g x).setSprig g y = c.setSprig g y := by
  simp [Core.setSprig]

@[simp] theorem Core.modSprig_setSprig (c : Core) (g : SprigId) (x : Sprig) (f : Sprig → Sprig) :
    (c.setSprig g x).modSprig g f = c.setSprig g (f x) := by
  simp [Core.modSprig]

theorem Core.modSprig_eq (c : Core) (g : SprigId) (f : Sprig → Sprig) : c.modSprig g f = c.setSprig g (f (c.sprig g)) := rfl

/-- A slot of another region, or one that holds no lease and copies none, lets the access pass and stays as it is. -/
theorem Lease.gate_pass {x : Lease} {who : Byte} {r : BitVec 13}
    (h : x.st ∈ [LeaseState.free, .refused, .lost] ∨ x.region ≠ r) : x.gate who none r = (.pass, x) := by
  rcases h with h | h
  · unfold Lease.gate
    by_cases hr : x.region ≠ r
    · simp [hr]
    · simp only [hr, if_false]
      cases hs : x.st <;> simp_all
  · simp [Lease.gate, h]

/-- Where every slot does so, the access passes all of them. -/
theorem Core.leaseGate_pass {c : Core} {b : BunchId} {who : Byte} {off : BitVec 21}
    (h : ∀ l < 4, (c.lease b (BitVec.ofNat 2 l)).st ∈ [LeaseState.free, .refused, .lost]
      ∨ (c.lease b (BitVec.ofNat 2 l)).region ≠ (off >>> 8).setWidth 13) : c.leaseGate b who none off = (.pass, c) := by
  have h0 := Lease.gate_pass (who := who) (h 0 (by decide))
  have h1 := Lease.gate_pass (who := who) (h 1 (by decide))
  have h2 := Lease.gate_pass (who := who) (h 2 (by decide))
  have h3 := Lease.gate_pass (who := who) (h 3 (by decide))
  simp [Core.leaseGate, List.range, List.range.loop, h0, h1, h2, h3]

/-- A clean fetch gives the word and leaves the core as it is. -/
theorem Core.fetchAt_clean {c : Core} {g : SprigId} (h : c.fetchClean g = true) : c.fetchAt g = .ok c := by
  unfold Core.fetchClean at h
  unfold Core.fetchAt
  dsimp only at h ⊢
  split at h
  · next hp =>
    rw [if_pos hp, if_neg]
    simpa [Option.isNone_iff_eq_none] using h
  · next hp =>
    rw [if_neg hp]
    simp only [Bool.and_eq_true, decide_eq_true_eq, List.all_eq_true, Bool.or_eq_true, List.mem_range] at h
    simp [Core.leaseGate_pass h.2, Core.readEcc, h.1]

/-- A sprig that is ready runs the instruction's body on the core as it stands. -/
theorem insn_ready {s : State} {g : SprigId} {gd : BitVec 4} {opc : Byte} (body : Core → Res) (h : s.ready g gd opc = true) :
    insn g gd opc body s = .next (s.on (s.core.finish g (body s.core))) := by
  simp only [State.ready, Bool.and_eq_true, Bool.not_eq_true', Option.isNone_iff_eq_none, decide_eq_true_eq] at h
  obtain ⟨⟨⟨⟨⟨⟨hi, hq⟩, hf⟩, hg⟩, he⟩, hc⟩, hm⟩ := h
  simp [insn, onCore, Core.insn, Core.logCs, hi, hq, Core.fetchAt_clean hf, hg, he, hc, hm, State.on]

/-- Open registers let the instruction go on. -/
theorem Core.useD_open {c : Core} {g : SprigId} {r w : List (BitVec 4)} (k : Sprig → Res) (h : (c.sprig g).open_ r w = true) :
    c.useD g r w k = k (c.sprig g) := by
  simp only [Sprig.open_, Bool.and_eq_true, List.all_eq_true, Bool.not_eq_true'] at h
  obtain ⟨hb, ht⟩ := h
  have h1 : ((r ++ w).any fun i => (c.sprig g).board.getLsbD i.toNat) = false := by
    simp only [List.any_eq_false]
    intro i hi; simp [hb i hi]
  have h2 : (r.any fun i => (c.sprig g).tags.getLsbD i.toNat) = false := by
    simp only [List.any_eq_false]
    intro i hi; simp [ht i hi]
  simp only [Core.useD, h1, h2]; simp

/-- A committed body whose core is `c'` retires there. -/
@[simp] theorem Core.finish_commit (c c' : Core) (g : SprigId) (e : Ending) : c.finish g (.commit c' e) = c'.retire g e := rfl

/-- An instruction that changes its sprig alone. -/
@[simp] theorem Core.finish_done (c : Core) (g : SprigId) (x : Sprig) (n : Nat) : c.finish g (c.done g x n) = c.setSprig g (x.past n) := by
  simp [Core.done, Core.retire, Sprig.past]

@[simp] theorem Core.finish_putInt (c : Core) (g : SprigId) (x : Sprig) (d : BitVec 4) (o : AluOut) :
    c.finish g (c.putInt g x d o) = c.setSprig g ((x.result d o).past 1) := by
  simp [Core.putInt, Sprig.result]

theorem State.on_setSprig (s : State) (g : SprigId) (x : Sprig) : s.on (s.core.setSprig g x) = s.put g x := rfl

end Sys2Proof.Machine
end

