-- ==== Sys2Proof/Laws/State.lean ====
section
/-!
SUPPORT. Sys2Proof/Laws/State.lean: for each named update of the core, every field that it leaves, one by one, and what reading back the unit
that it set gives; the same for the updates of the whole state. No later proof unfolds a record update.
-/
namespace Sys2Proof.Machine

/-! ### The whole state -/

@[simp] theorem State.on_pending (s : State) (c : Core) : (s.on c).pending = s.pending := rfl
@[simp] theorem State.on_core (s : State) (c : Core) : (s.on c).core = c := rfl
@[simp] theorem State.on_sec (s : State) (c : Core) : (s.on c).sec = s.sec := rfl
@[simp] theorem State.on_isl (s : State) (c : Core) : (s.on c).isl = s.isl := rfl
@[simp] theorem State.on_on (s : State) (c d : Core) : (s.on c).on d = s.on d := rfl
@[simp] theorem State.put_pending (s : State) (g : SprigId) (x : Sprig) : (s.put g x).pending = s.pending := rfl
@[simp] theorem State.put_core (s : State) (g : SprigId) (x : Sprig) : (s.put g x).core = s.core.setSprig g x := rfl
@[simp] theorem State.put_sec (s : State) (g : SprigId) (x : Sprig) : (s.put g x).sec = s.sec := rfl
@[simp] theorem State.put_isl (s : State) (g : SprigId) (x : Sprig) : (s.put g x).isl = s.isl := rfl

/-! ### The core: each update leaves every field but its own -/

variable (c : Core)

@[simp] theorem Core.setSprig_rest (g : SprigId) (x : Sprig) : let d := c.setSprig g x
    d.queues = c.queues ∧ d.chans = c.chans ∧ d.posyNext = c.posyNext ∧ d.hqps = c.hqps ∧ d.cmdPairs = c.cmdPairs ∧ d.cmdRegs = c.cmdRegs ∧
    d.hchans = c.hchans ∧ d.fly = c.fly ∧ d.bcasts = c.bcasts ∧ d.nextBcast = c.nextBcast ∧ d.mem = c.mem ∧ d.parity = c.parity ∧ d.ecc = c.ecc ∧
    d.csEcc = c.csEcc ∧ d.leases = c.leases ∧ d.banks = c.banks ∧ d.port1 = c.port1 ∧ d.port2 = c.port2 ∧ d.cfg = c.cfg ∧ d.regs = c.regs ∧
    d.err = c.err ∧ d.fatal = c.fatal ∧ d.quiesce = c.quiesce ∧ d.partEpoch = c.partEpoch ∧ d.held = c.held ∧ d.farHeld = c.farHeld ∧
    d.impSerial = c.impSerial ∧ d.hmem = c.hmem ∧ d.dev = c.dev ∧ d.time = c.time ∧ d.caps = c.caps ∧ d.pops = c.pops ∧ d.cmps = c.cmps ∧
    d.dms = c.dms ∧ d.deals = c.deals ∧ d.sstats = c.sstats ∧ d.fabric = c.fabric ∧ d.latchX = c.latchX ∧ d.slack = c.slack ∧ d.bics = c.bics ∧
    d.hic = c.hic ∧ d.fioBanks = c.fioBanks ∧ d.pins = c.pins ∧ d.lvIn = c.lvIn ∧ d.lvOut = c.lvOut ∧ d.qds = c.qds ∧ d.serials = c.serials ∧
    d.serShadows = c.serShadows ∧ d.eths = c.eths ∧ d.cxps = c.cxps ∧ d.dmas = c.dmas ∧ d.gdcs = c.gdcs ∧ d.cmds = c.cmds ∧ d.halves = c.halves ∧
    d.replies = c.replies ∧ d.nextCmd = c.nextCmd ∧ d.hands = c.hands ∧ d.store = c.store ∧ d.handLines = c.handLines ∧ d.met = c.met ∧
    d.tlPorts = c.tlPorts ∧ d.peers = c.peers ∧ d.tl = c.tl ∧ d.boot = c.boot ∧ d.resumeRec = c.resumeRec ∧ d.mon = c.mon ∧ d.aon = c.aon ∧
    d.power = c.power ∧ d.staged = c.staged ∧ d.shadows = c.shadows ∧ d.rdata = c.rdata ∧ d.free = c.free := by
  repeat' constructor

@[simp] theorem Core.setQueue_rest (i : QueueId) (x : Queue) : let d := c.setQueue i x
    d.sprigs = c.sprigs ∧ d.chans = c.chans ∧ d.posyNext = c.posyNext ∧ d.hqps = c.hqps ∧ d.cmdPairs = c.cmdPairs ∧ d.cmdRegs = c.cmdRegs ∧
    d.hchans = c.hchans ∧ d.fly = c.fly ∧ d.bcasts = c.bcasts ∧ d.nextBcast = c.nextBcast ∧ d.mem = c.mem ∧ d.parity = c.parity ∧ d.ecc = c.ecc ∧
    d.csEcc = c.csEcc ∧ d.leases = c.leases ∧ d.banks = c.banks ∧ d.port1 = c.port1 ∧ d.port2 = c.port2 ∧ d.cfg = c.cfg ∧ d.regs = c.regs ∧
    d.err = c.err ∧ d.fatal = c.fatal ∧ d.quiesce = c.quiesce ∧ d.partEpoch = c.partEpoch ∧ d.held = c.held ∧ d.farHeld = c.farHeld ∧
    d.impSerial = c.impSerial ∧ d.hmem = c.hmem ∧ d.dev = c.dev ∧ d.time = c.time ∧ d.caps = c.caps ∧ d.pops = c.pops ∧ d.cmps = c.cmps ∧
    d.dms = c.dms ∧ d.deals = c.deals ∧ d.sstats = c.sstats ∧ d.fabric = c.fabric ∧ d.latchX = c.latchX ∧ d.slack = c.slack ∧ d.bics = c.bics ∧
    d.hic = c.hic ∧ d.fioBanks = c.fioBanks ∧ d.pins = c.pins ∧ d.lvIn = c.lvIn ∧ d.lvOut = c.lvOut ∧ d.qds = c.qds ∧ d.serials = c.serials ∧
    d.serShadows = c.serShadows ∧ d.eths = c.eths ∧ d.cxps = c.cxps ∧ d.dmas = c.dmas ∧ d.gdcs = c.gdcs ∧ d.cmds = c.cmds ∧ d.halves = c.halves ∧
    d.replies = c.replies ∧ d.nextCmd = c.nextCmd ∧ d.hands = c.hands ∧ d.store = c.store ∧ d.handLines = c.handLines ∧ d.met = c.met ∧
    d.tlPorts = c.tlPorts ∧ d.peers = c.peers ∧ d.tl = c.tl ∧ d.boot = c.boot ∧ d.resumeRec = c.resumeRec ∧ d.mon = c.mon ∧ d.aon = c.aon ∧
    d.power = c.power ∧ d.staged = c.staged ∧ d.shadows = c.shadows ∧ d.rdata = c.rdata ∧ d.free = c.free := by
  repeat' constructor

@[simp] theorem Core.setChan_rest (g : SprigId) (n : BitVec 4) (x : Chan) : let d := c.setChan g n x
    d.sprigs = c.sprigs ∧ d.queues = c.queues ∧ d.posyNext = c.posyNext ∧ d.hqps = c.hqps ∧ d.cmdPairs = c.cmdPairs ∧ d.cmdRegs = c.cmdRegs ∧
    d.hchans = c.hchans ∧ d.fly = c.fly ∧ d.bcasts = c.bcasts ∧ d.nextBcast = c.nextBcast ∧ d.mem = c.mem ∧ d.parity = c.parity ∧ d.ecc = c.ecc ∧
    d.csEcc = c.csEcc ∧ d.leases = c.leases ∧ d.banks = c.banks ∧ d.port1 = c.port1 ∧ d.port2 = c.port2 ∧ d.cfg = c.cfg ∧ d.regs = c.regs ∧
    d.err = c.err ∧ d.fatal = c.fatal ∧ d.quiesce = c.quiesce ∧ d.partEpoch = c.partEpoch ∧ d.held = c.held ∧ d.farHeld = c.farHeld ∧
    d.impSerial = c.impSerial ∧ d.hmem = c.hmem ∧ d.dev = c.dev ∧ d.time = c.time ∧ d.caps = c.caps ∧ d.pops = c.pops ∧ d.cmps = c.cmps ∧
    d.dms = c.dms ∧ d.deals = c.deals ∧ d.sstats = c.sstats ∧ d.fabric = c.fabric ∧ d.latchX = c.latchX ∧ d.slack = c.slack ∧ d.bics = c.bics ∧
    d.hic = c.hic ∧ d.fioBanks = c.fioBanks ∧ d.pins = c.pins ∧ d.lvIn = c.lvIn ∧ d.lvOut = c.lvOut ∧ d.qds = c.qds ∧ d.serials = c.serials ∧
    d.serShadows = c.serShadows ∧ d.eths = c.eths ∧ d.cxps = c.cxps ∧ d.dmas = c.dmas ∧ d.gdcs = c.gdcs ∧ d.cmds = c.cmds ∧ d.halves = c.halves ∧
    d.replies = c.replies ∧ d.nextCmd = c.nextCmd ∧ d.hands = c.hands ∧ d.store = c.store ∧ d.handLines = c.handLines ∧ d.met = c.met ∧
    d.tlPorts = c.tlPorts ∧ d.peers = c.peers ∧ d.tl = c.tl ∧ d.boot = c.boot ∧ d.resumeRec = c.resumeRec ∧ d.mon = c.mon ∧ d.aon = c.aon ∧
    d.power = c.power ∧ d.staged = c.staged ∧ d.shadows = c.shadows ∧ d.rdata = c.rdata ∧ d.free = c.free := by
  repeat' constructor

@[simp] theorem Core.setHqp_rest (h : BitVec 8) (x : Hqp) : let d := c.setHqp h x
    d.sprigs = c.sprigs ∧ d.queues = c.queues ∧ d.chans = c.chans ∧ d.posyNext = c.posyNext ∧ d.cmdPairs = c.cmdPairs ∧ d.cmdRegs = c.cmdRegs ∧
    d.hchans = c.hchans ∧ d.fly = c.fly ∧ d.bcasts = c.bcasts ∧ d.nextBcast = c.nextBcast ∧ d.mem = c.mem ∧ d.parity = c.parity ∧ d.ecc = c.ecc ∧
    d.csEcc = c.csEcc ∧ d.leases = c.leases ∧ d.banks = c.banks ∧ d.port1 = c.port1 ∧ d.port2 = c.port2 ∧ d.cfg = c.cfg ∧ d.regs = c.regs ∧
    d.err = c.err ∧ d.fatal = c.fatal ∧ d.quiesce = c.quiesce ∧ d.partEpoch = c.partEpoch ∧ d.held = c.held ∧ d.farHeld = c.farHeld ∧
    d.impSerial = c.impSerial ∧ d.hmem = c.hmem ∧ d.dev = c.dev ∧ d.time = c.time ∧ d.caps = c.caps ∧ d.pops = c.pops ∧ d.cmps = c.cmps ∧
    d.dms = c.dms ∧ d.deals = c.deals ∧ d.sstats = c.sstats ∧ d.fabric = c.fabric ∧ d.latchX = c.latchX ∧ d.slack = c.slack ∧ d.bics = c.bics ∧
    d.hic = c.hic ∧ d.fioBanks = c.fioBanks ∧ d.pins = c.pins ∧ d.lvIn = c.lvIn ∧ d.lvOut = c.lvOut ∧ d.qds = c.qds ∧ d.serials = c.serials ∧
    d.serShadows = c.serShadows ∧ d.eths = c.eths ∧ d.cxps = c.cxps ∧ d.dmas = c.dmas ∧ d.gdcs = c.gdcs ∧ d.cmds = c.cmds ∧ d.halves = c.halves ∧
    d.replies = c.replies ∧ d.nextCmd = c.nextCmd ∧ d.hands = c.hands ∧ d.store = c.store ∧ d.handLines = c.handLines ∧ d.met = c.met ∧
    d.tlPorts = c.tlPorts ∧ d.peers = c.peers ∧ d.tl = c.tl ∧ d.boot = c.boot ∧ d.resumeRec = c.resumeRec ∧ d.mon = c.mon ∧ d.aon = c.aon ∧
    d.power = c.power ∧ d.staged = c.staged ∧ d.shadows = c.shadows ∧ d.rdata = c.rdata ∧ d.free = c.free := by
  repeat' constructor

@[simp] theorem Core.setLease_rest (b : BunchId) (l : BitVec 2) (x : Lease) : let d := c.setLease b l x
    d.sprigs = c.sprigs ∧ d.queues = c.queues ∧ d.chans = c.chans ∧ d.posyNext = c.posyNext ∧ d.hqps = c.hqps ∧ d.cmdPairs = c.cmdPairs ∧
    d.cmdRegs = c.cmdRegs ∧ d.hchans = c.hchans ∧ d.fly = c.fly ∧ d.bcasts = c.bcasts ∧ d.nextBcast = c.nextBcast ∧ d.mem = c.mem ∧
    d.parity = c.parity ∧ d.ecc = c.ecc ∧ d.csEcc = c.csEcc ∧ d.banks = c.banks ∧ d.port1 = c.port1 ∧ d.port2 = c.port2 ∧ d.cfg = c.cfg ∧
    d.regs = c.regs ∧ d.err = c.err ∧ d.fatal = c.fatal ∧ d.quiesce = c.quiesce ∧ d.partEpoch = c.partEpoch ∧ d.held = c.held ∧
    d.farHeld = c.farHeld ∧ d.impSerial = c.impSerial ∧ d.hmem = c.hmem ∧ d.dev = c.dev ∧ d.time = c.time ∧ d.caps = c.caps ∧ d.pops = c.pops ∧
    d.cmps = c.cmps ∧ d.dms = c.dms ∧ d.deals = c.deals ∧ d.sstats = c.sstats ∧ d.fabric = c.fabric ∧ d.latchX = c.latchX ∧ d.slack = c.slack ∧
    d.bics = c.bics ∧ d.hic = c.hic ∧ d.fioBanks = c.fioBanks ∧ d.pins = c.pins ∧ d.lvIn = c.lvIn ∧ d.lvOut = c.lvOut ∧ d.qds = c.qds ∧
    d.serials = c.serials ∧ d.serShadows = c.serShadows ∧ d.eths = c.eths ∧ d.cxps = c.cxps ∧ d.dmas = c.dmas ∧ d.gdcs = c.gdcs ∧ d.cmds = c.cmds ∧
    d.halves = c.halves ∧ d.replies = c.replies ∧ d.nextCmd = c.nextCmd ∧ d.hands = c.hands ∧ d.store = c.store ∧ d.handLines = c.handLines ∧
    d.met = c.met ∧ d.tlPorts = c.tlPorts ∧ d.peers = c.peers ∧ d.tl = c.tl ∧ d.boot = c.boot ∧ d.resumeRec = c.resumeRec ∧ d.mon = c.mon ∧
    d.aon = c.aon ∧ d.power = c.power ∧ d.staged = c.staged ∧ d.shadows = c.shadows ∧ d.rdata = c.rdata ∧ d.free = c.free := by
  repeat' constructor

@[simp] theorem Core.setReg_rest (a : Nat) (v d : Word) : let d := c.setReg a v d
    d.sprigs = c.sprigs ∧ d.queues = c.queues ∧ d.chans = c.chans ∧ d.posyNext = c.posyNext ∧ d.hqps = c.hqps ∧ d.cmdPairs = c.cmdPairs ∧
    d.cmdRegs = c.cmdRegs ∧ d.hchans = c.hchans ∧ d.fly = c.fly ∧ d.bcasts = c.bcasts ∧ d.nextBcast = c.nextBcast ∧ d.mem = c.mem ∧
    d.parity = c.parity ∧ d.ecc = c.ecc ∧ d.csEcc = c.csEcc ∧ d.leases = c.leases ∧ d.banks = c.banks ∧ d.port1 = c.port1 ∧ d.port2 = c.port2 ∧
    d.cfg = c.cfg ∧ d.err = c.err ∧ d.fatal = c.fatal ∧ d.quiesce = c.quiesce ∧ d.partEpoch = c.partEpoch ∧ d.held = c.held ∧ d.farHeld = c.farHeld ∧
    d.impSerial = c.impSerial ∧ d.hmem = c.hmem ∧ d.dev = c.dev ∧ d.time = c.time ∧ d.caps = c.caps ∧ d.pops = c.pops ∧ d.cmps = c.cmps ∧
    d.dms = c.dms ∧ d.deals = c.deals ∧ d.sstats = c.sstats ∧ d.fabric = c.fabric ∧ d.latchX = c.latchX ∧ d.slack = c.slack ∧ d.bics = c.bics ∧
    d.hic = c.hic ∧ d.fioBanks = c.fioBanks ∧ d.pins = c.pins ∧ d.lvIn = c.lvIn ∧ d.lvOut = c.lvOut ∧ d.qds = c.qds ∧ d.serials = c.serials ∧
    d.serShadows = c.serShadows ∧ d.eths = c.eths ∧ d.cxps = c.cxps ∧ d.dmas = c.dmas ∧ d.gdcs = c.gdcs ∧ d.cmds = c.cmds ∧ d.halves = c.halves ∧
    d.replies = c.replies ∧ d.nextCmd = c.nextCmd ∧ d.hands = c.hands ∧ d.store = c.store ∧ d.handLines = c.handLines ∧ d.met = c.met ∧
    d.tlPorts = c.tlPorts ∧ d.peers = c.peers ∧ d.tl = c.tl ∧ d.boot = c.boot ∧ d.resumeRec = c.resumeRec ∧ d.mon = c.mon ∧ d.aon = c.aon ∧
    d.power = c.power ∧ d.staged = c.staged ∧ d.shadows = c.shadows ∧ d.rdata = c.rdata ∧ d.free = c.free := by
  repeat' constructor

@[simp] theorem Core.setByte_rest (a : Nat) (v : Byte) : let d := c.setByte a v
    d.sprigs = c.sprigs ∧ d.queues = c.queues ∧ d.chans = c.chans ∧ d.posyNext = c.posyNext ∧ d.hqps = c.hqps ∧ d.cmdPairs = c.cmdPairs ∧
    d.cmdRegs = c.cmdRegs ∧ d.hchans = c.hchans ∧ d.fly = c.fly ∧ d.bcasts = c.bcasts ∧ d.nextBcast = c.nextBcast ∧ d.parity = c.parity ∧
    d.ecc = c.ecc ∧ d.csEcc = c.csEcc ∧ d.leases = c.leases ∧ d.banks = c.banks ∧ d.port1 = c.port1 ∧ d.port2 = c.port2 ∧ d.cfg = c.cfg ∧
    d.regs = c.regs ∧ d.err = c.err ∧ d.fatal = c.fatal ∧ d.quiesce = c.quiesce ∧ d.partEpoch = c.partEpoch ∧ d.held = c.held ∧
    d.farHeld = c.farHeld ∧ d.impSerial = c.impSerial ∧ d.hmem = c.hmem ∧ d.dev = c.dev ∧ d.time = c.time ∧ d.caps = c.caps ∧ d.pops = c.pops ∧
    d.cmps = c.cmps ∧ d.dms = c.dms ∧ d.deals = c.deals ∧ d.sstats = c.sstats ∧ d.fabric = c.fabric ∧ d.latchX = c.latchX ∧ d.slack = c.slack ∧
    d.bics = c.bics ∧ d.hic = c.hic ∧ d.fioBanks = c.fioBanks ∧ d.pins = c.pins ∧ d.lvIn = c.lvIn ∧ d.lvOut = c.lvOut ∧ d.qds = c.qds ∧
    d.serials = c.serials ∧ d.serShadows = c.serShadows ∧ d.eths = c.eths ∧ d.cxps = c.cxps ∧ d.dmas = c.dmas ∧ d.gdcs = c.gdcs ∧ d.cmds = c.cmds ∧
    d.halves = c.halves ∧ d.replies = c.replies ∧ d.nextCmd = c.nextCmd ∧ d.hands = c.hands ∧ d.store = c.store ∧ d.handLines = c.handLines ∧
    d.met = c.met ∧ d.tlPorts = c.tlPorts ∧ d.peers = c.peers ∧ d.tl = c.tl ∧ d.boot = c.boot ∧ d.resumeRec = c.resumeRec ∧ d.mon = c.mon ∧
    d.aon = c.aon ∧ d.power = c.power ∧ d.staged = c.staged ∧ d.shadows = c.shadows ∧ d.rdata = c.rdata ∧ d.free = c.free := by
  repeat' constructor

@[simp] theorem Core.setMark_rest (a : Nat) (m : EccMark) : let d := c.setMark a m
    d.sprigs = c.sprigs ∧ d.queues = c.queues ∧ d.chans = c.chans ∧ d.posyNext = c.posyNext ∧ d.hqps = c.hqps ∧ d.cmdPairs = c.cmdPairs ∧
    d.cmdRegs = c.cmdRegs ∧ d.hchans = c.hchans ∧ d.fly = c.fly ∧ d.bcasts = c.bcasts ∧ d.nextBcast = c.nextBcast ∧ d.mem = c.mem ∧
    d.parity = c.parity ∧ d.csEcc = c.csEcc ∧ d.leases = c.leases ∧ d.banks = c.banks ∧ d.port1 = c.port1 ∧ d.port2 = c.port2 ∧ d.cfg = c.cfg ∧
    d.regs = c.regs ∧ d.err = c.err ∧ d.fatal = c.fatal ∧ d.quiesce = c.quiesce ∧ d.partEpoch = c.partEpoch ∧ d.held = c.held ∧
    d.farHeld = c.farHeld ∧ d.impSerial = c.impSerial ∧ d.hmem = c.hmem ∧ d.dev = c.dev ∧ d.time = c.time ∧ d.caps = c.caps ∧ d.pops = c.pops ∧
    d.cmps = c.cmps ∧ d.dms = c.dms ∧ d.deals = c.deals ∧ d.sstats = c.sstats ∧ d.fabric = c.fabric ∧ d.latchX = c.latchX ∧ d.slack = c.slack ∧
    d.bics = c.bics ∧ d.hic = c.hic ∧ d.fioBanks = c.fioBanks ∧ d.pins = c.pins ∧ d.lvIn = c.lvIn ∧ d.lvOut = c.lvOut ∧ d.qds = c.qds ∧
    d.serials = c.serials ∧ d.serShadows = c.serShadows ∧ d.eths = c.eths ∧ d.cxps = c.cxps ∧ d.dmas = c.dmas ∧ d.gdcs = c.gdcs ∧ d.cmds = c.cmds ∧
    d.halves = c.halves ∧ d.replies = c.replies ∧ d.nextCmd = c.nextCmd ∧ d.hands = c.hands ∧ d.store = c.store ∧ d.handLines = c.handLines ∧
    d.met = c.met ∧ d.tlPorts = c.tlPorts ∧ d.peers = c.peers ∧ d.tl = c.tl ∧ d.boot = c.boot ∧ d.resumeRec = c.resumeRec ∧ d.mon = c.mon ∧
    d.aon = c.aon ∧ d.power = c.power ∧ d.staged = c.staged ∧ d.shadows = c.shadows ∧ d.rdata = c.rdata ∧ d.free = c.free := by
  repeat' constructor

@[simp] theorem Core.setCsMark_rest (a : Nat) (m : EccMark) : let d := c.setCsMark a m
    d.sprigs = c.sprigs ∧ d.queues = c.queues ∧ d.chans = c.chans ∧ d.posyNext = c.posyNext ∧ d.hqps = c.hqps ∧ d.cmdPairs = c.cmdPairs ∧
    d.cmdRegs = c.cmdRegs ∧ d.hchans = c.hchans ∧ d.fly = c.fly ∧ d.bcasts = c.bcasts ∧ d.nextBcast = c.nextBcast ∧ d.mem = c.mem ∧
    d.parity = c.parity ∧ d.ecc = c.ecc ∧ d.leases = c.leases ∧ d.banks = c.banks ∧ d.port1 = c.port1 ∧ d.port2 = c.port2 ∧ d.cfg = c.cfg ∧
    d.regs = c.regs ∧ d.err = c.err ∧ d.fatal = c.fatal ∧ d.quiesce = c.quiesce ∧ d.partEpoch = c.partEpoch ∧ d.held = c.held ∧
    d.farHeld = c.farHeld ∧ d.impSerial = c.impSerial ∧ d.hmem = c.hmem ∧ d.dev = c.dev ∧ d.time = c.time ∧ d.caps = c.caps ∧ d.pops = c.pops ∧
    d.cmps = c.cmps ∧ d.dms = c.dms ∧ d.deals = c.deals ∧ d.sstats = c.sstats ∧ d.fabric = c.fabric ∧ d.latchX = c.latchX ∧ d.slack = c.slack ∧
    d.bics = c.bics ∧ d.hic = c.hic ∧ d.fioBanks = c.fioBanks ∧ d.pins = c.pins ∧ d.lvIn = c.lvIn ∧ d.lvOut = c.lvOut ∧ d.qds = c.qds ∧
    d.serials = c.serials ∧ d.serShadows = c.serShadows ∧ d.eths = c.eths ∧ d.cxps = c.cxps ∧ d.dmas = c.dmas ∧ d.gdcs = c.gdcs ∧ d.cmds = c.cmds ∧
    d.halves = c.halves ∧ d.replies = c.replies ∧ d.nextCmd = c.nextCmd ∧ d.hands = c.hands ∧ d.store = c.store ∧ d.handLines = c.handLines ∧
    d.met = c.met ∧ d.tlPorts = c.tlPorts ∧ d.peers = c.peers ∧ d.tl = c.tl ∧ d.boot = c.boot ∧ d.resumeRec = c.resumeRec ∧ d.mon = c.mon ∧
    d.aon = c.aon ∧ d.power = c.power ∧ d.staged = c.staged ∧ d.shadows = c.shadows ∧ d.rdata = c.rdata ∧ d.free = c.free := by
  repeat' constructor

@[simp] theorem Core.setParity_rest (a : Nat) (v : Bool) : let d := c.setParity a v
    d.sprigs = c.sprigs ∧ d.queues = c.queues ∧ d.chans = c.chans ∧ d.posyNext = c.posyNext ∧ d.hqps = c.hqps ∧ d.cmdPairs = c.cmdPairs ∧
    d.cmdRegs = c.cmdRegs ∧ d.hchans = c.hchans ∧ d.fly = c.fly ∧ d.bcasts = c.bcasts ∧ d.nextBcast = c.nextBcast ∧ d.mem = c.mem ∧ d.ecc = c.ecc ∧
    d.csEcc = c.csEcc ∧ d.leases = c.leases ∧ d.banks = c.banks ∧ d.port1 = c.port1 ∧ d.port2 = c.port2 ∧ d.cfg = c.cfg ∧ d.regs = c.regs ∧
    d.err = c.err ∧ d.fatal = c.fatal ∧ d.quiesce = c.quiesce ∧ d.partEpoch = c.partEpoch ∧ d.held = c.held ∧ d.farHeld = c.farHeld ∧
    d.impSerial = c.impSerial ∧ d.hmem = c.hmem ∧ d.dev = c.dev ∧ d.time = c.time ∧ d.caps = c.caps ∧ d.pops = c.pops ∧ d.cmps = c.cmps ∧
    d.dms = c.dms ∧ d.deals = c.deals ∧ d.sstats = c.sstats ∧ d.fabric = c.fabric ∧ d.latchX = c.latchX ∧ d.slack = c.slack ∧ d.bics = c.bics ∧
    d.hic = c.hic ∧ d.fioBanks = c.fioBanks ∧ d.pins = c.pins ∧ d.lvIn = c.lvIn ∧ d.lvOut = c.lvOut ∧ d.qds = c.qds ∧ d.serials = c.serials ∧
    d.serShadows = c.serShadows ∧ d.eths = c.eths ∧ d.cxps = c.cxps ∧ d.dmas = c.dmas ∧ d.gdcs = c.gdcs ∧ d.cmds = c.cmds ∧ d.halves = c.halves ∧
    d.replies = c.replies ∧ d.nextCmd = c.nextCmd ∧ d.hands = c.hands ∧ d.store = c.store ∧ d.handLines = c.handLines ∧ d.met = c.met ∧
    d.tlPorts = c.tlPorts ∧ d.peers = c.peers ∧ d.tl = c.tl ∧ d.boot = c.boot ∧ d.resumeRec = c.resumeRec ∧ d.mon = c.mon ∧ d.aon = c.aon ∧
    d.power = c.power ∧ d.staged = c.staged ∧ d.shadows = c.shadows ∧ d.rdata = c.rdata ∧ d.free = c.free := by
  repeat' constructor

@[simp] theorem Core.setGdc_rest (k : Nat) (x : Gdc) : let d := c.setGdc k x
    d.sprigs = c.sprigs ∧ d.queues = c.queues ∧ d.chans = c.chans ∧ d.posyNext = c.posyNext ∧ d.hqps = c.hqps ∧ d.cmdPairs = c.cmdPairs ∧
    d.cmdRegs = c.cmdRegs ∧ d.hchans = c.hchans ∧ d.fly = c.fly ∧ d.bcasts = c.bcasts ∧ d.nextBcast = c.nextBcast ∧ d.mem = c.mem ∧
    d.parity = c.parity ∧ d.ecc = c.ecc ∧ d.csEcc = c.csEcc ∧ d.leases = c.leases ∧ d.banks = c.banks ∧ d.port1 = c.port1 ∧ d.port2 = c.port2 ∧
    d.cfg = c.cfg ∧ d.regs = c.regs ∧ d.err = c.err ∧ d.fatal = c.fatal ∧ d.quiesce = c.quiesce ∧ d.partEpoch = c.partEpoch ∧ d.held = c.held ∧
    d.farHeld = c.farHeld ∧ d.impSerial = c.impSerial ∧ d.hmem = c.hmem ∧ d.dev = c.dev ∧ d.time = c.time ∧ d.caps = c.caps ∧ d.pops = c.pops ∧
    d.cmps = c.cmps ∧ d.dms = c.dms ∧ d.deals = c.deals ∧ d.sstats = c.sstats ∧ d.fabric = c.fabric ∧ d.latchX = c.latchX ∧ d.slack = c.slack ∧
    d.bics = c.bics ∧ d.hic = c.hic ∧ d.fioBanks = c.fioBanks ∧ d.pins = c.pins ∧ d.lvIn = c.lvIn ∧ d.lvOut = c.lvOut ∧ d.qds = c.qds ∧
    d.serials = c.serials ∧ d.serShadows = c.serShadows ∧ d.eths = c.eths ∧ d.cxps = c.cxps ∧ d.dmas = c.dmas ∧ d.cmds = c.cmds ∧
    d.halves = c.halves ∧ d.replies = c.replies ∧ d.nextCmd = c.nextCmd ∧ d.hands = c.hands ∧ d.store = c.store ∧ d.handLines = c.handLines ∧
    d.met = c.met ∧ d.tlPorts = c.tlPorts ∧ d.peers = c.peers ∧ d.tl = c.tl ∧ d.boot = c.boot ∧ d.resumeRec = c.resumeRec ∧ d.mon = c.mon ∧
    d.aon = c.aon ∧ d.power = c.power ∧ d.staged = c.staged ∧ d.shadows = c.shadows ∧ d.rdata = c.rdata ∧ d.free = c.free := by
  repeat' constructor

@[simp] theorem Core.setCmds_rest (q : CmdSrc) (l : List Cmd) : let d := c.setCmds q l
    d.sprigs = c.sprigs ∧ d.queues = c.queues ∧ d.chans = c.chans ∧ d.posyNext = c.posyNext ∧ d.hqps = c.hqps ∧ d.cmdPairs = c.cmdPairs ∧
    d.cmdRegs = c.cmdRegs ∧ d.hchans = c.hchans ∧ d.fly = c.fly ∧ d.bcasts = c.bcasts ∧ d.nextBcast = c.nextBcast ∧ d.mem = c.mem ∧
    d.parity = c.parity ∧ d.ecc = c.ecc ∧ d.csEcc = c.csEcc ∧ d.leases = c.leases ∧ d.banks = c.banks ∧ d.port1 = c.port1 ∧ d.port2 = c.port2 ∧
    d.cfg = c.cfg ∧ d.regs = c.regs ∧ d.err = c.err ∧ d.fatal = c.fatal ∧ d.quiesce = c.quiesce ∧ d.partEpoch = c.partEpoch ∧ d.held = c.held ∧
    d.farHeld = c.farHeld ∧ d.impSerial = c.impSerial ∧ d.hmem = c.hmem ∧ d.dev = c.dev ∧ d.time = c.time ∧ d.caps = c.caps ∧ d.pops = c.pops ∧
    d.cmps = c.cmps ∧ d.dms = c.dms ∧ d.deals = c.deals ∧ d.sstats = c.sstats ∧ d.fabric = c.fabric ∧ d.latchX = c.latchX ∧ d.slack = c.slack ∧
    d.bics = c.bics ∧ d.hic = c.hic ∧ d.fioBanks = c.fioBanks ∧ d.pins = c.pins ∧ d.lvIn = c.lvIn ∧ d.lvOut = c.lvOut ∧ d.qds = c.qds ∧
    d.serials = c.serials ∧ d.serShadows = c.serShadows ∧ d.eths = c.eths ∧ d.cxps = c.cxps ∧ d.dmas = c.dmas ∧ d.gdcs = c.gdcs ∧
    d.halves = c.halves ∧ d.replies = c.replies ∧ d.nextCmd = c.nextCmd ∧ d.hands = c.hands ∧ d.store = c.store ∧ d.handLines = c.handLines ∧
    d.met = c.met ∧ d.tlPorts = c.tlPorts ∧ d.peers = c.peers ∧ d.tl = c.tl ∧ d.boot = c.boot ∧ d.resumeRec = c.resumeRec ∧ d.mon = c.mon ∧
    d.aon = c.aon ∧ d.power = c.power ∧ d.staged = c.staged ∧ d.shadows = c.shadows ∧ d.rdata = c.rdata ∧ d.free = c.free := by
  repeat' constructor

@[simp] theorem Core.setHand_rest (k : BitVec 4) (h : Hand) : let d := c.setHand k h
    d.sprigs = c.sprigs ∧ d.queues = c.queues ∧ d.chans = c.chans ∧ d.posyNext = c.posyNext ∧ d.hqps = c.hqps ∧ d.cmdPairs = c.cmdPairs ∧
    d.cmdRegs = c.cmdRegs ∧ d.hchans = c.hchans ∧ d.fly = c.fly ∧ d.bcasts = c.bcasts ∧ d.nextBcast = c.nextBcast ∧ d.mem = c.mem ∧
    d.parity = c.parity ∧ d.ecc = c.ecc ∧ d.csEcc = c.csEcc ∧ d.leases = c.leases ∧ d.banks = c.banks ∧ d.port1 = c.port1 ∧ d.port2 = c.port2 ∧
    d.cfg = c.cfg ∧ d.regs = c.regs ∧ d.err = c.err ∧ d.fatal = c.fatal ∧ d.quiesce = c.quiesce ∧ d.partEpoch = c.partEpoch ∧ d.held = c.held ∧
    d.farHeld = c.farHeld ∧ d.impSerial = c.impSerial ∧ d.hmem = c.hmem ∧ d.dev = c.dev ∧ d.time = c.time ∧ d.caps = c.caps ∧ d.pops = c.pops ∧
    d.cmps = c.cmps ∧ d.dms = c.dms ∧ d.deals = c.deals ∧ d.sstats = c.sstats ∧ d.fabric = c.fabric ∧ d.latchX = c.latchX ∧ d.slack = c.slack ∧
    d.bics = c.bics ∧ d.hic = c.hic ∧ d.fioBanks = c.fioBanks ∧ d.pins = c.pins ∧ d.lvIn = c.lvIn ∧ d.lvOut = c.lvOut ∧ d.qds = c.qds ∧
    d.serials = c.serials ∧ d.serShadows = c.serShadows ∧ d.eths = c.eths ∧ d.cxps = c.cxps ∧ d.dmas = c.dmas ∧ d.gdcs = c.gdcs ∧ d.cmds = c.cmds ∧
    d.halves = c.halves ∧ d.replies = c.replies ∧ d.nextCmd = c.nextCmd ∧ d.store = c.store ∧ d.handLines = c.handLines ∧ d.met = c.met ∧
    d.tlPorts = c.tlPorts ∧ d.peers = c.peers ∧ d.tl = c.tl ∧ d.boot = c.boot ∧ d.resumeRec = c.resumeRec ∧ d.mon = c.mon ∧ d.aon = c.aon ∧
    d.power = c.power ∧ d.staged = c.staged ∧ d.shadows = c.shadows ∧ d.rdata = c.rdata ∧ d.free = c.free := by
  repeat' constructor

@[simp] theorem Core.setTlPort_rest (t : BitVec 2) (x : TlPort) : let d := c.setTlPort t x
    d.sprigs = c.sprigs ∧ d.queues = c.queues ∧ d.chans = c.chans ∧ d.posyNext = c.posyNext ∧ d.hqps = c.hqps ∧ d.cmdPairs = c.cmdPairs ∧
    d.cmdRegs = c.cmdRegs ∧ d.hchans = c.hchans ∧ d.fly = c.fly ∧ d.bcasts = c.bcasts ∧ d.nextBcast = c.nextBcast ∧ d.mem = c.mem ∧
    d.parity = c.parity ∧ d.ecc = c.ecc ∧ d.csEcc = c.csEcc ∧ d.leases = c.leases ∧ d.banks = c.banks ∧ d.port1 = c.port1 ∧ d.port2 = c.port2 ∧
    d.cfg = c.cfg ∧ d.regs = c.regs ∧ d.err = c.err ∧ d.fatal = c.fatal ∧ d.quiesce = c.quiesce ∧ d.partEpoch = c.partEpoch ∧ d.held = c.held ∧
    d.farHeld = c.farHeld ∧ d.impSerial = c.impSerial ∧ d.hmem = c.hmem ∧ d.dev = c.dev ∧ d.time = c.time ∧ d.caps = c.caps ∧ d.pops = c.pops ∧
    d.cmps = c.cmps ∧ d.dms = c.dms ∧ d.deals = c.deals ∧ d.sstats = c.sstats ∧ d.fabric = c.fabric ∧ d.latchX = c.latchX ∧ d.slack = c.slack ∧
    d.bics = c.bics ∧ d.hic = c.hic ∧ d.fioBanks = c.fioBanks ∧ d.pins = c.pins ∧ d.lvIn = c.lvIn ∧ d.lvOut = c.lvOut ∧ d.qds = c.qds ∧
    d.serials = c.serials ∧ d.serShadows = c.serShadows ∧ d.eths = c.eths ∧ d.cxps = c.cxps ∧ d.dmas = c.dmas ∧ d.gdcs = c.gdcs ∧ d.cmds = c.cmds ∧
    d.halves = c.halves ∧ d.replies = c.replies ∧ d.nextCmd = c.nextCmd ∧ d.hands = c.hands ∧ d.store = c.store ∧ d.handLines = c.handLines ∧
    d.met = c.met ∧ d.peers = c.peers ∧ d.tl = c.tl ∧ d.boot = c.boot ∧ d.resumeRec = c.resumeRec ∧ d.mon = c.mon ∧ d.aon = c.aon ∧
    d.power = c.power ∧ d.staged = c.staged ∧ d.shadows = c.shadows ∧ d.rdata = c.rdata ∧ d.free = c.free := by
  repeat' constructor

@[simp] theorem Core.setPeer_rest (d : DeviceId) (x : PairRec) : let d := c.setPeer d x
    d.sprigs = c.sprigs ∧ d.queues = c.queues ∧ d.chans = c.chans ∧ d.posyNext = c.posyNext ∧ d.hqps = c.hqps ∧ d.cmdPairs = c.cmdPairs ∧
    d.cmdRegs = c.cmdRegs ∧ d.hchans = c.hchans ∧ d.fly = c.fly ∧ d.bcasts = c.bcasts ∧ d.nextBcast = c.nextBcast ∧ d.mem = c.mem ∧
    d.parity = c.parity ∧ d.ecc = c.ecc ∧ d.csEcc = c.csEcc ∧ d.leases = c.leases ∧ d.banks = c.banks ∧ d.port1 = c.port1 ∧ d.port2 = c.port2 ∧
    d.cfg = c.cfg ∧ d.regs = c.regs ∧ d.err = c.err ∧ d.fatal = c.fatal ∧ d.quiesce = c.quiesce ∧ d.partEpoch = c.partEpoch ∧ d.held = c.held ∧
    d.farHeld = c.farHeld ∧ d.impSerial = c.impSerial ∧ d.hmem = c.hmem ∧ d.dev = c.dev ∧ d.time = c.time ∧ d.caps = c.caps ∧ d.pops = c.pops ∧
    d.cmps = c.cmps ∧ d.dms = c.dms ∧ d.deals = c.deals ∧ d.sstats = c.sstats ∧ d.fabric = c.fabric ∧ d.latchX = c.latchX ∧ d.slack = c.slack ∧
    d.bics = c.bics ∧ d.hic = c.hic ∧ d.fioBanks = c.fioBanks ∧ d.pins = c.pins ∧ d.lvIn = c.lvIn ∧ d.lvOut = c.lvOut ∧ d.qds = c.qds ∧
    d.serials = c.serials ∧ d.serShadows = c.serShadows ∧ d.eths = c.eths ∧ d.cxps = c.cxps ∧ d.dmas = c.dmas ∧ d.gdcs = c.gdcs ∧ d.cmds = c.cmds ∧
    d.halves = c.halves ∧ d.replies = c.replies ∧ d.nextCmd = c.nextCmd ∧ d.hands = c.hands ∧ d.store = c.store ∧ d.handLines = c.handLines ∧
    d.met = c.met ∧ d.tlPorts = c.tlPorts ∧ d.tl = c.tl ∧ d.boot = c.boot ∧ d.resumeRec = c.resumeRec ∧ d.mon = c.mon ∧ d.aon = c.aon ∧
    d.power = c.power ∧ d.staged = c.staged ∧ d.shadows = c.shadows ∧ d.rdata = c.rdata ∧ d.free = c.free := by
  repeat' constructor

@[simp] theorem Core.setBic_rest (b : BunchId) (x : Bic) : let d := c.setBic b x
    d.sprigs = c.sprigs ∧ d.queues = c.queues ∧ d.chans = c.chans ∧ d.posyNext = c.posyNext ∧ d.hqps = c.hqps ∧ d.cmdPairs = c.cmdPairs ∧
    d.cmdRegs = c.cmdRegs ∧ d.hchans = c.hchans ∧ d.fly = c.fly ∧ d.bcasts = c.bcasts ∧ d.nextBcast = c.nextBcast ∧ d.mem = c.mem ∧
    d.parity = c.parity ∧ d.ecc = c.ecc ∧ d.csEcc = c.csEcc ∧ d.leases = c.leases ∧ d.banks = c.banks ∧ d.port1 = c.port1 ∧ d.port2 = c.port2 ∧
    d.cfg = c.cfg ∧ d.regs = c.regs ∧ d.err = c.err ∧ d.fatal = c.fatal ∧ d.quiesce = c.quiesce ∧ d.partEpoch = c.partEpoch ∧ d.held = c.held ∧
    d.farHeld = c.farHeld ∧ d.impSerial = c.impSerial ∧ d.hmem = c.hmem ∧ d.dev = c.dev ∧ d.time = c.time ∧ d.caps = c.caps ∧ d.pops = c.pops ∧
    d.cmps = c.cmps ∧ d.dms = c.dms ∧ d.deals = c.deals ∧ d.sstats = c.sstats ∧ d.fabric = c.fabric ∧ d.latchX = c.latchX ∧ d.slack = c.slack ∧
    d.hic = c.hic ∧ d.fioBanks = c.fioBanks ∧ d.pins = c.pins ∧ d.lvIn = c.lvIn ∧ d.lvOut = c.lvOut ∧ d.qds = c.qds ∧ d.serials = c.serials ∧
    d.serShadows = c.serShadows ∧ d.eths = c.eths ∧ d.cxps = c.cxps ∧ d.dmas = c.dmas ∧ d.gdcs = c.gdcs ∧ d.cmds = c.cmds ∧ d.halves = c.halves ∧
    d.replies = c.replies ∧ d.nextCmd = c.nextCmd ∧ d.hands = c.hands ∧ d.store = c.store ∧ d.handLines = c.handLines ∧ d.met = c.met ∧
    d.tlPorts = c.tlPorts ∧ d.peers = c.peers ∧ d.tl = c.tl ∧ d.boot = c.boot ∧ d.resumeRec = c.resumeRec ∧ d.mon = c.mon ∧ d.aon = c.aon ∧
    d.power = c.power ∧ d.staged = c.staged ∧ d.shadows = c.shadows ∧ d.rdata = c.rdata ∧ d.free = c.free := by
  repeat' constructor

@[simp] theorem Core.setCmp_rest (k : BitVec 12) (x : Cmp) : let d := c.setCmp k x
    d.sprigs = c.sprigs ∧ d.queues = c.queues ∧ d.chans = c.chans ∧ d.posyNext = c.posyNext ∧ d.hqps = c.hqps ∧ d.cmdPairs = c.cmdPairs ∧
    d.cmdRegs = c.cmdRegs ∧ d.hchans = c.hchans ∧ d.fly = c.fly ∧ d.bcasts = c.bcasts ∧ d.nextBcast = c.nextBcast ∧ d.mem = c.mem ∧
    d.parity = c.parity ∧ d.ecc = c.ecc ∧ d.csEcc = c.csEcc ∧ d.leases = c.leases ∧ d.banks = c.banks ∧ d.port1 = c.port1 ∧ d.port2 = c.port2 ∧
    d.cfg = c.cfg ∧ d.regs = c.regs ∧ d.err = c.err ∧ d.fatal = c.fatal ∧ d.quiesce = c.quiesce ∧ d.partEpoch = c.partEpoch ∧ d.held = c.held ∧
    d.farHeld = c.farHeld ∧ d.impSerial = c.impSerial ∧ d.hmem = c.hmem ∧ d.dev = c.dev ∧ d.time = c.time ∧ d.caps = c.caps ∧ d.pops = c.pops ∧
    d.dms = c.dms ∧ d.deals = c.deals ∧ d.sstats = c.sstats ∧ d.fabric = c.fabric ∧ d.latchX = c.latchX ∧ d.slack = c.slack ∧ d.bics = c.bics ∧
    d.hic = c.hic ∧ d.fioBanks = c.fioBanks ∧ d.pins = c.pins ∧ d.lvIn = c.lvIn ∧ d.lvOut = c.lvOut ∧ d.qds = c.qds ∧ d.serials = c.serials ∧
    d.serShadows = c.serShadows ∧ d.eths = c.eths ∧ d.cxps = c.cxps ∧ d.dmas = c.dmas ∧ d.gdcs = c.gdcs ∧ d.cmds = c.cmds ∧ d.halves = c.halves ∧
    d.replies = c.replies ∧ d.nextCmd = c.nextCmd ∧ d.hands = c.hands ∧ d.store = c.store ∧ d.handLines = c.handLines ∧ d.met = c.met ∧
    d.tlPorts = c.tlPorts ∧ d.peers = c.peers ∧ d.tl = c.tl ∧ d.boot = c.boot ∧ d.resumeRec = c.resumeRec ∧ d.mon = c.mon ∧ d.aon = c.aon ∧
    d.power = c.power ∧ d.staged = c.staged ∧ d.shadows = c.shadows ∧ d.rdata = c.rdata ∧ d.free = c.free := by
  repeat' constructor

@[simp] theorem Core.setDm_rest (k : BitVec 12) (x : Dm) : let d := c.setDm k x
    d.sprigs = c.sprigs ∧ d.queues = c.queues ∧ d.chans = c.chans ∧ d.posyNext = c.posyNext ∧ d.hqps = c.hqps ∧ d.cmdPairs = c.cmdPairs ∧
    d.cmdRegs = c.cmdRegs ∧ d.hchans = c.hchans ∧ d.fly = c.fly ∧ d.bcasts = c.bcasts ∧ d.nextBcast = c.nextBcast ∧ d.mem = c.mem ∧
    d.parity = c.parity ∧ d.ecc = c.ecc ∧ d.csEcc = c.csEcc ∧ d.leases = c.leases ∧ d.banks = c.banks ∧ d.port1 = c.port1 ∧ d.port2 = c.port2 ∧
    d.cfg = c.cfg ∧ d.regs = c.regs ∧ d.err = c.err ∧ d.fatal = c.fatal ∧ d.quiesce = c.quiesce ∧ d.partEpoch = c.partEpoch ∧ d.held = c.held ∧
    d.farHeld = c.farHeld ∧ d.impSerial = c.impSerial ∧ d.hmem = c.hmem ∧ d.dev = c.dev ∧ d.time = c.time ∧ d.caps = c.caps ∧ d.pops = c.pops ∧
    d.cmps = c.cmps ∧ d.deals = c.deals ∧ d.sstats = c.sstats ∧ d.fabric = c.fabric ∧ d.latchX = c.latchX ∧ d.slack = c.slack ∧ d.bics = c.bics ∧
    d.hic = c.hic ∧ d.fioBanks = c.fioBanks ∧ d.pins = c.pins ∧ d.lvIn = c.lvIn ∧ d.lvOut = c.lvOut ∧ d.qds = c.qds ∧ d.serials = c.serials ∧
    d.serShadows = c.serShadows ∧ d.eths = c.eths ∧ d.cxps = c.cxps ∧ d.dmas = c.dmas ∧ d.gdcs = c.gdcs ∧ d.cmds = c.cmds ∧ d.halves = c.halves ∧
    d.replies = c.replies ∧ d.nextCmd = c.nextCmd ∧ d.hands = c.hands ∧ d.store = c.store ∧ d.handLines = c.handLines ∧ d.met = c.met ∧
    d.tlPorts = c.tlPorts ∧ d.peers = c.peers ∧ d.tl = c.tl ∧ d.boot = c.boot ∧ d.resumeRec = c.resumeRec ∧ d.mon = c.mon ∧ d.aon = c.aon ∧
    d.power = c.power ∧ d.staged = c.staged ∧ d.shadows = c.shadows ∧ d.rdata = c.rdata ∧ d.free = c.free := by
  repeat' constructor

@[simp] theorem Core.setUnit_rest (u : BitVec 16) (x : DealUnit) : let d := c.setUnit u x
    d.sprigs = c.sprigs ∧ d.queues = c.queues ∧ d.chans = c.chans ∧ d.posyNext = c.posyNext ∧ d.hqps = c.hqps ∧ d.cmdPairs = c.cmdPairs ∧
    d.cmdRegs = c.cmdRegs ∧ d.hchans = c.hchans ∧ d.fly = c.fly ∧ d.bcasts = c.bcasts ∧ d.nextBcast = c.nextBcast ∧ d.mem = c.mem ∧
    d.parity = c.parity ∧ d.ecc = c.ecc ∧ d.csEcc = c.csEcc ∧ d.leases = c.leases ∧ d.banks = c.banks ∧ d.port1 = c.port1 ∧ d.port2 = c.port2 ∧
    d.cfg = c.cfg ∧ d.regs = c.regs ∧ d.err = c.err ∧ d.fatal = c.fatal ∧ d.quiesce = c.quiesce ∧ d.partEpoch = c.partEpoch ∧ d.held = c.held ∧
    d.farHeld = c.farHeld ∧ d.impSerial = c.impSerial ∧ d.hmem = c.hmem ∧ d.dev = c.dev ∧ d.time = c.time ∧ d.caps = c.caps ∧ d.pops = c.pops ∧
    d.cmps = c.cmps ∧ d.dms = c.dms ∧ d.sstats = c.sstats ∧ d.fabric = c.fabric ∧ d.latchX = c.latchX ∧ d.slack = c.slack ∧ d.bics = c.bics ∧
    d.hic = c.hic ∧ d.fioBanks = c.fioBanks ∧ d.pins = c.pins ∧ d.lvIn = c.lvIn ∧ d.lvOut = c.lvOut ∧ d.qds = c.qds ∧ d.serials = c.serials ∧
    d.serShadows = c.serShadows ∧ d.eths = c.eths ∧ d.cxps = c.cxps ∧ d.dmas = c.dmas ∧ d.gdcs = c.gdcs ∧ d.cmds = c.cmds ∧ d.halves = c.halves ∧
    d.replies = c.replies ∧ d.nextCmd = c.nextCmd ∧ d.hands = c.hands ∧ d.store = c.store ∧ d.handLines = c.handLines ∧ d.met = c.met ∧
    d.tlPorts = c.tlPorts ∧ d.peers = c.peers ∧ d.tl = c.tl ∧ d.boot = c.boot ∧ d.resumeRec = c.resumeRec ∧ d.mon = c.mon ∧ d.aon = c.aon ∧
    d.power = c.power ∧ d.staged = c.staged ∧ d.shadows = c.shadows ∧ d.rdata = c.rdata ∧ d.free = c.free := by
  repeat' constructor

@[simp] theorem Core.setCap_rest (k : BitVec 9) (x : Capture) : let d := c.setCap k x
    d.sprigs = c.sprigs ∧ d.queues = c.queues ∧ d.chans = c.chans ∧ d.posyNext = c.posyNext ∧ d.hqps = c.hqps ∧ d.cmdPairs = c.cmdPairs ∧
    d.cmdRegs = c.cmdRegs ∧ d.hchans = c.hchans ∧ d.fly = c.fly ∧ d.bcasts = c.bcasts ∧ d.nextBcast = c.nextBcast ∧ d.mem = c.mem ∧
    d.parity = c.parity ∧ d.ecc = c.ecc ∧ d.csEcc = c.csEcc ∧ d.leases = c.leases ∧ d.banks = c.banks ∧ d.port1 = c.port1 ∧ d.port2 = c.port2 ∧
    d.cfg = c.cfg ∧ d.regs = c.regs ∧ d.err = c.err ∧ d.fatal = c.fatal ∧ d.quiesce = c.quiesce ∧ d.partEpoch = c.partEpoch ∧ d.held = c.held ∧
    d.farHeld = c.farHeld ∧ d.impSerial = c.impSerial ∧ d.hmem = c.hmem ∧ d.dev = c.dev ∧ d.time = c.time ∧ d.pops = c.pops ∧ d.cmps = c.cmps ∧
    d.dms = c.dms ∧ d.deals = c.deals ∧ d.sstats = c.sstats ∧ d.fabric = c.fabric ∧ d.latchX = c.latchX ∧ d.slack = c.slack ∧ d.bics = c.bics ∧
    d.hic = c.hic ∧ d.fioBanks = c.fioBanks ∧ d.pins = c.pins ∧ d.lvIn = c.lvIn ∧ d.lvOut = c.lvOut ∧ d.qds = c.qds ∧ d.serials = c.serials ∧
    d.serShadows = c.serShadows ∧ d.eths = c.eths ∧ d.cxps = c.cxps ∧ d.dmas = c.dmas ∧ d.gdcs = c.gdcs ∧ d.cmds = c.cmds ∧ d.halves = c.halves ∧
    d.replies = c.replies ∧ d.nextCmd = c.nextCmd ∧ d.hands = c.hands ∧ d.store = c.store ∧ d.handLines = c.handLines ∧ d.met = c.met ∧
    d.tlPorts = c.tlPorts ∧ d.peers = c.peers ∧ d.tl = c.tl ∧ d.boot = c.boot ∧ d.resumeRec = c.resumeRec ∧ d.mon = c.mon ∧ d.aon = c.aon ∧
    d.power = c.power ∧ d.staged = c.staged ∧ d.shadows = c.shadows ∧ d.rdata = c.rdata ∧ d.free = c.free := by
  repeat' constructor

@[simp] theorem Core.setQd_rest (k : BitVec 6) (x : Qd) : let d := c.setQd k x
    d.sprigs = c.sprigs ∧ d.queues = c.queues ∧ d.chans = c.chans ∧ d.posyNext = c.posyNext ∧ d.hqps = c.hqps ∧ d.cmdPairs = c.cmdPairs ∧
    d.cmdRegs = c.cmdRegs ∧ d.hchans = c.hchans ∧ d.fly = c.fly ∧ d.bcasts = c.bcasts ∧ d.nextBcast = c.nextBcast ∧ d.mem = c.mem ∧
    d.parity = c.parity ∧ d.ecc = c.ecc ∧ d.csEcc = c.csEcc ∧ d.leases = c.leases ∧ d.banks = c.banks ∧ d.port1 = c.port1 ∧ d.port2 = c.port2 ∧
    d.cfg = c.cfg ∧ d.regs = c.regs ∧ d.err = c.err ∧ d.fatal = c.fatal ∧ d.quiesce = c.quiesce ∧ d.partEpoch = c.partEpoch ∧ d.held = c.held ∧
    d.farHeld = c.farHeld ∧ d.impSerial = c.impSerial ∧ d.hmem = c.hmem ∧ d.dev = c.dev ∧ d.time = c.time ∧ d.caps = c.caps ∧ d.pops = c.pops ∧
    d.cmps = c.cmps ∧ d.dms = c.dms ∧ d.deals = c.deals ∧ d.sstats = c.sstats ∧ d.fabric = c.fabric ∧ d.latchX = c.latchX ∧ d.slack = c.slack ∧
    d.bics = c.bics ∧ d.hic = c.hic ∧ d.fioBanks = c.fioBanks ∧ d.pins = c.pins ∧ d.lvIn = c.lvIn ∧ d.lvOut = c.lvOut ∧ d.serials = c.serials ∧
    d.serShadows = c.serShadows ∧ d.eths = c.eths ∧ d.cxps = c.cxps ∧ d.dmas = c.dmas ∧ d.gdcs = c.gdcs ∧ d.cmds = c.cmds ∧ d.halves = c.halves ∧
    d.replies = c.replies ∧ d.nextCmd = c.nextCmd ∧ d.hands = c.hands ∧ d.store = c.store ∧ d.handLines = c.handLines ∧ d.met = c.met ∧
    d.tlPorts = c.tlPorts ∧ d.peers = c.peers ∧ d.tl = c.tl ∧ d.boot = c.boot ∧ d.resumeRec = c.resumeRec ∧ d.mon = c.mon ∧ d.aon = c.aon ∧
    d.power = c.power ∧ d.staged = c.staged ∧ d.shadows = c.shadows ∧ d.rdata = c.rdata ∧ d.free = c.free := by
  repeat' constructor

@[simp] theorem Core.setSerial_rest (j : BitVec 6) (x : Serial) : let d := c.setSerial j x
    d.sprigs = c.sprigs ∧ d.queues = c.queues ∧ d.chans = c.chans ∧ d.posyNext = c.posyNext ∧ d.hqps = c.hqps ∧ d.cmdPairs = c.cmdPairs ∧
    d.cmdRegs = c.cmdRegs ∧ d.hchans = c.hchans ∧ d.fly = c.fly ∧ d.bcasts = c.bcasts ∧ d.nextBcast = c.nextBcast ∧ d.mem = c.mem ∧
    d.parity = c.parity ∧ d.ecc = c.ecc ∧ d.csEcc = c.csEcc ∧ d.leases = c.leases ∧ d.banks = c.banks ∧ d.port1 = c.port1 ∧ d.port2 = c.port2 ∧
    d.cfg = c.cfg ∧ d.regs = c.regs ∧ d.err = c.err ∧ d.fatal = c.fatal ∧ d.quiesce = c.quiesce ∧ d.partEpoch = c.partEpoch ∧ d.held = c.held ∧
    d.farHeld = c.farHeld ∧ d.impSerial = c.impSerial ∧ d.hmem = c.hmem ∧ d.dev = c.dev ∧ d.time = c.time ∧ d.caps = c.caps ∧ d.pops = c.pops ∧
    d.cmps = c.cmps ∧ d.dms = c.dms ∧ d.deals = c.deals ∧ d.sstats = c.sstats ∧ d.fabric = c.fabric ∧ d.latchX = c.latchX ∧ d.slack = c.slack ∧
    d.bics = c.bics ∧ d.hic = c.hic ∧ d.fioBanks = c.fioBanks ∧ d.pins = c.pins ∧ d.lvIn = c.lvIn ∧ d.lvOut = c.lvOut ∧ d.qds = c.qds ∧
    d.serShadows = c.serShadows ∧ d.eths = c.eths ∧ d.cxps = c.cxps ∧ d.dmas = c.dmas ∧ d.gdcs = c.gdcs ∧ d.cmds = c.cmds ∧ d.halves = c.halves ∧
    d.replies = c.replies ∧ d.nextCmd = c.nextCmd ∧ d.hands = c.hands ∧ d.store = c.store ∧ d.handLines = c.handLines ∧ d.met = c.met ∧
    d.tlPorts = c.tlPorts ∧ d.peers = c.peers ∧ d.tl = c.tl ∧ d.boot = c.boot ∧ d.resumeRec = c.resumeRec ∧ d.mon = c.mon ∧ d.aon = c.aon ∧
    d.power = c.power ∧ d.staged = c.staged ∧ d.shadows = c.shadows ∧ d.rdata = c.rdata ∧ d.free = c.free := by
  repeat' constructor

@[simp] theorem Core.setEth_rest (p : BitVec 3) (x : Eth) : let d := c.setEth p x
    d.sprigs = c.sprigs ∧ d.queues = c.queues ∧ d.chans = c.chans ∧ d.posyNext = c.posyNext ∧ d.hqps = c.hqps ∧ d.cmdPairs = c.cmdPairs ∧
    d.cmdRegs = c.cmdRegs ∧ d.hchans = c.hchans ∧ d.fly = c.fly ∧ d.bcasts = c.bcasts ∧ d.nextBcast = c.nextBcast ∧ d.mem = c.mem ∧
    d.parity = c.parity ∧ d.ecc = c.ecc ∧ d.csEcc = c.csEcc ∧ d.leases = c.leases ∧ d.banks = c.banks ∧ d.port1 = c.port1 ∧ d.port2 = c.port2 ∧
    d.cfg = c.cfg ∧ d.regs = c.regs ∧ d.err = c.err ∧ d.fatal = c.fatal ∧ d.quiesce = c.quiesce ∧ d.partEpoch = c.partEpoch ∧ d.held = c.held ∧
    d.farHeld = c.farHeld ∧ d.impSerial = c.impSerial ∧ d.hmem = c.hmem ∧ d.dev = c.dev ∧ d.time = c.time ∧ d.caps = c.caps ∧ d.pops = c.pops ∧
    d.cmps = c.cmps ∧ d.dms = c.dms ∧ d.deals = c.deals ∧ d.sstats = c.sstats ∧ d.fabric = c.fabric ∧ d.latchX = c.latchX ∧ d.slack = c.slack ∧
    d.bics = c.bics ∧ d.hic = c.hic ∧ d.fioBanks = c.fioBanks ∧ d.pins = c.pins ∧ d.lvIn = c.lvIn ∧ d.lvOut = c.lvOut ∧ d.qds = c.qds ∧
    d.serials = c.serials ∧ d.serShadows = c.serShadows ∧ d.cxps = c.cxps ∧ d.dmas = c.dmas ∧ d.gdcs = c.gdcs ∧ d.cmds = c.cmds ∧
    d.halves = c.halves ∧ d.replies = c.replies ∧ d.nextCmd = c.nextCmd ∧ d.hands = c.hands ∧ d.store = c.store ∧ d.handLines = c.handLines ∧
    d.met = c.met ∧ d.tlPorts = c.tlPorts ∧ d.peers = c.peers ∧ d.tl = c.tl ∧ d.boot = c.boot ∧ d.resumeRec = c.resumeRec ∧ d.mon = c.mon ∧
    d.aon = c.aon ∧ d.power = c.power ∧ d.staged = c.staged ∧ d.shadows = c.shadows ∧ d.rdata = c.rdata ∧ d.free = c.free := by
  repeat' constructor

@[simp] theorem Core.setCxp_rest (k : BitVec 4) (x : Cxp) : let d := c.setCxp k x
    d.sprigs = c.sprigs ∧ d.queues = c.queues ∧ d.chans = c.chans ∧ d.posyNext = c.posyNext ∧ d.hqps = c.hqps ∧ d.cmdPairs = c.cmdPairs ∧
    d.cmdRegs = c.cmdRegs ∧ d.hchans = c.hchans ∧ d.fly = c.fly ∧ d.bcasts = c.bcasts ∧ d.nextBcast = c.nextBcast ∧ d.mem = c.mem ∧
    d.parity = c.parity ∧ d.ecc = c.ecc ∧ d.csEcc = c.csEcc ∧ d.leases = c.leases ∧ d.banks = c.banks ∧ d.port1 = c.port1 ∧ d.port2 = c.port2 ∧
    d.cfg = c.cfg ∧ d.regs = c.regs ∧ d.err = c.err ∧ d.fatal = c.fatal ∧ d.quiesce = c.quiesce ∧ d.partEpoch = c.partEpoch ∧ d.held = c.held ∧
    d.farHeld = c.farHeld ∧ d.impSerial = c.impSerial ∧ d.hmem = c.hmem ∧ d.dev = c.dev ∧ d.time = c.time ∧ d.caps = c.caps ∧ d.pops = c.pops ∧
    d.cmps = c.cmps ∧ d.dms = c.dms ∧ d.deals = c.deals ∧ d.sstats = c.sstats ∧ d.fabric = c.fabric ∧ d.latchX = c.latchX ∧ d.slack = c.slack ∧
    d.bics = c.bics ∧ d.hic = c.hic ∧ d.fioBanks = c.fioBanks ∧ d.pins = c.pins ∧ d.lvIn = c.lvIn ∧ d.lvOut = c.lvOut ∧ d.qds = c.qds ∧
    d.serials = c.serials ∧ d.serShadows = c.serShadows ∧ d.eths = c.eths ∧ d.dmas = c.dmas ∧ d.gdcs = c.gdcs ∧ d.cmds = c.cmds ∧
    d.halves = c.halves ∧ d.replies = c.replies ∧ d.nextCmd = c.nextCmd ∧ d.hands = c.hands ∧ d.store = c.store ∧ d.handLines = c.handLines ∧
    d.met = c.met ∧ d.tlPorts = c.tlPorts ∧ d.peers = c.peers ∧ d.tl = c.tl ∧ d.boot = c.boot ∧ d.resumeRec = c.resumeRec ∧ d.mon = c.mon ∧
    d.aon = c.aon ∧ d.power = c.power ∧ d.staged = c.staged ∧ d.shadows = c.shadows ∧ d.rdata = c.rdata ∧ d.free = c.free := by
  repeat' constructor

@[simp] theorem Core.setDma_rest (b : BunchId) (x : Dma) : let d := c.setDma b x
    d.sprigs = c.sprigs ∧ d.queues = c.queues ∧ d.chans = c.chans ∧ d.posyNext = c.posyNext ∧ d.hqps = c.hqps ∧ d.cmdPairs = c.cmdPairs ∧
    d.cmdRegs = c.cmdRegs ∧ d.hchans = c.hchans ∧ d.fly = c.fly ∧ d.bcasts = c.bcasts ∧ d.nextBcast = c.nextBcast ∧ d.mem = c.mem ∧
    d.parity = c.parity ∧ d.ecc = c.ecc ∧ d.csEcc = c.csEcc ∧ d.leases = c.leases ∧ d.banks = c.banks ∧ d.port1 = c.port1 ∧ d.port2 = c.port2 ∧
    d.cfg = c.cfg ∧ d.regs = c.regs ∧ d.err = c.err ∧ d.fatal = c.fatal ∧ d.quiesce = c.quiesce ∧ d.partEpoch = c.partEpoch ∧ d.held = c.held ∧
    d.farHeld = c.farHeld ∧ d.impSerial = c.impSerial ∧ d.hmem = c.hmem ∧ d.dev = c.dev ∧ d.time = c.time ∧ d.caps = c.caps ∧ d.pops = c.pops ∧
    d.cmps = c.cmps ∧ d.dms = c.dms ∧ d.deals = c.deals ∧ d.sstats = c.sstats ∧ d.fabric = c.fabric ∧ d.latchX = c.latchX ∧ d.slack = c.slack ∧
    d.bics = c.bics ∧ d.hic = c.hic ∧ d.fioBanks = c.fioBanks ∧ d.pins = c.pins ∧ d.lvIn = c.lvIn ∧ d.lvOut = c.lvOut ∧ d.qds = c.qds ∧
    d.serials = c.serials ∧ d.serShadows = c.serShadows ∧ d.eths = c.eths ∧ d.cxps = c.cxps ∧ d.gdcs = c.gdcs ∧ d.cmds = c.cmds ∧
    d.halves = c.halves ∧ d.replies = c.replies ∧ d.nextCmd = c.nextCmd ∧ d.hands = c.hands ∧ d.store = c.store ∧ d.handLines = c.handLines ∧
    d.met = c.met ∧ d.tlPorts = c.tlPorts ∧ d.peers = c.peers ∧ d.tl = c.tl ∧ d.boot = c.boot ∧ d.resumeRec = c.resumeRec ∧ d.mon = c.mon ∧
    d.aon = c.aon ∧ d.power = c.power ∧ d.staged = c.staged ∧ d.shadows = c.shadows ∧ d.rdata = c.rdata ∧ d.free = c.free := by
  repeat' constructor

@[simp] theorem Core.setBank_rest (k : BitVec 3) (x : Bank) : let d := c.setBank k x
    d.sprigs = c.sprigs ∧ d.queues = c.queues ∧ d.chans = c.chans ∧ d.posyNext = c.posyNext ∧ d.hqps = c.hqps ∧ d.cmdPairs = c.cmdPairs ∧
    d.cmdRegs = c.cmdRegs ∧ d.hchans = c.hchans ∧ d.fly = c.fly ∧ d.bcasts = c.bcasts ∧ d.nextBcast = c.nextBcast ∧ d.mem = c.mem ∧
    d.parity = c.parity ∧ d.ecc = c.ecc ∧ d.csEcc = c.csEcc ∧ d.leases = c.leases ∧ d.banks = c.banks ∧ d.port1 = c.port1 ∧ d.port2 = c.port2 ∧
    d.cfg = c.cfg ∧ d.regs = c.regs ∧ d.err = c.err ∧ d.fatal = c.fatal ∧ d.quiesce = c.quiesce ∧ d.partEpoch = c.partEpoch ∧ d.held = c.held ∧
    d.farHeld = c.farHeld ∧ d.impSerial = c.impSerial ∧ d.hmem = c.hmem ∧ d.dev = c.dev ∧ d.time = c.time ∧ d.caps = c.caps ∧ d.pops = c.pops ∧
    d.cmps = c.cmps ∧ d.dms = c.dms ∧ d.deals = c.deals ∧ d.sstats = c.sstats ∧ d.fabric = c.fabric ∧ d.latchX = c.latchX ∧ d.slack = c.slack ∧
    d.bics = c.bics ∧ d.hic = c.hic ∧ d.pins = c.pins ∧ d.lvIn = c.lvIn ∧ d.lvOut = c.lvOut ∧ d.qds = c.qds ∧ d.serials = c.serials ∧
    d.serShadows = c.serShadows ∧ d.eths = c.eths ∧ d.cxps = c.cxps ∧ d.dmas = c.dmas ∧ d.gdcs = c.gdcs ∧ d.cmds = c.cmds ∧ d.halves = c.halves ∧
    d.replies = c.replies ∧ d.nextCmd = c.nextCmd ∧ d.hands = c.hands ∧ d.store = c.store ∧ d.handLines = c.handLines ∧ d.met = c.met ∧
    d.tlPorts = c.tlPorts ∧ d.peers = c.peers ∧ d.tl = c.tl ∧ d.boot = c.boot ∧ d.resumeRec = c.resumeRec ∧ d.mon = c.mon ∧ d.aon = c.aon ∧
    d.power = c.power ∧ d.staged = c.staged ∧ d.shadows = c.shadows ∧ d.rdata = c.rdata ∧ d.free = c.free := by
  repeat' constructor

@[simp] theorem Core.setPin_rest (n : Byte) (x : Pin) : let d := c.setPin n x
    d.sprigs = c.sprigs ∧ d.queues = c.queues ∧ d.chans = c.chans ∧ d.posyNext = c.posyNext ∧ d.hqps = c.hqps ∧ d.cmdPairs = c.cmdPairs ∧
    d.cmdRegs = c.cmdRegs ∧ d.hchans = c.hchans ∧ d.fly = c.fly ∧ d.bcasts = c.bcasts ∧ d.nextBcast = c.nextBcast ∧ d.mem = c.mem ∧
    d.parity = c.parity ∧ d.ecc = c.ecc ∧ d.csEcc = c.csEcc ∧ d.leases = c.leases ∧ d.banks = c.banks ∧ d.port1 = c.port1 ∧ d.port2 = c.port2 ∧
    d.cfg = c.cfg ∧ d.regs = c.regs ∧ d.err = c.err ∧ d.fatal = c.fatal ∧ d.quiesce = c.quiesce ∧ d.partEpoch = c.partEpoch ∧ d.held = c.held ∧
    d.farHeld = c.farHeld ∧ d.impSerial = c.impSerial ∧ d.hmem = c.hmem ∧ d.dev = c.dev ∧ d.time = c.time ∧ d.caps = c.caps ∧ d.pops = c.pops ∧
    d.cmps = c.cmps ∧ d.dms = c.dms ∧ d.deals = c.deals ∧ d.sstats = c.sstats ∧ d.fabric = c.fabric ∧ d.latchX = c.latchX ∧ d.slack = c.slack ∧
    d.bics = c.bics ∧ d.hic = c.hic ∧ d.fioBanks = c.fioBanks ∧ d.lvIn = c.lvIn ∧ d.lvOut = c.lvOut ∧ d.qds = c.qds ∧ d.serials = c.serials ∧
    d.serShadows = c.serShadows ∧ d.eths = c.eths ∧ d.cxps = c.cxps ∧ d.dmas = c.dmas ∧ d.gdcs = c.gdcs ∧ d.cmds = c.cmds ∧ d.halves = c.halves ∧
    d.replies = c.replies ∧ d.nextCmd = c.nextCmd ∧ d.hands = c.hands ∧ d.store = c.store ∧ d.handLines = c.handLines ∧ d.met = c.met ∧
    d.tlPorts = c.tlPorts ∧ d.peers = c.peers ∧ d.tl = c.tl ∧ d.boot = c.boot ∧ d.resumeRec = c.resumeRec ∧ d.mon = c.mon ∧ d.aon = c.aon ∧
    d.power = c.power ∧ d.staged = c.staged ∧ d.shadows = c.shadows ∧ d.rdata = c.rdata ∧ d.free = c.free := by
  repeat' constructor

/-- An entry of the error log, or its loss, touches the log alone. -/
@[simp] theorem Core.log_rest (e : ErrInfo) : let d := c.log e
    d.sprigs = c.sprigs ∧ d.queues = c.queues ∧ d.chans = c.chans ∧ d.posyNext = c.posyNext ∧ d.hqps = c.hqps ∧ d.cmdPairs = c.cmdPairs ∧
    d.cmdRegs = c.cmdRegs ∧ d.hchans = c.hchans ∧ d.fly = c.fly ∧ d.bcasts = c.bcasts ∧ d.nextBcast = c.nextBcast ∧ d.mem = c.mem ∧
    d.parity = c.parity ∧ d.ecc = c.ecc ∧ d.csEcc = c.csEcc ∧ d.leases = c.leases ∧ d.banks = c.banks ∧ d.port1 = c.port1 ∧ d.port2 = c.port2 ∧
    d.cfg = c.cfg ∧ d.regs = c.regs ∧ d.fatal = c.fatal ∧ d.quiesce = c.quiesce ∧ d.partEpoch = c.partEpoch ∧ d.held = c.held ∧
    d.farHeld = c.farHeld ∧ d.impSerial = c.impSerial ∧ d.hmem = c.hmem ∧ d.dev = c.dev ∧ d.time = c.time ∧ d.caps = c.caps ∧ d.pops = c.pops ∧
    d.cmps = c.cmps ∧ d.dms = c.dms ∧ d.deals = c.deals ∧ d.sstats = c.sstats ∧ d.fabric = c.fabric ∧ d.latchX = c.latchX ∧ d.slack = c.slack ∧
    d.bics = c.bics ∧ d.hic = c.hic ∧ d.fioBanks = c.fioBanks ∧ d.pins = c.pins ∧ d.lvIn = c.lvIn ∧ d.lvOut = c.lvOut ∧ d.qds = c.qds ∧
    d.serials = c.serials ∧ d.serShadows = c.serShadows ∧ d.eths = c.eths ∧ d.cxps = c.cxps ∧ d.dmas = c.dmas ∧ d.gdcs = c.gdcs ∧ d.cmds = c.cmds ∧
    d.halves = c.halves ∧ d.replies = c.replies ∧ d.nextCmd = c.nextCmd ∧ d.hands = c.hands ∧ d.store = c.store ∧ d.handLines = c.handLines ∧
    d.met = c.met ∧ d.tlPorts = c.tlPorts ∧ d.peers = c.peers ∧ d.tl = c.tl ∧ d.boot = c.boot ∧ d.resumeRec = c.resumeRec ∧ d.mon = c.mon ∧
    d.aon = c.aon ∧ d.power = c.power ∧ d.staged = c.staged ∧ d.shadows = c.shadows ∧ d.rdata = c.rdata ∧ d.free = c.free := by
  unfold Core.log
  dsimp only
  split <;> repeat' constructor

/-! ### Reading back -/

@[simp] theorem Core.queue_setQueue (i : QueueId) (x : Queue) : (c.setQueue i x).queue i = x := by
  simp only [Core.queue, Core.setQueue, Tbl.get_set_self]
@[simp] theorem Core.chan_setChan (g : SprigId) (n : BitVec 4) (x : Chan) : (c.setChan g n x).chan g n = x := by
  simp only [Core.chan, Core.setChan, Tbl.get_set_self]
@[simp] theorem Core.hqp_setHqp (h : BitVec 8) (x : Hqp) : (c.setHqp h x).hqp h = x := by
  simp only [Core.hqp, Core.setHqp, Tbl.get_set_self]
@[simp] theorem Core.lease_setLease (b : BunchId) (l : BitVec 2) (x : Lease) : (c.setLease b l x).lease b l = x := by
  simp only [Core.lease, Core.setLease, Tbl.get_set_self]
@[simp] theorem Core.gdc_setGdc (k : Nat) (x : Gdc) : (c.setGdc k x).gdc k = x := by
  simp only [Core.gdc, Core.setGdc, Tbl.get_set_self]
@[simp] theorem Core.cmdsOf_setCmds (q : CmdSrc) (l : List Cmd) : (c.setCmds q l).cmdsOf q = l := by
  simp only [Core.cmdsOf, Core.setCmds, Tbl.get_set_self]
@[simp] theorem Core.hand_setHand (k : BitVec 4) (h : Hand) : (c.setHand k h).hand k = h := by
  simp only [Core.hand, Core.setHand, Tbl.get_set_self]
@[simp] theorem Core.tlPort_setTlPort (t : BitVec 2) (x : TlPort) : (c.setTlPort t x).tlPort t = x := by
  simp only [Core.tlPort, Core.setTlPort, Tbl.get_set_self]
@[simp] theorem Core.peer_setPeer (d : DeviceId) (x : PairRec) : (c.setPeer d x).peer d = x := by
  simp only [Core.peer, Core.setPeer, Tbl.get_set_self]
@[simp] theorem Core.bic_setBic (b : BunchId) (x : Bic) : (c.setBic b x).bic b = x := by
  simp only [Core.bic, Core.setBic, Tbl.get_set_self]
@[simp] theorem Core.cmp_setCmp (k : BitVec 12) (x : Cmp) : (c.setCmp k x).cmp k = x := by
  simp only [Core.cmp, Core.setCmp, Tbl.get_set_self]
@[simp] theorem Core.dm_setDm (k : BitVec 12) (x : Dm) : (c.setDm k x).dm k = x := by
  simp only [Core.dm, Core.setDm, Tbl.get_set_self]
@[simp] theorem Core.unit_setUnit (u : BitVec 16) (x : DealUnit) : (c.setUnit u x).unit u = x := by
  simp only [Core.unit, Core.setUnit, Tbl.get_set_self]
@[simp] theorem Core.cap_setCap (k : BitVec 9) (x : Capture) : (c.setCap k x).cap k = x := by
  simp only [Core.cap, Core.setCap, Tbl.get_set_self]
@[simp] theorem Core.qd_setQd (k : BitVec 6) (x : Qd) : (c.setQd k x).qd k = x := by
  simp only [Core.qd, Core.setQd, Tbl.get_set_self]
@[simp] theorem Core.serial_setSerial (j : BitVec 6) (x : Serial) : (c.setSerial j x).serial j = x := by
  simp only [Core.serial, Core.setSerial, Tbl.get_set_self]
@[simp] theorem Core.eth_setEth (p : BitVec 3) (x : Eth) : (c.setEth p x).eth p = x := by
  simp only [Core.eth, Core.setEth, Tbl.get_set_self]
@[simp] theorem Core.cxp_setCxp (k : BitVec 4) (x : Cxp) : (c.setCxp k x).cxp k = x := by
  simp only [Core.cxp, Core.setCxp, Tbl.get_set_self]
@[simp] theorem Core.dma_setDma (b : BunchId) (x : Dma) : (c.setDma b x).dma b = x := by
  simp only [Core.dma, Core.setDma, Tbl.get_set_self]
@[simp] theorem Core.bank_setBank (k : BitVec 3) (x : Bank) : (c.setBank k x).bank k = x := by
  simp only [Core.bank, Core.setBank, Tbl.get_set_self]
@[simp] theorem Core.pin_setPin (n : Byte) (x : Pin) : (c.setPin n x).pin n = x := by
  simp only [Core.pin, Core.setPin, Tbl.get_set_self]
@[simp] theorem Core.reg_setReg (a : Nat) (v e : Word) : (c.setReg a v e).reg a e = v := by
  simp only [Core.reg, Core.setReg, Tbl.get_set_self]
@[simp] theorem Core.byte_setByte (a : Nat) (v : Byte) : (c.setByte a v).byte a = v := by
  simp only [Core.byte, Core.setByte, Tbl.get_set_self]
@[simp] theorem Core.mark_setMark (a : Nat) (m : EccMark) : (c.setMark a m).mark a = m := by
  simp only [Core.mark, Core.setMark, Tbl.get_set_self]
@[simp] theorem Core.csMark_setCsMark (a : Nat) (m : EccMark) : (c.setCsMark a m).csMark a = m := by
  simp only [Core.csMark, Core.setCsMark, Tbl.get_set_self]
@[simp] theorem Core.badParity_setParity (a : Nat) (v : Bool) : (c.setParity a v).badParity a = v := by
  simp only [Core.badParity, Core.setParity, Tbl.get_set_self]

end Sys2Proof.Machine
end

