-- ==== Sys2Proof/Laws/Memory.lean ====
section
/-!
SUPPORT. Sys2Proof/Laws/Memory.lean: what the memory operations do: a byte reads as last stored, every other byte stays, and each of them keeps
the canonical form.
-/
namespace Sys2Proof.Machine

/-! ### Bytes -/

theorem Core.byte_setByte_ne (c : Core) {a b : Nat} (v : Byte) (h : b ≠ a) : (c.setByte a v).byte b = c.byte b := by
  simp only [Core.byte, Core.setByte]
  exact Tbl.get_set_ne _ h _ _

/-- A store of bytes: inside the range they read as stored, outside it as before. -/
theorem Core.byte_setBytes (c : Core) (a : Nat) (bs : List Byte) (b : Nat) :
    (c.setBytes a bs).byte b = if a ≤ b ∧ b < a + bs.length then bs.getD (b - a) 0 else c.byte b := by
  induction bs generalizing c a with
  | nil =>
    rw [if_neg (by simp only [List.length_nil]; omega)]
    rfl
  | cons x bs ih =>
    rw [Core.setBytes, ih]
    by_cases hab : b = a
    · subst hab
      simp
    · rw [Core.byte_setByte_ne c x hab]
      by_cases h : a + 1 ≤ b ∧ b < a + 1 + bs.length
      · have h' : a ≤ b ∧ b < a + (x :: bs).length := by simp only [List.length_cons]; omega
        obtain ⟨k, hk⟩ : ∃ k, b - a = k + 1 := ⟨b - a - 1, by omega⟩
        have hk' : b - (a + 1) = k := by omega
        rw [if_pos h, if_pos h', hk, hk', List.getD_cons_succ]
      · have h' : ¬(a ≤ b ∧ b < a + (x :: bs).length) := by simp only [List.length_cons]; omega
        rw [if_neg h, if_neg h']

theorem Core.setBytes_same_but (c : Core) (a : Nat) (bs : List Byte) : SameBytesBut c (c.setBytes a bs) a bs.length := by
  intro b hb
  rw [Core.byte_setBytes, if_neg (by omega)]

/-- What a byte reads as depends on memory alone. -/
theorem Core.byte_congr {c d : Core} (h : c.mem = d.mem) (a : Nat) : c.byte a = d.byte a := by simp only [Core.byte, h]

theorem Core.bytes_length (c : Core) (a n : Nat) : (c.bytes a n).length = n := by
  induction n generalizing a with
  | zero => rfl
  | succ n ih => simp [Core.bytes, ih]

/-! ### Operations that store bytes and set marks -/

/-- A fold whose steps keep a part of the core keeps it. -/
theorem foldl_keeps {α β : Type} (P : Core → β) (f : Core → α → Core) (h : ∀ c x, P (f c x) = P c) (l : List α) (c : Core) :
    P (l.foldl f c) = P c := by
  induction l generalizing c with
  | nil => rfl
  | cons x l ih => rw [List.foldl_cons, ih, h]

theorem Core.storeEcc_mem (c : Core) (a : Nat) (bs : List Byte) (p : Bool) : (c.storeEcc a bs p).mem = (c.setBytes a bs).mem := by
  unfold Core.storeEcc
  dsimp only
  refine foldl_keeps Core.mem _ (fun _ _ => ?_) _ _
  rfl

theorem Core.localWrite_mem (c : Core) (a : Nat) (bs : List Byte) (p : Bool) : (c.localWrite a bs p).mem = (c.setBytes a bs).mem := by
  unfold Core.localWrite
  refine foldl_keeps Core.mem _ (fun _ _ => ?_) _ _
  rfl

theorem Core.writeMem_mem (c : Core) (a : Nat) (bs : List Byte) (p : Bool) : (c.writeMem a bs p).mem = (c.setBytes a bs).mem := by
  unfold Core.writeMem
  dsimp only
  split
  · next h => rw [List.length_eq_zero_iff.mp h]; rfl
  · refine foldl_keeps Core.mem _ (fun _ _ => ?_) _ _
    rfl

theorem Core.restore_mem (c : Core) (b : BunchId) (x : Lease) :
    (c.restore b x).mem = (c.setBytes (scratchBase b + 256 * x.region.toNat) x.buf).mem := by
  unfold Core.restore
  dsimp only
  refine foldl_keeps Core.mem _ (fun _ _ => ?_) _ _
  rfl

/-! ### The canonical form -/

theorem reset_memory_wf : Memory.wf State.reset.core.mem = true := rfl

theorem Core.setByte_wf (c : Core) (a : Nat) (v : Byte) (h : Memory.wf c.mem = true) : Memory.wf (c.setByte a v).mem = true :=
  Tbl.wf_set c.mem a v 0 h

theorem Core.setBytes_wf (c : Core) (a : Nat) (bs : List Byte) (h : Memory.wf c.mem = true) : Memory.wf (c.setBytes a bs).mem = true := by
  induction bs generalizing c a with
  | nil => exact h
  | cons x bs ih => exact ih _ _ (Core.setByte_wf c a x h)

theorem Core.setWord_wf (c : Core) (a : Nat) (v : Word) (h : Memory.wf c.mem = true) : Memory.wf (c.setWord a v).mem = true :=
  Core.setBytes_wf c a _ h

theorem Core.storeEcc_wf (c : Core) (a : Nat) (bs : List Byte) (p : Bool) (h : Memory.wf c.mem = true) :
    Memory.wf (c.storeEcc a bs p).mem = true := by rw [Core.storeEcc_mem]; exact Core.setBytes_wf c a bs h

theorem Core.localWrite_wf (c : Core) (a : Nat) (bs : List Byte) (p : Bool) (h : Memory.wf c.mem = true) :
    Memory.wf (c.localWrite a bs p).mem = true := by rw [Core.localWrite_mem]; exact Core.setBytes_wf c a bs h

theorem Core.writeMem_wf (c : Core) (a : Nat) (bs : List Byte) (p : Bool) (h : Memory.wf c.mem = true) :
    Memory.wf (c.writeMem a bs p).mem = true := by rw [Core.writeMem_mem]; exact Core.setBytes_wf c a bs h

theorem Core.restore_wf (c : Core) (b : BunchId) (x : Lease) (h : Memory.wf c.mem = true) :
    Memory.wf (c.restore b x).mem = true := by rw [Core.restore_mem]; exact Core.setBytes_wf c _ _ h

theorem Core.clearBunch_wf (c : Core) (b : BunchId) (h : Memory.wf c.mem = true) : Memory.wf (c.clearBunch b).mem = true :=
  Tbl.wf_filter c.mem _ 0 h

theorem Core.clearStaging_wf (c : Core) (h : Memory.wf c.mem = true) : Memory.wf c.clearStaging.mem = true := Tbl.wf_filter c.mem _ 0 h

theorem Core.zeroChannel_wf (c : Core) (k : Nat) (h : Memory.wf c.mem = true) : Memory.wf (c.zeroChannel k).mem = true :=
  Tbl.wf_filter c.mem _ 0 h

theorem Core.loseMemory_wf (c : Core) (h : Memory.wf c.mem = true) : Memory.wf c.loseMemory.mem = true := Tbl.wf_filter c.mem _ 0 h

theorem Core.coreReset_wf (c : Core) (u l : Bool) (h : Memory.wf c.mem = true) : Memory.wf (c.coreReset u l).mem = true := by
  unfold Core.coreReset
  split
  · split
    · exact Core.loseMemory_wf c h
    · exact h
  · cases l
    · exact Tbl.wf_filter c.mem _ 0 h
    · rfl

/-- Host memory keeps the form too. -/
theorem Core.hostWrite_wf (c : Core) (a : Nat) (bs : List Byte) (h : Memory.wf c.hmem = true) : Memory.wf (c.hostWrite a bs).hmem = true := by
  induction bs generalizing c a with
  | nil => exact h
  | cons x bs ih => exact ih _ _ (Tbl.wf_set c.hmem a x 0 h)

end Sys2Proof.Machine
end

