-- ==== Sys2Proof/Laws/Ops.lean ====
section
/-!
SUPPORT. Sys2Proof/Laws/Ops.lean: for each operation that many commands share, everything it can do, said once: an instruction of a sprig, a
register write and read, a command packet, an access that reaches a bunch, the freeze of a master.
-/
namespace Sys2Proof.Machine

/-! ### Lifting -/

theorem onCore_runs (f : Core → Core) (s : State) : onCore f s = .next (s.on (f s.core)) := rfl

theorem onCoreIf_true (f : Core → Core) (s : State) : onCoreIf true f s = .next (s.on (f s.core)) := rfl

theorem onCoreIf_false (f : Core → Core) (s : State) : onCoreIf false f s = .fault .illFormed := rfl

/-! ### Instructions of a sprig (R67, R80 to R83, R128) -/

/-- An instruction that does not issue changes nothing. -/
theorem Core.insn_idle {c : Core} {g : SprigId} (gd : BitVec 4) (opc : Byte) (body : Core → Res)
    (h : (c.sprig g).issues = false ∨ c.quietSprig g = true) : c.insn g gd opc body = c := by
  rcases h with h | h <;> simp [Core.insn, h]

/-- One with a false guard takes one step. -/
theorem Core.insn_guard {c : Core} {g : SprigId} {gd : BitVec 4} (opc : Byte) (body : Core → Res) (hi : (c.sprig g).issues = true)
    (hq : c.quietSprig g = false) (hf : c.fetchClean g = true) (hg : (c.sprig g).guard gd = false) :
    c.insn g gd opc body = c.setSprig g ((c.sprig g).past 1) := by
  simp [Core.insn, hi, hq, Core.fetchAt_clean hf, hg, Core.retire, Sprig.past, Core.modSprig]

/-- One whose decode entry faults requests that vector. -/
theorem Core.insn_entry {c : Core} {g : SprigId} {gd : BitVec 4} {opc : Byte} {v : BitVec 6} {d : Word} (body : Core → Res)
    (hi : (c.sprig g).issues = true) (hq : c.quietSprig g = false) (hf : c.fetchClean g = true) (hg : (c.sprig g).guard gd = true)
    (he : c.entryFault g opc = some (v, d)) : c.insn g gd opc body = c.raise g v d none := by
  simp [Core.insn, hi, hq, Core.fetchAt_clean hf, hg, he]

/-! ### Register accesses (R339, R381) -/

theorem Core.writeBy_takes {c : Core} {m : Master} {ok : Bool} (k : Core → Core) (h : c.takes m ok = true) : c.writeBy m ok k = k c := by
  simp only [Core.takes, Bool.and_eq_true, Bool.not_eq_true'] at h
  simp [Core.writeBy, h.1, h.2.1, h.2.2]

/-- A write that is not taken leaves everything as it is, or freezes the sprig that made it. -/
theorem Core.writeBy_cases (c : Core) (m : Master) (ok : Bool) (k : Core → Core) :
    (c.takes m ok = true ∧ c.writeBy m ok k = k c) ∨ c.writeBy m ok k = c
    ∨ ∃ g, m = .sprig g ∧ c.writeBy m ok k = c.freezeSprig g causePerm (c.sprig g).pc := by
  by_cases h : c.takes m ok = true
  · exact .inl ⟨h, Core.writeBy_takes k h⟩
  · right
    unfold Core.writeBy
    split
    · exact .inl rfl
    · next hf =>
      split
      · next ha => exact absurd (by simp [Core.takes, hf, ha]) h
      · cases m with
        | sprig g => exact .inr ⟨g, rfl, rfl⟩
        | _ => exact .inl rfl

/-- A read that the register answers. -/
theorem Core.readBy_seen {c : Core} {m : Master} {seen : Bool} (k : Core → Word × Core) (hf : c.frozenMaster m = false)
    (hs : (c.seesAll m || seen) = true) : c.readBy m seen k = (k c).2.answer m (k c).1 false false := by
  simp [Core.readBy, hf, hs]

theorem Core.answer_rdata (c : Core) (m : Master) (v : Word) (p a : Bool) :
    Tbl.get (c.answer m v p a).rdata (masterKey m) {} = { value := v, poisoned := p, abort := a } := by
  simp only [Core.answer, Tbl.get_set_self]

/-! ### Bunches that sleep (R410) -/

theorem Core.reach_asleep {c : Core} {b : BunchId} (k : Core → Core) (h : c.asleep b = true) : c.reach b k = c := by simp [Core.reach, h]

theorem Core.reach_awake {c : Core} {b : BunchId} (k : Core → Core) (h : c.asleep b = false) :
    c.reach b k = k { c with power := { c.power with prep := c.power.prep &&& ~~~(1#64 <<< b.toNat) } } := by simp [Core.reach, h]

/-! ### Command packets (R343, R346 to R349) -/

/-- A command that passes every check runs its body, and is answered with what the body gives or has begun. -/
theorem command_heads {s : State} {q : CmdSrc} {sp : CmdSpec} {x : Cmd} {bs : List Byte} (body : State → Args → State × Option Reply)
    (h : s.core.heads q sp x bs) :
    command q sp body s = .next (match body s ⟨x, x.own, bs⟩ with
      | (t, some r) => t.on (t.core.answerCmd q r)
      | (t, none) => t.on (t.core.beginCmd q)) := by
  obtain ⟨hh, ho, hb, hc, hw, hr⟩ := h
  cases hl : s.core.cmdsOf q with
  | nil => simp [hl] at hh
  | cons y l =>
    simp only [hl, List.head?_cons, Option.some.injEq] at hh
    subst hh
    simp only [command, hl, ho, hb, hc, hw, hr]
    cases hbd : body s ⟨y, y.own, bs⟩ with
    | mk t r => cases r <;> simp [State.on]

/-- What a command leaves, when its body leaves it: of the fuses, the island and the queue, everything. -/
theorem command_frame {α : Type} (P : State → α) (hP : ∀ (s : State) c, P { s with core := c } = P s) (q : CmdSrc) (sp : CmdSpec)
    (body : State → Args → State × Option Reply) (hb : ∀ s a, P (body s a).1 = P s) (s : State) :
    Runs (command q sp body s) fun t => P t = P s := by
  unfold command
  split
  · exact ⟨_, rfl, rfl⟩
  · split
    · exact ⟨_, rfl, rfl⟩
    · split
      · exact ⟨_, rfl, hP _ _⟩
      · split
        · exact ⟨_, rfl, rfl⟩
        · split
          · exact ⟨_, rfl, hP _ _⟩
          · split
            · exact ⟨_, rfl, hP _ _⟩
            · split
              · next h =>
                have h' := congrArg Prod.fst h
                dsimp only at h'
                exact ⟨_, rfl, (hP _ _).trans (h' ▸ (hb _ _).trans (hP _ _))⟩
              · next h =>
                have h' := congrArg Prod.fst h
                dsimp only at h'
                exact ⟨_, rfl, (hP _ _).trans (h' ▸ (hb _ _).trans (hP _ _))⟩

theorem commandWhen_frame {α : Type} (P : State → α) (hP : ∀ (s : State) c, P { s with core := c } = P s) (ready : Core → Cmd → Bool)
    (q : CmdSrc) (sp : CmdSpec) (body : State → Args → State × Option Reply) (hb : ∀ s a, P (body s a).1 = P s) (s : State) :
    Runs (commandWhen ready q sp body s) fun t => P t = P s := by
  unfold commandWhen
  split
  · exact ⟨_, rfl, rfl⟩
  · split
    · exact command_frame P hP q sp body hb s
    · exact ⟨_, rfl, rfl⟩

theorem coreBody_frame {α : Type} (P : State → α) (hP : ∀ (s : State) c, P { s with core := c } = P s)
    (f : Core → Args → Core × Option Reply) (s : State) (a : Args) : P (coreBody f s a).1 = P s := hP _ _

theorem readBody_frame {α : Type} (P : State → α) (f : State → Args → Reply) (s : State) (a : Args) : P (readBody f s a).1 = P s := rfl

end Sys2Proof.Machine
end

