-- ==== Sys2Proof/Tests/Slice0.lean ====
section
/-!
SUPPORT. Sys2Proof/Tests/Slice0.lean: ill-formed commands refused by WellFormed, and for each clause of the statements a small state that meets
its conditions, with what one command makes of it. Expected values come from the rules of spec/ named in the statements.
-/
namespace Sys2Proof.Tests

set_option Elab.async false

open Sys2Proof Sys2Proof.Machine

/-! ### Small states -/

/-- The state that an outcome gives. -/
def nx (o : Out) : State := match o with | .next t => t | _ => State.reset

/-- Sprig 1.5. -/
def g5 : SprigId := 37

/-- Registers with some values. -/
def regs (l : List (BitVec 4 × Word)) : Sprig := l.foldl (fun x e => x.setD e.1 e.2) Sprig.reset

/-- The core with a decode entry for an opcode in sprig 1.5's table. -/
def entry (opc : Byte) : Core := State.reset.core.setWord (storeBase g5 + 0x4000 + 4 * opc.toNat) 0x80000000

/-- Sprig 1.5 runs with the contents of x, and has a decode entry for the opcode. -/
def run (opc : Byte) (x : Sprig) : State := State.reset.on ((entry opc).setSprig g5 ({ x with state := .run } : Sprig))

/-- The same sprig as it stands in a state. -/
def sp (s : State) : Sprig := s.core.sprig g5

/-- The same, with bytes in memory too. -/
def withBytes (s : State) (a : Nat) (bs : List Byte) : State := s.on (s.core.setBytes a bs)

/-- Every memory channel is READY. -/
def memReady (s : State) : State := s.on { s.core with gdcs := (List.range 36).map fun k => (k, { Gdc.reset with st := .ready }) }

/-- D1 and D2 hold operands of an instruction with its result in D3. -/
def two (opc : Byte) (a b : Word) : State := run opc (regs [(1, a), (2, b)])

/-- Queue 3 of sprig 1.5 holds a card. -/
def card1 : Card := { w := ⟨0x41000000, 1, 2, 3, 4, 5, 6, 7⟩, poison := 2, route := .chan 0 37 2 }
def receiver (opc : Byte) (cards : List Card) : State :=
  let s := run opc (regs [(3, 9)])
  s.on (s.core.setQueue (queueAt g5 3) { Queue.reset with chain := cards })

/-- Latches 0 and 7 set, latch 7 merged. -/
def latched (opc : Byte) : State := run opc { regs [] with page := { ({} : Page) with latch := 0x81, merged := 0x80 } }

/-- What a register read left with a master, and the last entry of the error log. -/
def shown (s : State) (m : Master) : ReadBack := Tbl.get s.core.rdata (masterKey m) {}
def logged (s : State) : Option (BitVec 16) := s.core.lastLog.map ErrInfo.code

/-- The Steward's sprig 0.1. -/
def st1 : Master := .sprig 1

/-- The state after reset with another core. -/
def after (f : Core → Core) : State := State.reset.on (f State.reset.core)
/-- The same with some settings. -/
def set_ (l : List (Nat × Word)) (f : Core → Core := id) : State := after fun c => f ({ c with cfg := l } : Core)
/-- The host's supervisor function. -/
def hostF : Master := .host 0

/-- Input 9 of bunch 1 is the level of line 7, which is high; it waits for sprig 1.5. -/
def latchedBic : State :=
  let c : Core := { State.reset.core with
    cfg := [(sid 0x0D (0x4000 + 36), 0x00030007)], fabric := { State.reset.core.fabric with level := [(7, true)] } }
  State.reset.on (c.setBic 1 { c.bic 1 with latch := [(5, some (9, 3))], latchSrc := [(5, 0x00030007)], en := 512 })

/-- Sprig 1.5 may read and write its whole scratchpad and every far page. -/
def granted (s : State) : State :=
  s.on { s.core with cfg := [(spgSid g5 1, 0x0001FF00), (spgSid g5 2, 0), (spgSid g5 3, 0x3FFFFFFF)] }

/-! ### Sprig instructions: MoveResults to PredicateResults -/

theorem test_mov : let s := run 0x01 (regs [(1, 5)]); let x := sp s
    x.movSrc 0 1 = some 5 ∧ x.movDst 1 2 5 = some (x.setA 2 5) ∧ x.open_ (movRegs 0 1) (movRegs 1 2) = true ∧ s.ready g5 0 1 = true
    ∧ nx (exec (.mov g5 0 0x21020) s) = s.put g5 ((x.setA 2 5).past 1) := by decide +kernel
theorem test_lea : let s := run 0x05 (regs [(4, 0x10005)]); let x := sp s
    x.ea 0x1F100 4 false = some ⟨0xC005, none, [4]⟩ ∧ x.open_ [4] [] = true ∧ s.ready g5 0 5 = true
    ∧ nx (exec (.lea g5 0 0x1F100) s) = s.put g5 ((x.setA 1 0xC005).past 1) := by decide +kernel
theorem test_ldi : let s := run 0x02 (regs []); let x := sp s
    x.open_ [] [15] = true ∧ s.ready g5 0 2 = true ∧ nx (exec (.ldi g5 0 0xF8001) s) = s.put g5 ((x.setD 15 0xFFFF8001).past 1) := by decide +kernel
theorem test_ldih : let s := run 0x03 (regs [(2, 0x11112222)]); let x := sp s
    x.open_ [2] [2] = true ∧ s.ready g5 0 3 = true ∧ nx (exec (.ldih g5 0 0x2ABCD) s) = s.put g5 ((x.setD 2 0xABCD2222).past 1) := by decide +kernel
theorem test_ldiA : let s := run 0x04 (regs []); s.ready g5 0 4 = true
    ∧ nx (exec (.ldiA g5 0 0x7BEEF) s) = s.put g5 (((sp s).setA 7 0xBEEF).past 1) := by decide +kernel

/-- Bytes 80, 81, ... of the X bank from 0x100 on. -/
def loads (opc : Byte) (a : BitVec 16) : State :=
  let s := run opc ((regs []).setA 1 a)
  s.on (s.core.setBytes (localsBase g5 + 0x100) [0x80, 0x91, 0xA2, 0xB3, 0xC4])
theorem test_ldB : let s := loads 8 0x100; let x := sp s
    x.ea 0x32400 1 false = some ⟨0x100, some (1, 0x101), []⟩ ∧ x.open_ [] [3] = true ∧ s.core.clear g5 0x100 1 = true ∧ s.ready g5 0 8 = true
    ∧ nx (exec (.ldB g5 0 0x32400) s) = s.put g5 (((x.setD 3 0x80).setA 1 0x101).past 1) := by decide +kernel
theorem test_ldBs : let s := loads 9 0x100; let x := sp s
    x.ea 0x32000 1 false = some ⟨0x100, none, []⟩ ∧ x.open_ [] [3] = true ∧ s.core.clear g5 0x100 1 = true ∧ s.ready g5 0 9 = true
    ∧ nx (exec (.ldBs g5 0 0x32000) s) = s.put g5 ((x.setD 3 0xFFFFFF80).past 1) := by decide +kernel
theorem test_ldH : let s := loads 10 0x102; let x := sp s
    x.ea 0x32800 2 false = some ⟨0x102, some (1, 0x100), []⟩ ∧ x.open_ [] [3] = true ∧ s.core.clear g5 0x102 2 = true ∧ s.ready g5 0 10 = true
    ∧ nx (exec (.ldH g5 0 0x32800) s) = s.put g5 (((x.setD 3 0xB3A2).setA 1 0x100).past 1) := by decide +kernel
theorem test_ldHs : let s := loads 11 0x100; let x := sp s
    x.ea 0x32C03 2 false = some ⟨0x103, none, []⟩ ∧ x.open_ [] [3] = true ∧ s.core.clear g5 0x103 2 = true ∧ s.ready g5 0 11 = true
    ∧ nx (exec (.ldHs g5 0 0x32C03) s) = s.put g5 ((x.setD 3 0xFFFFC4B3).past 2) := by decide +kernel
theorem test_ldW : let s := loads 12 0x101; let x := sp s
    x.ea 0x32000 4 false = some ⟨0x101, none, []⟩ ∧ x.open_ [] [3] = true ∧ s.core.clear g5 0x101 4 = true ∧ s.ready g5 0 12 = true
    ∧ nx (exec (.ldW g5 0 0x32000) s) = s.put g5 ((x.setD 3 0xC4B3A291).past 2) := by decide +kernel

def stores (opc : Byte) : State := run opc ((regs [(3, 0x44332211)]).setA 1 0x5FFF)
theorem test_stB : let s := stores 16; let x := sp s
    x.ea 0x32000 1 false = some ⟨0x5FFF, none, []⟩ ∧ x.open_ [3] [] = true ∧ x.fits 0x5FFF 1 = true ∧ s.ready g5 0 16 = true
    ∧ nx (exec (.stB g5 0 0x32000) s) = s.put g5 (({ x with buf := [⟨localsBase g5 + 0x5FFF, [0x11], false, 0⟩] } : Sprig).past 1) := by
  decide +kernel
theorem test_stH : let s := stores 17; let x := sp s
    x.ea 0x32FFC 2 false = some ⟨0x5FFB, none, []⟩ ∧ x.open_ [3] [] = true ∧ x.fits 0x5FFB 2 = true ∧ s.ready g5 0 17 = true
    ∧ (sp (nx (exec (.stH g5 0 0x32FFC) s))).buf = [⟨localsBase g5 + 0x5FFB, [0x11], true, 0⟩, ⟨localsBase g5 + 0x5FFC, [0x22], false, 0⟩] := by
  decide +kernel
theorem test_stW : let s := stores 18; let x := sp s
    x.ea 0x32FFD 4 false = some ⟨0x5FFC, none, []⟩ ∧ x.open_ [3] [] = true ∧ x.fits 0x5FFC 4 = true ∧ s.ready g5 0 18 = true
    ∧ (sp (nx (exec (.stW g5 0 0x32FFD) s))).buf = [⟨localsBase g5 + 0x5FFC, [0x11, 0x22, 0x33, 0x44], false, 0⟩] := by decide +kernel

/-- A1 names a word elsewhere; the far window lies at 0. -/
def away (opc : Byte) (a : BitVec 16) : State := granted (run opc ((regs [(3, 0x44332211)]).setA 1 a))
theorem test_ldW_far : let s := away 12 0xE004; let x := sp s
    x.ea 0x32000 4 false = some ⟨0xE004, none, []⟩ ∧ x.farLoad = none ∧ x.farStore = none ∧ x.buf = [] ∧ s.core.farGrants g5 4 false = true
    ∧ x.open_ [] [3] = true ∧ s.ready g5 0 12 = true ∧ x.farAddr 0xE004 = 4
    ∧ (sp (nx (exec (.ldW g5 0 0x32000) s))).farLoad = some ⟨4, 4, false, .reg 3⟩ := by decide +kernel
theorem test_ldW_denied : let s := run 12 ((regs []).setA 1 0xEFFC); let x := sp s
    x.ea 0x32000 4 false = some ⟨0xEFFC, none, []⟩ ∧ s.core.farGrants g5 (x.farAddr 0xEFFC) false = false ∧ x.open_ [] [3] = true ∧ s.ready g5 0 12 = true
    ∧ (nx (exec (.ldW g5 0 0x32000) s)).core.err.used = 1 := by decide +kernel
theorem test_stW_far : let s := away 18 0xEFFC; let x := sp s
    x.ea 0x32000 4 false = some ⟨0xEFFC, none, []⟩ ∧ x.farLoad = none ∧ x.farStore = none ∧ x.buf = [] ∧ s.core.farGrants g5 0xFFC true = true
    ∧ s.core.writerDenied g5 0xFFC (x.rd 3) = false ∧ x.open_ [3] [] = true ∧ s.ready g5 0 18 = true
    ∧ (sp (nx (exec (.stW g5 0 0x32000) s))).farStore = some ⟨0xFFC, [0x11, 0x22, 0x33, 0x44]⟩ := by decide +kernel
theorem test_ldW_page : let s := away 12 0xF000; let x := sp s
    x.ea 0x32000 4 false = some ⟨0xF000, none, []⟩ ∧ x.open_ [] [3] = true ∧ s.ready g5 0 12 = true ∧ (s.core.pageRead g5 0).2.1 = false
    ∧ (sp (nx (exec (.ldW g5 0 0x32000) s))).rd 3 = (s.core.pageRead g5 0).1 := by decide +kernel
theorem test_stW_page : let s := away 18 0xFFFC; let x := sp s
    x.ea 0x32000 4 false = some ⟨0xFFFC, none, []⟩ ∧ x.open_ [3] [] = true ∧ s.ready g5 0 18 = true
    ∧ (nx (exec (.stW g5 0 0x32000) s)).core.mem = s.core.mem := by decide +kernel
theorem test_stW_scratch : let s := away 18 0xC000; let x := sp s
    x.ea 0x32000 4 false = some ⟨0xC000, none, []⟩ ∧ s.core.slimGrants g5 (x.scratchOff 0xC000) true = true ∧ inPages (x.scratchOff 0xC000) = false
    ∧ s.core.holderGate g5 (x.scratchOff 0xC000) = .pass ∧ x.open_ [3] [] = true ∧ s.ready g5 0 18 = true
    ∧ (sp (nx (exec (.stW g5 0 0x32000) s))).buf = [⟨scratchBase 1, [0x11, 0x22, 0x33, 0x44], false, 0⟩] := by decide +kernel

/-- An integer instruction ran with this outcome. -/
def gives (s : State) (o : Out) (r : AluOut) : Prop := nx o = s.put g5 (((sp s).result 3 r).past 1)
theorem test_add : let s := two 0x20 0x7FFFFFFF 1; s.ready g5 0 0x20 = true ∧ (sp s).open_ [1, 2] [3] = true
    ∧ gives s (exec (.add g5 0 0x31200) s) { r := 0x80000000, c := some false, v := some true } := by unfold gives; decide +kernel
theorem test_add_sat : let s := run 0x20 { regs [(1, 0x80000000), (2, 0xFFFFFFFF)] with mode := 1 <<< 1 }
    s.ready g5 0 0x20 = true ∧ (sp s).open_ [1, 2] [3] = true ∧ modeSat (sp s).mode = true
    ∧ gives s (exec (.add g5 0 0x31200) s) { r := 0x80000000, c := some true, v := some true, clip := true } := by unfold gives; decide +kernel
theorem test_sub : let s := two 0x21 0 1; s.ready g5 0 0x21 = true ∧ (sp s).open_ [1, 2] [3] = true
    ∧ gives s (exec (.sub g5 0 0x31200) s) { r := 0xFFFFFFFF, c := some false, v := some false } := by unfold gives; decide +kernel
theorem test_andD : let s := two 0x22 0xF0F0 0xFF00; s.ready g5 0 0x22 = true ∧ (sp s).open_ [1, 2] [3] = true
    ∧ gives s (exec (.andD g5 0 0x31200) s) { r := 0xF000, v := some false } := by unfold gives; decide +kernel
theorem test_orD : let s := two 0x23 0xF0F0 0xFF00; s.ready g5 0 0x23 = true ∧ (sp s).open_ [1, 2] [3] = true
    ∧ gives s (exec (.orD g5 0 0x31200) s) { r := 0xFFF0, v := some false } := by unfold gives; decide +kernel
theorem test_xorD : let s := two 0x24 0xF0F0 0xFF00; s.ready g5 0 0x24 = true ∧ (sp s).open_ [1, 2] [3] = true
    ∧ gives s (exec (.xorD g5 0 0x31200) s) { r := 0x0FF0, v := some false } := by unfold gives; decide +kernel
theorem test_minD : let s := two 0x29 0xFFFFFFFF 1; s.ready g5 0 0x29 = true ∧ (sp s).open_ [1, 2] [3] = true
    ∧ gives s (exec (.minD g5 0 0x31200) s) { r := 0xFFFFFFFF } ∧ gives s (exec (.minD g5 0 0x31201) s) { r := 1 } := by unfold gives; decide +kernel
theorem test_maxD : let s := two 0x2A 0xFFFFFFFF 1; s.ready g5 0 0x2A = true ∧ (sp s).open_ [1, 2] [3] = true
    ∧ gives s (exec (.maxD g5 0 0x31200) s) { r := 1 } ∧ gives s (exec (.maxD g5 0 0x31201) s) { r := 0xFFFFFFFF } := by unfold gives; decide +kernel

theorem test_shl : let s := two 0x25 0x80000001 32; s.ready g5 0 0x25 = true ∧ (sp s).open_ [1, 2] [3] = true ∧ (32 : Nat) = ((sp s).rd 2).toNat % 64
    ∧ gives s (exec (.shl g5 0 0x31200) s) { r := 0, c := some true } := by unfold gives; decide +kernel
theorem test_shr : let s := two 0x26 0x80000003 0; s.ready g5 0 0x26 = true ∧ (sp s).open_ [1] [3] = true ∧ (0x82 : Byte).toNat = 0x80 + 2
    ∧ gives s (exec (.shr g5 0 0x31082) s) { r := 0x20000000, c := some true } := by unfold gives; decide +kernel
theorem test_sar : let s := two 0x27 0x80000000 63; s.ready g5 0 0x27 = true ∧ (sp s).open_ [1, 2] [3] = true
    ∧ gives s (exec (.sar g5 0 0x31200) s) { r := 0xFFFFFFFF, c := some true } := by unfold gives; decide +kernel
theorem test_rot : let s := two 0x28 0x80000001 33; s.ready g5 0 0x28 = true ∧ (sp s).open_ [1, 2] [3] = true
    ∧ gives s (exec (.rot g5 0 0x31200) s) { r := 3 } := by unfold gives; decide +kernel
theorem test_absD : let s := two 0x2B 0x80000000 0; s.ready g5 0 0x2B = true ∧ (sp s).open_ [1] [3] = true
    ∧ gives s (exec (.absD g5 0 0x31000) s) { r := 0x80000000, v := some true } := by unfold gives; decide +kernel
theorem test_negD : let s := two 0x2C 1 0; s.ready g5 0 0x2C = true ∧ (sp s).open_ [1] [3] = true
    ∧ gives s (exec (.negD g5 0 0x31000) s) { r := 0xFFFFFFFF, v := some false } := by unfold gives; decide +kernel
theorem test_clz : let s := two 0x2D 0 0; s.ready g5 0 0x2D = true ∧ (sp s).open_ [1] [3] = true ∧ (∀ i, i < 32 → ((sp s).rd 1).getLsbD (31 - i) = false)
    ∧ gives s (exec (.clz g5 0 0x31000) s) { r := 32 } := by unfold gives; decide +kernel
theorem test_sat : let s := two 0x2E 0xFFFFFF00 0; s.ready g5 0 0x2E = true ∧ (sp s).open_ [1] [3] = true
    ∧ gives s (exec (.sat g5 0 0x31007) s) { r := 0xFFFFFF80, clip := true }
    ∧ gives s (exec (.sat g5 0 0x3103F) s) { r := 0, clip := true } := by unfold gives; decide +kernel
theorem test_mul : let s := two 0x2F 0xFFFFFFFF 2; let x := sp s; s.ready g5 0 0x2F = true ∧ x.open_ [1, 2] [4, 5] = true
    ∧ nx (exec (.mul g5 0 0x41200) s) = s.put g5 (({ (x.setD 4 0xFFFFFFFE).setD 5 0xFFFFFFFF with sw := putBit x.sw bitN true } : Sprig).past 2)
    ∧ nx (exec (.mul g5 0 0x41201) s) = s.put g5 (((x.setD 4 0xFFFFFFFE).setD 5 1).past 2) := by decide +kernel
theorem test_div : let s := two 0x30 0xFFFFFFF9 2; let x := sp s; s.ready g5 0 0x30 = true ∧ x.open_ [1, 2] [4, 5] = true ∧ x.div = none
    ∧ let t := nx (exec (.div g5 0 0x41200) s)
      (sp t).board = 0x30 ∧ (let u := sp (nx (exec (.divResult g5) t)); u.rd 4 = 0xFFFFFFFD ∧ u.rd 5 = 0xFFFFFFFF ∧ u.board = 0) := by decide +kernel
theorem test_div_zero : let s := two 0x30 7 0; s.ready g5 0 0x30 = true ∧ (sp s).open_ [1, 2] [4, 5] = true
    ∧ let y := sp (nx (exec (.div g5 0 0x41200) s)); y.req.rank1 = some 4 ∧ y.page.faultDetail = 4 ∧ y.pc = 0 ∧ y.board = 0 ∧ y.div = none := by
  decide +kernel
theorem test_divResult_none : let s := two 0x30 7 0; (sp s).div = none ∧ nx (exec (.divResult g5) s) = s := by decide +kernel
theorem test_addI : let s := run 0x38 (regs [(3, 1)]); s.ready g5 0 0x38 = true ∧ (sp s).open_ [3] [3] = true
    ∧ gives s (exec (.addI g5 0 0x3FFFF) s) { r := 0, c := some true, v := some false } := by unfold gives; decide +kernel
theorem test_andI : let s := run 0x39 (regs [(3, 0xFFFFFFFF)]); s.ready g5 0 0x39 = true ∧ (sp s).open_ [3] [3] = true
    ∧ gives s (exec (.andI g5 0 0x38001) s) { r := 0x8001, v := some false } := by unfold gives; decide +kernel
theorem test_orI : let s := run 0x3A (regs [(3, 0xF0000000)]); s.ready g5 0 0x3A = true ∧ (sp s).open_ [3] [3] = true
    ∧ gives s (exec (.orI g5 0 0x38001) s) { r := 0xF0008001, v := some false } := by unfold gives; decide +kernel
theorem test_xorI : let s := run 0x3B (regs [(3, 0xFFFF)]); s.ready g5 0 0x3B = true ∧ (sp s).open_ [3] [3] = true
    ∧ gives s (exec (.xorI g5 0 0x3FFFF) s) { r := 0, v := some false } := by unfold gives; decide +kernel

/-- 1.5 + 2.25 = 3.75, 1.5 - 2.25 = -0.75, 1.5 * 2.25 = 3.375; 1.5 to an integer rounds to 2. -/
theorem test_fadd : let s := two 0x40 0x3FC00000 0x40100000; s.ready g5 0 0x40 = true ∧ (sp s).open_ [1, 2] [3] = true
    ∧ (sp (nx (exec (.fadd g5 0 0x31200) s))).rd 3 = 0x40700000 ∧ (sp (nx (exec (.fadd g5 0 0x31200) s))).page.cntStep = 2 := by decide +kernel
theorem test_fsub : let s := two 0x41 0x3FC00000 0x40100000; s.ready g5 0 0x41 = true ∧ (sp s).open_ [1, 2] [3] = true
    ∧ (sp (nx (exec (.fsub g5 0 0x31200) s))).rd 3 = 0xBF400000 := by decide +kernel
theorem test_fmul : let s := two 0x42 0x3FC00000 0x40100000; s.ready g5 0 0x42 = true ∧ (sp s).open_ [1, 2] [3] = true
    ∧ (sp (nx (exec (.fmul g5 0 0x31200) s))).rd 3 = 0x40580000 := by decide +kernel
theorem test_fmac : let s := run 0x43 (regs [(1, 0x3FC00000), (2, 0x40100000), (3, 0x3F800000)])
    s.ready g5 0 0x43 = true ∧ (sp s).open_ [1, 2] [3] = true ∧ (sp s).open_ [3] [] = true
    ∧ (sp (nx (exec (.fmac g5 0 0x31200) s))).rd 3 = 0x408C0000 := by decide +kernel
theorem test_fcvt : let s := two 0x44 0x3FC00000 0; s.ready g5 0 0x44 = true ∧ (sp s).open_ [1] [3] = true
    ∧ (sp (nx (exec (.fcvt g5 0 0x31000) s))).rd 3 = (fcvt 0 0 false 0 0x3FC00000).1 := by decide +kernel

theorem test_cmp : let s := two 0x50 0xFFFFFFFF 1; let x := sp s; s.ready g5 0 0x50 = true ∧ x.open_ [1, 2] [] = true
    ∧ Machine.cond 2 (x.rd 1) (x.rd 2) = some true ∧ Machine.cond 13 (x.rd 1) 0 = some true ∧ x.open_ [1] [] = true
    ∧ (sp (nx (exec (.cmp g5 0 0x01227) s))).rp 7 = true
    ∧ (sp (nx (exec (.cmp g5 0 0x01062) s))).rp 2 = false ∧ (sp (nx (exec (.cmp g5 0 0x010DA) s))).rp 2 = true := by decide +kernel
theorem test_tst : let s := two 0x51 6 8; s.ready g5 0 0x51 = true ∧ (sp s).open_ [1, 2] [] = true
    ∧ (sp (nx (exec (.tst g5 0 0x01201) s))).rp 1 = false ∧ (sp (nx (exec (.tst g5 0 0x01209) s))).rp 1 = true := by decide +kernel
/-- P1 is 1, P2 is 0. -/
def preds (opc : Byte) : State := run opc { Sprig.reset with p := 2 }
theorem test_pand : let s := preds 0x52; s.ready g5 0 0x52 = true ∧ (sp (nx (exec (.pand g5 0 0x01203) s))).rp 3 = false
    ∧ (sp (nx (exec (.pand g5 0 0x01213) s))).rp 3 = true := by decide +kernel
theorem test_por : let s := preds 0x53; s.ready g5 0 0x53 = true ∧ (sp (nx (exec (.por g5 0 0x01203) s))).rp 3 = true := by decide +kernel
theorem test_pnot : let s := preds 0x54; s.ready g5 0 0x54 = true ∧ (sp (nx (exec (.pnot g5 0 0x02003) s))).rp 3 = true := by decide +kernel

/-! ### Sprig instructions: MacResults to CustomerInstructionRuns -/

/-- A0 names a word of the X bank, A4 one of the Y bank; they hold x and y; AC0 holds ac. -/
def macs (opc : Byte) (x y : Word) (ac : BitVec 80) (mode : Word) : State :=
  let s := run opc { ((regs []).setA 0 0x100).setA 4 0x6100 with ac := #v[ac, 0], mode := mode }
  s.on ((s.core.setWord (localsBase g5 + 0x100) x).setWord (localsBase g5 + 0x6100) y)
def macReady (s : State) (opc : Byte) : Bool :=
  s.ready g5 0 opc && s.core.clear g5 0x100 4 && s.core.clear g5 0x6100 4 && (sp s).open_ (macReads 0) []
theorem test_mac : let s := macs 0x60 0xFFFFFFFE 3 10 0; macReady s 0x60 = true
    ∧ nx (exec (.mac g5 0 0x08800) s) = s.put g5 (((((sp s).setAc 0 4).setA 0 0x104).setA 4 0x6104).past 1) := by decide +kernel
theorem test_mac_sat : let s := macs 0x60 0x00020003 0x00040005 0x7FFFFFFFFFFFFFFFFFFF 0x42; macReady s 0x60 = true ∧ modeSat (sp s).mode = true
    ∧ (sp (nx (exec (.mac g5 0 0) s))).ac = #v[0x7FFFFFFFFFFFFFFFFFFF, 0] ∧ (sp (nx (exec (.mac g5 0 0) s))).sw = putBit 0 bitSats true
    ∧ (sp (nx (exec (.mac g5 0 0x400) s))).ac = #v[0x7FFFFFFFFFFFFFFFFFFF - (if modeLane (sp s).mode = 1 then 23 else 0x00020003 * 0x00040005), 0] := by
  decide +kernel
theorem test_macs : let s := macs 0x61 0xFFFFFFFE 0xFFFFFFFF 0 0; macReady s 0x61 = true
    ∧ (sp (nx (exec (.macs g5 0 0) s))).ac = #v[BitVec.ofInt 80 (-2 * 0xFFFFFFFF), 0] := by decide +kernel
theorem test_macx2 : let s := macs 0x62 0x0002FFFF 0x00030004 0xFFFFFFFFFF_0000000005 0; macReady s 0x62 = true
    ∧ (sp (nx (exec (.macx2 g5 0 0) s))).ac = #v[0x0000000005_0000000001, 0] := by decide +kernel
theorem test_macx4 : let s := macs 0x63 0x02FF0301 0x03040502 0 0; macReady s 0x63 = true
    ∧ (sp (nx (exec (.macx4 g5 0 0x400) s))).ac = #v[0xFFFFA_00004_FFFF1_FFFFE, 0] := by decide +kernel
theorem test_fmaca : let s := macs 0x64 0x3FC00000 0x40100000 0x3F800000 0; macReady s 0x64 = true
    ∧ (sp (nx (exec (.fmaca g5 0 0) s))).ac = #v[0x408C0000, 0] := by decide +kernel

/-- AC1 holds a value. -/
def accs (opc : Byte) (v : BitVec 80) : State := run opc { (regs [(1, 0xFFFFFFFB)]).setA 1 0x6100 with ac := #v[0, v] }
theorem test_clra : let s := accs 0x68 9; s.ready g5 0 0x68 = true ∧ (sp s).open_ [1] [] = true
    ∧ nx (exec (.clra g5 0 0x10000) s) = s.put g5 (((sp s).setAc 1 0).past 1)
    ∧ nx (exec (.clra g5 0 0x11001) s) = s.put g5 (((sp s).setAc 1 (BitVec.ofInt 80 (-5))).past 1) := by decide +kernel
theorem test_rnda : let s := accs 0x69 0x0000000008_FFFFFFFFF7; s.ready g5 0 0x69 = true
    ∧ nx (exec (.rnda g5 0 0x10044) s) = s.put g5 (((sp s).setAc 1 0x0000000000_FFFFFFFFF0).past 1) := by decide +kernel
theorem test_ash : let s := accs 0x6A 0x0000000008_FFFFFFFFF7; s.ready g5 0 0x6A = true
    ∧ nx (exec (.ash g5 0 0x1007F) s) = s.put g5 (((sp s).setAc 1 0x0000000004_FFFFFFFFFB).past 1)
    ∧ nx (exec (.ash g5 0 0x10041) s) = s.put g5 (((sp s).setAc 1 0x0000000010_FFFFFFFFEE).past 1) := by decide +kernel
theorem test_stasM : let s := accs 0x6B 0x12345; let x := sp s; s.ready g5 0 0x6B = true ∧ x.fits 0x6100 4 = true
    ∧ x.ea 0x82040 4 true = some ⟨0x6100, none, []⟩
    ∧ (sp (nx (exec (.stasM g5 0 0x82040) s))).buf = [⟨localsBase g5 + 0x6100, [0x34, 0x12, 0, 0], false, 0⟩] := by decide +kernel
theorem test_stasR : let s := accs 0x6C 0x12345; s.ready g5 0 0x6C = true ∧ (sp s).open_ [] [7] = true
    ∧ nx (exec (.stasR g5 0 0x71004) s) = s.put g5 (((sp s).setD 7 0x1234).past 2) := by decide +kernel

def jumps (opc : Byte) : State := run opc { regs [(2, 0x1234ABCD)] with pc := 0xFFFF }
theorem test_br : let s := jumps 0x70; s.ready g5 0 0x70 = true ∧ nx (exec (.br g5 0 5) s) = s.put g5 ((sp s).goes 1 4) := by decide +kernel
theorem test_brl : let s := jumps 0x71; s.ready g5 0 0x71 = true ∧ (sp s).fits 0xBFFC 4 = true
    ∧ nx (exec (.brl g5 0 0xFFFE) s)
      = s.put g5 (({ (sp s).setA 7 0xBFFC with buf := [⟨localsBase g5 + 0xBFFC, [0, 0, 0, 0], false, 0⟩] } : Sprig).goes 3 0xFFFD) := by decide +kernel
theorem test_brr : let s := jumps 0x72; s.ready g5 0 0x72 = true ∧ (sp s).open_ [2] [] = true
    ∧ nx (exec (.brr g5 0 0x02000) s) = s.put g5 ((sp s).goes 1 0xABCD) := by decide +kernel
theorem test_brlr : let s := jumps 0x73; s.ready g5 0 0x73 = true ∧ (sp s).open_ [2] [] = true ∧ (sp s).fits 0xBFFC 4 = true
    ∧ (sp (nx (exec (.brlr g5 0 0x02000) s))).pc = 0xABCD ∧ (sp (nx (exec (.brlr g5 0 0x02000) s))).ra 7 = 0xBFFC := by decide +kernel
theorem test_ret : let s := withBytes (run 0x74 ((regs []).setA 7 0xBFFC)) (localsBase g5 + 0xBFFC) [0x34, 0x12, 9, 9]
    s.ready g5 0 0x74 = true ∧ s.core.clear g5 0xBFFC 4 = true
    ∧ nx (exec (.ret g5 0 0) s) = s.put g5 (((sp s).setA 7 0xC000).goes 3 0x1234) := by decide +kernel

/-- A frame at the top of the Y bank: PC 0x1234, predicates 6, SW with the masks of interrupts and tracing, D0. -/
def framed : State := withBytes (run 0x75 { (regs []).setA 7 0xBFE8 with depth := 1 }) (localsBase g5 + 0xBFE8)
  [0x34, 0x12, 6, 1, 0, 0x40, 0, 0, 7, 0, 0, 0]
theorem test_reti : let s := framed; let x := sp s
    s.ready g5 0 0x75 = true ∧ s.core.clear g5 0xBFE8 24 = true ∧ x.slotsOpen = false ∧ x.open_ [] [0, 1, 2, 3] = true
    ∧ let y := sp (nx (exec (.reti g5 0 0) s))
      y.pc = 0x1234 ∧ y.p = 6 ∧ modeIen y.mode = true ∧ modeTrace y.mode = false ∧ y.rd 0 = 7 ∧ y.ra 7 = 0xC000 ∧ y.depth = 0
      ∧ y.tags = 1 := by decide +kernel
theorem test_trap : let s := run 0x76 (regs []); s.ready g5 0 0x76 = true
    ∧ (sp (nx (exec (.trap g5 0 31) s))).req.rank1 = some 63 ∧ (sp (nx (exec (.trap g5 0 31) s))).req.resume = 1 := by decide +kernel
theorem test_bkpt : let s := run 0x77 (regs []); let h := run 0x77 { regs [] with req := { ({} : Requests) with haltOnBreak := true } }
    s.ready g5 0 0x77 = true ∧ h.ready g5 0 0x77 = true
    ∧ (sp (nx (exec (.bkpt g5 0 0) s))).req.rank1 = some 5 ∧ (sp (nx (exec (.bkpt g5 0 0) h))).state = .halted := by decide +kernel
theorem test_halt : let s := run 0xB5 (regs []); s.ready g5 0 0xB5 = true
    ∧ nx (exec (.halt g5 0 0) s) = s.put g5 (({ sp s with state := .halted } : Sprig).past 1) := by decide +kernel
theorem test_interruptEntry :
    let s := withBytes (run 0 { regs [(3, 9)] with req := { ({} : Requests) with rank1 := some 32, resume := 0x50 } }) (localsBase g5 + 128) [0, 2, 1]
    s.core.recognise g5 = some (32, 0x50) ∧ (sp s).state = .run ∧ s.core.quietSprig g5 = false ∧ s.core.asleep 1 = false
    ∧ (s.core.vectorWord g5 32).getLsbD 16 = true
    ∧ let t := nx (exec (.interruptEntry g5) s); let y := sp t
      y.pc = 0x200 ∧ y.ra 7 = 0xBFE8 ∧ y.depth = 1 ∧ (t.core.word (localsBase g5 + 0xBFE8)).setWidth 16 = (0x50 : BitVec 16)
      ∧ t.core.word (localsBase g5 + 0xBFFC) = 9 ∧ t.core.byte (localsBase g5 + 0xBFE7) = 0 := by decide +kernel

/-- Sprig 1.5 bound to queue 3 of its own: channel 2 with two credits. -/
def sender (credit : Int) : State :=
  let s := run 0x80 (regs [(8, 0x41000000), (9, 7)])
  s.on (s.core.setChan g5 2 { Chan.reset with credit := credit })
theorem test_send : let s := sender 2
    s.ready g5 0 0x80 = true ∧ (sp s).open_ [] cardRegs = true ∧ (sp s).rd 8 >>> 24 ≠ 0 ∧ (s.core.chan g5 2).out = none
    ∧ let t := nx (exec (.send g5 0 0x02000) s)
      (t.core.chan g5 2).credit = 1 ∧ (t.core.chan g5 2).owed = [⟨0, 0, none⟩] ∧ (sp t).pc = 1 ∧ t.core.fly.length = 1 := by decide +kernel
theorem test_send_credit : let s := sender 0; s.ready g5 0 0x80 = true
    ∧ let t := nx (exec (.send g5 0 0x02000) s); (sp t).state = .frozen ∧ (sp t).cause = causeCredit ∧ (sp t).pc = 0 := by decide +kernel

theorem test_recv : let s := receiver 0x81 [card1]; s.ready g5 0 0x81 = true ∧ (sp s).open_ [] cardRegs = true ∧ (sp s).fill = none
    ∧ (s.core.pop (queueAt g5 3)).isSome = true
    ∧ let t := nx (exec (.recv g5 0 0x03000) s)
      (sp t).fill = some (delivered 0 card1) ∧ (sp t).board = 0xFF00 ∧ (sp t).pc = 1 ∧ (t.core.queue (queueAt g5 3)).chain = []
      ∧ let y := sp (nx (exec (.recvFill g5) t)); y.rd 9 = 1 ∧ y.rd 15 = 7 ∧ y.tags = 0x0200 ∧ y.board = 0 ∧ y.rd 3 = 9 := by decide +kernel
theorem test_recv_empty : let s := receiver 0x81 []; s.ready g5 0 0x81 = true ∧ s.core.pop (queueAt g5 3) = none
    ∧ (sp (nx (exec (.recv g5 0 0x03000) s))).req.block = .recv 3 ∧ (sp (nx (exec (.recv g5 0 0x03000) s))).pc = 0 := by decide +kernel
theorem test_recvUnblock :
    let s := (receiver 0x81 [card1]).put g5 { sp (receiver 0x81 [card1]) with req := { ({} : Requests) with block := .recv 3 } }
    (sp s).req.block = .recv 3 ∧ (sp s).issues = true ∧ s.core.quietSprig g5 = false ∧ (s.core.pop (queueAt g5 3)).isSome = true
    ∧ (sp (nx (exec (.recvUnblock g5) s))).pc = 1 ∧ (sp (nx (exec (.recvUnblock g5) s))).req.block = .none
    ∧ (sp (nx (exec (.recvUnblock g5) s))).fill = some (delivered 0 card1) := by decide +kernel
theorem test_recvNb : let s := receiver 0x82 [card1]; let e := receiver 0x82 []; s.ready g5 0 0x82 = true ∧ e.ready g5 0 0x82 = true
    ∧ (sp (nx (exec (.recvNb g5 0 0x03001) s))).rp 1 = true ∧ (sp (nx (exec (.recvNb g5 0 0x03001) s))).fill = some (delivered 0 card1)
    ∧ e.core.pop (queueAt g5 3) = none ∧ nx (exec (.recvNb g5 0 0x03001) e) = e.put g5 (((sp e).setP 1 false).past 1) := by decide +kernel

theorem test_fenceQ : let s := run 0x83 (regs []); s.ready g5 0 0x83 = true ∧ s.core.sendsSettled g5 = true
    ∧ nx (exec (.fenceQ g5 0 0) s) = s.put g5 ((sp s).past 1) := by decide +kernel
theorem test_waitI : let s := run 0x90 (regs []); s.ready g5 0 0x90 = true ∧ s.core.wakeCondition g5 = false
    ∧ nx (exec (.waitI g5 0 0) s) = s.put g5 { sp s with state := .wait }
    ∧ nx (exec (.waitWake g5) (s.put g5 { sp s with state := .wait })) = s.put g5 { sp s with state := .wait } := by decide +kernel
theorem test_waitWake : let s0 := receiver 0x90 [card1]; let s := s0.put g5 { sp s0 with state := .wait }
    (sp s).state = .wait ∧ s.core.wakeCondition g5 = true ∧ s.core.quietSprig g5 = false ∧ s.core.asleep 1 = false
    ∧ nx (exec (.waitWake g5) s) = s.put g5 ((sp s0).past 1) := by decide +kernel
theorem test_evr : let s := latched 0x91; s.ready g5 0 0x91 = true ∧ (sp s).open_ [] [2] = true
    ∧ nx (exec (.evr g5 0 0x20000) s) = s.put g5 (((sp s).setD 2 0x8081).past 1) := by decide +kernel
theorem test_evc : let s := latched 0x92; s.ready g5 0 0x92 = true
    ∧ (sp (nx (exec (.evc g5 0 0x80) s))).page.latch = 1 ∧ (sp (nx (exec (.evc g5 0 0x80) s))).page.merged = 0x80
    ∧ (sp (nx (exec (.evc g5 0 0x180) s))).page.merged = 0 := by decide +kernel
theorem test_rdt : let s0 := run 0x93 (regs []); let s := s0.on { s0.core with time := { s0.core.time with dtime := 0x5_00000007 } }
    s.ready g5 0 0x93 = true ∧ (sp s).open_ [] [2, 3] = true
    ∧ (sp (nx (exec (.rdt g5 0 0x20000) s))).rd 2 = 7 ∧ (sp (nx (exec (.rdt g5 0 0x20000) s))).rd 3 = 5 := by decide +kernel

/-- D1 the value, D2 and D3 the instant, D4 the unit. -/
def dealer (u : Word) : State := run 0x94 (regs [(1, 0xAA), (2, 7), (3, 5), (4, u)])
theorem test_deal : let s0 := dealer 0; let s := s0.on { s0.core with cfg := [(sid 0x06 0x18, 0xFFFF)] }
    s.ready g5 0 0x94 = true ∧ (sp s).open_ [1, 2, 3, 4] [] = true ∧ s.core.mayDeal g5 0 = true
    ∧ (nx (exec (.deal g5 0 0x12400) s)).core.fly = [⟨dealOrigin g5, unitPlace 0, .deal 0 0xAA 0x5_00000007 g5⟩] := by decide +kernel
theorem test_deal_denied : let s := dealer 0xFFFF; s.ready g5 0 0x94 = true ∧ s.core.mayDeal g5 0xFFFF = false
    ∧ (sp (nx (exec (.deal g5 0 0x12400) s))).state = .frozen ∧ (sp (nx (exec (.deal g5 0 0x12400) s))).cause = causePerm := by decide +kernel
/-- A1 names the first word of the scratch window. -/
def atomic (opc : Byte) : State := granted (run opc ((regs [(3, 5)]).setA 1 0xC000))
theorem test_aadd : let s := atomic 0xA0; let x := sp s; s.ready g5 0 0xA0 = true ∧ x.ea 0x32000 4 false = some ⟨0xC000, none, []⟩
    ∧ s.core.slimGrants g5 (x.scratchOff 0xC000) true = true ∧ s.core.holderGate g5 (x.scratchOff 0xC000) = .pass
    ∧ (sp (nx (exec (.aadd g5 0 0x32000) s))).atomics = [⟨0, false, 5, .reg 3, 0⟩]
    ∧ (sp (nx (exec (.aadd g5 0 0x32000) s))).board = 8 := by decide +kernel
theorem test_aswp : let s := atomic 0xA1; s.ready g5 0 0xA1 = true
    ∧ (sp (nx (exec (.aswp g5 0 0x32000) s))).atomics = [⟨0, true, 5, .reg 3, 0⟩] := by decide +kernel
theorem test_atomicResult : let s := withBytes (run 0xA0 { regs [] with atomics := [⟨8, false, 5, .reg 3, 0⟩] }) (scratchBase 1 + 8) [0xFF, 0xFF, 0xFF, 0xFF]
    s.core.leaseGate 1 ((inBunch g5).setWidth 8) (some 0) 8 = (.pass, s.core) ∧ s.core.mark (scratchBase 1 + 8) = .ok
    ∧ let t := nx (exec (.atomicResult g5) s)
      t.core.word (scratchBase 1 + 8) = 4 ∧ (sp t).rd 3 = 0xFFFFFFFF ∧ (sp t).atomics = [] := by decide +kernel

theorem test_mmode : let s := run 0xB0 (regs [(2, 0xFFFFFFCF)]); s.ready g5 0 0xB0 = true ∧ (sp s).open_ [2] [] = true
    ∧ modeLane (0xFFFFFFCF : Word) ≠ 3
    ∧ (sp (nx (exec (.mmode g5 0 0x20000) s))).written = some 0x1CF ∧ (sp (nx (exec (.mmode g5 0 0x20000) s))).mode = 0 := by decide +kernel
theorem test_mmode_lane3 : let s := run 0xB1 (regs []); s.ready g5 0 0xB1 = true ∧ modeLane ((sp s).mode ||| 0x1FF#32) = 3
    ∧ let y := sp (nx (exec (.mmodeS g5 0 0x1FF) s)); y.req.rank1 = some 2 ∧ y.page.faultDetail = 2 ∧ y.written = none ∧ y.pc = 0 := by decide +kernel
theorem test_mmodeS : let s := run 0xB1 { regs [] with mode := 1, written := some 5 }; s.ready g5 0 0xB1 = true
    ∧ (sp (nx (exec (.mmodeS g5 0 2) s))).written = some 7 ∧ (sp (nx (exec (.mmodeS g5 0 2) s))).mode = 5 := by decide +kernel
theorem test_mmodeC : let s := run 0xB2 { regs [] with mode := 7 }; s.ready g5 0 0xB2 = true
    ∧ (sp (nx (exec (.mmodeC g5 0 2) s))).written = some 5 := by decide +kernel
theorem test_fenceI : let s := run 0xB3 (regs []); s.ready g5 0 0xB3 = true ∧ (sp s).storesSettled = true
    ∧ nx (exec (.fenceI g5 0 0) s) = s.put g5 ((sp s).past 1) := by decide +kernel
theorem test_fences_wait : let s (opc : Byte) := run opc { regs [] with buf := [⟨localsBase g5, [1], false, 0⟩], dealsOut := 1, pc := 3 }
    (s 0xB3).ready g5 0 0xB3 = true ∧ (sp (nx (exec (.fenceI g5 0 0) (s 0xB3)))).pc = 3 ∧ (s 0x83).core.sendsSettled g5 = false
    ∧ (sp (nx (exec (.fenceQ g5 0 0) (s 0x83)))).pc = 3 ∧ (sp (nx (exec (.syncI g5 0 0) (s 0xB4)))).pc = 3 := by decide +kernel
theorem test_syncI : let s := run 0xB4 (regs []); s.ready g5 0 0xB4 = true ∧ (sp s).storesSettled = true ∧ s.core.sendsSettled g5 = true
    ∧ (sp s).board = 0 ∧ nx (exec (.syncI g5 0 0) s) = s.put g5 ((sp s).past 1) := by decide +kernel

/-- Opcode 0xE1 runs the one word at 0xF00. -/
def customer : State :=
  let s := two 0xE1 0x7FFFFFFF 1
  s.on ((s.core.setWord (storeBase g5 + 0x4000 + 4 * 0xE1) 0x80700F00).setWord (storeBase g5 + 4 * 0xF00) 0x2010C7F3)
theorem test_customer : let s := customer
    s.core.recognise g5 = none ∧ s.ready g5 0 0xE1 = true ∧ s.core.csMark (storeBase g5 + 4 * 0xF00) = .ok ∧ (sp s).open_ [1, 2] [3] = true
    ∧ let y := sp (nx (exec (.customerInstruction g5 0 0xE1 0x31200) s))
      y.rd 3 = 0x80000000 ∧ y.pc = 1 ∧ y.page.cntStep = 1 ∧ y.micro.az = false ∧ y.micro.an = true ∧ y.micro.av = true := by decide +kernel

/-! ### AccessesReturn to LeaseLifeCycle -/

theorem test_farLoadReturn :
    let s := memReady (withBytes (run 0 { regs [] with farLoad := some ⟨4, 2, true, .reg 3⟩, board := 8 }) 4 [0x34, 0xF2])
    isMem 4 = true ∧ s.core.memAvail 4 = .ok
    ∧ let y := sp (nx (exec (.farLoadReturn g5) s)); y.rd 3 = 0xFFFFF234 ∧ y.board = 0 ∧ y.farLoad = none := by decide +kernel
theorem test_farStoreAccept : let s := memReady (run 0 { regs [] with farStore := some ⟨4, [1, 2]⟩ })
    isMem 4 = true ∧ s.core.memAvail 4 = .ok
    ∧ let t := nx (exec (.farStoreAccept g5) s); t.core.word 4 = 0x201 ∧ (sp t).farStore = none := by decide +kernel
theorem test_storeBufferDrain : let s := run 0 { regs [] with buf := [⟨localsBase g5 + 0x10, [7], false, 0⟩] }
    let t := nx (exec (.storeBufferDrain g5) s); t.core.word (localsBase g5 + 0x10) = 7 ∧ (sp t).buf = [] := by decide +kernel
theorem test_frameSlotReturn : let s := run 0 { regs [] with div := some ⟨7, 9, .slot 0xBFE8 2, .slot 0xBFE8 3⟩ }
    let t := nx (exec (.frameSlotReturn g5 2) s)
    t.core.word (localsBase g5 + 0xBFF8) = 7 ∧ t.core.word (localsBase g5 + 0xBFFC) = 9 ∧ (sp t).div = none := by decide +kernel

theorem test_spgQpopRead : let s := receiver 0 [card1]; (s.core.pop (queueAt g5 3)).isSome = true
    ∧ let t := nx (exec (.spgQpopRead g5 3) s)
      (shown t (.sprig g5)).value = (delivered 0 card1).card.w0 ∧ (shown t (.sprig g5)).poisoned = false ∧ (t.core.queue (queueAt g5 3)).chain = [] := by
  decide +kernel
theorem test_spgClaimRead : let s := latchedBic
    Tbl.get (s.core.bic 1).latch 5 none = some (9, 3) ∧ s.core.latchPending 1 5 9 = true
    ∧ let t := nx (exec (.spgClaimRead g5) s)
      (shown t (.sprig g5)).value = 0x80030009 ∧ (t.core.bic 1).active = 512 ∧ Tbl.get (t.core.bic 1).owner 9 0 = 5
      ∧ let u := nx (exec (.bicComplete (.sprig g5) 1 9) t)
        t.core.takes (.sprig g5) true = true ∧ (u.core.bic 1).active = 0 ∧ (u.core.bic 1).en = 512 := by decide +kernel
theorem test_spgEvWrite : let s := latched 0
    nx (exec (.spgEvWrite g5 0x8001) s) = s.put g5 { sp s with page := { (sp s).page with latch := 0x80, merged := 0 } } := by decide +kernel
/-- Nothing is latched: source 9 is eligible, then no source is. -/
theorem test_spgClaimRead_select : let s := latchedBic
    let f (l : BitVec 256) : State := s.on ((({ s.core with cfg := [(sid 0x0D (0x4000 + 36), 0x00530007)] } : Core).setBic 1
      { s.core.bic 1 with latch := [], latchSrc := [], en := l }).setSprig g5 ({ Sprig.reset with state := .run } : Sprig))
    (f 512).core.bicEligible 1 5 9 = true ∧ (f 512).core.bicEligible 1 5 8 = false
    ∧ (shown (nx (exec (.spgClaimRead g5) (f 512))) (.sprig g5)).value = 0x80030009
    ∧ (f 0).core.bicSelect 1 5 = none ∧ ((nx (exec (.spgClaimRead g5) (f 0))).core.bic 1).spurious = 1 := by decide +kernel
theorem test_bicComplete_inactive : let t := nx (exec (.bicComplete st1 1 0x80000004) State.reset)
    State.reset.core.takes st1 true = true ∧ (t.core.bic 1).spurious = 1 ∧ (t.core.bic 1).active = 0 ∧ logged t = some 7 := by decide +kernel
theorem test_spgQpop_other : let e := receiver 0 []; let s := e.on (e.core.setQueue (queueAt g5 3) { Queue.reset with mark := true, resets := 2 })
    nx (exec (.spgQpopRead g5 3) e)
      = e.on ((e.core.modPage g5 fun p => { p with ports := Tbl.set p.ports 3 ⟨⟨0, 0, 0, 0, 0, 0, 0, 0⟩, 0⟩ ⟨⟨0, 0, 0, 0, 0, 0, 0, 0⟩, 0⟩ }).answer
        (.sprig g5) 0 false false)
    ∧ (let t := nx (exec (.spgQpopRead g5 3) s); (shown t (.sprig g5)).value = 0x01500000 ∧ (t.core.queue (queueAt g5 3)).mark = false) := by
  decide +kernel
/-- Monitor 5 is bound to slot 1 of sprig 1.5; it is armed for 0x80. -/
def monitored (d : Dm) : State := set_ [(sid 0x04 0x600A0, 0x8104A000)] fun c => c.setDm 5 d
theorem test_spgDlarmWrite : State.reset.core.dmOf g5 1 = none ∧ logged (nx (exec (.spgDlarmWrite g5 1 77) State.reset)) = some 7
    ∧ let s := monitored Dm.reset; s.core.dmOf g5 1 = some 5 ∧ s.core.fabric.edges = []
    ∧ (nx (exec (.spgDlarmWrite g5 1 0x80) s)).core.dm 5 = { Dm.reset with armed := true, dl := 0x80, since := 0 }
    ∧ (nx (exec (.spgDlarmWrite g5 1 never) s)).core.dm 5 = { Dm.reset with dl := never } := by decide +kernel
theorem test_spgDlarmWrite_met : let s := monitored { Dm.reset with armed := true, dl := 0x80 }
    (s.core.dmCtl 5).getLsbD 27 = false ∧ (s.core.dmCtl 5 >>> 28).setWidth 3 = (0#3)
    ∧ (nx (exec (.spgDlarmWrite g5 1 never) s)).core.dm 5 = { Dm.reset with dl := never, slack := 16 } := by decide +kernel

/-- Device address of an offset in the debug view of sprig 1.5. -/
def viewAddr (o : Nat) : Addr := BitVec.ofNat 40 (localsBase g5 + o)
/-- Sprig 1.5 halted with D3 and D9. -/
def stopped5 : State := State.reset.put g5 { regs [(3, 9), (9, 4)] with state := .halted }
theorem test_debugViewRead_image : let s := run 0 (regs [(3, 9)])
    isLocals (viewAddr 0x1800C).toNat = true ∧ s.core.bar4Reaches st1 (viewAddr 0x1800C).toNat 4 = true ∧ s.core.asleep 1 = false ∧ s.core.quiet (.bunch 1) = false ∧ s.core.frozenMaster st1 = false
    ∧ shown (nx (exec (.debugViewRead st1 (viewAddr 0x1800C)) s)) st1 = { value := 9 } := by decide +kernel
theorem test_debugViewRead_bank : let s := withBytes State.reset (localsBase g5 + 0xBFFC) [1, 2, 3, 4]
    s.core.firstBad (localsBase g5 + 0xBFFC) 4 = none
    ∧ shown (nx (exec (.debugViewRead st1 (viewAddr 0xBFFC)) s)) st1 = { value := 0x04030201 } := by decide +kernel
theorem test_debugViewWrite_bank : stopped5.core.stopped st1 g5 = true
    ∧ (nx (exec (.debugViewWrite st1 (viewAddr 0) 0x55) stopped5)).core.word (localsBase g5) = 0x55 := by decide +kernel
theorem test_debugViewWrite_image : stopped5.core.stopped st1 g5 = true ∧ (stopped5.core.sprig g5).board.getLsbD 15 = false
    ∧ sp (nx (exec (.debugViewWrite st1 (viewAddr 0x1803C) 0x55) stopped5)) = (sp stopped5).setD 15 0x55 := by decide +kernel
theorem test_controlStoreWrite : stopped5.core.stopped .bootRom g5 = true ∧ isStore (storeBase g5 + 0x43FC) = true
    ∧ (nx (exec (.controlStoreWrite st1 (BitVec.ofNat 40 (storeBase g5 + 0x43FC)) 0x80000F00) stopped5)).core.word (storeBase g5 + 0x43FC) = 0x80000F00 := by
  decide +kernel
theorem test_unmappedRead : mapped 0x3000000000 = false ∧ State.reset.core.err.takes 0 = true
    ∧ let t := nx (exec (.unmappedRead (.sprig g5) 0x3000000000) State.reset)
      shown t (.sprig g5) = {} ∧ logged t = some 6 := by decide +kernel
theorem test_unmappedWrite : let t := nx (exec (.unmappedWrite (.sprig g5) 0x3000000000 1) (run 0 (regs [])))
    (sp t).state = .frozen ∧ (sp t).cause = 1 := by decide +kernel
theorem test_lowWordRead : inRegs 0x6000100000 = true ∧ State.reset.core.seesAll st1 = true
    ∧ (shown (nx (exec (.lowWordRead st1 0x6000100000) State.reset)) st1).value = (State.reset.regRead st1 1 0).1 := by decide +kernel
/-- A write of a read-only word leaves an entry and no other trace. -/
theorem test_registerWrite : inRegs 0x60000FF000 = true
    ∧ (nx (exec (.registerWrite st1 0x60000FF000 1) State.reset)).core.regs = State.reset.core.regs := by decide +kernel

theorem test_debugView_refused : let s := run 0 (regs [(3, 9)]); let a := viewAddr 0x18000
    s.core.stopped st1 g5 = false ∧ (let t := nx (exec (.debugViewWrite st1 a 7) s); sp t = sp s ∧ t.core.mem = s.core.mem)
    ∧ s.core.bar4Reaches (.host 5) a.toNat 4 = false ∧ nx (exec (.debugViewRead (.host 5) a) s) = s ∧ nx (exec (.debugViewWrite (.host 5) a 7) s) = s := by
  decide +kernel
theorem test_host_wrong_size : let s := State.reset
    accessExists hostF 0x6000100000 { size := 8 } = true
    ∧ shown (nx (exec (.lowWordRead hostF 0x6000100000 { size := 8 }) s)) hostF = { abort := true }
    ∧ shown (nx (exec (.registerWrite hostF 0x6000100002 5 {}) s)) hostF = { abort := true }
    ∧ let y := sp (nx (exec (.registerWrite (.sprig g5) 0x6000100002 5 {}) (run 0 (regs [])))); y.req.rank1 = some 1 ∧ y.page.faultDetail = 1 := by
  decide +kernel
/-- Host queue pair 200 belongs to function 3. -/
def vfPair : State := set_ [(sid 0x0B (0xC0008 + 0x40 * 200), 0x86000000)] fun c => { c with boot := { c.boot with steward := true } }.setHqp 200 { Hqp.reset with itail := 5, otail := 3, ihead := 2, ohead := 1 }
theorem test_bar2_read : let s := vfPair; s.core.frozenMaster (.host 3) = false ∧ pairFunc (s.core.pairCfg 200) = 3
    ∧ let r (n : Nat) : Word := (shown (nx (exec (.lowWordRead (.host 3) (BitVec.ofNat 40 (3200 + n)) { window := true }) s)) (.host 3)).value
      r 0 = 5 ∧ r 4 = 2 ∧ r 8 = 3 ∧ r 12 = 1 := by decide +kernel

/-- Bunch 1's first scratch bytes. -/
def scratched : State := withBytes (withBytes State.reset (scratchBase 1 + 0x1E0010) [1, 2, 3, 4]) (scratchBase 1 + 0x1F8010) [1, 2, 3, 4]
theorem test_scratchAccess_read :
    let t := nx (exec (.scratchAccess 1 15 [⟨0x05, 0x1E0010, 4, .read, .x⟩] .ok) scratched)
    scratched.core.mark (scratchBase 1 + 0x1E0010) = .ok ∧ (t.core.arb 1 15).out = [1, 2, 3, 4] ∧ (t.core.arb 1 15).hold = 0 ∧ (t.core.arb 1 15).last = some (portOf 0x05) := by
  decide +kernel
theorem test_scratchAccess_write :
    let t := nx (exec (.scratchAccess 1 15 [⟨0x05, 0x1FFFFC, 4, .write [9, 8, 7, 6] false, .x⟩] .ok) scratched)
    portOf 0x05 ≠ 0x22 ∧ t.core.word (scratchBase 1 + 0x1FFFFC) = 0x06070809 ∧ t.core.word (scratchBase 1 + 0x1E0010) = 0x04030201 := by decide +kernel
theorem test_scrCe :
    let s := State.reset.on ((State.reset.core.setMark (scratchBase 1 + 8) .single).setArb 1 0 { BankArb.reset with ceWords := [1, 2] })
    s.core.mark (scratchBase 1 + 8) = .single ∧ (1#18) ∈ (s.core.arb 1 0).ceWords
    ∧ let t := nx (exec (.scrCe 1 1) s); t.core.mark (scratchBase 1 + 8) = .ok ∧ (t.core.arb 1 0).ceWords = [2] := by decide +kernel
/-- Sprig 1.5 asks before sprig 1.6 and is granted; 1.6 then goes first. -/
theorem test_scratchAccess_two : let a : ScrReq := ⟨5, 0x1E0010, 4, .read, .x⟩; let b : ScrReq := ⟨6, 0x1E0010, 4, .read, .x⟩
    let t := nx (exec (.scratchAccess 1 15 [b, a] .ok) scratched)
    (t.core.arb 1 15).last = some 5 ∧ (t.core.arb 1 15).behind = [(5, 6)]
    ∧ ((nx (exec (.scratchAccess 1 15 [b] .ok) t)).core.arb 1 15).last = some 6 := by decide +kernel
theorem test_scratchAccess_atomic : let t := nx (exec (.scratchAccess 1 15 [⟨5, 0x1E0010, 4, .aadd 1, .x⟩] .ok) scratched)
    t.core.word (scratchBase 1 + 0x1E0010) = 0x04030202 ∧ (t.core.arb 1 15).hold = 1
    ∧ let u := nx (exec (.scratchAccess 1 15 [] .ok) t); (u.core.arb 1 15).hold = 0 ∧ u.core.mem = t.core.mem := by decide +kernel
theorem test_mailboxPortB : scratched.core.asleep 1 = false
    ∧ (State.core (nx (exec (.mailboxPortBAccess 1 ⟨0x22, 0x1F8010, 4, .read, .x⟩ []) scratched)) |>.arb 1 15).outB = [1, 2, 3, 4]
    ∧ (nx (exec (.mailboxPortBAccess 1 ⟨0x22, 0x1F8010, 4, .write [9, 8, 7, 6] false, .x⟩ []) scratched)).core.word (scratchBase 1 + 0x1F8010)
      = 0x06070809 := by decide +kernel
theorem test_secondPort_read : let s := withBytes State.reset (localsBase g5 + 0x5FFC) [5]; s.core.asleep 1 = false
    ∧ (nx (exec (.secondPortAccess g5 [⟨.debug, ⟨0xFF, none, 0⟩⟩] none) s)).core.port2 = { value := 5 } := by decide +kernel
theorem test_secondPort_write :
    (nx (exec (.secondPortAccess g5 [⟨.dma, ⟨0, some 0x11223344, 15⟩⟩] none) State.reset)).core.word (localsBase g5 + 0x5C00) = 0x11223344
    ∧ (nx (exec (.secondPortAccess g5 [⟨.dma, ⟨0, some 0x11223344, 15⟩⟩] (some ⟨0, none, 0⟩)) State.reset)).core.port1 = { value := 0x11223344 }
    ∧ (nx (exec (.secondPortAccess g5 [⟨.dma, ⟨0, some 0x11223344, 15⟩⟩] (some ⟨0, some 5, 15⟩)) State.reset)).core.word (localsBase g5 + 0x5C00) = 5 := by
  decide +kernel

theorem test_take : let t := nx (exec (.take (.sprig g5) 1 2 0x2003) (granted State.reset))
    (granted State.reset).core.frozenMaster (.sprig g5) = false ∧ (granted State.reset).core.takeRefusal g5 1 2 1 3 = none
    ∧ (t.core.lease 1 2).st = .copying ∧ (t.core.lease 1 2).region = 3 ∧ (t.core.lease 1 2).holder = 5 := by decide +kernel
theorem test_take_refused : let t := nx (exec (.take (.sprig g5) 1 2 3) State.reset)
    (t.core.lease 1 2).st = .refused ∧ (t.core.lease 1 2).cause = 4 := by decide +kernel
/-- Slot 2 of bunch 1 holds region 1 for sprig 1.5. -/
def leased (st : LeaseState) : State :=
  State.reset.on (State.reset.core.setLease 1 2
    { Lease.reset with st := st, pred := 1, region := 1, holder := 5, buf := List.replicate 256 7, marks := List.replicate 32 .ok })
theorem test_leaseCopyDone : let t := nx (exec (.leaseCopyDone 1 2) (withBytes (leased .copying) (scratchBase 1 + 0x100) [3]))
    (t.core.lease 1 2).st = .active ∧ (t.core.lease 1 2).buf.take 2 = [3, 0] ∧ (t.core.lease 1 2).buf.length = 256 := by decide +kernel
theorem test_leaseRevoke : let t := nx (exec (.leaseRevoke 1 2) (leased .restoring))
    (t.core.lease 1 2).st = .lost ∧ t.core.word (scratchBase 1 + 0x1FC) = 0x07070707 ∧ t.core.word (scratchBase 1 + 0x200) = 0 := by decide +kernel
theorem test_release : let t := nx (exec (.release (.sprig g5) 1 2) (leased .active))
    (leased .active).core.takes (.sprig g5) true = true ∧ (t.core.lease 1 2).st = .restoring ∧ (t.core.lease 1 2).releasing = true
    ∧ let u := nx (exec (.leaseRevoke 1 2) t)
      u.core.lease 1 2 = { Lease.reset with pred := 1, region := 1 } ∧ u.core.word (scratchBase 1 + 0x100) = 0x07070707 := by decide +kernel
theorem test_ack : (leased .lost).core.takes (.sprig g5) true = true
    ∧ (nx (exec (.ack (.sprig g5) 1 2) (leased .lost))).core.lease 1 2 = { Lease.reset with pred := 1, region := 1 } := by decide +kernel
/-- A host's access to the leased region is held and starts the restore. -/
theorem test_lease_revoked : let r : ScrReq := ⟨0x20, 0x100, 4, .read, .x⟩; let t := nx (exec (.scratchAccess 1 0 [r] .ok) (leased .active))
    (t.core.lease 1 2).st = .restoring ∧ (t.core.lease 1 2).revoker = 0x20 ∧ (t.core.lease 1 2).held = some r ∧ t.core.mem = [] := by decide +kernel

/-! ### CardsArrive to VoltageController -/

/-- A parcel at a place in transit, and queue 3 of sprig 1.5 enabled with a ring of four slots. -/
def fly1 (target : Nat) (p : Parcel) : List Flight := [⟨prodKey (.chan 0 37 2), target, p⟩]
def qcfg1 : Nat × Word := (sid 0x0B (0x10 * (queueAt g5 3).toNat), 0x82000000)
def card2 : Card := { card1 with w := { card1.w with w0 := 0x41000000 }, poison := 0 }
def arriving (p : Parcel) (target : Nat) (l : List (Nat × Word)) : State := set_ l fun c => { c with fly := fly1 target p }
def qi : QueueId := queueAt g5 3

theorem test_cardAccept : let s := arriving (.toQueue qi card2 false) (queuePlace qi) [qcfg1]
    (s.core.arrives 0).isSome = true ∧ s.core.queueRefusal qi card2 false = none ∧ s.core.asleep (queueBunch qi) = false
    ∧ let t := nx (exec (.cardAccept 0) s)
      (t.core.queue qi).chain = [card2] ∧ (t.core.fly.map Flight.parcel) = [.resolved card2.route 0 false none 0] := by decide +kernel
theorem test_cardAccept_refused : let s := arriving (.toQueue qi card2 false) (queuePlace qi) []
    s.core.queueRefusal qi card2 false = some outPortDown
    ∧ let t := nx (exec (.cardAccept 0) s)
      t.core.queues = [] ∧ (t.core.fly.map Flight.parcel) = [.resolved card2.route outPortDown true none 0] := by decide +kernel
theorem test_ringToChain : let s := set_ [qcfg1] fun c => c.setQueue qi (({ Queue.reset with ring := [card2] } : Queue).point 3 0)
    let q := (nx (exec (.ringToChainMove qi) s)).core.queue qi; q.ring = [] ∧ q.chain.length = 1 ∧ q.head = 0 ∧ q.ptrsAgree = true := by decide +kernel
theorem test_cardResolution : let s := arriving (.resolved (.chan 0 37 2) 3 true none 4) (prodKey (.chan 0 37 2)) []
    let x (l : List Owed) : Chan := (nx (exec (.cardResolution 0) (s.on (s.core.setChan g5 2 { Chan.reset with owed := l })))).core.chan g5 2
    (s.core.arrives 0).isSome = true ∧ x [⟨4, 0, none⟩] = { Chan.reset with outcome := 3, refcnt := 1, credit := 1 }
    ∧ x [⟨3, 0, none⟩, ⟨4, 0, none⟩] = { Chan.reset with owed := [⟨3, 0, none⟩, ⟨4, 0, some ⟨3, true, true⟩⟩] }
    ∧ x [⟨5, 0, none⟩] = { Chan.reset with owed := [⟨5, 0, none⟩] } := by decide +kernel
theorem test_cardResolution_noticed : let s := arriving (.resolved (.chan 0 37 2) 0 false none 4) (prodKey (.chan 0 37 2)) []
    (nx (exec (.cardResolution 0) (s.on (s.core.setChan g5 2 { Chan.reset with owed := [⟨4, 0, none⟩], noticed := true })))).core.chan g5 2
      = { Chan.reset with outcome := 1 } := by decide +kernel
/-- The fifth card enters the ring's first slot with a valid sideband. -/
theorem test_cardAccept_ring : let s0 := arriving (.toQueue qi card2 false) (queuePlace qi) [qcfg1]
    let s := s0.on (s0.core.setQueue qi { Queue.reset with chain := [card2, card2, card2, card2] })
    ringSlots (s.core.qcfg qi) = 4 ∧ s.core.queueRefusal qi card2 false = none
    ∧ let t := nx (exec (.cardAccept 0) s); let q := t.core.queue qi
      q.ring = [card2] ∧ q.chain.length = 4 ∧ q.ptrs.tail = 1 ∧ q.ptrsAgree = true ∧ t.core.word (scratchBase 1) = 0x41000000
      ∧ (t.core.byte (scratchBase 1 + 135)).getLsbD 7 = true := by decide +kernel
theorem test_creditReturn : let s := arriving (.credit (.chan 0 37 2) 0 false) (prodKey (.chan 0 37 2)) []
    ((nx (exec (.creditReturn 0) s)).core.chan g5 2).credit = 1
    ∧ ((nx (exec (.creditReturn 0) (s.on (s.core.setChan g5 2 { Chan.reset with serial := 1 })))).core.chan g5 2).credit = 0 := by decide +kernel
theorem test_epochNotice : let s := arriving (.notice (.chan 0 37 2) 9 true) (prodKey (.chan 0 37 2)) []
    let x := (nx (exec (.epochNotice 0) s)).core.chan g5 2; x.noticed = true ∧ x.epoch = 9 := by decide +kernel

/-- Posy 2 of two queues, with a policy; a card of channel 2 arrives. -/
def posy2 (policy : Word) : State := arriving (.toPosy 2 card2) (posyPlace 2)
  [(sid 0x0B 0x40200, 0x80000002 ||| (policy <<< 29) ||| (1 <<< 11)), (sid 0x0B 0x40204, 0xFFFFFFFF),
    (sid 0x0B 0x40280, qi.setWidth 32), (sid 0x0B 0x40284, qi.setWidth 32 + 1)]
def sentTo (t : State) : List (Option QueueId) := t.core.fly.map fun f => match f.parcel with | .toQueue i _ true => some i | _ => none
theorem test_posy_robin : let s := posy2 0; s.core.isHeld 0 2 = false ∧ s.core.quiet (.posy 2) = false ∧ (s.core.arrives 0).isSome = true
    ∧ let t := nx (exec (.posyDispatch 0) s); sentTo t = [some qi] ∧ Tbl.get t.core.posyNext 2 0 = 1 := by decide +kernel
theorem test_posy_key : let s := posy2 1; (cardWord card2.w 1 * 0x9E3779B1#32).toNat * 2 / 2 ^ 32 = 1
    ∧ sentTo (nx (exec (.posyDispatch 0) s)) = [some (qi + 1)] := by decide +kernel
theorem test_posy_broadcast : let t := nx (exec (.posyDispatch 0) (posy2 2)); sentTo t = [some qi, some (qi + 1)] ∧ t.core.nextBcast = 1 := by decide +kernel
/-- Channel 2 of sprig 1.5 is bound to posy 2, and a card waits in its slot. -/
def waiting (held : Bool) : State := set_ [(sid 0x0B (0x80000 + 8 * chanKey g5 2), 0x00400002)] fun c =>
  { c.setChan g5 2 { Chan.reset with out := some card2 } with held := if held then [(2, true)] else [] }
theorem test_posyHoldRelease : let s := waiting false; s.core.handleHeld (s.core.shandle g5 2) = false
    ∧ let t := nx (exec (.posyHoldRelease g5 2) s)
      (t.core.chan g5 2).out = none ∧ t.core.fly.map Flight.parcel = [.toPosy 2 card2] := by decide +kernel
theorem test_posyHoldRelease_held : let s := waiting true; s.core.handleHeld (s.core.shandle g5 2) = true
    ∧ nx (exec (.posyHoldRelease g5 2) s) = s := by decide +kernel
theorem test_hold : let t := nx (exec (.hold 3 2 false) State.reset)
    State.reset.core.dev ≠ 3 ∧ t.core.isHeld 3 2 = true ∧ t.core.fly.map Flight.parcel = [.holdAck 3 2] := by decide +kernel

/-- Queue 3 with a card in its chain and one in its ring; its resets of the last millisecond. -/
def full (n : Nat) (d : List (BitVec 3)) : State := set_ [qcfg1] fun c =>
  (c.setBytes (scratchBase 1 + 135) [0x80]).setQueue qi { Queue.reset with epoch := 7, chain := [card2], ring := [card2], recent := List.replicate n 0, deferred := d }
theorem test_queueReset : let s := full 254 []; (recentOf 0 (s.core.queue qi).recent).length < 255
    ∧ let q := (nx (exec (.queueResetInstant qi 5) s)).core.queue qi
      q.epoch = 8 ∧ q.mark = true ∧ q.first = 7 ∧ q.discarded = 2 ∧ q.cause = 5 ∧ q.chain = [] ∧ q.walk = [card2] := by decide +kernel
theorem test_queueReset_deferred : let q := (nx (exec (.queueResetInstant qi 1) (full 255 []))).core.queue qi
    q.deferred = [1] ∧ q.epoch = 7 ∧ q.chain = [card2] := by decide +kernel
theorem test_qmgrQreset : let s := full 0 []; s.core.takes hostF (s.core.privileged hostF) = true
    ∧ ((nx (exec (.qmgrQreset hostF (0x80000000 ||| qi.setWidth 32)) s)).core.queue qi).cause = 1
    ∧ nx (exec (.qmgrQreset hostF (qi.setWidth 32)) s) = s := by decide +kernel
theorem test_deferredReset : ((nx (exec (.deferredQueueReset qi) (full 254 [2, 1]))).core.queue qi).epoch = 8
    ∧ ((nx (exec (.deferredQueueReset qi) (full 254 [2, 1]))).core.queue qi).deferred = [1]
    ∧ nx (exec (.deferredQueueReset qi) (full 255 [2])) = full 255 [2] ∧ nx (exec (.deferredQueueReset qi) (full 0 [])) = full 0 [] := by decide +kernel
theorem test_ringWalk : let s := set_ [qcfg1] fun c => c.setQueue qi { Queue.reset with walk := [card2, card2], ring := [card2] }
    let q := (nx (exec (.ringWalk qi) s)).core.queue qi; q.walk = [] ∧ q.ring = [card2] := by decide +kernel
/-- Of an old slot whose sideband is valid the credit leaves. -/
theorem test_ringWalk_credit : let s0 := full 0 []; let s := s0.on (s0.core.setQueue qi { Queue.reset with walk := [card2] })
    let t := nx (exec (.ringWalk qi) s)
    (s.core.queue qi).ptrsAgree = true ∧ s.core.mark (scratchBase 1 + 128) = .ok
    ∧ t.core.fly.map Flight.parcel = [.credit card2.route 0 false] ∧ t.core.bytes (scratchBase 1 + 128) 8 = List.replicate 8 0
    ∧ (t.core.queue qi).ptrs.head = 1 := by decide +kernel

/-- Host pair 90 of function 0 with 2^5 slots, bound to queue 3. -/
def pair9 (x : Hqp) (fly : List Flight) : State :=
  set_ [qcfg1, (sid 0x0B (0xC0000 + 0x1680 + 8), 0x80A00000), (sid 0x0B (0xC0000 + 0x1680 + 12), qi.setWidth 32)] fun c =>
    { c.setHqp 90 x with fly := fly, hchans := [(90, { Chan.reset with credit := 1 })] }
theorem test_hqpItail : let s := pair9 Hqp.reset []; s.core.ownsPair hostF 90 = true ∧ pairSize (s.core.pairCfg 90) = 5
    ∧ nx (exec (.hqpItailWrite hostF 90 32) s) = s.on (s.core.setHqp 90 { Hqp.reset with itail := 32 })
    ∧ (nx (exec (.hqpItailWrite hostF 90 33) s)).core.hqps = s.core.hqps := by decide +kernel
theorem test_hqpOhead : let s := pair9 { Hqp.reset with otail := 2, routes := [(.chan 0 37 2, 0), (.chan 0 37 3, 0)] } []
    let t := nx (exec (.hqpOheadWrite hostF 90 1) s)
    (t.core.hqp 90).ohead = 1 ∧ (t.core.hqp 90).routes = [(.chan 0 37 3, 0)] ∧ t.core.fly.length = 1 := by decide +kernel
theorem test_hqpInbound : let s := pair9 { Hqp.reset with itail := 1 } []; s.core.pairFetches 90 = true
    ∧ let t := nx (exec (.hqpInboundFetch 90 card2.w 0) s)
      (t.core.hqp 90).ihead = 1 ∧ (t.core.hchan 90).credit = 0 ∧ t.core.fly.map Flight.origin = [prodKey (.hostPair 90)] := by decide +kernel
theorem test_hqpOutbound : let s := pair9 Hqp.reset (fly1 (pairPlace 90) (.toPair 90 card2)); (s.core.arrives 0).isSome = true
    ∧ s.core.quiet (.hostPair 90) = false ∧ card2.serial = (s.core.prod card2.route).serial
    ∧ let t := nx (exec (.hqpOutboundWrite 0) s)
      (t.core.hqp 90).otail = 1 ∧ (t.core.hqp 90).routes = [(card2.route, 0)] ∧ t.core.hmem.length ≠ 0 := by decide +kernel

theorem test_timeRate : let s := State.reset; s.core.takes hostF (s.core.privileged hostF) = true
    ∧ (nx (exec (.timeRateWrite hostF 858993) s)).core.time.trim = 858993 ∧ (nx (exec (.timeRateWrite hostF 858994) s)).core.time.trim = 858993
    ∧ (nx (exec (.timeRateWrite hostF 858993) s)).core.time.stat = 0 ∧ (nx (exec (.timeRateWrite hostF 0x80000000) s)).core.time.stat = 1 := by decide +kernel
theorem test_timeStep : let s := after fun c => { c with regs := [(regAt 0x04 0x10, 800)] }
    let t := nx (exec (.timeStepGo hostF 0x80000000) s); t.core.time.dtime = 800 ∧ t.core.time.busy = true ∧ t.core.time.stat = 2 := by decide +kernel
theorem test_timeQuality : let t := nx (exec (.timeQualityWrite hostF 2) State.reset); t.core.time.qual = 2 ∧ t.core.time.stat = 16 := by decide +kernel
theorem test_holdover : let s := after fun c => { c with time := { c.time with qual := 3, holdBase := 0xFFFFFFFF } }
    (nx (exec (.holdoverUncertGrowth 20000) s)).core.time.uncert = 0xFFFFFFFF := by decide +kernel
theorem test_refChange : let t := nx (exec (.refChange 1 (-858993)) (set_ [(sid 0x04 0x28, 2)]))
    nx (exec (.refChange 1 0) State.reset) = State.reset
    ∧ (nx (exec (.refChange 0 858994) State.reset)).core.time.qual = 3 ∧ (nx (exec (.refChange 0 858994) State.reset)).core.time.trim = 858993
    ∧ State.reset.core.err.takes 0 = true ∧ t.core.time.ref = 1 ∧ t.core.time.stat = 8 ∧ logged t = some 0x1A := by decide +kernel
theorem test_dtimeReload :
    let s := after fun c => { c with
      time := { c.time with running := false, sleepDt := 100 }, aon := { c.aon with power := .run, pgood := true, ticks := 20 } }
    let d (p : Power) : State := s.on { s.core with power := p }
    let a := d { s.core.power with porst := true, coreReset := true }
    let b := d { s.core.power with porst := false, coreReset := true }
    nx (exec .dtimeReload a) = a.on { a.core with time := { a.core.time with running := true } }
    ∧ (nx (exec .dtimeReload b)).core.time.dtime = 100 + BitVec.ofNat 64 (aonTicks 20 0) := by decide +kernel

/-- Capture channel 0 on a pin, both edges; n stamps wait. -/
def capping (n : Nat) : State := set_ [(sid 0x04 0x10000, 0xE0000000), (sid 0x07 0, 0x20000000)] fun c =>
  { c with caps := [(0, { Capture.reset with fifo := List.replicate n (5, true) })] }
def holding (n : Nat) (sel : Bool) : State := (capping n).on ((capping n).core.setCap 0 { (capping n).core.cap 0 with hold := some (9, true, sel) })
theorem test_captureEdge : let s := capping 15; s.core.captures 0 = true
    ∧ (nx (exec (.captureEdge 0 9 true) s)).core.cap 0 = { s.core.cap 0 with hold := some (9, true, true) }
    ∧ (let x := (nx (exec (.captureEdge 0 16 false) (holding 15 true))).core.cap 0; x.glitch = 1 ∧ x.fifo.length = 15 ∧ x.hold = none)
    ∧ (let x := (nx (exec (.captureEdge 0 17 false) (holding 15 true))).core.cap 0; x.glitch = 0 ∧ x.fifo.length = 16 ∧ x.hold.isSome = true)
    ∧ (let x := (nx (exec (.captureEdge 0 17 false) (holding 16 true))).core.cap 0; x.lost = 1 ∧ x.ovf = true ∧ x.fifo.length = 16)
    ∧ (let x := (nx (exec (.captureEdge 0 17 false) (holding 15 false))).core.cap 0; x.lost = 0 ∧ x.fifo.length = 15) := by decide +kernel
theorem test_timeCapPop_empty : let t := nx (exec (.timeCapPop hostF 0) (capping 0))
    (shown t hostF).value = 0 ∧ (t.core.popBuf hostF 0).valid = false := by decide +kernel
theorem test_timeCapPop : let t := nx (exec (.timeCapPop hostF 0) (capping 2))
    (t.core.cap 0).fifo.length = 1 ∧ (shown t hostF).value = 5 ∧ t.core.popBuf hostF 0 = ⟨true, 5, true⟩ := by decide +kernel
/-- Line 3 pulses with source 0x2000 and sets event latch 2 of sprig 1.5. -/
def lined (f : Core → Core := id) : State :=
  set_ [(sid 0x05 12, 0xC0002000), (sid 0x05 0x10000 + 8 * 37 + 2, 0x80000003)] f
theorem test_triggerSource : let s := lined; s.core.linesOf 0x2000 = [3] ∧ (s.core.lineCfg 3).getLsbD 30 = true
    ∧ let t := nx (exec (.triggerSourceEvent 0x2000 true 77) s)
      Tbl.get t.core.fabric.stamp 3 0 = 77 ∧ t.core.fabric.edges = [(.latch g5 2, 77)] := by decide +kernel
def edged (k : Sink) (f : Core → Core := id) : State := after fun c => f { c with fabric := { c.fabric with edges := [(k, 80)] } }
theorem test_eventLatch : let s := edged (.latch g5 2); s.core.asleep 1 = false
    ∧ let t := nx (exec (.eventLatchSet g5 2) s); (sp t).page.latch = 4 ∧ (t.core.crossing g5 2).busy = true ∧ (sp t).page.merged = 0 := by decide +kernel
theorem test_eventLatch_merge : let s := edged (.latch g5 2) fun c => c.setCrossing g5 2 { LatchX.reset with busy := true }
    let t := nx (exec (.eventLatchSet g5 2) s)
    (sp t).page.merged = 4 ∧ (t.core.crossing g5 2).again = true
    ∧ let u := nx (exec (.latchHandshakeEnd g5 2) t); (sp u).page.latch = 4 ∧ (u.core.crossing g5 2).busy = false := by decide +kernel
theorem test_trigSw : let t := nx (exec (.trigSwset hostF 7 0x80000001) State.reset); State.reset.core.takes hostF true = true
    ∧ swWord t.core.fabric.sw 7 = 0x80000001 ∧ swWord (nx (exec (.trigSwclr hostF 7 1) t)).core.fabric.sw 7 = 0x80000000 := by decide +kernel

/-- DTIME is 1000 and comparator 5 has its instant at 900. -/
def at1000 (f : Core → Core) : State := after fun c => f { c with time := { c.time with dtime := 1000 } }
theorem test_timeCmpHi : let s := after fun c => c.stage hostF (BitVec.ofNat 40 (regAt 0x04 0x20050)) 7
    ((nx (exec (.timeCmpHiWrite hostF 5 1) s)).core.cmp 5).cmp = 0x100000007 ∧ ((nx (exec (.timeCmpHiWrite hostF 5 1) s)).core.cmp 5).armed = true := by decide +kernel
theorem test_timeCmpPer : ((nx (exec (.timeCmpPerWrite hostF 5 800) State.reset)).core.cmp 5).per = 800 := by decide +kernel
theorem test_comparatorFire : let s := at1000 fun c => c.setCmp 5 { Cmp.reset with armed := true, cmp := 900, pend := true }
    let x := (nx (exec (.comparatorFire 5) s)).core.cmp 5; x.armed = false ∧ x.pend = true ∧ x.ovr = true := by decide +kernel
theorem test_comparatorFire_per : let s := at1000 fun c => c.setCmp 5 { Cmp.reset with armed := true, cmp := 900, per := 100 }
    let x := (nx (exec (.comparatorFire 5) s)).core.cmp 5; x.armed = true ∧ x.cmp = 1100 := by decide +kernel
theorem test_timeDmDl : let s := set_ [(sid 0x04 0x600A0, 0x80000000)]; (s.core.dmCtl 5).getLsbD 31 = true
    ∧ (nx (exec (.timeDmDlWrite hostF 5 1) s)).core.dm 5 = Dm.reset.arm 0x100000000 0 := by decide +kernel
theorem test_deadlineAutoArm : let s := set_ [(sid 0x04 0x600A0, 0x80000000), (sid 0x04 0x600B8, 0x80000002)] fun c =>
      { c with fabric := { c.fabric with edges := [(.arm 5, 80)] } }
    (nx (exec (.deadlineAutoArm 5) s)).core.dm 5 = Dm.reset.arm 96 0 := by decide +kernel
theorem test_deadlineSatisfy : let s := edged (.watch 5) fun c => c.setDm 5 { Dm.reset with armed := true, dl := 73 }
    let x := (nx (exec (.deadlineSatisfy 5) s)).core.dm 5; x.armed = false ∧ x.miss = false ∧ x.slack = 0xFFFFFFFF := by decide +kernel
theorem test_deadlineMiss : let s := at1000 fun c => c.setDm 5 { Dm.reset with armed := true, dl := 999 }; s.core.savedInTime 5 = false
    ∧ let x := (nx (exec (.deadlineMiss 5) s)).core.dm 5; x.armed = false ∧ x.miss = true ∧ x.missCnt = 1 := by decide +kernel

/-- Deal unit 2 drives pin 2 for bunch 1. -/
def unit2 (ctl : Word) (f : Core → Core := id) : State :=
  set_ [(sid 0x06 0x80, ctl), (sid 0x06 0x98, 2), (sid 0x07 8, 0x30000000)] f
def dealt (t : DWord) : State := unit2 0x80000000 fun c =>
  { c.setSprig g5 { Sprig.reset with dealsOut := 1 } with fly := [⟨dealOrigin g5, unitPlace 2, .deal 2 0x10000000 t g5⟩] }
theorem test_dealCard : let s := dealt 800; (s.core.arrives 0).isSome = true ∧ s.core.dealRefusal 2 0x10000000 800 0 = none
    ∧ let t := nx (exec (.dealCardAccept 0) s)
      (t.core.unit 2).queue = [⟨0x10000000, 800, g5, some 800, 0⟩] ∧ (sp t).dealsOut = 0 ∧ (t.core.unit 2).tail = 800 := by decide +kernel
theorem test_dealCard_late : (dealt 799).core.dealRefusal 2 0x10000000 799 0 = some dealLate := by decide +kernel
theorem test_dealCard_down : let s0 := dealt 800; let s := s0.on { s0.core with cfg := [] }; s.core.dealRefusal 2 0x10000000 800 0 = some dealDown ∧ dealDown ≠ dealLate
    ∧ let t := nx (exec (.dealCardAccept 0) s)
      (t.core.unit 2).last = dealDown ∧ (t.core.sstat g5).outcome = dealDown ∧ (t.core.sstat g5).refcnt = 1 ∧ (sp t).dealsOut = 0 := by decide +kernel
theorem test_dealRelease : let s := unit2 0x80000000 fun c =>
      { c.setUnit 2 { DealUnit.reset with queue := [⟨0x30000010, 900, g5, some 900, 0⟩] } with time := { c.time with dtime := 900 } }
    let t := nx (exec (.dealRelease 2) s)
    (t.core.pin 2).level = true ∧ (t.core.unit 2).queue = [] ∧ (t.core.unit 2).returns = [(916, false)]
    ∧ let u := nx (exec (.pulseReturnEdge 2) (t.on { t.core with time := { t.core.time with dtime := 916 } }))
      (u.core.pin 2).level = false ∧ (u.core.unit 2).returns = [] := by decide +kernel
theorem test_triggeredDeal : let s := unit2 0xA0000000 fun c =>
      { c.setUnit 2 { DealUnit.reset with queue := [⟨0x10000000, 400, g5, none, 0⟩] } with fabric := { c.fabric with edges := [(.deal 2, 80)] } }
    s.core.tmode 2 = true ∧ ((nx (exec (.triggeredDealTake 2) s)).core.unit 2).queue = [⟨0x10000000, 400, g5, some 480, 0⟩] := by decide +kernel
theorem test_flush : let s := unit2 0x80000000 fun c => c.setUnit 2 { DealUnit.reset with queue := [⟨0x10000000, 900, g5, some 900, 0⟩] }
    s.core.mayFlush hostF 2 = true
    ∧ let t := nx (exec (.flush hostF 2) s); (t.core.unit 2).queue = [] ∧ (t.core.unit 2).last = dealMissed ∧ (t.core.unit 2).mcause = 3 := by decide +kernel
theorem test_dealUerr : let s := unit2 0 fun c => c.setUnit 2 { DealUnit.reset with late := 1, order := 2, missed := 3, other := 4 }
    let t := nx (exec (.dealUerrRead hostF 2) s); (shown t hostF).value = 0x01020304 ∧ (t.core.unit 2).errWord = 0 := by decide +kernel

theorem test_vcCap : let s := set_ [(sid 0x01 0x100, 0x80000064)] fun c => { c with slack := { c.slack with vt := 20 } }
    let t := nx (exec (.vcCapTick 1001) s); t.core.slack.capped = true ∧ t.core.slack.vt = 20 ∧ t.core.slack.pin = 1001 := by decide +kernel
theorem test_vcUncap : let s := set_ [(sid 0x01 0x100, 0x80000064)] fun c => { c with slack := { c.slack with capped := true } }
    (nx (exec (.vcCapTick 969) s)).core.slack.capped = false ∧ (nx (exec (.vcCapTick 970) s)).core.slack.capped = true := by decide +kernel
/-- The smallest sample of the period in bunch 1. -/
def period (v : Word) : State := set_ [(sid 0x04 0x104, 0x80640401)] fun c => { c with slack := { c.slack with cur := [(1, v)] } }
theorem test_vcPeriod : (period 0).core.slackCtl.getLsbD 31 = true
    ∧ (nx (exec .vcPeriodEnd (period 999))).core.slack.vt = 64 ∧ (nx (exec .vcPeriodEnd (period 1000))).core.slack.vt = 60
    ∧ (nx (exec .vcPeriodEnd (period 1501))).core.slack.vt = 59 ∧ (nx (exec .vcPeriodEnd (period 1500))).core.slack.slackMin = 1500 := by decide +kernel
theorem test_vcFloor : let s := after fun c => { c with slack := { c.slack with capped := true, vt := 20 } }
    s.core.err.takes 1 = true ∧ (nx (exec .vcFloor s)).core.slack.floorSent = true ∧ logged (nx (exec .vcFloor s)) = some 0x12 := by decide +kernel
theorem test_thermalCap : let t := nx (exec (.thermalCap 2672) State.reset)
    t.core.slack.thermal = true ∧ t.core.slack.capped = true ∧ (nx (exec (.thermalCap 2624) t)).core.slack.thermal = false := by decide +kernel

/-! ### InterruptControllers to IslandRuns -/

theorem test_bicEn : let t := nx (exec (.bicEnset hostF 1 7 0x80000001) State.reset); State.reset.core.takes hostF true = true
    ∧ (t.core.bic 1).en.getLsbD 224 = true ∧ (t.core.bic 1).en.getLsbD 255 = true ∧ (t.core.bic 1).en.getLsbD 0 = false
    ∧ ((nx (exec (.bicEnclr hostF 1 7 1) t)).core.bic 1).en.getLsbD 224 = false := by decide +kernel
/-- Input 9 of bunch 1 is high, at priority 3, enabled for sprig 1.5, which runs. -/
def risen : State :=
  let s := latchedBic
  s.on ((s.core.setBic 1 { Bic.reset with en := 512 }).setSprig g5 { Sprig.reset with state := .run })
def forSprig5 (s : State) : State := s.on { s.core with cfg := [(sid 0x0D (0x4000 + 36), 0x00530007)] }
theorem test_bicArbitrate : let s := forSprig5 risen; s.core.strandedInput 1 5 = none ∧ s.core.bicSelect 1 5 = some (9, 3)
    ∧ Tbl.get ((nx (exec (.bicArbitrate 1 5) s)).core.bic 1).latch 5 none = some (9, 3) := by decide +kernel
theorem test_bicTargetLeave : let s := latchedBic; s.core.awake (sprigAt 1 5) = false
    ∧ let s := s.on { s.core with cfg := s.core.cfg ++ [(sid 0x0D (0x4000 + 0xA00), 0)] }
      (s.core.bicFallback 1).getLsbD 31 = false ∧ Tbl.get ((nx (exec (.bicTargetLeave 1 5) s)).core.bic 1).latch 5 none = none := by decide +kernel
/-- Host source 90, a pair with a card, to function 2, vector 5. -/
def hosted (free : Bool) : State := set_ [(sid 0x0C 720, 0x90000005)] fun c =>
  { c.setHqp 90 { Hqp.reset with otail := 1 } with hic := { c.hic with bme := [(2, true)], unmasked := if free then [(msixKey 2 5, true)] else [] } }
theorem test_hicMessage : let s := hosted true; s.core.hicLevel 90 = true ∧ (s.core.hicMap 90).getLsbD 31 = true ∧ s.core.hicActive 90 = none ∧ s.core.busMaster 2 = true
    ∧ let t := nx (exec (.hicMessage 90) s); t.core.hic.sent = [(2, 5)] ∧ t.core.hicActive 90 = some 2
    ∧ nx (exec (.hicMessage 90) t) = t := by decide +kernel
theorem test_hicMessage_masked : let t := nx (exec (.hicMessage 90) (hosted false)); t.core.hic.sent = [] ∧ Tbl.get t.core.hic.pba (msixKey 2 5) false = true := by
  decide +kernel
theorem test_hicComplete : let s := after fun c => { c with hic := { c.hic with active := [(9, some 2)] } }; s.core.hicLevel 9 = false
    ∧ (nx (exec (.hicComplete (.sprig g5) 9) s)).core.hicActive 9 = none := by decide +kernel
theorem test_hicComplete_again : let s := hosted true; let t := nx (exec (.hicComplete (.host 2) 90) (nx (exec (.hicMessage 90) (s.on { s.core with boot := { s.core.boot with steward := true } }))))
    t.core.hicActive 90 = some 2 ∧ t.core.hic.sent = [(2, 5), (2, 5)] := by decide +kernel
theorem test_hicComplete_none : let s := (hosted true).on { (hosted true).core with boot := { (hosted true).core.boot with steward := true } }
    s.core.hicActive 90 = none ∧ s.core.frozenMaster (.host 2) = false ∧ logged (nx (exec (.hicComplete (.host 2) 90) s)) = some 7
    ∧ (let t := nx (exec (.hicMessage 90) s); nx (exec (.hicComplete (.host 3) 90) t) = t) := by decide +kernel
/-- What stands pending at a masked entry, and what a function without Bus Master Enable holds back, is sent at the unmasking. -/
theorem test_msixUnmask : let t := nx (exec (.hicMessage 90) (hosted false)); let w := t.core.hicMap 90
    Tbl.get t.core.hic.pba (msixKey 2 5) false = true ∧ Tbl.get t.core.hic.fmask 2 false = false ∧ hicFunc w = 2 ∧ hicVector w = 5
    ∧ t.core.hicLevel 90 = true ∧ w.getLsbD 31 = true ∧ t.core.hicActive 90 = none ∧ t.core.busMaster 2 = true
    ∧ nx (exec (.msixUnmask 2 (.entry 5 true)) (hosted true)) = hosted false := by decide +kernel
theorem test_msix_function : let t := nx (exec (.msixUnmask 2 (.function true)) (hosted true)); Tbl.get t.core.hic.fmask 2 false = true
    ∧ (nx (exec (.hicMessage 90) t)).core.hic.sent = [] ∧ t.core.hic.pba = []
    ∧ (let u := nx (exec (.msixUnmask 2 (.busMaster false)) (hosted true))
      nx (exec (.hicMessage 90) u) = u ∧ u.core.hicLevel 90 = true ∧ u.core.hicActive 90 = none ∧ Tbl.get u.core.hic.unmasked (msixKey 2 5) false = true)
    ∧ (nx (exec (.msixUnmask 0 (.vfEnable true)) State.reset)).core.hic.vfe = true
    ∧ nx (exec (.msixUnmask 1 (.vfEnable true)) State.reset) = State.reset := by decide +kernel
theorem test_stranded : let s := risen; let t := nx (exec (.bicArbitrate 1 5) (s.on ({ s.core with cfg := [(sid 0x0D (0x4000 + 36), 0x00630007)] } : Core)))
    Tbl.get (t.core.bic 1).latch 5 none = none ∧ (t.core.bic 1).stranded = false
    ∧ let u := nx (exec (.bicArbitrate 1 6) (s.on ({ s.core with cfg := [(sid 0x0D (0x4000 + 36), 0x00630007)] } : Core)))
      (u.core.bic 1).stranded = true ∧ logged u = some 0x0F := by decide +kernel

theorem test_fioOut : let s := after fun c => c.setBank 2 { Bank.reset with out := 6 }
    ((nx (exec (.fioOset hostF 2 0x80000000) s)).core.bank 2).out = 0x80000006 ∧ ((nx (exec (.fioOclr hostF 2 2) s)).core.bank 2).out = 4 := by decide +kernel
theorem test_vio : let s := unit2 0x80000000 fun c => c.setUnit 2 { DealUnit.reset with queue := [⟨0x10000000, 900, g5, some 900, 0⟩] }
    let t := nx (exec (.vioFault 0) s)
    (t.core.bank 0).stopped = true ∧ (t.core.bank 0).fault = true ∧ (t.core.unit 2).queue = []
    ∧ let u := nx (exec (.viookReturn 0 true) t); (u.core.bank 0).viook = true ∧ (u.core.bank 0).stopped = true
      ∧ let v := nx (exec (.vioResume 0) u); (v.core.bank 0).stopped = false ∧ v.core.pin 2 = { level := false, hiz := false } := by decide +kernel
/-- Decoder 1 counts both edges in opposite directions; its index is enabled. -/
def decoder : State := set_ [(sid 0x07 0x220, 0xB8000000)] fun c => c.setQd 1 { Qd.reset with count := 7, snaps := [5] }
theorem test_qdEdge : let s := decoder; s.core.qdRuns 1 = true ∧ qdDelta ((s.core.qdCfg 1 >>> 28).setWidth 2) false false false true = some (-1)
    ∧ ((nx (exec (.qdEdge 1 false true) s)).core.qd 1).count = 6 := by decide +kernel
theorem test_qdPreset : ((nx (exec (.qdPreset hostF 1 99) decoder)).core.qd 1).count = 99 := by decide +kernel
theorem test_qdIndex : let t := nx (exec (.qdIndexEdge 1 15) decoder)
    (t.core.qd 1).idx = 7 ∧ (t.core.qd 1).idxT = 8 ∧ (t.core.qd 1).latched = true ∧ ((nx (exec (.qdIndexEdge 1 99) t)).core.qd 1).iovr = true
    ∧ let u := nx (exec (.qdIdxRead hostF 1) t); (shown u hostF).value = 7 ∧ (u.core.qd 1).latched = false := by decide +kernel
theorem test_qdSample : let s := decoder; let s := s.on { s.core with fabric := { s.core.fabric with edges := [(.sample 1, 80)] } }
    ((nx (exec (.qdSample 1) s)).core.qd 1).smp = 5 := by decide +kernel
/-- SPI master 47, whose data is right justified in 32 bits. -/
def spi (f : Core → Core := id) : State := set_ [(sid 0x07 (7 * 0x20000 + 0x9C0), 0x8F800000)] fun c => f (c.setSerial 47 { Serial.reset with tx := 0x55 })
theorem test_serialStart : let s := spi fun c => { c with fabric := { c.fabric with edges := [(.serial 47, 87)] } }
    s.core.serialRuns 47 = true ∧ s.core.serialBusy 47 = false
    ∧ let x := (nx (exec (.serialFrameStart 47 false) s)).core.serial 47; x.busy = true ∧ x.start = 400 ∧ x.txNow = 0x55 := by decide +kernel
theorem test_serialGo : (spi.core.serial 47).tx = 0x55 ∧ ((nx (exec (.serialGo hostF 47 false) spi)).core.serial 47).busy = true
    ∧ ((nx (exec (.serialGo hostF 47 false) spi)).core.serial 47).txNow = 0x55 := by decide +kernel
theorem test_serialEnd : let s := spi fun c => c.setSerial 47 { Serial.reset with busy := true, start := 400 }
    let t := nx (exec (.serialFrameEnd 47 0x1234) s); let x := t.core.serial 47
    x.busy = false ∧ x.stamp = 400 ∧ x.seq = 1 ∧ x.level = true ∧ x.data = s.core.received 47 0x1234
    ∧ let u := nx (exec (.serialDataRead hostF 47) t)
      (shown u hostF).value = x.data.setWidth 32 ∧ (u.core.serial 47).level = false
      ∧ Tbl.get u.core.serShadows (serShadowKey hostF 47) none = some ⟨0, 400, 1⟩ := by decide +kernel

/-- Port 2 enabled, its link up, descriptor 3 of 60 bytes waiting in class 1. -/
def port2 (ctl : Word) (f : Eth → Eth := id) : State := set_ [(sid 0x08 0x40000, ctl)] fun c =>
  c.setEth 2 (f { Eth.reset with link := true, classes := [(1, [3])], txd := [(3, { word := 0x78000, busy := true })] })
theorem test_ethTxd : let s := port2 0x80000000
    ((nx (exec (.ethTxdWrite hostF 2 4 0x80078000) s)).core.eth 2).desc 4 = { word := 0x78000 } := by decide +kernel
theorem test_ethTxq : let s := port2 0x80000000 fun x => x.setDesc 4 { word := 0x78000 }; txdLegal 0x78000 = true
    ∧ let x := (nx (exec (.ethTxq hostF 2 1 4) s)).core.eth 2; x.classQ 1 = [3, 4] ∧ (x.desc 4).busy = true := by decide +kernel
theorem test_ethStart : let s := port2 0x80000000; s.core.guardAllows 2 0x78000 = true ∧ s.core.gateAllows 2 1 0x78000 = true
    ∧ let t := nx (exec (.ethFrameStart 2 1) s); (t.core.eth 2).sending = some ⟨3, false, 0⟩ ∧ (t.core.eth 2).classQ 1 = []
      ∧ let u := nx (exec (.ethFrameEnd 2 99) t); (u.core.eth 2).sending = none ∧ ((u.core.eth 2).desc 3).stamp = 99 ∧ ((u.core.eth 2).desc 3).busy = false := by
  decide +kernel
theorem test_ethDealt : let s := port2 0x80800000 fun x => { x with pact := true, due := [(3, 100)], txd := x.txd ++ [(7, { word := 0x40078000, busy := true })], sending := some ⟨7, false, 0⟩ }
    let t := nx (exec (.ethDealtFrame 2 100) s)
    (t.core.eth 2).sending = some ⟨3, true, 100⟩ ∧ (t.core.eth 2).late = some ⟨7, false, 0⟩ ∧ (t.core.eth 2).due = []
    ∧ (t.core.eth 2).desc 3 = { word := 0x78000, busy := true, stamp := 100 } := by decide +kernel
theorem test_qbv : let s := set_ [(sid 0x08 0x40000, 0x81000000), (sid 0x08 0x40400, 1000), (sid 0x08 0x40404, 16)] fun c =>
      { c with time := { c.time with dtime := 8015 } }
    (nx (exec (.qbvCycleStart 2) s)).core.eth 2 = { Eth.reset with cycle := some 16, cyc := true, cycLen := 1000, cycBase := 16 }
    ∧ let u := s.on { s.core with time := { s.core.time with dtime := 8016 } }
      ((nx (exec (.qbvCycleStart 2) u)).core.eth 2).cycle = some 8016 := by decide +kernel
/-- Filter 0 takes EtherType 0x88F7 to ring 1 of two slots of 128 bytes at 0x1000. -/
def receives (l : List (Nat × Word)) : State := set_ ([(sid 0x08 0x40000, 0x80000000), (sid 0x08 0x40100, 0x810088F7)] ++ l) fun c =>
  c.setEth 2 { Eth.reset with link := true }
def frame : List Byte := List.replicate 12 1 ++ [0x88, 0xF7, 9]
theorem test_ethReceive : let s := memReady (receives [(sid 0x08 0x40220, 0x1000), (sid 0x08 0x40228, 0x81000002)])
    s.core.ethFilter 2 frame = some (0, 0x810088F7)
    ∧ let t := nx (exec (.ethFrameReceive 2 frame true 77) s)
      t.core.byte 0x102E = 9 ∧ t.core.word 0x1000 = 15 ∧ Tbl.get (t.core.eth 2).tail 1 0 = 1 ∧ t.core.byte 0x102F = 0 := by decide +kernel
theorem test_ethReceive_bad : ((nx (exec (.ethFrameReceive 2 frame false 77) (receives []))).core.eth 2).fcserr = 1
    ∧ (receives []).core.ethFilter 2 (List.replicate 20 1) = none
    ∧ ((nx (exec (.ethFrameReceive 2 (List.replicate 20 1) true 77) (receives []))).core.eth 2).unmatched = 1 := by decide +kernel
theorem test_ethLink : let t := nx (exec (.ethLinkChange 2 false 1) (port2 0x80000000 fun x => { x with pact := true }))
    (t.core.eth 2).link = false ∧ (t.core.eth 2).spd = 1 ∧ (t.core.eth 2).lchg = true ∧ (t.core.eth 2).pact = false := by decide +kernel
theorem test_preempt : ((nx (exec (.preemptionVerification 2) (port2 0x82000000))).core.eth 2).pact = true := by decide +kernel

/-- Connection 3 with two slots of 4,096 bytes at 0x10000. -/
def camera (f : Cxp → Cxp := id) : State := memReady (set_ [(sid 0x09 0x30000, 0x83000008), (sid 0x09 0x30010, 0x10000), (sid 0x09 0x30018, 0x00020001)] fun c =>
  c.setCxp 3 (f { Cxp.reset with link := true }))
theorem test_cxpStart : camera.core.cxpRuns 3 = true
    ∧ (nx (exec (.cxpFrameStart 3 640 480 1 15) camera)).core.cxp 3 = { Cxp.reset with link := true, fstart := true, frame := some ⟨8, 640, 480, 1⟩ } := by
  decide +kernel
theorem test_cxpLine : ((nx (exec (.cxpLine 3 15) camera)).core.cxp 3).line = true := by decide +kernel
theorem test_cxpEnd : let s := camera fun x => { x with frame := some ⟨8, 640, 480, 1⟩, seq := 5 }
    let t := nx (exec (.cxpFrameEnd 3 [0xAB] false 0 99) s)
    t.core.byte 0x10040 = 0xAB ∧ t.core.word 0x10000 = 5 ∧ (t.core.cxp 3).frame = none ∧ (t.core.cxp 3).seq = 6 ∧ (t.core.cxp 3).rtail = 1 := by decide +kernel
theorem test_cxpTrigger : ((nx (exec (.cxpTriggerPacket 3) (camera fun x => { x with trig := [(0, true)] }))).core.cxp 3).trigsent = true
    ∧ ((nx (exec (.cxpLinkChange 3 false 2) camera)).core.cxp 3).spd = 2 := by decide +kernel
/-- A fill of 8 bytes at 0x2000 by sprig 1.5, its descriptor at scratch offset 0x40. -/
def fill : State :=
  let s := withBytes State.reset (scratchBase 1 + 0x40) ([0, 0, 0, 0x10, 0x44, 0x33, 0x22, 0x11] ++ [0, 0, 0, 0, 0, 0x20, 0, 0, 8, 0, 1, 0])
  memReady (s.on { s.core with cfg := [(spgSid g5 1, 0x0001FF00), (spgSid g5 2, 0), (spgSid g5 3, 0x3FFFFFFF)] })
theorem test_dma : let s := fill; let d := cardFromBytes s.core (scratchBase 1 + 0x40)
    (dmaPlaces 1 d).isSome = true ∧ s.core.dmaPermitted g5 d none .mem = true ∧ dmaFill d = true
    ∧ let t := nx (exec (.dmaSubmit (.sprig g5) 1 0x40) s)
      (t.core.dma 1).queue.length = 1 ∧ t.core.word (scratchBase 1 + 0x5C) = 0x10000000
      ∧ t.core.jobGranted 1 ⟨0x40, d, .sprig g5⟩ = true
      ∧ let u := nx (exec (.dmaDescriptorDone 1) t)
        u.core.word 0x2000 = 0x11223344 ∧ u.core.word 0x2004 = 0x11223344 ∧ u.core.word 0x2008 = 0 ∧ (u.core.dma 1).done = 1
        ∧ u.core.word (scratchBase 1 + 0x5C) = 0x20000000 := by decide +kernel

theorem test_gddrRead : let s := memReady (withBytes State.reset 0x1FFFFFFFFE [5, 6]); s.core.bar4Reaches st1 0x1FFFFFFFFE 2 = true ∧ s.core.rangeAvail 0x1FFFFFFFFE 2 = .ok
    ∧ (s.core.readMem 0x1FFFFFFFFE 2).2.1 = false
    ∧ (shown (nx (exec (.gddrAccess ⟨st1, 0x1FFFFFFFFE, 2, none, false⟩ .ok) s)) st1).data = [5, 6]
    ∧ (let d := nx (exec (.gddrAccess ⟨st1, 0x1FFFFFFFFE, 2, none, false⟩ .double) s)
      (shown d st1).poisoned = true ∧ d.core.memMark 0x1FFFFFFFFE = .poisoned ∧ logged d = some 5)
    ∧ (let d := nx (exec (.gddrAccess ⟨st1, 0x1FFFFFFFFE, 2, none, false⟩ .single) s)
      (shown d st1).poisoned = false ∧ d.core.memMark 0x1FFFFFFFFE = .single ∧ logged d = some 4) := by decide +kernel
theorem test_gddrWrite : let t := nx (exec (.gddrAccess ⟨st1, 0x1FFFFFFFFE, 2, some [7, 8], false⟩ .ok) (memReady State.reset))
    t.core.byte 0x1FFFFFFFFE = 7 ∧ t.core.byte 0x1FFFFFFFFF = 8 := by decide +kernel
/-- A channel that trains stalls an access, one that has failed poisons it, and a host's window over other addresses passes nothing. -/
theorem test_gddr_refused : let r : MemReq := ⟨hostF, 0x40, 4, none, false⟩; let p : MemReq := ⟨.sprig g5, 0x40, 4, none, false⟩
    State.reset.core.rangeAvail 0x40 4 = .stalls ∧ nx (exec (.gddrAccess r .ok) State.reset) = State.reset
    ∧ (let s := State.reset.on { State.reset.core with gdcs := (List.range 36).map fun k => (k, { Gdc.reset with st := .failed }) }
      s.core.rangeAvail 0x40 4 = .gone ∧ shown (nx (exec (.gddrAccess r .ok) s)) hostF = { abort := true }
      ∧ (shown (nx (exec (.gddrAccess p .ok) s)) (.sprig g5)).poisoned = true ∧ logged (nx (exec (.gddrAccess p .ok) s)) = some 0x0E)
    ∧ (let w : MemReq := ⟨hostF, 0x1FFFFFFFFE, 2, none, false⟩
      (memReady State.reset).core.bar4Reaches hostF 0x1FFFFFFFFE 2 = false ∧ nx (exec (.gddrAccess w .ok) (memReady State.reset)) = memReady State.reset) := by
  decide +kernel
theorem test_correctedRewrite : let s := memReady (after fun c => c.setMemMark 40 .single); s.core.memMark 40 = .single
    ∧ (nx (exec (.correctedRewrite 40) s)).core.memMark 40 = .ok := by decide +kernel
theorem test_scrub : let s := memReady State.reset; (s.core.gdcScrub 35).getLsbD 31 = true ∧ s.core.chanAvail 35 = .ok
    ∧ ((nx (exec (.scrub 35 .ok) s)).core.gdc 35).scrubPos = 1 := by decide +kernel
theorem test_memThermal : let s := memReady State.reset
    ((nx (exec (.memThermal 35 0x55) s)).core.gdc 35).level = 1 ∧ ((nx (exec (.memThermal 35 0x54) s)).core.gdc 35).level = 0
    ∧ ((nx (exec (.memThermal 35 0x52) (nx (exec (.memThermal 35 0x55) s)))).core.gdc 35).level = 0
    ∧ ((nx (exec (.memThermal 35 0x53) (nx (exec (.memThermal 35 0x55) s)))).core.gdc 35).level = 1 := by decide +kernel
theorem test_training : let s := withBytes State.reset 0 [9]; (memPlace 0).dat = 1
    ∧ ((nx (exec (.channelTraining 1 true) s)).core.gdc 1).st = .ready ∧ (nx (exec (.channelTraining 1 true) s)).core.byte 0 = 0
    ∧ (nx (exec (.channelTraining 0 true) s)).core.byte 0 = 9 := by decide +kernel
theorem test_training_failed : State.reset.core.err.takes 1 = true ∧ ((nx (exec (.channelTraining 35 false) State.reset)).core.gdc 35).st = .failed
    ∧ logged (nx (exec (.channelTraining 35 false) State.reset)) = some 0x16 := by decide +kernel
theorem test_gdcEcc : let s := after fun c => c.setGdc 35 { Gdc.reset with ce := 2, ue := 1 }
    (shown (nx (exec (.gdcEccRead hostF 35) s)) hostF).value = 0x00020001 ∧ ((nx (exec (.gdcEccRead hostF 35) s)).core.gdc 35).ce = 0 := by decide +kernel
theorem test_selfref : let s := after fun c => c.setGdc 35 { Gdc.reset with st := .selfref }
    ((nx (exec (.selfrefExit 35) s)).core.gdc 35).st = .ready := by decide +kernel

/-- The island serves a request, its number and two arguments. -/
def asks (n a b : Byte) (len : Nat) (f : Island → Island) : State :=
  let s := after fun c => { c with met := { c.met with busy := true, request := some ([n, 0, 0, 0, a, 0, 0, 0, b] ++ List.replicate (len - 9) 0) } }
  { s with isl := f { s.isl with inReset := false } }
/-- The first word of what it answers. -/
def ans (o : Out) : Option Byte := (nx o).isl.reply.map Prod.fst
def keeps (s : State) (o : Out) : Bool := decide ((nx o).core = s.core)
theorem test_metGo : let s := { after fun c => { c with met := { c.met with reqBuf := [(0, 2)], done := true } } with isl := { ({} : Island) with inReset := false } }
    s.metBusy = false
    ∧ let m := (nx (exec (.metRqctlGo st1 0x80000010) s)).core.met
      m.busy = true ∧ m.done = false ∧ m.request = some (2 :: List.replicate 15 0) := by decide +kernel
theorem test_metDone : let s := asks 2 0 1 16 fun x => { x with reply := some (0, [4, 5]) }
    let t := nx (exec .metRequestDone s)
    t.core.met.busy = false ∧ t.core.met.done = true ∧ t.core.met.rlen = 2 ∧ t.core.met.rsp = [4, 5] ∧ t.isl.reply = none := by decide +kernel
/-- A command of the admin pair that the Steward serves through the mailbox. -/
def sorrel : State := after fun c => { c with cmds := [(0, [{ words := [0x0801, 0], begun := true }])] }
theorem test_metTimeout : (sorrel.core.cmdsOf (.pair 0)).map (fun x => (x.opcode.toNat / 256, x.begun)) = [(8, true)] ∧ srcOf (srcKey (.pair 0)) = .pair 0
    ∧ (nx (exec .metDoneTimeout sorrel)).core.cmds = [] := by decide +kernel
theorem test_metIdentify : let s := asks 1 0 0 16 id; ans (exec .metIdentify s) = some 0 ∧ keeps s (exec .metIdentify s) = true := by decide +kernel
theorem test_readResults : let s := asks 2 7 1 16 fun x => { x with seq := 8, retained := [(7, [1, 2, 3])] }
    (nx (exec .readResults s)).isl.reply = some (0, [1, 2, 3]) ∧ ans (exec .readResults (asks 2 6 2 16 fun x => { x with seq := 8 })) = some 7 := by decide +kernel
theorem test_metStart : let t := nx (exec .metStart (asks 3 255 0 16 id)); t.isl.prog = .running ∧ t.isl.progNum = 255 ∧ t.isl.reply = some (0, []) := by decide +kernel
theorem test_metStop : let s := asks 4 0 0 16 fun x => { x with prog := .running, seq := 8, chain := 5, retained := [(7, [])] }
    s.isl.latest = some (7, 5)
    ∧ let t := nx (exec .metStop s); t.isl.prog = .idle ∧ t.isl.committed = some (7, 5, true) ∧ t.isl.due = [(2, 7, 5)] := by decide +kernel
theorem test_zero : ans (exec (.zero true 77) (asks 5 7 0 16 id)) = some 0 ∧ ans (exec (.zero false 77) (asks 5 7 0 16 id)) = some 5
    ∧ (nx (exec (.zero true 77) (asks 5 7 0 16 id))).isl.zeros = [(7, 77)] ∧ ans (exec (.zero true 77) (asks 5 8 0 16 id)) = some 1 := by decide +kernel
theorem test_tare : (nx (exec (.tare true 77) (asks 6 7 1 16 id))).isl.tares = [(7, some 0)]
    ∧ (nx (exec (.tare true 77) (asks 6 7 0 16 id))).isl.tares = [(7, some 77)] ∧ (nx (exec (.tare false 77) (asks 6 7 1 16 id))).isl.tares = []
    ∧ ans (exec (.tare true 77) (asks 6 7 2 16 id)) = some 1 := by decide +kernel
def audit1 : AuditEntry := ⟨4, 0, 1, 2, 0, 3, 0xFF, 0, false⟩
theorem test_readAudit : let t := nx (exec .readAudit (asks 7 4 1 16 fun x => { x with trail := [{ audit1 with counter := 3 }, audit1] }))
    t.isl.reply = some (0, audit1.image) ∧ t.isl.trail = [{ audit1 with counter := 3 }, { audit1 with seen := true }] := by decide +kernel
theorem test_ackAudit : let s := asks 8 0 9 3748 fun x => { x with sealed := true }
    s.core.met.request.map List.length = some 3748 ∧ ans (exec .ackAudit s) = some resSealed := by decide +kernel
theorem test_setParam : let s := asks 9 0 32 (3748 + 8 * 32) fun x => { x with sealed := true }
    s.core.met.request.map List.length = some 4004 ∧ ans (exec .setParam s) = some resSealed := by decide +kernel
theorem test_sign : let s := asks 10 0 0 16 fun x => { x with seq := 8, chain := 5, retained := [(7, [])] }
    (nx (exec .sign s)).isl.due = [(1, 7, 5)] := by decide +kernel

/-- The island runs its program. -/
def weighs (f : Island → Island) : State := { State.reset with isl := f { ({} : Island) with inReset := false, prog := .running, seq := 1023, restart := true } }
def measured : Measured := ⟨1, 2, 3, true, false, false, false, false, true, false, 5, 6, 7⟩
theorem test_islandRecord : let s := weighs id; s.outFull = false
    ∧ let t := nx (exec (.islandRecord measured) s)
      t.isl.seq = 1024 ∧ t.isl.restart = false ∧ t.isl.retained.map Prod.fst = [1023] ∧ t.core.met.waiting = [1023] ∧ t.isl.due.map (fun e => e.2.1) = [1023] := by
  decide +kernel
theorem test_islandRecord_full : let s0 := weighs fun x => { x with retained := (0, []) :: List.replicate 1023 (1, []) }
    let s := s0.on { s0.core with met := { s0.core.met with waiting := [0] } }
    s.outFull = true ∧ (nx (exec (.islandRecord measured) s)).isl.prog = .outFull := by decide +kernel
theorem test_islandSignature : let t := nx (exec (.islandSignature 2) (weighs fun x => { x with due := [(2, 7, 5), (0, 9, 9)] }))
    t.isl.due = [(0, 9, 9)] ∧ t.isl.committed = some (7, 5, true) := by decide +kernel
theorem test_islandReset : let t := nx (exec (.islandReset true) (weighs fun x => { x with evCnt := 6, trail := [audit1] }))
    t.isl.inReset = true ∧ t.isl.seq = 0 ∧ t.isl.evCnt = 6 ∧ t.isl.trail = [audit1] := by decide +kernel
/-- What the boot ROM finds rests on free functions. -/
theorem test_islandStart : State.reset.isl.enabled = true ∧ State.reset.isl.inReset = true ∧ State.reset.core.met.busy = false
    ∧ nx (exec (.islandStart ⟨[], [], [], [], 0, 0, [], [], false⟩) (weighs id)) = weighs id := by decide +kernel
theorem test_seal : (nx (exec (.sealTransition false) (weighs fun x => { x with sealed := true }))).isl.sealCnt = 1
    ∧ (nx (exec (.sealTransition true) (weighs id))).isl.sealed = true := by decide +kernel
theorem test_heartbeat : (nx (exec .islandHeartbeat (weighs id))).isl.alive = true
    ∧ (nx (exec .islandHeartbeatTimeout (weighs fun x => { x with alive := true }))).isl.alive = false := by decide +kernel

/-! ### CommandPath to SprigAndTimeCommands -/

/-- A command of the admin pair: its opcode and its own parameters. -/
def cmd (opc : Word) (own : List Word) : Cmd := { words := [opc, BitVec.ofNat 32 (4 * own.length) <<< 16] ++ own }
/-- The same with an input buffer. -/
def cmdIn (opc : Word) (own : List Word) (bs : List Byte) : Cmd :=
  { words := [opc ||| 0x10000, BitVec.ofNat 32 (24 + 4 * own.length) <<< 16, 0, 0, BitVec.ofNat 32 bs.length, 0, 0, 0] ++ own, inBuf := some bs }
/-- The command stands at the head of the admin queue. -/
def ask (x : Cmd) (f : Core → Core := id) : State := after fun c => f ({ c with cmds := [(0, [x])], hic := { c.hic with bme := [(0, true)] } } : Core)
/-- It passes the checks before execution. -/
def stands (s : State) (opc : BitVec 16) (who : Who) (minLen : Nat) (needs : Bool) (x : Cmd) (bs : List Byte) : Prop :=
  (s.core.cmdsOf (.pair 0)).head? = some x ∧ x.opcode = opc ∧ x.begun = false
  ∧ s.core.cmdCheck (.pair 0) x { opc := opc, who := who, minLen := minLen, needs := needs } = none
  ∧ s.core.buffersWait (.pair 0) x = false ∧ s.core.readIn (.pair 0) x = (some (bs, false), s.core)
/-- The state with the command answered. -/
def answered (s : State) (r : Reply) : State := s.on (s.core.answerCmd (.pair 0) r)
def q0 : CmdSrc := .pair 0

/-- Pair 5 is a command pair of 2^4 slots with a packet waiting. -/
def fetching : State := after fun c =>
  { c.setHqp 5 { Hqp.reset with itail := 1 } with cmdRegs := [(82, 0x80800000)], hic := { c.hic with bme := [(0, true)] }, cmdPairs := [5], boot := { c.boot with steward := true } }
theorem test_commandFetch : let p := (0x0100 : Word) :: List.replicate 15 0; let t := nx (exec (.commandFetch 5 p false none) fetching)
    fetching.core.cmdFetches 5 = true ∧ t.core.cmdsOf (.pair 5) = [{ words := p }] ∧ (t.core.hqp 5).ihead = 1 ∧ (t.core.hqp 5).otail = 0 := by decide +kernel
theorem test_commandFetch_bad : let t := nx (exec (.commandFetch 5 (List.replicate 16 0) false none) fetching)
    t.core.cmdsOf (.pair 5) = [] ∧ (t.core.hqp 5).otail = 1 := by decide +kernel
/-- Card A or B of a command of channel 2 stands in the Steward's queue 3, and its reply queue is queue 3 of sprig 1.5. -/
def half (type : Word) (last : Word) : CardWords := ⟨(type <<< 24) ||| last, qi.setWidth 32, 0x0101, 0, 5, 6, 7, 8⟩
def stewardQ (w : CardWords) (f : Core → Core := id) : State := set_ [(sid 0x0B (0x10 * qi.toNat), 0xC0000000)] fun c =>
  f ({ c.setQueue 3 { Queue.reset with chain := [{ w := w, route := .chan 0 37 2 }] } with boot := { c.boot with steward := true } } : Core)
theorem test_cardA : let s := stewardQ (half 0xC1 0); (s.core.pop 3).isSome = true ∧ s.core.headProducer 3 = .chan 0 37 2 ∧ s.core.half 37 2 = none
    ∧ (nx (exec (.sprigCommandCard 3) s)).core.half 37 2 = some ⟨3, half 0xC1 0, false⟩ := by decide +kernel
theorem test_cardB : let s := stewardQ (half 0xC2 flagLast) fun c => c.setHalf 37 2 (some ⟨3, half 0xC1 0, false⟩)
    (s.core.replyQueue (half 0xC2 0).w1).isSome = true ∧ knownOpcode 0x0101 = true
    ∧ let t := nx (exec (.sprigCommandCard 3) s)
      t.core.half 37 2 = none ∧ (t.core.cmdsOf (.sprig 37 2)).map (fun z => (z.words.take 6, z.handle, z.begun)) = [([0x0101, 0, 5, 6, 7, 8], qi.setWidth 32, false)] := by
  decide +kernel
theorem test_replySend : let s := after fun c => { c.postCard qi 4 (half 0xC3 0) with hchans := [(0x10000 + qi.toNat, { Chan.reset with credit := 1 })] }
    let t := nx (exec (.replySend qi) s)
    (s.core.prod (.steward qi)).credit = 1 ∧ Tbl.get t.core.replies qi.toNat [] = [] ∧ (t.core.prod (.steward qi)).credit = 0 ∧ t.core.fly.length = 1 := by decide +kernel
theorem test_identify : let x := cmd 0x0100 []; let s := ask x; stands s 0x0100 .functionsSprigs 0 false x [] ∧ (nx (exec (.identify q0) s)).core.cmds = [] := by
  unfold stands; decide +kernel
theorem test_status : let x := cmd 0x0101 []; let s := ask x; stands s 0x0101 .functionsSprigs 0 false x []
    ∧ nx (exec (.status q0) s) = answered s (ok [1, s.isl.stat, 0, 0]) := by unfold stands; decide +kernel
theorem test_queueReset_cmd : let x := cmd 0x0300 [qi.setWidth 32]; let s := ask x; stands s 0x0300 .supervisors 4 false x []
    ∧ s.core.quietSprig (queueSprig qi) = false ∧ ((nx (exec (.queueReset q0) s)).core.queue qi).cause = 1 := by unfold stands; decide +kernel
theorem test_queueReset_busy : let x := cmd 0x0300 [qi.setWidth 32]; let s := ask x fun c => { c with quiesce := [(.sprig g5, 0)] }
    stands s 0x0300 .supervisors 4 false x [] ∧ s.core.quietSprig (queueSprig qi) = true
    ∧ nx (exec (.queueReset q0) s) = answered s ⟨stBusy, []⟩ := by unfold stands; decide +kernel
theorem test_queueStatus : let x := cmd 0x0301 [16384]; let s := ask x; stands s 0x0301 .supervisorsSprigs 4 false x []
    ∧ nx (exec (.queueStatus q0) s) = answered s ⟨stBadParam, []⟩ := by unfold stands; decide +kernel
theorem test_cmdqCreate : let x := cmd 0x0302 [64, 15, 0x1000, 2, 12]; let s := ask x; stands s 0x0302 .pf 20 false x []
    ∧ pairEn (s.core.pairCfg 64) = false
    ∧ let t := nx (exec (.cmdqCreate q0) s)
      t.core.pairCfg 64 = 0x9F800000 ∧ t.core.pairBase 64 = 0x200001000 ∧ t.core.cmdPairs = [64] := by unfold stands; decide +kernel
theorem test_cmdqDelete : let x := cmd 0x0303 [5]; let s := ask x fun c => { c with cmdRegs := fetching.core.cmdRegs }; stands s 0x0303 .pf 4 false x []
    ∧ pairEn (s.core.pairCfg 5) = true
    ∧ let t := nx (exec (.cmdqDelete q0) s); pairEn (t.core.pairCfg 5) = false ∧ t.core.quiet (.hostPair 5) = true := by unfold stands; decide +kernel
theorem test_admqCfg : let t := nx (exec (.pcieAdmqCfgWrite hostF 0xFFFFFFFF) State.reset)
    (State.reset.core.reg (admqAddr 2) 0).getLsbD 31 = false ∧ t.core.pairCfg 0 = 0x81E00000
    ∧ (t.core.reg (admqAddr 2) 0).getLsbD 31 = true ∧ pairEn ((nx (exec (.pcieAdmqCfgWrite hostF 0) t)).core.pairCfg 0) = false
    ∧ nx (exec (.pcieAdmqCfgWrite (.host 1) 0xFFFFFFFF) State.reset) = State.reset := by decide +kernel

theorem test_handOpen : let x := cmd 0x0200 [0]; let s := ask x; stands s 0x0200 .supervisorsSprigs 4 false x []
    ∧ let t := nx (exec (.handOpen q0) s)
      (t.core.hand 0).st = .open ∧ (t.core.hand 0).serial = 1 ∧ t.core.hand 1 = Hand.reset := by unfold stands; decide +kernel
/-- Every slot is open, or only slot 3 is, with ID 0x00050003. -/
def openAll : Core → Core := fun c => { c with hands := (List.range 16).map fun k => (k, { Hand.reset with st := .open }) }
def open3 (f : Hand → Hand := id) : Core → Core := fun c => c.setHand 3 (f { Hand.reset with serial := 5, st := .open })
theorem test_handOpen_none : let s := ask (cmd 0x0200 [0]) openAll; nx (exec (.handOpen q0) s) = answered s ⟨stNoHands, []⟩ := by decide +kernel
theorem test_handSet : let x := cmd 0x0201 [0x50003, 1, 0xFFFF, 0x05000000, 0x80002000]; let s := ask x open3
    stands s 0x0201 .supervisorsSprigs 8 false x [] ∧ s.core.findHand 0x50003 = some 3 ∧ (s.core.hand 3).owner = s.core.ownerOf q0
    ∧ s.core.setFault (s.core.hand 3) (rawEntry (x.own.drop 8) 0) = none
    ∧ ((nx (exec (.handSet q0) s)).core.hand 3).entries = [⟨0, 0x05000000, 0x80002000, 0⟩] := by unfold stands; decide +kernel
theorem test_handSet_fault : let x := cmd 0x0201 [0x50003, 1, 0x1FFFF, 0x05000000, 0]; let s := ask x open3
    nx (exec (.handSet q0) s) = answered s ⟨stBadParam, []⟩ := by decide +kernel
/-- A value outside the mask, an unknown setting, another device, a length that does not fit; a hand that is not OPEN, another owner's, a stale ID. -/
theorem test_handSet_faults :
    let x (own : List Word) : Cmd := cmd 0x0201 ([0x50003] ++ own)
    let gives_ (own : List Word) (f : Core → Core) (r : Reply) : Bool := decide (nx (exec (.handSet q0) (ask (x own) f)) = answered (ask (x own) f) r)
    gives_ [1, 0xFFFF, 0x05000000, 0x10000000] open3 ⟨stBadParam, [0x71, 0x05000000]⟩ = true
    ∧ gives_ [1, 0xFFFF, 0x00000000, 0] open3 ⟨stBadParam, [0x70, 0x00000000]⟩ = true
    ∧ gives_ [1, 3, 0x05000000, 0] open3 ⟨stBadParam, [0x78, 3]⟩ = true
    ∧ gives_ [2, 0xFFFF, 0x05000000, 0] open3 ⟨stBadLength, []⟩ = true
    ∧ gives_ [1, 0xFFFF, 0x05000000, 0] (open3 fun h => { h with st := .pending }) ⟨stHandClosed, []⟩ = true
    ∧ gives_ [1, 0xFFFF, 0x05000000, 0] (open3 fun h => { h with owner := .func 3 }) ⟨stDenied, [0x74, 0x50003]⟩ = true
    ∧ gives_ [1, 0xFFFF, 0x05000000, 0] id ⟨stHandClosed, []⟩ = true := by decide +kernel
theorem test_handOpen_system : let bs : List Byte := 1 :: List.replicate 63 0; let x := cmdIn 0x0200 [1] bs; let s := ask x
    stands s 0x0200 .supervisorsSprigs 4 false x bs
    ∧ ((nx (exec (.handOpen q0) s)).core.hand 0).sys = some { mask := 1, coordinator := 0, hand := 0x10000 }
    ∧ (let y := ask (cmdIn 0x0200 [1] (2 :: List.replicate 63 0)); nx (exec (.handOpen q0) y) = answered y ⟨stBadParam, [0x78, 0]⟩)
    ∧ (let y := ask (cmdIn 0x0200 [1] (List.replicate 8 1)); nx (exec (.handOpen q0) y) = answered y ⟨stBadLength, []⟩)
    ∧ (let y := ask (cmd 0x0200 [1]); nx (exec (.handOpen q0) y) = answered y ⟨stBadParam, [0]⟩)
    ∧ (let y := ask (cmd 0x0200 [2]); nx (exec (.handOpen q0) y) = answered y ⟨stBadParam, []⟩) := by unfold stands; decide +kernel
theorem test_handCheck : let x := cmd 0x0202 [0x50003]; let s := ask x (open3 fun h => { h with entries := [⟨0, 0x05000000, 0x10000000, 0⟩] })
    stands s 0x0202 .supervisorsSprigs 4 false x [] ∧ (s.core.handFault 3).isSome = true
    ∧ nx (exec (.handCheck q0) s) = answered s ((s.core.handFault 3).getD (ok [])) := by unfold stands; decide +kernel
theorem test_handCommit : let x := cmd 0x0203 [0x50003, 0, 0, 0, 0, 0]; let s := ask x (open3 fun h => { h with entries := [⟨0, 0x05000000, 0x10000000, 0⟩] })
    stands s 0x0203 .supervisorsSprigs 24 false x [] ∧ s.core.commitParams (s.core.hand 3) 0 0 0 0 0 = none
    ∧ ((nx (exec (.handCommit q0) s)).core.hand 3).st = .open := by unfold stands; decide +kernel
/-- A hand of one sound entry has no fault where the store has room for it, which is free (log entry 39). -/
theorem test_handFault_none : let c := (ask (cmd 0x0203 []) (open3 fun h => { h with entries := [⟨0, 0x05000000, 0x80002000, 0⟩] })).core
    Config.storeFull c.cfg.length 0 = false → c.handFault 3 = none := by
  intro c room
  have h1 : firstOf ((c.ownEntries (c.hand 3)).map fun e => c.settingFault (c.hand 3) e.id e.val) = none := by decide +kernel
  have h2 : c.checkBusy 3 = none := by decide +kernel
  have h3 : c.vfFault (c.ownEntries (c.hand 3)) = none := by decide +kernel
  have h4 : checkConfig (c.under c.futureCfg) (c.under (layEntries c.futureCfg (c.ownEntries (c.hand 3)))) ((c.ownEntries (c.hand 3)).map HandEntry.id)
      ((c.hand 3).sys.map SysHand.mask) = none := by decide +kernel
  have h5 : c.checkImports (c.under (layEntries c.futureCfg (c.ownEntries (c.hand 3)))) (c.hand 3) = none := by decide +kernel
  have h6 : (c.hand 3).loads = [] := by decide +kernel
  have h7 : (c.under (layEntries c.futureCfg (c.ownEntries (c.hand 3)))).sharedBasesAgree (c.hand 3) = true := by decide +kernel
  have h8 : (c.gdcs.any fun e => decide (e.2.st = .failed)) = false := by decide +kernel
  simp only [Core.handFault, h1, h2, h3, h4, h5, h6, h7, h8, List.foldl_nil, List.map_nil, room]
  decide
theorem test_handCommit_refused :
    let s (own : List Word) : State := ask (cmd 0x0203 ([0x50003] ++ own)) (open3 fun h => { h with entries := [⟨0, 0x05000000, 0x80002000, 0⟩] })
    nx (exec (.handCommit q0) (s [3, 0, 0, 0, 0])) = answered (s [3, 0, 0, 0, 0]) ⟨stBadParam, []⟩
    ∧ nx (exec (.handCommit q0) (s [0, 0, 0, 5, 0])) = answered (s [0, 0, 0, 5, 0]) ⟨stBadParam, [0x83, 5]⟩
    ∧ nx (exec (.handCommit q0) (s [2, 4096, 0, 0, 0])) = answered (s [2, 4096, 0, 0, 0]) ⟨stBadParam, []⟩ := by decide +kernel
theorem test_handFold : let x := cmd 0x0204 [0x50003]; let s := ask x open3; stands s 0x0204 .supervisorsSprigs 4 false x []
    ∧ ((nx (exec (.handFold q0) s)).core.hand 3).st = .folded
    ∧ let late := ask x (open3 fun h => { h with st := .pending, instant := some 0 })
      nx (exec (.handFold q0) late) = answered late ⟨stHandClosed, []⟩ ∧ nx (exec (.handFold q0) (ask x)) = answered (ask x) ⟨stHandClosed, []⟩
      ∧ let loads := ask x (open3 fun h => { h with st := .pending, instant := some 0, drainwin := 1, loads := [⟨qi.setWidth 32, 0xFF, []⟩] })
        ((nx (exec (.handFold q0) loads)).core.hand 3).st = .folded
      ∧ let edge (late : Bool) := ask x fun c => { open3 (fun h => { h with st := .pending }) c with
          fabric := { c.fabric with edges := [(.hand 3, if late then 0x10000000 else 0)] } }
        ((nx (exec (.handFold q0) (edge true))).core.hand 3).st = .folded
        ∧ nx (exec (.handFold q0) (edge false)) = answered (edge false) ⟨stHandClosed, []⟩ := by
  unfold stands; decide +kernel
theorem test_handRecall : let x := cmd 0x0205 []; let s := ask x; stands s 0x0205 .supervisorsSprigs 0 false x []
    ∧ nx (exec (.handRecall q0) s) = answered s ⟨stNoPrior, []⟩
    ∧ let u := ask x fun c => { c with store := { c.store with hasPrior := true } }; ((nx (exec (.handRecall q0) u)).core.hand 0).st = .open := by
  unfold stands; decide +kernel
theorem test_handStatus : let x := cmd 0x0206 [0x50003]; let s := ask x (open3 fun h => { h with st := .committed, instant := some 7 })
    stands s 0x0206 .supervisorsSprigs 4 false x [] ∧ s.core.findHand 0x50003 = some 3 ∧ (nx (exec (.handStatus q0) s)).core.cmds = [] := by
  unfold stands; decide +kernel
/-- An image with vector 0 at 0x200. -/
def image0 : List Byte := [0x4D, 0x51, 0x53, 0x50, 1, 0, 0, 0, 0, 0, 0, 0, 0, 0, 0, 0, 2, 0, 0, 0, 0, 0, 0, 0, 4, 0, 0, 0, 0, 0, 0, 0, 0, 2, 1, 0]
theorem test_handLoad : let x := cmdIn 0x0207 [0x50003, qi.setWidth 32, 0xFF] image0; let s := ask x open3
    stands s 0x0207 .supervisors 12 true x image0 ∧ s.core.targets (qi.setWidth 32) = [g5] ∧ imageRefusal s.core [g5] image0 = none
    ∧ ((nx (exec (.handLoad q0) s)).core.hand 3).loads = [⟨qi.setWidth 32, 0xFF, image0⟩] := by unfold stands; decide +kernel
/-- A section that would write microword 0xC00, or decode entry 0xDF, is DENIED (R154); one past the customer region is IMAGE_BAD (R369). -/
theorem test_image_vendor :
    let img (kind a b : Byte) : List Byte := image0.take 4 ++ [2] ++ (image0.drop 5) ++ [kind, 0, 0, 0, a, b, 0, 0, 4, 0, 0, 0, 0, 0, 0, 0, 0, 0, 0, 0]
    let c := State.reset.core
    imageRefusal c [g5] (img 6 0 0xC) = some ⟨stDenied, []⟩ ∧ imageRefusal c [g5] (img 5 0xDF 0) = some ⟨stDenied, []⟩
    ∧ imageRefusal c [g5] (img 6 0 0x10) = some (badParam 0x81 36) := by decide +kernel
theorem test_handLoad_bad : let x := cmdIn 0x0207 [0x50003, qi.setWidth 32, 0xFF] (List.replicate 16 0); let s := ask x open3
    imageRefusal s.core [g5] (List.replicate 16 0) = some (badParam 0x81 0)
    ∧ nx (exec (.handLoad q0) s) = answered s (badParam 0x81 0) := by decide +kernel
theorem test_settingRead : let x := cmd 0x0208 [0x05000000]; let s := ask x; stands s 0x0208 .supervisorsSprigs 4 false x []
    ∧ (ownedSetting 0x05000000 0).isSome = true
    ∧ nx (exec (.settingRead q0) s) = answered s (ok [cfgGet s.core.cfg 0x05000000, 0, 0, 0]) := by unfold stands; decide +kernel

/-- Slot 3 holds a hand; DTIME is 10,000. -/
def handed (h : Hand) (f : Core → Core := id) : State := after fun c => f ({ c.setHand 3 h with time := { c.time with dtime := 10000 } } : Core)
def entry5 : HandEntry := ⟨0, 0x05000000, 0x80002000, 0⟩
theorem test_handStaged : let s := handed { Hand.reset with st := .pending, submit := some q0, entries := [entry5] }
    let h := (nx (exec (.handStaged 3) s)).core.hand 3; h.st = .pending ∧ h.submit = none ∧ h.instant = some (10000 + us 2) := by decide +kernel
theorem test_handStaged_late : let s := handed { Hand.reset with st := .pending, submit := some q0, mode := 1, arg0 := 10000 + 15999 }
    us 2 = 16000 ∧ ((nx (exec (.handStaged 3) s)).core.hand 3).st = .open ∧ ((nx (exec (.handStaged 3) s)).core.hand 3).status = stConflict := by decide +kernel
theorem test_handBoundary : let s := handed { Hand.reset with st := .pending, mode := 2, ready := 80 } fun c => { c with fabric := { c.fabric with edges := [(.hand 3, 80)] } }
    ((nx (exec (.handBoundaryEdge 3) s)).core.hand 3).instant = some 240 := by decide +kernel
theorem test_handCommitInstant : let s := handed { Hand.reset with st := .pending, instant := some 10000, entries := [entry5] }
    let t := nx (exec (.handCommitInstant 3) s)
    (t.core.hand 3).st = .committed ∧ (t.core.hand 3).gen = 2 ∧ t.core.store.gen = 2 ∧ t.core.cfg = [(0x05000000, 0x80002000)] ∧ t.core.store.prior = []
    ∧ let u := handed { Hand.reset with st := .pending, instant := some 10001 }; nx (exec (.handCommitInstant 3) u) = u := by decide +kernel
/-- The same hand with an image for sprig 1.5. -/
def loading (f : Hand → Hand) (x : Sprig) : State :=
  handed (f { Hand.reset with st := .pending, instant := some 10000, drainwin := 5, loads := [⟨qi.setWidth 32, 0xFF, image0⟩] }) fun c => c.setSprig g5 x
theorem test_handDrain : let s := loading id Sprig.reset; (s.core.hand 3).decidedYes = true
    ∧ let h := (nx (exec (.handDrainStart 3) s)).core.hand 3; h.st = .draining ∧ h.commitAt = 10000 + us 5 + s.core.loadTime (s.core.hand 3) := by decide +kernel
theorem test_handTargetHalt : let s := loading (fun h => { h with st := .draining }) { Sprig.reset with state := .wait, pc := 7 }
    (s.core.handTargets (s.core.hand 3)).contains g5 = true ∧ s.core.queuesEmpty (s.core.hand 3) g5 = true
    ∧ let t := nx (exec (.handTargetHalt 3 g5) s); (sp t).state = .halted ∧ (sp t).pc = 7 ∧ (t.core.hand 3).halted = [g5] := by decide +kernel
theorem test_handLoadTargets : let s := loading (fun h => { h with st := .draining, halted := [g5] }) { Sprig.reset with state := .halted }
    let t := nx (exec (.handLoadTargets 3) s); (t.core.hand 3).loaded = true ∧ (sp t).state = .disabled := by decide +kernel
theorem test_drainTimeout : let s := loading (fun h => { h with st := .draining, instant := some 0, drainwin := 1 }) { Sprig.reset with state := .run }
    (s.core.handTargets (s.core.hand 3)).find? (fun j => !(s.core.hand 3).halted.contains j) = some g5
    ∧ let h := (nx (exec (.drainTimeout 3) s)).core.hand 3; h.st = .failed ∧ h.status = stAbandoned ∧ h.detail = 0x80 := by decide +kernel
theorem test_generationMirror : (nx (exec .generationMirror State.reset)).core.store.flashGen = 1
    ∧ (nx (exec .generationMirror State.reset)).core.store.mirrored = true := by decide +kernel
/-- A PREPARE of device 7. -/
def prepare7 (d : DWord) : Prepare := ⟨7, 0x90001, 0x81, d, d + 800000, [(0x05000000, 0x80002000)]⟩
/-- QUAL is FINE. -/
def fineTime (s : State) : State := s.on { s.core with time := { s.core.time with qual := qualFine } }
theorem test_systemPrepare : let s := fineTime (handed Hand.reset); (prepare7 20000).coordinator ≠ s.core.dev ∧ s.core.time.dtime ≤ (prepare7 20000).deadline
    ∧ (s.core.openHand (.func 0) (some { mask := 1, coordinator := 7, hand := 0x90001, deadline := 20000 }) [entry5] []).isSome = true
    ∧ let t := nx (exec (.systemPrepare (prepare7 9999)) s); t.core.fly.map Flight.parcel = [.vote 7 0x90001 false 0 {}] := by decide +kernel
/-- A device whose QUAL is not FINE votes NO with TIME_NOT_FINE, as a participant and as the coordinator (R449). -/
theorem test_notFine : (nx (exec (.systemPrepare (prepare7 20000)) (handed Hand.reset))).core.fly.map Flight.parcel = [.vote 7 0x90001 false 0xA0 {}]
    ∧ let y : SysHand := { mask := 1, coordinator := 0, hand := 3, deadline := 20000 }
      let s := handed { Hand.reset with st := .pending, submit := some q0, instant := some 900000, sys := some y }
      ((nx (exec (.handStaged 3) s)).core.hand 3).sys = some { y with votes := [(0, false, 0xA0)] } := by decide +kernel
def sysHand (y : SysHand) : State := handed { Hand.reset with st := .pending, instant := some 10000, entries := [entry5], sys := some y }
theorem test_voteDeadline : let y : SysHand := { mask := 3, coordinator := 0, hand := 3, deadline := 10000, votes := [(0, true, 0), (1, true, 0)] }
    (sysHand y).core.voteFault ((sysHand y).core.hand 3) y = none ∧ ((nx (exec (.systemVoteDeadline 3) (sysHand y))).core.hand 3).sys = some { y with decided := some true }
    ∧ let n := { y with votes := [(0, true, 0)] }
      (sysHand n).core.voteFault ((sysHand n).core.hand 3) n = some ⟨stPeerLost, [0x76, 1]⟩ ∧ ((nx (exec (.systemVoteDeadline 3) (sysHand n))).core.hand 3).st = .folded := by decide +kernel
def voted : SysHand := { mask := 1, coordinator := 7, hand := 0x90001, votedYes := true }
theorem test_systemDecision : ((nx (exec (.systemDecision 3 true {}) (sysHand voted))).core.hand 3).sys = some { voted with decided := some true }
    ∧ ((nx (exec (.systemDecision 3 false {}) (sysHand voted))).core.hand 3).st = .folded := by decide +kernel
theorem test_isolatedCommit : let t := nx (exec (.isolatedCommit 3) (sysHand voted))
    (t.core.hand 3).st = .committed ∧ t.core.store.isolated = true ∧ t.core.store.gen = 2
    ∧ (t.core.fly.getLast?.map Flight.parcel) = some (.isolated 7 0x90001) := by decide +kernel

/-- A command on sprig 1.5. -/
def onSprig (x : Cmd) (st : RunState) : State := ask x fun c => c.setSprig g5 { regs [(3, 9)] with state := st, pc := 7, faultPc := 20, cause := 1 }
theorem test_sprigLoad : let x := cmdIn 0x0400 [37] image0; let s := onSprig x .halted; stands s 0x0400 .supervisors 4 true x image0
    ∧ s.core.quietSprig g5 = false ∧ imageRefusal s.core [g5] image0 = none
    ∧ (nx (exec (.sprigLoad q0) s)).core.word (localsBase g5) = 0x10200 := by unfold stands; decide +kernel
theorem test_sprigLoad_refused : let s := onSprig (cmdIn 0x0400 [37] image0) .run; let b := onSprig (cmdIn 0x0400 [37] []) .frozen
    nx (exec (.sprigLoad q0) s) = answered s (conflict 0x85 1) ∧ nx (exec (.sprigLoad q0) b) = answered b (badParam 0x81 0) := by decide +kernel
theorem test_sprigStart : let x := cmd 0x0401 [37]; stands (onSprig x .halted) 0x0401 .supervisors 4 false x []
    ∧ (sp (nx (exec (.sprigStart q0) (onSprig x .halted)))).state = .run ∧ (sp (nx (exec (.sprigStart q0) (onSprig x .halted)))).pc = 7
    ∧ nx (exec (.sprigStart q0) (onSprig x .frozen)) = answered (onSprig x .frozen) ⟨stFrozen, []⟩
    ∧ let d := onSprig x .disabled; nx (exec (.sprigStart q0) d) = d.on ((d.core.takeEntry g5 0 7).answerCmd q0 (ok [])) := by unfold stands; decide +kernel
theorem test_sprigHalt : let x := cmd 0x0402 [37]; stands (onSprig x .run) 0x0402 .supervisors 4 false x []
    ∧ (sp (nx (exec (.sprigHalt q0) (onSprig x .run)))).state = .halted ∧ (sp (nx (exec (.sprigHalt q0) (onSprig x .wait)))).pc = 7
    ∧ nx (exec (.sprigHalt q0) (ask (cmd 0x0402 [3]))) = answered (ask (cmd 0x0402 [3])) ⟨stDenied, []⟩ := by unfold stands; decide +kernel
theorem test_sprigStep : let x := cmd 0x0403 [37]; stands (onSprig x .halted) 0x0403 .supervisors 4 false x []
    ∧ (sp (nx (exec (.sprigStep q0) (onSprig x .halted)))).state = .run ∧ (sp (nx (exec (.sprigStep q0) (onSprig x .halted)))).req.stepping = true := by
  unfold stands; decide +kernel
theorem test_sprigReset : let x := cmd 0x0404 [37]; stands (onSprig x .run) 0x0404 .supervisors 4 false x []
    ∧ let t := nx (exec (.sprigReset q0) (onSprig x .run)); t.core.quiet (.sprig g5) = true ∧ (t.core.cmdsOf q0).map Cmd.begun = [true] := by unfold stands; decide +kernel
theorem test_timeRead : let x := cmd 0x0500 []; let s := ask x; stands s 0x0500 .functions 0 false x []
    ∧ nx (exec (.timeRead q0) s) = answered s (ok [0, 0, 0, 0, 0]) := by unfold stands; decide +kernel
theorem test_timeStep_cmd : let x := cmd 0x0501 [5, 1]; let s := ask x; stands s 0x0501 .supervisors 8 false x []
    ∧ (nx (exec (.timeStep q0) s)).core.time.dtime = 0x100000005 := by unfold stands; decide +kernel
theorem test_timeQuality_cmd : let x := cmd 0x0503 [3]; stands (ask x) 0x0503 .supervisors 4 false x []
    ∧ (nx (exec (.timeQuality q0) (ask x))).core.time.qual = 3
    ∧ nx (exec (.timeQuality q0) (ask (cmd 0x0503 [4]))) = answered (ask (cmd 0x0503 [4])) ⟨stBadParam, []⟩ := by unfold stands; decide +kernel
theorem test_freeze : let x := cmd 0x0701 [0, 37]; stands (onSprig x .run) 0x0701 .supervisors 8 false x []
    ∧ (sp (nx (exec (.freeze q0) (onSprig x .run)))).state = .frozen ∧ (sp (nx (exec (.freeze q0) (onSprig x .run)))).cause = causeCommand := by
  unfold stands; decide +kernel
theorem test_thaw : let x := cmd 0x0702 [0, 37, 0, 0]; stands (onSprig x .frozen) 0x0702 .supervisors 16 false x []
    ∧ (sp (nx (exec (.thaw q0) (onSprig x .frozen)))).state = .run ∧ (sp (nx (exec (.thaw q0) (onSprig x .frozen)))).pc = 20
    ∧ (sp (nx (exec (.thaw q0) (onSprig (cmd 0x0702 [0, 37, 1, 0xFFFF]) .frozen)))).pc = 0xFFFF
    ∧ nx (exec (.thaw q0) (onSprig x .run)) = answered (onSprig x .run) ⟨stConflict, []⟩ := by unfold stands; decide +kernel

/-! ### ErrorsAndQuiesce to PowerStates -/

def info1 : ErrInfo := { cls := 1, source := 4, code := 0x12, unit := 0, detail := 0, addr := 0 }
/-- One entry stands in the log. -/
def loggedOne (f : Core → Core := id) : State := after fun c => f (c.log info1)
theorem test_errorCardSend : loggedOne.core.err.sdel ≠ loggedOne.core.err.tail
    ∧ let t := nx (exec .errorCardSend loggedOne)
      t.core.err.sdel = 1 ∧ (t.core.prod .errorEngine).credit = 63 ∧ t.core.fly.length = 1 ∧ nx (exec .errorCardSend t) = t := by decide +kernel
theorem test_errHostCopy : let s := loggedOne fun c => { c with err := { c.err with hqCfg := 0x80800000 } }
    s.core.err.hqEn = true ∧ s.core.err.hqFill < 2 ^ s.core.err.hqSize
    ∧ let t := nx (exec .errHostCopy s); t.core.err.hcopy = 1 ∧ t.core.err.hqTail = 1
      ∧ (nx (exec (.errHqHeadWrite hostF 1) t)).core.err.hqHead = 1 ∧ (nx (exec (.errHqHeadWrite hostF 2) t)).core.err.hqHead = 0 := by decide +kernel
theorem test_errLogAck : loggedOne.core.takes st1 true = true ∧ (nx (exec (.errLogAckWrite st1 1) loggedOne)).core.err.ack = 1
    ∧ (nx (exec (.errLogAckWrite st1 2) loggedOne)).core.err.ack = 0 := by decide +kernel
theorem test_errLost : let s := after fun c => { c with err := { c.err with lostCorrected := 3, lostOther := 4 } }
    (shown (nx (exec (.errLostRead hostF) s)) hostF).value = 0x00030004 ∧ (nx (exec (.errLostRead hostF) s)).core.err.lostOther = 0 := by decide +kernel
theorem test_errRead : let x := cmdIn 0x0700 [0, 1024] []; let s := ask x fun c => c.log info1; stands s 0x0700 .supervisors 8 true x []
    ∧ (nx (exec (.errRead q0) s)).core.cmds = [] := by unfold stands; decide +kernel
theorem test_quiesce : let s := after fun c => { c with time := { c.time with dtime := 500 } }; (cutName (.sprig g5)).isSome = true
    ∧ let t := nx (exec (.quiesce (.sprig g5)) s); t.core.quiesce = [(.sprig g5, 500)] ∧ nx (exec (.quiesce (.sprig g5)) t) = t
    ∧ nx (exec (.quiesceCut (.sprig g5)) t) = t := by decide +kernel
theorem test_quiesce_illFormed : cutName (.channel 36) = none ∧ exec (.quiesce (.channel 36)) State.reset = .fault .illFormed := ⟨rfl, rfl⟩
/-- A part has been in QUIESCE for 10 µs. -/
def cutting (p : Part) (f : Core → Core := id) : State := after fun c => f ({ c with quiesce := [(p, 0)], time := { c.time with dtime := 80000 } } : Core)
theorem test_quiesceCut_sprig : let t := nx (exec (.quiesceCut (.sprig g5)) (cutting (.sprig g5) fun c => c.setSprig g5 { regs [(3, 9)] with state := .halted }))
    (sp t).state = .disabled ∧ (sp t).rd 3 = 0 ∧ t.core.quiet (.sprig g5) = false := by decide +kernel
theorem test_quiesceCut_pair : let t := nx (exec (.quiesceCut (.hostPair 9)) (cutting (.hostPair 9) fun c => c.setHqp 9 { Hqp.reset with itail := 3 }))
    t.core.hqp 9 = Hqp.reset ∧ t.core.quiet (.hostPair 9) = false := by decide +kernel
theorem test_quiesceCut_channel : let t := nx (exec (.quiesceCut (.channel 35)) (memReady (cutting (.channel 35) fun c => c.setBytes 0 [7])))
    t.core.power.inReset = [.channel 35] ∧ (t.core.gdc 35).st = .init ∧ t.core.byte 0 = 7 := by decide +kernel
theorem test_quiesceDrained : let s := after fun c => { c.setSprig g5 { Sprig.reset with state := .run } with quiesce := [(.sprig g5, 0)] }
    (sp s).drained = true ∧ (sp (nx (exec (.quiesceDrained g5) s))).state = .disabled := by decide +kernel
theorem test_closeCard : let s := after fun c => c.setChan g5 2 { Chan.reset with close := some (5, 0), credit := 1, isOpen := true }
    s.core.handleHeld (s.core.shandle g5 2) = false
    ∧ let t := nx (exec (.closeCard (.chan 0 g5 2) 5) s)
      (t.core.chan g5 2).close = none ∧ (t.core.chan g5 2).isOpen = false ∧ (t.core.chan g5 2).credit = 0 ∧ t.core.fly.length = 1 := by decide +kernel
theorem test_unitFatal : let t := nx (exec (.unitFatal (.posy 3) info1) State.reset); State.reset.core.err.takes 2 = true
    ∧ t.core.quiet (.posy 3) = true ∧ t.core.lastLog = some { info1 with cls := 2 } := by decide +kernel

/-- A core with some contents. -/
def live (f : Core → Core := id) : State := after fun c => f ({ c.setSprig g5 (regs [(3, 9)]) with mem := [(7, 5), (scratchBase 1, 6)], dev := 4 } : Core)
/-- The core domain was reset for a cause, GDDR6 keeping its contents. -/
def coreWas (t : State) (cause : Nat) : Bool :=
  t.core.power.coreReset && t.core.aon.causes.getLsbD (cause - 1) && decide (t.core.mem = [(7, 5)]) && decide (t.core.sprigs = []) && decide (t.core.dev = 4)
theorem test_porst : let t := nx (exec (.porstN 9) live)
    t.core.power.coreReset = true ∧ t.core.dev = 9 ∧ t.core.mem = [] ∧ t.core.aon.strapId = 9 ∧ t.core.time.running = false
    ∧ nx (exec .vauxLoss live) = nx (exec (.porstN 0) live) := by decide +kernel
theorem test_sysrst : coreWas (nx (exec (.sysrstN 1000) live)) 1 = true ∧ nx (exec (.sysrstN 99) live) = live := by decide +kernel
theorem test_brownout : coreWas (nx (exec (.brownout false) live)) 3 = true ∧ (nx (exec (.brownout false) live)).core.aon.brown = true
    ∧ let t := nx (exec (.brownout true) live); t.core.aon.power = .starting ∧ t.core.aon.pgfail = true ∧ t.core.mem = [] := by decide +kernel
theorem test_input48v : let s := live fun c => { c with aon := { c.aon with power := .watch } }
    (nx (exec .input48vLoss s)).core.aon.power = .off ∧ (nx (exec .input48vLoss s)).core.mem = [] ∧ nx (exec .input48vLoss live) = live := by decide +kernel
theorem test_watchdog : let s := live fun c => { c with power := { c.power with wdogEn := true, wdogMs := 1000 }, aon := { c.aon with ticks := 32768 } }
    coreWas (nx (exec .watchdogExpiry s)) 2 = true ∧ nx (exec .watchdogExpiry live) = live
    ∧ (nx (exec (.rstWdogKick hostF 0xC1A0) s)).core.power.wdogAt = 32768 ∧ coreWas (nx (exec (.rstWdogKick hostF 0xC1A1) s)) 2 = true := by decide +kernel
theorem test_rstUnit : unitOf 0xC0000023 = some (.channel 35) ∧ (nx (exec (.rstUnit hostF 0xC0000023) live)).core.quiesce = [(.channel 35, 0)]
    ∧ nx (exec (.rstUnit hostF 0x40000023) live) = live := by decide +kernel
theorem test_rstWriters : let a : Addr := 0x6000300010; (nx (exec (.registerWrite hostF a 0x8000000A) live)).core.power.wdogMs = 10
    ∧ (nx (exec (.registerWrite hostF a 0x8000000A) live)).core.power.wdogEn = true
    ∧ (sp (nx (exec (.registerWrite (.sprig g5) a 10) live))).state = .frozen ∧ (sp (nx (exec (.rstUnit (.sprig g5) 0x80000001) live))).cause = causePerm
    ∧ live.core.supervisor (.host 1) = false ∧ nx (exec (.rstWdogKick (.host 1) 0) live) = live := by decide +kernel
theorem test_rstXstat : let s := live fun c => { c with power := { c.power with xstat := 0xFFFF } }
    (shown (nx (exec (.rstXstatRead hostF) s)) hostF).value = 0xFFFF ∧ (nx (exec (.rstXstatRead hostF) s)).core.power.xstat = 0
    ∧ (nx (exec (.crossingResync (.dcq 1) false) s)).core.power.xstat = 0xFFFF ∧ (nx (exec (.crossingResync (.dcq 1) false) live)).core.power.xstat = 1 := by
  decide +kernel
theorem test_resetRelease : let s := live fun c => { c with power := { c.power with coreReset := true } }
    nx (exec (.resetRelease .core) s) = s.on { s.core with power := { s.core.power with coreReset := false, wdogAt := 0 } }
    ∧ let u := live fun c => { c with power := { c.power with inReset := [.channel 35] }, quiesce := [(.channel 35, 0)] }
      (nx (exec (.resetRelease (.channel 35)) u)).core.power.inReset = [] ∧ (nx (exec (.resetRelease (.channel 35)) u)).core.quiet (.channel 35) = false := by decide +kernel
theorem test_crossingLatch : let s := live fun c => c.setSprig g5 { Sprig.reset with page := { ({} : Page) with latch := 0xFF } }
    (sp (nx (exec (.crossingResync (.eventLatch g5 7) true) s))).page.latch.getLsbD 7 = false := by decide +kernel
theorem test_asyncWake : let s := live fun c => c.setGdc 35 { Gdc.reset with st := .selfref }
    ((nx (exec (.asyncWake (.mem 35)) s)).core.gdc 35).st = .ready := by decide +kernel
theorem test_serdes : (nx (exec (.serdesPllLoss 4) live)).core.quiesce = [(.serdes 4, 0), (.tlPort 0, 0)] := by decide +kernel
theorem test_flr : let s := pair9 Hqp.reset []; let s := s.on { s.core with hic := { s.core.hic with active := [(9, some 0), (10, some 1)] } }
    s.core.pairsOf 0 = [90] ∧ (nx (exec (.functionLevelReset 0) s)).core.quiet (.hostPair 90) = true
    ∧ (nx (exec (.functionLevelReset 0) s)).core.hic.active = [(10, some 1)] := by decide +kernel
theorem test_deviceFatal : coreWas (nx (exec (.deviceFatal info1) live)) 4 = true
    ∧ (nx (exec (.deviceFatal info1) live)).core.aon.fatal.map Prod.fst = some { info1 with cls := 3 } := by decide +kernel

/-- The ROM runs on a device whose slot B is active, with an unreadable bundle. -/
def romOn (f : Sec → Sec) (g : Core → Core := id) : State := { after g with sec := f State.reset.sec }
theorem test_bootRom_retired : let t := nx (exec (.bootRom 0) (romOn fun x => { x with life := .retired }))
    t.core.running = true ∧ t.core.boot.phase = .failed ∧ t.core.boot.fail = failRetired := by decide +kernel
theorem test_bootRom_recovery : let t := nx (exec (.bootRom 3) State.reset); t.core.boot.phase = .recovery ∧ t.core.boot.src = 3 := by decide +kernel
theorem test_bootRom_loader : let s := memReady (withBytes State.reset 0x01000000 [5]); s.core.memSettled = true
    ∧ let t := nx (exec (.bootRom 2) s); t.core.boot.phase = .waitLoader ∧ t.core.boot.src = 2 ∧ t.core.byte 0x01000000 = 0 := by decide +kernel
theorem test_bootRom_flash : let s := romOn fun x => { x with slotB := { st := .active }, recovDis := true }
    s.sec.slotIn .tried = none ∧ s.sec.slotIn .staged = none ∧ s.sec.slotIn .active = some true ∧ s.sec.slotIn .previous = none
    ∧ let t := nx (exec (.bootRom 0) s); t.core.boot.phase = .failed ∧ t.core.boot.fail = failNoImage := by decide +kernel
theorem test_goRecord : let s := withBytes (after fun c => { c with boot := { c.boot with phase := .waitLoader } }) 0x01FFFFC0 [0x4D, 0x51, 0x47, 0x4F, 4]
    s.core.goRecord = some 4 ∧ (nx (exec .goRecord s)).core.boot.phase = .failed ∧ (nx (exec .goRecord s)).core.boot.fail = BitVec.ofNat 8 failFormat := by decide +kernel
/-- Serial recovery waits for frames. -/
def recovers (e : Option Nat) : State := after fun c => { c with boot := { c.boot with phase := .recovery, expect := e } }
theorem test_recoveryLoad : (nx (exec (.recoveryLoad 2000) (recovers none))).core.boot.expect = some 2000 := by decide +kernel
theorem test_recoveryFrame (d : List Byte) (h : d.length = 1024) : let t := nx (exec (.recoveryLoadFrame d (crc32 d)) (recovers (some 2000)))
    t.core.boot.got = d ∧ t.core.mon.answer = some (.text [recoveryAck]) := by
  have h1 : (recovers (some 2000)).core.boot.phase = .recovery := by decide +kernel
  have h2 : (recovers (some 2000)).core.boot.expect = some 2000 := by decide +kernel
  have h3 : (recovers (some 2000)).core.boot.got = [] := by decide +kernel
  simp [exec, execRecoveryLoadFrame, h1, h2, h3, h, nx, loadFrameBytes]
theorem test_recoveryFrame_nak : (nx (exec (.recoveryLoadFrame [] 1) (recovers (some 2000)))).core.mon.answer = some (.text [recoveryNak]) := by
  decide +kernel
theorem test_crc32 : crc32 [0x31, 0x32, 0x33, 0x34, 0x35, 0x36, 0x37, 0x38, 0x39] = 0xCBF43926 := by decide +kernel
theorem test_resume : let s := memReady (after fun c => { c with boot := { c.boot with phase := .handedOver } })
    s.core.memSettled = true ∧ s.core.resumable = none ∧ (nx (exec .resume s)).core.power.coreReset = true
    ∧ (nx (exec .resume s)).core.boot.fail = failResume := by decide +kernel

/-- Bunch 5 may be gated after some idle time. -/
def idles (f : Power → Power) : State := set_ [(sid 0x01 0x40, 1000)] fun c => { c with power := f c.power }
theorem test_bunchIdle : let s := idles id; s.core.idleNs ≠ 0 ∧ s.core.bunchIdle 5 = true ∧ s.core.asleep 5 = false ∧ s.core.quiet (.bunch 5) = false
    ∧ (nx (exec (.bunchIdleExpiry 5) s)).core.power.prep = 32 ∧ s.core.bunchIdle 0 = false ∧ nx (exec (.bunchIdleExpiry 0) s) = s := by decide +kernel
theorem test_bunchGated : let t := nx (exec (.bunchGated 5) (idles fun p => { p with prep := 32 })); t.core.power.gated = 32 ∧ t.core.power.prep = 0
    ∧ nx (exec (.bunchGated 6) t) = t ∧ (nx (exec (.firstAccess 5) t)).core.power.waking = 32 := by decide +kernel
theorem test_bunchWake : let s := set_ [(sid 0x01 (0x300 + 20), 0x40)] fun c => { c with power := { c.power with waking := 32, restart := [(5, 2)] } }
    let t := nx (exec (.bunchWakeRelease 5) s)
    t.core.asleep 5 = false ∧ (t.core.sprig (sprigAt 5 1)).state = .run ∧ (t.core.sprig (sprigAt 5 1)).pc = 0x40 ∧ t.core.sprig (sprigAt 5 2) = Sprig.reset := by
  decide +kernel
theorem test_bunchHold : let x (op : Word) := cmd 0x0601 [6, 0x80000000, op]; let s (op : Word) := ask (x op) fun c => { c with power := { c.power with hold := 5 } }
    stands (s 0) 0x0601 .supervisors 12 false (x 0) []
    ∧ (nx (exec (.bunchHold q0) (s 0))).core.power.hold = 0x8000000000000007 ∧ (nx (exec (.bunchHold q0) (s 1))).core.power.hold = 1
    ∧ (nx (exec (.bunchHold q0) (s 2))).core.power.hold = 0x8000000000000007 := by unfold stands; decide +kernel

/-- A POWER_STATE command; the sources that wake the device. -/
def sleeps (v : Word) (en : Word) : State := ask (cmd 0x0600 [v]) fun c => { c with cfg := [(sid 0x01 4, en)] }
theorem test_powerState : let s := sleeps 1 1; stands s 0x0600 .supervisors 4 false (cmd 0x0600 [1]) [] ∧ s.core.acceptedHands = [] ∧ s.core.wakeEnable &&& wakeBits .standby ≠ 0
    ∧ (nx (exec (.powerState q0) s)).core.power.request = some (q0, .standby) ∧ (nx (exec (.powerState q0) s)).core.quiet (.bunch 63) = true
    ∧ nx (exec (.powerState q0) (sleeps 0 0)) = answered (sleeps 0 0) (ok []) ∧ nx (exec (.powerState q0) (sleeps 2 0)) = answered (sleeps 2 0) (badParam 0x91 0) := by
  unfold stands; decide +kernel
theorem test_powerOff_island : let s := { sleeps 3 1 with isl := { State.reset.isl with prog := .running } }
    stands s 0x0600 .supervisors 4 false (cmd 0x0600 [3]) [] ∧ powerOf 3 = some .off
    ∧ nx (exec (.powerState q0) s) = answered s (conflict 0x61 0) := by unfold stands; decide +kernel
theorem test_powerEntry : let s := after fun c => { c with power := { c.power with request := some (q0, .watch) } }; let t := nx (exec .powerEntry s)
    t.core.aon.power = .watch ∧ t.core.aon.pwrEn = false ∧ t.core.time.running = false ∧ t.core.resumeRec.isSome = true := by decide +kernel
theorem test_powerEntry_off : let s (m : Bool) := live fun c => { c with power := { c.power with request := some (q0, .off) }, store := { c.store with mirrored := m } }
    (nx (exec .powerEntry (s true))).core.aon.power = .off ∧ (nx (exec .powerEntry (s true))).core.mem = [] ∧ nx (exec .powerEntry (s false)) = s false := by decide +kernel
/-- The device has been in a state for long enough, and every source may wake it. -/
def lowOn (p : PowerState) (f : Aon → Aon := id) : State := set_ [(sid 0x01 4, 0xFFFFFFFF), (sid 0x01 8, 0x44)] fun c =>
  { c with aon := f { c.aon with power := p, pwrEn := false, pgood := false, ticks := 3, tries := 0, alarm := 2 } }
def woke (t : State) (u : Word) : Bool := decide (t.core.aon.power = .starting) && t.core.aon.pwrEn && decide (t.core.aon.wakeStat = u)
theorem test_wake : let s := lowOn .standby; s.core.inWindow = false ∧ s.core.wakesBy 0x10 = 0x10
    ∧ woke (nx (exec (.wake 0x10) s)) 0x10 = true ∧ s.core.wakesBy 0x80 = 0 ∧ nx (exec (.wake 0x80) s) = s
    ∧ woke (nx (exec .rtcAlarm s)) 0x800 = true ∧ s.core.wakeAddr = 0x44 ∧ woke (nx (exec (.mgmtAddressMatch 0x44) s)) 1 = true
    ∧ nx (exec (.mgmtAddressMatch 0x45) s) = s := by decide +kernel
theorem test_offWake : (lowOn .off).core.wakesBy 8 = 8 ∧ woke (nx (exec (.offWake 8) (lowOn .off))) 8 = true := by decide +kernel
theorem test_watchCycle : let s := lowOn .watch fun o => { o with watchCh := [(2, 0x80640010)] }
    s.core.watchTrips [0, 0, 15, 0] 0 = true ∧ woke (nx (exec (.watchCycle [0, 0, 15, 0] 0) s)) 0x8000 = true
    ∧ s.core.watchTrips [0, 0, 16, 0] 0 = false ∧ (nx (exec (.watchCycle [0, 0, 16, 0] 0) s)).core.aon.watchN = 1
    ∧ (nx (exec (.watchCycle [0, 0, 16, 0] 0) s)).core.aon.power = .watch := by decide +kernel
theorem test_watchCycle_illFormed : exec (.watchCycle [0] 0) State.reset = .fault .illFormed := rfl
theorem test_pgood : let s := lowOn .starting fun o => { o with pwrEn := true, tries := 3, back := .off }
    (nx (exec .pgoodRise s)).core.aon.power = .run ∧ (nx (exec .pgoodTimeout s)).core.aon.power = .off
    ∧ (nx (exec .powerUpRetry (lowOn .starting))).core.aon.tries = 1 ∧ (nx (exec .powerUpRetry (lowOn .starting))).core.aon.pwrEn = true := by decide +kernel
theorem test_dip : let t := nx (exec (.dipStart 15) State.reset); t.core.aon.dipCount = 1 ∧ t.core.aon.dipIn = 8 ∧ t.core.aon.inDip = true
    ∧ (nx (exec (.dipEnd 23 7) t)).core.aon.dipOut = 16 ∧ (nx (exec (.dipEnd 23 7) t)).core.aon.minv = 7 := by decide +kernel
theorem test_watchCfg : let bs : List Byte := [32, 0, 0] ++ List.replicate 133 0; let x := cmdIn 0x0602 [] bs; let s := ask x
    s.core.cmdCheck q0 x { opc := 0x0602, who := .supervisors, needs := true, inLen := some 136 } = none ∧ (s.core.readIn q0 x).1 = some (bs, false)
    ∧ (nx (exec (.watchCfg q0) s)).core.aon.watchCfg = 32 := by decide +kernel

/-! Further clauses of ErrorsAndQuiesce to PowerStates. -/

/-- The command answers with a status. -/
def status (o : Out) (st : BitVec 16) (s : State) : Bool := decide (nx o = answered s ⟨st, []⟩)
theorem test_errRead_more : let x := cmdIn 0x0700 [0, 0] []; let y := cmdIn 0x0700 [0, 1024] []
    status (exec (.errRead q0) (ask x)) 0x0101 (ask x) = true ∧ nx (exec (.errRead q0) (ask y)) = answered (ask y) ⟨0, [0, 0, 0, 0, 0, 0, 0]⟩ := by decide +kernel
theorem test_errWriters : let s := loggedOne
    (sp (nx (exec (.errLogAckWrite (.sprig g5) 1) s))).state = .frozen ∧ nx (exec (.errLogAckWrite hostF 1) s) = s
    ∧ s.core.seesAll (.host 1) = false ∧ (shown (nx (exec (.errLostRead (.host 1)) s)) (.host 1)).value = 0 ∧ nx (exec .errHostCopy s) = s := by decide +kernel
theorem test_quiesceCut_bunch : cutName (.bunch 1) = some (1, 1) ∧ (cutting (.bunch 1)).core.quietSince (.bunch 1) = some 0
    ∧ (cutting (.bunch 1)).core.power.inReset = [] := by decide +kernel
theorem test_quiesceCut_units : let t := nx (exec (.quiesceCut (.ethPort 3)) (cutting (.ethPort 3) fun c => c.setEth 3 { Eth.reset with rxdrop := 7 }))
    let u := nx (exec (.quiesceCut (.cxpConn 4)) (cutting (.cxpConn 4) fun c => c.setCxp 4 { Cxp.reset with drop := 7 }))
    let v := nx (exec (.quiesceCut (.tlPort 2)) (cutting (.tlPort 2) fun c => c.setTlPort 2 { TlPort.reset with crcErr := 7 }))
    t.core.eth 3 = Eth.reset ∧ t.core.power.inReset = [.ethPort 3] ∧ u.core.cxp 4 = Cxp.reset ∧ u.core.power.inReset = [.cxpConn 4]
    ∧ v.core.tlPort 2 = TlPort.reset ∧ v.core.power.inReset = [.tlPort 2] := by decide +kernel
theorem test_quiesceCut_rest : let t := nx (exec (.quiesceCut (.posy 3)) (cutting (.posy 3))); let u := nx (exec (.quiesceCut (.remote 9)) (cutting (.remote 9)))
    let v := nx (exec (.quiesceCut (.hostPair 90)) (cutting (.hostPair 90) fun c => c.setHqp 90 { Hqp.reset with itail := 3 }))
    t.core.quiet (.posy 3) = false ∧ t.core.epochOf (.posy 3) = 1 ∧ (u.core.peer 9).st = .lost ∧ v.core.hqp 90 = Hqp.reset
    ∧ State.reset.core.isCmdPair 90 = false := by decide +kernel
theorem test_quiesceCut_early : let s := after fun c => { c with quiesce := [(.sprig g5, 1)], time := { c.time with dtime := 80000 } }
    (s.core.time.dtime - 1).toNat = 79999 ∧ nx (exec (.quiesceCut (.sprig g5)) s) = s ∧ nx (exec (.quiesceCut (.sprig 38)) s) = s := by decide +kernel
theorem test_closeCard_pair : let s := after fun c => { c with hchans := [(90, { Chan.reset with close := some (5, 3), credit := 2, isOpen := true })] }
    let t := nx (exec (.closeCard (.hostPair 90) 5) s)
    s.core.handleHeld (s.core.hqpReg 90 0x0C) = false ∧ (t.core.hchan 90).close = none ∧ (t.core.hchan 90).credit = 1 ∧ t.core.fly.length = 1
    ∧ nx (exec (.closeCard (.hostPair 90) 4) s) = s := by decide +kernel
theorem test_unitFatal_more : let s := after fun c => { c with quiesce := [(.posy 3, 0)] }
    nx (exec (.unitFatal (.posy 3) info1) s) = s.on (s.core.log { info1 with cls := 2 })
    ∧ (nx (exec (.unitFatal (.bunch 0) info1) State.reset)).core.fatal = some { info1 with cls := 3 } := by decide +kernel
theorem test_resets_ignored : let s := live fun c => { c with power := { c.power with coreReset := true } }
    (nx (exec (.sysrstN 1000) s)).core.aon.causes = 1 ∧ nx (exec (.deviceFatal info1) s) = s ∧ nx (exec .watchdogExpiry s) = s
    ∧ nx (exec (.resetRelease .core) live) = live ∧ nx (exec (.resetRelease (.channel 3)) live) = live
    ∧ (let u := live fun c => { c with aon := { c.aon with power := .off } }; nx (exec (.brownout true) u) = u ∧ nx (exec (.sysrstN 1000) u) = u)
    ∧ (let v := live fun c => { c with aon := { c.aon with power := .watch } }
      (nx (exec (.sysrstN 1000) v)).core.aon.power = .starting ∧ (nx (exec (.sysrstN 1000) v)).core.aon.back = .watch ∧ (nx (exec (.sysrstN 1000) v)).core.power.coreReset = true) := by
  decide +kernel
theorem test_rstUnit_more : unitOf 0x80000000 = none ∧ (nx (exec (.rstUnit hostF 0x80000000) live)).core.quiesce = [] ∧ logged (nx (exec (.rstUnit hostF 0x80000000) live)) = some 7
    ∧ unitOf 0xC0000024 = none ∧ unitOf 0x90000008 = none ∧ unitOf 0x90000007 = some (.ethPort 7) ∧ unitOf 0xD0000000 = none
    ∧ logged (nx (exec (.registerWrite hostF 0x6000300010 9) live)) = some 7 ∧ (nx (exec (.registerWrite hostF 0x6000300010 9) live)).core.power.wdogMs = 1000 := by decide +kernel
theorem test_rstCause : let s := live fun c => { c with aon := { c.aon with causes := 5, count := 2 }, power := { c.power with porst := true } }
    (shown (nx (exec (.lowWordRead hostF 0x6000300000) s)) hostF).value = 0x0200000B
    ∧ (nx (exec (.registerWrite hostF 0x6000300000 3) s)).core.aon.causes = 4 ∧ (nx (exec (.registerWrite hostF 0x6000300000 3) s)).core.power.porst = false := by decide +kernel
theorem test_asyncWake_more : nx (exec (.asyncWake (.mem 36)) live) = live ∧ nx (exec (.asyncWake (.mem 35)) live) = live ∧ nx (exec (.asyncWake .pcie) live) = live
    ∧ nx (exec (.crossingResync (.eventLatch g5 7) false) live) = live.on (live.core.setCrossing g5 7 LatchX.reset) := by decide +kernel
theorem test_bootRom_more : (let s := romOn fun x => { x with bootDis := 2, recovDis := true }; let t := nx (exec (.bootRom 2) s)
      t.core.boot.src = 0 ∧ t.core.boot.strap = 2 ∧ t.core.boot.phase = .failed)
    ∧ (let s := State.reset; s.core.memSettled = false ∧ (nx (exec (.bootRom 1) s)).core.boot.src = 1 ∧ (nx (exec (.bootRom 1) s)).core.boot.phase = .rom)
    ∧ (let s := after fun c => { c with boot := { c.boot with phase := .waitLoader } }; nx (exec (.bootRom 0) s) = s ∧ s.core.goRecord = none ∧ nx (exec .goRecord s) = s)
    ∧ (let s := romOn fun x => { x with slotA := { st := .tried }, recovDis := true }; (nx (exec (.bootRom 0) s)).sec.slotA.st = .empty) := by decide +kernel
theorem test_recovery_ignored : nx (exec (.recoveryLoad 2000) State.reset) = State.reset ∧ nx (exec (.recoveryLoad 16777153) (recovers none)) = recovers none
    ∧ (nx (exec (.recoveryLoad 16777152) (recovers none))).core.boot.expect = some 16777152 ∧ nx (exec (.recoveryLoadFrame [] 0) (recovers none)) = recovers none
    ∧ nx (exec .resume State.reset) = State.reset := by decide +kernel
theorem test_bunch_ignored : let s := idles fun p => { p with waking := 32 }
    nx (exec (.bunchIdleExpiry 5) s) = s ∧ nx (exec (.bunchIdleExpiry 5) (set_ [(sid 0x01 0x40, 0)])) = set_ [(sid 0x01 0x40, 0)] ∧ nx (exec (.firstAccess 5) s) = s ∧ nx (exec (.bunchWakeRelease 6) s) = s
    ∧ (let x := cmd 0x0601 [6, 0, 3]; status (exec (.bunchHold q0) (ask x)) 0x0101 (ask x) = true)
    ∧ (let u := idles fun p => { p with prep := 32, hold := 33 }; (nx (exec (.bunchGated 5) u)).core.power.prep = 0 ∧ (nx (exec (.bunchGated 5) u)).core.power.gated = 0) := by decide +kernel
theorem test_powerState_more : let s := sleeps 1 1; let busy := s.on { s.core with power := { s.core.power with request := some (q0, .watch) } }
    status (exec (.powerState q0) busy) 0x0400 busy = true ∧ status (exec (.powerState q0) (sleeps 4 1)) 0x0101 (sleeps 4 1) = true := by decide +kernel
theorem test_powerEntry_waits : let s := after fun c => (c.setLease 0 2 { Lease.reset with st := .active }); let t := s.on { s.core with power := { s.core.power with request := some (q0, .watch) } }
    nx (exec .powerEntry t) = t ∧ nx (exec .powerEntry s) = s
    ∧ (let u := after fun c => { c with power := { c.power with request := some (q0, .watch) }, quiesce := [(.ethPort 3, 0)], time := { c.time with dtime := 79999 } }
      nx (exec .powerEntry u) = u)
    ∧ (let v := after fun c => { c.setGdc 35 { Gdc.reset with st := .ready } with power := { c.power with request := some (q0, .watch) } }
      (nx (exec .powerEntry v)).core.quiesce = [(.channel 35, 0)] ∧ (nx (exec .powerEntry v)).core.aon.power = .run) := by decide +kernel
theorem test_wake_window : let s := lowOn .watch fun o => { o with entry := 1, ticks := 3 }
    s.core.inWindow = true ∧ (nx (exec (.wake 0x30) s)).core.aon.early = 0x30 ∧ (nx (exec (.wake 0x30) s)).core.aon.power = .watch
    ∧ (nx (exec (.wake 0x2001) s)).core.aon.early = 0 ∧ nx (exec (.wake 0x10) State.reset) = State.reset ∧ nx (exec (.offWake 8) State.reset) = State.reset
    ∧ nx (exec .rtcAlarm State.reset) = State.reset ∧ nx (exec (.watchCycle [0, 0, 0, 0] 0) s) = s ∧ nx (exec .pgoodRise State.reset) = State.reset
    ∧ nx (exec .powerUpRetry State.reset) = State.reset := by decide +kernel
theorem test_dip_more : nx (exec (.dipEnd 8 0) State.reset) = State.reset
    ∧ (let t := nx (exec (.dipStart 15) State.reset); nx (exec (.dipStart 99) t) = t) := by decide +kernel

/-! ### TeinglinkLinks, TeinglinkPairs, SystemTime -/

/-- Port 1 is enabled; its state is as given. -/
def linked (x : TlPort) (f : Core → Core := id) : State := set_ [(sid 0x10 0x40000, 0x80000000)] fun c => f (c.setTlPort 1 x)
def flit (lseq : BitVec 12) (kind : BitVec 3) (dst : DeviceId) : Flit :=
  { lseq := lseq, lack := 0, ackv := false, cls := 0, vc := 0, kind := kind, dst := dst, src := 9, poison := false, op := 0, pseq := 0, pepoch := 0,
    partEpoch := 0, payload := [], side := [] }
def isUp : TlPort := { st := .up, tx := 7, rx := 5, buf := [(6, .heartbeat 9)], crcErr := 2, replays := 3, delay := 11 }
theorem test_tlLinkDown : let t := nx (exec (.tlLinkDown 1) (linked isUp)); (t.core.tlPort 1).st = .down ∧ (t.core.tlPort 1).buf = []
    ∧ t.core.tl.wait = [.heartbeat 9] ∧ logged t = some 0x0100 := by decide +kernel
theorem test_nak : let s := linked isUp; nx (exec (.nak 1 6) s) = s.on (s.core.setTlPort 1 { isUp with replays := 4, stuck := 1 })
    ∧ nx (exec (.nak 1 9) s) = s
    ∧ let u := linked { isUp with stuck := 15 }; ((nx (exec (.nak 1 7) u)).core.tlPort 1).st = .down := by decide +kernel
theorem test_flitReceive : let s := linked isUp; (s.core.portState 1).code = 3
    ∧ ((nx (exec (.flitReceive 1 (flit 5 3 0) false) s)).core.tlPort 1).crcErr = 3
    ∧ ((nx (exec (.flitReceive 1 (flit 5 3 9) true) s)).core.tlPort 1).rx = 6 ∧ (nx (exec (.flitReceive 1 (flit 5 3 9) true) s)).core.tl.wait = [.forward (flit 5 3 9) 1]
    ∧ ((nx (exec (.flitReceive 1 (flit 4 3 9) true) s)).core.tlPort 1).nakked = true := by decide +kernel
theorem test_tlTraining : let s := linked {}; s.core.portState 1 = .training
    ∧ let t := nx (exec (.tlTrainingDone 1) s); (t.core.tlPort 1).st = .idcheck ∧ (t.core.tlPort 1).buf = [(0, .ident ⟨0, 0, 0, 1, 0⟩)] := by decide +kernel
theorem test_idcheck : let s := linked { st := .idcheck }; let i : Ident := ⟨9, 0, 0, 3, 8⟩; s.core.portState 1 = .idcheck ∧ s.core.tlSysid = 0 ∧ s.core.boot.phase ≠ .waitLoader
    ∧ ((nx (exec (.idcheck 1 i false) s)).core.tlPort 1).st = .up ∧ ((nx (exec (.idcheck 1 i false) s)).core.tlPort 1).nbrPort = 3
    ∧ ((nx (exec (.idcheck 1 { i with sysid := 4 } false) s)).core.tlPort 1).cause = 1 ∧ ((nx (exec (.idcheck 1 i true) s)).core.tlPort 1).cause = 2 := by decide +kernel
theorem test_tlSetId : let x := cmd 0x0900 [300]; let s := ask x; stands s 0x0900 .supervisors 4 false x [] ∧ (∀ t, s.core.portState t = .down)
    ∧ s.core.namesOther = false ∧ (nx (exec (.tlSetId q0) s)).core.dev = 300 := by unfold stands; decide +kernel
theorem test_tlSetId_conflict : let x := cmd 0x0900 [300]; let s := ask x fun c => { c with cfg := [(sid 0x10 0x40000, 0x80000000)] }
    stands s 0x0900 .supervisors 4 false x [] ∧ s.core.portState 1 ≠ .down ∧ nx (exec (.tlSetId q0) s) = answered s (conflict 0xA1 0) := by
  unfold stands; decide +kernel
theorem test_tlRoute : let x := cmd 0x0901 [0x50003, 0, 4, 0, 1]; let s := ask x open3; stands s 0x0901 .supervisors 20 false x []
    ∧ s.core.findHand 0x50003 = some 3 ∧ (s.core.hand 3).owner = s.core.ownerOf q0
    ∧ ((Topology.ring 4).entries 0 fun j => cfgGet s.core.cfg (sid 0x10 (0x40000 * j))).findSome? (fun e => s.core.settingFault (s.core.hand 3) e.1 e.2) = none
    ∧ (((nx (exec (.tlRoute q0) s)).core.hand 3).entries.map HandEntry.val) = [0x80000000, 0x80000000, 0x80000040, 0, 0x40000000, 0, 0] := by
  unfold stands; decide +kernel
theorem test_tlStatus : let x := cmd 0x0902 [1]; let s := ask x fun c => { c.setTlPort 1 isUp with cfg := [(sid 0x10 0x40000, 0x80000000)] }
    stands s 0x0902 .supervisors 4 false x []
    ∧ nx (exec (.tlStatus q0) s) = s.on ((s.core.setTlPort 1 { isUp with crcErr := 0, replays := 0 }).answerCmd q0 (ok [0x60000000, 0, 11, 0x00020003])) := by
  unfold stands; decide +kernel
theorem test_sysStatus : let x := cmdIn 0x0903 [] []; let s := ask x; stands s 0x0903 .supervisors 0 true x []
    ∧ (nx (exec (.sysStatus q0) s)).core.cmds = [] := by unfold stands; decide +kernel

/-- Device 9, reachable by port 1, and the pair with it. -/
def paired (x : PairRec) (f : Core → Core := id) : State :=
  set_ [(sid 0x10 0x40000, 0x80000000), (sid 0x10 (0x20000 + 36), 0x80000040)] fun c => f ((c.setTlPort 1 { st := .up }).setPeer 9 x)
def msg (pseq : BitVec 16) (e : Byte) : PairMsg := ⟨pseq, e, .credit (.chan 0 g5 2) 0 false⟩
theorem test_pairMessage : let s := paired { rx := 5, pepoch := 2 }
    (let t := nx (exec (.pairMessageAccept 9 (msg 5 2)) s); (t.core.peer 9).rx = 6 ∧ t.core.tl.wait = [.ack 9 5] ∧ t.core.fly.length = 1)
    ∧ (let t := nx (exec (.pairMessageAccept 9 (msg 7 2)) s); (t.core.peer 9).nakked = true ∧ t.core.tl.wait = [.nak 9 5] ∧ t.core.fly = [])
    ∧ nx (exec (.pairMessageAccept 9 (msg 5 1)) s) = s := by decide +kernel
/-- Device 9 reports that it committed in isolation the hand that this coordinator folded (R367). -/
theorem test_split : let y : SysHand := { mask := 0x201, coordinator := 0, hand := 0x50003, decided := some false }
    let s := paired { rx := 5 } fun c => c.setHand 3 { Hand.reset with st := .folded, serial := 5, sys := some y }
    let t := nx (exec (.pairMessageAccept 9 ⟨5, 0, .isolated 0x50003⟩) s)
    s.core.findHand 0x50003 = some 3 ∧ y.mask.getLsbD 9 = true ∧ (t.core.hand 3).status = 0x0503 ∧ (t.core.hand 3).detail = 0x77
    ∧ t.core.store.split = true := by decide +kernel
theorem test_pairRetransmit : ((nx (exec (.pairRetransmit 9) (paired { sent := 4 }))).core.peer 9).sent = 0 := by decide +kernel
/-- A card of channel 2 waits to leave for device 9: the pair is active. -/
def busyPair (x : PairRec) : State := paired x fun c => { c with fly := [⟨0, 0, .toRemote ((0x04800003 : Word)) { w := ⟨0, 0, 0, 0, 0, 0, 0, 0⟩, route := .chan 0 g5 2 } false⟩] }
theorem test_tlHeartbeat : let s := busyPair { pepoch := 255 }; s.core.pairState 9 = .active ∧ (nx (exec (.heartbeat 9) s)).core.tl.wait = [.heartbeat 9]
    ∧ (paired {}).core.pairState 9 = .idle ∧ nx (exec (.heartbeat 9) (paired {})) = paired {} ∧ nx (exec (.tlPeerLost 9) (paired {})) = paired {} := by decide +kernel
theorem test_peerLost : let t := nx (exec (.tlPeerLost 9) (busyPair { pepoch := 255, rx := 4, sent := 1 }))
    (t.core.peer 9).st = .lost ∧ (t.core.peer 9).pepoch = 0 ∧ (t.core.peer 9).rx = 0 ∧ logged t = some 0x0102 := by decide +kernel
theorem test_pairSync : let t := nx (exec (.pairSync 9 3 7 [(5, 2)]) (paired { st := .syncing, pepoch := 3, inc := 7, rx := 4 }))
    (t.core.peer 9).st = .idle ∧ (t.core.peer 9).rx = 0 ∧ (t.core.peer 9).pepoch = 3 ∧ logged t = some 0x0103 := by decide +kernel
/-- Window 2 opens the page at 0x1000 to device 9 for reads and writes. -/
def window : State := memReady (set_ [(sid 0x10 0x21120, 0xE0000009), (sid 0x10 0x21124, 1), (sid 0x10 0x21128, 1)])
def peerReq (a : Addr) (d : Option (List Byte)) : MemReq := { addr := a, len := 4, data := d, poisoned := false, who := .peer 9 }
theorem test_remoteRequest : let s := window; s.core.windowOpens 9 0x1FFC 4 true = true ∧ s.core.windowOpens 9 0x2000 4 true = false ∧ s.core.rangeAvail 0x1FFC 4 = .ok
    ∧ (nx (exec (.remoteRequest 9 (peerReq 0x1FFC (some [1, 2, 3, 4]))) s)).core.bytes 0x1FFB 6 = [0, 1, 2, 3, 4, 0]
    ∧ (shown (nx (exec (.remoteRequest 9 (peerReq 0x1FFC none)) (withBytes s 0x1FFC [9]))) (.peer 9)).data = [9, 0, 0, 0]
    ∧ (nx (exec (.remoteRequest 9 (peerReq 0x2000 (some [1]))) s)).core.frozenMaster (.peer 9) = true
    ∧ (shown (nx (exec (.remoteRequest 9 (peerReq 0x2000 none)) s)) (.peer 9)).data = [0, 0, 0, 0] := by decide +kernel
/-- A descriptor at 0x40 of bunch 1's scratchpad: 16 bytes from device 9 to memory at 0x100. -/
def rdmaSet (f : Core → Core := id) : State :=
  let s := memReady (granted State.reset)
  s.on (f (s.core.setBytes (scratchBase 1 + 0x40) ([0, 0, 0x04C00000, 0x100, 0x00010010, 16, 16, 0].flatMap fun w : Word => bytesOf w 4)))
theorem test_rdmaSubmit : let s := rdmaSet; let j : RdmaJob := ⟨1, 0x40, ⟨0, 0, 0x04C00000, 0x100, 0x00010010, 16, 16, 0⟩, .sprig g5⟩
    s.core.asleep 1 = false ∧ cardFromBytes s.core (scratchBase 1 + 0x40) = j.words ∧ rdmaPlace 1 j.words = some .mem
    ∧ s.core.dmaGranted g5 .mem 0x100 16 1 16 true = true ∧ (s.core.unitRead whoTl (scratchBase 1 + 0x40) 32).2.1 = false
    ∧ let t := nx (exec (.tlRdmaSubmit (.sprig g5) 0x00200040) s)
      t.core.tl.rdma = [j] ∧ rdmaPeer j.words = 9
      ∧ (nx (exec (.rdmaDone false [] []) t)).core.tl.rdma = [] ∧ (nx (exec (.rdmaDone false [] []) t)).core.tl.rdmaDone = 1
      ∧ (nx (exec (.rdmaDone false [] []) (t.on (t.core.setPeer 9 { st := .lost })))).core.tl.rdmaDone = 0 := by decide +kernel

/-- Port 1 is up and leads to device 9; TL_SYNC names a root. -/
def timed (root : Word) (f : Core → Core := id) : State :=
  set_ [(sid 0x10 0x40000, 0x80000000), (sid 0x10 (0x20000 + 36), 0x80000040), (sid 0x10 0x21004, 0x80000000 ||| root)] fun c => f (c.setTlPort 1 isUp)
theorem test_timeExchange : let s := timed 0; s.core.portUp 1 = true ∧ s.core.time.qual ≠ qualFine
    ∧ (nx (exec (.timeExchange 1 ⟨100, 130, 140, 180, true⟩) s)).core.time.qual = qualFine
    ∧ s.core.portUp 2 = false ∧ nx (exec (.timeExchange 2 ⟨0, 0, 0, 0, true⟩) s) = s := by decide +kernel
theorem test_timeJoin : let s := timed 9; s.core.portFor 9 = some 1 ∧ s.core.dev ≠ 9
    ∧ logged (nx (exec (.timeJoin 80000001) s)) = some 0x0104
    ∧ (nx (exec (.timeJoin 80000000) s)).core.time.trim.toInt = -858993 ∧ (nx (exec (.timeJoin 80000000) s)).core.tl.joined = true
    ∧ s.core.stepAllowed (BitVec.ofInt 64 8001) = true ∧ (nx (exec (.timeJoin (-8001)) s)).core.time.dtime = 8001
    ∧ (nx (exec (.timeJoin (-8000)) s)).core.time.dtime = 0 ∧ (nx (exec (.timeJoin 8000) s)).core.tl.joined = true
    ∧ nx (exec (.timeJoin 9000) (timed 0)) = timed 0 := by decide +kernel
theorem test_timeSync : let x := cmd 0x0502 []; let s := ask x fun c => { c with tl := { c.tl with offsets := [5], fine := 3 } }
    stands s 0x0502 .supervisors 0 false x [] ∧ s.core.tlSync.setWidth 9 = s.core.dev
    ∧ (nx (exec (.timeSync q0) s)).core.tl.offsets = [] ∧ (nx (exec (.timeSync q0) s)).core.tl.fine = 0 := by unfold stands; decide +kernel

/-! ### FusesAndAttestation, FirmwareUpdate -/

/-- The device after reset with other fuses. -/
def fused (f : Sec → Sec) (g : Core → Core := id) : State := { after g with sec := f State.reset.sec }
def ext (d : Core → Core := id) : Core → Core := fun c => d { c with boot := { c.boot with ext := [(0, 0x11223344)] } }
def go (f i : Word) : Word := 0x80000000 ||| (f <<< 24) ||| i
theorem test_rbAdv : let t := nx (exec (.secRbAdv st1 0x80000540) (fused fun x => { x with vendorRb := 7 })); t.sec.vendorRb = 7 ∧ t.sec.ownerRb = 64
    ∧ logged t = some 0x0112 ∧ nx (exec (.secRbAdv st1 0x540) State.reset) = State.reset
    ∧ (sp (nx (exec (.secRbAdv (.sprig g5) 0x80000540) State.reset))).state = .frozen ∧ (nx (exec (.secRbAdv (.sprig g5) 0x80000540) State.reset)).sec = State.reset.sec := by
  decide +kernel
theorem test_measExt : let s := after fun c => { c with boot := { c.boot with phase := .handedOver } }
    (nx (exec (.secMeasExt st1 0x80000004) s)).core.boot.meas = s.core.boot.meas
    ∧ isSteward 1 = true ∧ field (0x80000005 : Word) 0 4 = 5 := by decide +kernel
theorem test_otpOwner : let t := nx (exec (.otpOwnerHash st1 (go 0 3)) (fused id ext)); t.sec.ownSet = 8 ∧ t.sec.life = .owned ∧ t.sec.ownHash[3]! = 0x11223344
    ∧ t.core.boot.otpRefused = false ∧ (nx (exec (.otpOwnerHash st1 (go 0 3)) t)).core.boot.otpRefused = true := by decide +kernel
theorem test_otpRevoke : let s := fused fun x => { x with ownSet := 3 }; let t := nx (exec (.otpRevokeOwner st1 (go 1 0)) s); t.sec.ownRev = 1
    ∧ (nx (exec (.otpRevokeOwner st1 (go 1 1)) t)).sec = t.sec ∧ (nx (exec (.otpRevokeOwner st1 (go 1 1)) t)).core.boot.otpRefused = true
    ∧ (nx (exec (.otpRevokeVendor st1 (go 2 3)) s)).sec.vendRev = 8
    ∧ (nx (exec (.otpRevokeVendor st1 (go 2 3)) (fused fun x => { x with vendRev := 7 }))).core.boot.otpRefused = true := by decide +kernel
theorem test_otpRest : let t := nx (exec (.otpDebugHash st1 (go 3 0)) (fused id ext)); t.sec.dbgHash = 0x11223344 ∧ t.sec.dbgSet = true
    ∧ (nx (exec (.otpDebugHash st1 (go 3 0)) t)).core.boot.otpRefused = true
    ∧ (nx (exec (.otpBootDis st1 (go 4 5)) t)).sec.bootDis = 5 ∧ (nx (exec (.otpRecovDis st1 (go 5 0)) t)).sec.recovDis = true
    ∧ (nx (exec (.retire st1 (go 6 0)) t)).core.boot.otpRefused = true
    ∧ (nx (exec (.retire st1 (go 6 0)) (fused fun x => { x with life := .owned }))).sec.life = .retired := by decide +kernel
/-- The head of the admin queue, on a device with other fuses and boot state. -/
def secAsks (x : Cmd) (f : Sec → Sec) (g : Boot → Boot := id) : State := { ask x (fun c => { c with boot := g c.boot }) with sec := f State.reset.sec }
theorem test_attestQuote : let x := cmdIn 0x0A00 [] (List.replicate 32 7); let s := secAsks x fun y => { y with life := .retired }
    stands s 0x0A00 .functions 0 true x (List.replicate 32 7) ∧ s.core.cmdCheck q0 x { opc := 0x0A00, who := .functions, needs := true, inLen := some 32 } = none
    ∧ nx (exec (.attestQuote q0) s) = answered s ⟨stDenied, []⟩ := by unfold stands; decide +kernel
theorem test_measRead : let x := cmdIn 0x0A01 [] []; let s := ask x; stands s 0x0A01 .functions 0 true x [] ∧ (nx (exec (.measRead q0) s)).core.cmds = [] := by
  unfold stands; decide +kernel
theorem test_certRead : let x := cmdIn 0x0A02 [1] []; let s := secAsks x fun y => { y with certs := [none, some [5, 6]] }
    stands s 0x0A02 .functions 4 true x [] ∧ nx (exec (.certRead q0) s) = s.on (s.core.bulkAnswer q0 x [] [5, 6]) := by unfold stands; decide +kernel

theorem test_fwBegin : let x := cmd 0x0B00 [1000]; let s := secAsks x fun y => { y with slotA := { st := .active, bytes := [1] } , slotB := { st := .previous, bytes := [2] } }
    stands s 0x0B00 .pf 4 false x [] ∧ s.onTrial = false
    ∧ let t := nx (exec (.fwBegin q0) s)
      t.core.boot.upd = some 1000 ∧ t.sec.slotB = {} ∧ t.sec.slotA.bytes = [1] := by unfold stands; decide +kernel
theorem test_fwBegin_state : let x := cmd 0x0B00 [1000]; let s := secAsks x id fun b => { b with upd := some 5 }
    stands s 0x0B00 .pf 4 false x [] ∧ nx (exec (.fwBegin q0) s) = s.on (s.core.answerCmd q0 s.fwState) := by unfold stands; decide +kernel
theorem test_fwChunk : let x := cmdIn 0x0B01 [0] [7, 8]; let s := secAsks x id fun b => { b with upd := some 2 }
    stands s 0x0B01 .pf 4 true x [7, 8] ∧ (nx (exec (.fwChunk q0) s)).sec.idleSlot.bytes = [7, 8]
    ∧ let u := secAsks x id fun b => { b with upd := some 1 }
      nx (exec (.fwChunk q0) u) = answered u (badParam 0xB2 0) := by unfold stands; decide +kernel
theorem test_fwStage : let x := cmd 0x0B02 [0, 0]; let s := secAsks x id fun b => { b with upd := some 2 }; stands s 0x0B02 .pf 8 false x []
    ∧ s.sec.checkBundle [] = .error (255, failFormat)
    ∧ nx (exec (.fwFinishStage q0) s) = answered s (badParam 0xB1 (num (256 * 255 + failFormat))) := by unfold stands; decide +kernel
/-- The idle slot B is on trial. -/
def trial (x : Cmd) : State := secAsks x (fun y => { y with slotA := { st := .active }, slotB := { st := .tried, bytes := [3] } }) fun b =>
  { b with trial := true, comps := [⟨0, 9, 1, 0⟩, ⟨4, 11, 1, 0⟩] }
theorem test_fwConfirm : let x (a : Word) := cmd 0x0B02 [1, a]; stands (trial (x 0)) 0x0B02 .pf 8 false (x 0) [] ∧ stands (trial (x 1)) 0x0B02 .pf 8 false (x 1) []
    ∧ (trial (x 0)).onTrial = true
    ∧ (let t := nx (exec (.fwFinishConfirm q0) (trial (x 0))); t.sec.slotB.st = .active ∧ t.sec.slotA.st = .previous ∧ t.sec.vendorRb = 0 ∧ t.core.boot.trial = false)
    ∧ (nx (exec (.fwFinishConfirm q0) (trial (x 1)))).sec.vendorRb.toNat = lowestRbi (trial (x 1)).core.boot.comps false := by unfold stands; decide +kernel
theorem test_fwAbort : let x := cmd 0x0B03 []; let s := secAsks x id fun b => { b with upd := some 5, trial := true }; stands s 0x0B03 .pf 0 false x []
    ∧ (nx (exec (.fwAbort q0) s)).core.boot.upd = none ∧ (nx (exec (.fwAbort q0) s)).core.boot.trial = false
    ∧ let u := secAsks x fun y => { y with slotA := { st := .active }, slotB := { st := .previous } }
      u.sec.idleSlot.st = .previous ∧ nx (exec (.fwAbort q0) u) = u.on (u.core.answerCmd q0 u.fwState) := by unfold stands; decide +kernel

/-! Further clauses of TeinglinkLinks to FirmwareUpdate, and of the monitor's commands. -/

theorem test_links_ignored : let s := linked {}; nx (exec (.flitReceive 1 (flit 5 3 0) true) s) = s ∧ nx (exec (.idcheck 1 ⟨9, 0, 0, 3, 8⟩ false) s) = s
    ∧ nx (exec (.tlTrainingDone 2) s) = s ∧ (let u := linked isUp; ((nx (exec (.flitReceive 1 (flit 9 5 0) true) u)).core.tlPort 1).replays = 4
      ∧ nx (exec (.flitReceive 1 (flit 9 0 0) true) u) = u) := by decide +kernel
theorem test_tlCommands : let x := cmd 0x0900 [512]; let y := cmd 0x0902 [4]; let z := cmd 0x0901 [0x50003, 0, 4, 0, 4]
    let r := ask z open3
    status (exec (.tlSetId q0) (ask x)) 0x0101 (ask x) = true ∧ status (exec (.tlStatus q0) (ask y)) 0x0101 (ask y) = true
    ∧ status (exec (.tlRoute q0) (ask z)) 0x0201 (ask z) = true ∧ status (exec (.tlRoute q0) r) 0x0101 r = true
    ∧ (let u := ask z (open3 fun h => { h with st := .pending }); status (exec (.tlRoute q0) u) 0x0201 u = true) := by decide +kernel
/-- A message of device 9 with the next pair sequence, under the current epoch. -/
def takes (b : PairBody) (x : PairRec := { rx := 5, pepoch := 2 }) (f : Core → Core := id) : State :=
  nx (execPairMessageAccept 9 ⟨5, 2, b⟩ (paired x f))
theorem test_pairAck : let x : PairRec := { rx := 5, pepoch := 2, acked := 3, sent := 2 }
    (paired x).core.peer 9 = x ∧ ((takes (.ack 4) x).core.peer 9).sent = 0 ∧ ((takes (.ack 4) x).core.peer 9).acked = 5
    ∧ takes (.ack 7) x = paired x ∧ ((takes (.nak 4) x).core.peer 9).sent = 1 ∧ takes (.nak 6) x = paired x ∧ takes .heartbeat x = paired x := by decide +kernel
theorem test_pairBodies : (takes (.resolution (.chan 0 g5 2) 0 true none 0)).core.fly.length = 1 ∧ (takes (.notice (.chan 0 g5 2) 3 true)).core.fly.length = 1
    ∧ (takes (.hold 7 false)).core.farHeld = [(9 * 1024 + 7, true)] ∧ (takes (.hold 7 false)).core.fly.length = 1
    ∧ ((takes (.holdAck 7)).core.fly.map Flight.parcel) = [.hold 9 7 true]
    ∧ ((takes (.card (qi.setWidth 32) ⟨0x41000000, 1, 2, 3, 4, 5, 6, 7⟩ 0 (.chan 9 g5 2) 0 0 none false)).core.fly.length) = 1
    ∧ (takes (.vote 0x50003 true 0 {})).core.hands = [] ∧ (takes (.decision 0x50003 true {})).core.hands = [] := by decide +kernel
/-- Hand 3 waits for the votes of devices 9 and 10. -/
def voting : Core → Core := fun c => { c with hands := [(3, { Hand.reset with
  serial := 5, st := .pending, sys := some { mask := 0x601, coordinator := 0, hand := 0x50003 } })] }
theorem test_pairVote : ((takes (.vote 0x50003 true 0 {}) { rx := 5, pepoch := 2 } voting).core.hand 3).sys.map SysHand.votes = some [(9, true, 0)] := by decide +kernel
theorem test_pair_dead : nx (exec (.pairMessageAccept 0 (msg 5 2)) (paired {})) = paired {} ∧ nx (exec (.pairSync 0 3 7 []) (paired {})) = paired {}
    ∧ nx (exec (.pairRetransmit 9) (paired { st := .lost, sent := 4 })) = paired { st := .lost, sent := 4 } := by decide +kernel
theorem test_remoteRequest_illFormed : exec (.remoteRequest 9 { peerReq 0x1000 none with len := 0 }) State.reset = .fault .illFormed := by rfl
theorem test_remoteRequest_more : (let s := nx (exec (.remoteRequest 9 (peerReq 0x2000 (some [1]))) window)
      s.core.frozenMaster (.peer 9) = true ∧ nx (exec (.remoteRequest 9 (peerReq 0x1000 (some [1]))) s) = s
      ∧ (shown (nx (exec (.remoteRequest 9 (peerReq 0x1000 none)) s)) (.peer 9)).abort = true) := by decide +kernel
theorem test_rdma_more : nx (exec (.rdmaDone false [] []) rdmaSet) = rdmaSet ∧ nx (exec (.tlRdmaSubmit hostF 0x00200040) rdmaSet) = rdmaSet
    ∧ (sp (nx (exec (.tlRdmaSubmit (.sprig g5) 0x00400040) rdmaSet))).state = .frozen := by decide +kernel
theorem test_time_more : let s := timed 0; s.core.dev = 0 ∧ nx (exec (.timeJoin 5) s) = s
    ∧ (let u := set_ [(sid 0x10 0x40000, 0x80000000), (sid 0x10 (0x20000 + 36), 0x80000040), (sid 0x10 0x21004, 0)] fun c => c.setTlPort 1 isUp
      (nx (exec (.timeExchange 1 ⟨100, 130, 140, 180, true⟩) u)).core.time.qual = u.core.time.qual)
    ∧ (let v := timed 9; (nx (exec (.timeExchange 1 ⟨100, 130, 140, 170, true⟩) v)).core.tl.fine = 1 ∧ (nx (exec (.timeExchange 1 ⟨100, 230, 140, 170, true⟩) v)).core.tl.fine = 0) := by
  decide +kernel
theorem test_rb_more : let s := fused fun x => { x with vendorRb := 9, ownerRb := 64 }; nx (exec (.secRbAdv st1 0x80000540) s) = s
    ∧ nx (exec (.secRbAdv hostF 0x80000540) s) = s ∧ nx (exec (.secMeasExt st1 4) s) = s ∧ nx (exec (.retire st1 (go 5 0)) s) = s
    ∧ (nx (exec (.otpOwnerHash st1 (go 0 4)) s)).core.boot.otpRefused = true := by decide +kernel
theorem test_certRead_more : let x := cmdIn 0x0A02 [2] []; let y := cmdIn 0x0A02 [1] []
    status (exec (.certRead q0) (ask x)) 0x0101 (ask x) = true ∧ nx (exec (.certRead q0) (ask y)) = answered (ask y) (conflict 0xB3 1) := by decide +kernel
theorem test_fw_more : let x := cmd 0x0B00 [0]; let y := cmdIn 0x0B01 [1] [7]; let z := cmd 0x0B02 [0, 2]; let w := cmd 0x0B02 [1, 2]; let u := cmd 0x0B02 [0, 0]
    let s := secAsks y id fun b => { b with upd := some 3 }
    status (exec (.fwBegin q0) (ask x)) 0x0101 (ask x) = true ∧ status (exec (.fwChunk q0) s) 0x0101 s = true
    ∧ (nx (exec (.fwChunk q0) (ask y))).core.cmds = [] ∧ status (exec (.fwFinishStage q0) (ask z)) 0x0101 (ask z) = true
    ∧ status (exec (.fwFinishConfirm q0) (ask w)) 0x0101 (ask w) = true ∧ nx (exec (.fwFinishConfirm q0) (ask u)) = ask u
    ∧ nx (exec (.fwFinishStage q0) (ask u)) = (ask u).on ((ask u).core.answerCmd q0 (ask u).fwState) := by decide +kernel

/-! ### MonitorCommands -/

/-- The Steward serves the monitor. -/
def mon (locked : Bool) (f : Core → Core := id) : State := after fun c => f { c with boot := { c.boot with steward := true, phase := .handedOver }, mon := { c.mon with locked := locked } }
def said (s : State) : Option MonReply := s.core.mon.answer
theorem test_monOpen : let s := mon true
    said (nx (exec (.monErr 1) s)) = some (.ok []) ∧ said (nx (exec (.monErr 1) (mon true fun c => c.log info1))) ≠ some (.ok [])
    ∧ said (nx (exec (.monErr 0) s)) = some (.er "range") ∧ said (nx (exec .monTime s)) = some (.ok [0, 0, 0, s.core.time.uncert])
    ∧ said (nx (exec (.monQ qi) s)) = some (.er "locked") ∧ said (nx (exec .pwr s)) = some (.er "locked") ∧ said (nx (exec (.peek 0 1) s)) = some (.er "locked")
    ∧ said (nx (exec (.regs g5) s)) = some (.er "locked") ∧ said (nx (exec .overrun s)) = some (.er "overrun") := by decide +kernel
theorem test_monId : (nx (exec .monId (mon true))).core.mon.answer = some (.text (mon true).monIdText) := by rfl
theorem test_monFree : let s := mon false
    said (nx (exec (.monQ qi) s)) = some (.ok [s.core.queueStat qi, s.core.qcfg qi]) ∧ (nx (exec .lock s)).core.mon.locked = true
    ∧ baudOk 921600 = true ∧ (nx (exec (.baud 921600) s)).core.mon.baud = 921600 ∧ (nx (exec (.baud 921600) (recovers none))).core.mon.baud = 921600 := by decide +kernel
theorem test_pwr : (said (nx (exec .pwr (mon false)))).isSome = true := by decide +kernel
/-- The debug key's hash is programmed, or is not. -/
def keyed (b : Bool) : State := { mon true with sec := { State.reset.sec with dbgSet := b } }
theorem test_unlock : (nx (exec (.unlock none) (keyed false))).core.mon.challenge = none ∧ said (nx (exec (.unlock none) (keyed false))) = some (.er "nokey")
    ∧ (nx (exec (.unlock none) (keyed true))).core.mon.challenge.isSome = true
    ∧ (keyed true).unlocks [] [] = false ∧ (nx (exec (.unlock (some ([], []))) (keyed true))).core.mon.fails = 1 := by decide +kernel
theorem test_peek : let s := memReady (withBytes (mon false) 0x100 [1, 2, 3, 4]); s.core.memAvail 0x100 = .ok ∧ s.core.memMark 0x100 = .ok
    ∧ said (nx (exec (.peek 0x100 1) s)) = some (.ok [0x04030201]) ∧ said (nx (exec (.peek 0x100 257) s)) = some (.er "range")
    ∧ said (nx (exec (.peek 0x102 1) s)) = some (.er "range") := by decide +kernel
theorem test_poke : let s := memReady (mon false); (nx (exec (.poke 0x100 0xA1B2C3D4) s)).core.bytes 0xFF 6 = [0, 0xD4, 0xC3, 0xB2, 0xA1, 0]
    ∧ mapped 0x5000000000 = true ∧ pokeDenied 0x5000000000 = true ∧ said (nx (exec (.poke 0x5000000000 1) s)) = some (.er "denied") := by decide +kernel
/-- Sprig 1.5 in a run state, the monitor unlocked. -/
def watched (st : RunState) : State := mon false fun c => c.setSprig g5 ({ regs [(3, 9)] with state := st, pc := 0x40 } : Sprig)
theorem test_monSprig : (watched .run).core.asleep (bunchOf g5) = false ∧ (watched .run).core.quietSprig g5 = false
    ∧ (sp (nx (exec (.monHalt g5) (watched .run)))).state = .halted ∧ (sp (nx (exec (.monRun g5) (watched .halted)))).state = .run
    ∧ (sp (nx (exec (.monStep g5) (watched .halted)))).req.stepping = true ∧ said (nx (exec (.regs 1) (watched .run))) = some (.er "denied") := by decide +kernel
theorem test_regs : said (nx (exec (.regs g5) (watched .halted))) = some (.ok ((List.range 44).map fun j => ((watched .halted).core.sprig g5).imageWord j)) := by rfl
theorem test_mon_more : nx (exec .lock State.reset) = State.reset ∧ nx (exec (.monErr 1) State.reset) = State.reset
    ∧ said (nx (exec (.monHalt 1) (watched .run))) = some (.er "denied") ∧ said (nx (exec (.monRun g5) (watched .frozen))) = some (.er "frozen")
    ∧ said (nx (exec (.monStep g5) (watched .wait))) = some (.er "fail") ∧ said (nx (exec (.monRun g5) (watched .wait))) = some (.ok [])
    ∧ said (nx (exec (.baud 9600) (mon false))) = some (.er "range") ∧ said (nx (exec (.monErr 65) (mon false))) = some (.er "range")
    ∧ said (nx (exec (.poke 0x102 1) (mon false))) = some (.er "range") ∧ said (nx (exec (.poke 0x3000000000 1) (mon false))) = some (.er "denied") := by decide +kernel

/-! ### Steps, guards and fuses -/

theorem test_step_front : (nx (step { mon true with pending := [.overrun, .lock] })).pending = [.lock]
    ∧ said (nx (step { mon true with pending := [.overrun, .lock] })) = some (.er "overrun") := by decide +kernel
theorem test_step_empty : step State.reset = .next State.reset.tick := rfl
theorem test_word : decodeTableWord 16 3 = none ∧ State.reset.withFetchWord 16 3 = State.reset := ⟨rfl, rfl⟩
theorem test_notIssuing : (State.reset.core.sprig g5).issues = false ∧ nx (exec (.add g5 0 0x31200) State.reset) = State.reset := by decide +kernel
theorem test_guardFalse : let s := two 0x20 5 6; (sp s).guard 8 = false ∧ nx (exec (.add g5 8 0x31200) s) = s.put g5 ((sp s).past 1) := by decide +kernel
theorem test_entryFault : let s := two 0x20 5 6; (s.core.entryFault g5 0x21).isSome = true
    ∧ let y := sp (nx (exec (.sub g5 0 0x31200) s)); y.req.rank1.isSome = true ∧ y.pc = 0 ∧ y.rd 3 = 0 := by decide +kernel
theorem test_grows : let s := { fused (fun x => { x with life := .owned, ownSet := 1, vendorRb := 3 }) with pending := [.secRbAdv st1 0x80000940, .lock] }
    s.sec.sound = true ∧ (nx (step s)).sec.vendorRb = 9 ∧ (nx (step s)).pending = [.lock] := by decide +kernel

/-! ### Ill-formed commands -/

/-- The command is ill-formed, and faults. -/
def bad (i : Instr) : Bool := !i.wf && (match exec i State.reset with | .fault .illFormed => true | _ => false)
def req (a : Addr) (n : BitVec 9) : MemReq := { addr := a, len := n, data := none, poisoned := false, who := hostF }
theorem test_bad_channels : bad (.captureEdge 288 0 true) ∧ bad (.timeCapPop hostF 288) ∧ bad (.scrub 36 .ok) ∧ bad (.memThermal 36 50) ∧ bad (.channelTraining 36 true) ∧ bad (.gdcEccRead hostF 36) ∧ bad (.selfrefExit 36) := by decide +kernel
theorem test_bad_units : bad (.dealRelease 0x108) ∧ bad (.pulseReturnEdge 0x10F) ∧ bad (.triggeredDealTake 0x120) ∧ bad (.flush hostF 0x108) ∧ bad (.dealUerrRead hostF 0x108) := by decide +kernel
theorem test_bad_parts : bad (.quiesce .core) ∧ bad (.unitFatal (.serdes 3) info1) := by decide +kernel
theorem test_bad_serial : bad (.serialFrameStart 48 false) ∧ bad (.serialGo hostF 48 false) ∧ bad (.serialFrameEnd 48 0) ∧ bad (.serialDataRead hostF 48) := by decide +kernel
theorem test_bad_memory : bad (.gddrAccess (req 0 0) .ok) ∧ bad (.gddrAccess (req 0x1FFFFFFFFF 2) .ok) ∧ bad (.correctedRewrite 0x2000000000)
    ∧ bad (.remoteRequest 9 (req 0 0)) ∧ bad (.remoteRequest 9 (req 0 257)) := by decide +kernel
theorem test_bad_regions : bad (.debugViewRead hostF 0x4810000000) ∧ bad (.debugViewWrite hostF 0 0) ∧ bad (.controlStoreWrite hostF 0x5004000000 0)
    ∧ bad (.unmappedRead hostF 0) ∧ bad (.unmappedWrite hostF 0x6000000000 0) ∧ bad (.registerWrite hostF 0x6002000000 0) ∧ bad (.lowWordRead hostF 0) := by decide +kernel
theorem test_bad_words : bad (.queueResetInstant 5 0) ∧ bad (.queueResetInstant 5 6) ∧ bad (.commandFetch 5 [0] false none) ∧ bad (.watchCycle [1] 0) := by decide +kernel
theorem test_fetchParity : let a := localsBase g5 + 0x10000; let s := two 0x20 5 6; let s := s.on { s.core with parity := [(a, true)] }
    (sp s).issues = true ∧ s.core.quietSprig g5 = false ∧ (sp s).pc = 0 ∧ (s.core.firstBad a 4).isSome = true
    ∧ (sp (nx (exec (.add g5 0 0x31200) s))).req.rank1 = some 3 ∧ (sp (nx (exec (.add g5 0 0x31200) s))).rd 3 = 0 := by decide +kernel
theorem test_quietSprig : let s := two 0x20 5 6; let s := s.on { s.core with quiesce := [(.sprig g5, 0)] }
    s.core.quietSprig g5 = true ∧ nx (exec (.add g5 0 0x31200) s) = s := by decide +kernel

end Sys2Proof.Tests
end

section
/-!
PROOFS. What every command's outcome is: a next state with the queue as it was, or the fault of an ill-formed command.
-/
namespace Sys2Proof.Machine

/-! ### Operations on the whole state leave the queue -/

@[simp] theorem State.metGo_pending (s : State) (req : List Byte) : (s.metGo req).pending = s.pending := rfl

@[simp] theorem State.metFinish_pending (s : State) (r : Byte) (bs : List Byte) : (s.metFinish r bs).pending = s.pending := rfl

@[simp] theorem State.islandReset_pending (s : State) : s.islandReset.pending = s.pending := rfl

@[simp] theorem State.record_pending (s : State) (r : Measured) : (s.record r).pending = s.pending := by
  unfold State.record
  rfl

@[simp] theorem State.handOver_pending (s : State) : s.handOver.pending = s.pending := State.on_pending s _

@[simp] theorem State.mark_pending (s : State) (b : Bool) (st : SlotState) : (s.mark b st).pending = s.pending := rfl

@[simp] theorem State.enterRecovery_pending (s : State) : s.enterRecovery.pending = s.pending := rfl

@[simp] theorem State.setIdle_pending (s : State) (y : Slot) : (s.setIdle y).pending = s.pending := rfl

@[simp] theorem State.setUpd_pending (s : State) (u : Option Nat) : (s.setUpd u).pending = s.pending := rfl

@[simp] theorem State.writeRqctl_pending (s : State) (m : Master) (v : Word) : (s.writeRqctl m v).pending = s.pending := by
  unfold State.writeRqctl
  dsimp only
  repeat' split
  all_goals rfl

@[simp] theorem State.writeReqBuf_pending (s : State) (m : Master) (off : Nat) (v : Word) :
    (s.writeReqBuf m off v).pending = s.pending := by
  unfold State.writeReqBuf
  dsimp only
  repeat' split
  all_goals rfl

@[simp] theorem State.startSorrel_pending (s : State) : s.startSorrel.pending = s.pending := by
  unfold State.startSorrel
  dsimp only
  repeat' split
  all_goals rfl

@[simp] theorem State.powerOn_pending (s : State) (strap : DeviceId) : (s.powerOn strap).pending = s.pending := by
  unfold State.powerOn
  dsimp only
  split <;> rfl

@[simp] theorem State.enterOff_pending (s : State) : s.enterOff.pending = s.pending := by
  unfold State.enterOff
  dsimp only
  split <;> rfl

/-! ### Boot -/

@[simp] theorem State.finishLoad_pending (s : State) : s.finishLoad.pending = s.pending := by
  unfold State.finishLoad
  split
  · exact s.handOver_pending
  · rfl

@[simp] theorem State.tryBundle_pending (s : State) (slot : BitVec 2) (trial : Bool) (bs : List Byte) :
    (s.tryBundle slot trial bs).1.pending = s.pending := by
  unfold State.tryBundle
  split <;> rfl

@[simp] theorem State.trySlot_pending (s : State) (b trial : Bool) : (s.trySlot b trial).1.pending = s.pending := by
  simp [State.trySlot]

@[simp] theorem State.revertTrial_pending (s : State) : s.revertTrial.pending = s.pending := by
  unfold State.revertTrial
  split <;> rfl

@[simp] theorem State.tryStaged_pending (s : State) : s.tryStaged.1.pending = s.pending := by
  unfold State.tryStaged
  dsimp only
  repeat' split
  all_goals simp

@[simp] theorem State.tryIn_pending (s : State) (st : SlotState) : (s.tryIn st).1.pending = s.pending := by
  unfold State.tryIn
  split <;> simp

@[simp] theorem State.noImage_pending (s : State) : s.noImage.pending = s.pending := by
  unfold State.noImage
  dsimp only
  split <;> rfl

@[simp] theorem State.fromFlash_pending (s : State) : s.fromFlash.pending = s.pending := by
  unfold State.fromFlash
  dsimp only
  repeat' split
  all_goals simp

@[simp] theorem State.waitLoader_pending (s : State) (src : BitVec 2) : (s.waitLoader src).pending = s.pending := by
  unfold State.waitLoader
  dsimp only
  split <;> rfl

@[simp] theorem State.startRom_pending (s : State) (sel : BitVec 2) : (s.startRom sel).pending = s.pending := by
  unfold State.startRom
  dsimp only
  repeat' split
  all_goals simp

@[simp] theorem State.bootLoaded_pending (s : State) (bs : List Byte) : (s.bootLoaded bs).pending = s.pending := by
  unfold State.bootLoaded
  dsimp only
  split <;> simp

/-! ### Fuses and registers -/

@[simp] theorem State.raiseRb_pending (s : State) (v o : Nat) : (s.raiseRb v o).pending = s.pending := by
  unfold State.raiseRb
  dsimp only
  split <;> rfl

theorem State.stewardWrite_pending (s : State) (m : Master) {k : State → State} (hk : (k s).pending = s.pending) :
    (s.stewardWrite m k).pending = s.pending := by
  unfold State.stewardWrite
  cases m with
  | sprig g =>
    dsimp only
    split
    · exact hk
    · rfl
  | _ => rfl

@[simp] theorem State.advanceRb_pending (s : State) (m : Master) (v : Word) : (s.advanceRb m v).pending = s.pending := by
  apply State.stewardWrite_pending
  split <;> simp

@[simp] theorem State.otp_pending (s : State) (m : Master) (v : Word) : (s.otp m v).pending = s.pending := by
  apply State.stewardWrite_pending
  repeat' split
  all_goals rfl

@[simp] theorem State.secWrite_pending (s : State) (m : Master) (off : Nat) (v : Word) : (s.secWrite m off v).pending = s.pending := by
  unfold State.secWrite
  split
  · simp
  · rfl
  · simp
  · split
    · exact State.stewardWrite_pending s m rfl
    · rfl

@[simp] theorem State.metWrite_pending (s : State) (m : Master) (off : Nat) (v : Word) : (s.metWrite m off v).pending = s.pending := by
  unfold State.metWrite
  repeat' split
  all_goals simp

@[simp] theorem State.regWrite_pending (s : State) (m : Master) (slot off : Nat) (v : Word) :
    (s.regWrite m slot off v).pending = s.pending := by
  unfold State.regWrite
  dsimp only
  repeat' split
  all_goals simp

theorem State.farWrite_pending {s t : State} {m : Master} {a : Addr} {bs : List Byte} (h : s.farWrite m a bs = some t) :
    t.pending = s.pending := by
  unfold State.farWrite at h
  dsimp only at h
  repeat' split at h
  all_goals simp only [Option.some.injEq, reduceCtorEq] at h
  all_goals subst h; simp

@[simp] theorem State.storeAccepted_pending (s : State) (g : SprigId) : (s.storeAccepted g).pending = s.pending := by
  unfold State.storeAccepted
  split
  · rfl
  · split
    · rfl
    · split
      · rfl
      · next t h =>
        exact (State.farWrite_pending h : t.pending = s.pending)

@[simp] theorem State.poke_pending (s : State) (a : Addr) (v : Word) : (s.poke a v).pending = s.pending := by
  unfold State.poke
  split
  · rfl
  · split
    · rfl
    · next t h =>
      exact (State.farWrite_pending h : t.pending = s.pending)

/-! ### Bodies of command packets that change more than the core -/

theorem powerBody_pending (q : CmdSrc) (s : State) (a : Args) : (powerBody q s a).1.pending = s.pending := by
  unfold powerBody
  dsimp only
  repeat' split
  all_goals rfl

theorem fwBegin_pending (s : State) (a : Args) : (fwBegin s a).1.pending = s.pending := by
  unfold fwBegin
  repeat' split
  all_goals rfl

theorem fwChunk_pending (s : State) (a : Args) : (fwChunk s a).1.pending = s.pending := by
  unfold fwChunk
  dsimp only
  repeat' split
  all_goals rfl

theorem fwStage_pending (s : State) (a : Args) : (fwStage s a).1.pending = s.pending := by
  unfold fwStage
  dsimp only
  repeat' split
  all_goals rfl

theorem fwConfirm_pending (s : State) (a : Args) : (fwConfirm s a).1.pending = s.pending := by
  unfold fwConfirm
  dsimp only
  repeat' split
  all_goals simp

theorem fwAbort_pending (s : State) (a : Args) : (fwAbort s a).1.pending = s.pending := by
  unfold fwAbort
  dsimp only
  split <;> rfl

/-! ### Which units exist -/

theorem cutName_isSome (p : Part) : (cutName p).isSome = p.quiesces := by
  cases p with
  | channel k => by_cases h : k.toNat < 36 <;> simp [cutName, Part.quiesces, channelExists, h]
  | _ => rfl

theorem mapped_eq_inMap (a : Addr) : mapped a = inMap a := by
  simp [mapped, inMap, inLocals, inStores, inBlocks, Sys2Proof.between, Bool.or_assoc]

theorem resetCause_eq (x : BitVec 3) : resetCause x = (decide (1 ≤ x.toNat) && decide (x.toNat ≤ 5)) := by
  simp [resetCause]

/-! ### Outcomes -/

/-- The outcome that a command which is well-formed exactly when `ok` must have in state `s`. -/
def Completes (ok : Bool) (s : State) (o : Out) : Prop :=
  (ok = true → Runs o fun t => t.pending = s.pending) ∧ (ok = false → o = .fault .illFormed)

theorem Completes.of_runs {s : State} {o : Out} (h : Runs o fun t => t.pending = s.pending) : Completes true s o :=
  ⟨fun _ => h, fun h => nomatch h⟩

theorem Completes.next {s t : State} (h : t.pending = s.pending) : Completes true s (.next t) := .of_runs ⟨t, rfl, h⟩

theorem Completes.onCore (f : Core → Core) (s : State) : Completes true s (onCore f s) := .next rfl

theorem Completes.of_if {ok : Bool} {s t : State} (h : t.pending = s.pending) :
    Completes ok s (if ok then .next t else .fault .illFormed) := by
  cases ok with
  | true => exact .next h
  | false => exact ⟨fun h => (nomatch h), fun _ => rfl⟩

/-- A packet whose body leaves the queue. -/
theorem Completes.command {q : CmdSrc} {sp : CmdSpec} {body : State → Args → State × Option Reply} {s : State}
    (h : ∀ s a, (body s a).1.pending = s.pending) : Completes true s (command q sp body s) :=
  .of_runs (command_frame State.pending (fun _ _ => rfl) q sp body h s)

theorem Completes.commandWhen {ready : Core → Cmd → Bool} {q : CmdSrc} {sp : CmdSpec} {body : State → Args → State × Option Reply}
    {s : State} (h : ∀ s a, (body s a).1.pending = s.pending) : Completes true s (commandWhen ready q sp body s) :=
  .of_runs (commandWhen_frame State.pending (fun _ _ => rfl) ready q sp body h s)

theorem Completes.serve (n len : Nat) (body : List Byte → Island → Island × Byte × List Byte) (s : State) :
    Completes true s (serve n len body s) := by
  refine .next ?_
  dsimp only
  repeat' split
  all_goals simp

theorem Completes.otpRow (fld : Nat) (m : Master) (v : Word) (s : State) : Completes true s (otpRow fld m v s) := by
  refine .next ?_
  split <;> simp

theorem execRegisterWrite_completes (m : Master) (a : Addr) (v : Word) (how : RegAcc) (s : State) :
    Completes (accessExists m a how) s (execRegisterWrite m a v how s) := by
  unfold execRegisterWrite
  cases accessExists m a how with
  | false => exact ⟨fun h => (nomatch h), fun _ => rfl⟩
  | true =>
    simp only [Bool.not_true, Bool.false_eq_true, if_false]
    repeat' split
    · exact .onCore _ s
    · exact .onCore _ s
    · exact .next (State.regWrite_pending ..)

theorem execLowWordRead_completes (m : Master) (a : Addr) (how : RegAcc) (s : State) :
    Completes (accessExists m a how) s (execLowWordRead m a how s) := by
  unfold execLowWordRead
  cases accessExists m a how with
  | false => exact ⟨fun h => (nomatch h), fun _ => rfl⟩
  | true =>
    simp only [Bool.not_true, Bool.false_eq_true, if_false]
    repeat' split
    all_goals exact .onCore _ s

/-! ### The commands that change more than the core -/

theorem execMetRequestDone_completes (s : State) : Completes true s (execMetRequestDone s) := by
  refine .next ?_
  repeat' split
  all_goals simp

theorem execIslandRecord_completes (r : Measured) (s : State) : Completes true s (execIslandRecord r s) := by
  refine .next ?_
  dsimp only
  repeat' split
  all_goals simp

theorem execIslandSignature_completes (reason : BitVec 2) (s : State) : Completes true s (execIslandSignature reason s) := by
  refine .next ?_
  repeat' split
  all_goals rfl

theorem execIslandStart_completes (img : IslandImage) (s : State) : Completes true s (execIslandStart img s) := by
  refine .next ?_
  dsimp only
  repeat' split
  all_goals simp

theorem execSealTransition_completes (low : Bool) (s : State) : Completes true s (execSealTransition low s) := by
  refine .next ?_
  split <;> rfl

theorem execPowerEntry_completes (s : State) : Completes true s (execPowerEntry s) := by
  refine .next ?_
  dsimp only
  repeat' split
  all_goals simp

theorem execBootRom_completes (sel : BitVec 2) (s : State) : Completes true s (execBootRom sel s) := by
  refine .next ?_
  repeat' split
  all_goals simp

theorem execGoRecord_completes (s : State) : Completes true s (execGoRecord s) := by
  refine .next ?_
  split <;> simp

theorem execRecoveryLoadFrame_completes (data : List Byte) (crc : Word) (s : State) :
    Completes true s (execRecoveryLoadFrame data crc s) := by
  refine .next ?_
  dsimp only
  repeat' split
  all_goals simp

theorem execHandFold_completes (q : CmdSrc) (s : State) : Completes true s (execHandFold q s) := by
  unfold execHandFold
  repeat' split
  · exact .next rfl
  · exact .next rfl
  · exact .command fun _ _ => rfl

theorem execAttestQuote_completes (q : CmdSrc) (s : State) : Completes true s (execAttestQuote q s) := by
  refine .command fun t a => ?_
  split <;> rfl

theorem execCertRead_completes (q : CmdSrc) (s : State) : Completes true s (execCertRead q s) := by
  refine .command fun t a => ?_
  repeat' split
  all_goals rfl

theorem execTlTrainingDone_completes (t : BitVec 2) (s : State) : Completes true s (execTlTrainingDone t s) := by
  refine .next ?_
  dsimp only
  split <;> rfl

theorem execFrameSlotReturn_completes (g : SprigId) (k : BitVec 2) (s : State) : Completes true s (execFrameSlotReturn g k s) := by
  unfold execFrameSlotReturn
  dsimp only
  repeat' split
  all_goals exact .next rfl

theorem execPoke_completes (a : Addr) (v : Word) (s : State) : Completes true s (execPoke a v s) := by
  refine .next ?_
  repeat' split
  all_goals simp

/-- Every command completes when it is well-formed, and faults when it is not. -/
theorem exec_completes (i : Instr) (s : State) : Completes i.wf s (exec i s) := by
  cases i with
  | captureEdge | timeCapPop | queueResetInstant | commandFetch | dealRelease | pulseReturnEdge | triggeredDealTake | flush
  | dealUerrRead | quiesce | unitFatal | serialFrameStart | serialGo | serialFrameEnd | serialDataRead | gddrAccess
  | correctedRewrite | scrub | memThermal | channelTraining | gdcEccRead | selfrefExit | watchCycle | remoteRequest
  | debugViewRead | debugViewWrite | controlStoreWrite | unmappedRead | unmappedWrite | customerInstruction =>
    simp only [Instr.wf, ← resetCause_eq, ← cutName_isSome, ← mapped_eq_inMap]
    exact .of_if rfl
  | registerWrite m a v how => exact execRegisterWrite_completes m a v how s
  | lowWordRead m a how => exact execLowWordRead_completes m a how s
  | queueReset | cmdqCreate | cmdqDelete | timeStep | timeQuality | errRead | bunchHold | handOpen | handSet | handCheck
  | handCommit | handRecall | handStatus | handLoad | measRead | timeSync | tlSetId | tlRoute | tlStatus | sysStatus =>
    exact .command fun _ _ => rfl
  | queueStatus | timeRead | status | settingRead | identify | watchCfg =>
    dsimp only [exec, execQueueStatus, execTimeRead, execStatus, execSettingRead, execIdentify, execWatchCfg]
    exact .command fun _ _ => rfl
  | sprigLoad | sprigStart | sprigHalt | sprigStep | sprigReset | freeze | thaw => exact .commandWhen fun _ _ => rfl
  | powerState q => exact .command (powerBody_pending q)
  | fwBegin => exact .command fwBegin_pending
  | fwChunk => exact .command fwChunk_pending
  | fwFinishStage => unfold exec execFwFinishStage; exact .commandWhen fwStage_pending
  | fwFinishConfirm => unfold exec execFwFinishConfirm; exact .commandWhen fwConfirm_pending
  | fwAbort => exact .command fwAbort_pending
  | handFold q => exact execHandFold_completes q s
  | attestQuote q => exact execAttestQuote_completes q s
  | certRead q => exact execCertRead_completes q s
  | metIdentify | readResults | metStart | metStop | zero | tare | readAudit | ackAudit | setParam | sign =>
    dsimp only [exec, execMetIdentify, execReadResults, execMetStart, execMetStop, execZero, execTare, execReadAudit, execAckAudit,
      execSetParam, execSign]
    exact .serve _ _ _ s
  | metRqctlGo m v => exact .next (State.writeRqctl_pending s m v)
  | metRequestDone => exact execMetRequestDone_completes s
  | islandRecord r => exact execIslandRecord_completes r s
  | islandSignature reason => exact execIslandSignature_completes reason s
  | islandReset porst => exact .next (by split <;> rfl)
  | islandStart img => exact execIslandStart_completes img s
  | sealTransition low => exact execSealTransition_completes low s
  | islandHeartbeat | islandHeartbeatTimeout | farLoadReturn => exact .next rfl
  | porstN devid => exact .next (State.powerOn_pending s devid)
  | vauxLoss => exact .next (State.powerOn_pending s _)
  | input48vLoss => exact .next (by split <;> simp)
  | powerEntry => exact execPowerEntry_completes s
  | bootRom sel => exact execBootRom_completes sel s
  | goRecord => exact execGoRecord_completes s
  | recoveryLoadFrame data crc => exact execRecoveryLoadFrame_completes data crc s
  | secRbAdv m v => exact .next (State.advanceRb_pending s m v)
  | otpOwnerHash | otpRevokeOwner | otpRevokeVendor | otpDebugHash | otpBootDis | otpRecovDis | retire => exact .otpRow _ _ _ s
  | tlTrainingDone t => exact execTlTrainingDone_completes t s
  | farStoreAccept g => exact .next (State.storeAccepted_pending s g)
  | frameSlotReturn g k => exact execFrameSlotReturn_completes g k s
  | poke a v => exact execPoke_completes a v s
  -- every other command's effect lies in the core alone
  | _ => exact .next rfl

end Sys2Proof.Machine

open Sys2Proof Sys2Proof.Machine

/-- Settles O57: `exec_completes` for every command, well-formed or not. -/
theorem everyCommandCompletes : Obligations.EveryCommandCompletes := fun i s => exec_completes i s
end

section
/-!
PROOFS. The regions of the device address space: the debug view, the control stores, unmapped addresses, registers and the host windows.
-/
namespace Sys2Proof.Machine

/-! ### Words and their bytes -/

theorem bytesOf_length {w : Nat} (v : BitVec w) (n : Nat) : (bytesOf v n).length = n := by
  induction n generalizing v with
  | zero => rfl
  | succ n ih => simp [bytesOf, ih]

/-- Byte k of a value. -/
theorem bytesOf_getElem? {w : Nat} (v : BitVec w) {n k : Nat} (hk : k < n) : (bytesOf v n)[k]? = some ((v >>> (8 * k)).setWidth 8) := by
  induction n generalizing v k with
  | zero => omega
  | succ n ih =>
    cases k with
    | zero => simp [bytesOf]
    | succ k =>
      rw [bytesOf, List.getElem?_cons_succ, ih _ (by omega), ← BitVec.shiftRight_add, show 8 + 8 * k = 8 * (k + 1) by omega]

/-- Bit i of a word is bit i % 8 of its byte i / 8. -/
theorem wordOf_getLsbD (bs : List Byte) {i : Nat} (hi : i < 32) : (wordOf bs).getLsbD i = ((bs[i / 8]?).getD 0).getLsbD (i % 8) := by
  induction bs generalizing i with
  | nil => simp [wordOf]
  | cons b bs ih =>
    by_cases h : i < 8
    · simp [wordOf, h, hi, Nat.div_eq_of_lt h, Nat.mod_eq_of_lt h]
    · obtain ⟨j, rfl⟩ : ∃ j, i = j + 8 := ⟨i - 8, by omega⟩
      have hj : j < 32 := by omega
      simpa [wordOf, hi, hj] using ih hj

/-- A word is made of its four bytes. -/
@[simp] theorem wordOf_bytesOf (v : Word) : wordOf (bytesOf v 4) = v := by
  apply BitVec.eq_of_getLsbD_eq
  intro i hi
  rw [wordOf_getLsbD _ hi, bytesOf_getElem? v (by omega)]
  have : 8 * (i / 8) + i % 8 = i := by omega
  simp [this, Nat.mod_lt]

theorem Core.bytes_getElem (c : Core) (a n k : Nat) (hk : k < (c.bytes a n).length) : (c.bytes a n)[k] = c.byte (a + k) := by
  induction n generalizing a k with
  | zero => simp [Core.bytes] at hk
  | succ n ih =>
    cases k with
    | zero => rfl
    | succ k => simp [Core.bytes, ih, Nat.add_assoc, Nat.add_comm 1 k]

theorem Core.bytes_setBytes_self (c : Core) (a : Nat) (bs : List Byte) : (c.setBytes a bs).bytes a bs.length = bs := by
  apply List.ext_getElem
  · exact Core.bytes_length ..
  · intro k h1 h2
    rw [Core.bytes_getElem, Core.byte_setBytes, if_pos ⟨Nat.le_add_right .., by omega⟩]
    simp [h2]

/-- A word stored reads back. -/
theorem Core.word_setBytes_self (c : Core) (a : Nat) (v : Word) : (c.setBytes a (bytesOf v 4)).word a = v := by
  have h := c.bytes_setBytes_self a (bytesOf v 4)
  rw [bytesOf_length] at h
  rw [Core.word, h, wordOf_bytesOf]

theorem Core.bytes_congr {c d : Core} (h : c.mem = d.mem) (a n : Nat) : c.bytes a n = d.bytes a n := by
  induction n generalizing a with
  | zero => rfl
  | succ n ih => simp only [Core.bytes, ih, Core.byte_congr h]

theorem Core.word_congr {c d : Core} (h : c.mem = d.mem) (a : Nat) : c.word a = d.word a := by
  simp only [Core.word, Core.bytes_congr h]

/-! ### What accesses of the debug view come to -/

/-- An access to bunch b aborts a gating that is being prepared (R410). -/
def Core.touch (c : Core) (b : BunchId) : Core := { c with power := { c.power with prep := c.power.prep &&& ~~~(1#64 <<< b.toNat) } }

theorem Core.reach_touch {c : Core} {b : BunchId} (k : Core → Core) (h : c.asleep b = false) : c.reach b k = k (c.touch b) :=
  Core.reach_awake k h

@[simp] theorem Core.touch_sprigs (c : Core) (b : BunchId) : (c.touch b).sprigs = c.sprigs := rfl
@[simp] theorem Core.touch_mem (c : Core) (b : BunchId) : (c.touch b).mem = c.mem := rfl
@[simp] theorem Core.touch_sprig (c : Core) (b : BunchId) (g : SprigId) : (c.touch b).sprig g = c.sprig g := rfl
@[simp] theorem Core.touch_byte (c : Core) (b : BunchId) (a : Nat) : (c.touch b).byte a = c.byte a := rfl
@[simp] theorem Core.touch_badParity (c : Core) (b : BunchId) (a : Nat) : (c.touch b).badParity a = c.badParity a := rfl
@[simp] theorem Core.touch_stopped (c : Core) (b : BunchId) (m : Master) (g : SprigId) : (c.touch b).stopped m g = c.stopped m g := rfl

/-- The access at address n reaches the device: through BAR4 for a function, from no frozen master, and from no peer. -/
def Core.admits (c : Core) (m : Master) (n : Nat) : Prop := c.bar4Reaches m n 4 = true ∧ c.frozenMaster m = false ∧ ∀ d, m ≠ .peer d

/-- The access at address n reaches a sprig's locals in a bunch that is awake and not in QUIESCE. -/
def Core.admitsView (c : Core) (m : Master) (n : Nat) : Prop :=
  isLocals n = true ∧ c.quiet (.bunch (bunchOf (viewSprig n))) = false ∧ c.asleep (bunchOf (viewSprig n)) = false ∧ c.admits m n

/-- The last register read of master m gave w, not as an abort. -/
def Core.shows (c : Core) (m : Master) (w : Word) : Prop :=
  (Tbl.get c.rdata (masterKey m) {}).value = w ∧ (Tbl.get c.rdata (masterKey m) {}).abort = false

theorem Core.shows_answer (c : Core) (m : Master) (w : Word) (p : Bool) : (c.answer m w p false).shows m w := by
  unfold Core.shows
  rw [Core.answer_rdata]
  exact ⟨rfl, rfl⟩

theorem exec_debugViewRead {s : State} {m : Master} {a : Addr} {bs : List Byte} {p : Bool} {c : Core}
    (h : s.core.admitsView m a.toNat) (hv : (s.core.touch (bunchOf (viewSprig a.toNat))).viewRead a.toNat 4 = (bs, p, c)) :
    exec (.debugViewRead m a) s = .next (s.on (c.answer m (wordOf bs) p false)) := by
  obtain ⟨hl, hq, ha, hr, hf, hp⟩ := h
  have hd : s.core.debugRead m a.toNat = c.answer m (wordOf bs) p false := by
    rw [Core.debugRead, if_neg (by simp [hq]), Core.reach_touch _ ha, hv]
  show execDebugViewRead m a s = _
  unfold execDebugViewRead
  rw [hl, onCoreIf_true]
  cases m with
  | peer d => exact absurd rfl (hp d)
  | _ => simp only [hr, hf, hd, Bool.not_true, Bool.false_eq_true, if_false]

theorem exec_debugViewWrite {s : State} {m : Master} {a : Addr} (v : Word) (h : s.core.admitsView m a.toNat) :
    exec (.debugViewWrite m a v) s
      = .next (s.on ((s.core.touch (bunchOf (viewSprig a.toNat))).viewWrite m a.toNat (bytesOf v 4))) := by
  obtain ⟨hl, hq, ha, hr, hf, hp⟩ := h
  have hd : s.core.debugWrite m a.toNat (bytesOf v 4)
      = (s.core.touch (bunchOf (viewSprig a.toNat))).viewWrite m a.toNat (bytesOf v 4) := by
    rw [Core.debugWrite, if_neg (by simp [hq]), Core.reach_touch _ ha]
  show execDebugViewWrite m a v s = _
  unfold execDebugViewWrite
  rw [hl, onCoreIf_true]
  cases m with
  | peer d => exact absurd rfl (hp d)
  | _ => simp only [hr, hf, hd, Bool.not_true, Bool.or_self, Bool.false_eq_true, if_false]

/-- The four bytes of an aligned word lie at consecutive offsets of one sprig's unit. -/
theorem viewOff_add {n k : Nat} (hl : isLocals n = true) (h4 : n % 4 = 0) (hk : k < 4) : viewOff (n + k) = viewOff n + k := by
  simp only [isLocals, Bool.and_eq_true, decide_eq_true_eq] at hl
  unfold viewOff
  omega

theorem viewSprig_add {n k : Nat} (hl : isLocals n = true) (h4 : n % 4 = 0) (hk : k < 4) : viewSprig (n + k) = viewSprig n := by
  simp only [isLocals, Bool.and_eq_true, decide_eq_true_eq] at hl
  unfold viewSprig
  rw [show (n + k - 0x4800000000) / 0x20000 = (n - 0x4800000000) / 0x20000 by omega]

theorem viewOff_mod {n : Nat} (hl : isLocals n = true) (h4 : n % 4 = 0) : viewOff n % 4 = 0 := by
  simp only [isLocals, Bool.and_eq_true, decide_eq_true_eq] at hl
  unfold viewOff
  omega

theorem viewStore_image {o : Nat} (h : 0x18000 ≤ o) : viewStore o = false := by
  simp only [viewStore, Bool.or_eq_false_iff, Bool.and_eq_false_iff, decide_eq_false_iff_not]
  omega

theorem viewStore_bank {o : Nat} (h : o < 0xC000) : viewStore o = true := by simp [viewStore, h]

theorem Core.viewByte_image {c : Core} {a : Nat} (h1 : 0x18000 ≤ viewOff a) (h2 : viewOff a < 0x18100) :
    c.viewByte a = ((c.sprig (viewSprig a)).imageWord ((viewOff a - 0x18000) / 4) >>> (8 * (viewOff a % 4))).setWidth 8 := by
  simp only [Core.viewByte, viewStore_image h1, Bool.false_eq_true, if_false, if_pos (And.intro h1 h2)]

theorem Core.viewByte_bank {c : Core} {a : Nat} (h : viewOff a < 0xC000) : c.viewByte a = c.byte a := by
  simp only [Core.viewByte, viewStore_bank h, if_true]

/-- A read in which no byte of bad parity stands. -/
theorem Core.viewRead_clean {c : Core} {a n : Nat} (h : ∀ k < n, (viewStore (viewOff (a + k)) && c.badParity (a + k)) = false) :
    c.viewRead a n = ((List.range n).map fun k => c.viewByte (a + k), false, c) := by
  have hf : ((List.range n).find? fun k => viewStore (viewOff (a + k)) && c.badParity (a + k)) = none := by
    simp only [List.find?_eq_none, List.mem_range]
    intro k hk
    simp [h k hk]
  unfold Core.viewRead
  rw [hf]

/-- The bytes of the register image are those of its words. -/
theorem Core.viewByte_imageWord {c : Core} {n : Nat} (hl : isLocals n = true) (h4 : n % 4 = 0) (h1 : 0x18000 ≤ viewOff n)
    (h2 : viewOff n < 0x18100) {k : Nat} (hk : k < 4) :
    c.viewByte (n + k) = ((c.sprig (viewSprig n)).imageWord ((viewOff n - 0x18000) / 4) >>> (8 * k)).setWidth 8 := by
  have ho := viewOff_add hl h4 hk
  have hm := viewOff_mod hl h4
  rw [Core.viewByte_image (by omega) (by omega), viewSprig_add hl h4 hk, ho]
  generalize viewOff n = o at h1 h2 hm
  rw [show (o + k - 0x18000) / 4 = (o - 0x18000) / 4 by omega, show (o + k) % 4 = k by omega]

/-- A read of the register image. -/
theorem Core.viewRead_image {c : Core} {n : Nat} (hl : isLocals n = true) (h4 : n % 4 = 0) (h1 : 0x18000 ≤ viewOff n)
    (h2 : viewOff n < 0x18100) :
    c.viewRead n 4 = (bytesOf ((c.sprig (viewSprig n)).imageWord ((viewOff n - 0x18000) / 4)) 4, false, c) := by
  have hs : ∀ k < 4, viewStore (viewOff (n + k)) = false := fun k hk => viewStore_image (by rw [viewOff_add hl h4 hk]; omega)
  have hbs : ((List.range 4).map fun k => c.viewByte (n + k))
      = bytesOf ((c.sprig (viewSprig n)).imageWord ((viewOff n - 0x18000) / 4)) 4 := by
    apply List.ext_getElem?
    intro k
    by_cases hk : k < 4
    · simp [hk, Core.viewByte_imageWord hl h4 h1 h2 hk, bytesOf_getElem? _ hk]
    · simp [hk, bytesOf_length]
  rw [Core.viewRead_clean fun k hk => by rw [hs k hk, Bool.false_and], hbs]

theorem Core.firstBad_none {c : Core} {a n : Nat} (h : c.firstBad a n = none) {k : Nat} (hk : k < n) : c.badParity (a + k) = false := by
  induction n generalizing a k with
  | zero => omega
  | succ n ih =>
    unfold Core.firstBad at h
    split at h
    · exact absurd h (by simp)
    · next hb =>
      cases k with
      | zero => simpa using hb
      | succ k => rw [show a + (k + 1) = a + 1 + k by omega]; exact ih h (by omega)

/-- A read of a bank whose bytes have good parity. -/
theorem Core.viewRead_bank {c : Core} {n : Nat} (hl : isLocals n = true) (h4 : n % 4 = 0) (ho : viewOff n < 0xC000)
    (hb : c.firstBad n 4 = none) : c.viewRead n 4 = (c.bytes n 4, false, c) := by
  have hm := viewOff_mod hl h4
  have hbs : ((List.range 4).map fun k => c.viewByte (n + k)) = c.bytes n 4 := by
    apply List.ext_getElem
    · simp [Core.bytes_length]
    · intro k h1 h2
      have hk : k < 4 := by simpa using h1
      rw [Core.bytes_getElem, List.getElem_map, List.getElem_range]
      exact Core.viewByte_bank (by rw [viewOff_add hl h4 hk]; omega)
  rw [Core.viewRead_clean fun k hk => by rw [Core.firstBad_none hb hk, Bool.and_false], hbs]

theorem Core.setBytes_sprigs (c : Core) (a : Nat) (bs : List Byte) : (c.setBytes a bs).sprigs = c.sprigs := by
  induction bs generalizing c a with
  | nil => rfl
  | cons x bs ih => exact ih (c.setByte a x) (a + 1)

theorem Core.setBytes_mem_congr {c d : Core} (h : c.mem = d.mem) (a : Nat) (bs : List Byte) :
    (c.setBytes a bs).mem = (d.setBytes a bs).mem := by
  induction bs generalizing c d a with
  | nil => exact h
  | cons x bs ih => exact ih (by simp only [Core.setByte, h]) (a + 1)

/-- Bytes written one after the other are stored as one block. -/
theorem Core.localWrites_mem (c : Core) (a : Nat) (bs : List Byte) :
    ((List.range bs.length).foldl (fun c k => c.localWrite (a + k) [bs[k]?.getD 0] false) c).mem = (c.setBytes a bs).mem := by
  induction bs generalizing c a with
  | nil => rfl
  | cons x bs ih =>
    rw [List.length_cons, List.range_succ_eq_map, List.foldl_cons, List.foldl_map]
    have h : ∀ (d : Core) (k : Nat), d.localWrite (a + (k + 1)) [(x :: bs)[k + 1]?.getD 0] false
        = d.localWrite (a + 1 + k) [bs[k]?.getD 0] false := by
      intro d k
      rw [show a + (k + 1) = a + 1 + k by omega, List.getElem?_cons_succ]
    rw [List.foldl_ext _ _ _ fun d k _ => h d k, ih]
    exact Core.setBytes_mem_congr (Core.localWrite_mem ..) _ _

theorem Core.localWrite_sprigs (c : Core) (a : Nat) (bs : List Byte) (p : Bool) : (c.localWrite a bs p).sprigs = c.sprigs := by
  unfold Core.localWrite
  refine (foldl_keeps Core.sprigs _ (fun _ _ => ?_) _ _).trans (Core.setBytes_sprigs ..)
  rfl

/-- A word written to a bank of a stopped sprig. -/
theorem Core.viewWrite_bank {c : Core} {m : Master} {n : Nat} (v : Word) (hl : isLocals n = true) (h4 : n % 4 = 0)
    (ho : viewOff n < 0xC000) (hs : c.stopped m (viewSprig n) = true) :
    (c.viewWrite m n (bytesOf v 4)).mem = (c.setBytes n (bytesOf v 4)).mem ∧ (c.viewWrite m n (bytesOf v 4)).sprigs = c.sprigs := by
  have hm := viewOff_mod hl h4
  have hw : c.viewWrite m n (bytesOf v 4)
      = (List.range (bytesOf v 4).length).foldl (fun c k => c.localWrite (n + k) [(bytesOf v 4)[k]?.getD 0] false) c := by
    rw [Core.viewWrite, if_neg (by simp [hs]), if_pos (viewStore_bank ho)]
    refine List.foldl_ext _ _ _ fun d k hk => if_pos (viewStore_bank ?_)
    rw [bytesOf_length, List.mem_range] at hk
    omega
  rw [hw]
  exact ⟨Core.localWrites_mem .., foldl_keeps Core.sprigs _ (fun _ _ => Core.localWrite_sprigs ..) _ _⟩

theorem Core.viewWrite_deaf {c : Core} {m : Master} {n : Nat} (bs : List Byte) (hs : c.stopped m (viewSprig n) = false) :
    c.viewWrite m n bs = c.ignored m 39 (BitVec.ofNat 40 n) := by
  rw [Core.viewWrite, if_pos (by simp [hs])]

/-- A write of a D register that no result is outstanding for. -/
theorem Core.viewWrite_reg {c : Core} {m : Master} {n : Nat} (v : Word) (k : BitVec 4) (hs : c.stopped m (viewSprig n) = true)
    (ho : viewOff n = 0x18000 + 4 * k.toNat) (hb : (c.sprig (viewSprig n)).board.getLsbD k.toNat = false) :
    c.viewWrite m n (bytesOf v 4) = c.setSprig (viewSprig n) ((c.sprig (viewSprig n)).setD k v) := by
  have hk := k.isLt
  have hi : (viewOff n - 0x18000) / 4 = k.toNat := by omega
  have hv : ∀ old : List Byte, ((old.take 0 ++ bytesOf v 4 ++ old.drop (0 + (bytesOf v 4).length)).take 4) = bytesOf v 4 := by
    intro old
    simp [bytesOf_length]
  have hw : (c.sprig (viewSprig n)).imageWrite k.toNat v = some ((c.sprig (viewSprig n)).setD k v) := by
    unfold Sprig.imageWrite
    rw [if_pos hk, hb]
    simp
  rw [Core.viewWrite, if_neg (by simp [hs]), if_neg (by rw [viewStore_image (by omega)]; simp), if_pos (by omega)]
  simp only [hi, show viewOff n % 4 = 0 by omega, hv, wordOf_bytesOf, hw]

/-! ### The control stores -/

/-- The sprig whose control store holds address n. -/
def storeSprig (n : Nat) : SprigId := BitVec.ofNat 11 ((n - 0x5000000000) / 0x8000)

theorem storeBase_storeSprig {n : Nat} (hn : isStore n = true) : storeBase (storeSprig n) + (n - 0x5000000000) % 0x8000 = n := by
  simp only [isStore, Bool.and_eq_true, decide_eq_true_eq] at hn
  have hlt : (n - 0x5000000000) / 0x8000 < 2 ^ 11 := by omega
  simp only [storeBase, storeSprig, BitVec.toNat_ofNat, Nat.mod_eq_of_lt hlt]
  omega

theorem exec_controlStoreWrite {s : State} {m : Master} {a : Addr} (v : Word)
    (hm : (∃ k, m = .sprig k ∧ isSteward k = true) ∨ m = .bootRom) (hn : isStore a.toNat = true) :
    exec (.controlStoreWrite m a v) s = .next (s.on (s.core.storeWrite m a.toNat (bytesOf v 4))) := by
  show execControlStoreWrite m a v s = _
  unfold execControlStoreWrite
  rw [hn, Bool.true_or, onCoreIf_true]
  rcases hm with ⟨k, rfl, hk⟩ | rfl
  · rw [Core.storeAccess, Core.writeBy_takes _ (by simp [Core.takes, Core.frozenMaster, Core.seesAll, hk])]
  · rfl

theorem Core.storeWrite_word {c : Core} {m : Master} {n : Nat} (v : Word) (hn : isStore n = true)
    (ho : (n - 0x5000000000) % 0x8000 < 0x4400) (ha : c.asleep (bunchOf (storeSprig n)) = false)
    (hs : c.stopped .bootRom (storeSprig n) = true) :
    c.storeWrite m n (bytesOf v 4) = ((c.touch (bunchOf (storeSprig n))).setBytes n (bytesOf v 4)).setCsMark n .ok := by
  have hp : (c.touch (bunchOf (storeSprig n))).storePut (storeSprig n) ((n - 0x5000000000) % 0x8000) (bytesOf v 4)
      = ((c.touch (bunchOf (storeSprig n))).setBytes n (bytesOf v 4)).setCsMark n .ok := by
    rw [Core.storePut, if_pos ho, storeBase_storeSprig hn, Core.writeStore, bytesOf_length]
    rfl
  unfold Core.storeWrite
  dsimp only
  rw [if_pos hn]
  exact (Core.reach_touch _ ha).trans ((if_pos hs).trans hp)

theorem Core.setCsMark_mem (c : Core) (a : Nat) (e : EccMark) : (c.setCsMark a e).mem = c.mem := rfl

/-! ### Unmapped addresses -/

/-- An entry that the log takes is its last. -/
theorem Core.lastLog_log {c : Core} {e : ErrInfo} (h : c.err.takes e.cls = true) : (c.log e).lastLog = some e := by
  simp only [ErrBlk.takes, Bool.and_eq_true, Bool.or_eq_true, decide_eq_true_eq] at h
  have hn : ¬((e.cls = 0 ∧ 1024 - c.err.used < 16) ∨ 1024 ≤ c.err.used) := by
    rintro (⟨h0, h1⟩ | h1)
    · rcases h.2 with h2 | h2
      · exact h2 h0
      · omega
    · omega
  unfold Core.log Core.lastLog
  dsimp only
  rw [if_neg hn]
  simp

theorem exec_unmappedRead {s : State} {m : Master} {a : Addr} (hu : mapped a = false) (h : s.core.admits m a.toNat) :
    exec (.unmappedRead m a) s = .next (s.on ((s.core.logRead m a).answer m 0 false false)) := by
  obtain ⟨hr, hf, hp⟩ := h
  show execUnmappedRead m a s = _
  unfold execUnmappedRead
  rw [hu, Bool.not_false, onCoreIf_true]
  cases m with
  | host f => simp [hr, hf]
  | _ => simp [hr]

theorem exec_unmappedWrite_sprig {s : State} {k : SprigId} {a : Addr} (v : Word) (hu : mapped a = false) :
    exec (.unmappedWrite (.sprig k) a v) s = .next (s.on (s.core.freezeSprig k causePerm (s.core.sprig k).pc)) := by
  show execUnmappedWrite _ a v s = _
  unfold execUnmappedWrite
  rw [hu, Bool.not_false, onCoreIf_true]
  rfl

theorem exec_unmappedWrite_host {s : State} {f : FuncId} {a : Addr} (v : Word) (hu : mapped a = false)
    (h : s.core.admits (.host f) a.toNat) :
    exec (.unmappedWrite (.host f) a v) s = .next (s.on (s.core.freezeMaster (.host f) causePerm)) := by
  obtain ⟨hr, hf, -⟩ := h
  show execUnmappedWrite _ a v s = _
  unfold execUnmappedWrite
  rw [hu, Bool.not_false, onCoreIf_true]
  simp [hr, hf]

/-- An entry in the log changes nothing but the error block, and of that no freeze. -/
theorem Core.log_ffrz (c : Core) (e : ErrInfo) : (c.log e).err.ffrz = c.err.ffrz := by
  unfold Core.log
  dsimp only
  split <;> rfl

theorem Core.closeStreams_keeps {β : Type} (P : Core → β) (hP : ∀ (c : Core) g n x, P (c.setChan g n x) = P c) (c : Core) (g : SprigId)
    (cause : BitVec 3) : P (c.closeStreams g cause) = P c :=
  foldl_keeps P _ (fun _ _ => hP ..) _ _

/-- The sprig as a freeze leaves it (R78). -/
def Sprig.frozenWith (x : Sprig) (cause : Byte) (pc : BitVec 16) : Sprig :=
  { x with
    state := .frozen, cause := cause, faultPc := pc
    req := { x.req with rank1 := none, trace := false, block := .none, stepping := false } }

/-- What log, hands and channels do not touch, a freeze changes in its sprig alone. -/
theorem Core.freezeSprig_keeps {β : Type} (P : Core → β) (hlog : ∀ (c : Core) e, P (c.log e) = P c)
    (howner : ∀ (c : Core) o, P (c.ownerGone o) = P c) (hchan : ∀ (c : Core) g n x, P (c.setChan g n x) = P c) {c : Core} {g : SprigId}
    (cause : Byte) (pc : BitVec 16) (h : (c.sprig g).state = .run) :
    P (c.freezeSprig g cause pc) = P (c.setSprig g ((c.sprig g).frozenWith cause pc)) := by
  have hn : (c.sprig g).state ≠ .frozen := by rw [h]; decide
  unfold Core.freezeSprig
  dsimp only
  rw [if_neg hn]
  exact (hlog ..).trans ((howner ..).trans (Core.closeStreams_keeps P hchan ..))

/-- A sprig in RUN that commits a violation is frozen with its cause. -/
theorem Core.sprig_freezeSprig {c : Core} {g : SprigId} (cause : Byte) (pc : BitVec 16) (h : (c.sprig g).state = .run) :
    (c.freezeSprig g cause pc).sprig g = (c.sprig g).frozenWith cause pc := by
  have hs := Core.freezeSprig_keeps (fun c => c.sprig g) (fun c e => by simp [Core.sprig]) (fun _ _ => rfl) (fun _ _ _ _ => rfl) cause pc h
  rwa [Core.sprig_setSprig] at hs

theorem Core.freezeSprig_mem {c : Core} {g : SprigId} (cause : Byte) (pc : BitVec 16) (h : (c.sprig g).state = .run) :
    (c.freezeSprig g cause pc).mem = c.mem :=
  Core.freezeSprig_keeps Core.mem (fun c e => by simp) (fun _ _ => rfl) (fun _ _ _ _ => rfl) cause pc h

theorem Core.freezeSprig_fly {c : Core} {g : SprigId} (cause : Byte) (pc : BitVec 16) (h : (c.sprig g).state = .run) :
    (c.freezeSprig g cause pc).fly = c.fly :=
  Core.freezeSprig_keeps Core.fly (fun c e => by simp) (fun _ _ => rfl) (fun _ _ _ _ => rfl) cause pc h

/-- What the freeze of a function that is not frozen leaves. -/
theorem Core.freezeMaster_host {c : Core} {f : FuncId} (cause : Byte) (h : Tbl.get c.err.ffrz f.toNat 0 = 0) :
    let d := c.freezeMaster (.host f) cause
    Tbl.get d.err.ffrz f.toNat 0 = cause ∧ d.mem = c.mem ∧ d.fly = c.fly ∧ d.sprigs = c.sprigs := by
  unfold Core.freezeMaster
  dsimp only
  rw [if_pos h, Core.logFreeze, Core.log_ffrz]
  simp only [Core.log_rest, Tbl.get_set_self, and_self]

/-! ### Registers and the BAR2 window -/

theorem accessExists_regs {m : Master} {a : Addr} {how : RegAcc} (ha : inRegs a = true) (hw : how.window = false) :
    accessExists m a how = true := by
  simpa [accessExists, hw, inBlocks, Sys2Proof.between, inRegs] using ha

theorem misfit_eq_false {a : Addr} {how : RegAcc} : misfit a how = false ↔ how.size = 4 ∧ a.toNat % 4 = 0 := by
  simp [misfit]

theorem exec_registerWrite_regs {s : State} {m : Master} {a : Addr} {how : RegAcc} (v : Word) (ha : inRegs a = true)
    (hw : how.window = false) (hf : how.size = 4 ∧ a.toNat % 4 = 0) :
    exec (.registerWrite m a v how) s = .next (s.regWrite m (slotOf a) (offOf a) v) := by
  have h : execRegisterWrite m a v how s = .next (s.regWrite m (slotOf a) (offOf a) v) := by
    unfold execRegisterWrite
    rw [accessExists_regs ha hw, misfit_eq_false.mpr hf, hw, if_neg (by decide), if_neg (by decide), if_neg (by decide)]
  exact h

theorem exec_lowWordRead_regs {s : State} {m : Master} {a : Addr} {how : RegAcc} {w : Word} {d : Core} (ha : inRegs a = true)
    (hw : how.window = false) (hf : how.size = 4 ∧ a.toNat % 4 = 0) (hz : s.core.frozenMaster m = false) (hs : s.core.seesAll m = true)
    (hr : s.regRead m (slotOf a) (offOf a) = (w, d)) :
    exec (.lowWordRead m a how) s = .next (s.on (d.answer m w false false)) := by
  show execLowWordRead m a how s = _
  unfold execLowWordRead
  rw [accessExists_regs ha hw, misfit_eq_false.mpr hf, hw, hr]
  simp only [Bool.not_true, Bool.false_eq_true, if_false]
  refine (onCore_runs _ s).trans ?_
  rw [Core.readBy_seen _ hz (by rw [hs, Bool.true_or])]

theorem exec_lowWordRead_window {s : State} {f : FuncId} {a : Addr} {how : RegAcc} (hw : how.window = true) (hs : how.size = 4)
    (ha : a.toNat < 0x1000) (h4 : a.toNat % 4 = 0) (hz : s.core.frozenMaster (.host f) = false) :
    exec (.lowWordRead (.host f) a how) s
      = .next (s.on (s.core.answer (.host f) (s.core.windowRead (.host f) a.toNat) false false)) := by
  have he : accessExists (.host f) a how = true := by simp [accessExists, hw, ha]
  show execLowWordRead (.host f) a how s = _
  unfold execLowWordRead
  rw [he, misfit_eq_false.mpr ⟨hs, h4⟩, hw]
  simp only [Bool.not_true, Bool.false_eq_true, if_false, if_true]
  refine (onCore_runs _ s).trans ?_
  rw [Core.readBy_seen _ hz (Bool.or_true _)]

/-- The four indices that the BAR2 window of a function shows of its own pair k. -/
theorem Core.windowRead_own {c : Core} {f : FuncId} {k : BitVec 8} (h : pairFunc (c.pairCfg k) = f) :
    c.windowRead (.host f) (16 * k.toNat) = (c.hqp k).itail.setWidth 32
    ∧ c.windowRead (.host f) (16 * k.toNat + 4) = (c.hqp k).ihead.setWidth 32
    ∧ c.windowRead (.host f) (16 * k.toNat + 8) = (c.hqp k).otail.setWidth 32
    ∧ c.windowRead (.host f) (16 * k.toNat + 12) = (c.hqp k).ohead.setWidth 32 := by
  have hk : ∀ i < 16, BitVec.ofNat 8 ((16 * k.toNat + i) / 16) = k := by
    intro i hi
    rw [show (16 * k.toNat + i) / 16 = k.toNat by omega, BitVec.ofNat_toNat, BitVec.setWidth_eq]
  have hm : ∀ i < 16, (16 * k.toNat + i) % 16 = i := by omega
  have hs : c.windowShows (.host f) k = true := by simp [Core.windowShows, h]
  refine ⟨?_, ?_, ?_, ?_⟩
  · simp [Core.windowRead, hs]
  · simp [Core.windowRead, hk, hs, hm]
  · simp [Core.windowRead, hk, hs, hm]
  · simp [Core.windowRead, hk, hs, hm]

/-- An access of a wrong size or alignment. -/
theorem exec_registers_misfit {s : State} {m : Master} {a : Addr} {how : RegAcc} (v : Word) (he : accessExists m a how = true)
    (hf : ¬(how.size = 4 ∧ a.toNat % 4 = 0)) :
    exec (.registerWrite m a v how) s = .next (s.on (s.core.refuseMisfit m a))
    ∧ exec (.lowWordRead m a how) s = .next (s.on (s.core.refuseMisfit m a)) := by
  have hm : misfit a how = true := by rwa [← misfit_eq_false, Bool.not_eq_false] at hf
  constructor
  · show execRegisterWrite m a v how s = _
    unfold execRegisterWrite
    rw [he, hm]
    rfl
  · show execLowWordRead m a how s = _
    unfold execLowWordRead
    rw [he, hm]
    rfl

/-! ### What each region's accesses leave -/

section
variable {s : State} {m : Master} {a : Addr}

theorem debugViewRead_image (hl : s.core.admitsView m a.toNat) (h4 : a.toNat % 4 = 0) (h1 : 0x18000 ≤ viewOff a.toNat)
    (h2 : viewOff a.toNat < 0x18100) : Runs (exec (.debugViewRead m a) s) fun t =>
      t.core.shows m ((s.core.sprig (viewSprig a.toNat)).imageWord ((viewOff a.toNat - 0x18000) / 4))
      ∧ t.core.sprig (viewSprig a.toNat) = s.core.sprig (viewSprig a.toNat) := by
  refine ⟨_, exec_debugViewRead hl (Core.viewRead_image hl.1 h4 h1 h2), ?_, rfl⟩
  rw [wordOf_bytesOf]
  exact Core.shows_answer ..

theorem debugViewWrite_bank (v : Word) (hl : s.core.admitsView m a.toNat) (h4 : a.toNat % 4 = 0) (ho : viewOff a.toNat < 0xC000)
    (hs : s.core.stopped m (viewSprig a.toNat) = true) : Runs (exec (.debugViewWrite m a v) s) fun t =>
      t.core.word a.toNat = v ∧ SameBytesBut s.core t.core a.toNat 4 ∧ t.core.sprigs = s.core.sprigs := by
  obtain ⟨hmem, hspr⟩ := Core.viewWrite_bank (c := s.core.touch (bunchOf (viewSprig a.toNat))) v hl.1 h4 ho hs
  refine ⟨_, exec_debugViewWrite v hl, ?_, fun b hb => ?_, hspr⟩
  · exact (Core.word_congr hmem _).trans (Core.word_setBytes_self ..)
  · exact (Core.byte_congr hmem b).trans (Core.setBytes_same_but _ _ (bytesOf v 4) b (by rwa [bytesOf_length]))

theorem debugViewWrite_reg (v : Word) (hl : s.core.admitsView m a.toNat) (hs : s.core.stopped m (viewSprig a.toNat) = true) (k : BitVec 4)
    (ho : viewOff a.toNat = 0x18000 + 4 * k.toNat) (hb : (s.core.sprig (viewSprig a.toNat)).board.getLsbD k.toNat = false) :
    Runs (exec (.debugViewWrite m a v) s) fun t =>
      t.core.sprig (viewSprig a.toNat) = (s.core.sprig (viewSprig a.toNat)).setD k v ∧ t.core.mem = s.core.mem := by
  refine ⟨_, exec_debugViewWrite v hl, ?_⟩
  rw [Core.viewWrite_reg (c := s.core.touch _) v k hs ho hb]
  exact ⟨Core.sprig_setSprig .., rfl⟩

theorem debugViewWrite_deaf (v : Word) (hl : s.core.admitsView m a.toNat) (hs : s.core.stopped m (viewSprig a.toNat) = false) :
    Runs (exec (.debugViewWrite m a v) s) fun t => t.core.mem = s.core.mem ∧ t.core.sprigs = s.core.sprigs := by
  refine ⟨_, exec_debugViewWrite v hl, ?_⟩
  rw [Core.viewWrite_deaf (c := s.core.touch _) _ hs]
  simp [Core.ignored]

/-- Outside its window a function's access to the debug view does nothing. -/
theorem debugView_outside (v : Word) {f : FuncId} (hr : s.core.bar4Reaches (.host f) a.toNat 4 = false) (hl : isLocals a.toNat = true) :
    exec (.debugViewRead (.host f) a) s = .next s ∧ exec (.debugViewWrite (.host f) a v) s = .next s := by
  constructor
  · show execDebugViewRead (.host f) a s = _
    unfold execDebugViewRead
    rw [hl, onCoreIf_true]
    simp [hr, State.on]
  · show execDebugViewWrite (.host f) a v s = _
    unfold execDebugViewWrite
    rw [hl, onCoreIf_true]
    simp [hr, State.on]

theorem controlStoreWrite_word (v : Word) (hm : (∃ k, m = .sprig k ∧ isSteward k = true) ∨ m = .bootRom) (hn : isStore a.toNat = true)
    (ho : (a.toNat - 0x5000000000) % 0x8000 < 0x4400) (ha : s.core.asleep (bunchOf (storeSprig a.toNat)) = false)
    (hs : s.core.stopped .bootRom (storeSprig a.toNat) = true) : Runs (exec (.controlStoreWrite m a v) s) fun t =>
      t.core.word a.toNat = v ∧ SameBytesBut s.core t.core a.toNat 4 ∧ t.core.csMark a.toNat = .ok ∧ t.core.sprigs = s.core.sprigs := by
  have h := exec_controlStoreWrite (s := s) v hm hn
  rw [Core.storeWrite_word v hn ho ha hs] at h
  refine ⟨_, h, ?_, fun b hb => ?_, ?_, ?_⟩
  · exact (Core.word_congr (Core.setCsMark_mem ..) _).trans (Core.word_setBytes_self ..)
  · exact (Core.byte_congr (Core.setCsMark_mem ..) b).trans
      (Core.setBytes_same_but (s.core.touch _) _ (bytesOf v 4) b (by rwa [bytesOf_length]))
  · exact Core.csMark_setCsMark ..
  · exact Core.setBytes_sprigs ..

theorem controlStoreWrite_host (v : Word) {f : FuncId} (hn : isStore a.toNat = true) (hr : s.core.bar4Reaches (.host f) a.toNat 4 = true) :
    exec (.controlStoreWrite (.host f) a v) s = .next (s.on (s.core.answer (.host f) 0 false true)) := by
  show execControlStoreWrite (.host f) a v s = _
  unfold execControlStoreWrite
  rw [hn, Bool.true_or, onCoreIf_true]
  simp [Core.storeAccess, hr]

theorem unmappedRead_zero (hu : mapped a = false) (hr : s.core.admits m a.toNat) (hlog : s.core.err.takes 0 = true) :
    Runs (exec (.unmappedRead m a) s) fun t => t.core.shows m 0 ∧ t.core.mem = s.core.mem ∧ t.core.sprigs = s.core.sprigs
      ∧ t.core.lastLog = some { cls := 0, source := masterSource m, code := 0x0006, unit := masterNum m, detail := 0, addr := a } := by
  have hmem : (s.core.logRead m a).mem = s.core.mem := by simp [Core.logRead]
  have hspr : (s.core.logRead m a).sprigs = s.core.sprigs := by simp [Core.logRead]
  exact ⟨_, exec_unmappedRead hu hr, Core.shows_answer .., hmem, hspr, Core.lastLog_log hlog⟩

theorem unmappedWrite_sprig (v : Word) {k : SprigId} (hu : mapped a = false) (hk : (s.core.sprig k).state = .run) :
    Runs (exec (.unmappedWrite (.sprig k) a v) s) fun t =>
      (t.core.sprig k).state = .frozen ∧ (t.core.sprig k).cause = 1 ∧ t.core.mem = s.core.mem ∧ t.core.fly = s.core.fly := by
  have hx := Core.sprig_freezeSprig causePerm (s.core.sprig k).pc hk
  refine ⟨_, exec_unmappedWrite_sprig v hu, ?_, ?_, Core.freezeSprig_mem _ _ hk, Core.freezeSprig_fly _ _ hk⟩
  · exact congrArg Sprig.state hx
  · exact congrArg Sprig.cause hx

theorem unmappedWrite_host (v : Word) {f : FuncId} (hu : mapped a = false) (hr : s.core.admits (.host f) a.toNat) :
    Runs (exec (.unmappedWrite (.host f) a v) s) fun t =>
      Tbl.get t.core.err.ffrz f.toNat 0 = 1 ∧ t.core.mem = s.core.mem ∧ t.core.fly = s.core.fly ∧ t.core.sprigs = s.core.sprigs := by
  have hz : Tbl.get s.core.err.ffrz f.toNat 0 = 0 := by
    have hf := hr.2.1
    simp only [Core.frozenMaster, Bool.or_eq_false_iff, decide_eq_false_iff_not, not_not] at hf
    exact hf.1
  exact ⟨_, exec_unmappedWrite_host v hu hr, Core.freezeMaster_host causePerm hz⟩

end

end Sys2Proof.Machine

open Sys2Proof Sys2Proof.Machine

/-- Settles O21, region by region: the debug view, the control stores, unmapped addresses, registers, the BAR2 window, misfits. -/
theorem deviceAddresses : Obligations.DeviceAddresses := by
  intro s m a v how c n g o reached local_ shown h fits
  refine ⟨debugViewRead_image, fun hl h4 ho hb => exec_debugViewRead hl (Core.viewRead_bank hl.1 h4 ho hb), debugViewWrite_bank v,
    fun hl _ => debugViewWrite_reg v hl, fun hl _ => debugViewWrite_deaf v hl, ?_, fun hm hn ho _ => controlStoreWrite_word v hm hn ho,
    ?_, unmappedRead_zero, ?_, ?_, exec_registerWrite_regs v,
    fun ha hw hf hz hs => ⟨_, exec_lowWordRead_regs ha hw hf hz hs Prod.mk.eta.symm, Core.shows_answer ..⟩, ?_, ?_, ?_⟩
  · rintro f rfl hr hl
    exact debugView_outside v hr hl
  · rintro f rfl hn hr
    exact controlStoreWrite_host v hn hr
  · rintro hu k rfl hk
    exact unmappedWrite_sprig v hu hk
  · rintro hu hr f rfl
    exact unmappedWrite_host v hu hr
  · rintro f k rfl hw hs hz hk
    obtain ⟨h0, h4, h8, h12⟩ := Core.windowRead_own hk
    have hk' := k.isLt
    have hread (i : Nat) (hi : i < 16) (h4 : i % 4 = 0) (hn : n = 16 * k.toNat + i) := by
      have := exec_lowWordRead_window hw hs (show a.toNat < 0x1000 by omega) (show a.toNat % 4 = 0 by omega) hz
      rwa [show a.toNat = 16 * k.toNat + i from hn] at this
    refine ⟨fun hn => ?_, fun hn => ?_, fun hn => ?_, fun hn => ?_⟩
    · rw [← h0]; exact hread 0 (by omega) rfl hn
    · rw [← h12]; exact hread 12 (by omega) rfl hn
    · rw [← h4]; exact hread 4 (by omega) rfl hn
    · rw [← h8]; exact hread 8 (by omega) rfl hn
  · rintro f rfl he hf
    exact exec_registers_misfit v he hf
  · rintro k rfl ha hw hf hi
    have h := exec_registers_misfit (s := s) v (accessExists_regs (m := .sprig k) ha hw) hf
    rwa [Core.refuseMisfit, if_pos hi] at h
end

section
/-!
PROOFS. The Sorrel island: how a request crosses, is served and is answered.
-/
namespace Sys2Proof.Machine

/-! ### Requests on the core side -/

/-- A request stands at the island. -/
def State.crossed (s : State) (req : List Byte) : Prop := s.core.met.request = some req ∧ 16 ≤ req.length

/-- The state after the mailbox has ended a request with a result and bytes. -/
def State.ended (s : State) (r : Byte) (bs : List Byte) : State :=
  { s with
    core := { s.core with met := { s.core.met with
      busy := false, done := true, result := r, rlen := BitVec.ofNat 13 bs.length, request := none
      rsp := if bs.isEmpty then s.core.met.rsp else bs } }
    isl := { s.isl with reply := none } }

theorem srcOf_srcKey (q : CmdSrc) : srcOf (srcKey q) = q := by
  cases q with
  | pair h =>
    have hh := h.isLt
    rw [srcKey, srcOf, if_pos (by omega), BitVec.ofNat_toNat, BitVec.setWidth_eq]
  | sprig g n =>
    have hn := n.isLt
    have hg : BitVec.ofNat 11 ((256 + (16 * g.toNat + n.toNat) - 256) / 16) = g := by
      rw [show (256 + (16 * g.toNat + n.toNat) - 256) / 16 = g.toNat by omega, BitVec.ofNat_toNat, BitVec.setWidth_eq]
    have hk : BitVec.ofNat 4 (256 + (16 * g.toNat + n.toNat) - 256) = n := by
      apply BitVec.eq_of_toNat_eq
      rw [BitVec.toNat_ofNat]
      omega
    rw [srcKey, srcOf, if_neg (by omega), chanKey, hg, hk]

/-- No command stands at a queue: none of the Sorrel family does. -/
theorem Core.sorrelHead_nil {c : Core} (h : c.cmds = []) : c.sorrelHead = none := by simp [Core.sorrelHead, h]

theorem Core.sorrelBegun_nil {c : Core} (h : c.cmds = []) : c.sorrelBegun = none := by simp [Core.sorrelBegun, h]

/-- The first queue's head is a Sorrel command that has begun. -/
theorem Core.sorrelBegun_cons {c : Core} {q : CmdSrc} {x : Cmd} {rest : List Cmd} {l : Tbl (List Cmd)}
    (h : c.cmds = (srcKey q, x :: rest) :: l) (hb : x.begun = true) (ho : x.opcode.toNat / 256 = 8) : c.sorrelBegun = some (q, x) := by
  simp [Core.sorrelBegun, h, hb, ho, srcOf_srcKey]

/-- With no command waiting nothing starts. -/
theorem State.startSorrel_nil {s : State} (h : s.core.cmds = []) : s.startSorrel = s := by
  unfold State.startSorrel
  rw [Core.sorrelHead_nil h]
  split <;> rfl

theorem State.metFinish_ended {s : State} {r : Byte} {bs : List Byte} (h : bs.length ≤ 4096) :
    s.metFinish r bs = (s.ended r bs).on ((s.ended r bs).core.answerSorrel r bs) := by
  unfold State.metFinish
  rw [List.take_of_length_le h]
  rfl

theorem Core.answerSorrel_nil {c : Core} (r : Byte) (bs : List Byte) (h : c.cmds = []) : c.answerSorrel r bs = c := by
  rw [Core.answerSorrel, Core.sorrelBegun_nil h]

/-- A request's end with no command waiting for it. -/
theorem State.metFinish_nil {s : State} {r : Byte} {bs : List Byte} (h : bs.length ≤ 4096) (hc : s.core.cmds = []) :
    (s.metFinish r bs).startSorrel = s.ended r bs := by
  have hf : s.metFinish r bs = s.ended r bs := by
    rw [State.metFinish_ended h, Core.answerSorrel_nil (c := (s.ended r bs).core) r bs hc]
    rfl
  rw [hf]
  exact State.startSorrel_nil hc

/-! ### Replies leave the queues of commands and the mailbox -/

theorem Core.hostWrite_keeps {β : Type} (P : Core → β) (hP : ∀ (c : Core) l, P { c with hmem := l } = P c) (c : Core) (a : Nat)
    (bs : List Byte) : P (c.hostWrite a bs) = P c := by
  induction bs generalizing c a with
  | nil => rfl
  | cons b bs ih => rw [Core.hostWrite, ih, hP]

theorem Core.sendReply_keeps {β : Type} (P : Core → β) (hmem : ∀ (c : Core) l, P { c with hmem := l } = P c)
    (hrep : ∀ (c : Core) l, P { c with replies := l } = P c) (hhqp : ∀ (c : Core) h x, P (c.setHqp h x) = P c) (c : Core) (q : CmdSrc)
    (x : Cmd) (r : Reply) : P (c.sendReply q x r) = P c := by
  cases q with
  | pair h =>
    show P (c.writeOutbound _ _ _) = P c
    rw [Core.writeOutbound, hhqp, Core.hostWrite_keeps P hmem, Core.hostWrite_keeps P hmem]
  | sprig g n =>
    unfold Core.sendReply
    dsimp only
    split
    · exact hrep ..
    · rfl

theorem Core.sendReply_cmds (c : Core) (q : CmdSrc) (x : Cmd) (r : Reply) : (c.sendReply q x r).cmds = c.cmds :=
  Core.sendReply_keeps Core.cmds (fun _ _ => rfl) (fun _ _ => rfl) (fun _ _ _ => rfl) c q x r

theorem Core.sendReply_met (c : Core) (q : CmdSrc) (x : Cmd) (r : Reply) : (c.sendReply q x r).met = c.met :=
  Core.sendReply_keeps Core.met (fun _ _ => rfl) (fun _ _ => rfl) (fun _ _ _ => rfl) c q x r

theorem Core.settle_met (c : Core) (q : CmdSrc) (n : Nat) : (c.settle q n).met = c.met := by
  induction n generalizing c with
  | zero => rfl
  | succ n ih =>
    unfold Core.settle
    repeat' split
    · rfl
    · rfl
    · rw [ih, Core.sendReply_met]
      rfl

theorem Core.answerCmd_met (c : Core) (q : CmdSrc) (r : Reply) : (c.answerCmd q r).met = c.met := by
  unfold Core.answerCmd
  split
  · rfl
  · rw [Core.settle_met, Core.sendReply_met]
    rfl

/-- The answer of the only command empties the queues. -/
theorem Core.answerCmd_cmds_single {c : Core} {q : CmdSrc} {x : Cmd} (r : Reply) (h : c.cmds = [(srcKey q, [x])]) :
    (c.answerCmd q r).cmds = [] := by
  have hq : c.cmdsOf q = [x] := by simp [Core.cmdsOf, h, Tbl.get]
  rw [Core.answerCmd, hq]
  show (Core.sendReply _ q x r).cmds = []
  rw [Core.sendReply_cmds]
  simp [Core.setCmds, h, Tbl.set, Tbl.erase]

/-! ### Serving (R322) -/

/-- The island serves request n, which stands there in a form that its firmware takes up. -/
def State.serves (s : State) (req : List Byte) (n : Nat) : Prop :=
  s.crossed req ∧ s.isl.reply = none ∧ s.isl.inReset = false ∧ reqNum req = n ∧ (n = 1 ∨ n = 7 ∨ s.isl.prog ≠ .refused)

/-- The state with the island's answer before it crosses. -/
def State.answers (s : State) (y : Island × Byte × List Byte) : State := { s with isl := { y.1 with reply := some (y.2.1, y.2.2) } }

section
variable {s : State} {req : List Byte} {n len : Nat} {body : List Byte → Island → Island × Byte × List Byte}

theorem serve_noRequest (h : s.core.met.request = none) (h' : s.startSorrel.core.met.request = none) :
    serve n len body s = .next s.startSorrel := by
  simp only [serve, h, h', Option.isNone_none, if_true, ite_self]

theorem serve_otherwise (hc : s.crossed req) (h : s.isl.inReset = true ∨ s.isl.reply ≠ none ∨ reqNum req ≠ n) :
    serve n len body s = .next s := by
  simp only [serve, hc.1, Option.isNone_some, Bool.false_eq_true, if_false]
  split
  · rfl
  · next hb =>
    simp only [Bool.or_eq_true, not_or, Bool.not_eq_true, Option.isSome_eq_false_iff, Option.isNone_iff_eq_none] at hb
    rcases h with h | h | h
    · exact absurd h (by simp [hb.1])
    · exact absurd hb.2 h
    · rw [if_pos (.inl h)]

theorem serve_refused (hc : s.crossed req) (hr : s.isl.inReset = false) (hb : s.isl.reply = none) (hn : reqNum req = n)
    (hp : s.isl.prog = .refused) (h1 : n ≠ 1) (h7 : n ≠ 7) : serve n len body s = .next (s.answers (s.isl, 6, [])) := by
  have hl : ¬(reqNum req ≠ n ∨ req.length < 16) := by
    have := hc.2
    omega
  have hi : (s.isl.inReset || s.isl.reply.isSome) = false := by simp [hr, hb]
  simp only [serve, hc.1, hi, Option.isNone_some, Bool.false_eq_true, if_false, if_neg hl, if_pos (And.intro hp (And.intro h1 h7))]
  rfl

theorem serve_served (h : s.serves req n) :
    serve n len body s = .next (if 0 < len ∧ req.length ≠ len then s.answers (s.isl, 1, []) else s.answers (body req s.isl)) := by
  obtain ⟨⟨hq, h16⟩, hb, hr, hn, hp⟩ := h
  have hl : ¬(reqNum req ≠ n ∨ req.length < 16) := by omega
  have hp' : ¬(s.isl.prog = .refused ∧ n ≠ 1 ∧ n ≠ 7) := by
    rintro ⟨hp1, h1, h7⟩
    rcases hp with hp | hp | hp
    · exact h1 hp
    · exact h7 hp
    · exact hp hp1
  have hi : (s.isl.inReset || s.isl.reply.isSome) = false := by simp [hr, hb]
  simp only [serve, hq, hi, Option.isNone_some, Bool.false_eq_true, if_false, if_neg hl, if_neg hp']
  split <;> rfl

theorem serve_badLength (h : s.serves req n) (h0 : 0 < len) (hl : req.length ≠ len) : serve n len body s = .next (s.answers (s.isl, 1, [])) := by
  rw [serve_served h, if_pos ⟨h0, hl⟩]

theorem serve_body (h : s.serves req n) (hl : len = 0 ∨ req.length = len) : serve n len body s = .next (s.answers (body req s.isl)) := by
  rw [serve_served h, if_neg (by omega)]

end

/-! ### GO, DONE and the timeout (R320 to R324) -/

section
variable {s : State} {g : SprigId} {v : Word} {req : List Byte}

theorem metRqctlGo_starts (hg : isSteward g = true) (he : s.isl.enabled = true) (hv : v.getLsbD 31 = true) (hb : s.metBusy = false) :
    exec (.metRqctlGo (.sprig g) v) s = .next (s.metGo
      ((List.range (v.setWidth 13 : BitVec 13).toNat).map fun k => Tbl.get s.core.met.reqBuf k 0)) := by
  show Host.Outcome.next (s.writeRqctl (.sprig g) v) = _
  simp [State.writeRqctl, hg, he, hv, hb, Core.frozenMaster]

theorem metRqctlGo_busy (hg : isSteward g = true) (he : s.isl.enabled = true) (hv : v.getLsbD 31 = true) (hb : s.metBusy = true) :
    exec (.metRqctlGo (.sprig g) v) s = .next (s.on (s.core.ignoredReg (.sprig g) 323 0x13 0x200)) := by
  show Host.Outcome.next (s.writeRqctl (.sprig g) v) = _
  simp [State.writeRqctl, hg, he, hv, hb, Core.frozenMaster, State.on]

theorem metRqctlGo_nothing (hg : isSteward g = true) (h : s.isl.enabled = false ∨ v.getLsbD 31 = false) :
    exec (.metRqctlGo (.sprig g) v) s = .next s := by
  show Host.Outcome.next (s.writeRqctl (.sprig g) v) = _
  have hc : (!s.isl.enabled || s.core.frozenMaster (.sprig g) || !v.getLsbD 31) = true := by
    rcases h with h | h <;> rw [h] <;> simp
  simp only [State.writeRqctl, hg, hc, Bool.not_true, Bool.false_eq_true, if_false, if_true]

theorem metRqctlGo_denied (hg : isSteward g = false) :
    exec (.metRqctlGo (.sprig g) v) s = .next (s.on (s.core.freezeSprig g causePerm (s.core.sprig g).pc)) := by
  show Host.Outcome.next (s.writeRqctl (.sprig g) v) = _
  simp [State.writeRqctl, hg, Core.writeBy, Core.frozenMaster, State.on]

theorem metRequestDone_inReset (h : s.isl.inReset = true) : exec .metRequestDone s = .next s := by
  show execMetRequestDone s = _
  rw [execMetRequestDone, if_pos h]

theorem metRequestDone_reply {r : Byte} {bs : List Byte} (hc : s.crossed req) (hr : s.isl.inReset = false) (hb : s.isl.reply = some (r, bs)) :
    exec .metRequestDone s = .next (s.metFinish r bs).startSorrel := by
  show execMetRequestDone s = _
  rw [execMetRequestDone, if_neg (by simp [hr]), hc.1, hb]

theorem metRequestDone_noReply (hq : s.core.met.request = some req) (hr : s.isl.inReset = false) (hb : s.isl.reply = none) :
    exec .metRequestDone s
      = .next (if knownReq (reqNum req) && decide (16 ≤ req.length) then s else (s.metFinish resBadReq []).startSorrel) := by
  show execMetRequestDone s = _
  rw [execMetRequestDone, if_neg (by simp [hr]), hq, hb]

theorem metRequestDone_ends {r : Byte} {bs : List Byte} (hc : s.crossed req) (hr : s.isl.inReset = false) (hb : s.isl.reply = some (r, bs))
    (hl : bs.length ≤ 4096) (hn : s.core.cmds = []) : exec .metRequestDone s = .next (s.ended r bs) := by
  rw [metRequestDone_reply hc hr hb, State.metFinish_nil hl hn]

theorem metRequestDone_unknown (hq : s.core.met.request = some req) (hr : s.isl.inReset = false) (hb : s.isl.reply = none)
    (hu : reqNum req = 0 ∨ 10 < reqNum req ∨ req.length < 16) (hn : s.core.cmds = []) : exec .metRequestDone s = .next (s.ended 1 []) := by
  have hk : (knownReq (reqNum req) && decide (16 ≤ req.length)) = false := by
    simp only [knownReq, Bool.and_eq_false_iff, decide_eq_false_iff_not]
    omega
  rw [metRequestDone_noReply hq hr hb, hk]
  exact congrArg Host.Outcome.next (State.metFinish_nil (by simp) hn)

theorem metRequestDone_waits (hc : s.crossed req) (hb : s.isl.reply = none) (h1 : 1 ≤ reqNum req) (h10 : reqNum req ≤ 10) :
    exec .metRequestDone s = .next s := by
  cases hr : s.isl.inReset with
  | true => exact metRequestDone_inReset hr
  | false =>
    have hk : (knownReq (reqNum req) && decide (16 ≤ req.length)) = true := by simp [knownReq, h1, h10, hc.2]
    rw [metRequestDone_noReply hc.1 hr hb, if_pos hk]

/-- The command status of a RESULT other than OK, as R322 lists them. -/
theorem resultStatus_eq {r : Byte} (h1 : 1 ≤ r.toNat) (h8 : r.toNat ≤ 8) :
    resultStatus r = ([0x0101, 0x0301, 0x0300, 0x0200, 0x0300, 0x0200, 0x0200, 0x0501][r.toNat - 1]?).getD 0 := by
  unfold resultStatus
  generalize r.toNat = n at h1 h8
  interval_cases n <;> rfl

/-- The end of a request of a waiting command answers the command. -/
theorem metRequestDone_answers {q : CmdSrc} {c : Cmd} {r : Byte} {bs : List Byte} (hc : s.crossed req) (hr : s.isl.inReset = false)
    (hb : s.isl.reply = some (r, bs)) (hl : bs.length ≤ 4096) (hq : s.core.cmds = [(srcKey q, [c])]) (hbegun : c.begun = true)
    (ho : c.opcode.toNat / 256 = 8) (h1 : 1 ≤ r.toNat) (h8 : r.toNat ≤ 8) :
    exec .metRequestDone s = .next ((s.ended r bs).on ((s.ended r bs).core.answerCmd q
      ⟨([0x0101, 0x0301, 0x0300, 0x0200, 0x0300, 0x0200, 0x0200, 0x0501][r.toNat - 1]?).getD 0, [r.setWidth 32]⟩)) := by
  have hne : r ≠ resOk := by
    rintro rfl
    exact absurd h1 (by decide)
  have ha : (s.ended r bs).core.answerSorrel r bs = (s.ended r bs).core.answerCmd q ⟨resultStatus r, [r.setWidth 32]⟩ := by
    rw [Core.answerSorrel, Core.sorrelBegun_cons (c := (s.ended r bs).core) hq hbegun ho]
    exact if_neg hne
  rw [metRequestDone_reply hc hr hb, State.metFinish_ended hl, ha, resultStatus_eq h1 h8]
  exact congrArg Host.Outcome.next (State.startSorrel_nil (Core.answerCmd_cmds_single (c := (s.ended r bs).core) _ hq))

theorem metDoneTimeout_abandons {q : CmdSrc} {c : Cmd} {rest : List Cmd} (hq : s.core.cmds = [(srcKey q, c :: rest)])
    (hb : c.begun = true) (ho : c.opcode.toNat / 256 = 8) :
    exec .metDoneTimeout s = .next (s.on (s.core.answerCmd q ⟨0x0501, [0xFF]⟩)) := by
  show execMetDoneTimeout s = _
  rw [execMetDoneTimeout, onCore_runs]
  rw [Core.sorrelBegun_cons hq hb ho]
  rfl

theorem metDoneTimeout_nothing (h : s.core.cmds = []) : exec .metDoneTimeout s = .next s := by
  show execMetDoneTimeout s = _
  rw [execMetDoneTimeout, onCore_runs]
  rw [Core.sorrelBegun_nil h]
  rfl

/-- On a -S variant a Sorrel command is answered DENIED (R3). -/
theorem metIdentify_absent {q : CmdSrc} {c : Cmd} (he : s.isl.enabled = false) (hq : s.core.met.request = none)
    (hs : s.core.boot.steward = true) (hh : s.core.sorrelHead = some (q, c)) :
    exec .metIdentify s = .next (s.on (s.core.answerCmd q ⟨0x0300, [1]⟩)) := by
  have ht : s.startSorrel = s.on (s.core.answerCmd q ⟨0x0300, [1]⟩) := by
    unfold State.startSorrel
    rw [hs, hh, he]
    rfl
  have hm : (s.on (s.core.answerCmd q ⟨0x0300, [1]⟩)).core.met.request = none := by
    rw [State.on_core, Core.answerCmd_met, hq]
  show execMetIdentify s = _
  rw [execMetIdentify, serve_noRequest hq (by rw [ht, hm]), ht]

end

/-! ### Records by SEQ (R322) -/

/-- Record first + j has been made. -/
def Island.made (x : Island) (first : Word) (j : Nat) : Prop := (first + BitVec.ofNat 32 j - x.seq).toInt < 0

/-- Record first + j, if it is still retained. -/
def Island.kept (x : Island) (first : Word) (j : Nat) : Option (Word × List Byte) := x.retained.find? fun e => e.1 == first + BitVec.ofNat 32 j

/-- The SEQ after `first` counts one further. -/
theorem seq_add_succ (first : Word) (j : Nat) : first + 1 + BitVec.ofNat 32 j = first + BitVec.ofNat 32 (j + 1) := by
  rw [BitVec.add_assoc, Nat.add_comm j 1, BitVec.ofNat_add]
  rfl

theorem Island.made_succ (x : Island) (first : Word) (j : Nat) : x.made (first + 1) j ↔ x.made first (j + 1) := by
  rw [Island.made, Island.made, seq_add_succ]

theorem Island.kept_succ (x : Island) (first : Word) (j : Nat) : x.kept (first + 1) j = x.kept first (j + 1) := by
  rw [Island.kept, Island.kept, seq_add_succ]

theorem Island.made_zero (x : Island) (first : Word) : x.made first 0 ↔ ¬(first - x.seq).toInt ≥ 0 := by
  rw [Island.made, show first + BitVec.ofNat 32 0 = first from BitVec.add_zero first]
  omega

theorem Island.kept_zero (x : Island) (first : Word) : x.kept first 0 = x.retained.find? fun e => e.1 == first := by
  rw [Island.kept, show first + BitVec.ofNat 32 0 = first from BitVec.add_zero first]

/-- The images end at the first record that has not been made. -/
theorem Island.records_unmade {x : Island} {first : Word} (k : Nat) (h : ¬x.made first 0) : x.records first (k + 1) = some [] := by
  rw [Island.made_zero, not_not] at h
  rw [Island.records, if_pos h]

theorem Island.records_cons {x : Island} {first : Word} {k : Nat} {e : Word × List Byte} {rest : List Byte} (hm : x.made first 0)
    (hk : x.kept first 0 = some e) (hr : x.records (first + 1) k = some rest) : x.records first (k + 1) = some (e.2 ++ rest) := by
  rw [Island.made_zero] at hm
  rw [Island.kept_zero] at hk
  rw [Island.records, if_neg hm, hk, hr]

theorem Island.records_none {x : Island} {first : Word} {k : Nat} (hm : x.made first 0)
    (h : x.kept first 0 = none ∨ x.records (first + 1) k = none) : x.records first (k + 1) = none := by
  rw [Island.made_zero] at hm
  rw [Island.kept_zero] at h
  rw [Island.records, if_neg hm]
  rcases h with h | h
  · rw [h]
  · rw [h]
    cases x.retained.find? _ <;> rfl

/-- Records that are made and retained, up to k or to the first that has not been made. -/
theorem Island.records_retained {x : Island} {first : Word} {k n : Nat} {img : Nat → List Byte} (hn : n ≤ k)
    (hend : n = k ∨ ¬x.made first n) (h : ∀ j, j < n → x.made first j ∧ x.kept first j = some (first + BitVec.ofNat 32 j, img j)) :
    x.records first k = some ((List.range n).flatMap img) := by
  induction k generalizing first n img with
  | zero =>
    obtain rfl : n = 0 := by omega
    rfl
  | succ k ih =>
    cases n with
    | zero => exact Island.records_unmade k (hend.resolve_left (by omega))
    | succ n =>
      obtain ⟨hm, hk⟩ := h 0 (by omega)
      have hrest : x.records (first + 1) k = some ((List.range n).flatMap fun j => img (j + 1)) := by
        refine ih (by omega) (hend.imp (by omega) (by rw [Island.made_succ]; exact id)) fun j hj => ?_
        rw [Island.made_succ, Island.kept_succ, seq_add_succ]
        exact h (j + 1) (by omega)
      rw [Island.records_cons hm hk hrest, List.range_succ_eq_map, List.flatMap_cons, List.flatMap_map]

/-- A record that is made and no longer retained. -/
theorem Island.records_gone {x : Island} {first : Word} {k n : Nat} (hn : n < k) (hm : ∀ j, j ≤ n → x.made first j)
    (hk : x.kept first n = none) : x.records first k = none := by
  induction k generalizing first n with
  | zero => omega
  | succ k ih =>
    refine Island.records_none (hm 0 (by omega)) ?_
    cases n with
    | zero => exact .inl hk
    | succ n =>
      exact .inr (ih (by omega) (fun j hj => (Island.made_succ ..).mpr (hm (j + 1) (by omega))) ((Island.kept_succ ..).trans hk))

/-! ### The latest record (R336) -/

/-- Record q with chain value h is the latest. -/
def Island.isLatest (x : Island) (q : Word) (h : BitVec 256) : Prop :=
  (x.restart = true ∧ (∃ k b, x.committed = some (q, k, b)) ∧ h = x.chain)
  ∨ (x.restart = false ∧ (x.retained ≠ [] ∨ x.committed ≠ none) ∧ q = x.seq - 1 ∧ h = x.chain)

/-- There is no record to sign. -/
def Island.unsigned (x : Island) : Prop := x.committed = none ∧ (x.restart = true ∨ x.retained = [])

theorem Island.latest_isLatest {x : Island} {q : Word} {h : BitVec 256} (hl : x.isLatest q h) : x.latest = some (q, h) := by
  unfold Island.latest
  rcases hl with ⟨hr, ⟨k, b, hc⟩, rfl⟩ | ⟨hr, hne, rfl, rfl⟩
  · rw [if_pos hr, hc]
    rfl
  · have hc : ¬(x.retained.isEmpty && x.committed.isNone) = true := by
      rw [Bool.and_eq_true, List.isEmpty_iff, Option.isNone_iff_eq_none]
      exact fun ⟨h1, h2⟩ => hne.elim (· h1) (· h2)
    rw [if_neg (by simp [hr]), if_neg hc]

theorem Island.latest_unsigned {x : Island} (hu : x.unsigned) : x.latest = none := by
  obtain ⟨hc, hr⟩ := hu
  unfold Island.latest
  rcases hr with hr | hr <;> simp [hc, hr]

/-! ### Requests without a signature -/

theorem between_outside {lo n hi : Nat} (h : n < lo ∨ hi < n) : (!between lo n hi) = true := by
  simp only [between, Bool.not_eq_true', Bool.and_eq_false_iff, decide_eq_false_iff_not]
  omega

theorem between_inside {lo n hi : Nat} (h1 : lo ≤ n) (h2 : n ≤ hi) : ¬(!between lo n hi) = true := by simp [between, h1, h2]

section
variable {s : State} {req : List Byte}

/-- The request of n, which has the length of those without parameters. -/
def State.servesPlain (s : State) (req : List Byte) (n : Nat) : Prop := s.serves req n ∧ req.length = 16

theorem metIdentify_served (h : s.servesPlain req 1) : exec .metIdentify s
    = .next (s.answers (s.isl, 0, s.isl.identity ++ padTo 1312 Config.islandKey ++ Config.islandCert)) := by
  show execMetIdentify s = _
  unfold execMetIdentify
  exact serve_body h.1 (.inr h.2)

theorem readResults_badCount (h : s.servesPlain req 2) (hk : (pword req 2).toNat = 0 ∨ 63 < (pword req 2).toNat) :
    exec .readResults s = .next (s.answers (s.isl, 1, [])) := by
  show execReadResults s = _
  rw [execReadResults, serve_body h.1 (.inr h.2), reqArg, reqArg, if_pos (between_outside (n := (pword req 2).toNat) (by omega))]
  rfl

section
variable (h1 : 1 ≤ (pword req 2).toNat) (h63 : (pword req 2).toNat ≤ 63)
include h1 h63

theorem readResults_images {bs : List Byte} (h : s.servesPlain req 2)
    (ho : s.isl.records (pword req 1) (pword req 2).toNat = some bs) : exec .readResults s = .next (s.answers (s.isl, 0, bs)) := by
  show execReadResults s = _
  rw [execReadResults, serve_body h.1 (.inr h.2), reqArg, reqArg, if_neg (between_inside h1 h63), ho]
  rfl

theorem readResults_gone (h : s.servesPlain req 2) (ho : s.isl.records (pword req 1) (pword req 2).toNat = none) :
    exec .readResults s = .next (s.answers (s.isl, 7, [])) := by
  show execReadResults s = _
  rw [execReadResults, serve_body h.1 (.inr h.2), reqArg, reqArg, if_neg (between_inside h1 h63), ho]
  rfl

end

theorem metStart_served (h : s.servesPlain req 3) : exec .metStart s = .next (s.answers (
    if 255 < (pword req 1).toNat then (s.isl, 1, [])
    else if s.isl.prog = .running then (s.isl, 6, [])
    else ({ s.isl with
      prog := .running, progNum := (pword req 1).setWidth 8
      dipAt := (List.range 8).foldl (fun t k => Tbl.set t k (s.core.aon.dipCount.setWidth 8) 0) s.isl.dipAt }, 0, []))) := by
  show execMetStart s = _
  unfold execMetStart
  exact serve_body h.1 (.inr h.2)

/-- Every key below n takes the value. -/
theorem Tbl.get_fill {α : Type} [DecidableEq α] (t : Tbl α) (v d : α) {n k : Nat} (hk : k < n) :
    Tbl.get ((List.range n).foldl (fun t k => Tbl.set t k v d) t) k d = v := by
  induction n with
  | zero => omega
  | succ n ih =>
    rw [List.range_succ, List.foldl_append, List.foldl_cons, List.foldl_nil, Tbl.get_set]
    split
    · rfl
    · exact ih (by omega)

theorem metStop_idle (h : s.servesPlain req 4) (hr : s.isl.prog ≠ .running) (ho : s.isl.prog ≠ .outFull) :
    exec .metStop s = .next (s.answers (s.isl, 6, [])) := by
  show execMetStop s = _
  rw [execMetStop, serve_body h.1 (.inr h.2), if_pos ⟨hr, ho⟩]
  rfl

section
variable (hp : s.isl.prog = .running ∨ s.isl.prog = .outFull)
include hp

theorem metStop_unsigned (h : s.servesPlain req 4) (hl : s.isl.latest = none) :
    exec .metStop s = .next (s.answers ({ s.isl with prog := .idle }, 0, [])) := by
  have hl' : Island.latest { s.isl with prog := .idle } = none := hl
  show execMetStop s = _
  rw [execMetStop, serve_body h.1 (.inr h.2), if_neg (by rintro ⟨h1, h2⟩; exact hp.elim h1 h2)]
  simp only [hl']
  rfl

theorem metStop_signed {q : Word} {k : BitVec 256} (h : s.servesPlain req 4) (hl : s.isl.latest = some (q, k)) :
    exec .metStop s = .next (s.answers
      ({ s.isl with prog := .idle, committed := some (q, k, true), due := s.isl.due ++ [(2, q, k)] }, 0, [])) := by
  have hl' : Island.latest { s.isl with prog := .idle } = some (q, k) := hl
  show execMetStop s = _
  rw [execMetStop, serve_body h.1 (.inr h.2), if_neg (by rintro ⟨h1, h2⟩; exact hp.elim h1 h2)]
  simp only [hl']
  rfl

end

theorem zero_served (permitted : Bool) (load : Word) (h : s.servesPlain req 5) : exec (.zero permitted load) s = .next (s.answers (
    if 7 < (pword req 1).toNat then (s.isl, 1, [])
    else if !permitted then (s.isl, 5, [])
    else ({ s.isl with zeros := Tbl.set s.isl.zeros (pword req 1).toNat load 0 }, 0, []))) := by
  show execZero permitted load s = _
  unfold execZero
  exact serve_body h.1 (.inr h.2)

theorem tare_served (permitted : Bool) (load : Word) (h : s.servesPlain req 6) : exec (.tare permitted load) s = .next (s.answers (
    if 7 < (pword req 1).toNat ∨ 1 < (pword req 2).toNat then (s.isl, 1, [])
    else if !permitted then (s.isl, 5, [])
    else ({ s.isl with
      tares := Tbl.set s.isl.tares (pword req 1).toNat (some (if pword req 2 = 0 then load else pword req 3)) none }, 0, []))) := by
  show execTare permitted load s = _
  unfold execTare
  exact serve_body h.1 (.inr h.2)

theorem sign_unsigned (h : s.servesPlain req 10) (hl : s.isl.latest = none) : exec .sign s = .next (s.answers (s.isl, 6, [])) := by
  show execSign s = _
  rw [execSign, serve_body h.1 (.inr h.2), hl]
  rfl

theorem sign_signed {q : Word} {k : BitVec 256} (h : s.servesPlain req 10) (hl : s.isl.latest = some (q, k)) :
    exec .sign s = .next (s.answers ({ s.isl with due := s.isl.due ++ [(1, q, k)] }, 0, [])) := by
  show execSign s = _
  rw [execSign, serve_body h.1 (.inr h.2), hl]
  rfl

end

/-! ### The audit trail (R326) -/

section
variable {s : State} {req : List Byte}

theorem readAudit_badCount (h : s.servesPlain req 7) (hk : (pword req 2).toNat = 0 ∨ 127 < (pword req 2).toNat) :
    exec .readAudit s = .next (s.answers (s.isl, 1, [])) := by
  show execReadAudit s = _
  rw [execReadAudit, serve_body h.1 (.inr h.2), reqArg, if_pos (between_outside (n := (pword req 2).toNat) (by omega))]
  rfl

/-- The entries that READ_AUDIT returns. -/
def Island.audited (x : Island) (req : List Byte) : List AuditEntry :=
  (x.trail.filter fun e => decide ((pword req 1).toNat ≤ e.counter.toNat)).take (pword req 2).toNat

theorem readAudit_entries (h : s.servesPlain req 7) (h1 : 1 ≤ (pword req 2).toNat) (h127 : (pword req 2).toNat ≤ 127) :
    exec .readAudit s = .next (s.answers
      ({ s.isl with trail := s.isl.trail.map fun e => if e ∈ s.isl.audited req then { e with seen := true } else e }, 0,
        (s.isl.audited req).flatMap AuditEntry.image)) := by
  show execReadAudit s = _
  rw [execReadAudit, serve_body h.1 (.inr h.2), reqArg, if_neg (between_inside h1 h127)]
  rfl

end

/-! ### Signed requests (R325) -/

/-- The key that a request with k changes brings. -/
def reqKey (req : List Byte) (k : Nat) : List Byte := (req.drop (16 + 8 * k)).take 1312

/-- The request is signed with one of the island's parameter keys, over the event counter. -/
def Island.signedBy (x : Island) (req : List Byte) (k : Nat) : Prop :=
  (x.paramKeys[(pword req 3).toNat]?) = some (Config.sha3 (reqKey req k))
  ∧ Config.mldsaVerify (reqKey req k) (bytesOf (Config.sha3 (req.take (16 + 8 * k))) 32) (req.drop (16 + 8 * k + 1312)) = true
  ∧ pword req 1 = x.evCnt

theorem Island.authCheck_sealed {x : Island} (req : List Byte) (k : Nat) (h : x.sealed = true) : x.authCheck req k = some 2 := by
  rw [Island.authCheck, if_pos h]
  rfl

theorem Island.authCheck_unsigned {x : Island} {req : List Byte} {k : Nat} (h : x.sealed = false) (hs : ¬x.signedBy req k) :
    x.authCheck req k = some 3 := by
  unfold Island.authCheck
  rw [if_neg (by simp [h])]
  split
  · rfl
  · next hk =>
    split
    · rfl
    · next hv =>
      exact if_pos fun hc => hs ⟨not_not.mp hk, by simpa [digestBytes, reqKey] using hv, hc⟩

theorem Island.authCheck_signed {x : Island} {req : List Byte} {k : Nat} (h : x.sealed = false) (hs : x.signedBy req k) :
    x.authCheck req k = none := by
  obtain ⟨hk, hv, hc⟩ := hs
  unfold Island.authCheck
  rw [if_neg (by simp [h])]
  have hv' : ¬(!Config.mldsaVerify (reqKey req k) (digestBytes (Config.sha3 (req.take (16 + 8 * k)))) (req.drop (16 + 8 * k + 1312))) = true := by
    rw [Bool.not_eq_true', Bool.not_eq_false]
    exact hv
  exact (if_neg (not_not.mpr hk)).trans ((if_neg hv').trans (if_neg (not_not.mpr hc)))

section
variable {s : State} {req : List Byte}

theorem ackAudit_refused {r : Byte} (h : s.serves req 8) (hl : req.length = 3748) (ha : s.isl.authCheck req 0 = some r) :
    exec .ackAudit s = .next (s.answers (s.isl, r, [])) := by
  show execAckAudit s = _
  rw [execAckAudit, serve_body h (.inr hl), ha]
  rfl

theorem ackAudit_frees (h : s.serves req 8) (hl : req.length = 3748) (ha : s.isl.authCheck req 0 = none) :
    exec .ackAudit s = .next (s.answers ({ s.isl with
      trail := s.isl.trail.filter fun e => !(e.seen && decide (e.counter.toNat ≤ (pword req 2).toNat)) }, 0, [])) := by
  show execAckAudit s = _
  rw [execAckAudit, serve_body h (.inr hl), ha]
  rfl

/-- A SET_PARAM with its number of changes in range and the length for them. -/
def wellFormedChange (req : List Byte) : Prop :=
  1 ≤ (pword req 2).toNat ∧ (pword req 2).toNat ≤ 32 ∧ req.length = 16 + 8 * (pword req 2).toNat + 3732

/-- Every change of the request is in its parameter's range. -/
def Island.validChange (x : Island) (req : List Byte) : Prop :=
  ∀ j, j < (pword req 2).toNat → Config.paramOk x.digest (changeId req j) (changeVal req j) = true

theorem setParam_malformed (h : s.serves req 9) (hf : ¬wellFormedChange req) : exec .setParam s = .next (s.answers (s.isl, 1, [])) := by
  have hb : (!between 1 (pword req 2).toNat 32) = true ∨ req.length ≠ 16 + 8 * (pword req 2).toNat + 3732 := by
    unfold wellFormedChange at hf
    by_cases hl : req.length = 16 + 8 * (pword req 2).toNat + 3732
    · exact .inl (between_outside (by omega))
    · exact .inr hl
  show execSetParam s = _
  rw [execSetParam, serve_body h (.inl rfl), reqArg, if_pos hb]
  rfl

/-- The island after the first n changes of a request. -/
def Island.changed (x : Island) (req : List Byte) (t : DWord) (n : Nat) : Island := (List.range n).foldl (fun x j => x.change req t j) x

section
variable (h : s.serves req 9) (hf : wellFormedChange req)
include h hf

theorem setParam_refused {r : Byte} (ha : s.isl.authCheck req (pword req 2).toNat = some r) :
    exec .setParam s = .next (s.answers (s.isl, r, [])) := by
  obtain ⟨h1, h32, hl⟩ := hf
  show execSetParam s = _
  rw [execSetParam, serve_body h (.inl rfl), reqArg, if_neg (not_or.mpr ⟨between_inside h1 h32, not_not.mpr hl⟩), ha]
  rfl

variable (ha : s.isl.authCheck req (pword req 2).toNat = none)
include ha

theorem setParam_invalid (hv : ¬s.isl.validChange req) : exec .setParam s = .next (s.answers (s.isl, 1, [])) := by
  obtain ⟨h1, h32, hl⟩ := hf
  have hb : ((List.range (pword req 2).toNat).any fun j => !Config.paramOk s.isl.digest (changeId req j) (changeVal req j)) = true := by
    simpa [Island.validChange] using hv
  show execSetParam s = _
  rw [execSetParam, serve_body h (.inl rfl), reqArg, if_neg (not_or.mpr ⟨between_inside h1 h32, not_not.mpr hl⟩), ha]
  simp only [hb, if_true]
  rfl

variable (hv : s.isl.validChange req)
include hv

theorem setParam_full (hfull : 16384 < s.isl.trail.length + (pword req 2).toNat) : exec .setParam s = .next (s.answers (s.isl, 4, [])) := by
  obtain ⟨h1, h32, hl⟩ := hf
  have hb : ((List.range (pword req 2).toNat).any fun j => !Config.paramOk s.isl.digest (changeId req j) (changeVal req j)) = false := by
    simpa [Island.validChange] using hv
  show execSetParam s = _
  rw [execSetParam, serve_body h (.inl rfl), reqArg, if_neg (not_or.mpr ⟨between_inside h1 h32, not_not.mpr hl⟩), ha]
  simp only [hb, Bool.false_eq_true, if_false]
  rw [if_pos (show trailMax < _ from hfull)]
  rfl

theorem setParam_changes (hroom : s.isl.trail.length + (pword req 2).toNat ≤ 16384) :
    exec .setParam s = .next (s.answers (s.isl.changed req s.auditTime (pword req 2).toNat, 0, [])) := by
  obtain ⟨h1, h32, hl⟩ := hf
  have hb : ((List.range (pword req 2).toNat).any fun j => !Config.paramOk s.isl.digest (changeId req j) (changeVal req j)) = false := by
    simpa [Island.validChange] using hv
  show execSetParam s = _
  rw [execSetParam, serve_body h (.inl rfl), reqArg, if_neg (not_or.mpr ⟨between_inside h1 h32, not_not.mpr hl⟩), ha]
  simp only [hb, Bool.false_eq_true, if_false]
  rw [if_neg (show ¬trailMax < _ from Nat.not_lt.mpr hroom)]
  rfl

end
end

/-! ### The changes of a SET_PARAM (R325, R326) -/

section
variable (x : Island) (req : List Byte) (t : DWord)

theorem Island.changed_succ (n : Nat) : x.changed req t (n + 1) = (x.changed req t n).change req t n := by
  simp [Island.changed, List.range_succ]

/-- The entry of change j of a request that began with the counter at `evCnt` and finds the old value `old`. -/
def changeEntry (req : List Byte) (t : DWord) (evCnt : Word) (old : Word) (j : Nat) : AuditEntry :=
  { counter := evCnt + BitVec.ofNat 32 (j + 1), dtime := t, kind := 1, param := changeId req j, old := old, new := changeVal req j
    key := (pword req 3).setWidth 8, digest := (Config.sha3 req).setWidth 32, seen := false }

theorem Island.changed_evCnt (n : Nat) : (x.changed req t n).evCnt = x.evCnt + BitVec.ofNat 32 n := by
  induction n with
  | zero => exact (BitVec.add_zero _).symm
  | succ n ih =>
    rw [Island.changed_succ]
    show (x.changed req t n).evCnt + 1 = _
    rw [ih, BitVec.add_assoc, BitVec.ofNat_add]
    rfl

theorem Island.changed_trail (n : Nat) : (x.changed req t n).trail
    = x.trail ++ (List.range n).map fun j => changeEntry req t x.evCnt ((x.changed req t j).param (changeId req j)) j := by
  induction n with
  | zero => simp [Island.changed]
  | succ n ih =>
    have hc : (x.changed req t n).evCnt + 1 = x.evCnt + BitVec.ofNat 32 (n + 1) := by
      rw [← Island.changed_evCnt x req t (n + 1), Island.changed_succ]
      rfl
    rw [Island.changed_succ, List.range_succ, List.map_append, ← List.append_assoc, ← ih, List.map_singleton]
    unfold changeEntry
    rw [← hc]
    rfl

theorem Island.change_param (j : Nat) (i : BitVec 16) :
    (x.change req t j).param i = if i = changeId req j then changeVal req j else x.param i := by
  show ((Tbl.get (Tbl.set x.params (changeId req j).toNat (some (changeVal req j)) none) i.toNat none).getD _) = _
  rw [Tbl.get_set]
  by_cases h : i = changeId req j
  · rw [if_pos h, if_pos (by rw [h])]
    rfl
  · rw [if_neg h, if_neg fun he => h (BitVec.eq_of_toNat_eq he)]
    rfl

/-- The last change of a parameter decides its value. -/
theorem Island.changed_param {n j : Nat} (hj : j < n) (hlast : ∀ j', j < j' → j' < n → changeId req j' ≠ changeId req j) :
    (x.changed req t n).param (changeId req j) = changeVal req j := by
  induction n with
  | zero => omega
  | succ n ih =>
    rw [Island.changed_succ, Island.change_param]
    rcases Nat.lt_or_eq_of_le (Nat.le_of_lt_succ hj) with hjn | rfl
    · rw [if_neg (hlast n hjn n.lt_succ_self).symm]
      exact ih hjn fun j' h1 h2 => hlast j' h1 (by omega)
    · exact if_pos rfl

end

/-! ### Each request and its length (R321, R322) -/

/-- Each of the ten requests is served with its number, and all but SET_PARAM with one length. -/
theorem exec_request (s : State) {n : Nat} {i : Instr} {permitted : Bool} {load : Word}
    (h : (n, i) ∈ [(1, Instr.metIdentify), (2, .readResults), (3, .metStart), (4, .metStop), (5, .zero permitted load),
      (6, .tare permitted load), (7, .readAudit), (8, .ackAudit), (9, .setParam), (10, .sign)]) :
    ∃ len body, exec i s = serve n len body s ∧ (n ≠ 9 → 0 < len ∧ len = if n = 8 then 3748 else 16) := by
  simp only [List.mem_cons, Prod.mk.injEq, List.not_mem_nil, or_false] at h
  rcases h with ⟨rfl, rfl⟩ | ⟨rfl, rfl⟩ | ⟨rfl, rfl⟩ | ⟨rfl, rfl⟩ | ⟨rfl, rfl⟩
    | ⟨rfl, rfl⟩ | ⟨rfl, rfl⟩ | ⟨rfl, rfl⟩ | ⟨rfl, rfl⟩ | ⟨rfl, rfl⟩
  · exact ⟨_, _, execMetIdentify.eq_1 s, by simp⟩
  · exact ⟨_, _, execReadResults.eq_1 s, by simp⟩
  · exact ⟨_, _, execMetStart.eq_1 s, by simp⟩
  · exact ⟨_, _, execMetStop.eq_1 s, by simp⟩
  · exact ⟨_, _, execZero.eq_1 permitted load s, by simp⟩
  · exact ⟨_, _, execTare.eq_1 permitted load s, by simp⟩
  · exact ⟨_, _, execReadAudit.eq_1 s, by simp⟩
  · exact ⟨_, _, execAckAudit.eq_1 s, by simp⟩
  · exact ⟨_, _, execSetParam.eq_1 s, by simp⟩
  · exact ⟨_, _, execSign.eq_1 s, by simp⟩

section
variable {s : State} {req : List Byte}

/-- Another sprig's GO freezes it and leaves the mailbox. -/
theorem metRqctlGo_freezes {g : SprigId} (v : Word) (hg : isSteward g = false) (hr : (s.core.sprig g).state = .run) :
    Runs (exec (.metRqctlGo (.sprig g) v) s) fun t =>
      (t.core.sprig g).state = .frozen ∧ (t.core.sprig g).cause = 1 ∧ t.core.met = s.core.met ∧ t.isl = s.isl := by
  have hx := Core.sprig_freezeSprig causePerm (s.core.sprig g).pc hr
  refine ⟨_, metRqctlGo_denied hg, congrArg Sprig.state hx, congrArg Sprig.cause hx, ?_, rfl⟩
  exact Core.freezeSprig_keeps Core.met (fun c e => by simp) (fun _ _ => rfl) (fun _ _ _ _ => rfl) causePerm _ hr

/-- START runs the program with the dip count of now for each channel. -/
theorem metStart_runs (h : s.servesPlain req 3) (ha : (pword req 1).toNat ≤ 255) (hp : s.isl.prog ≠ .running) :
    ∃ at_, exec .metStart s
      = .next (s.answers ({ s.isl with prog := .running, progNum := (pword req 1).setWidth 8, dipAt := at_ }, 0, []))
      ∧ ∀ c, c < 8 → Tbl.get at_ c 0 = (s.core.aon.dipCount.setWidth 8 : Byte) := by
  refine ⟨_, (metStart_served h).trans ?_, fun c hc => Tbl.get_fill s.isl.dipAt _ 0 hc⟩
  rw [if_neg (by omega), if_neg hp]

/-- The changes of a SET_PARAM that passes its checks: counter, audit trail and parameters. -/
theorem setParam_runs (h : s.serves req 9) (hf : wellFormedChange req) (hs : s.isl.sealed = false)
    (hsig : s.isl.signedBy req (pword req 2).toNat) (hv : s.isl.validChange req)
    (hroom : s.isl.trail.length + (pword req 2).toNat ≤ 16384) :
    Runs (exec .setParam s) fun t =>
      t.isl.reply = some (0, []) ∧ t.isl.evCnt = s.isl.evCnt + BitVec.ofNat 32 (pword req 2).toNat ∧ t.core = s.core
      ∧ t.isl.trail.length = s.isl.trail.length + (pword req 2).toNat ∧ t.isl.trail.take s.isl.trail.length = s.isl.trail
      ∧ (∀ j, j < (pword req 2).toNat → ∃ old, t.isl.trail[s.isl.trail.length + j]?
          = some (changeEntry req s.auditTime s.isl.evCnt old j))
      ∧ ∀ j, j < (pword req 2).toNat → (∀ j', j < j' → j' < (pword req 2).toNat → changeId req j' ≠ changeId req j) →
        t.isl.param (changeId req j) = changeVal req j := by
  have htrail := Island.changed_trail s.isl req s.auditTime (pword req 2).toNat
  refine ⟨_, setParam_changes h hf (Island.authCheck_signed hs hsig) hv hroom, rfl, Island.changed_evCnt .., rfl, ?_, ?_, ?_, ?_⟩
  · show (Island.trail (Island.changed ..)).length = _
    simp [htrail]
  · show (Island.trail (Island.changed ..)).take _ = _
    rw [htrail, List.take_left]
  · intro j hj
    show ∃ old, (Island.trail (Island.changed ..))[_]? = _
    refine ⟨(s.isl.changed req s.auditTime j).param (changeId req j), ?_⟩
    rw [htrail, List.getElem?_append_right (by omega), Nat.add_sub_cancel_left, List.getElem?_map, List.getElem?_range hj]
    rfl
  · exact fun j hj => Island.changed_param s.isl req s.auditTime hj

end

end Sys2Proof.Machine

open Sys2Proof Sys2Proof.Machine

/-- Settles O38: each instruction of the mailbox is followed through its crossing, the checks of its request and its end. -/
theorem islandRequests : Obligations.IslandRequests := by
  intro s req g v permitted load i n x met a0 a1 a2 crossed serves plain answers ended dip latest unsigned made kept key signed id val k formed
    valid es
  refine ⟨?go, ?goNothing, ?goDenied, ?ends, ?unknown, ?waits, ?answersCmd, ?inReset, ?timeout, ?timeoutNothing, ?absent, ?form, ?identify,
    ?results, ?start, ?stop, ?zero, ?tare, ?audit, ?ack, ?malformed, ?change, ?sign⟩
  case go => exact fun hg he hv => ⟨metRqctlGo_starts hg he hv, metRqctlGo_busy hg he hv⟩
  case goNothing => exact metRqctlGo_nothing
  case goDenied => exact metRqctlGo_freezes v
  case ends => exact fun r bs => metRequestDone_ends
  case unknown => exact metRequestDone_unknown
  case waits => exact metRequestDone_waits
  case answersCmd => exact fun q c r bs => metRequestDone_answers
  case inReset => exact metRequestDone_inReset
  case timeout => exact fun q c rest => metDoneTimeout_abandons
  case timeoutNothing => exact metDoneTimeout_nothing
  case absent => exact fun q c => metIdentify_absent
  case form =>
    intro hc hi
    obtain ⟨len, body, he, hlen⟩ := exec_request s hi
    rw [he]
    refine ⟨serve_otherwise hc, serve_refused hc, fun hs h9 hl => ?_⟩
    obtain ⟨h0, rfl⟩ := hlen h9
    exact serve_badLength hs h0 hl
  case identify => exact metIdentify_served
  case results =>
    refine fun h => ⟨readResults_badCount h, fun h1 h63 n img hn hend hj => ?_, fun h1 h63 n hn hm hk => ?_⟩
    · exact readResults_images h1 h63 h (Island.records_retained hn hend hj)
    · exact readResults_gone h1 h63 h (Island.records_gone hn hm hk)
  case start =>
    refine fun h => ⟨fun ha => ?_, fun ha hp => ?_, metStart_runs h⟩
    · rw [metStart_served h, if_pos ha]
      rfl
    · rw [metStart_served h, if_neg (Nat.not_lt.mpr ha), if_pos hp]
      rfl
  case stop =>
    refine fun h => ⟨metStop_idle h, fun hp hu => ?_, fun q k hp hl => ?_⟩
    · exact metStop_unsigned hp h (Island.latest_unsigned hu)
    · exact metStop_signed hp h (Island.latest_isLatest hl)
  case zero =>
    refine fun h => ⟨fun ha => ?_, fun ha => ?_⟩
    · rw [zero_served permitted load h, if_pos ha]
      rfl
    · rw [zero_served permitted load h, if_neg (Nat.not_lt.mpr ha)]
      cases permitted <;> rfl
  case tare =>
    refine fun h => ⟨fun ha => ?_, fun h0 h1 => ?_⟩
    · rw [tare_served permitted load h, if_pos ha]
      rfl
    · rw [tare_served permitted load h, if_neg (not_or.mpr ⟨Nat.not_lt.mpr h0, Nat.not_lt.mpr h1⟩)]
      cases permitted <;> rfl
  case audit => exact fun h => ⟨readAudit_badCount h, readAudit_entries h⟩
  case ack =>
    refine fun h hl => ⟨fun hs => ?_, fun hs hsig => ?_, fun hs hsig => ?_⟩
    · exact ackAudit_refused h hl (Island.authCheck_sealed req 0 hs)
    · exact ackAudit_refused h hl (Island.authCheck_unsigned hs hsig)
    · exact ackAudit_frees h hl (Island.authCheck_signed hs hsig)
  case malformed => exact fun h hf => setParam_malformed h fun hw => hf ⟨h, hw⟩
  case change =>
    rintro ⟨h, hf⟩
    refine ⟨fun hs => ?_, fun hs hsig => ?_, fun hs hsig hv => ?_, fun hs hsig hv hfull => ?_, fun hs hsig hv hroom => ?_⟩
    · exact setParam_refused h hf (Island.authCheck_sealed req _ hs)
    · exact setParam_refused h hf (Island.authCheck_unsigned hs hsig)
    · exact setParam_invalid h hf (Island.authCheck_signed hs hsig) hv
    · exact setParam_full h hf (Island.authCheck_signed hs hsig) hv hfull
    · obtain ⟨t, ht, hreply, hcnt, hcore, hlen, htake, hentries, hparam⟩ := setParam_runs h hf hs hsig hv hroom
      refine ⟨t, ht, hreply, hcnt, hcore, hlen, htake, fun j hj => ?_, hparam⟩
      obtain ⟨old, hold⟩ := hentries j hj
      exact ⟨_, hold, rfl, rfl, rfl, rfl, rfl, rfl, rfl, rfl⟩
  case sign =>
    refine fun h => ⟨fun hu => ?_, fun q k hl => ?_⟩
    · exact sign_unsigned h (Island.latest_unsigned hu)
    · exact sign_signed h (Island.latest_isLatest hl)
end

section
/-!
PROOFS. Posies: where the copies of a card go, and what stands while a posy is held.
-/
namespace Sys2Proof.Machine

/-! ### Dispatch (R203 to R206) -/

/-- The parcel leaves for another device. -/
def Parcel.isRemote : Parcel → Bool
  | .toRemote _ _ _ => true
  | _ => false

/-- A handle names a unit of this device. -/
def Core.isNear (c : Core) (handle : Word) : Bool := decide (handleDev handle = c.dev)

theorem Core.memberParcel_isRemote (c : Core) (h : Word) (x : Card) : (c.memberParcel h x).isRemote = !c.isNear h := by
  unfold Core.memberParcel Core.isNear
  by_cases hd : handleDev h = c.dev
  · by_cases hp : handlePosy h = true <;> simp [hd, hp, Parcel.isRemote]
  · simp [hd, Parcel.isRemote]

/-- A parcel as an item in transit from `origin`. -/
def Parcel.item (origin : Nat) (p : Parcel) : Flight := ⟨origin, parcelPlace p, p⟩

theorem Core.splice_fly (c : Core) (k origin : Nat) (ps : List Parcel) :
    c.splice k origin ps = { c with
      fly := c.fly.take k ++ (ps.filter fun p => !p.isRemote).map (Parcel.item origin) ++ c.fly.drop (k + 1)
        ++ (ps.filter Parcel.isRemote).map (Parcel.item origin) } := by
  have hfar : (fun p : Parcel => match p with | .toRemote _ _ _ => true | _ => false) = Parcel.isRemote := by
    funext p
    cases p <;> rfl
  rw [← hfar]
  rfl

/-- What is in transit once item k has gone on to the handles hs: the copies for this device in its place, the others behind all. -/
def Core.copied (c : Core) (k origin : Nat) (hs : List Word) (x : Card) : List Flight :=
  c.fly.take k ++ (hs.filter c.isNear).map (fun h => (c.memberParcel h x).item origin) ++ c.fly.drop (k + 1)
    ++ (hs.filter fun h => !c.isNear h).map fun h => (c.memberParcel h x).item origin

theorem Core.splice_members (c : Core) (k origin : Nat) (hs : List Word) (x : Card) :
    c.splice k origin (hs.map fun h => c.memberParcel h x) = { c with fly := c.copied k origin hs x } := by
  have hfar : Parcel.isRemote ∘ (fun h => c.memberParcel h x) = fun h => !c.isNear h := by
    funext h
    exact c.memberParcel_isRemote h x
  have hnear : (fun p : Parcel => !p.isRemote) ∘ (fun h => c.memberParcel h x) = c.isNear := by
    funext h
    simp [c.memberParcel_isRemote h x]
  rw [Core.splice_fly, List.filter_map, List.filter_map, List.map_map, List.map_map, hfar, hnear]
  rfl

/-- The posy sends cards on: it is enabled, has members and is not in QUIESCE. -/
def Core.posyOpen (c : Core) (p : BitVec 10) : Prop :=
  posyDef (c.pctl p) = true ∧ posyCount (c.pctl p) ≠ 0 ∧ c.quiet (.posy p) = false

section
variable {c : Core} {k o : Nat} {p : BitVec 10} {card : Card}

theorem Core.dispatch_closed (h : ¬c.posyOpen p) :
    c.dispatch k o p card = (c.land k).refuse (posyPlace p) card outPortDown := by
  unfold Core.dispatch
  refine if_pos ?_
  simp only [Core.posyOpen, posyDef, not_and_or, Bool.not_eq_true, not_not, Bool.not_eq_false] at h
  simp only [Bool.or_eq_true, Bool.not_eq_true', decide_eq_true_eq]
  tauto

theorem Core.adopt_plain (c : Core) (hb : card.bcast = none) : c.adopt card = (card, c) := by
  unfold Core.adopt
  rw [hb]

theorem Core.spread_plain (c : Core) (n : Nat) (hb : card.bcast = none) : c.spread card n = c.newBcast card n := by
  unfold Core.spread
  rw [hb]

/-- An open posy's dispatch of a card that is not a copy follows its policy. -/
theorem Core.dispatch_open (h : c.posyOpen p) (hb : card.bcast = none) :
    c.dispatch k o p card = match (posyPolicy (c.pctl p)).toNat with
      | 0 =>
        let m := (Tbl.get c.posyNext p.toNat 0).toNat
        let c := { c with posyNext := Tbl.set c.posyNext p.toNat (BitVec.ofNat 5 ((m + 1) % posyCount (c.pctl p))) 0 }
        c.splice k o [c.memberParcel (c.posyMember p m) card]
      | 1 =>
        let key := cardWord card.w ((c.pctl p >>> 11).setWidth 3) &&& c.posyReg p 4
        c.splice k o [c.memberParcel (c.posyMember p (keyMember key (posyCount (c.pctl p)))) card]
      | _ =>
        let n := posyCount (c.pctl p)
        let c' := (c.newBcast card n).2
        c'.splice k o ((List.range n).map fun m => c'.memberParcel (c'.posyMember p m) { card with bcast := some c.nextBcast }) := by
  obtain ⟨hd, hn, hq⟩ := h
  have hopen : ¬(!(c.pctl p).getLsbD 31 || posyCount (c.pctl p) = 0 || c.quiet (.posy p)) = true := by
    simp only [posyDef] at hd
    simp only [Bool.or_eq_true, Bool.not_eq_true', decide_eq_true_eq]
    simp [hd, hn, hq]
  unfold Core.dispatch
  dsimp only
  rw [if_neg hopen, c.adopt_plain hb]
  dsimp only
  rw [c.spread_plain _ hb]
  rfl

variable (h : c.posyOpen p) (hb : card.bcast = none)
include h hb

theorem Core.dispatch_roundRobin (hp : posyPolicy (c.pctl p) = 0) :
    c.dispatch k o p card = { c with
      posyNext := Tbl.set c.posyNext p.toNat (BitVec.ofNat 5 (((Tbl.get c.posyNext p.toNat 0).toNat + 1) % posyCount (c.pctl p))) 0
      fly := c.copied k o [c.posyMember p (Tbl.get c.posyNext p.toNat 0).toNat] card } := by
  rw [Core.dispatch_open h hb, hp]
  exact Core.splice_members _ k o [_] card

theorem Core.dispatch_keyed (hp : posyPolicy (c.pctl p) = 1) :
    c.dispatch k o p card = { c with
      fly := c.copied k o
        [c.posyMember p (keyMember (cardWord card.w ((c.pctl p >>> 11).setWidth 3) &&& c.posyReg p 4) (posyCount (c.pctl p)))] card } := by
  rw [Core.dispatch_open h hb, hp]
  exact Core.splice_members _ k o [_] card

theorem Core.dispatch_broadcast (hp : posyPolicy (c.pctl p) = 2) :
    c.dispatch k o p card = { (c.newBcast card (posyCount (c.pctl p))).2 with
      fly := c.copied k o ((List.range (posyCount (c.pctl p))).map (c.posyMember p)) { card with bcast := some c.nextBcast } } := by
  have hs := Core.splice_members (c.newBcast card (posyCount (c.pctl p))).2 k o
    ((List.range (posyCount (c.pctl p))).map (c.posyMember p)) { card with bcast := some c.nextBcast }
  rw [List.map_map] at hs
  rw [Core.dispatch_open h hb, hp]
  exact hs

end

/-! ### Arrival at a posy, and holds (R207) -/

section
variable {s : State} {k o z : Nat} {p : BitVec 10} {card : Card}

theorem exec_posyDispatch_stopped (h : s.core.arrives k = some ⟨o, z, .toPosy p card⟩)
    (hs : s.core.isLocal card.route = true ∧ s.core.handleHeld (s.core.posyHandle p) = true) : exec (.posyDispatch k) s = .next s := by
  show execPosyDispatch k s = _
  unfold execPosyDispatch
  rw [onCore_runs, h]
  dsimp only
  rw [hs.1, hs.2]
  rfl

theorem exec_posyDispatch_goes (h : s.core.arrives k = some ⟨o, z, .toPosy p card⟩)
    (hs : ¬(s.core.isLocal card.route = true ∧ s.core.handleHeld (s.core.posyHandle p) = true)) :
    exec (.posyDispatch k) s = .next (s.on (s.core.dispatch k o p card)) := by
  show execPosyDispatch k s = _
  unfold execPosyDispatch
  rw [onCore_runs, h]
  dsimp only
  rw [if_neg (by rwa [Bool.and_eq_true])]

theorem exec_posyHoldRelease_waiting {g : SprigId} {n : BitVec 4} (h : (s.core.chan g n).out = some card) :
    exec (.posyHoldRelease g n) s = .next (s.on (if s.core.handleHeld (s.core.shandle g n) = true then s.core
      else (s.core.setChan g n { s.core.chan g n with out := none }).launch (prodKey (.chan s.core.dev g n))
        (s.core.route (s.core.shandle g n) card))) := by
  show execPosyHoldRelease g n s = _
  unfold execPosyHoldRelease
  rw [onCore_runs]
  dsimp only
  rw [h]

theorem exec_hold_far {d : DeviceId} (release : Bool) (hd : d ≠ s.core.dev) : Runs (exec (.hold d p release) s) fun t =>
    t.core.isHeld d p = !release ∧ t.core.fly = s.core.fly ++ [⟨posyPlace p, devicePlace d, .holdAck d p⟩] ∧ t.core.held = s.core.held := by
  refine ⟨_, rfl, ?_, rfl, rfl⟩
  have hne : ¬d = (s.core.takeHold d p release).dev := hd
  show (s.core.takeHold d p release).isHeld d p = _
  rw [Core.isHeld, if_neg hne]
  exact Tbl.get_set_self ..

end

end Sys2Proof.Machine

open Sys2Proof Sys2Proof.Machine

/-- Settles O25: an open posy follows its policy through `splice_members`, a closed one refuses, and a held one lets nothing go. -/
theorem posiesDispatch : Obligations.PosiesDispatch := by
  intro s k o z p card g n d release c w count policy here stopped on_ goes member near q parcel item spread
  have hparcel (m : Nat) (x : Card) : parcel m x = c.memberParcel (c.posyMember p m) x := by
    by_cases hn : handleDev (member m) = c.dev
    · exact (if_pos (decide_eq_true hn)).trans (if_pos hn).symm
    · exact (if_neg fun h => hn (of_decide_eq_true h)).trans (if_neg hn).symm
  have hspread (ms : List Nat) (x : Card) : spread ms x = c.copied k o (ms.map (c.posyMember p)) x := by
    simp only [spread, item, hparcel, Core.copied, List.filter_map, List.map_map]
    rfl
  refine ⟨?roundRobin, ?keyed, ?broadcast, ?closed, exec_posyDispatch_stopped, ?held, exec_hold_far release⟩
  case roundRobin =>
    rintro ⟨hh, hs, ho, hb⟩ hp m
    rw [exec_posyDispatch_goes hh hs, Core.dispatch_roundRobin ho hb hp, hspread]
    rfl
  case keyed =>
    rintro ⟨hh, hs, ho, hb⟩ hp key m
    rw [exec_posyDispatch_goes hh hs, Core.dispatch_keyed ho hb hp, hspread]
    rfl
  case broadcast =>
    rintro ⟨hh, hs, ho, hb⟩ hp
    rw [exec_posyDispatch_goes hh hs, Core.dispatch_broadcast ho hb hp, hspread, Core.newBcast, hb]
    rfl
  case closed =>
    intro hh hs ho hm
    rw [exec_posyDispatch_goes hh hs, Core.dispatch_closed ho, Core.refuse, if_neg (by simp [hm])]
    rfl
  case held =>
    intro x hx
    rw [exec_posyHoldRelease_waiting hx]
    exact ⟨fun h => by rw [if_pos h]; rfl, fun h => by rw [if_neg (by simp [c, h])]; rfl⟩
end

section
/-!
PROOFS. Commands: what an answer leaves, how a command at the head of its queue comes to its body, and what the operations keep that the
commands of sprigs, time and freezing share.
-/
namespace Sys2Proof.Machine

/-! ### What shared operations keep -/

section
variable {β : Type} (P : Core → β)

theorem Core.settle_keeps (hmem : ∀ (c : Core) l, P { c with hmem := l } = P c) (hrep : ∀ (c : Core) l, P { c with replies := l } = P c)
    (hhqp : ∀ (c : Core) h x, P (c.setHqp h x) = P c) (hcmd : ∀ (c : Core) q l, P (c.setCmds q l) = P c) (c : Core) (q : CmdSrc) (n : Nat) :
    P (c.settle q n) = P c := by
  induction n generalizing c with
  | zero => rfl
  | succ n ih =>
    unfold Core.settle
    split
    · rfl
    · split
      · rfl
      · rw [ih, Core.sendReply_keeps P hmem hrep hhqp, hcmd]

/-- An answer touches the queues of commands, host memory, the pairs' indices and the replies that wait. -/
theorem Core.answerCmd_keeps (hmem : ∀ (c : Core) l, P { c with hmem := l } = P c) (hrep : ∀ (c : Core) l, P { c with replies := l } = P c)
    (hhqp : ∀ (c : Core) h x, P (c.setHqp h x) = P c) (hcmd : ∀ (c : Core) q l, P (c.setCmds q l) = P c) (c : Core) (q : CmdSrc)
    (r : Reply) : P (c.answerCmd q r) = P c := by
  unfold Core.answerCmd
  split
  · rfl
  · rw [Core.settle_keeps P hmem hrep hhqp hcmd, Core.sendReply_keeps P hmem hrep hhqp, hcmd]

theorem Core.setBytes_keeps (hbyte : ∀ (c : Core) a v, P (c.setByte a v) = P c) (c : Core) (a : Nat) (bs : List Byte) :
    P (c.setBytes a bs) = P c := by
  induction bs generalizing c a with
  | nil => rfl
  | cons x bs ih => rw [Core.setBytes, ih, hbyte]

theorem Core.storeEcc_keeps (hbyte : ∀ (c : Core) a v, P (c.setByte a v) = P c) (hmark : ∀ (c : Core) a m, P (c.setMark a m) = P c) (c : Core)
    (a : Nat) (bs : List Byte) (p : Bool) : P (c.storeEcc a bs p) = P c := by
  unfold Core.storeEcc
  exact (foldl_keeps P _ (fun _ _ => hmark ..) _ _).trans (Core.setBytes_keeps P hbyte ..)

theorem Core.bankStore_keeps (hbyte : ∀ (c : Core) a v, P (c.setByte a v) = P c) (hpar : ∀ (c : Core) a v, P (c.setParity a v) = P c) (c : Core)
    (g : SprigId) (a : Nat) (bs : List Byte) : P (c.bankStore g a bs) = P c := by
  unfold Core.bankStore
  exact (foldl_keeps P _ (fun _ _ => hpar ..) _ _).trans (Core.setBytes_keeps P hbyte ..)

theorem Core.writeStore_keeps (hbyte : ∀ (c : Core) a v, P (c.setByte a v) = P c) (hcs : ∀ (c : Core) a m, P (c.setCsMark a m) = P c) (c : Core)
    (a : Nat) (bs : List Byte) : P (c.writeStore a bs) = P c := by
  unfold Core.writeStore
  exact (foldl_keeps P _ (fun _ _ => hcs ..) _ _).trans (Core.setBytes_keeps P hbyte ..)

end

theorem Core.bankStore_mem (c : Core) (g : SprigId) (a : Nat) (bs : List Byte) :
    (c.bankStore g a bs).mem = (c.setBytes (localsBase g + a) bs).mem := by
  unfold Core.bankStore
  exact foldl_keeps Core.mem _ (fun _ _ => by rfl) _ _

theorem Core.writeStore_mem (c : Core) (a : Nat) (bs : List Byte) : (c.writeStore a bs).mem = (c.setBytes a bs).mem := by
  unfold Core.writeStore
  exact foldl_keeps Core.mem _ (fun _ _ => by rfl) _ _

/-- The parts of the core that an answer leaves and that statements speak of. -/
@[simp] theorem Core.answerCmd_rest (c : Core) (q : CmdSrc) (r : Reply) : let d := c.answerCmd q r
    d.sprigs = c.sprigs ∧ d.mem = c.mem ∧ d.cfg = c.cfg ∧ d.time = c.time ∧ d.boot = c.boot ∧ d.err = c.err ∧ d.dmas = c.dmas
    ∧ d.hands = c.hands ∧ d.store = c.store ∧ d.handLines = c.handLines ∧ d.fly = c.fly ∧ d.held = c.held ∧ d.posyNext = c.posyNext
    ∧ d.quiesce = c.quiesce ∧ d.dev = c.dev := by
  have h {β : Type} (P : Core → β) (hmem : ∀ (c : Core) l, P { c with hmem := l } = P c)
      (hrep : ∀ (c : Core) l, P { c with replies := l } = P c) (hhqp : ∀ (c : Core) h x, P (c.setHqp h x) = P c)
      (hcmd : ∀ (c : Core) q l, P (c.setCmds q l) = P c) : P (c.answerCmd q r) = P c := Core.answerCmd_keeps P hmem hrep hhqp hcmd c q r
  refine ⟨?_, ?_, ?_, ?_, ?_, ?_, ?_, ?_, ?_, ?_, ?_, ?_, ?_, ?_, ?_⟩ <;>
    exact h _ (fun _ _ => rfl) (fun _ _ => rfl) (fun _ _ _ => rfl) (fun _ _ _ => rfl)

@[simp] theorem Core.answerCmd_sprig (c : Core) (q : CmdSrc) (r : Reply) (g : SprigId) : (c.answerCmd q r).sprig g = c.sprig g := by
  simp [Core.sprig]

@[simp] theorem Core.log_sprig (c : Core) (e : ErrInfo) (g : SprigId) : (c.log e).sprig g = c.sprig g := by
  simp [Core.sprig]

/-! ### From the head of the queue to the body -/

/-- What follows a command's body: its answer, or that it has begun. -/
def Core.concludes (q : CmdSrc) : Core × Option Reply → Core
  | (c, some r) => c.answerCmd q r
  | (c, none) => c.beginCmd q

section
variable {s : State} {q : CmdSrc} {sp : CmdSpec} {x : Cmd} {bs : List Byte} {ready : Core → Cmd → Bool}

theorem command_coreBody (f : Core → Args → Core × Option Reply) (h : s.core.heads q sp x bs) :
    command q sp (coreBody f) s = .next (s.on (Core.concludes q (f s.core ⟨x, x.own, bs⟩))) := by
  rw [command_heads _ h, coreBody]
  rcases f s.core ⟨x, x.own, bs⟩ with ⟨c, _ | r⟩ <;> rfl

theorem command_readBody (f : State → Args → Reply) (h : s.core.heads q sp x bs) :
    command q sp (readBody f) s = .next (s.on (s.core.answerCmd q (f s ⟨x, x.own, bs⟩))) := command_heads _ h

theorem commandWhen_ready (body : State → Args → State × Option Reply) (h : s.core.heads q sp x bs) (hr : ready s.core x = true) :
    commandWhen ready q sp body s = command q sp body s := by
  obtain ⟨y, l, hl⟩ := List.exists_cons_of_ne_nil (l := s.core.cmdsOf q) (by rintro e; simpa [e] using h.1)
  have hy : y = x := by simpa [hl] using h.1
  unfold commandWhen
  rw [hl]
  exact if_pos (hy ▸ hr)

theorem commandWhen_waits (body : State → Args → State × Option Reply) (h : s.core.heads q sp x bs) (hr : ready s.core x = false) :
    commandWhen ready q sp body s = .next s := by
  obtain ⟨y, l, hl⟩ := List.exists_cons_of_ne_nil (l := s.core.cmdsOf q) (by rintro e; simpa [e] using h.1)
  have hy : y = x := by simpa [hl] using h.1
  unfold commandWhen
  rw [hl]
  exact if_neg (by rw [hy, hr]; decide)

end

end Sys2Proof.Machine
end

section
/-!
PROOFS. Accesses of hardware units to the scratchpad: what the sequences of leases that they end can touch.
-/
namespace Sys2Proof.Machine

/-- A fold whose steps keep a part of what it carries keeps it. -/
theorem foldl_keeps_of {σ α β : Type} (Q : σ → β) (f : σ → α → σ) (h : ∀ s x, Q (f s x) = Q s) (l : List α) (s : σ) :
    Q (l.foldl f s) = Q s := by
  induction l generalizing s with
  | nil => rfl
  | cons x l ih => rw [List.foldl_cons, ih, h]

theorem keeps_ite {β : Type} (P : Core → β) {p : Prop} [Decidable p] {c d e : Core} (hc : P c = P e) (hd : P d = P e) :
    P (if p then c else d) = P e := by
  split
  · exact hc
  · exact hd

/-- P speaks of none of what an access to the scratchpad can touch: memory, the marks, the leases, the banks and the error log. -/
structure ScratchFree {β : Type} (P : Core → β) : Prop where
  byte : ∀ (c : Core) a v, P (c.setByte a v) = P c
  mark : ∀ (c : Core) a m, P (c.setMark a m) = P c
  lease : ∀ (c : Core) b l x, P (c.setLease b l x) = P c
  arb : ∀ (c : Core) b k x, P (c.setArb b k x) = P c
  log : ∀ (c : Core) e, P (c.log e) = P c

section
variable {β : Type} {P : Core → β} (hP : ScratchFree P)
include hP

theorem ScratchFree.storeEcc (c : Core) (a : Nat) (bs : List Byte) (p : Bool) : P (c.storeEcc a bs p) = P c :=
  Core.storeEcc_keeps P hP.byte hP.mark c a bs p

theorem ScratchFree.readEcc (c : Core) (b : BunchId) (off : BitVec 21) (who : Byte) : P (c.readEcc b off who).2 = P c := by
  unfold Core.readEcc
  dsimp only
  split
  · rfl
  · rfl
  · exact (hP.log ..).trans (hP.arb ..)
  · exact (hP.log ..).trans (hP.mark ..)

theorem ScratchFree.readEccs (c : Core) (b : BunchId) (off n : Nat) (who : Byte) : P (c.readEccs b off n who).2 = P c :=
  foldl_keeps_of (fun acc : List Bool × Core => P acc.2) _ (fun _ _ => hP.readEcc ..) _ _

theorem ScratchFree.performAtomic (c : Core) (b : BunchId) (off : BitVec 21) (swap : Bool) (v : Word) (who : Byte) :
    P (c.performAtomic b off swap v who).2.2 = P c := by
  unfold Core.performAtomic
  dsimp only
  split
  · exact hP.readEcc ..
  · exact (hP.storeEcc ..).trans (hP.readEcc ..)

theorem ScratchFree.serve (c : Core) (b : BunchId) (r : ScrReq) : P (c.serve b r).c = P c := by
  unfold Core.serve
  dsimp only
  split
  · exact hP.readEccs ..
  · dsimp only
    split
    · rfl
    · exact hP.storeEcc ..
  · exact (hP.storeEcc ..).trans (hP.storeEcc ..)
  · exact hP.performAtomic ..
  · exact hP.performAtomic ..

theorem ScratchFree.leaseGate (c : Core) (b : BunchId) (who : Byte) (depth : Option Nat) (off : BitVec 21) :
    P (c.leaseGate b who depth off).2 = P c := by
  refine foldl_keeps_of (fun acc : Gate × Core => P acc.2) _ (fun acc l => ?_) _ _
  dsimp only
  split
  · dsimp only
    split
    · rfl
    · exact hP.lease ..
  · rfl

theorem ScratchFree.holdAccess (c : Core) (b : BunchId) (r : ScrReq) : P (c.holdAccess b r) = P c := by
  refine foldl_keeps P _ (fun c l => ?_) _ _
  exact keeps_ite P (hP.lease ..) rfl

theorem ScratchFree.grantReq (c : Core) (b : BunchId) (r : ScrReq) : P (c.grantReq b r) = P c := by
  have hgate : P ((reqParts r).foldl (fun (acc : Gate × Core) p =>
      match acc.1 with
      | .pass => acc.2.leaseGate b (r.who.setWidth 8) (c.reqDepth b r) p.1
      | _ => acc) (Gate.pass, c)).2 = P c := by
    refine foldl_keeps_of (fun acc : Gate × Core => P acc.2) _ (fun acc p => ?_) _ _
    split
    · exact hP.leaseGate ..
    · rfl
  unfold Core.grantReq
  dsimp only
  split
  · exact (hP.holdAccess ..).trans hgate
  · exact (hP.arb ..).trans hgate
  · exact (hP.arb ..).trans ((hP.serve ..).trans hgate)

theorem ScratchFree.restore (c : Core) (b : BunchId) (x : Lease) : P (c.restore b x) = P c := by
  unfold Core.restore
  exact (foldl_keeps P _ (fun _ _ => hP.mark ..) _ _).trans (Core.setBytes_keeps P hP.byte ..)

theorem ScratchFree.endRestore (c : Core) (b : BunchId) (l : BitVec 2) : P (c.endRestore b l) = P c := by
  have h (x : Lease) : P ((c.restore b (c.lease b l)).setLease b l x) = P c := (hP.lease ..).trans (hP.restore ..)
  unfold Core.endRestore
  dsimp only
  split
  · exact h _
  · exact (hP.grantReq ..).trans (h _)

theorem ScratchFree.copyLease (c : Core) (b : BunchId) (l : BitVec 2) : P (c.copyLease b l) = P c := by
  unfold Core.copyLease
  exact (hP.lease ..).trans (hP.readEccs ..)

theorem ScratchFree.revoke (c : Core) (b : BunchId) (who : Byte) (region : BitVec 13) : P (c.revoke b who region) = P c := by
  have heach (f : Core → BitVec 2 → Core) (hf : ∀ c l, P (f c l) = P c) (st : LeaseState) (c : Core) :
      P ((List.range 4).foldl (fun c l =>
        let x := c.lease b (BitVec.ofNat 2 l)
        if x.st = st ∧ x.region = region then f c (BitVec.ofNat 2 l) else c) c) = P c := by
    refine foldl_keeps P _ (fun c l => ?_) _ _
    exact keeps_ite P (hf ..) rfl
  have hend := heach (fun c l => c.endRestore b l) (fun _ _ => hP.endRestore ..) .restoring
  unfold Core.revoke
  dsimp only
  rw [hend, hP.leaseGate, hend]
  split
  · exact heach (fun c l => c.copyLease b l) (fun _ _ => hP.copyLease ..) .copying c
  · rfl

theorem ScratchFree.unitAccess (c : Core) (b : BunchId) (who : Byte) (off n : Nat) : P (c.unitAccess b who off n) = P c := by
  unfold Core.unitAccess
  dsimp only
  refine (foldl_keeps P _ (fun c i => ?_) _ _).trans ?_
  · exact keeps_ite P rfl (hP.arb ..)
  · exact foldl_keeps P _ (fun _ _ => hP.revoke ..) _ _

theorem ScratchFree.unitWrite (hpar : ∀ (c : Core) a v, P (c.setParity a v) = P c) (c : Core) (who : Byte) (a : Nat) (bs : List Byte) (p : Bool) :
    P (c.unitWrite who a bs p) = P c := by
  unfold Core.unitWrite
  split
  · rfl
  · split
    · unfold Core.writeMem
      dsimp only
      split
      · rfl
      · exact (foldl_keeps P _ (fun _ _ => hP.mark ..) _ _).trans (Core.setBytes_keeps P hP.byte ..)
    · split
      · exact (hP.storeEcc ..).trans (hP.unitAccess ..)
      · unfold Core.localWrite
        exact (foldl_keeps P _ (fun _ _ => hpar ..) _ _).trans (Core.setBytes_keeps P hP.byte ..)

end

/-- The word that a unit writes stands in memory, whatever sequences of leases its access ended first. -/
theorem Core.unitWrite_word (c : Core) (who : Byte) (a : Nat) (v : Word) (p : Bool) : (c.unitWrite who a (bytesOf v 4) p).word a = v := by
  have hne : bytesOf v 4 ≠ [] := by simp [bytesOf]
  unfold Core.unitWrite
  rw [if_neg hne]
  split
  · exact (Core.word_congr (Core.writeMem_mem ..) a).trans (Core.word_setBytes_self ..)
  · split
    · exact (Core.word_congr (Core.storeEcc_mem ..) a).trans (Core.word_setBytes_self ..)
    · exact (Core.word_congr (Core.localWrite_mem ..) a).trans (Core.word_setBytes_self ..)

end Sys2Proof.Machine
end

section
/-!
PROOFS. The commands to sprigs, to device time, and FREEZE and THAW.
-/
namespace Sys2Proof.Machine

/-! ### What every sprig command checks first (R24, R386, R410, R500) -/

theorem sprig_of_word {w : Word} {g : SprigId} (h : w = g.setWidth 32) : w.setWidth 11 = g ∧ w.toNat < 2048 := by
  subst h
  have := g.isLt
  exact ⟨by bv_omega, by simp; omega⟩

section
variable {c : Core} {a : Args} {g : SprigId} (k : SprigId → Core × Option Reply)

theorem Core.withSprig_range (h : 2048 ≤ (a.w 0).toNat) : c.withSprig a k = (c, some ⟨stBadParam, []⟩) := if_pos h

variable (h : a.w 0 = g.setWidth 32)
include h

theorem Core.withSprig_steward (hg : isSteward g = true) : c.withSprig a k = (c, some ⟨stDenied, []⟩) := by
  obtain ⟨hw, hn⟩ := sprig_of_word h
  rw [Core.withSprig, if_neg (by omega), hw]
  exact if_pos hg

theorem Core.withSprig_quiet (hg : isSteward g = false) (hq : c.quietSprig g = true) :
    c.withSprig a k = (c, some ⟨stBusy, []⟩) := by
  obtain ⟨hw, hn⟩ := sprig_of_word h
  rw [Core.withSprig, if_neg (by omega), hw]
  exact (if_neg (by simp [hg])).trans (if_pos hq)

theorem Core.withSprig_goes (hg : isSteward g = false) (hq : c.quietSprig g = false) : c.withSprig a k = k g := by
  obtain ⟨hw, hn⟩ := sprig_of_word h
  rw [Core.withSprig, if_neg (by omega), hw]
  exact (if_neg (by simp [hg])).trans (if_neg (by simp [hq]))

end

/-- A sprig command with its body on an admitted sprig. -/
def sprigCommand (q : CmdSrc) (sp : CmdSpec) (k : Core → Args → SprigId → Core × Option Reply) : State → Out :=
  commandWhen awakeTarget q sp (coreBody fun c a => c.withSprig a (k c a))

/-- The sprig that a command names with its word 0 is one that commands reach: no Steward's, not in QUIESCE, in a bunch that is awake. -/
def Core.admitsSprig (c : Core) (x : Cmd) (g : SprigId) : Prop :=
  pword x.own 0 = g.setWidth 32 ∧ isSteward g = false ∧ c.quietSprig g = false ∧ c.asleep (bunchOf g) = false

section
variable {s : State} {q : CmdSrc} {sp : CmdSpec} {x : Cmd} {bs : List Byte} {g : SprigId}
  {k : Core → Args → SprigId → Core × Option Reply} (h : s.core.heads q sp x bs)
include h

theorem sprigCommand_awake (hw : s.core.asleep (bunchOf ((pword x.own 0).setWidth 11)) = false) :
    sprigCommand q sp k s = .next (s.on (Core.concludes q (s.core.withSprig ⟨x, x.own, bs⟩ (k s.core ⟨x, x.own, bs⟩)))) := by
  rw [sprigCommand, commandWhen_ready _ h (by simp [awakeTarget, hw]), command_coreBody _ h]

theorem sprigCommand_asleep (hg : pword x.own 0 = g.setWidth 32) (hw : s.core.asleep (bunchOf g) = true) :
    sprigCommand q sp k s = .next s := by
  rw [sprigCommand, commandWhen_waits _ h (by simp [awakeTarget, (sprig_of_word hg).1, hw])]

theorem sprigCommand_goes (hg : s.core.admitsSprig x g) :
    sprigCommand q sp k s = .next (s.on (Core.concludes q (k s.core ⟨x, x.own, bs⟩ g))) := by
  obtain ⟨hw, hs, hq, ha⟩ := hg
  rw [sprigCommand_awake h (by rwa [(sprig_of_word hw).1]), Core.withSprig_goes (a := ⟨x, x.own, bs⟩) _ hw hs hq]

/-- The checks before the body. -/
theorem sprigCommand_checks :
    (2048 ≤ (pword x.own 0).toNat → s.core.asleep (bunchOf ((pword x.own 0).setWidth 11)) = false →
      sprigCommand q sp k s = .next (s.on (s.core.answerCmd q ⟨0x0101, []⟩)))
    ∧ (pword x.own 0 = g.setWidth 32 → isSteward g = true → s.core.asleep (bunchOf g) = false →
      sprigCommand q sp k s = .next (s.on (s.core.answerCmd q ⟨0x0300, []⟩)))
    ∧ (pword x.own 0 = g.setWidth 32 → isSteward g = false → s.core.quietSprig g = true → s.core.asleep (bunchOf g) = false →
      sprigCommand q sp k s = .next (s.on (s.core.answerCmd q ⟨0x0400, []⟩)))
    ∧ (pword x.own 0 = g.setWidth 32 → ¬s.core.asleep (bunchOf g) = false → sprigCommand q sp k s = .next s) := by
  refine ⟨fun hr ha => ?_, fun hw hs ha => ?_, fun hw hs hq ha => ?_, fun hw ha => ?_⟩
  · rw [sprigCommand_awake h ha, Core.withSprig_range (a := ⟨x, x.own, bs⟩) _ hr]
    rfl
  · rw [sprigCommand_awake h (by rwa [(sprig_of_word hw).1]), Core.withSprig_steward (a := ⟨x, x.own, bs⟩) _ hw hs]
    rfl
  · rw [sprigCommand_awake h (by rwa [(sprig_of_word hw).1]), Core.withSprig_quiet (a := ⟨x, x.own, bs⟩) _ hw hs hq]
    rfl
  · exact sprigCommand_asleep h hw (by simpa using ha)

end

/-! ### Loading (R369, R464) -/

theorem sections_inside {img : List Byte} {n a : Nat} {acc l : List Section} (hacc : ∀ x ∈ acc, x.inside = true)
    (h : sections img n a acc = .ok l) : ∀ x ∈ l, x.inside = true := by
  induction n generalizing a acc with
  | zero =>
    rw [sections] at h
    cases h
    exact hacc
  | succ n ih =>
    unfold sections at h
    dsimp only at h
    split at h
    · cases h
    · split at h
      · cases h
      · split at h
        · cases h
        · next hx =>
          refine ih (fun y hy => ?_) h
          rcases List.mem_append.mp hy with hy | hy
          · exact hacc y hy
          · simp only [Bool.or_eq_true, not_or, Bool.not_eq_true', Bool.not_eq_false] at hx
            rw [List.mem_singleton.mp hy]
            exact hx.1

/-- Every section of an image that parses lies in one of the six memories. -/
theorem parseImage_inside {img : List Byte} {l : List Section} (h : parseImage img = .ok l) : ∀ x ∈ l, x.inside = true := by
  unfold parseImage at h
  split at h
  · cases h
  · split at h
    · cases h
    · split at h
      · cases h
      · next hs =>
        split at h
        · cases h
          exact sections_inside (by simp) hs
        · cases h

theorem Section.inside_kind {x : Section} (h : x.inside = true) : x.kind ∈ [1, 2, 3, 4, 5, 6] := by
  unfold Section.inside sectionBounds at h
  rcases x with ⟨kind, start, bytes, at_⟩
  match kind, h with
  | 1, _ | 2, _ | 3, _ | 4, _ | 5, _ | 6, _ => simp

section
variable {β : Type} (P : Core → β)

theorem Core.loadSection_keeps (hbyte : ∀ (c : Core) a v, P (c.setByte a v) = P c) (hmark : ∀ (c : Core) a m, P (c.setMark a m) = P c)
    (hpar : ∀ (c : Core) a v, P (c.setParity a v) = P c) (hcs : ∀ (c : Core) a m, P (c.setCsMark a m) = P c) (c : Core) (g : SprigId)
    (x : Section) : P (c.loadSection g x) = P c := by
  have hbank := Core.bankStore_keeps P hbyte hpar
  have hstore := Core.writeStore_keeps P hbyte hcs
  have hecc := Core.storeEcc_keeps P hbyte hmark
  unfold Core.loadSection
  split
  · exact hbank ..
  · exact hbank ..
  · exact hbank ..
  · unfold Core.writeCode
    dsimp only
    split
    · exact hecc ..
    · rw [hecc, hecc]
  · exact hstore ..
  · exact hstore ..

theorem Core.loadImage_keeps (hbyte : ∀ (c : Core) a v, P (c.setByte a v) = P c) (hmark : ∀ (c : Core) a m, P (c.setMark a m) = P c)
    (hpar : ∀ (c : Core) a v, P (c.setParity a v) = P c) (hcs : ∀ (c : Core) a m, P (c.setCsMark a m) = P c) (c : Core) (g : SprigId)
    (img : List Byte) : P (c.loadImage g img) = P c := by
  unfold Core.loadImage
  split
  · rfl
  · exact foldl_keeps P _ (fun _ _ => Core.loadSection_keeps P hbyte hmark hpar hcs ..) _ _

end

@[simp] theorem Core.loadImage_rest (c : Core) (g : SprigId) (img : List Byte) :
    let d := c.loadImage g img
    d.sprigs = c.sprigs ∧ d.cfg = c.cfg ∧ d.boot = c.boot ∧ d.hands = c.hands ∧ d.store = c.store ∧ d.held = c.held ∧ d.fly = c.fly := by
  refine ⟨?_, ?_, ?_, ?_, ?_, ?_, ?_⟩ <;>
    exact Core.loadImage_keeps _ (fun _ _ _ => rfl) (fun _ _ _ => rfl) (fun _ _ _ => rfl) (fun _ _ _ => rfl) c g img

/-- The device address at which a section is laid down; the shared code's moves with the sprig's code base. -/
def Section.place (x : Section) (g : SprigId) : Nat :=
  match x.kind with
  | 1 => localsBase g + 0x10000 + 4 * x.start
  | 5 => storeBase g + 0x4000 + 4 * x.start
  | 6 => storeBase g + 4 * x.start
  | _ => localsBase g + x.start

theorem Core.loadSection_mem {c : Core} {g : SprigId} {x : Section} (h : x.inside = true) (h4 : x.kind ≠ 4) :
    (c.loadSection g x).mem = (c.setBytes (x.place g) x.bytes).mem := by
  have hk := Section.inside_kind h
  rcases x with ⟨kind, start, bytes, at_⟩
  simp only [List.mem_cons, List.not_mem_nil, or_false] at hk
  rcases hk with rfl | rfl | rfl | rfl | rfl | rfl
  · exact (c.bankStore_mem g _ bytes).trans (by rw [← Nat.add_assoc]; rfl)
  · exact c.bankStore_mem g _ bytes
  · exact c.bankStore_mem g _ bytes
  · exact absurd rfl h4
  · exact c.writeStore_mem _ bytes
  · exact c.writeStore_mem _ bytes

/-- The image's last section stands in memory. -/
theorem Core.loadImage_last {c : Core} {g : SprigId} {img : List Byte} {l : List Section} {x : Section} (h : parseImage img = .ok (l ++ [x]))
    (h4 : x.kind ≠ 4) {i : Nat} (hi : i < x.bytes.length) : (c.loadImage g img).byte (x.place g + i) = (x.bytes[i]?).getD 0 := by
  have hx := parseImage_inside h x (by simp)
  have hl : c.loadImage g img = (l.foldl (fun c x => c.loadSection g x) c).loadSection g x := by
    rw [Core.loadImage, h]
    simp
  rw [hl, Core.byte_congr (Core.loadSection_mem hx h4), Core.byte_setBytes, if_pos (by omega), Nat.add_sub_cancel_left,
    List.getD_eq_getElem?_getD]

/-- An image extends MEAS7, before that MEAS6 where it carries microcode. -/
theorem Core.measureImage_eq (c : Core) (img : List Byte) : c.measureImage img = c.measure 7 (Config.sha3 img)
    ∨ c.measureImage img = (c.measure 6 (Config.sha3 img)).measure 7 (Config.sha3 img) := by
  unfold Core.measureImage
  dsimp only
  exact (ite_eq_or_eq _ _ _).symm.imp (congrArg (Core.measure · 7 _)) (congrArg (Core.measure · 7 _))

theorem Core.measureImage_rest (c : Core) (img : List Byte) : let d := c.measureImage img
    d.sprigs = c.sprigs ∧ d.cfg = c.cfg ∧ d.mem = c.mem := by
  rcases c.measureImage_eq img with h | h <;> rw [h] <;> exact ⟨rfl, rfl, rfl⟩

theorem Core.measure_self (c : Core) (i : Nat) (d : BitVec 256) : Tbl.get (c.measure i d).boot.meas i 0
    = Config.sha3 (bytesOf (Tbl.get c.boot.meas i 0 : BitVec 256) 32 ++ bytesOf d 32) := Tbl.get_set_self ..

theorem Core.measure_ne (c : Core) {i j : Nat} (d : BitVec 256) (h : j ≠ i) : Tbl.get (c.measure i d).boot.meas j 0 = Tbl.get c.boot.meas j 0 :=
  Tbl.get_set_ne _ h _ _

theorem Core.measureImage_meas7 (c : Core) (img : List Byte) : Tbl.get (c.measureImage img).boot.meas 7 0
    = Config.sha3 (bytesOf (Tbl.get c.boot.meas 7 0 : BitVec 256) 32 ++ bytesOf (Config.sha3 img) 32) := by
  rcases c.measureImage_eq img with h | h <;> rw [h, Core.measure_self]
  rw [Core.measure_ne _ _ (by decide)]

section
variable {s : State} {q : CmdSrc} {x : Cmd} {bs : List Byte} {g : SprigId}
  (h : s.core.heads q { opc := 0x0400, who := .supervisors, minLen := 4, needs := true } x bs) (hg : s.core.admitsSprig x g)
include h hg

theorem exec_sprigLoad_stopped (hs : (s.core.sprig g).state = .disabled ∨ (s.core.sprig g).state = .halted ∨ (s.core.sprig g).state = .frozen) :
    exec (.sprigLoad q) s = .next (s.on ((imageRefusal s.core [g] bs).elim
      (((s.core.loadImage g bs).measureImage bs).answerCmd q ⟨0, []⟩) (s.core.answerCmd q))) := by
  refine (sprigCommand_goes h hg).trans ?_
  dsimp only
  generalize imageRefusal s.core [g] bs = o
  rcases hs with hs | hs | hs <;> rw [hs] <;> cases o <;> rfl

theorem exec_sprigLoad_running (hs : (s.core.sprig g).state = .run ∨ (s.core.sprig g).state = .wait) :
    exec (.sprigLoad q) s = .next (s.on (s.core.answerCmd q (s.core.stateConflict g))) := by
  refine (sprigCommand_goes h hg).trans ?_
  dsimp only
  rcases hs with hs | hs <;> rw [hs] <;> rfl

theorem exec_sprigLoad_loads (hs : (s.core.sprig g).state = .disabled ∨ (s.core.sprig g).state = .halted ∨ (s.core.sprig g).state = .frozen)
    (hi : imageRefusal s.core [g] bs = none) : Runs (exec (.sprigLoad q) s) fun t =>
      t.core.sprig g = s.core.sprig g ∧ t.core.cfg = s.core.cfg
      ∧ Tbl.get t.core.boot.meas 7 0 = Config.sha3 (bytesOf (Tbl.get s.core.boot.meas 7 0 : BitVec 256) 32 ++ bytesOf (Config.sha3 bs) 32)
      ∧ ∀ l sec, parseImage bs = .ok (l ++ [sec]) → sec.kind ≠ 4 → ∀ i, i < sec.bytes.length →
        t.core.byte (sec.place g + i) = (sec.bytes[i]?).getD 0 := by
  obtain ⟨hspr, hcfg, hmem⟩ := (s.core.loadImage g bs).measureImage_rest bs
  refine ⟨_, exec_sprigLoad_stopped h hg hs, ?_⟩
  rw [hi]
  refine ⟨?_, ?_, ?_, fun l sec hp h4 i hlt => ?_⟩
  · simp [Core.sprig, hspr]
  · simp [hcfg]
  · simpa using (s.core.loadImage g bs).measureImage_meas7 bs
  · rw [← Core.loadImage_last (c := s.core) hp h4 hlt]
    exact Core.byte_congr (by simp [hmem]) _

end

end Sys2Proof.Machine
end

section
/-!
PROOFS. Entry to a handler, the state commands of sprigs, device time, FREEZE and THAW.
-/
namespace Sys2Proof.Machine

/-! ### The freeze of a sprig (R78, R383, R384) -/

/-- Only the hands lose something with their owner. -/
theorem Core.ownerGone_rest (c : Core) (o : HandOwner) : (c.ownerGone o).mem = c.mem ∧ (c.ownerGone o).sprigs = c.sprigs := ⟨rfl, rfl⟩

/-- A freeze, whatever the sprig's state, ends with its entry; before it, memory stands, and a sprig not yet frozen is now. -/
theorem Core.freezeSprig_logs (c : Core) (g : SprigId) (cause : Byte) (pc : BitVec 16) :
    ∃ u : Core, c.freezeSprig g cause pc = u.logFreeze (.sprig g) cause ∧ u.mem = c.mem
      ∧ u.sprig g = if (c.sprig g).state = .frozen then c.sprig g else (c.sprig g).frozenWith cause pc := by
  unfold Core.freezeSprig
  dsimp only
  split
  · exact ⟨c, rfl, rfl, rfl⟩
  · let d := c.setSprig g ((c.sprig g).frozenWith cause pc)
    obtain ⟨hm, hs⟩ := (d.closeStreams g 1).ownerGone_rest (.sprig g)
    have hd : d.sprig g = (c.sprig g).frozenWith cause pc := Core.sprig_setSprig ..
    refine ⟨(d.closeStreams g 1).ownerGone (.sprig g), rfl, ?_, ?_⟩
    · rw [hm, Core.closeStreams_keeps Core.mem (fun _ _ _ _ => rfl) d g 1]
      rfl
    · rw [Core.sprig, hs, Core.closeStreams_keeps Core.sprigs (fun _ _ _ _ => rfl) d g 1]
      exact hd

/-- What a freeze leaves of a sprig that was not frozen. -/
theorem Core.freezeSprig_sprig {c : Core} {g : SprigId} (cause : Byte) (pc : BitVec 16) (h : (c.sprig g).state ≠ .frozen) :
    (c.freezeSprig g cause pc).sprig g = (c.sprig g).frozenWith cause pc ∧ (c.freezeSprig g cause pc).mem = c.mem := by
  obtain ⟨u, he, hm, hs⟩ := c.freezeSprig_logs g cause pc
  rw [if_neg h] at hs
  rw [he, Core.logFreeze]
  exact ⟨by simpa using hs, by simpa using hm⟩

/-! ### Entry (R66, R68) -/

theorem Core.entryWords_clean {c : Core} {g : SprigId} (h : ∀ j, j < 7 → c.csMark (storeBase g + 4 * j) = .ok) : c.entryWords g = (false, c) := by
  have hfold (l : List Nat) (hl : ∀ j ∈ l, j < 7) : l.foldl (fun (acc : Bool × Core) k =>
      let a := storeBase g + 4 * k
      (acc.1 || decide (acc.2.csMark a = .double), acc.2.logCs g a (BitVec.ofNat 16 k))) (false, c) = (false, c) := by
    induction l with
    | nil => rfl
    | cons j l ih =>
      have hj := h j (hl j (by simp))
      rw [List.foldl_cons]
      simpa [hj, Core.logCs] using ih fun j hj => hl j (by simp [hj])
  exact hfold _ fun j hj => List.mem_range.mp hj

/-- The frame that entry to vector vec writes (R68). -/
def Sprig.entryFrame (x : Sprig) (vec : BitVec 6) (resume : BitVec 16) : List Byte :=
  (({ x with sw := entrySw x.sw x.latestMode vec }).frameWords resume).flatMap fun w => bytesOf w 4

section
variable {c : Core} {g : SprigId} {vec : BitVec 6} {resume : BitVec 16}

theorem Core.takeEntry_outside (h : ((c.sprig g).ra 7).toNat < 0x6018 ∨ 0xC000 < ((c.sprig g).ra 7).toNat) :
    c.takeEntry g vec resume = c.freezeSprig g causeFrame resume := if_pos h

variable (h1 : 0x6018 ≤ ((c.sprig g).ra 7).toNat) (h2 : ((c.sprig g).ra 7).toNat ≤ 0xC000)
include h1 h2

theorem Core.takeEntry_invalid (hv : (c.vectorWord g vec).getLsbD 16 = false) :
    c.takeEntry g vec resume = c.freezeSprig g causeVector resume :=
  (if_neg (by omega)).trans (if_pos (by rw [hv]; rfl))

theorem Core.takeEntry_enters (hv : (c.vectorWord g vec).getLsbD 16 = true) (hb : (c.sprig g).req.block = .none)
    (hm : ∀ j, j < 7 → c.csMark (storeBase g + 4 * j) = .ok) :
    c.takeEntry g vec resume = (c.bankStore g ((c.sprig g).ra 7 - 24).toNat ((c.sprig g).entryFrame vec resume)).setSprig g
      ((c.sprig g).enter vec ((c.vectorWord g vec).setWidth 16) ((c.sprig g).ra 7 - 24)) := by
  have ha : c.abandonFor g = c := if_pos hb
  unfold Core.takeEntry
  dsimp only
  rw [if_neg (by omega), if_neg (by simp [hv]), Core.entryWords_clean hm]
  dsimp only
  rw [ha]
  rfl

end

theorem getLsbD_putBit {w : Nat} (x : BitVec w) (i j : Nat) (b : Bool) (h : j ≠ i) : (putBit x i b).getLsbD j = x.getLsbD j := by
  unfold putBit
  cases b
  · simp only [Bool.false_eq_true, if_false, BitVec.getLsbD_and, BitVec.getLsbD_not]
    by_cases hj : j < w
    · simp [hj]
      omega
    · simp [BitVec.getLsbD_of_ge x j (by omega)]
  · simp
    omega

/-- Entry leaves interrupts disabled (R69). -/
theorem Sprig.enter_mode (x : Sprig) (vec : BitVec 6) (pc fr : BitVec 16) : modeIen (x.enter vec pc fr).mode = false := by
  show (putBit (putBit x.latestMode 0 false) 8 false).getLsbD 0 = false
  rw [getLsbD_putBit _ _ _ _ (by decide)]
  simp [putBit]

/-- SW names the vector (R49, R69). -/
theorem Sprig.enter_vec (x : Sprig) (vec : BitVec 6) (pc fr : BitVec 16) : ((x.enter vec pc fr).sw >>> 16).setWidth 6 = vec := by
  apply BitVec.eq_of_getLsbD_eq
  intro i hi
  have hsw : (x.enter vec pc fr).sw.getLsbD (16 + i) = ((x.sw &&& 0xFFC0FFFF#32) ||| (vec.setWidth 32 <<< 16)).getLsbD (16 + i) := by
    show (entrySw ..).getLsbD _ = _
    rw [entrySw, getLsbD_putBit _ _ _ _ (by simp only [bitPtrace]; omega), getLsbD_putBit _ _ _ _ (by simp only [bitPien]; omega)]
  have hmask : (0xFFC0FFFF#32).getLsbD (16 + i) = false := by
    interval_cases i <;> rfl
  have h32 : 16 + i < 32 := by omega
  rw [BitVec.getLsbD_setWidth, BitVec.getLsbD_ushiftRight, hsw, BitVec.getLsbD_or, BitVec.getLsbD_and, hmask]
  simp [hi, h32]

theorem Sprig.enter_a7 (x : Sprig) (vec : BitVec 6) (pc fr : BitVec 16) : (x.enter vec pc fr).ra 7 = fr := by
  simp [Sprig.enter, Sprig.ra, Sprig.setA]

/-! ### Words laid down one behind the other -/

theorem Core.bytes_setBytes_slice (c : Core) (a : Nat) (bs : List Byte) {k n : Nat} (h : k + n ≤ bs.length) :
    (c.setBytes a bs).bytes (a + k) n = (bs.drop k).take n := by
  apply List.ext_getElem
  · simp only [Core.bytes_length, List.length_take, List.length_drop]
    omega
  · intro i h1 h2
    rw [Core.bytes_length] at h1
    rw [Core.bytes_getElem, Core.byte_setBytes, if_pos (by omega), show a + k + i - a = k + i by omega]
    simp [List.getElem?_eq_getElem (show k + i < bs.length by omega)]

theorem flatMap_bytesOf_slice (ws : List Word) {j : Nat} (hj : j < ws.length) :
    ((ws.flatMap fun w => bytesOf w 4).drop (4 * j)).take 4 = bytesOf ws[j] 4 := by
  induction ws generalizing j with
  | nil => simp at hj
  | cons w ws ih =>
    have hl := bytesOf_length w 4
    cases j with
    | zero => simp [hl]
    | succ j =>
      rw [List.flatMap_cons, List.drop_append, hl, List.drop_of_length_le (by omega), List.nil_append,
        show 4 * (j + 1) - 4 = 4 * j by omega, List.getElem_cons_succ]
      exact ih (by simpa using hj)

theorem length_flatMap_bytesOf (ws : List Word) : (ws.flatMap fun w => bytesOf w 4).length = 4 * ws.length := by
  induction ws with
  | nil => rfl
  | cons w ws ih =>
    rw [List.flatMap_cons, List.length_append, ih, bytesOf_length, List.length_cons]
    omega

theorem Core.word_setBytes_words (c : Core) (a : Nat) (ws : List Word) {j : Nat} (hj : j < ws.length) :
    (c.setBytes a (ws.flatMap fun w => bytesOf w 4)).word (a + 4 * j) = ws[j] := by
  rw [Core.word, Core.bytes_setBytes_slice _ _ _ (by rw [length_flatMap_bytesOf]; omega), flatMap_bytesOf_slice ws hj, wordOf_bytesOf]

/-- The frame's first word holds the PC to return to (R68). -/
theorem Core.entryFrame_pc (c : Core) (a : Nat) (x : Sprig) (vec : BitVec 6) (resume : BitVec 16) :
    ((c.setBytes a (x.entryFrame vec resume)).word a).setWidth 16 = resume := by
  have hlen : 0 < (({ x with sw := entrySw x.sw x.latestMode vec }).frameWords resume).length := by simp [Sprig.frameWords]
  refine (congrArg (BitVec.setWidth 16) (c.word_setBytes_words a _ hlen)).trans ?_
  apply BitVec.eq_of_getLsbD_eq
  intro i hi
  simp only [Sprig.frameWords, List.getElem_cons_zero, BitVec.getLsbD_setWidth, BitVec.getLsbD_or, BitVec.getLsbD_shiftLeft]
  simp [hi, show i < 24 by omega, show i < 32 by omega]

/-! ### The commands to a sprig in each of its states (R79, R500) -/

section
variable {s : State} {q : CmdSrc} {x : Cmd} {bs : List Byte} {g : SprigId}

section
variable (h : s.core.heads q { opc := 0x0401, who := .supervisors, minLen := 4 } x bs) (hg : s.core.admitsSprig x g)
include h hg

theorem exec_sprigStart_disabled (hs : (s.core.sprig g).state = .disabled) :
    exec (.sprigStart q) s = .next (s.on ((s.core.startSprig g).answerCmd q ⟨0, []⟩)) := by
  refine (sprigCommand_goes h hg).trans ?_
  rw [hs]
  rfl

theorem exec_sprigStart_halted (hs : (s.core.sprig g).state = .halted) :
    exec (.sprigStart q) s = .next (s.on ((s.core.setSprig g { s.core.sprig g with state := .run }).answerCmd q ⟨0, []⟩)) := by
  refine (sprigCommand_goes h hg).trans ?_
  rw [hs]
  rfl

theorem exec_sprigStart_frozen (hs : (s.core.sprig g).state = .frozen) :
    exec (.sprigStart q) s = .next (s.on (s.core.answerCmd q ⟨0x0302, []⟩)) := by
  refine (sprigCommand_goes h hg).trans ?_
  rw [hs]
  rfl

theorem exec_sprigStart_running (hs : (s.core.sprig g).state = .run ∨ (s.core.sprig g).state = .wait) :
    exec (.sprigStart q) s = .next (s.on (s.core.answerCmd q ⟨0, []⟩)) := by
  refine (sprigCommand_goes h hg).trans ?_
  rcases hs with hs | hs <;> rw [hs] <;> rfl

/-- A start of a DISABLED sprig takes vector 0 with a frame that returns to its PC (R66, R68). -/
theorem exec_sprigStart_enters (hs : (s.core.sprig g).state = .disabled) (h1 : 0x6018 ≤ ((s.core.sprig g).ra 7).toNat)
    (h2 : ((s.core.sprig g).ra 7).toNat ≤ 0xC000) (hv : (s.core.vectorWord g 0).getLsbD 16 = true) (hb : (s.core.sprig g).req.block = .none)
    (hm : ∀ j, j < 7 → s.core.csMark (storeBase g + 4 * j) = .ok) : Runs (exec (.sprigStart q) s) fun t =>
      let y := s.core.sprig g
      let z := t.core.sprig g
      z.state = .run ∧ z.pc = (s.core.vectorWord g 0).setWidth 16 ∧ z.ra 7 = y.ra 7 - 24 ∧ z.depth = y.depth + 1 ∧ z.d = y.d ∧ z.p = y.p
      ∧ modeIen z.mode = false ∧ (z.sw >>> 16).setWidth 6 = (0 : BitVec 6)
      ∧ (t.core.word (localsBase g + (y.ra 7 - 24).toNat)).setWidth 16 = y.pc := by
  refine ⟨_, exec_sprigStart_disabled h hg hs, ?_⟩
  rw [Core.startSprig, Core.takeEntry_enters h1 h2 hv hb hm]
  simp only [State.on_core, Core.answerCmd_sprig, Core.sprig_setSprig]
  refine ⟨rfl, rfl, Sprig.enter_a7 .., rfl, rfl, rfl, Sprig.enter_mode .., Sprig.enter_vec .., ?_⟩
  rw [Core.word_congr (d := s.core.setBytes (localsBase g + ((s.core.sprig g).ra 7 - 24).toNat) ((s.core.sprig g).entryFrame 0 (s.core.sprig g).pc))]
  · exact Core.entryFrame_pc ..
  · simpa using Core.bankStore_mem ..

/-- A start that finds no room for its frame, or no handler, freezes the sprig. -/
theorem exec_sprigStart_freezes (hs : (s.core.sprig g).state = .disabled) {cause : Byte}
    (hc : s.core.takeEntry g 0 (s.core.sprig g).pc = s.core.freezeSprig g cause (s.core.sprig g).pc) : Runs (exec (.sprigStart q) s) fun t =>
      (t.core.sprig g).state = .frozen ∧ (t.core.sprig g).cause = cause ∧ (t.core.sprig g).faultPc = (s.core.sprig g).pc
      ∧ t.core.mem = s.core.mem := by
  obtain ⟨hx, hm⟩ := Core.freezeSprig_sprig (c := s.core) (g := g) cause (s.core.sprig g).pc (by rw [hs]; decide)
  refine ⟨_, exec_sprigStart_disabled h hg hs, ?_⟩
  rw [Core.startSprig, hc]
  simp only [State.on_core, Core.answerCmd_sprig, hx, Core.answerCmd_rest, hm]
  exact ⟨rfl, rfl, rfl, trivial⟩

end

section
variable (h : s.core.heads q { opc := 0x0402, who := .supervisors, minLen := 4 } x bs) (hg : s.core.admitsSprig x g)
include h hg

theorem exec_sprigHalt_running (hs : (s.core.sprig g).state = .run ∨ (s.core.sprig g).state = .wait) :
    exec (.sprigHalt q) s = .next (s.on ((s.core.haltSprig g).answerCmd q ⟨0, []⟩)) := by
  refine (sprigCommand_goes h hg).trans ?_
  rcases hs with hs | hs <;> rw [hs] <;> rfl

theorem exec_sprigHalt_stopped (hs : (s.core.sprig g).state = .disabled ∨ (s.core.sprig g).state = .halted) :
    exec (.sprigHalt q) s = .next (s.on (s.core.answerCmd q ⟨0, []⟩)) := by
  refine (sprigCommand_goes h hg).trans ?_
  rcases hs with hs | hs <;> rw [hs] <;> rfl

theorem exec_sprigHalt_frozen (hs : (s.core.sprig g).state = .frozen) :
    exec (.sprigHalt q) s = .next (s.on (s.core.answerCmd q ⟨0x0302, []⟩)) := by
  refine (sprigCommand_goes h hg).trans ?_
  rw [hs]
  rfl

/-- A halt abandons the instruction in progress; what it asked for is not completed into the PC or a routine (R65, R79). -/
theorem exec_sprigHalt_halts (hs : (s.core.sprig g).state = .run ∨ (s.core.sprig g).state = .wait) : Runs (exec (.sprigHalt q) s) fun t =>
    let y := s.core.sprig g
    ∃ far ats, t.core.sprig g = { y with
        state := .halted, farLoad := far, atomics := ats, held := none
        req := { y.req with block := .none, stepping := false, trace := false } }
      ∧ t.core.mem = s.core.mem ∧ t.core.cfg = s.core.cfg ∧ far.isSome = y.farLoad.isSome ∧ ats.length = y.atomics.length := by
  refine ⟨_, exec_sprigHalt_running h hg hs, (s.core.sprig g).abandon.farLoad, (s.core.sprig g).abandon.atomics, ?_, ?_, ?_, ?_, ?_⟩
  · simp only [State.on_core, Core.answerCmd_sprig]
    exact Core.sprig_setSprig ..
  · simp [Core.haltSprig, Core.modSprig]
  · simp [Core.haltSprig, Core.modSprig]
  · simp [Sprig.abandon]
  · simp [Sprig.abandon]

end

section
variable (h : s.core.heads q { opc := 0x0403, who := .supervisors, minLen := 4 } x bs) (hg : s.core.admitsSprig x g)
include h hg

theorem exec_sprigStep_halted (hs : (s.core.sprig g).state = .halted) :
    exec (.sprigStep q) s = .next (s.on ((s.core.setSprig g { s.core.sprig g with
      state := .run, req := { (s.core.sprig g).req with stepping := true } }).answerCmd q ⟨0, []⟩)) := by
  refine (sprigCommand_goes h hg).trans ?_
  rw [hs]
  rfl

theorem exec_sprigStep_clash (hs : (s.core.sprig g).state = .disabled ∨ (s.core.sprig g).state = .run ∨ (s.core.sprig g).state = .wait) :
    exec (.sprigStep q) s = .next (s.on (s.core.answerCmd q (s.core.stateConflict g))) := by
  refine (sprigCommand_goes h hg).trans ?_
  rcases hs with hs | hs | hs <;> rw [hs] <;> rfl

theorem exec_sprigStep_frozen (hs : (s.core.sprig g).state = .frozen) :
    exec (.sprigStep q) s = .next (s.on (s.core.answerCmd q ⟨0x0302, []⟩)) := by
  refine (sprigCommand_goes h hg).trans ?_
  rw [hs]
  rfl

end

/-- A reset begins with the sprig's QUIESCE; its answer is owed. -/
theorem exec_sprigReset_quiesces (h : s.core.heads q { opc := 0x0404, who := .supervisors, minLen := 4 } x bs) (hg : s.core.admitsSprig x g) :
    Runs (exec (.sprigReset q) s) fun t =>
      t.core.quiesce = s.core.quiesce ++ [(.sprig g, s.core.time.dtime)]
      ∧ t.core.cmdsOf q = { x with begun := true } :: (s.core.cmdsOf q).drop 1 ∧ t.core.sprig g = s.core.sprig g ∧ t.core.mem = s.core.mem := by
  have hq : s.core.quiet (.sprig g) = false := (Bool.or_eq_false_iff.mp hg.2.2.1).1
  obtain ⟨rest, hl⟩ : ∃ rest, s.core.cmdsOf q = x :: rest := by
    have := h.1
    cases hc : s.core.cmdsOf q with
    | nil => simp [hc] at this
    | cons y l => simp_all
  have hclose {β : Type} (P : Core → β) (hP : ∀ (c : Core) g n x, P (c.setChan g n x) = P c) : P (s.core.closeStreams g 2) = P s.core :=
    Core.closeStreams_keeps P hP ..
  have hcmds := hclose Core.cmds fun _ _ _ _ => rfl
  have hsprigs := hclose Core.sprigs fun _ _ _ _ => rfl
  have hmem := hclose Core.mem fun _ _ _ _ => rfl
  have henter : s.core.enterQuiesce (.sprig g)
      = { s.core.closeStreams g 2 with quiesce := s.core.quiesce ++ [(.sprig g, s.core.time.dtime)] } := if_neg (by simp [hq])
  refine ⟨s.on ((s.core.enterQuiesce (.sprig g)).beginCmd q), sprigCommand_goes h hg, ?_⟩
  rw [henter]
  generalize s.core.closeStreams g 2 = d at hcmds hsprigs hmem
  have hd : d.cmdsOf q = x :: rest := by rw [Core.cmdsOf, hcmds]; exact hl
  have hbegin (l : List (Part × DWord)) : Core.beginCmd { d with quiesce := l } q
      = Core.setCmds { d with quiesce := l } q ({ x with begun := true } :: rest) := by
    unfold Core.beginCmd
    rw [show Core.cmdsOf { d with quiesce := l } q = x :: rest from hd]
  rw [State.on_core, hbegin, Core.cmdsOf_setCmds, hl]
  exact ⟨rfl, rfl, congrArg (fun l => Tbl.get l g.toNat Sprig.reset) hsprigs, hmem⟩

end

end Sys2Proof.Machine
end

section
/-!
PROOFS. The commands of device time (R222, R223) and of FREEZE and THAW (R383, R384).
-/
namespace Sys2Proof.Machine

/-! ### Device time -/

/-- A source drives lines: the timing fabric and the decoders' samples, nothing else. -/
theorem Core.riseLine_time (c : Core) (l : BitVec 12) (t : DWord) : (c.riseLine l t).time = c.time := by
  unfold Core.riseLine
  refine foldl_keeps Core.time _ (fun c k => ?_) _ _
  split <;> rfl

theorem Core.driveLine_time (c : Core) (l : BitVec 12) (level event : Bool) (t : DWord) : (c.driveLine l level event t).time = c.time := by
  unfold Core.driveLine
  dsimp only
  split
  · exact keeps_ite Core.time (Core.riseLine_time ..) rfl
  · exact keeps_ite Core.time (Core.riseLine_time ..) rfl

theorem Core.source_time (c : Core) (src : BitVec 16) (level event : Bool) (t : DWord) : (c.source src level event t).time = c.time :=
  foldl_keeps Core.time _ (fun _ _ => Core.driveLine_time ..) _ _

theorem Core.stepTime_time (c : Core) (amount : DWord) : (c.stepTime amount).time = { c.time with
    dtime := c.time.dtime + amount, skips := c.time.skips ++ [(c.time.dtime, c.time.dtime + amount, false)], stat := c.time.stat ||| 2 } :=
  Core.source_time ..

theorem Core.setQual_time (c : Core) {k : BitVec 2} (h : k ≠ c.time.qual) : (c.setQual k).time =
    let bound : Word := if k = 0 ∨ k = 1 then 0 else c.time.uncert
    { c.time with qual := k, uncert := bound, holdBase := bound, holdNs := 0, stat := c.time.stat ||| 0x10 } := by
  unfold Core.setQual
  rw [if_neg h]
  exact Core.source_time ..

theorem Args.w_own (x : Cmd) (own bs : List Byte) (j : Nat) : Args.w ⟨x, own, bs⟩ j = pword own j := rfl

section
variable {s : State} {q : CmdSrc} {x : Cmd} {bs : List Byte}

theorem exec_timeRead (h : s.core.heads q { opc := 0x0500, who := .functions } x bs) :
    exec (.timeRead q) s = .next (s.on (s.core.answerCmd q (timeReply s.core))) :=
  command_readBody (fun s _ => timeReply s.core) h

section
variable (h : s.core.heads q { opc := 0x0501, who := .supervisors, minLen := 8 } x bs)
include h

theorem exec_timeStep : exec (.timeStep q) s = .next (s.on (Core.concludes q (s.core.cmdTimeStep ⟨x, x.own, bs⟩))) := command_coreBody _ h

theorem exec_timeStep_busy (hb : s.core.time.busy = true) :
    exec (.timeStep q) s = .next (s.on ((s.core.ignoredReg (.sprig 0) 222 0x04 0x18).answerCmd q ⟨0x0400, []⟩)) := by
  rw [exec_timeStep h, Core.cmdTimeStep, if_pos hb]
  rfl

theorem exec_timeStep_refused (hb : s.core.time.busy = false) (hl : s.core.stepAllowed (pword x.own 1 ++ pword x.own 0) = false) :
    exec (.timeStep q) s = .next (s.on ((s.core.ignoredReg (.sprig 0) 222 0x04 0x18).answerCmd q ⟨0x0101, []⟩)) := by
  have ha : (!s.core.stepAllowed (Args.w ⟨x, x.own, bs⟩ 1 ++ Args.w ⟨x, x.own, bs⟩ 0)) = true := by simpa [Args.w_own] using hl
  rw [exec_timeStep h, Core.cmdTimeStep, if_neg (by simp [hb])]
  dsimp only
  rw [if_pos ha]
  rfl

theorem exec_timeStep_steps (hb : s.core.time.busy = false) (hl : s.core.stepAllowed (pword x.own 1 ++ pword x.own 0) = true) :
    Runs (exec (.timeStep q) s) fun t => t.core.time = { s.core.time with
      dtime := s.core.time.dtime + (pword x.own 1 ++ pword x.own 0)
      skips := s.core.time.skips ++ [(s.core.time.dtime, s.core.time.dtime + (pword x.own 1 ++ pword x.own 0), false)]
      stat := s.core.time.stat ||| 2, busy := true } := by
  have ha : ¬(!s.core.stepAllowed (Args.w ⟨x, x.own, bs⟩ 1 ++ Args.w ⟨x, x.own, bs⟩ 0)) = true := by simpa [Args.w_own] using hl
  refine ⟨_, exec_timeStep h, ?_⟩
  rw [Core.cmdTimeStep, if_neg (by simp [hb])]
  dsimp only
  rw [if_neg ha]
  simp only [Core.concludes, State.on_core, Core.answerCmd_rest]
  rw [Core.stepTime_time]
  rfl

end

section
variable (h : s.core.heads q { opc := 0x0503, who := .supervisors, minLen := 4 } x bs)
include h

theorem exec_timeQuality_bad (hw : 3 < (pword x.own 0).toNat) : exec (.timeQuality q) s = .next (s.on (s.core.answerCmd q ⟨0x0101, []⟩)) := by
  refine (command_coreBody _ h).trans ?_
  rw [Core.cmdTimeQuality, Args.w_own, if_pos hw]
  rfl

theorem exec_timeQuality_sets (hw : (pword x.own 0).toNat ≤ 3) :
    exec (.timeQuality q) s = .next (s.on ((s.core.setQual ((pword x.own 0).setWidth 2)).answerCmd q ⟨0, []⟩)) := by
  refine (command_coreBody _ h).trans ?_
  rw [Core.cmdTimeQuality, Args.w_own, if_neg (Nat.not_lt.mpr hw)]
  rfl

end

end

/-! ### The master that FREEZE and THAW name (R383) -/

/-- The kind and the number by which a command names a master. -/
def Freezable.named : Freezable → Word × Word
  | .sprig g => (0, g.setWidth 32)
  | .func f => (1, f.setWidth 32)
  | .peer d => (2, d.setWidth 32)
  | .engine b => (3, b.setWidth 32)

/-- The bunch that FREEZE and THAW of a master wait for is awake (R410). -/
def Freezable.awake (c : Core) : Freezable → Bool
  | .sprig g => !c.asleep (bunchOf g)
  | .engine b => !c.asleep b
  | _ => true

theorem freezable_named (m : Freezable) : freezable m.named.1 m.named.2 = some m := by
  cases m <;> simp [Freezable.named, freezable] <;> omega

theorem awakeMaster_named {c : Core} {x : Cmd} {m : Freezable} (h : pword x.own 0 = m.named.1 ∧ pword x.own 1 = m.named.2) :
    awakeMaster c x = m.awake c := by
  rw [awakeMaster, h.1, h.2, freezable_named]
  cases m <;> rfl

theorem freezable_none {kind : Word} (h : 3 < kind.toNat) (i : Word) : freezable kind i = none := by
  unfold freezable
  dsimp only
  split
  case h_5 => rfl
  all_goals omega

section
variable {c : Core} {q : CmdSrc} {a : Args} {m : Freezable} {busy : Freezable → Bool} (k : Freezable → Core × Option Reply)

theorem Core.withFreezable_none (h : 3 < (a.w 0).toNat) : c.withFreezable q a busy k = (c, some ⟨stBadParam, []⟩) := by
  rw [Core.withFreezable, freezable_none h]

variable (hm : a.w 0 = m.named.1 ∧ a.w 1 = m.named.2)
include hm

theorem Core.withFreezable_denied (hd : c.freezeDenied q m = true) : c.withFreezable q a busy k = (c, some ⟨stDenied, []⟩) := by
  rw [Core.withFreezable, hm.1, hm.2, freezable_named]
  exact if_pos hd

theorem Core.withFreezable_busy (hd : c.freezeDenied q m = false) (hb : busy m = true) :
    c.withFreezable q a busy k = (c, some ⟨stBusy, []⟩) := by
  rw [Core.withFreezable, hm.1, hm.2, freezable_named]
  exact (if_neg (by simp [hd])).trans (if_pos hb)

theorem Core.withFreezable_goes (hd : c.freezeDenied q m = false) (hb : busy m = false) : c.withFreezable q a busy k = k m := by
  rw [Core.withFreezable, hm.1, hm.2, freezable_named]
  exact (if_neg (by simp [hd])).trans (if_neg (by simp [hb]))

end

theorem Core.freezeDenied_func {c : Core} {q : CmdSrc} {f : FuncId} (h : ∀ p, q = .pair p → c.cmdFunc p ≠ f) :
    c.freezeDenied q (.func f) = false := by
  cases q with
  | pair p => exact decide_eq_false (h p rfl)
  | _ => rfl

/-! ### What a freeze and a thaw leave (R376, R381, R383) -/

/-- The source and the number under which the entries of a freeze and a thaw name a master. -/
def Freezable.entry (m : Freezable) : Byte × Word :=
  (match m with
    | .sprig _ => 0x30
    | .func _ => 0x31
    | .peer _ => 0x32
    | .engine _ => 0x33, m.named.2)

/-- The entry of a freeze by command. -/
def Freezable.frozenInfo (m : Freezable) : ErrInfo := ⟨1, m.entry.1, 0x000C, m.entry.2, 5, 0⟩

/-- The entry of a thaw that clears a cause. -/
def Freezable.thawedInfo (m : Freezable) (cause : Byte) : ErrInfo := ⟨0, m.entry.1, 0x000D, m.entry.2, cause.setWidth 16, 0⟩

theorem Core.logThaw_eq (c : Core) (m : Freezable) (cause : Byte) : c.logThaw m cause = c.log (m.thawedInfo cause) := by
  cases m <;> rfl

/-- A frozen sprig keeps its CAUSE and FAULT_PC; another resumes at the instruction that would have run next (R78, R384). -/
theorem Core.freezeOne_sprig (c : Core) (g : SprigId) :
    ∃ u : Core, c.freezeOne (.sprig g) = u.log (Freezable.sprig g).frozenInfo ∧ u.mem = c.mem
      ∧ u.sprig g = if (c.sprig g).state = .frozen then (c.sprig g).abandon
        else (c.sprig g).abandon.frozenWith 5 (if (c.sprig g).req.rank1 = none then (c.sprig g).pc else (c.sprig g).req.resume) := by
  have hpc : (match (c.sprig g).req.rank1 with
      | some _ => (c.sprig g).req.resume
      | none => (c.sprig g).pc) = if (c.sprig g).req.rank1 = none then (c.sprig g).pc else (c.sprig g).req.resume := by
    cases (c.sprig g).req.rank1 <;> rfl
  obtain ⟨u, he, hmem, hs⟩ := (c.modSprig g Sprig.abandon).freezeSprig_logs g 5
    (if (c.sprig g).req.rank1 = none then (c.sprig g).pc else (c.sprig g).req.resume)
  have hself : (c.modSprig g Sprig.abandon).sprig g = (c.sprig g).abandon := Core.sprig_setSprig ..
  rw [hself] at hs
  refine ⟨u, ?_, hmem, hs⟩
  exact (congrArg (fun pc => (c.modSprig g Sprig.abandon).freezeSprig g causeCommand pc) hpc).trans he

/-- A master that is frozen keeps its cause. -/
theorem Core.freezeOne_func (c : Core) (f : FuncId) :
    ∃ u : Core, c.freezeOne (.func f) = u.log (Freezable.func f).frozenInfo ∧ u.mem = c.mem
      ∧ Tbl.get u.err.ffrz f.toNat 0 = if Tbl.get c.err.ffrz f.toNat 0 = 0 then 5 else Tbl.get c.err.ffrz f.toNat 0 := by
  refine ⟨_, rfl, ?_⟩
  split <;> simp [causeCommand]

theorem Core.freezeOne_peer (c : Core) (d : DeviceId) :
    ∃ u : Core, c.freezeOne (.peer d) = u.log (Freezable.peer d).frozenInfo ∧ u.mem = c.mem
      ∧ Tbl.get u.err.pfrz d.toNat 0 = if Tbl.get c.err.pfrz d.toNat 0 = 0 then 5 else Tbl.get c.err.pfrz d.toNat 0 := by
  refine ⟨_, rfl, ?_⟩
  split <;> simp [causeCommand]

theorem Core.freezeOne_engine (c : Core) (b : BunchId) :
    ∃ u : Core, c.freezeOne (.engine b) = u.log (Freezable.engine b).frozenInfo ∧ u.mem = c.mem
      ∧ Tbl.get u.err.dfrz b.toNat 0 = if Tbl.get c.err.dfrz b.toNat 0 = 0 then 5 else Tbl.get c.err.dfrz b.toNat 0 := by
  refine ⟨_, rfl, ?_⟩
  split <;> simp [causeCommand]

theorem scratchFree_dmas : ScratchFree Core.dmas := ⟨fun _ _ _ => rfl, fun _ _ _ => rfl, fun _ _ _ _ => rfl, fun _ _ _ _ => rfl, by simp⟩

theorem scratchFree_dfrz : ScratchFree fun c => c.err.dfrz :=
  ⟨fun _ _ _ => rfl, fun _ _ _ => rfl, fun _ _ _ _ => rfl, fun _ _ _ _ => rfl, fun c e => by unfold Core.log; dsimp only; split <;> rfl⟩

theorem ScratchFree.abortDma {β : Type} {P : Core → β} (hP : ScratchFree P) (hpar : ∀ (c : Core) a v, P (c.setParity a v) = P c) (c : Core)
    (b : BunchId) : P (c.abortDma b) = P (c.setDma b { c.dma b with queue := [] }) := by
  unfold Core.abortDma
  exact foldl_keeps P _ (fun _ _ => hP.unitWrite hpar ..) _ _

theorem Core.abortDma_queue (c : Core) (b : BunchId) : ((c.abortDma b).dma b).queue = [] := by
  rw [Core.dma, scratchFree_dmas.abortDma (fun _ _ _ => rfl), Core.setDma]
  simp

theorem Core.abortDma_dfrz (c : Core) (b : BunchId) : (c.abortDma b).err.dfrz = c.err.dfrz :=
  scratchFree_dfrz.abortDma (fun _ _ _ => rfl) c b

theorem Core.dmaState_word (c : Core) (b : BunchId) (off : BitVec 21) (state cause : BitVec 4) (poison : Bool) :
    (c.dmaState b off state cause poison).word (scratchBase b + off.toNat + 28)
      = (state.setWidth 32 <<< 28) ||| (cause.setWidth 32 <<< 24) ||| (if poison then 1 else 0) := by
  unfold Core.dmaState
  exact Core.unitWrite_word ..

/-- The one descriptor that an engine holds is aborted where it stands. -/
theorem Core.abortDma_word (c : Core) (b : BunchId) {j : DmaJob} (h : (c.dma b).queue = [j]) :
    (c.abortDma b).word (scratchBase b + j.off.toNat + 28) = 0x40000000 := by
  have hv : (dmaAborted.setWidth 32 <<< 28) ||| ((0 : BitVec 4).setWidth 32 <<< 24) ||| (if false then 1 else 0) = (0x40000000 : Word) := by decide
  rw [← hv]
  unfold Core.abortDma
  rw [h, List.foldl_cons, List.foldl_nil]
  exact Core.dmaState_word ..

end Sys2Proof.Machine
end

section
/-!
PROOFS. FREEZE and THAW as commands (R383, R384).
-/
namespace Sys2Proof.Machine

section
variable {s : State} {q : CmdSrc} {x : Cmd} {bs : List Byte} {m : Freezable}

/-- The command names the master with its words 0 and 1. -/
def Cmd.names (x : Cmd) (m : Freezable) : Prop := pword x.own 0 = m.named.1 ∧ pword x.own 1 = m.named.2

theorem awakeMaster_far (h : 3 < (pword x.own 0).toNat) : awakeMaster s.core x = true := by
  rw [awakeMaster, freezable_none h]

/-! ### FREEZE -/

section
variable (h : s.core.heads q { opc := 0x0701, who := .supervisors, minLen := 8 } x bs)
include h

theorem exec_freeze (ha : awakeMaster s.core x = true) : exec (.freeze q) s = .next (s.on (Core.concludes q
    (s.core.withFreezable q ⟨x, x.own, bs⟩ s.core.freezeBusy fun m => (s.core.freezeOne m, some (ok []))))) :=
  (commandWhen_ready _ h ha).trans (command_coreBody _ h)

theorem exec_freeze_waits (ha : awakeMaster s.core x = false) : exec (.freeze q) s = .next s := commandWhen_waits _ h ha

theorem exec_freeze_goes (hm : x.names m) (ha : m.awake s.core = true) (hd : s.core.freezeDenied q m = false)
    (hb : s.core.freezeBusy m = false) : exec (.freeze q) s = .next (s.on ((s.core.freezeOne m).answerCmd q ⟨0, []⟩)) := by
  rw [exec_freeze h ((awakeMaster_named hm).trans ha), Core.withFreezable_goes (a := ⟨x, x.own, bs⟩) _ hm hd hb]
  rfl

/-- A freeze of the named master ends with its entry and the answer. -/
theorem exec_freeze_logs (hm : x.names m) (ha : m.awake s.core = true) (hd : s.core.freezeDenied q m = false) (hb : s.core.freezeBusy m = false)
    {Q : Core → Prop} (hQ : ∃ u : Core, s.core.freezeOne m = u.log m.frozenInfo ∧ Q u) : Runs (exec (.freeze q) s) fun t =>
      ∃ u : Core, t.core = (u.log m.frozenInfo).answerCmd q ⟨0, []⟩ ∧ Q u := by
  obtain ⟨u, hu, hq⟩ := hQ
  exact ⟨_, exec_freeze_goes h hm ha hd hb, u, by rw [State.on_core, hu], hq⟩

end

/-! ### THAW -/

/-- The body of THAW on the master that it names. -/
def Core.thawBody (c : Core) (flags pc : Word) (m : Freezable) : Core × Option Reply :=
  match c.frozenCause m with
  | none => (c, some ⟨stConflict, []⟩)
  | some cause => ((c.thawOne m flags pc).logThaw m cause, some (ok []))

theorem Core.cmdThaw_bad {c : Core} {a : Args} (h : 3 < (a.w 2).toNat ∨ ((a.w 2).getLsbD 0 = true ∧ 0xFFFF < (a.w 3).toNat)) :
    c.cmdThaw q a = (c, some ⟨stBadParam, []⟩) := if_pos h

theorem Core.cmdThaw_legal {c : Core} {a : Args} (h : ¬(3 < (a.w 2).toNat ∨ ((a.w 2).getLsbD 0 = true ∧ 0xFFFF < (a.w 3).toNat))) :
    c.cmdThaw q a = c.withFreezable q a c.thawBusy (c.thawBody (a.w 2) (a.w 3)) := if_neg h

theorem Core.thawBusy_peer (c : Core) (d : DeviceId) : c.thawBusy (.peer d)
    = (c.quiet (.remote d) || ((c.tlRoute d).getLsbD 31 && c.quiet (.tlPort ((c.tlRoute d >>> 6).setWidth 2)))) := by
  by_cases hr : (c.tlRoute d).getLsbD 31 = true
  · have hp : c.peerPort d = some (.tlPort ((c.tlRoute d >>> 6).setWidth 2)) := if_pos hr
    simp only [Core.thawBusy, hp, hr, Bool.true_and, Core.freezeBusy]
  · have hp : c.peerPort d = none := if_neg hr
    simp only [Core.thawBusy, hp, Bool.eq_false_of_not_eq_true hr, Bool.false_and, Core.freezeBusy]

/-- The flags and the PC of a THAW are legal. -/
def Cmd.thawLegal (x : Cmd) : Prop := (pword x.own 2).toNat ≤ 3 ∧ ((pword x.own 2).getLsbD 0 = true → (pword x.own 3).toNat ≤ 0xFFFF)

section
variable (h : s.core.heads q { opc := 0x0702, who := .supervisors, minLen := 16 } x bs)
include h

theorem exec_thaw (ha : awakeMaster s.core x = true) :
    exec (.thaw q) s = .next (s.on (Core.concludes q (s.core.cmdThaw q ⟨x, x.own, bs⟩))) :=
  (commandWhen_ready _ h ha).trans (command_coreBody _ h)

theorem exec_thaw_waits (ha : awakeMaster s.core x = false) : exec (.thaw q) s = .next s := commandWhen_waits _ h ha

theorem exec_thaw_bad (ha : awakeMaster s.core x = true)
    (hw : 3 < (pword x.own 2).toNat ∨ ((pword x.own 2).getLsbD 0 = true ∧ 0xFFFF < (pword x.own 3).toNat)) :
    exec (.thaw q) s = .next (s.on (s.core.answerCmd q ⟨0x0101, []⟩)) := by
  rw [exec_thaw h ha, Core.cmdThaw_bad (a := ⟨x, x.own, bs⟩) hw]
  rfl

variable (hw : x.thawLegal)
include hw

theorem exec_thaw_legal (ha : awakeMaster s.core x = true) : exec (.thaw q) s = .next (s.on (Core.concludes q
    (s.core.withFreezable q ⟨x, x.own, bs⟩ s.core.thawBusy (s.core.thawBody (pword x.own 2) (pword x.own 3))))) := by
  have hn : ¬(3 < (pword x.own 2).toNat ∨ ((pword x.own 2).getLsbD 0 = true ∧ 0xFFFF < (pword x.own 3).toNat)) := by
    rintro (h3 | ⟨h0, hpc⟩)
    · exact absurd hw.1 (by omega)
    · exact absurd (hw.2 h0) (by omega)
  rw [exec_thaw h ha, Core.cmdThaw_legal (a := ⟨x, x.own, bs⟩) hn]
  rfl

section
variable (hm : x.names m) (ha : m.awake s.core = true) (hd : s.core.freezeDenied q m = false)
include hm ha hd

theorem exec_thaw_busy (hb : s.core.thawBusy m = true) : exec (.thaw q) s = .next (s.on (s.core.answerCmd q ⟨0x0400, []⟩)) := by
  rw [exec_thaw_legal h hw ((awakeMaster_named hm).trans ha), Core.withFreezable_busy (a := ⟨x, x.own, bs⟩) _ hm hd hb]
  rfl

variable (hb : s.core.thawBusy m = false)
include hb

theorem exec_thaw_conflict (hc : s.core.frozenCause m = none) : exec (.thaw q) s = .next (s.on (s.core.answerCmd q ⟨0x0200, []⟩)) := by
  rw [exec_thaw_legal h hw ((awakeMaster_named hm).trans ha), Core.withFreezable_goes (a := ⟨x, x.own, bs⟩) _ hm hd hb, Core.thawBody, hc]
  rfl

theorem exec_thaw_thaws {cause : Byte} (hc : s.core.frozenCause m = some cause) : exec (.thaw q) s
    = .next (s.on (((s.core.thawOne m (pword x.own 2) (pword x.own 3)).log (m.thawedInfo cause)).answerCmd q ⟨0, []⟩)) := by
  rw [exec_thaw_legal h hw ((awakeMaster_named hm).trans ha), Core.withFreezable_goes (a := ⟨x, x.own, bs⟩) _ hm hd hb, Core.thawBody, hc,
    ← Core.logThaw_eq]
  rfl

end

end

/-! ### The checks that both share -/

/-- FREEZE, or THAW with no flags: its checks come first, in one order. -/
theorem exec_freezeOrThaw {op : Instr} (hop : (op = .freeze q ∧ s.core.heads q { opc := 0x0701, who := .supervisors, minLen := 8 } x bs)
    ∨ (op = .thaw q ∧ s.core.heads q { opc := 0x0702, who := .supervisors, minLen := 16 } x bs ∧ pword x.own 2 = 0)) :
    (awakeMaster s.core x = false → exec op s = .next s) ∧ (awakeMaster s.core x = true → ∃ busy k,
      exec op s = .next (s.on (Core.concludes q (s.core.withFreezable q ⟨x, x.own, bs⟩ busy k)))) := by
  rcases hop with ⟨rfl, h⟩ | ⟨rfl, h, h2⟩
  · exact ⟨exec_freeze_waits h, fun ha => ⟨_, _, exec_freeze h ha⟩⟩
  · exact ⟨exec_thaw_waits h, fun ha => ⟨_, _, exec_thaw_legal h (by simp [Cmd.thawLegal, h2]) ha⟩⟩

/-- A number outside the kinds is refused; so are a Steward's sprig and the function that issues the command; a gated bunch is waited for. -/
theorem exec_freezeOrThaw_checks {op : Instr} {g : SprigId}
    (hop : (op = .freeze q ∧ s.core.heads q { opc := 0x0701, who := .supervisors, minLen := 8 } x bs)
      ∨ (op = .thaw q ∧ s.core.heads q { opc := 0x0702, who := .supervisors, minLen := 16 } x bs ∧ pword x.own 2 = 0)) :
    (3 < (pword x.own 0).toNat → exec op s = .next (s.on (s.core.answerCmd q ⟨0x0101, []⟩)))
    ∧ (x.names (.sprig g) → isSteward g = true → s.core.asleep (bunchOf g) = false →
      exec op s = .next (s.on (s.core.answerCmd q ⟨0x0300, []⟩)))
    ∧ (∀ p, q = .pair p → x.names (.func (s.core.cmdFunc p)) → exec op s = .next (s.on (s.core.answerCmd q ⟨0x0300, []⟩)))
    ∧ (x.names (.sprig g) → ¬s.core.asleep (bunchOf g) = false → exec op s = .next s) := by
  obtain ⟨hwait, hgo⟩ := exec_freezeOrThaw hop
  have hdenied {m : Freezable} (hm : x.names m) (ha : m.awake s.core = true) (hd : s.core.freezeDenied q m = true) :
      exec op s = .next (s.on (s.core.answerCmd q ⟨0x0300, []⟩)) := by
    obtain ⟨busy, k, he⟩ := hgo ((awakeMaster_named hm).trans ha)
    rw [he, Core.withFreezable_denied (a := ⟨x, x.own, bs⟩) _ hm hd]
    rfl
  refine ⟨fun h3 => ?_, fun hm hs ha => ?_, ?_, fun hm ha => ?_⟩
  · obtain ⟨busy, k, he⟩ := hgo (awakeMaster_far h3)
    rw [he, Core.withFreezable_none (a := ⟨x, x.own, bs⟩) _ h3]
    rfl
  · exact hdenied hm (by simp [Freezable.awake, ha]) hs
  · rintro p rfl hm
    exact hdenied hm rfl (decide_eq_true rfl)
  · exact hwait ((awakeMaster_named hm).trans (by simpa [Freezable.awake] using ha))

/-! ### FREEZE and THAW of each kind of master -/

/-- A freeze of a sprig leaves its registers and predicates and the stores it has buffered. -/
theorem exec_freeze_sprig (h : s.core.heads q { opc := 0x0701, who := .supervisors, minLen := 8 } x bs) {g : SprigId}
    (hm : x.names (.sprig g)) (hs : isSteward g = false) (hq : s.core.quietSprig g = false) (ha : s.core.asleep (bunchOf g) = false) :
    Runs (exec (.freeze q) s) fun t => ∃ u : Core, t.core = (u.log (Freezable.sprig g).frozenInfo).answerCmd q ⟨0, []⟩ ∧
      let y := s.core.sprig g
      let z := u.sprig g
      z.state = .frozen ∧ z.d = y.d ∧ z.a = y.a ∧ z.p = y.p ∧ z.sw = y.sw ∧ z.buf = y.buf ∧ u.mem = s.core.mem
      ∧ (y.state = .frozen → z.cause = y.cause ∧ z.faultPc = y.faultPc)
      ∧ (y.state ≠ .frozen → z.cause = 5 ∧ z.faultPc = (if y.req.rank1 = none then y.pc else y.req.resume) ∧ z.req.rank1 = none) := by
  obtain ⟨u, hu, hmem, hz⟩ := s.core.freezeOne_sprig g
  refine exec_freeze_logs h hm (by simp [Freezable.awake, ha]) hs hq ⟨u, hu, ?_⟩
  dsimp only
  by_cases hf : (s.core.sprig g).state = .frozen
  · rw [hz, if_pos hf]
    exact ⟨hf, rfl, rfl, rfl, rfl, rfl, hmem, fun _ => ⟨rfl, rfl⟩, fun hn => absurd hf hn⟩
  · rw [hz, if_neg hf]
    exact ⟨rfl, rfl, rfl, rfl, rfl, rfl, hmem, fun hn => absurd hn hf, fun _ => ⟨rfl, rfl, rfl⟩⟩

section
variable (h : s.core.heads q { opc := 0x0702, who := .supervisors, minLen := 16 } x bs)
include h

/-- A thawed sprig resumes at FAULT_PC, or at the PC that the command names. -/
theorem exec_thaw_sprig (hw : x.thawLegal) {g : SprigId} (hm : x.names (.sprig g)) (hs : isSteward g = false)
    (hq : s.core.quietSprig g = false) (ha : s.core.asleep (bunchOf g) = false) (hf : (s.core.sprig g).state = .frozen) :
    exec (.thaw q) s = .next (s.on (((s.core.setSprig g { s.core.sprig g with
        state := .run, cause := 0
        pc := if (pword x.own 2).getLsbD 0 then (pword x.own 3).setWidth 16 else (s.core.sprig g).faultPc }).log
      ((Freezable.sprig g).thawedInfo (s.core.sprig g).cause)).answerCmd q ⟨0, []⟩)) := by
  have hb : s.core.thawBusy (.sprig g) = false := (Bool.or_false _).trans hq
  rw [exec_thaw_thaws h hw hm (by simp [Freezable.awake, ha]) hs hb (if_pos hf), Core.thawOne]
  cases (pword x.own 2).getLsbD 0 <;> rfl

theorem exec_thaw_func (hw : x.thawLegal) {f : FuncId} (hm : x.names (.func f)) (hd : s.core.freezeDenied q (.func f) = false)
    (hc : Tbl.get s.core.err.ffrz f.toNat 0 ≠ 0) : exec (.thaw q) s = .next (s.on
      ((({ s.core with err := { s.core.err with ffrz := Tbl.set s.core.err.ffrz f.toNat 0 0 } } : Core).log
        ((Freezable.func f).thawedInfo (Tbl.get s.core.err.ffrz f.toNat 0))).answerCmd q ⟨0, []⟩)) :=
  exec_thaw_thaws h hw hm rfl hd rfl (if_neg hc)

/-- A peer whose port is in QUIESCE is not thawed (R384). -/
theorem exec_thaw_peer_busy (hw : x.thawLegal) {d : DeviceId} (hm : x.names (.peer d)) (hr : (s.core.tlRoute d).getLsbD 31 = true)
    (hp : s.core.quiet (.tlPort ((s.core.tlRoute d >>> 6).setWidth 2)) = true) :
    exec (.thaw q) s = .next (s.on (s.core.answerCmd q ⟨0x0400, []⟩)) :=
  exec_thaw_busy h hw hm rfl rfl (by rw [Core.thawBusy_peer, hr, hp, Bool.true_and, Bool.or_true])

theorem exec_thaw_peer (hw : x.thawLegal) {d : DeviceId} (hm : x.names (.peer d)) (hq : s.core.quiet (.remote d) = false)
    (hp : (s.core.tlRoute d).getLsbD 31 = false ∨ s.core.quiet (.tlPort ((s.core.tlRoute d >>> 6).setWidth 2)) = false)
    (hc : Tbl.get s.core.err.pfrz d.toNat 0 ≠ 0) : exec (.thaw q) s = .next (s.on
      ((({ s.core with err := { s.core.err with pfrz := Tbl.set s.core.err.pfrz d.toNat 0 0 } } : Core).log
        ((Freezable.peer d).thawedInfo (Tbl.get s.core.err.pfrz d.toNat 0))).answerCmd q ⟨0, []⟩)) := by
  have hb : s.core.thawBusy (.peer d) = false := by
    rw [Core.thawBusy_peer, hq, Bool.false_or, Bool.and_eq_false_iff]
    exact hp
  exact exec_thaw_thaws h hw hm rfl rfl hb (if_neg hc)

section
variable (hw : x.thawLegal) {b : BunchId} (hm : x.names (.engine b)) (hq : s.core.quiet (.bunch b) = false) (ha : s.core.asleep b = false)
  (hc : Tbl.get s.core.err.dfrz b.toNat 0 ≠ 0)
include hw hm hq ha hc

theorem exec_thaw_engine : exec (.thaw q) s = .next (s.on
    (((s.core.thawOne (.engine b) (pword x.own 2) (pword x.own 3)).log
      ((Freezable.engine b).thawedInfo (Tbl.get s.core.err.dfrz b.toNat 0))).answerCmd q ⟨0, []⟩)) :=
  exec_thaw_thaws h hw hm (by simp [Freezable.awake, ha]) rfl ((Bool.or_false _).trans hq) (if_neg hc)

theorem exec_thaw_engine_keeps (hf : (pword x.own 2).getLsbD 1 = false) : exec (.thaw q) s = .next (s.on
      ((({ s.core with err := { s.core.err with dfrz := Tbl.set s.core.err.dfrz b.toNat 0 0 } } : Core).log
        ((Freezable.engine b).thawedInfo (Tbl.get s.core.err.dfrz b.toNat 0))).answerCmd q ⟨0, []⟩)) := by
  rw [exec_thaw_engine h hw hm hq ha hc, Core.thawOne, if_neg (Bool.not_eq_true _ ▸ hf)]

/-- DISCARD aborts what the engine holds. -/
theorem exec_thaw_engine_discards (hf : (pword x.own 2).getLsbD 1 = true) : Runs (exec (.thaw q) s) fun t =>
    Tbl.get t.core.err.dfrz b.toNat 0 = 0 ∧ (t.core.dma b).queue = []
    ∧ ∀ j, (s.core.dma b).queue = [j] → t.core.word (scratchBase b + j.off.toNat + 28) = 0x40000000 := by
  let c : Core := { s.core with err := { s.core.err with dfrz := Tbl.set s.core.err.dfrz b.toNat 0 0 } }
  have hone : s.core.thawOne (.engine b) (pword x.own 2) (pword x.own 3) = c.abortDma b := if_pos hf
  refine ⟨_, exec_thaw_engine h hw hm hq ha hc, ?_, ?_, fun j hj => ?_⟩
  · simp only [State.on_core, Core.answerCmd_rest]
    rw [hone, scratchFree_dfrz.log, Core.abortDma_dfrz]
    exact Tbl.get_set_self s.core.err.dfrz b.toNat 0 0
  · rw [State.on_core, hone, ← c.abortDma_queue b]
    simp [Core.dma]
  · rw [← c.abortDma_word b hj, State.on_core, hone]
    exact Core.word_congr (by simp) _

end

end

end

end Sys2Proof.Machine
end

section
/-!
PROOFS. The statement about the commands of sprigs, device time and freezing.
-/
open Sys2Proof Sys2Proof.Machine

/-- Settles O43, command by command. -/
theorem sprigAndTimeCommands : Obligations.SprigAndTimeCommands := by
  unfold Obligations.SprigAndTimeCommands
  intro s q x bs g f d b c now w asks y awake on loads amount made answers code clash place a v starts bad head entry logged ofKind other
  have hclash : c.stateConflict g = ⟨0x0200, [0x85, code]⟩ := by
    have hcode : (c.sprig g).state.code.setWidth 32 = code := by
      dsimp only [code, y]
      cases (c.sprig g).state <;> rfl
    exact congrArg (fun u => conflict 0x85 u) hcode
  have hlegal (h : (w 2).toNat ≤ 3) (h0 : (w 2).getLsbD 0 = false) : x.thawLegal := ⟨h, fun h1 => absurd (h0.symm.trans h1) (by decide)⟩
  refine ⟨?_, ?_, ?_, ?_, ?_, ?_, ?_, ?_, ?_, ?_, ?_, ?_, ?_, ?_, ?_, ?_, ?_, ?_, ?_, ?_, ?_, ?_⟩
  · rintro op (⟨rfl, h⟩ | ⟨rfl, h⟩ | ⟨rfl, h⟩ | ⟨rfl, h⟩ | ⟨rfl, h⟩)
    all_goals exact sprigCommand_checks h
  · intro h hg hs
    refine ⟨fun hi => exec_sprigLoad_loads h hg hs hi, fun r hr => ?_⟩
    rw [exec_sprigLoad_stopped h hg hs, hr]
    rfl
  · intro h hg hs
    rw [exec_sprigLoad_running h hg hs, hclash]
  · rintro ⟨h, hg, hs⟩ h1 h2 hv hb hm
    exact exec_sprigStart_enters h hg hs h1 h2 hv hb hm
  · rintro ⟨h, hg, hs⟩ ha
    exact exec_sprigStart_freezes h hg hs (Core.takeEntry_outside ha)
  · rintro ⟨h, hg, hs⟩ h1 h2 hv
    exact exec_sprigStart_freezes h hg hs (Core.takeEntry_invalid h1 h2 hv)
  · intro h hg
    exact ⟨exec_sprigStart_halted h hg, exec_sprigStart_running h hg, exec_sprigStart_frozen h hg⟩
  · intro h hg
    exact ⟨exec_sprigHalt_halts h hg, exec_sprigHalt_stopped h hg, exec_sprigHalt_frozen h hg⟩
  · intro h hg
    refine ⟨exec_sprigStep_halted h hg, fun hs => ?_, exec_sprigStep_frozen h hg⟩
    rw [exec_sprigStep_clash h hg hs, hclash]
  · exact fun h hg => exec_sprigReset_quiesces h hg
  · exact fun h => exec_timeRead h
  · intro h legal refused
    have hallowed : c.stepAllowed amount = true ↔ legal := by simp [Core.stepAllowed, legal, now]
    exact ⟨fun hb hl => exec_timeStep_steps h hb (hallowed.mpr hl), fun hb => exec_timeStep_busy h hb,
      fun hb hl => exec_timeStep_refused h hb (Bool.eq_false_iff.mpr (mt hallowed.mp hl))⟩
  · intro h to_ bound
    refine ⟨fun hw hto => ?_, fun hw hto => ⟨_, exec_timeQuality_sets h hw, ?_⟩, exec_timeQuality_bad h⟩
    · have hsame : c.setQual to_ = c := if_pos hto
      rw [exec_timeQuality_sets h hw]
      exact congrArg (fun c' => made c' ⟨0, []⟩) hsame
    · simp only [State.on_core, Core.answerCmd_rest]
      exact Core.setQual_time c hto
  · rintro h h0 ⟨h1, hs, hq, ha⟩
    exact exec_freeze_sprig h ⟨h0, h1⟩ hs hq ha
  · rintro h ho hm
    obtain ⟨u, hu, hmem, hf⟩ := c.freezeOne_func f
    exact exec_freeze_logs h (m := .func f) hm rfl (Core.freezeDenied_func ho) rfl ⟨u, hu, hf, hmem⟩
  · rintro h hm hq
    obtain ⟨u, hu, hmem, hf⟩ := c.freezeOne_peer d
    exact exec_freeze_logs h (m := .peer d) hm rfl rfl hq ⟨u, hu, hf, hmem⟩
  · rintro h hm hq ha
    obtain ⟨u, hu, hmem, hf⟩ := c.freezeOne_engine b
    exact exec_freeze_logs h (m := .engine b) hm (congrArg not ha) rfl hq ⟨u, hu, hf, hmem⟩
  · rintro h h0 ⟨h1, hs, hq, ha⟩ hf h2
    refine ⟨fun hb => ?_, fun hb h3 => ?_⟩
    · rw [exec_thaw_sprig h (hlegal h2 hb) (g := g) ⟨h0, h1⟩ hs hq ha hf, if_neg (fun e => Bool.false_ne_true (hb.symm.trans e))]
      rfl
    · rw [exec_thaw_sprig h ⟨h2, fun _ => h3⟩ (g := g) ⟨h0, h1⟩ hs hq ha hf, if_pos hb]
      rfl
  · intro h h2 hb
    have hw := hlegal h2 hb
    refine ⟨fun ho hm hc => ?_, fun hm hc hq => ?_, fun hm hc hq ha => ?_⟩
    · exact exec_thaw_func h hw hm (Core.freezeDenied_func ho) hc
    · intro port routed
      exact ⟨fun hp => exec_thaw_peer h hw hm hq hp hc, fun hr hp => exec_thaw_peer_busy h hw hm hr hp⟩
    · exact ⟨exec_thaw_engine_keeps h hw hm hq ha hc, exec_thaw_engine_discards h hw hm hq ha hc⟩
  · intro h h2 hb
    have hw := hlegal h2 hb
    refine ⟨fun h0 hon hf => ?_, fun ho hm hc => ?_, fun h0 h1 hs hq ha => ?_⟩
    · obtain ⟨h1, hs, hq, ha⟩ := hon
      exact exec_thaw_conflict h hw (m := .sprig g) ⟨h0, h1⟩ (congrArg not ha) hs ((Bool.or_false _).trans hq) (if_neg hf)
    · exact exec_thaw_conflict h hw (m := .func f) hm rfl (Core.freezeDenied_func ho) rfl (if_pos hc)
    · exact exec_thaw_busy h hw (m := .sprig g) ⟨h0, h1⟩ (congrArg not ha) hs ((Bool.or_false _).trans hq)
  · intro h h0 h1 hw
    exact exec_thaw_bad h (awakeMaster_named (m := .func f) ⟨h0, h1⟩) hw
  · intro op hop
    obtain ⟨hfar, hsteward, hown, hwait⟩ := exec_freezeOrThaw_checks (g := g) hop
    exact ⟨hfar, fun h0 h1 => hsteward ⟨h0, h1⟩, hown, fun h0 h1 => hwait ⟨h0, h1⟩⟩
end

section
/-!
PROOFS. The statement about the life of a hand fails: a hand that both loads a posy's targets and changes the posy. The targets that are halted and
reset are those of the configuration that stands, the targets that are loaded those of the configuration that the hand stages.
-/
namespace Sys2Proof.Machine

/-- An image with one section: a word at the start of the X bank, which makes vector 0 VALID. -/
def oneWordImage : List Byte :=
  [0x4D, 0x51, 0x53, 0x50, 1, 0, 0, 0, 0, 0, 0, 0, 0, 0, 0, 0, 2, 0, 0, 0, 0, 0, 0, 0, 4, 0, 0, 0, 0, 0, 0, 0, 0, 0, 1, 0]

/-- Its section. -/
def oneWordSection : Section := ⟨2, 0, [0, 0, 1, 0], 16⟩

/-- A load for posy 0 whose target, sprig 5, is halted, in a hand that also disables posy 0. -/
def disablingHand : Hand :=
  { st := .draining, instant := some 0, halted := [5], entries := [⟨0, 0x0B010000, 0, 0⟩], loads := [⟨0x00400000, 0, oneWordImage⟩] }

/-- After reset, but posy 0 has queue 0 of sprig 5 as its one member, and hand 0 is about to load. -/
def disablingState : State := State.reset.on { State.reset.core with
  cfg := [(0x0B010000, 0x80000001), (0x0B010020, 0x28)], hands := [(0, disablingHand)] }

theorem disablingState_targets : disablingState.core.targets 0x00400000 = [5] := by decide

theorem parseImage_oneWordImage : parseImage oneWordImage = .ok [oneWordSection] := by rfl

/-- The halted target is left without its image. -/
theorem handLoadTargets_leaves_target : Runs (exec (.handLoadTargets 0) disablingState) fun t => t.core.byte (localsBase 5 + 2) = 0 :=
  ⟨_, rfl, by decide +kernel⟩

end Sys2Proof.Machine

open Sys2Proof Sys2Proof.Machine

/-- Refutes O42, by its clause on HAND_LOAD_TARGETS. Sprig 5 is the one target of the hand's image in the configuration that stands, and R368
loads the image into each target that was halted; the model loads the targets of the configuration that the hand stages, which disables their
posy, so the image's section does not stand in memory. -/
theorem not_handEvents : ¬ Obligations.HandEvents := by
  unfold Obligations.HandEvents
  intro h
  let p : Prepare := { coordinator := 0, hand := 0, mask := 0, deadline := 0, instant := 0, entries := [] }
  obtain ⟨-, -, -, -, -, -, -, -, -, -, -, -, -, hload, -⟩ :=
    h disablingState 0 5 p false (.pair 0) 0 0 { mask := 0, coordinator := 0, hand := 0 } { words := [] } {} [] [] ⟨0, []⟩ 0 0
  obtain ⟨t, ht, -, -, -, hbytes⟩ := hload rfl rfl (by decide)
  have hone : t.core.byte (localsBase 5 + 2) = 1 :=
    hbytes 0x00400000 0 oneWordImage oneWordSection rfl disablingState_targets parseImage_oneWordImage rfl 2 (by decide)
  obtain ⟨u, hu, hzero⟩ := handLoadTargets_leaves_target
  cases Host.Outcome.next.inj (ht.symm.trans hu)
  rw [hzero] at hone
  exact absurd hone (by decide)
end

section
/-!
PROOFS. Instructions of a sprig that commit, sleep or stall where they stand: events, MODE and the fences.
-/
namespace Sys2Proof.Machine

/-! ### How an instruction that is ready ends -/

section
variable {s : State} {g : SprigId} {gd : BitVec 4} {opc : Byte} {body : Core → Res} (h : s.ready g gd opc = true)
include h

theorem insn_commits {c : Core} {e : Ending} (hb : body s.core = .commit c e) :
    insn g gd opc body s = .next (s.on (c.setSprig g ((c.sprig g).retire e))) := by
  rw [insn_ready body h, hb]
  rfl

theorem insn_commits_set {c : Core} {x : Sprig} {e : Ending} (hb : body s.core = .commit (c.setSprig g x) e) :
    insn g gd opc body s = .next (s.on (c.setSprig g (x.retire e))) := by
  rw [insn_commits h hb, Core.sprig_setSprig, Core.setSprig_setSprig]

theorem insn_done {x : Sprig} {n : Nat} (hb : body s.core = s.core.done g x n) : insn g gd opc body s = .next (s.put g (x.past n)) := by
  rw [insn_ready body h, hb, Core.finish_done]
  rfl

theorem insn_illegal (hb : body s.core = illegal s.core) : insn g gd opc body s = .next (s.faulted g 2 0x02) := by
  rw [insn_ready body h, hb]
  rfl

theorem insn_sleeps (hb : body s.core = .sleep) : insn g gd opc body s = .next (s.put g { s.core.sprig g with state := .wait }) := by
  rw [insn_ready body h, hb]
  rfl

/-- A stall leaves the sprig where it stands (R60). -/
theorem insn_stalls (hb : body s.core = .stall s.core) : Runs (insn g gd opc body s) fun t =>
    (t.core.sprig g).pc = (s.core.sprig g).pc ∧ (t.core.sprig g).state = (s.core.sprig g).state ∧ (t.core.sprig g).d = (s.core.sprig g).d
    ∧ (t.core.sprig g).board = (s.core.sprig g).board ∧ t.core.mem = s.core.mem ∧ t.core.fly = s.core.fly := by
  refine ⟨_, insn_ready body h, ?_⟩
  rw [hb]
  simp [Core.finish, Core.stallAt, Core.modSprig, Core.setSprig, Core.sprig]

end

/-! ### Reserved fields -/

/-- An operand field that holds 9 bits alone (R87). -/
theorem sysFields_of_low {op : BitVec 20} (h : op &&& 0xFFE00 = 0) : fR op = 0 ∧ fS op = 0 ∧ fK op &&& 0xE00 = 0 := by
  have hbit (i : Nat) (h9 : 9 ≤ i) : op.getLsbD i = false := by
    by_cases h20 : i < 20
    · have hm : (0xFFE00#20).getLsbD i = true := by interval_cases i <;> rfl
      simpa [hm] using congrArg (fun y => BitVec.getLsbD y i) h
    · exact BitVec.getLsbD_of_ge _ _ (by omega)
  refine ⟨?_, ?_, ?_⟩ <;> apply BitVec.eq_of_getLsbD_eq <;> intro i hi
  · simp only [fR, BitVec.getLsbD_setWidth, BitVec.getLsbD_ushiftRight, hbit (16 + i) (by omega), Bool.and_false, BitVec.ofNat_eq_ofNat, BitVec.getLsbD_zero]
  · simp only [fS, BitVec.getLsbD_setWidth, BitVec.getLsbD_ushiftRight, hbit (12 + i) (by omega), Bool.and_false, BitVec.ofNat_eq_ofNat, BitVec.getLsbD_zero]
  · by_cases h9 : 9 ≤ i
    · simp only [fK, BitVec.getLsbD_and, BitVec.getLsbD_setWidth, hbit i h9, Bool.and_false, Bool.false_and, BitVec.ofNat_eq_ofNat, BitVec.getLsbD_zero]
    · have hm : (0xE00#12).getLsbD i = false := by
        have h9 : i < 9 := by omega
        interval_cases i <;> rfl
      simp only [BitVec.getLsbD_and, BitVec.ofNat_eq_ofNat, hm, Bool.and_false, BitVec.getLsbD_zero]

/-! ### Events (R62, R64, R65, R112, R113) -/

/-- EVC's mask clears the latches that it names, and their MERGED bits where K[8] says so. -/
theorem Page.evClear_named (p : Page) (m : Byte) (also : Bool) :
    p.evClear (m.setWidth 32 ||| (if also then (m.setWidth 32 : Word) <<< 8 else 0))
      = { p with latch := p.latch &&& ~~~m, merged := if also then p.merged &&& ~~~m else p.merged } := by
  have hlow : ((m.setWidth 32 ||| (if also then (m.setWidth 32 : Word) <<< 8 else 0)).setWidth 8 : Byte) = m := by
    apply BitVec.eq_of_getLsbD_eq
    intro i hi
    cases also <;> simp [hi]
  have hhigh : (((m.setWidth 32 ||| (if also then (m.setWidth 32 : Word) <<< 8 else 0)) >>> 8).setWidth 8 : Byte) = if also then m else 0 := by
    apply BitVec.eq_of_getLsbD_eq
    intro i hi
    cases also <;> simp [hi, show 8 + i < 32 by omega, show i < 32 by omega]
  rw [Page.evClear, hlow, hhigh]
  cases also
  · have hnone : p.merged &&& ~~~(0 : Byte) = p.merged := by
      rw [show ~~~(0 : Byte) = BitVec.allOnes 8 by decide, BitVec.and_allOnes]
    simp only [Bool.false_eq_true, if_false, hnone]
  · rfl

/-- A WAIT that ends commits (R65). -/
theorem Core.endWait_eq (c : Core) (g : SprigId) : c.endWait g = c.setSprig g (({ c.sprig g with state := .run } : Sprig).past 1) := by
  rw [Core.endWait, Core.retire, Core.modSprig_eq c, Core.modSprig_setSprig]
  rfl

section
variable {s : State} {g : SprigId} {gd : BitVec 4} {op : BitVec 20}

theorem exec_waitI (h : s.ready g gd 0x90 = true) : exec (.waitI g gd 0) s
    = .next (s.put g (if s.core.wakeCondition g then (s.core.sprig g).past 1 else { s.core.sprig g with state := .wait })) := by
  show insn g gd 0x90 (bodyWait g 0) s = _
  cases hw : s.core.wakeCondition g
  · exact insn_sleeps h (by simp [bodyWait, hw])
  · exact insn_commits h (by simp [bodyWait, hw])

theorem exec_waitWake_wakes (hs : (s.core.sprig g).state = .wait) (hw : s.core.wakeCondition g = true) (hq : s.core.quietSprig g = false)
    (ha : s.core.asleep (bunchOf g) = false) :
    exec (.waitWake g) s = .next (s.put g (({ s.core.sprig g with state := .run } : Sprig).past 1)) := by
  show execWaitWake g s = _
  simp [execWaitWake, onCore, hs, hw, hq, ha, Core.endWait_eq, State.put]

theorem exec_waitWake_sleeps (hw : s.core.wakeCondition g = false) : exec (.waitWake g) s = .next s := by
  show execWaitWake g s = _
  simp [execWaitWake, onCore, hw]

theorem exec_evr (hop : op.setWidth 16 = (0 : BitVec 16)) (ho : (s.core.sprig g).open_ [] [fR op] = true) (h : s.ready g gd 0x91 = true) :
    exec (.evr g gd op) s = .next (s.put g (((s.core.sprig g).setD (fR op) (s.core.sprig g).page.evWord).past 1)) :=
  insn_done (body := bodyEvr g op) h (by rw [bodyEvr, if_neg (by simp [hop]), Core.useD_open _ ho])

theorem exec_evc (hop : op &&& 0xFFE00 = 0) (h : s.ready g gd 0x92 = true) :
    let x := s.core.sprig g
    let m : Byte := op.setWidth 8
    exec (.evc g gd op) s = .next (s.put g (({ x with page := { x.page with
      latch := x.page.latch &&& ~~~m
      merged := if op.getLsbD 8 then x.page.merged &&& ~~~m else x.page.merged } } : Sprig).past 1)) := by
  obtain ⟨hr, hs, hk⟩ := sysFields_of_low hop
  refine insn_done (body := bodyEvc g op) h ?_
  rw [bodyEvc, if_neg (by rw [hr, hs, hk]; decide)]
  dsimp only
  rw [Page.evClear_named]

theorem exec_rdt (hop : op.setWidth 16 = (0 : BitVec 16)) (he : (fR op).getLsbD 0 = false)
    (ho : (s.core.sprig g).open_ [] [fR op, fR op + 1] = true) (h : s.ready g gd 0x93 = true) :
    exec (.rdt g gd op) s = .next (s.put g ((((s.core.sprig g).setD (fR op) (s.core.time.dtime.setWidth 32)).setD (fR op + 1)
      ((s.core.time.dtime >>> 32).setWidth 32)).past 2)) :=
  insn_done (body := bodyRdt g op) h (by
    rw [bodyRdt, if_neg (by rw [hop, he]; decide)]
    exact Core.useD_open _ ho)

end

/-! ### MODE and the fences (R50, R51, R117, R118) -/

section
variable {s : State} {g : SprigId} {gd : BitVec 4} {opc : Byte} {body : Core → Res} (h : s.ready g gd opc = true)
include h

/-- What an instruction that writes MODE does: LANE 3 is refused; else the nine fields wait for their shadow, and the MODE that waited before
comes into force. -/
theorem insn_newMode {v : Word} (hb : body s.core = s.core.newMode v) : let x := s.core.sprig g
    if modeLane v = 3 then insn g gd opc body s = .next (s.faulted g 2 0x02)
    else ∃ y : Sprig, insn g gd opc body s = .next (s.put g y) ∧ y.written = some (v &&& 0x1FF#32) ∧ y.mode = x.written.getD x.mode
      ∧ y.pc = x.pc + 1 ∧ y.d = x.d ∧ y.a = x.a := by
  by_cases hl : modeLane v = 3
  · rw [if_pos hl]
    exact insn_illegal h (by rw [hb, Core.newMode, if_pos hl])
  · rw [if_neg hl]
    exact ⟨_, insn_commits h (by rw [hb, Core.newMode, if_neg hl]), rfl, rfl, rfl, rfl, rfl⟩

/-- What a fence does: it goes on where its condition holds, and waits where it stands otherwise. -/
theorem insn_fence {p : Prop} [Decidable p] (hb : body s.core = if p then .commit s.core {} else .stall s.core) :
    (p → insn g gd opc body s = .next (s.put g ((s.core.sprig g).past 1)))
    ∧ (¬p → Runs (insn g gd opc body s) fun t =>
      (t.core.sprig g).pc = (s.core.sprig g).pc ∧ (t.core.sprig g).state = (s.core.sprig g).state ∧ (t.core.sprig g).d = (s.core.sprig g).d
      ∧ (t.core.sprig g).board = (s.core.sprig g).board ∧ t.core.mem = s.core.mem ∧ t.core.fly = s.core.fly) :=
  ⟨fun hp => insn_commits h (by rw [hb, if_pos hp]), fun hp => insn_stalls h (by rw [hb, if_neg hp])⟩

end

theorem Sprig.storesSettled_iff (x : Sprig) : x.storesSettled = true ↔ x.buf = [] ∧ x.farStore = none ∧ x.atomics = [] := by
  simp [Sprig.storesSettled, and_assoc]

end Sys2Proof.Machine

open Sys2Proof Sys2Proof.Machine

/-- Settles O15, instruction by instruction. -/
theorem eventInstructions : Obligations.EventInstructions := by
  intro s g gd op c x d m
  refine ⟨?_, exec_waitWake_wakes, fun _ => exec_waitWake_sleeps, exec_evr, exec_evc, exec_rdt⟩
  rintro rfl h
  exact exec_waitI h

/-- Settles O17: `insn_newMode` for the three forms of MMODE, `insn_fence` for the three fences. -/
theorem modeAndFences : Obligations.ModeAndFences := by
  intro s g gd op c x k now takes stores sends holds
  have hst : x.storesSettled = true ↔ stores := x.storesSettled_iff
  refine ⟨fun hop ho h => insn_newMode (body := bodyMmode g op) h ?_, fun hop h => insn_newMode (body := bodyMmodeS g op) h ?_,
    fun hop h => insn_newMode (body := bodyMmodeC g op) h ?_, ?_, ?_, ?_⟩
  · rw [bodyMmode, if_neg (not_not.mpr hop), Core.useD_open _ ho]
  · rw [bodyMmodeS, if_neg (not_not.mpr hop)]
    rfl
  · rw [bodyMmodeC, if_neg (not_not.mpr hop)]
    rfl
  · rintro rfl h
    simp only [← hst]
    exact insn_fence (body := bodyFence g 0) h rfl
  · rintro rfl h
    exact insn_fence (body := bodyFenceQ g 0) h rfl
  · rintro rfl h
    have hall : (stores ∧ sends ∧ x.board = 0) ↔ (x.storesSettled && c.sendsSettled g && decide (x.board = 0)) = true := by
      simp only [← hst, sends, Bool.and_eq_true, decide_eq_true_eq, and_assoc]
    rw [hall]
    exact insn_fence (body := bodySync g 0) h rfl
end

section
/-!
PROOFS. A sprig's word loads and stores in the far window, in the control page and in the scratch window.
-/
namespace Sys2Proof.Machine

/-! ### Regions and alignment (R55, R56, R120) -/

section
variable {a b : BitVec 16}

theorem regionOf_scratch (h1 : 0xC000 ≤ a.toNat) (h2 : a.toNat < 0xE000) : regionOf a = .s := by
  unfold regionOf
  dsimp only
  rw [if_neg (by omega), if_neg (by omega), if_pos h2]

theorem regionOf_far (h1 : 0xE000 ≤ a.toNat) (h2 : a.toNat < 0xF000) : regionOf a = .f := by
  unfold regionOf
  dsimp only
  rw [if_neg (by omega), if_neg (by omega), if_neg (by omega), if_pos h2]

theorem regionOf_page (h : 0xF000 ≤ a.toNat) : regionOf a = .c := by
  unfold regionOf
  dsimp only
  rw [if_neg (by omega), if_neg (by omega), if_neg (by omega), if_neg (by omega)]

/-- Every region begins at a word. -/
theorem regionOf_congr (h : a.toNat / 4 = b.toNat / 4) : regionOf a = regionOf b := by
  have hx : a.toNat < 0x6000 ↔ b.toNat < 0x6000 := by omega
  have hy : a.toNat < 0xC000 ↔ b.toNat < 0xC000 := by omega
  have hs : a.toNat < 0xE000 ↔ b.toNat < 0xE000 := by omega
  have hf : a.toNat < 0xF000 ↔ b.toNat < 0xF000 := by omega
  simp only [regionOf, hx, hy, hs, hf]

/-- An aligned word takes no ALIGN in any region. -/
theorem misaligned_word (h : a.toNat % 4 = 0) : misaligned a 4 = false := by
  have hlt := a.isLt
  have hlast : (a + BitVec.ofNat 16 (4 - 1)).toNat = a.toNat + 3 := by
    rw [BitVec.toNat_add, BitVec.toNat_ofNat]
    omega
  have hregion : regionOf a = regionOf (a + BitVec.ofNat 16 (4 - 1)) := regionOf_congr (by omega)
  have hend : ¬0x10000 < a.toNat + 4 := by omega
  unfold misaligned
  rw [← hregion]
  cases regionOf a <;> simp [h, hend]

/-- In the scratch window an aligned word lies in one row. -/
theorem splits_scratch (hr : regionOf a = .s) (h : a.toNat % 4 = 0) : splits a 4 = false := by
  simp only [splits, rowSize, hr, decide_eq_false_iff_not, not_not]
  omega

end

/-! ### Far loads and stores (R57, R58, R126) -/

section
variable {s : State} {g : SprigId} {gd : BitVec 4} {op : BitVec 20} {e : Ea}

/-- What a word load comes to once its address is formed and its registers are open. -/
theorem bodyLd_far {c : Core} (he : (c.sprig g).ea op 4 false = some e) (h4 : e.addr.toNat % 4 = 0)
    (hr : regionOf e.addr = .f) (ho : (c.sprig g).open_ e.idx [fDst op] = true) :
    bodyLd g op 4 false c = c.farLoadD g (c.sprig g) e.addr 4 false (fDst op) e.upd := by
  simp only [bodyLd, he, Core.useD_open _ ho, misaligned_word h4, hr, Bool.false_eq_true, if_false]

theorem bodyLd_page {c c' : Core} {v : Word} (he : (c.sprig g).ea op 4 false = some e) (h4 : e.addr.toNat % 4 = 0)
    (hr : regionOf e.addr = .c) (ho : (c.sprig g).open_ e.idx [fDst op] = true)
    (hp : c.pageRead g (e.addr.setWidth 12) = (v, false, c')) :
    bodyLd g op 4 false c = .commit (c'.setSprig g (((c'.sprig g).setD (fDst op) v).applyUpd e.upd)) {} := by
  simp only [bodyLd, he, Core.useD_open _ ho, misaligned_word h4, hr, Bool.false_eq_true, if_false, hp]
  rfl

/-- What a word store comes to. -/
theorem bodySt_prepared {c d : Core} {o : StoreOp} (he : (c.sprig g).ea op 4 false = some e)
    (ho : (c.sprig g).open_ (fDst op :: e.idx) [] = true)
    (hp : c.prepStore g e.addr (bytesOf ((c.sprig g).rd (fDst op)) 4) 0 = .ok o) (hs : splits e.addr 4 = false) (hd : c.applyStore g o = d) :
    bodySt g op 4 c = .commit (d.setSprig g ((d.sprig g).applyUpd e.upd)) {} := by
  simp only [bodySt, he, Core.useD_open _ ho, hp, storeSteps, hs, Bool.false_eq_true, if_false, hd]
  rfl

theorem Core.prepStore_far {c : Core} {a : BitVec 16} {v : Word} (h4 : a.toNat % 4 = 0) (hr : regionOf a = .f)
    (hq : (c.sprig g).farLoad = none ∧ (c.sprig g).farStore = none ∧ (c.sprig g).buf = [])
    (hg : c.farGrants g ((c.sprig g).farAddr a) true = true) (hw : c.writerDenied g ((c.sprig g).farAddr a) v = false) :
    c.prepStore g a (bytesOf v 4) 0 = .ok (.far ⟨(c.sprig g).farAddr a, bytesOf v 4⟩) := by
  obtain ⟨hl, hs, hb⟩ := hq
  simp [Core.prepStore, bytesOf_length, misaligned_word h4, hr, hg, hw, hl, hs, hb]

theorem Core.prepStore_page {c : Core} {a : BitVec 16} {v : Word} (h4 : a.toNat % 4 = 0) (hr : regionOf a = .c) :
    c.prepStore g a (bytesOf v 4) 0 = .ok (.page (a.setWidth 12) v) := by
  simp [Core.prepStore, bytesOf_length, misaligned_word h4, hr]

/-- The far load's answer, by the state of its request (R57, R58). -/
theorem Core.farLoadD_granted {c : Core} {x : Sprig} {a : BitVec 16} {d : BitVec 4} {u : Option (BitVec 3 × BitVec 16)}
    (hq : x.farLoad = none ∧ x.farStore = none ∧ x.buf = []) (hg : c.farGrants g (x.farAddr a) false = true) :
    c.farLoadD g x a 4 false d u = c.done g { x.applyUpd u with
      farLoad := some ⟨x.farAddr a, 4, false, .reg d⟩, board := putBit x.board d.toNat true } 1 := by
  obtain ⟨hl, hs, hb⟩ := hq
  simp [Core.farLoadD, hl, hs, hb, hg, Core.done]

theorem Core.farLoadD_denied {c : Core} {x : Sprig} {a : BitVec 16} {d : BitVec 4} {u : Option (BitVec 3 × BitVec 16)}
    (hl : x.farLoad = none) (hs : x.farStore = none) (hg : c.farGrants g (x.farAddr a) false = false) :
    c.farLoadD g x a 4 false d u = .commit ((c.logRead (.sprig g) (x.farAddr a)).setSprig g ((x.setD d 0).applyUpd u)) {} := by
  simp [Core.farLoadD, hl, hs, hg]

end

/-! ### Stores to the scratch window (R56, R122, R177) -/

/-- A scratch window begins at a page, so an aligned word stays aligned in the scratchpad. -/
theorem Sprig.scratchOff_aligned (x : Sprig) {a : BitVec 16} (h4 : a.toNat % 4 = 0) : (x.scratchOff a).toNat % 4 = 0 := by
  have hpage : (x.page.swin &&& 0x001FE000#32).toNat % 2 ^ 2 = 0 := by
    rw [BitVec.toNat_and, Nat.and_mod_two_pow]
    exact Nat.and_zero _
  have hlt := a.isLt
  rw [Sprig.scratchOff, BitVec.toNat_add, BitVec.toNat_setWidth, BitVec.toNat_setWidth, BitVec.toNat_sub]
  simp only [BitVec.toNat_ofNat]
  omega

theorem Core.holderGate_congr (c : Core) (g : SprigId) {o o' : BitVec 21} (h : o >>> 8 = o' >>> 8) : c.holderGate g o = c.holderGate g o' := by
  simp only [Core.holderGate, h]

/-- The first and the last byte of an aligned word lie in one lease region. -/
theorem lastByte_region {o : BitVec 21} (h : o.toNat % 4 = 0) : (o + BitVec.ofNat 21 (4 - 1)) >>> 8 = o >>> 8 := by
  have hlt := o.isLt
  apply BitVec.eq_of_toNat_eq
  rw [BitVec.toNat_ushiftRight, BitVec.toNat_ushiftRight, BitVec.toNat_add, BitVec.toNat_ofNat, Nat.shiftRight_eq_div_pow,
    Nat.shiftRight_eq_div_pow]
  omega

theorem Core.prepStore_scratch {c : Core} {g : SprigId} {a : BitVec 16} {v : Word} (h1 : 0xC000 ≤ a.toNat) (h2 : a.toNat < 0xE000)
    (h4 : a.toNat % 4 = 0) (hg : c.slimGrants g ((c.sprig g).scratchOff a) true = true) (hp : inPages ((c.sprig g).scratchOff a) = false)
    (hl : c.holderGate g ((c.sprig g).scratchOff a) = .pass) (hb : (c.sprig g).buf.length < 4) :
    c.prepStore g a (bytesOf v 4) 0 = .ok (.entries
      [⟨scratchBase (bunchOf g) + ((c.sprig g).scratchOff a).toNat, bytesOf v 4, false, (c.sprig g).depth⟩] none) := by
  have hr := regionOf_scratch h1 h2
  have hlast : c.holderGate g ((c.sprig g).scratchOff a + BitVec.ofNat 21 (4 - 1)) = .pass := by
    rw [c.holderGate_congr g (lastByte_region ((c.sprig g).scratchOff_aligned h4)), hl]
  have hone : firstPart a 4 = 4 := by rw [firstPart, splits_scratch hr h4]; rfl
  have hroom : ¬4 < (c.sprig g).buf.length + 0 + 1 := by omega
  unfold Core.prepStore
  dsimp only
  rw [bytesOf_length, misaligned_word h4]
  simp only [Bool.false_eq_true, if_false, hr, decide_true, if_true, hg, hp, hl, hlast, hone, hroom, bankAddr, Bool.not_true, Bool.or_self,
    Bool.and_false]

section
variable {s : State} {g : SprigId} {gd : BitVec 4} {op : BitVec 20} {e : Ea}

theorem Sprig.applyUpd_rest (x : Sprig) (u : Option (BitVec 3 × BitVec 16)) :
    (x.applyUpd u).pc = x.pc ∧ (x.applyUpd u).d = x.d ∧ (x.applyUpd u).buf = x.buf := by
  cases u <;> exact ⟨rfl, rfl, rfl⟩

/-- Entries of a store go to the end of the buffer; of the sprig's registers none changes. -/
theorem Core.applyStore_entries (c : Core) (g : SprigId) (es : List SbEntry) : ∃ y : Sprig, c.applyStore g (.entries es none) = c.setSprig g y
    ∧ y.buf = (c.sprig g).buf ++ es ∧ y.d = (c.sprig g).d ∧ y.pc = (c.sprig g).pc := by
  refine ⟨_, rfl, rfl, ?_, ?_⟩ <;> dsimp only <;> split <;> rfl

/-- A word store to the scratch window waits in the buffer with its device address. -/
theorem exec_stW_scratch (he : (s.core.sprig g).ea op 4 false = some e) (h4 : e.addr.toNat % 4 = 0) (h1 : 0xC000 ≤ e.addr.toNat)
    (h2 : e.addr.toNat < 0xE000) (hg : s.core.slimGrants g ((s.core.sprig g).scratchOff e.addr) true = true)
    (hp : inPages ((s.core.sprig g).scratchOff e.addr) = false) (hl : s.core.holderGate g ((s.core.sprig g).scratchOff e.addr) = .pass)
    (hb : (s.core.sprig g).buf.length < 4) (ho : (s.core.sprig g).open_ (fDst op :: e.idx) [] = true) (h : s.ready g gd 0x12 = true) :
    let x := s.core.sprig g
    Runs (exec (.stW g gd op) s) fun u =>
      (u.core.sprig g).buf = x.buf ++ [⟨scratchBase (bunchOf g) + (x.scratchOff e.addr).toNat, bytesOf (x.rd (fDst op)) 4, false, x.depth⟩]
      ∧ u.core.mem = s.core.mem ∧ (u.core.sprig g).d = x.d ∧ (u.core.sprig g).pc = x.pc + 1 := by
  intro x
  obtain ⟨y, hy, hbuf, hd, hpc⟩ := s.core.applyStore_entries g
    [⟨scratchBase (bunchOf g) + (x.scratchOff e.addr).toNat, bytesOf (x.rd (fDst op)) 4, false, x.depth⟩]
  have hbody := bodySt_prepared he ho (Core.prepStore_scratch h1 h2 h4 hg hp hl hb) (splits_scratch (regionOf_scratch h1 h2) h4) hy
  rw [Core.sprig_setSprig] at hbody
  obtain ⟨hupc, hud, hubuf⟩ := y.applyUpd_rest e.upd
  refine ⟨_, insn_commits_set (body := bodySt g op 4) h hbody, ?_⟩
  simp only [State.on_core, Core.sprig_setSprig]
  refine ⟨hubuf.trans hbuf, rfl, hud.trans hd, ?_⟩
  rw [← hpc, ← hupc]
  rfl

end

end Sys2Proof.Machine

open Sys2Proof Sys2Proof.Machine

/-- Settles O4, region by region: `bodyLd` and `bodySt` say what a word access comes to, `farLoadD` and `prepStore` how each region answers. -/
theorem loadsAndStoresElsewhere : Obligations.LoadsAndStoresElsewhere := by
  intro s g gd op e c x d t a word quiet far
  refine ⟨?_, ?_, ?_, ?_, ?_, ?_⟩
  · rintro ⟨he, h4⟩ ⟨h1, h2⟩ hq hg ho h
    exact insn_done (body := bodyLd g op 4 false) h ((bodyLd_far he h4 (regionOf_far h1 h2) ho).trans (Core.farLoadD_granted hq hg))
  · rintro ⟨he, h4⟩ ⟨h1, h2⟩ hl hs hg ho h
    exact insn_commits_set (body := bodyLd g op 4 false) h ((bodyLd_far he h4 (regionOf_far h1 h2) ho).trans (Core.farLoadD_denied hl hs hg))
  · rintro ⟨he, h4⟩ ⟨h1, h2⟩ hq hg hw ho h
    have hr := regionOf_far h1 h2
    have hbody := bodySt_prepared he ho (Core.prepStore_far h4 hr hq hg hw) (by rw [splits, hr]) rfl
    have hrun := insn_commits_set (body := bodySt g op 4) h hbody
    rwa [Core.applyStore, Core.modSprig_eq, Core.sprig_setSprig, Core.setSprig_setSprig] at hrun
  · rintro ⟨he, h4⟩ h1 ho h v c' hp
    exact insn_commits_set (body := bodyLd g op 4 false) h (bodyLd_page he h4 (regionOf_page h1) ho hp)
  · rintro ⟨he, h4⟩ h1 ho h
    have hr := regionOf_page h1
    exact insn_commits_set (body := bodySt g op 4) h (bodySt_prepared he ho (Core.prepStore_page h4 hr) (by rw [splits, hr]) rfl)
  · rintro ⟨he, h4⟩ h1 h2 hg hp hl hb ho h
    exact exec_stW_scratch he h4 h1 h2 hg hp hl hb ho h
end

section
/-!
PROOFS. Frames: what a load from a clear bank delivers, the return from a frame, traps, and entry to a handler.
-/
namespace Sys2Proof.Machine

/-! ### Loads from a clear bank (R92, R120, R158) -/

theorem Core.firstBad_eq_none {c : Core} {a n : Nat} (h : ∀ k < n, c.badParity (a + k) = false) : c.firstBad a n = none := by
  induction n generalizing a with
  | zero => rfl
  | succ n ih =>
    have h0 : c.badParity a = false := h 0 (by omega)
    rw [Core.firstBad, h0, if_neg Bool.false_ne_true]
    exact ih fun k hk => by rw [show a + 1 + k = a + (k + 1) by omega]; exact h (k + 1) (by omega)

theorem Core.bytes_add (c : Core) (a m n : Nat) : c.bytes a (m + n) = c.bytes a m ++ c.bytes (a + m) n := by
  induction m generalizing a with
  | zero => simp [Core.bytes]
  | succ m ih => rw [show m + 1 + n = m + n + 1 by omega, Core.bytes, ih, Core.bytes, show a + 1 + m = a + (m + 1) by omega]; rfl

/-- An address k bytes on, in the data space. -/
theorem toNat_add_ofNat {a : BitVec 16} {k : Nat} (h : a.toNat + k < 0x10000) : (a + BitVec.ofNat 16 k).toNat = a.toNat + k := by
  rw [BitVec.toNat_add, BitVec.toNat_ofNat]
  omega

theorem regionOf_bank {a : BitVec 16} (h : a.toNat < 0xC000) : regionOf a = .x ∨ regionOf a = .y := by
  unfold regionOf
  dsimp only
  by_cases hx : a.toNat < 0x6000
  · exact .inl (if_pos hx)
  · exact .inr ((if_neg hx).trans (if_pos h))

/-- A range inside a clear range is clear. -/
theorem Core.clear_within {c : Core} {g : SprigId} {a : BitVec 16} {n k m : Nat} (h : c.clear g a n = true) (hk : k + m ≤ n) (hm : 0 < m) :
    c.clear g (a + BitVec.ofNat 16 k) m = true := by
  simp only [Core.clear, inBank, Bool.and_eq_true, Bool.or_eq_true, decide_eq_true_eq, Option.isNone_iff_eq_none] at h ⊢
  obtain ⟨⟨hin, hbuf⟩, hbad⟩ := h
  have ha : (a + BitVec.ofNat 16 k).toNat = a.toNat + k := toNat_add_ofNat (by omega)
  refine ⟨⟨by omega, hbuf⟩, Core.firstBad_eq_none fun j hj => ?_⟩
  rw [ha, show localsBase g + (a.toNat + k) + j = localsBase g + a.toNat + (k + j) by omega]
  exact Core.firstBad_none hbad (by omega)

/-- One access of a load from a clear range. -/
theorem Core.loadPart_clear {c : Core} {g : SprigId} {a : BitVec 16} {n : Nat} (h : c.clear g a n = true) (hn : 0 < n) :
    c.loadPart g a n = .ok ⟨c, c.bytes (localsBase g + a.toNat) n, false, 1, none⟩ := by
  simp only [Core.clear, inBank, Bool.and_eq_true, Bool.or_eq_true, decide_eq_true_eq, Option.isNone_iff_eq_none, List.isEmpty_iff] at h
  obtain ⟨⟨hin, hbuf⟩, hbad⟩ := h
  rcases regionOf_bank (a := a) (by omega) with hr | hr <;> simp [Core.loadPart, bankAddr, hr, hbuf, forwarded, hbad]

/-- A load from a clear range, in one access or split into two. -/
theorem Core.loadBank_clear {c : Core} {g : SprigId} {a : BitVec 16} {n : Nat} (h : c.clear g a n = true) (hn : 0 < n) :
    c.loadBank g a n = .ok ⟨c, c.bytes (localsBase g + a.toNat) n, false, bankSteps a n, none⟩ := by
  have hin : inBank a n = true := by
    simp only [Core.clear, Bool.and_eq_true] at h
    exact h.1.1
  simp only [inBank, Bool.or_eq_true, Bool.and_eq_true, decide_eq_true_eq] at hin
  have hr := regionOf_bank (a := a) (by omega)
  have hrow : rowSize a = 4 := by rcases hr with hr | hr <;> rw [rowSize, hr]
  have hsplit : splits a n = decide (a.toNat / 4 ≠ (a.toNat + n - 1) / 4) := by rcases hr with hr | hr <;> simp only [splits, hr, hrow]
  by_cases hs : a.toNat % 4 + n ≤ 4
  · have hone : firstPart a n = n := by
      rw [firstPart, hsplit, if_neg]
      simp only [decide_eq_true_eq, not_not]
      omega
    rw [Core.loadBank, if_pos hone, Core.loadPart_clear h hn, bankSteps, if_pos hs]
  · have htwo : firstPart a n = 4 - a.toNat % 4 := by
      rw [firstPart, hsplit, if_pos, hrow]
      simp only [decide_eq_true_eq]
      omega
    obtain ⟨k, m, hk, hm, hkn, hmn, hkm⟩ : ∃ k m, k = 4 - a.toNat % 4 ∧ m = n - k ∧ 0 < k ∧ 0 < m ∧ k + m = n := ⟨_, _, rfl, rfl, by omega, by omega, by omega⟩
    have hfirst : c.clear g a k = true := by simpa using Core.clear_within (k := 0) h (show 0 + k ≤ n by omega) hkn
    have hsecond := Core.clear_within h (show k + m ≤ n by omega) hmn
    have hbytes : c.bytes (localsBase g + a.toNat) n
        = c.bytes (localsBase g + a.toNat) k ++ c.bytes (localsBase g + (a + BitVec.ofNat 16 k).toNat) m := by
      rw [toNat_add_ofNat (by omega), ← Nat.add_assoc, ← Core.bytes_add, hkm]
    rw [Core.loadBank, htwo, ← hk, ← hm, if_neg (by omega), bankSteps, if_neg hs, Core.loadPart_clear hfirst hkn, hbytes]
    dsimp only
    rw [Core.loadPart_clear hsecond hmn]
    rcases hr with hr | hr <;> rw [hr] <;> rfl

/-! ### The return from a frame (R71) -/

@[simp] theorem getLsbD_putBit_self {w : Nat} (x : BitVec w) {i : Nat} (b : Bool) (h : i < w) : (putBit x i b).getLsbD i = b := by
  unfold putBit
  cases b <;> simp [h]

theorem modeIen_rtimMode (m sw : Word) : modeIen (rtimMode m sw) = sw.getLsbD bitPien := by
  rw [modeIen, rtimMode, getLsbD_putBit _ _ _ _ (by decide), getLsbD_putBit_self _ _ (by decide)]

theorem modeTrace_rtimMode (m sw : Word) : modeTrace (rtimMode m sw) = sw.getLsbD bitPtrace := by
  rw [modeTrace, rtimMode, getLsbD_putBit_self _ _ (by decide)]

/-- A write of SW takes its RW fields (R49). -/
theorem getLsbD_swWrite (old v : Word) {i : Nat} (h : swMask.getLsbD i = true) : (swWrite old v).getLsbD i = v.getLsbD i := by
  simp [swWrite, h]

section
variable (x : Sprig) (w0 w1 d0 d1 d2 d3 : Word)

theorem Sprig.unframe_rd : let y := x.unframe w0 w1 d0 d1 d2 d3
    y.rd 0 = d0 ∧ y.rd 1 = d1 ∧ y.rd 2 = d2 ∧ y.rd 3 = d3 ∧ y.ra 7 = x.ra 7 + 24 := by
  simp [Sprig.unframe, Sprig.setDP, Sprig.setA, Sprig.rd, Sprig.ra]

/-- The frame's poison tags return to D0 to D3. -/
theorem Sprig.unframe_tags : ((x.unframe w0 w1 d0 d1 d2 d3).tags.setWidth 4 : BitVec 4) = (w0 >>> 24).setWidth 4 := by
  have htags : (x.unframe w0 w1 d0 d1 d2 d3).tags
      = putBit (putBit (putBit (putBit x.tags 0 (w0.getLsbD 24)) 1 (w0.getLsbD 25)) 2 (w0.getLsbD 26)) 3 (w0.getLsbD 27) := rfl
  apply BitVec.eq_of_getLsbD_eq
  intro i hi
  rw [htags, BitVec.getLsbD_setWidth, BitVec.getLsbD_setWidth, BitVec.getLsbD_ushiftRight]
  interval_cases i <;> simp (disch := decide) only [getLsbD_putBit, getLsbD_putBit_self]

end

section
variable {g : SprigId}

/-- RETI's words come from the frame at A7 (R71). -/
theorem bodyReti_clear {c : Core} (h1 : 0x6000 ≤ ((c.sprig g).ra 7).toNat) (h2 : ((c.sprig g).ra 7).toNat + 24 ≤ 0xC000)
    (hc : c.clear g ((c.sprig g).ra 7) 24 = true) (hs : (c.sprig g).slotsOpen = false) (ho : (c.sprig g).open_ [] [0, 1, 2, 3] = true) :
    let x := c.sprig g
    let fw (k : Nat) : Word := c.word (localsBase g + (x.ra 7).toNat + k)
    bodyReti g 0 c = .commit (c.setSprig g (x.unframe (fw 0) (fw 4) (fw 8) (fw 12) (fw 16) (fw 20)))
      { steps := 8, npc := some ((fw 0).setWidth 16), traced := false
        now := some (rtimMode (x.written.getD x.mode) (swWrite x.sw (fw 4))) } := by
  have hw (k : Nat) (hk : k + 4 ≤ 24) : c.loadBank g ((c.sprig g).ra 7 + BitVec.ofNat 16 k) 4
      = .ok ⟨c, c.bytes (localsBase g + ((c.sprig g).ra 7).toNat + k) 4, false, bankSteps ((c.sprig g).ra 7 + BitVec.ofNat 16 k) 4, none⟩ := by
    rw [Core.loadBank_clear (Core.clear_within hc hk (by decide)) (by decide), toNat_add_ofNat (by omega), Nat.add_assoc]
  unfold bodyReti
  dsimp only
  rw [if_neg (by decide), if_neg (by omega), Core.useD_open _ ho, hs, if_neg Bool.false_ne_true, hw 0 (by decide), hw 4 (by decide),
    hw 8 (by decide), hw 12 (by decide), hw 16 (by decide), hw 20 (by decide)]
  rfl

theorem exec_reti {s : State} {gd : BitVec 4} (h1 : 0x6000 ≤ ((s.core.sprig g).ra 7).toNat) (h2 : ((s.core.sprig g).ra 7).toNat + 24 ≤ 0xC000)
    (hc : s.core.clear g ((s.core.sprig g).ra 7) 24 = true) (hs : (s.core.sprig g).slotsOpen = false)
    (ho : (s.core.sprig g).open_ [] [0, 1, 2, 3] = true) (h : s.ready g gd 0x75 = true) :
    let x := s.core.sprig g
    let fw (k : Nat) : Word := s.core.word (localsBase g + (x.ra 7).toNat + k)
    Runs (exec (.reti g gd 0) s) fun t =>
      let y := t.core.sprig g
      t = s.put g y ∧ y.pc = (fw 0).setWidth 16 ∧ y.p = (fw 0 >>> 16).setWidth 8 ∧ y.sw = swWrite x.sw (fw 4)
      ∧ y.rd 0 = fw 8 ∧ y.rd 1 = fw 12 ∧ y.rd 2 = fw 16 ∧ y.rd 3 = fw 20 ∧ y.ra 7 = x.ra 7 + 24 ∧ y.depth = x.depth - 1
      ∧ y.tags.setWidth 4 = ((fw 0 >>> 24).setWidth 4 : BitVec 4)
      ∧ modeIen y.mode = (fw 4).getLsbD 14 ∧ modeTrace y.mode = (fw 4).getLsbD 15 ∧ y.req.trace = false := by
  intro x fw
  refine ⟨_, insn_commits_set (body := bodyReti g 0) h (bodyReti_clear h1 h2 hc hs ho), ?_⟩
  simp only [State.on_core, Core.sprig_setSprig]
  have htags := x.unframe_tags (fw 0) (fw 4) (fw 8) (fw 12) (fw 16) (fw 20)
  obtain ⟨hd0, hd1, hd2, hd3, ha⟩ := x.unframe_rd (fw 0) (fw 4) (fw 8) (fw 12) (fw 16) (fw 20)
  refine ⟨rfl, rfl, rfl, rfl, hd0, hd1, hd2, hd3, ha, rfl, htags, ?_, ?_, rfl⟩
  · exact (modeIen_rtimMode ..).trans (getLsbD_swWrite _ _ (by decide))
  · exact (modeTrace_rtimMode ..).trans (getLsbD_swWrite _ _ (by decide))

end

/-! ### Traps and halts (R66, R79, R108) -/

section
variable {s : State} {g : SprigId} {gd : BitVec 4}

theorem exec_trap {op : BitVec 20} (hop : op &&& 0xFFFE0 = 0) (h : s.ready g gd 0x76 = true) : let x := s.core.sprig g
    exec (.trap g gd op) s = .next (s.put g
      (({ x with req := { x.req with rank1 := some (32#6 + (op.setWidth 5 : BitVec 5).setWidth 6), resume := x.pc + 1 } } : Sprig).past 1)) := by
  have hvec : (32#6 + (op.setWidth 5 : BitVec 5).setWidth 6) ≠ 5 := by
    generalize (op.setWidth 5 : BitVec 5) = v
    revert v
    decide
  refine insn_commits_set (body := bodyTrap g op) h ?_
  rw [bodyTrap, if_neg (not_not.mpr hop), Core.trapTo, Core.modSprig_eq, Sprig.request, decide_eq_false hvec]
  rfl

theorem exec_bkpt (h : s.ready g gd 0x77 = true) : let x := s.core.sprig g
    exec (.bkpt g gd 0) s = .next (s.put g ((if x.req.haltOnBreak then { x with state := .halted }
      else { x with req := { x.req with rank1 := some 5, resume := x.pc + 1 } } : Sprig).past 1)) :=
  insn_commits_set (body := bodyBkpt g 0) h rfl

theorem exec_halt (h : s.ready g gd 0xB5 = true) :
    exec (.halt g gd 0) s = .next (s.put g (({ s.core.sprig g with state := .halted } : Sprig).past 1)) :=
  insn_commits_set (body := bodyHalt g 0) h rfl

end

/-! ### Entry to a handler (R65, R66, R68 to R71) -/

/-- What entry reads of a sprig, beside its PC and requests, is the same in both. -/
def Sprig.entersAs (x y : Sprig) : Prop :=
  y.d = x.d ∧ y.a = x.a ∧ y.p = x.p ∧ y.sw = x.sw ∧ y.tags = x.tags ∧ y.latestMode = x.latestMode ∧ y.depth = x.depth

theorem Core.logCs_rest (c : Core) (g : SprigId) (a : Nat) (k : BitVec 16) : let d := c.logCs g a k
    d.mem = c.mem ∧ d.sprigs = c.sprigs ∧ d.csEcc = c.csEcc := by
  unfold Core.logCs
  split
  · simp
  · exact ⟨rfl, rfl, rfl⟩

/-- An entry routine without a double-bit error: corrected errors touch the log alone (R128). -/
theorem Core.entryWords_corrected {c : Core} {g : SprigId} (h : ∀ k, k < 7 → c.csMark (storeBase g + 4 * k) ≠ .double) :
    ∃ d, c.entryWords g = (false, d) ∧ d.mem = c.mem ∧ d.sprigs = c.sprigs := by
  have hfold (l : List Nat) (hl : ∀ k ∈ l, k < 7) (d : Core) (hd : d.mem = c.mem ∧ d.sprigs = c.sprigs ∧ d.csEcc = c.csEcc) :
      ∃ e, l.foldl (fun (acc : Bool × Core) k =>
        let a := storeBase g + 4 * k
        (acc.1 || decide (acc.2.csMark a = .double), acc.2.logCs g a (BitVec.ofNat 16 k))) (false, d) = (false, e)
        ∧ e.mem = c.mem ∧ e.sprigs = c.sprigs := by
    induction l generalizing d with
    | nil => exact ⟨d, rfl, hd.1, hd.2.1⟩
    | cons k l ih =>
      obtain ⟨hmem, hspr, hecc⟩ := hd
      have hk : d.csMark (storeBase g + 4 * k) ≠ .double := by
        rw [Core.csMark, hecc]
        exact h k (hl k (by simp))
      obtain ⟨hm', hs', he'⟩ := d.logCs_rest g (storeBase g + 4 * k) (BitVec.ofNat 16 k)
      rw [List.foldl_cons]
      dsimp only
      rw [decide_eq_false hk, Bool.or_false]
      exact ih (fun j hj => hl j (by simp [hj])) _ ⟨hm'.trans hmem, hs'.trans hspr, he'.trans hecc⟩
  exact hfold _ (fun k hk => List.mem_range.mp hk) c ⟨rfl, rfl, rfl⟩

theorem Core.abandonFor_rest (c : Core) (g : SprigId) : (c.abandonFor g).mem = c.mem ∧ (c.sprig g).entersAs ((c.abandonFor g).sprig g) := by
  unfold Core.abandonFor
  split
  · exact ⟨rfl, rfl, rfl, rfl, rfl, rfl, rfl, rfl⟩
  · have hx : (c.dropInsn g).sprig g = (c.sprig g).dropped (Config.freeSteps c.free) := Core.sprig_setSprig ..
    rw [hx]
    exact ⟨rfl, rfl, rfl, rfl, rfl, rfl, rfl, rfl⟩

section
variable {c : Core} {g : SprigId} {vec : BitVec 6} (resume : BitVec 16) (h1 : 0x6018 ≤ ((c.sprig g).ra 7).toNat)
  (h2 : ((c.sprig g).ra 7).toNat ≤ 0xC000) (hv : (c.vectorWord g vec).getLsbD 16 = true)
  (hm : ∀ k, k < 7 → c.csMark (storeBase g + 4 * k) ≠ .double)
include h1 h2 hv hm

/-- Entry stores the frame of the sprig's registers below A7 and starts the handler. -/
theorem Core.takeEntry_starts : ∃ (d : Core) (y : Sprig), d.mem = c.mem ∧ (c.sprig g).entersAs y
    ∧ c.takeEntry g vec resume = (d.bankStore g ((c.sprig g).ra 7 - 24).toNat (y.entryFrame vec resume)).setSprig g
      (y.enter vec ((c.vectorWord g vec).setWidth 16) ((c.sprig g).ra 7 - 24)) := by
  obtain ⟨d, hd, hmem, hspr⟩ := Core.entryWords_corrected hm
  obtain ⟨hmem', hx⟩ := d.abandonFor_rest g
  rw [show d.sprig g = c.sprig g by rw [Core.sprig, hspr]; rfl] at hx
  refine ⟨d.abandonFor g, (d.abandonFor g).sprig g, hmem'.trans hmem, hx, ?_⟩
  unfold Core.takeEntry
  dsimp only
  rw [if_neg (by omega), if_neg (by simp [hv]), hd]
  rfl

/-- So does a request that ends a WAIT, unless a step command ran the WAIT (R65, R79). -/
theorem Core.takeRequest_starts (hs : (c.sprig g).state = .run ∨ ((c.sprig g).state = .wait ∧ (c.sprig g).req.stepping = false)) :
    ∃ (d : Core) (y : Sprig), d.mem = c.mem ∧ (c.sprig g).entersAs y
      ∧ c.takeRequest g vec resume = (d.bankStore g ((c.sprig g).ra 7 - 24).toNat (y.entryFrame vec resume)).setSprig g
        (y.enter vec ((c.vectorWord g vec).setWidth 16) ((c.sprig g).ra 7 - 24)) := by
  rcases hs with hrun | ⟨hwait, hstep⟩
  · rw [Core.takeRequest, if_neg (by rw [hrun]; decide)]
    exact Core.takeEntry_starts resume h1 h2 hv hm
  · let y := ({ c.sprig g with state := .run } : Sprig).past 1
    have hy : (c.setSprig g y).sprig g = y := Core.sprig_setSprig ..
    obtain ⟨d, z, hmem, hz, he⟩ := Core.takeEntry_starts (c := c.setSprig g y) (vec := vec) resume (by rw [hy]; exact h1) (by rw [hy]; exact h2) hv hm
    rw [hy] at hz he
    refine ⟨d, z, hmem, hz, ?_⟩
    rw [Core.takeRequest, if_pos hwait, c.endWait_eq g, hstep]
    exact he

end

/-- The frame's first word holds the PC, the predicates and the poison tags of D0 to D3 (R68). -/
theorem frameHead_fields (r : BitVec 16) (p : Byte) (t : BitVec 4) :
    let w : Word := r.setWidth 32 ||| (p.setWidth 32 <<< 16) ||| (t.setWidth 32 <<< 24)
    w.setWidth 16 = r ∧ (w >>> 16).setWidth 8 = p ∧ (w >>> 24).setWidth 4 = t := by
  refine ⟨?_, ?_, ?_⟩ <;> apply BitVec.eq_of_getLsbD_eq <;> intro i hi <;>
    simp only [BitVec.getLsbD_setWidth, BitVec.getLsbD_ushiftRight, BitVec.getLsbD_or, BitVec.getLsbD_shiftLeft]
  · simp [hi, show i < 24 by omega, show i < 32 by omega]
  · simp [hi, show 16 + i < 32 by omega, show 16 + i < 24 by omega, show i < 32 by omega]
  · simp [hi, show 24 + i < 32 by omega, show i < 32 by omega, r.getLsbD_of_ge (24 + i) (by omega), p.getLsbD_of_ge (24 + i - 16) (by omega)]

theorem Sprig.enter_trace (x : Sprig) (vec : BitVec 6) (pc fr : BitVec 16) : modeTrace (x.enter vec pc fr).mode = false :=
  getLsbD_putBit_self (putBit x.latestMode 0 false) false (by decide)

/-- SW keeps the IEN and TRACE that entry takes away (R69). -/
theorem entrySw_kept (sw mode : Word) (vec : BitVec 6) :
    (entrySw sw mode vec).getLsbD 14 = modeIen mode ∧ (entrySw sw mode vec).getLsbD 15 = modeTrace mode := by
  unfold entrySw
  simp (disch := decide) only [bitPien, bitPtrace, getLsbD_putBit, getLsbD_putBit_self, and_self]

/-- What stands in the sprig at its handler's first instruction. -/
theorem Sprig.entersAs.enter {x z : Sprig} (h : x.entersAs z) (vec : BitVec 6) (pc fr : BitVec 16) : let y := z.enter vec pc fr
    y.pc = pc ∧ y.ra 7 = fr ∧ y.depth = x.depth + 1 ∧ y.state = .run ∧ y.req.rank1 = none
    ∧ modeIen y.mode = false ∧ modeTrace y.mode = false ∧ y.d = x.d ∧ y.p = x.p
    ∧ (y.sw >>> 16).setWidth 6 = vec ∧ y.sw.getLsbD 14 = modeIen x.latestMode ∧ y.sw.getLsbD 15 = modeTrace x.latestMode := by
  obtain ⟨hd, -, hp, -, -, hmode, hdepth⟩ := h
  obtain ⟨hien, htrace⟩ := entrySw_kept z.sw z.latestMode vec
  rw [hmode] at hien htrace
  exact ⟨rfl, z.enter_a7 .., congrArg (· + 1) hdepth, rfl, rfl, z.enter_mode .., z.enter_trace .., hd, hp, z.enter_vec .., hmode ▸ hien, hmode ▸ htrace⟩

/-- The words of a frame that stands in the bank, and every byte outside it. -/
theorem Core.entryFrame_words {c e : Core} {a : Nat} {z : Sprig} {vec : BitVec 6} {r : BitVec 16}
    (he : e.mem = (c.setBytes a (z.entryFrame vec r)).mem) : let w (k : Nat) : Word := e.word (a + k)
    ((w 0).setWidth 16 = r ∧ (w 0 >>> 16).setWidth 8 = z.pImage ∧ (w 0 >>> 24).setWidth 4 = (z.tags.setWidth 4 : BitVec 4)
      ∧ w 4 = entrySw z.sw z.latestMode vec ∧ w 8 = z.rd 0 ∧ w 12 = z.rd 1 ∧ w 16 = z.rd 2 ∧ w 20 = z.rd 3)
    ∧ ∀ b, (b < a ∨ a + 24 ≤ b) → e.byte b = c.byte b := by
  intro w
  let words := ({ z with sw := entrySw z.sw z.latestMode vec }).frameWords r
  have hword (j : Nat) (hj : j < 6) : w (4 * j) = words[j]'hj := (Core.word_congr he _).trans (c.word_setBytes_words a words hj)
  obtain ⟨hpc, hp, htags⟩ := frameHead_fields r z.pImage (z.tags.setWidth 4)
  have h0 := hword 0 (by decide)
  refine ⟨⟨(congrArg _ h0).trans hpc, (congrArg (fun u : Word => (u >>> 16).setWidth 8) h0).trans hp,
    (congrArg (fun u : Word => (u >>> 24).setWidth 4) h0).trans htags,
    hword 1 (by decide), hword 2 (by decide), hword 3 (by decide), hword 4 (by decide), hword 5 (by decide)⟩, fun b hb => ?_⟩
  rw [Core.byte_congr he]
  exact c.setBytes_same_but _ _ b (by rwa [show (z.entryFrame vec r).length = 24 from length_flatMap_bytesOf words])

section
variable {s : State} {g : SprigId}

theorem exec_interruptEntry {v : BitVec 6} {r : BitVec 16} (hreq : s.core.recognise g = some (v, r))
    (hs : (s.core.sprig g).state = .run ∨ ((s.core.sprig g).state = .wait ∧ (s.core.sprig g).req.stepping = false))
    (hq : s.core.quietSprig g = false) (hw : s.core.asleep (bunchOf g) = false) :
    exec (.interruptEntry g) s = .next (s.on (s.core.takeRequest g v r)) := by
  have ha : s.core.awake g = true := by
    rcases hs with h | ⟨h, -⟩ <;> rw [Core.awake, h]
  show onCore _ s = _
  rw [onCore_runs, ha, hq, hw]
  simp only [hreq]
  rfl

/-- What stands after entry: the handler's sprig and the frame below the old A7. -/
theorem exec_interruptEntry_enters {v : BitVec 6} {r : BitVec 16} (hreq : s.core.recognise g = some (v, r))
    (hs : (s.core.sprig g).state = .run ∨ ((s.core.sprig g).state = .wait ∧ (s.core.sprig g).req.stepping = false))
    (hq : s.core.quietSprig g = false) (hw : s.core.asleep (bunchOf g) = false) (h1 : 0x6018 ≤ ((s.core.sprig g).ra 7).toNat)
    (h2 : ((s.core.sprig g).ra 7).toNat ≤ 0xC000) (hv : (s.core.vectorWord g v).getLsbD 16 = true)
    (hm : ∀ k, k < 7 → s.core.csMark (storeBase g + 4 * k) ≠ .double) :
    let c := s.core
    let x := c.sprig g
    let a := x.ra 7
    Runs (exec (.interruptEntry g) s) fun t =>
      let y := t.core.sprig g
      let fr := a - 24
      let w (k : Nat) : Word := t.core.word (localsBase g + fr.toNat + k)
      y.pc = (c.vectorWord g v).setWidth 16 ∧ y.ra 7 = fr ∧ y.depth = x.depth + 1 ∧ y.state = .run ∧ y.req.rank1 = none
      ∧ modeIen y.mode = false ∧ modeTrace y.mode = false ∧ y.d = x.d ∧ y.p = x.p
      ∧ (y.sw >>> 16).setWidth 6 = v ∧ y.sw.getLsbD 14 = modeIen x.latestMode ∧ y.sw.getLsbD 15 = modeTrace x.latestMode
      ∧ (w 0).setWidth 16 = r ∧ (w 0 >>> 16).setWidth 8 = x.pImage ∧ (w 0 >>> 24).setWidth 4 = (x.tags.setWidth 4 : BitVec 4)
      ∧ w 4 = y.sw ∧ w 8 = x.rd 0 ∧ w 12 = x.rd 1 ∧ w 16 = x.rd 2 ∧ w 20 = x.rd 3
      ∧ ∀ b, (b < localsBase g + fr.toNat ∨ localsBase g + fr.toNat + 24 ≤ b) → t.core.byte b = c.byte b := by
  intro c x a
  obtain ⟨d, z, hmem, hz, he⟩ := Core.takeRequest_starts r h1 h2 hv hm hs
  obtain ⟨hpc, ha, hdepth, hst, hrank, hien, htr, hd, hp, hvec, hsw14, hsw15⟩ := hz.enter v ((c.vectorWord g v).setWidth 16) (a - 24)
  obtain ⟨hzd, -, hzp, -, hztags, -, -⟩ := hz
  have hnext := exec_interruptEntry hreq hs hq hw
  have hy : (s.core.takeRequest g v r).sprig g = z.enter v ((c.vectorWord g v).setWidth 16) (a - 24) := by rw [he, Core.sprig_setSprig]
  have hframe : (s.core.takeRequest g v r).mem = (c.setBytes (localsBase g + (a - 24).toNat) (z.entryFrame v r)).mem := by
    rw [← Core.setBytes_mem_congr hmem, ← Core.bankStore_mem]
    simp only [he, Core.setSprig_rest]
    rfl
  obtain ⟨⟨hw0, hwp, hwt, hw4, hw8, hw12, hw16, hw20⟩, hout⟩ := Core.entryFrame_words hframe
  have hrd (k : BitVec 4) : z.rd k = x.rd k := by
    simp only [Sprig.rd, hzd]
    rfl
  refine ⟨_, hnext, ?_⟩
  simp only [State.on_core, hy]
  exact ⟨hpc, ha, hdepth, hst, hrank, hien, htr, hd, hp, hvec, hsw14, hsw15, hw0, hwp.trans (congrArg (· ||| 1) hzp), hwt.trans (by rw [hztags]),
    hw4, hw8.trans (hrd 0), hw12.trans (hrd 1), hw16.trans (hrd 2), hw20.trans (hrd 3), hout⟩

end

end Sys2Proof.Machine

open Sys2Proof Sys2Proof.Machine

/-- Settles O13: `exec_reti`, the traps and halts, and `exec_interruptEntry_enters`. -/
theorem framesAndTraps : Obligations.FramesAndTraps := by
  intro s g gd op c x a fw
  refine ⟨?_, exec_trap, ?_, ?_, ?_⟩
  · rintro rfl h1 h2 hc hs ho h
    exact exec_reti h1 h2 hc hs ho h
  · rintro rfl h
    exact exec_bkpt h
  · rintro rfl h
    exact exec_halt h
  · intro v r hreq hs hq hw h1 h2 hv hm
    exact exec_interruptEntry_enters hreq hs hq hw h1 h2 hv hm
end

section
/-!
PROOFS. What a sprig's accesses come to: far loads and stores in module memory, the drain of the store buffer, and results for a frame's slots.
-/
namespace Sys2Proof.Machine

/-! ### Far accesses to module memory (R57, R303) -/

theorem Core.readMem_keeps {β : Type} (P : Core → β) (hmark : ∀ (c : Core) a m, P (c.setMark a m) = P c)
    (hgdc : ∀ (c : Core) k x, P (c.setGdc k x) = P c) (hlog : ∀ (c : Core) e, P (c.log e) = P c) (c : Core) (a n : Nat) :
    P (c.readMem a n).2.2 = P c := by
  have herr (c : Core) (ch a : Nat) (w : DWord) (bad : Bool) : P (c.memError ch a w bad) = P c := (hlog ..).trans (hgdc ..)
  have hword (c : Core) (a : Nat) : P (c.readMemWord a).2 = P c := by
    unfold Core.readMemWord
    dsimp only
    split
    · rfl
    · rfl
    · exact herr ..
    · exact (herr ..).trans (hmark ..)
  exact foldl_keeps_of (fun acc : List Bool × Core => P acc.2) _ (fun _ _ => hword ..) _ _

section
variable {s : State} {g : SprigId}

/-- An address of module memory that is available belongs to no part that refuses it. -/
theorem Core.refused_mem {c : Core} {a : Nat} (ha : isMem a = true) (hok : c.memAvail a = .ok) : c.refused a = false := by
  simp only [isMem, decide_eq_true_eq] at ha
  have hpart : partAt a = none := by
    rw [partAt, if_neg, if_neg]
    · simp only [isLocals, Bool.and_eq_true, decide_eq_true_eq]
      omega
    · simp only [isScratch, Bool.and_eq_true, decide_eq_true_eq]
      omega
  rw [Core.refused, hpart, hok]
  exact Bool.and_false _

/-- A load's value in a register: its scoreboard bit ends and its poison tag follows (R52, R53). -/
def Sprig.delivered (x : Sprig) (d : BitVec 4) (v : Word) (p : Bool) : Sprig :=
  { x.setDP d v p with board := putBit x.board d.toNat false }

theorem Sprig.delivered_reads (x : Sprig) (d : BitVec 4) (v : Word) (p : Bool) : let y := x.delivered d v p
    y.farLoad = x.farLoad ∧ y.rd d = v ∧ y.tags.getLsbD d.toNat = p ∧ y.board.getLsbD d.toNat = false :=
  ⟨rfl, by simp [Sprig.delivered, Sprig.setDP, Sprig.rd], getLsbD_putBit_self _ _ d.isLt, getLsbD_putBit_self _ _ d.isLt⟩

theorem State.farRead_mem {m : Master} {a : Addr} {n : Nat} (ha : isMem a.toNat = true) (hok : s.core.memAvail a.toNat = .ok) :
    s.farRead m a n = some (s.core.readMem a.toNat n) := (if_pos ha).trans (if_pos hok)

theorem State.farWrite_mem {m : Master} {a : Addr} {bs : List Byte} (ha : isMem a.toNat = true) (hok : s.core.memAvail a.toNat = .ok) :
    s.farWrite m a bs = some (s.on (s.core.writeMem a.toNat bs false)) := (if_pos ha).trans (if_pos hok)

theorem Core.endFarLoad_reg {c : Core} {f : FarLoad} {d : BitVec 4} (hf : (c.sprig g).farLoad = some f) (hd : f.dst = .reg d) (v : Word)
    (p : Bool) : c.endFarLoad g v p = c.setSprig g (Sprig.delivered { c.sprig g with farLoad := none } d v p) := by
  rw [Core.endFarLoad, hf]
  dsimp only
  rw [hd]
  simp only [Core.deliver, Core.modSprig_eq, Core.sprig_setSprig, Core.setSprig_setSprig]
  rfl

theorem State.loadReturn_mem {f : FarLoad} {d : BitVec 4} (hf : (s.core.sprig g).farLoad = some f) (hd : f.dst = .reg d)
    (ha : isMem f.addr.toNat = true) (hok : s.core.memAvail f.addr.toNat = .ok) :
    s.loadReturn g = (s.core.readMem f.addr.toNat f.size).2.2.setSprig g (Sprig.delivered { s.core.sprig g with farLoad := none } d
      (extend (s.core.bytes f.addr.toNat f.size) f.signed) (s.core.readMem f.addr.toNat f.size).2.1) := by
  have hx : (s.core.readMem f.addr.toNat f.size).2.2.sprig g = s.core.sprig g := by
    simp only [Core.sprig, Core.readMem_keeps Core.sprigs (fun _ _ _ => rfl) (fun _ _ _ => rfl) (fun _ _ => by simp)]
  rw [State.loadReturn, hf]
  dsimp only
  rw [Core.refused_mem ha hok, if_neg Bool.false_ne_true, State.farRead_mem ha hok]
  dsimp only
  rw [Core.endFarLoad_reg (by rw [hx, hf]) hd, hx]
  rfl

theorem exec_farLoadReturn {f : FarLoad} {d : BitVec 4} (hf : (s.core.sprig g).farLoad = some f) (hd : f.dst = .reg d)
    (ha : isMem f.addr.toNat = true) (hok : s.core.memAvail f.addr.toNat = .ok) :
    Runs (exec (.farLoadReturn g) s) fun t =>
      let y := t.core.sprig g
      y.farLoad = none ∧ y.rd d = extend (s.core.bytes f.addr.toNat f.size) f.signed
      ∧ y.tags.getLsbD d.toNat = (s.core.readMem f.addr.toNat f.size).2.1 ∧ y.board.getLsbD d.toNat = false ∧ t.core.mem = s.core.mem := by
  refine ⟨s.on (s.loadReturn g), rfl, ?_⟩
  obtain ⟨hfar, hrd, htags, hboard⟩ := Sprig.delivered_reads { s.core.sprig g with farLoad := none } d
    (extend (s.core.bytes f.addr.toNat f.size) f.signed) (s.core.readMem f.addr.toNat f.size).2.1
  have hmem := Core.readMem_keeps Core.mem (fun _ _ _ => rfl) (fun _ _ _ => rfl) (fun _ _ => by simp) s.core f.addr.toNat f.size
  simp only [State.on_core, State.loadReturn_mem hf hd ha hok, Core.sprig_setSprig, Core.setSprig_rest]
  exact ⟨hfar, hrd, htags, hboard, hmem⟩

/-- Where memory is as after a store of bytes, all bytes outside are as before, and those inside as stored. -/
theorem Core.stored_of_mem {c d : Core} {a : Nat} {bs : List Byte} (h : d.mem = (c.setBytes a bs).mem) :
    SameBytesBut c d a bs.length ∧ ∀ k b, bs[k]? = some b → d.byte (a + k) = b := by
  refine ⟨fun b hb => (Core.byte_congr h b).trans (c.setBytes_same_but a bs b hb), fun k b hk => ?_⟩
  have hlt : k < bs.length := (List.getElem?_eq_some_iff.mp hk).1
  rw [Core.byte_congr h, Core.byte_setBytes, if_pos (by omega), Nat.add_sub_cancel_left, List.getD_eq_getElem?_getD, hk]
  rfl

theorem exec_farStoreAccept {f : FarStore} (hf : (s.core.sprig g).farStore = some f) (ha : isMem f.addr.toNat = true)
    (hok : s.core.memAvail f.addr.toNat = .ok) :
    Runs (exec (.farStoreAccept g) s) fun t =>
      (t.core.sprig g).farStore = none ∧ SameBytesBut s.core t.core f.addr.toNat f.data.length
      ∧ ∀ k b, f.data[k]? = some b → t.core.byte (f.addr.toNat + k) = b := by
  have haccept : s.storeAccepted g = s.on ((s.core.writeMem f.addr.toNat f.data false).endFarStore g) := by
    rw [State.storeAccepted, hf]
    dsimp only
    rw [Core.refused_mem ha hok, if_neg Bool.false_ne_true, State.farWrite_mem ha hok]
    rfl
  refine ⟨_, congrArg Host.Outcome.next haccept, ?_⟩
  simp only [State.on_core, Core.endFarStore, Core.modSprig_eq, Core.sprig_setSprig]
  refine ⟨trivial, Core.stored_of_mem ?_⟩
  simp only [Core.setSprig_rest, Core.writeMem_mem]

end

/-! ### The store buffer's drain (R124, R158) -/

section
variable {c : Core} {g : SprigId}

/-- Bytes stored to a bank have good parity. -/
theorem Core.badParity_bankStore (c : Core) (g : SprigId) (a : Nat) (bs : List Byte) {k : Nat} (hk : k < bs.length) :
    (c.bankStore g a bs).badParity (localsBase g + a + k) = false := by
  have hfold (n : Nat) (d : Core) (hn : k < n) :
      ((List.range n).foldl (fun c k => c.setParity (localsBase g + a + k) false) d).badParity (localsBase g + a + k) = false := by
    induction n with
    | zero => omega
    | succ n ih =>
      rw [List.range_succ, List.foldl_append, List.foldl_cons, List.foldl_nil, Core.badParity, Core.setParity, Tbl.get_set]
      split
      · rfl
      · exact ih (by omega)
  exact hfold _ _ hk

/-- The oldest entry of the buffer, to the sprig's own bank and held by nothing, drains by itself. -/
theorem Core.drain_own {e : SbEntry} {rest : List SbEntry} (hbuf : (c.sprig g).buf = e :: rest) (hlink : e.linked = false)
    (hat : (c.sprig g).atomics = []) (hown : localsBase g ≤ e.addr) :
    c.drain g = (c.bankStore g (e.addr - localsBase g) e.bytes).setSprig g { c.sprig g with buf := rest } := by
  have hbank : isScratchAddr e.addr = false := by
    rw [localsBase] at hown
    exact decide_eq_false (by omega)
  have hx : (c.bankStore g (e.addr - localsBase g) e.bytes).sprig g = c.sprig g :=
    Core.bankStore_keeps (Core.sprig · g) (fun _ _ _ => rfl) (fun _ _ _ => rfl) ..
  have hheld : (c.sprig g).heldByAtomic (bunchOf g) e = false := by rw [Sprig.heldByAtomic, hat, List.any_nil]
  rw [Core.drain, hbuf]
  dsimp only
  rw [hbank, if_neg Bool.false_ne_true, Core.drainNow, hbuf]
  simp only [hlink, Bool.false_eq_true, if_false, Option.toList, List.any_cons, List.any_nil, hheld, Bool.or_self, List.foldl_cons,
    List.foldl_nil, Core.entryGate, hbank, Core.writeEntry, Core.modSprig_eq, hx]

theorem exec_storeBufferDrain {s : State} {e : SbEntry} {rest : List SbEntry} (hbuf : (s.core.sprig g).buf = e :: rest)
    (hlink : e.linked = false) (hat : (s.core.sprig g).atomics = []) (hown : localsBase g ≤ e.addr) :
    Runs (exec (.storeBufferDrain g) s) fun t =>
      (t.core.sprig g).buf = rest ∧ SameBytesBut s.core t.core e.addr e.bytes.length
      ∧ ∀ k b, e.bytes[k]? = some b → t.core.byte (e.addr + k) = b ∧ t.core.badParity (e.addr + k) = false := by
  refine ⟨s.on (s.core.drain g), rfl, ?_⟩
  have hat' : localsBase g + (e.addr - localsBase g) = e.addr := by omega
  have hmem : (s.core.bankStore g (e.addr - localsBase g) e.bytes).mem = (s.core.setBytes e.addr e.bytes).mem := by
    rw [Core.bankStore_mem, hat']
  simp only [State.on_core, Core.drain_own hbuf hlink hat hown, Core.sprig_setSprig]
  obtain ⟨hout, hin⟩ := Core.stored_of_mem (c := s.core) (a := e.addr) (bs := e.bytes)
    (d := (s.core.bankStore g (e.addr - localsBase g) e.bytes).setSprig g { s.core.sprig g with buf := rest }) (by simp only [Core.setSprig_rest, hmem])
  refine ⟨trivial, hout, fun k b hk => ⟨hin k b hk, ?_⟩⟩
  have hgood := s.core.badParity_bankStore g (e.addr - localsBase g) e.bytes (List.getElem?_eq_some_iff.mp hk).1
  rw [hat'] at hgood
  simpa only [Core.badParity, Core.setSprig_rest] using hgood

/-! ### Results for a frame's slots (R70) -/

theorem Core.deliver_slot_mem (fr : BitVec 16) (n : BitVec 2) (v : Word) :
    (c.deliver g (.slot fr n) v false).mem = (c.setBytes (localsBase g + fr.toNat + 8 + 4 * n.toNat) (bytesOf v 4)).mem :=
  foldl_keeps Core.mem _ (fun _ _ => by rfl) _ _

theorem Core.deliver_slot_sprig (fr : BitVec 16) (n : BitVec 2) (v : Word) :
    (c.deliver g (.slot fr n) v false).sprig g = c.sprig g :=
  (foldl_keeps (Core.sprig · g) _ (fun _ _ => by rfl) _ _).trans (Core.setBytes_keeps (Core.sprig · g) (fun _ _ _ => rfl) ..)

/-- A word stored elsewhere leaves a word as it is. -/
theorem Core.word_setBytes_ne (c : Core) {a b : Nat} (v : Word) (h : b + 4 ≤ a ∨ a + 4 ≤ b) :
    (c.setBytes a (bytesOf v 4)).word b = c.word b := by
  refine congrArg wordOf (List.ext_getElem (by simp only [Core.bytes_length]) fun k hk _ => ?_)
  rw [Core.bytes_length] at hk
  rw [Core.bytes_getElem, Core.bytes_getElem, c.setBytes_same_but a (bytesOf v 4) _ (by rw [bytesOf_length]; omega)]

theorem exec_frameSlotReturn_div {s : State} {v : DivOp} {fr : BitVec 16} (hfar : (s.core.sprig g).farLoad = none)
    (hdiv : (s.core.sprig g).div = some v) (hq : v.dq = .slot fr 2) (hr : v.dr = .slot fr 3) :
    Runs (exec (.frameSlotReturn g 2) s) fun t =>
      let a := localsBase g + fr.toNat
      (t.core.sprig g).div = none ∧ t.core.word (a + 16) = v.quo ∧ t.core.word (a + 20) = v.rem ∧ SameBytesBut s.core t.core (a + 16) 8
      ∧ (t.core.sprig g).d = (s.core.sprig g).d := by
  have hrun : exec (.frameSlotReturn g 2) s = .next (s.on (s.core.divReturn g)) := by
    show execFrameSlotReturn g 2 s = _
    simp only [execFrameSlotReturn, hfar, hdiv, hq, Dest.isSlotK, decide_true, Bool.true_or, if_true, Bool.false_eq_true, if_false]
    rfl
  refine ⟨_, hrun, ?_⟩
  have hret : s.core.divReturn g = ((s.core.setSprig g { s.core.sprig g with div := none }).deliver g (.slot fr 2) v.quo false).deliver g
      (.slot fr 3) v.rem false := by
    rw [Core.divReturn, hdiv]
    simp only [hq, hr, Core.modSprig_eq]
  have hmem : (s.core.divReturn g).mem = ((s.core.setBytes (localsBase g + fr.toNat + 16) (bytesOf v.quo 4)).setBytes
      (localsBase g + fr.toNat + 20) (bytesOf v.rem 4)).mem := by
    rw [hret, Core.deliver_slot_mem]
    refine Core.setBytes_mem_congr ((Core.deliver_slot_mem ..).trans (Core.setBytes_mem_congr ?_ _ _)) _ _
    simp only [Core.setSprig_rest]
  have hx : (s.core.divReturn g).sprig g = { s.core.sprig g with div := none } := by
    rw [hret, Core.deliver_slot_sprig, Core.deliver_slot_sprig, Core.sprig_setSprig]
  simp only [State.on_core, hx, Core.word_congr hmem, true_and, and_true]
  refine ⟨?_, Core.word_setBytes_self .., fun b hb => ?_⟩
  · rw [Core.word_setBytes_ne _ _ (by omega), Core.word_setBytes_self]
  · rw [Core.byte_congr hmem, Core.setBytes_same_but _ _ _ _ (by rw [bytesOf_length]; omega),
      Core.setBytes_same_but _ _ _ _ (by rw [bytesOf_length]; omega)]

end

end Sys2Proof.Machine

open Sys2Proof Sys2Proof.Machine

/-- Settles O19: each access comes to its value, its bytes or its slot as the rule of its command says. -/
theorem accessesReturn : Obligations.AccessesReturn := by
  unfold Obligations.AccessesReturn
  intro s g
  exact ⟨fun _ _ => exec_farLoadReturn, fun _ => exec_farStoreAccept, fun _ _ => exec_storeBufferDrain, fun _ _ => exec_frameSlotReturn_div⟩

end

section
/-!
PROOFS. The control page's accesses with an effect: pop ports, claims and completions of the bunch's interrupt controller, event latches, and
the deadline slots.
-/
namespace Sys2Proof.Machine

/-! ### Pop ports (R60, R185, R200) -/

section
variable {s : State} {g : SprigId} {q : BitVec 3}

/-- What port q shows of a delivery f, over the core that the pop left: the port buffer holds f, and its word 0 is the answer. -/
def State.showsPort (s : State) (g : SprigId) (q : BitVec 3) (d : Core) (f : RecvFill) : State :=
  let x := s.core.sprig g
  s.on ((d.setSprig g { x with page := { x.page with ports := Tbl.set x.page.ports q.toNat f ⟨⟨0, 0, 0, 0, 0, 0, 0, 0⟩, 0⟩ } }).answer (.sprig g)
    f.card.w0 (f.poison.getLsbD 0) false)

/-- A pop port shows what the queue delivers. -/
theorem exec_spgQpopRead_pops {f : RecvFill} {d : Core} (hpop : s.core.pop (queueAt g q) = some (f, d)) (hd : d.sprigs = s.core.sprigs) :
    exec (.spgQpopRead g q) s = .next (s.showsPort g q d f) := by
  have hx : d.sprig g = s.core.sprig g := by simp only [Core.sprig, hd]
  show execSpgQpopRead g q s = _
  simp only [execSpgQpopRead, onCore, Core.popPort, hpop, Core.modSprig_eq, hx]
  rfl

/-- At an empty queue the port shows zeros. -/
theorem exec_spgQpopRead_empty (hpop : s.core.pop (queueAt g q) = none) :
    exec (.spgQpopRead g q) s = .next (s.showsPort g q s.core ⟨⟨0, 0, 0, 0, 0, 0, 0, 0⟩, 0⟩) := by
  show execSpgQpopRead g q s = _
  simp only [execSpgQpopRead, onCore, Core.popPort, hpop, Core.modSprig_eq, State.showsPort, BitVec.ofNat_eq_ofNat, BitVec.getLsbD_zero]
  rfl

theorem Core.pop_mark {c : Core} {i : QueueId} (h : (c.queue i).mark = true) :
    c.pop i = some (⟨(c.queue i).marker, 0⟩,
      c.setQueue i { c.queue i with mark := false, first := 0, resets := 0, discarded := 0, cause := 0, at_ := 0 }) := if_pos h

theorem Core.pop_empty {c : Core} {i : QueueId} (hm : (c.queue i).mark = false) (h : (c.queue i).chain = []) : c.pop i = none := by
  simp only [Core.pop, hm, h, Bool.false_eq_true, if_false]

/-- A clean card of one address leaves the queue, and its credit leaves for the channel it came by. -/
theorem Core.pop_card {c : Core} {i : QueueId} {card : Card} {rest : List Card} (hm : (c.queue i).mark = false)
    (h : (c.queue i).chain = card :: rest) (hbad : card.badSide = false) (hp : card.poison.getLsbD 0 = false) (hb : card.bcast = none)
    (hmute : card.mute = false) :
    c.pop i = some (⟨card.w, card.poison⟩, (c.setQueue i { c.queue i with chain := rest }).launch (queuePlace i)
      (.credit card.route card.serial false)) := by
  simp only [Core.pop, hm, h, delivered, Core.returnCredit, hbad, hp, hb, hmute, Bool.false_eq_true, if_false]

end

/-! ### Claims (R288, R290) -/

section
variable {c : Core} {b : BunchId} {s : BitVec 5}

/-- The arbiter's choice among the sources below n. -/
def Core.selectBelow (c : Core) (b : BunchId) (s : BitVec 5) (n : Nat) : Option (Byte × BitVec 4) :=
  (List.range n).foldl (fun best n =>
    let i := BitVec.ofNat 8 n
    if c.bicEligible b s i then betterSource best i (bicPri (c.bicSrc b i)) else best) none

theorem Core.bicSelect_eq (c : Core) (b : BunchId) (s : BitVec 5) : c.bicSelect b s = c.selectBelow b s 256 := rfl

theorem Core.selectBelow_succ (c : Core) (b : BunchId) (s : BitVec 5) (n : Nat) :
    c.selectBelow b s (n + 1) = if c.bicEligible b s (BitVec.ofNat 8 n) then
      betterSource (c.selectBelow b s n) (BitVec.ofNat 8 n) (bicPri (c.bicSrc b (BitVec.ofNat 8 n))) else c.selectBelow b s n := by
  rw [Core.selectBelow, List.range_succ, List.foldl_append]
  rfl

theorem Core.bicSelect_none (h : ∀ k, c.bicEligible b s k = false) : c.bicSelect b s = none := by
  rw [Core.bicSelect_eq]
  generalize 256 = n
  induction n with
  | zero => rfl
  | succ n ih => rw [Core.selectBelow_succ, h, if_neg Bool.false_ne_true, ih]

/-- A candidate of a lower priority gives way. -/
theorem betterSource_lower {best : Option (Byte × BitVec 4)} {i : Byte} {p : BitVec 4} (h : ∀ e, best = some e → e.2 < p) :
    betterSource best i p = some (i, p) := by
  cases best with
  | none => rfl
  | some e => exact if_pos (h e rfl)

/-- The arbiter selects the eligible source of highest priority and, among those, lowest number. -/
theorem Core.bicSelect_best {k : Byte} (hk : c.bicEligible b s k = true)
    (hbest : ∀ j, j ≠ k → c.bicEligible b s j = true →
      bicPri (c.bicSrc b j) < bicPri (c.bicSrc b k) ∨ (bicPri (c.bicSrc b j) = bicPri (c.bicSrc b k) ∧ k < j)) :
    c.bicSelect b s = some (k, bicPri (c.bicSrc b k)) := by
  have hbelow (n : Nat) (hn : n ≤ k.toNat) : ∀ e, c.selectBelow b s n = some e → e.2 < bicPri (c.bicSrc b k) := by
    induction n with
    | zero => intro e he; cases he
    | succ n ih =>
      intro e he
      have hi : (BitVec.ofNat 8 n).toNat = n := Nat.mod_eq_of_lt (by omega)
      rw [Core.selectBelow_succ] at he
      split at he
      · next hel =>
        have hlt : bicPri (c.bicSrc b (BitVec.ofNat 8 n)) < bicPri (c.bicSrc b k) := by
          rcases hbest _ (fun h => by rw [h] at hi; omega) hel with h | ⟨-, h⟩
          · exact h
          · rw [BitVec.lt_def] at h
            omega
        unfold betterSource at he
        split at he
        · cases he
          exact hlt
        · next hprev =>
          split at he
          · cases he
            exact hlt
          · cases he
            exact ih (by omega) _ hprev
      · exact ih (by omega) _ he
  have habove (m : Nat) (hm : k.toNat + 1 + m ≤ 256) : c.selectBelow b s (k.toNat + 1 + m) = some (k, bicPri (c.bicSrc b k)) := by
    induction m with
    | zero =>
      rw [Nat.add_zero, Core.selectBelow_succ, BitVec.ofNat_toNat, BitVec.setWidth_eq, if_pos hk]
      exact betterSource_lower (hbelow _ (Nat.le_refl _))
    | succ m ih =>
      have hi : (BitVec.ofNat 8 (k.toNat + 1 + m)).toNat = k.toNat + 1 + m := Nat.mod_eq_of_lt (by omega)
      rw [← Nat.add_assoc, Core.selectBelow_succ, ih (by omega)]
      split
      · next hel =>
        refine if_neg ?_
        rcases hbest _ (fun h => by rw [h] at hi; omega) hel with h | ⟨h, -⟩
        · rw [BitVec.lt_def] at h ⊢
          omega
        · rw [h, BitVec.lt_def]
          omega
      · rfl
  have := habove (256 - (k.toNat + 1)) (by omega)
  rwa [show k.toNat + 1 + (256 - (k.toNat + 1)) = 256 by omega] at this

/-- A controller whose target t took source k. -/
def Bic.taken (x : Bic) (t : BitVec 5) (k : Byte) : Bic :=
  { x with
    active := putBit x.active k.toNat true, owner := Tbl.set x.owner k.toNat t 0
    latch := Tbl.set x.latch t.toNat none none, latchSrc := Tbl.set x.latchSrc t.toNat 0 0 }

/-- No latched source of the target is pending. -/
def Core.claimFree (c : Core) (b : BunchId) (s : BitVec 5) : Prop :=
  ∀ k p, Tbl.get (c.bic b).latch s.toNat none = some (k, p) → c.latchPending b s k = false

theorem Core.claim_latched {k : Byte} {p : BitVec 4} (hl : Tbl.get (c.bic b).latch s.toNat none = some (k, p))
    (hp : c.latchPending b s k = true) : c.claim b s = (claimWord k p, c.setBic b ((c.bic b).taken s k)) := by
  simp only [Core.claim, hl, hp, if_true]
  rfl

/-- Without a pending latched source, a claim takes what the arbiter selects, or counts as spurious. -/
theorem Core.claim_free (hfree : c.claimFree b s) :
    c.claim b s = match c.bicSelect b s with
      | some (k, p) => (claimWord k p, c.setBic b ((c.bic b).taken s k))
      | none => (0, c.setBic b { c.bic b with
          spurious := satInc16 (c.bic b).spurious
          latch := Tbl.set (c.bic b).latch s.toNat none none, latchSrc := Tbl.set (c.bic b).latchSrc s.toNat 0 0 }) := by
  cases hl : Tbl.get (c.bic b).latch s.toNat none with
  | none =>
    simp only [Core.claim, hl]
    rfl
  | some e =>
    simp only [Core.claim, hl, hfree e.1 e.2 hl, Bool.false_eq_true, if_false]
    rfl

theorem exec_spgClaimRead {s : State} {g : SprigId} {v : Word} {d : Core} (h : s.core.claim (bunchOf g) (inBunch g) = (v, d)) :
    exec (.spgClaimRead g) s = .next (s.on (d.answer (.sprig g) v false false)) := by
  show execSpgClaimRead g s = _
  simp only [execSpgClaimRead, onCore, h]
  rfl

/-! ### Completions (R291) -/

theorem exec_bicComplete {s : State} {m : Master} (ht : s.core.takes m true = true) (b : BunchId) (v : Word) :
    exec (.bicComplete m b v) s = .next (s.on (s.core.complete m b v)) :=
  congrArg (fun c => Host.Outcome.next (s.on c)) (Core.writeBy_takes _ ht)

/-- A controller whose spurious count is as a completion with value v leaves it. -/
def Bic.late (x : Bic) (v : Word) : Bic :=
  { x with spurious := if v.getLsbD 31 then satInc16 x.spurious else x.spurious }

theorem Core.complete_eq (c : Core) (m : Master) (b : BunchId) (v : Word) :
    c.complete m b v = if (c.bic b).active.getLsbD (v.setWidth 8 : Byte).toNat then
        c.setBic b { (c.bic b).late v with
          active := putBit (c.bic b).active (v.setWidth 8 : Byte).toNat false
          owner := Tbl.set (c.bic b).owner (v.setWidth 8 : Byte).toNat 0 0 }
      else (c.setBic b ((c.bic b).late v)).ignored m 291 0 := by
  have hlate : (if v.getLsbD 31 then { c.bic b with spurious := satInc16 (c.bic b).spurious } else c.bic b) = (c.bic b).late v := by
    unfold Bic.late
    split
    · rfl
    · rfl
  rw [Core.complete, hlate]

end

/-! ### The deadline slots (R235, R236) -/

section
variable {c : Core} {k : BitVec 12}

/-- An edge on the line that monitor k watches, seen by instant t. -/
def watchedBy (k : BitVec 12) (t : DWord) (e : Sink × DWord) : Bool := decide (e.1 = Sink.watch k) && decide (e.2 >>> 3 ≤ t >>> 3)

theorem Core.settleDm_unwatched {t : DWord} (h : ∀ e, e ∈ c.fabric.edges → e.1 ≠ Sink.watch k) :
    c.settleDm k t = if (c.dm k).armed && c.time.running && !inTime t (c.dm k).dl then c.expire k else c := by
  have hfirst : ∀ e ∈ c.fabric.edges, watchedBy k t e = false := fun e he => by rw [watchedBy, decide_eq_false (h e he), Bool.false_and]
  have hkeep : c.fabric.edges.filter (fun e => !watchedBy k t e) = c.fabric.edges :=
    List.filter_eq_self.mpr fun e he => by rw [hfirst e he, Bool.not_false]
  have hnone : c.fabric.edges.filter (watchedBy k t) = [] :=
    List.filter_eq_nil_iff.mpr fun e he => by rw [hfirst e he]; exact Bool.false_ne_true
  have hsettle : c.settleDm k t =
      (let d := (c.fabric.edges.filter (watchedBy k t)).foldl (fun c e => if inTime e.2 (c.dm k).dl then c.satisfy k e.2 else c)
        { c with fabric := { c.fabric with edges := c.fabric.edges.filter fun e => !watchedBy k t e } }
      if (d.dm k).armed && d.time.running && !inTime t (d.dm k).dl then d.expire k else d) := rfl
  rw [hsettle, hkeep, hnone]
  rfl

/-- A monitor that no edge in the fabric watches, and that is not due, stays as it is while its slot is written. -/
theorem Core.settleDm_idle (hedge : ∀ e, e ∈ c.fabric.edges → e.1 ≠ Sink.watch k)
    (hdue : (c.dm k).armed = false ∨ ¬(c.time.running = true ∧ (c.dm k).dl.toNat + 8 ≤ c.time.dtime.toNat)) :
    c.settleDm k c.time.dtime = c := by
  rw [Core.settleDm_unwatched hedge]
  refine if_neg fun h => ?_
  simp only [inTime, Bool.and_eq_true, Bool.not_eq_true', decide_eq_false_iff_not, Nat.not_lt] at h
  obtain ⟨⟨harmed, hrun⟩, hlate⟩ := h
  rcases hdue with hoff | hnot
  · rw [hoff] at harmed
    cases harmed
  · exact hnot ⟨hrun, hlate⟩

theorem Core.dlarm_idle {g : SprigId} {slot : BitVec 2} (hslot : c.dmOf g slot = some k) (hidle : c.settleDm k c.time.dtime = c) (w : DWord) :
    c.dlarm g slot w = if w = never ∧ (c.dmCtl k >>> 28).setWidth 3 = 0#3 ∧ (c.dm k).armed then c.satisfy k c.time.dtime
      else c.setDm k ((c.dm k).arm w c.time.dtime) := by
  rw [Core.dlarm, hslot]
  dsimp only
  rw [hidle]

/-- An armed monitor without SLACKEN that is satisfied keeps its slack alone (R235). -/
theorem Core.satisfy_armed (harmed : (c.dm k).armed = true) (hslack : (c.dmCtl k).getLsbD 27 = false) (t : DWord) :
    c.satisfy k t = c.setDm k { c.dm k with
      armed := false, dl := never, slack := BitVec.ofInt 32 (clampInt (nsBetween (c.dm k).dl t) (-2147483648) 2147483647) } := by
  simp only [Core.satisfy, harmed, hslack, if_true, Bool.false_eq_true, if_false]

end

end Sys2Proof.Machine

open Sys2Proof Sys2Proof.Machine

/-- Settles O20: pops, claims, completions and deadline slots each by the equation of the operation behind the port. -/
theorem controlPageResults : Obligations.ControlPageResults := by
  unfold Obligations.ControlPageResults
  intro s g q m b v slot w card rest c x i y zero shows z t took free can pri ended n late
  refine ⟨?_, ?_, ?_, ?_, ?_, ?_, ?_, ?_, ?_, ?_, ?_⟩
  · intro hm hc hbad hp hb hmute
    exact exec_spgQpopRead_pops (Core.pop_card hm hc hbad hp hb hmute) rfl
  · intro hm
    exact exec_spgQpopRead_pops (Core.pop_mark hm) rfl
  · intro hm hc
    exact exec_spgQpopRead_empty (Core.pop_empty hm hc)
  · intro k p hl hp
    exact exec_spgClaimRead (Core.claim_latched hl hp)
  · intro k hfree hk hbest
    exact exec_spgClaimRead (by rw [Core.claim_free hfree, Core.bicSelect_best hk hbest]; rfl)
  · intro hfree hnone
    exact exec_spgClaimRead (by rw [Core.claim_free hfree, Core.bicSelect_none hnone])
  · intro ht ha
    rw [exec_bicComplete ht, Core.complete_eq, if_pos ha]
    rfl
  · intro ht ha
    rw [exec_bicComplete ht, Core.complete_eq, if_neg (by rw [ha]; exact Bool.false_ne_true)]
    rfl
  · rfl
  · intro hslot
    show Host.Outcome.next (s.on (s.core.dlarm g slot w)) = _
    rw [Core.dlarm, hslot]
    rfl
  · intro k hslot hedge d now due watch
    have hwrite (hidle : d.armed = false ∨ ¬due) : exec (.spgDlarmWrite g slot w) s = .next (s.on
        (if w = never ∧ watch = 0#3 ∧ d.armed then c.satisfy k now else c.setDm k (d.arm w now))) :=
      congrArg (fun c => Host.Outcome.next (s.on c)) (Core.dlarm_idle hslot (Core.settleDm_idle hedge hidle) w)
    refine ⟨?_, ?_, ?_⟩
    · intro hw hidle
      rw [hwrite hidle, if_neg fun h => hw h.1, Dm.arm, if_neg hw]
    · intro hw hidle
      rw [hwrite (hidle.imp_right And.left), if_neg, Dm.arm, if_pos hw]
      rintro ⟨-, hwatch, harmed⟩
      rcases hidle with hoff | ⟨-, hne⟩
      · rw [hoff] at harmed
        cases harmed
      · exact hne hwatch
    · intro hw harmed hdue hwatch hslack
      rw [hwrite (.inr hdue), if_pos ⟨hw, hwatch, harmed⟩, Core.satisfy_armed harmed hslack]
      rfl

end

section
/-!
PROOFS. Issue and decode entries of a sprig's instructions.
-/
namespace Sys2Proof.Machine

/-- A customer instruction under an opcode that chapter 3 lists is no instruction at all, whatever its sprig does. -/
theorem exec_customerInstruction_listed {opc : Byte} (h : (vendorFmt opc).isNone = false) (g : SprigId) (gd : BitVec 4) (op : BitVec 20)
    (s : State) : exec (.customerInstruction g gd opc op) s = .fault .illFormed :=
  if_neg (by rw [h]; exact Bool.false_ne_true)

/-! ### What holds of the well-formed instructions (R46, R67, R80 to R83, R128, R158) -/

section
variable {i : Instr} {s : State} {g : SprigId} {gd : BitVec 4} {opc : Byte}

/-- A well-formed instruction of a sprig is issued under its guard and opcode, with a body of its own. -/
theorem exec_insn (h : i.sprigOp = some (g, gd, opc)) (hwf : i.wf = true) :
    ∃ body, exec i s = .next (s.on (s.core.insn g gd opc body)) := by
  cases i
  case customerInstruction =>
    cases h
    exact ⟨_, if_pos hwf⟩
  all_goals
    cases h <;> exact ⟨_, rfl⟩

/-- An instruction word spells an instruction with the word's guard and opcode fields. -/
theorem instrOfWord_sprigOp (g : SprigId) (w : Word) :
    (instrOfWord g w).sprigOp = some (g, (w >>> 28).setWidth 4, (w >>> 20).setWidth 8) := by
  unfold instrOfWord
  generalize (w >>> 20).setWidth 8 = opc
  generalize (w >>> 28).setWidth 4 = gd
  dsimp only
  split
  rotate_right
  · rfl
  all_goals
    next hopc => exact congrArg (fun o => some (g, gd, o)) (BitVec.eq_of_toNat_eq hopc.symm)

/-- What issue and the decode entry make of a well-formed instruction; the obligation says the same of ill-formed ones, where it fails. -/
theorem exec_insn_faults {vec : BitVec 6} {d : Word} (h : i.sprigOp = some (g, gd, opc)) (hwf : i.wf = true) :
    let c := s.core
    let x := c.sprig g
    let issues : Prop := x.issues = true ∧ c.quietSprig g = false
    let a := localsBase g + 0x10000 + 4 * x.pc.toNat
    (x.issues = false ∨ c.quietSprig g = true → exec i s = .next s)
    ∧ (issues → c.fetchClean g = true → x.guard gd = false → exec i s = .next (s.put g (x.past 1)))
    ∧ (issues → x.pc.toNat < 0x1000 → (c.firstBad a 4).isSome = true → exec i s = .next (s.on ((c.logParity g a).raise g 3 0x03 none)))
    ∧ (issues → c.fetchClean g = true → x.guard gd = true → c.entryFault g opc = some (vec, d) → exec i s = .next (s.faulted g vec d))
    ∧ (issues → c.fetchClean g = true → x.guard gd = true → c.entryFault g opc = none →
      c.csMark (storeBase g + 0x4000 + 4 * opc.toNat) ≠ .single → c.firstMark g opc = .double → exec i s = .next (s.faulted g 3 0x03)) := by
  obtain ⟨body, hrun⟩ := exec_insn (s := s) h hwf
  intro c x issues a
  have hgo (hi : issues) : (!x.issues || c.quietSprig g) = false := by rw [hi.1, hi.2]; rfl
  refine ⟨fun hoff => ?_, fun hi hf hg => ?_, fun hi hpc hbad => ?_, fun hi hf hg he => ?_, fun hi hf hg he hone hmark => ?_⟩
  · rw [hrun, Core.insn_idle gd opc body hoff]
    rfl
  · rw [hrun, Core.insn_guard opc body hi.1 hi.2 hf hg]
    rfl
  · have hfetch : c.fetchAt g = .bad (c.logParity g a) 0x03 := (if_pos hpc).trans (if_pos hbad)
    rw [hrun, Core.insn, hgo hi, if_neg Bool.false_ne_true, hfetch]
    rfl
  · rw [hrun, Core.insn_entry body hi.1 hi.2 hf hg he]
    rfl
  · have hlog : c.logCs g (storeBase g + 0x4000 + 4 * opc.toNat) (0x8000#16 ||| opc.setWidth 16) = c := if_neg hone
    rw [hrun, Core.insn, hgo hi, if_neg Bool.false_ne_true, Core.fetchAt_clean hf]
    simp only [show (c.sprig g).guard gd = true from hg, he, hlog, hmark, Bool.not_true, Bool.false_eq_true, if_false]
    rfl

end

end Sys2Proof.Machine

open Sys2Proof Sys2Proof.Machine

/-- Refutes O58, by its clause on sprigs that do not issue, which it states for ill-formed instructions too. Opcode 0x20 is chapter 3's ADD,
so a customer instruction that names it spells no word and is refused as ill-formed, even for sprig 0 of the reset state, which is DISABLED and
issues nothing. Of the instructions that words spell, and of all well-formed ones, its clauses hold: `instrOfWord_sprigOp`, `exec_insn_faults`. -/
theorem not_guardsAndDecodeEntries : ¬ Obligations.GuardsAndDecodeEntries := by
  unfold Obligations.GuardsAndDecodeEntries
  intro h
  obtain ⟨-, hinsn⟩ := h (.customerInstruction 0 0 0x20 0) State.reset 0 0 0x20 0 0
  obtain ⟨hidle, -⟩ := hinsn rfl
  have hnext := hidle (.inl (by decide))
  rw [exec_customerInstruction_listed (by decide)] at hnext
  cases hnext

end

section
/-!
PROOFS. Integer instructions of a sprig: what the shared forms come to, and the results of R94 to R96 in exact arithmetic.
-/
namespace Sys2Proof.Machine

/-! ### The shared forms (R84, R94) -/

section
variable {s : State} {g : SprigId} {gd : BitVec 4} {opc : Byte} {op : BitVec 20} {body : Core → Res}

/-- An integer result is written with its flags. -/
theorem insn_result {o : AluOut} {d : BitVec 4} (h : s.ready g gd opc = true) (hb : body s.core = s.core.putInt g (s.core.sprig g) d o) :
    insn g gd opc body s = .next (s.put g (((s.core.sprig g).result d o).past 1)) := by
  rw [insn_ready body h, hb, Core.finish_putInt]
  rfl

theorem bodyRR_open {c : Core} {use : Byte} (f : Sprig → Word → Word → AluOut) (haux : fAux op &&& ~~~use = 0)
    (ho : (c.sprig g).open_ [fSrcA op, fSrcB op] [fDst op] = true) :
    bodyRR g op use f c = c.putInt g (c.sprig g) (fDst op) (f (c.sprig g) ((c.sprig g).rd (fSrcA op)) ((c.sprig g).rd (fSrcB op))) := by
  rw [bodyRR, if_neg (not_not.mpr haux), Core.useD_open _ ho]

theorem bodyR1_open {c : Core} {use : Byte} (f : Word → AluOut) (haux : fAux op &&& ~~~use = 0) (hb : fSrcB op = 0)
    (ho : (c.sprig g).open_ [fSrcA op] [fDst op] = true) :
    bodyR1 g op use f c = c.putInt g (c.sprig g) (fDst op) (f ((c.sprig g).rd (fSrcA op))) := by
  rw [bodyR1, if_neg (not_or.mpr ⟨not_not.mpr haux, not_not.mpr hb⟩), Core.useD_open _ ho]

theorem bodyRI_open {c : Core} (f : Sprig → Word → BitVec 16 → AluOut) (ho : (c.sprig g).open_ [fDst op] [fDst op] = true) :
    bodyRI g op f c = c.putInt g (c.sprig g) (fDst op) (f (c.sprig g) ((c.sprig g).rd (fDst op)) (fImm op)) := by
  rw [bodyRI, Core.useD_open _ ho]

/-- The fields of AUX in a shift by a register's count, and in one by a count of its own (R94). -/
theorem shiftAux_register : ∀ aux : Byte, aux &&& 0xE0 = 0 → aux &&& 0x60 = 0 ∧ aux.getLsbD 7 = false := by decide

theorem shiftAux_immediate : ∀ aux : Byte, 0x80 ≤ aux.toNat → aux.toNat < 0xA0 →
    aux &&& 0x60 = 0 ∧ aux.getLsbD 7 = true ∧ ((aux.setWidth 5).setWidth 6 : BitVec 6).toNat = aux.toNat - 0x80 := by decide

/-- Either way a shift is one by k, which six bits hold. -/
theorem bodyShift_counted {c : Core} {k : Nat}
    (hk : (fAux op &&& 0xE0 = 0 ∧ (c.sprig g).open_ [fSrcA op, fSrcB op] [fDst op] = true ∧ k = ((c.sprig g).rd (fSrcB op)).toNat % 64)
      ∨ (fSrcB op = 0 ∧ (c.sprig g).open_ [fSrcA op] [fDst op] = true ∧ (fAux op).toNat = 0x80 + k ∧ k < 32)) :
    ∃ n : BitVec 6, n.toNat = k ∧ ∀ f, bodyShift g op f c = c.putInt g (c.sprig g) (fDst op) (f ((c.sprig g).rd (fSrcA op)) n) := by
  rcases hk with ⟨haux, ho, rfl⟩ | ⟨hb, ho, haux, hk⟩
  · obtain ⟨h60, h7⟩ := shiftAux_register _ haux
    refine ⟨((c.sprig g).rd (fSrcB op)).setWidth 6, BitVec.toNat_setWidth _ _, fun f => ?_⟩
    rw [bodyShift, if_neg (not_not.mpr h60), h7, if_neg Bool.false_ne_true, Core.useD_open _ ho]
  · obtain ⟨h60, h7, hn⟩ := shiftAux_immediate (fAux op) (by omega) (by omega)
    refine ⟨((fAux op).setWidth 5).setWidth 6, by omega, fun f => ?_⟩
    rw [bodyShift, if_neg (not_not.mpr h60), h7, if_pos rfl, if_neg (not_not.mpr hb), Core.useD_open _ ho]

end

/-! ### Sums (R95, R96) -/

/-- The true sum lies outside the signed words. -/
def overflows (t : Int) : Bool := decide (t < -2147483648) || decide (2147483647 < t)

/-- A sum under MODE.SAT is brought to the end of the range that it left. -/
theorem satWord_eq (sat : Bool) (w : Word) (t : Int) :
    satWord sat w t = (if sat && overflows t then (if t < 0 then 0x80000000#32 else 0x7FFFFFFF#32) else w, overflows t) := by
  unfold satWord overflows
  by_cases hhi : 2147483647 < t
  · rw [if_pos hhi, if_neg (show ¬t < 0 by omega), decide_eq_true hhi, Bool.or_true, Bool.and_true]
    rfl
  · rw [if_neg hhi, decide_eq_false hhi, Bool.or_false]
    by_cases hlo : t < -2147483648
    · rw [if_pos hlo, if_pos (show t < 0 by omega), decide_eq_true hlo, Bool.and_true]
      rfl
    · rw [if_neg hlo, decide_eq_false hlo, Bool.and_false]
      rfl

theorem aluAdd_eq (a b : Word) (sat : Bool) : let t := a.toInt + b.toInt
    aluAdd a b false sat = { r := if sat && overflows t then (if t < 0 then 0x80000000#32 else 0x7FFFFFFF#32) else a + b
                             c := some (decide (2 ^ 32 ≤ a.toNat + b.toNat)), v := some (overflows t), clip := sat && overflows t } := by
  intro t
  simp only [aluAdd, Bool.false_eq_true, if_false, Nat.cast_zero, BitVec.add_zero, add_zero, satWord_eq]
  rfl

theorem aluSub_eq (a b : Word) (sat : Bool) : let t := a.toInt - b.toInt
    aluSub a b sat = { r := if sat && overflows t then (if t < 0 then 0x80000000#32 else 0x7FFFFFFF#32) else a - b
                       c := some (decide (b.toNat ≤ a.toNat)), v := some (overflows t), clip := sat && overflows t } := by
  intro t
  simp only [aluSub, satWord_eq]
  rfl

/-- A sum of words is the sum of their values, wrapped. -/
theorem add_eq_ofInt (a b : Word) : a + b = BitVec.ofInt 32 (a.toInt + b.toInt) := by
  rw [BitVec.ofInt_add, BitVec.ofInt_toInt, BitVec.ofInt_toInt]

/-! ### The smaller and the larger operand (R94) -/

theorem aluMin_signed (a b : Word) : aluMin false a b = { r := BitVec.ofInt 32 (min a.toInt b.toInt) } := by
  by_cases h : a.toInt < b.toInt
  · simp [aluMin, BitVec.slt, h, min_eq_left_of_lt h]
  · simp [aluMin, BitVec.slt, h, min_eq_right (not_lt.mp h)]

theorem aluMin_unsigned (a b : Word) : aluMin true a b = { r := BitVec.ofNat 32 (min a.toNat b.toNat) } := by
  by_cases h : a.toNat < b.toNat
  · simp [aluMin, BitVec.ult, h, min_eq_left_of_lt h]
  · simp [aluMin, BitVec.ult, h, min_eq_right (not_lt.mp h)]

theorem aluMax_signed (a b : Word) : aluMax false a b = { r := BitVec.ofInt 32 (max a.toInt b.toInt) } := by
  by_cases h : b.toInt < a.toInt
  · simp [aluMax, BitVec.slt, h, max_eq_left_of_lt h]
  · simp [aluMax, BitVec.slt, h, max_eq_right (not_lt.mp h)]

theorem aluMax_unsigned (a b : Word) : aluMax true a b = { r := BitVec.ofNat 32 (max a.toNat b.toNat) } := by
  by_cases h : b.toNat < a.toNat
  · simp [aluMax, BitVec.ult, h, max_eq_left_of_lt h]
  · simp [aluMax, BitVec.ult, h, max_eq_right (not_lt.mp h)]

/-! ### Shifts and one-operand results (R94, R95) -/

section
variable (a : Word) {n : BitVec 6} {k : Nat} (hn : n.toNat = k)
include hn

theorem aluShl_eq : aluShl a n = { r := a <<< k, c := if k = 0 then none else some (decide (k ≤ 32) && a.getLsbD (32 - k)) } := by
  subst hn
  by_cases h : n.toNat ≤ 32 <;> simp [aluShl, h]

theorem aluShr_eq : aluShr a n = { r := a >>> k, c := if k = 0 then none else some (decide (k ≤ 32) && a.getLsbD (k - 1)) } := by
  subst hn
  by_cases h : n.toNat ≤ 32 <;> simp [aluShr, h]

/-- An arithmetic shift divides, towards the smaller integer; beyond 32 the sign is shifted out. -/
theorem aluSar_eq : aluSar a n = { r := BitVec.ofInt 32 (a.toInt / 2 ^ k), c := if k = 0 then none else some (a.getLsbD (min (k - 1) 31)) } := by
  subst hn
  have hr : a.sshiftRight n.toNat = BitVec.ofInt 32 (a.toInt / 2 ^ n.toNat) := by
    rw [BitVec.sshiftRight, Int.shiftRight_eq_div_pow]
    rfl
  by_cases h : n.toNat ≤ 32
  · simp [aluSar, h, hr]
  · have hc : min (n.toNat - 1) 31 = 31 := by omega
    simp [aluSar, h, hr, hc, BitVec.msb_eq_getLsbD_last]

theorem aluRot_eq : aluRot a n = { r := (a <<< (k % 32)) ||| (a >>> (32 - k % 32)) } := by
  subst hn
  rw [aluRot, BitVec.rotateLeft_eq_rotateLeftAux_of_lt (Nat.mod_lt _ (by decide))]
  rfl

end

/-- 0 less a word is its negation, wrapped. -/
theorem zero_sub_eq (a : Word) : 0 - a = BitVec.ofInt 32 (-a.toInt) := by
  rw [BitVec.ofNat_eq_ofNat, BitVec.zero_sub, BitVec.ofInt_neg, BitVec.ofInt_toInt]

theorem aluNeg_eq (a : Word) : aluNeg a = { r := BitVec.ofInt 32 (-a.toInt), v := some (decide (a = 0x80000000#32)) } := by
  rw [aluNeg, zero_sub_eq]
  rfl

theorem aluAbs_eq (a : Word) : aluAbs a = { r := BitVec.ofNat 32 a.toInt.natAbs, v := some (decide (a = 0x80000000#32)) } := by
  have hr : (if a.msb then 0 - a else a) = BitVec.ofNat 32 a.toInt.natAbs := by
    rw [← BitVec.ofInt_natCast]
    by_cases h : a.toInt < 0
    · rw [BitVec.msb_eq_toInt, decide_eq_true h, if_pos rfl, zero_sub_eq, Int.ofNat_natAbs_of_nonpos h.le]
    · rw [BitVec.msb_eq_toInt, decide_eq_false h, if_neg Bool.false_ne_true, Int.natAbs_of_nonneg (not_lt.mp h), BitVec.ofInt_toInt]
  rw [aluAbs, hr]
  rfl

/-- k zeros lead a word whose bit below them is set, or there is no bit below them (R94). -/
theorem clz_of_leading {a : Word} {k : Nat} (hk : k ≤ 32) (hz : ∀ i, i < k → a.getLsbD (31 - i) = false) (h1 : k < 32 → a.getLsbD (31 - k) = true) :
    clz a = k := by
  have hlt : a.toNat < 2 ^ (32 - k) := by
    refine Nat.lt_pow_two_of_testBit _ fun i hi => ?_
    by_cases hw : i < 32
    · have hbit := hz (31 - i) (by omega)
      rwa [show 31 - (31 - i) = i by omega] at hbit
    · exact BitVec.getLsbD_of_ge a i (by omega)
  rcases hk.lt_or_eq with hlt32 | rfl
  · have hge : 2 ^ (31 - k) ≤ a.toNat := Nat.ge_two_pow_of_testBit (h1 hlt32)
    have hne : a.toNat ≠ 0 := by have := Nat.two_pow_pos (31 - k); omega
    have hlog : a.toNat.log2 = 31 - k := by
      rw [Nat.log2_eq_iff hne]
      exact ⟨hge, by rwa [show 31 - k + 1 = 32 - k by omega]⟩
    rw [clz, if_neg (fun h => hne (congrArg BitVec.toNat h)), hlog]
    omega
  · have h0 : a = 0 := BitVec.eq_of_toNat_eq (by simpa using hlt)
    rw [clz, if_pos h0]

/-- An integer brought into a range. -/
theorem clampInt_eq {x lo hi : Int} (h : lo ≤ hi) : clampInt x lo hi = max lo (min x hi) := by
  by_cases h1 : x < lo
  · rw [clampInt, if_pos h1]
    omega
  · rw [clampInt, if_neg h1]
    split <;> omega

theorem clampInt_ne (x lo hi : Int) : decide (clampInt x lo hi ≠ x) = (decide (x < lo) || decide (hi < x)) := by
  rw [← Bool.decide_or, decide_eq_decide]
  unfold clampInt
  split
  · omega
  · split <;> omega

theorem aluSatTo_signed (a : Word) {n : BitVec 5} {k : Nat} (hn : n.toNat = k) : aluSatTo a n false
    = { r := BitVec.ofInt 32 (max (-(2 ^ k)) (min a.toInt (2 ^ k - 1))), clip := decide (a.toInt < -(2 ^ k)) || decide (2 ^ k ≤ a.toInt) } := by
  subst hn
  have hpos : (0 : Int) < 2 ^ n.toNat := by positivity
  have hr : (-(2 ^ n.toNat) : Int) ≤ 2 ^ n.toNat - 1 := by omega
  simp only [aluSatTo, Bool.false_eq_true, if_false, Nat.add_sub_cancel]
  rw [clampInt_ne, clampInt_eq hr]
  simp only [Int.sub_one_lt_iff]

theorem aluSatTo_unsigned (a : Word) {n : BitVec 5} {k : Nat} (hn : n.toNat = k) : aluSatTo a n true
    = { r := BitVec.ofInt 32 (max 0 (min a.toInt (2 ^ (k + 1) - 1))), clip := decide (a.toInt < 0) || decide (2 ^ (k + 1) ≤ a.toInt) } := by
  subst hn
  have hpos : (0 : Int) < 2 ^ (n.toNat + 1) := by positivity
  have hr : (0 : Int) ≤ 2 ^ (n.toNat + 1) - 1 := by omega
  simp only [aluSatTo, if_true]
  rw [clampInt_ne, clampInt_eq hr]
  simp only [Int.sub_one_lt_iff]

/-- The fields of AUX in SAT (R94). -/
theorem satAux_signed : ∀ aux : Byte, aux.toNat < 32 →
    aux &&& ~~~0x3F = 0 ∧ aux.getLsbD 5 = false ∧ (aux.setWidth 5 : BitVec 5).toNat = aux.toNat := by decide

theorem satAux_unsigned : ∀ aux : Byte, 0x20 ≤ aux.toNat → aux.toNat < 0x40 →
    aux &&& ~~~0x3F = 0 ∧ aux.getLsbD 5 = true ∧ (aux.setWidth 5 : BitVec 5).toNat = aux.toNat - 0x20 := by decide

end Sys2Proof.Machine

open Sys2Proof Sys2Proof.Machine

/-- Settles O5: `bodyRR_open` for each instruction, with its result in exact arithmetic. -/
theorem arithmeticResults : Obligations.ArithmeticResults := by
  intro s g gd op x a b sum dif out top gives ho
  have run {opc use : Byte} {f : Sprig → Word → Word → AluOut} {o : AluOut} (hf : f x a b = o) (haux : fAux op &&& ~~~use = 0)
      (h : s.ready g gd opc = true) : insn g gd opc (bodyRR g op use f) s = .next (gives o) :=
    insn_result h ((bodyRR_open f haux ho).trans (by rw [hf]))
  have zero {use : Byte} (h0 : fAux op = 0) : fAux op &&& ~~~use = 0 := by rw [h0]; exact BitVec.zero_and
  have one (h1 : fAux op = 1) : fAux op &&& ~~~1 = 0 := by rw [h1]; rfl
  have even (h0 : fAux op = 0) : (fAux op).getLsbD 0 = false := by rw [h0]; rfl
  have odd (h1 : fAux op = 1) : (fAux op).getLsbD 0 = true := by rw [h1]; rfl
  exact ⟨fun h0 => run (aluAdd_eq ..) (zero h0), fun h0 => run (aluSub_eq ..) (zero h0), fun h0 => run rfl (zero h0), fun h0 => run rfl (zero h0),
    fun h0 => run rfl (zero h0), fun h0 => run (by rw [even h0, aluMin_signed]) (zero h0), fun h1 => run (by rw [odd h1, aluMin_unsigned]) (one h1),
    fun h0 => run (by rw [even h0, aluMax_signed]) (zero h0), fun h1 => run (by rw [odd h1, aluMax_unsigned]) (one h1)⟩

/-- Settles O6: `bodyShift_counted` for the shifts and `bodyR1_open` for the others, with each result in exact arithmetic. -/
theorem shiftAndUnaryResults : Obligations.ShiftAndUnaryResults := by
  intro s g gd op k x a gives counts unary
  have haux {u : Byte} (h : fAux op = 0) : fAux op &&& u = 0 := by rw [h]; exact BitVec.zero_and
  have shift {opc : Byte} {f : Word → BitVec 6 → AluOut} {o : AluOut} (hf : ∀ n : BitVec 6, n.toNat = k → f a n = o) (hk : counts)
      (h : s.ready g gd opc = true) : insn g gd opc (bodyShift g op f) s = .next (gives o) := by
    obtain ⟨n, hn, hb⟩ := bodyShift_counted hk
    exact insn_result h ((hb f).trans (by rw [hf n hn]))
  refine ⟨shift fun n hn => aluShl_eq a hn, shift fun n hn => aluShr_eq a hn, shift fun n hn => aluSar_eq a hn,
    shift fun n hn => aluRot_eq a hn, fun hu h0 h => ?_, fun hu h0 h => ?_, fun hu h0 h hk hz h1 => ?_, fun hu hk hx h => ?_,
    fun hu hk hx h => ?_⟩
  all_goals obtain ⟨ho, hb⟩ := hu
  · exact insn_result h ((bodyR1_open _ (haux h0) hb ho).trans (by rw [aluAbs_eq]))
  · exact insn_result h ((bodyR1_open _ (haux h0) hb ho).trans (by rw [aluNeg_eq]))
  · exact insn_result h ((bodyR1_open _ (haux h0) hb ho).trans (by rw [aluClz, clz_of_leading hk hz h1]))
  · obtain ⟨hres, h5, hn⟩ := satAux_signed (fAux op) (by omega)
    exact insn_result h ((bodyR1_open _ hres hb ho).trans (by rw [h5, aluSatTo_signed _ (hn.trans hx)]))
  · obtain ⟨hres, h5, hn⟩ := satAux_unsigned (fAux op) (by omega) (by omega)
    exact insn_result h ((bodyR1_open _ hres hb ho).trans (by rw [h5, aluSatTo_unsigned (k := k) _ (by omega)]))
end

section
/-!
PROOFS. Products and quotients of a sprig, its moves and immediate instructions, and its predicates.
-/
namespace Sys2Proof.Machine

/-! ### Products and quotients (R94, R95, R97) -/

theorem mul64_eq (u : Bool) (a b : Word) :
    mul64 u a b = if u then BitVec.ofNat 64 (a.toNat * b.toNat) else BitVec.ofInt 64 (a.toInt * b.toInt) := by
  cases u
  · rw [mul64, if_neg Bool.false_ne_true, if_neg Bool.false_ne_true, BitVec.ofInt_mul]
    rfl
  · rw [mul64, if_pos rfl, if_pos rfl, BitVec.ofNat_mul, BitVec.ofNat_toNat, BitVec.ofNat_toNat]

/-- The registers of a pair are two. -/
theorem nextReg_ne (d : BitVec 4) : nextReg d ≠ d := by
  revert d
  decide

section
variable {x : Sprig} {i j : BitVec 4} {v : Word}

@[simp] theorem Sprig.rd_setD_self (x : Sprig) (i : BitVec 4) (v : Word) : (x.setD i v).rd i = v := by
  simp [Sprig.setD, Sprig.rd]

theorem Sprig.rd_setD_ne (x : Sprig) (v : Word) (h : j ≠ i) : (x.setD i v).rd j = x.rd j := by
  have hne : i.toNat ≠ j.toNat := fun e => h (BitVec.eq_of_toNat_eq e.symm)
  simp [Sprig.setD, Sprig.rd, Vector.getElem_set_ne _ _ hne]

end

section
variable {s : State} {g : SprigId} {gd : BitVec 4} {op : BitVec 20}

/-- The divider's result for two registers writes both and ends their scoreboard bits; its state needs nothing else (R97). -/
theorem exec_divResult {quo rem : Word} {i j : BitVec 4} (hd : (s.core.sprig g).div = some ⟨quo, rem, .reg i, .reg j⟩) :
    let x := s.core.sprig g
    exec (.divResult g) s = .next (s.put g { (x.setD i quo).setD j rem with
      div := none, board := putBit (putBit x.board i.toNat false) j.toNat false }) := by
  intro x
  have hret : s.core.divReturn g = s.core.setSprig g { (x.setD i quo).setD j rem with
      div := none, board := putBit (putBit x.board i.toNat false) j.toNat false } := by
    rw [Core.divReturn, hd]
    simp only [Core.deliver, Core.modSprig_eq, Core.sprig_setSprig, Core.setSprig_setSprig]
    rfl
  exact congrArg (fun c => Host.Outcome.next (s.on c)) hret

theorem exec_divResult_idle (hd : (s.core.sprig g).div = none) : exec (.divResult g) s = .next s := by
  have hret : s.core.divReturn g = s.core := by rw [Core.divReturn, hd]
  exact congrArg (fun c => Host.Outcome.next (s.on c)) hret

/-- The sprig with a division under way to the pair at d (R97). -/
def Sprig.dividing (x : Sprig) (u : Bool) (a b : Word) (d : BitVec 4) : Sprig :=
  { x with
    div := some ⟨(divide u a b).1, (divide u a b).2, .reg d, .reg (nextReg d)⟩
    board := putBit (putBit x.board d.toNat true) (nextReg d).toNat true }

section
variable (hd : (fDst op).getLsbD 0 = false) (haux : fAux op &&& 0xFE = 0)
  (ho : (s.core.sprig g).open_ [fSrcA op, fSrcB op] [fDst op, nextReg (fDst op)] = true)
include hd haux ho

theorem bodyMul_open : let x := s.core.sprig g
    let p := mul64 ((fAux op).getLsbD 0) (x.rd (fSrcA op)) (x.rd (fSrcB op))
    bodyMul g op s.core = s.core.done g { (x.setD (fDst op) (p.setWidth 32)).setD (nextReg (fDst op)) ((p >>> 32).setWidth 32) with
      sw := putBit (putBit x.sw bitZ (decide (p = 0))) bitN p.msb } 2 := by
  intro x p
  rw [bodyMul]
  dsimp only
  rw [if_neg (by rw [haux, hd]; decide), Core.useD_open _ ho]

theorem bodyDiv_zero (hb : (s.core.sprig g).rd (fSrcB op) = 0) : bodyDiv g op s.core = .fault s.core vecDiv0 0x04 none := by
  rw [bodyDiv]
  dsimp only
  rw [if_neg (by rw [haux, hd]; decide), Core.useD_open _ ho, if_pos hb]

theorem bodyDiv_issues (hb : (s.core.sprig g).rd (fSrcB op) ≠ 0) (hidle : (s.core.sprig g).div = none) : let x := s.core.sprig g
    bodyDiv g op s.core
      = s.core.done g (x.dividing ((fAux op).getLsbD 0) (x.rd (fSrcA op)) (x.rd (fSrcB op)) (fDst op)) 2 := by
  intro x
  rw [bodyDiv]
  dsimp only
  rw [if_neg (by rw [haux, hd]; decide), Core.useD_open _ ho, if_neg hb, hidle]
  rfl

end

theorem exec_div_zero (hd : (fDst op).getLsbD 0 = false) (haux : fAux op &&& 0xFE = 0)
    (ho : (s.core.sprig g).open_ [fSrcA op, fSrcB op] [fDst op, nextReg (fDst op)] = true) (hb : (s.core.sprig g).rd (fSrcB op) = 0)
    (h : s.ready g gd 0x30 = true) : exec (.div g gd op) s = .next (s.faulted g 4 0x04) := by
  show insn g gd 0x30 (bodyDiv g op) s = _
  rw [insn_ready _ h, bodyDiv_zero hd haux ho hb]
  rfl

/-- A division's result: quotient and remainder in the pair, and its scoreboard bits ended. -/
theorem exec_divResult_pair {t : State} {x : Sprig} {u : Bool} {a b : Word} {d : BitVec 4}
    (ht : t.core.sprig g = (x.dividing u a b d).past 2) : Runs (exec (.divResult g) t) fun t' =>
      let y := t'.core.sprig g
      y.rd d = (divide u a b).1 ∧ y.rd (nextReg d) = (divide u a b).2 ∧ y.div = none ∧ y.board.getLsbD d.toNat = false
      ∧ y.board.getLsbD (nextReg d).toNat = false := by
  have hdiv : (t.core.sprig g).div = some ⟨(divide u a b).1, (divide u a b).2, .reg d, .reg (nextReg d)⟩ := by rw [ht]; rfl
  have hne : d ≠ nextReg d := (nextReg_ne d).symm
  have hnat : d.toNat ≠ (nextReg d).toNat := fun e => hne (BitVec.eq_of_toNat_eq e)
  refine ⟨_, exec_divResult hdiv, ?_⟩
  simp only [State.put_core, Core.sprig_setSprig]
  refine ⟨?_, Sprig.rd_setD_self .., trivial, ?_, getLsbD_putBit_self _ _ (nextReg d).isLt⟩
  · exact (Sprig.rd_setD_ne _ _ hne).trans (Sprig.rd_setD_self ..)
  · rw [getLsbD_putBit _ _ _ _ hnat, getLsbD_putBit_self _ _ d.isLt]

end

/-- The divider's two values (R97). -/
theorem divide_unsigned (a b : Word) :
    divide true a b = (BitVec.ofNat 32 (a.toNat / b.toNat), BitVec.ofNat 32 (a.toNat % b.toNat)) := by
  rw [divide, if_pos rfl, ← BitVec.toNat_udiv, ← BitVec.toNat_umod, BitVec.ofNat_toNat, BitVec.ofNat_toNat, BitVec.setWidth_eq, BitVec.setWidth_eq]

/-! ### Moves and immediates (R92, R93) -/

section
variable {s : State} {g : SprigId} {gd : BitVec 4} {op : BitVec 20}

/-- Whether MOV may write a destination does not depend on the value. -/
theorem Sprig.movDst_isNone (x : Sprig) (cls : BitVec 3) (i : BitVec 4) (v w : Word) : (x.movDst cls i v).isNone = (x.movDst cls i w).isNone := by
  unfold Sprig.movDst
  split
  case h_1 => rfl
  case h_6 => rfl
  all_goals split <;> rfl

theorem exec_mov {v : Word} {y : Sprig} (hb : fSrcB op = 0) (h2 : (fAux op).setWidth 2 = 0#2) :
    let x := s.core.sprig g
    let dc : BitVec 3 := (fAux op >>> 5).setWidth 3
    let sc : BitVec 3 := (fAux op >>> 2).setWidth 3
    x.movSrc sc (fSrcA op) = some v → x.movDst dc (fDst op) v = some y → x.open_ (movRegs sc (fSrcA op)) (movRegs dc (fDst op)) = true →
    s.ready g gd 0x01 = true → exec (.mov g gd op) s = .next (s.put g (y.past 1)) := by
  intro x dc sc hsrc hdst ho h
  have hnone : ¬((x.movSrc sc (fSrcA op)).isNone = true ∨ (x.movDst dc (fDst op) 0).isNone = true) := by
    rw [x.movDst_isNone dc (fDst op) 0 v, hsrc, hdst]
    exact not_or.mpr ⟨Bool.false_ne_true, Bool.false_ne_true⟩
  refine insn_done (body := bodyMov g op) h ?_
  rw [bodyMov, if_neg (not_or.mpr ⟨not_not.mpr hb, not_not.mpr h2⟩), if_neg hnone, Core.useD_open _ ho, hsrc]
  dsimp only
  rw [hdst]

theorem exec_lea {e : Ea} (h19 : op.getLsbD 19 = false) (hm : (fAmode op).toNat = 0 ∨ (fAmode op).toNat = 3 ∨ (fAmode op).toNat = 4)
    (he : (s.core.sprig g).ea op 4 false = some e) (ho : (s.core.sprig g).open_ e.idx [] = true) (h : s.ready g gd 0x05 = true) :
    exec (.lea g gd op) s = .next (s.put g (((s.core.sprig g).setA ((fDst op).setWidth 3) e.addr).past 1)) := by
  refine insn_done (body := bodyLea g op) h ?_
  rw [bodyLea, if_neg (by rw [h19]; exact not_or.mpr ⟨Bool.false_ne_true, not_not.mpr hm⟩), he]
  exact Core.useD_open _ ho

theorem exec_ldi (ho : (s.core.sprig g).open_ [] [fDst op] = true) (h : s.ready g gd 0x02 = true) :
    exec (.ldi g gd op) s = .next (s.put g (((s.core.sprig g).setD (fDst op) ((fImm op).signExtend 32)).past 1)) :=
  insn_done (body := bodyLdi g op) h (Core.useD_open _ ho)

theorem exec_ldih (ho : (s.core.sprig g).open_ [fDst op] [fDst op] = true) (h : s.ready g gd 0x03 = true) :
    exec (.ldih g gd op) s = .next (s.put g
      (((s.core.sprig g).setD (fDst op) (fImm op ++ (((s.core.sprig g).rd (fDst op)).setWidth 16 : BitVec 16))).past 1)) :=
  insn_done (body := bodyLdih g op) h (Core.useD_open _ ho)

theorem exec_ldiA (h19 : op.getLsbD 19 = false) (h : s.ready g gd 0x04 = true) :
    exec (.ldiA g gd op) s = .next (s.put g (((s.core.sprig g).setA ((fDst op).setWidth 3) (fImm op)).past 1)) :=
  insn_done (body := bodyLdiA g op) h (if_neg (by rw [h19]; exact Bool.false_ne_true))

/-- ADD.I adds its immediate's signed value. -/
theorem aluAdd_immediate (a : Word) (i : BitVec 16) (sat : Bool) : let t := a.toInt + i.toInt
    aluAdd a (i.signExtend 32) false sat
      = { r := if sat && overflows t then (if t < 0 then 0x80000000#32 else 0x7FFFFFFF#32) else BitVec.ofInt 32 t
          c := some (decide (2 ^ 32 ≤ a.toNat + (i.signExtend 32 : Word).toNat)), v := some (overflows t), clip := sat && overflows t } := by
  intro t
  rw [aluAdd_eq, add_eq_ofInt, BitVec.toInt_signExtend_of_le (by decide)]

/-! ### Predicates (R48, R101) -/

theorem bne_eq_decide_ne (v w : Word) : (v != w) = decide (v ≠ w) := by
  by_cases h : v = w <;> simp [h]

section
variable (hd : fDst op = 0)
include hd

theorem exec_cmp_register {r : Bool} (h3 : (fAux op).getLsbD 3 = false) (hcc : ((fAux op >>> 4).setWidth 4 : BitVec 4).toNat < 14) :
    let x := s.core.sprig g
    let a := x.rd (fSrcA op)
    let b := x.rd (fSrcB op)
    let cc : BitVec 4 := (fAux op >>> 4).setWidth 4
    cond cc a b = some r → x.open_ [fSrcA op, fSrcB op] [] = true → s.ready g gd 0x50 = true →
    exec (.cmp g gd op) s = .next (s.put g
      (({ x.setP (fPd op) r with sw := if condInv cc a b then putBit x.sw bitFinv true else x.sw } : Sprig).past 1)) := by
  intro x a b cc hr ho h
  refine insn_done (body := bodyCmp g op) h ?_
  rw [bodyCmp]
  dsimp only
  rw [if_neg (by rw [hd, h3]; simpa using hcc), h3, if_neg Bool.false_ne_true, Core.useD_open _ ho]
  simp only [Bool.false_eq_true, if_false]
  rw [hr]

theorem exec_cmp_zero {r : Bool} (h3 : (fAux op).getLsbD 3 = true) (hb : fSrcB op = 0) (hcc : ((fAux op >>> 4).setWidth 4 : BitVec 4).toNat < 14) :
    let x := s.core.sprig g
    let a := x.rd (fSrcA op)
    let cc : BitVec 4 := (fAux op >>> 4).setWidth 4
    cond cc a 0 = some r → x.open_ [fSrcA op] [] = true → s.ready g gd 0x50 = true →
    exec (.cmp g gd op) s = .next (s.put g
      (({ x.setP (fPd op) r with sw := if condInv cc a 0 then putBit x.sw bitFinv true else x.sw } : Sprig).past 1)) := by
  intro x a cc hr ho h
  refine insn_done (body := bodyCmp g op) h ?_
  rw [bodyCmp]
  dsimp only
  rw [if_neg (by rw [hd, h3, hb]; simpa using hcc), h3, if_pos rfl, Core.useD_open _ ho]
  simp only [if_true]
  rw [hr]

theorem exec_tst (haux : fAux op &&& 0xF0 = 0) (ho : (s.core.sprig g).open_ [fSrcA op, fSrcB op] [] = true) (h : s.ready g gd 0x51 = true) :
    let x := s.core.sprig g
    exec (.tst g gd op) s = .next (s.put g
      ((x.setP (fPd op) ((x.rd (fSrcA op) &&& x.rd (fSrcB op) != 0) != (fAux op).getLsbD 3)).past 1)) := by
  refine insn_done (body := bodyTst g op) h ?_
  rw [bodyTst, if_neg (by rw [hd, haux]; decide), Core.useD_open _ ho, bne_eq_decide_ne]

/-- PAND and POR. -/
theorem bodyPP_open {f : Bool → Bool → Bool} {c : Core} (haux : fAux op &&& 0xE8 = 0) (ha : (fSrcA op).getLsbD 3 = false)
    (hb : (fSrcB op).getLsbD 3 = false) : let x := c.sprig g
    bodyPP g op f c = c.done g (x.setP (fPd op)
      (f (x.rp ((fSrcA op).setWidth 3)) (x.rp ((fSrcB op).setWidth 3) != (fAux op).getLsbD 4))) 1 := by
  rw [bodyPP]
  exact if_neg (by rw [hd, haux, ha, hb]; decide)

theorem exec_pnot (haux : fAux op &&& 0xF8 = 0) (ha : (fSrcA op).getLsbD 3 = false) (hb : fSrcB op = 0) (h : s.ready g gd 0x54 = true) :
    let x := s.core.sprig g
    exec (.pnot g gd op) s = .next (s.put g ((x.setP (fPd op) (!x.rp ((fSrcA op).setWidth 3))).past 1)) :=
  insn_done (body := bodyPnot g op) h (if_neg (by rw [hd, haux, ha, hb]; decide))

end

/-- What a predicate reads after a write: P0 always 1, another what was written, the rest as before (R48). -/
theorem Sprig.rp_setP (y : Sprig) (i : BitVec 3) (v : Bool) : (y.setP i v).rp 0 = true ∧ (i ≠ 0 → (y.setP i v).rp i = v)
    ∧ ∀ j, j ≠ i → (y.setP i v).rp j = y.rp j := by
  refine ⟨rfl, fun hi => ?_, fun j hj => ?_⟩
  · have hlt : i.toNat < 8 := i.isLt
    rw [Sprig.setP, if_neg hi, Sprig.rp, beq_false_of_ne hi, Bool.false_or]
    exact getLsbD_putBit_self _ _ hlt
  · rw [Sprig.setP]
    split
    · rfl
    · exact congrArg (j == 0 || ·) (getLsbD_putBit _ _ _ _ fun e => hj (BitVec.eq_of_toNat_eq e))

end

end Sys2Proof.Machine

open Sys2Proof Sys2Proof.Machine

/-- Settles O7: `bodyMul_open`, `bodyDiv_issues` and `exec_divResult_pair`. -/
theorem multiplyAndDivide : Obligations.MultiplyAndDivide := by
  intro s g gd op u x d a b sw
  refine ⟨fun _ _ _ _ => exec_divResult, exec_divResult_idle, fun hd haux ho => ⟨?_, ?_, ?_⟩⟩
  all_goals
    have hres : fAux op &&& 0xFE = 0 := by cases u <;> rw [haux] <;> rfl
    have hu : (fAux op).getLsbD 0 = u := by cases u <;> rw [haux] <;> rfl
  · rintro p rfl h
    refine insn_done (body := bodyMul g op) h ((bodyMul_open hd hres ho).trans ?_)
    rw [hu, mul64_eq]
    rfl
  · intro hb hidle h
    have hrun := insn_done (body := bodyDiv g op) h (bodyDiv_issues hd hres ho hb hidle)
    rw [hu] at hrun
    refine ⟨_, hrun, ?_⟩
    simp only [State.put_core, Core.sprig_setSprig]
    refine ⟨rfl, rfl, rfl, ?_⟩
    obtain ⟨t, ht, hquo, hrem, hrest⟩ := exec_divResult_pair (g := g) (t := s.put g ((x.dividing u a b d).past 2)) (Core.sprig_setSprig ..)
    refine ⟨t, ht, fun h1 => ?_, fun h0 => ?_, hrest⟩
    · subst h1
      rw [divide_unsigned] at hquo hrem
      exact ⟨hquo, hrem⟩
    · subst h0
      exact ⟨hquo, hrem⟩
  · exact fun hb h => exec_div_zero hd hres ho hb h

/-- Settles O1, instruction by instruction; `bodyRI_open` for the immediate forms of the integer instructions. -/
theorem moveAndImmediateResults : Obligations.MoveAndImmediateResults := by
  intro s g gd op x dc sc
  refine ⟨fun _ _ hb h2 => exec_mov hb h2, fun _ h19 hm he ho h => exec_lea h19 hm he ho h, exec_ldi, exec_ldih, exec_ldiA, ?_⟩
  intro ho a i z sum out gives
  have run {opc : Byte} {f : Sprig → Word → BitVec 16 → AluOut} {o : AluOut} (hf : f x a i = o) (h : s.ready g gd opc = true) :
      insn g gd opc (bodyRI g op f) s = .next (gives o) := insn_result h ((bodyRI_open f ho).trans (by rw [hf]))
  exact ⟨run (aluAdd_immediate ..), run rfl, run rfl, run rfl⟩

/-- Settles O9, instruction by instruction. -/
theorem predicateResults : Obligations.PredicateResults := by
  intro s g gd op x a b p aux gives cc hd
  refine ⟨fun _ h3 hcc => exec_cmp_register hd h3 hcc, fun _ h3 hb hcc => exec_cmp_zero hd h3 hb hcc, exec_tst hd, fun haux ha hb => ?_,
    exec_pnot hd, Sprig.rp_setP⟩
  exact ⟨fun h => insn_done (body := bodyPP g op and) h (bodyPP_open hd haux ha hb),
    fun h => insn_done (body := bodyPP g op or) h (bodyPP_open hd haux ha hb)⟩
end

section
/-!
PROOFS. Loads and stores of a sprig's own banks, and its branches, calls and returns.
-/
namespace Sys2Proof.Machine

/-! ### Rows and regions of the banks (R55, R120) -/

section
variable {a : BitVec 16} {n : Nat}

/-- What an access inside a bank has: it ends inside it, in its region, takes no ALIGN there, and is split where it crosses a row of four bytes. -/
theorem inBank_end (h : inBank a n = true) : a.toNat + n ≤ 0xC000 := by
  simp only [inBank, Bool.or_eq_true, Bool.and_eq_true, decide_eq_true_eq] at h
  omega

theorem inBank_region (h : inBank a n = true) {k : Nat} (hk : k < n) : regionOf (a + BitVec.ofNat 16 k) = regionOf a := by
  have hend := inBank_end h
  simp only [inBank, Bool.or_eq_true, Bool.and_eq_true, decide_eq_true_eq] at h
  have hx : a.toNat + k < 0x6000 ↔ a.toNat < 0x6000 := by omega
  have hy : a.toNat + k < 0xC000 ↔ a.toNat < 0xC000 := by omega
  have ha : a.toNat < 0xC000 := by omega
  simp only [regionOf, toNat_add_ofNat (show a.toNat + k < 0x10000 by omega), hx, hy, ha, if_true]

theorem inBank_bank (h : inBank a n = true) (hn : 0 < n) : regionOf a = .x ∨ regionOf a = .y :=
  regionOf_bank (by have := inBank_end h; omega)

theorem misaligned_inBank (h : inBank a n = true) (hn : 0 < n) : misaligned a n = false := by
  have hend := inBank_end h
  have hregion : regionOf (a + BitVec.ofNat 16 (n - 1)) = regionOf a := inBank_region h (by omega)
  have hlt : ¬0x10000 < a.toNat + n := by omega
  unfold misaligned
  rw [hregion]
  rcases inBank_bank h hn with hr | hr <;> simp [hr, hlt]

theorem splits_inBank (h : inBank a n = true) (hn : 0 < n) : splits a n = decide (4 < a.toNat % 4 + n) := by
  have hrow : splits a n = decide (a.toNat / 4 ≠ (a.toNat + n - 1) / 4) := by
    rcases inBank_bank h hn with hr | hr <;> simp only [splits, rowSize, hr]
  rw [hrow, decide_eq_decide]
  omega

theorem firstPart_inBank (h : inBank a n = true) (hn : 0 < n) : firstPart a n = if 4 < a.toNat % 4 + n then 4 - a.toNat % 4 else n := by
  have hrow : rowSize a = 4 := by rcases inBank_bank h hn with hr | hr <;> rw [rowSize, hr]
  simp only [firstPart, splits_inBank h hn, hrow, decide_eq_true_eq]

theorem storeSteps_inBank (h : inBank a n = true) (hn : 0 < n) : storeSteps a n = bankSteps a n := by
  simp only [storeSteps, splits_inBank h hn, decide_eq_true_eq, bankSteps]
  split <;> split <;> omega

end

/-! ### Loads (R92, R120, R121) -/

/-- A bank's load writes the datum and the base update. -/
theorem exec_load_bank {s : State} {g : SprigId} {gd : BitVec 4} {opc : Byte} {op : BitVec 20} {e : Ea} {n : Nat} {sg : Bool} (hn : 0 < n)
    (hok : (s.core.sprig g).ea op n false = some e ∧ (s.core.sprig g).open_ e.idx [fDst op] = true ∧ s.core.clear g e.addr n = true)
    (h : s.ready g gd opc = true) : insn g gd opc (bodyLd g op n sg) s = .next (s.put g
      ((((s.core.sprig g).setD (fDst op) (extend (s.core.bytes (localsBase g + e.addr.toNat) n) sg)).applyUpd e.upd).past (bankSteps e.addr n))) := by
  obtain ⟨he, ho, hc⟩ := hok
  have hin : inBank e.addr n = true := by
    simp only [Core.clear, Bool.and_eq_true] at hc
    exact hc.1.1
  refine insn_commits_set (body := bodyLd g op n sg) h ?_
  simp only [bodyLd, he, Core.useD_open _ ho, misaligned_inBank hin hn, Bool.false_eq_true, if_false, Core.loadBank_clear hc hn]
  rcases inBank_bank hin hn with hr | hr <;> rw [hr] <;> rfl

/-- A byte below a value of any width. -/
theorem shiftLeft_or_byte {m : Nat} (x : BitVec m) (b : Byte) : ((x.setWidth 32 : Word) <<< 8) ||| b.setWidth 32 = (x ++ b).setWidth 32 := by
  apply BitVec.eq_of_getLsbD_eq
  intro i hi
  by_cases h : i < 8
  · simp [BitVec.getLsbD_append, h, hi]
  · simp [BitVec.getLsbD_append, h, hi, BitVec.getLsbD_of_ge b i (by omega)]

theorem wordOf_byte (b : Byte) : wordOf [b] = b.setWidth 32 := by simp [wordOf]

/-- The data of the load instructions, from their bytes (R12, R92). -/
theorem extend_byte (b : Byte) : extend [b] false = b.setWidth 32 ∧ extend [b] true = b.signExtend 32 := by
  have hb : ((b.setWidth 32 : Word).setWidth 8 : Byte) = b := by simp
  exact ⟨wordOf_byte b, by rw [extend, wordOf_byte]; exact congrArg (BitVec.signExtend 32) hb⟩

theorem extend_half (b0 b1 : Byte) :
    extend [b0, b1] false = (b1 ++ b0 : BitVec 16).setWidth 32 ∧ extend [b0, b1] true = (b1 ++ b0 : BitVec 16).signExtend 32 := by
  have hw : wordOf [b0, b1] = (b1 ++ b0 : BitVec 16).setWidth 32 := by rw [wordOf, wordOf_byte, shiftLeft_or_byte]
  have hh : (((b1 ++ b0 : BitVec 16).setWidth 32 : Word).setWidth 16 : BitVec 16) = b1 ++ b0 := by simp
  exact ⟨hw, by rw [extend, hw]; exact congrArg (BitVec.signExtend 32) hh⟩

theorem extend_word (b0 b1 b2 b3 : Byte) : extend [b0, b1, b2, b3] false = b3 ++ b2 ++ b1 ++ b0 := by
  show wordOf [b0, b1, b2, b3] = _
  rw [wordOf, wordOf, wordOf, wordOf_byte, shiftLeft_or_byte, shiftLeft_or_byte, shiftLeft_or_byte]
  exact BitVec.setWidth_eq _

/-! ### Stores (R92, R122, R123) -/

/-- Entries of a bank store lie at the sprig's locals. -/
theorem Sprig.entries_locals (x : Sprig) (g : SprigId) (a : BitVec 16) (bs : List Byte) :
    ((x.entries g a bs).any fun e => decide (e.addr < 0x4800000000)) = false := by
  have hbase : 0x4800000000 ≤ localsBase g := Nat.le_add_right ..
  rw [List.any_eq_false]
  intro e he
  simp only [Sprig.entries] at he
  rw [decide_eq_true_eq]
  split at he <;> simp only [List.mem_cons, List.not_mem_nil, or_false] at he <;> rcases he with rfl | rfl <;> dsimp only <;> omega

section
variable {c : Core} {g : SprigId} {a : BitVec 16} {bs : List Byte}

theorem Core.prepStore_bank (h : (c.sprig g).fits a bs.length = true) (hn : 0 < bs.length) :
    c.prepStore g a bs 0 = .ok (.entries ((c.sprig g).entries g a bs) none) := by
  simp only [Sprig.fits, Bool.and_eq_true, decide_eq_true_eq] at h
  obtain ⟨hin, hroom⟩ := h
  have hend := inBank_end hin
  have haddr {k : Nat} (hk : k < bs.length) : bankAddr g (c.sprig g) (a + BitVec.ofNat 16 k) = localsBase g + a.toNat + k := by
    have hr : regionOf (a + BitVec.ofNat 16 k) = .x ∨ regionOf (a + BitVec.ofNat 16 k) = .y := by
      rw [inBank_region hin hk]
      exact inBank_bank hin hn
    have hnat := toNat_add_ofNat (show a.toNat + k < 0x10000 by omega)
    rcases hr with hr | hr <;> rw [bankAddr, hr, hnat, Nat.add_assoc]
  have haddr0 : bankAddr g (c.sprig g) a = localsBase g + a.toNat := by simpa using haddr hn
  have hroom' : ¬4 < (c.sprig g).buf.length + 0 + (if firstPart a bs.length = bs.length then 1 else 2) := by
    rw [firstPart_inBank hin hn]
    rw [bankSteps] at hroom
    by_cases hs : 4 < a.toNat % 4 + bs.length
    · rw [if_neg (by omega)] at hroom
      rw [if_pos hs, if_neg (by omega)]
      omega
    · rw [if_pos (by omega)] at hroom
      rw [if_neg hs, if_pos rfl]
      omega
  have hentries : (c.sprig g).entries g a bs = if firstPart a bs.length = bs.length
      then [⟨bankAddr g (c.sprig g) a, bs, false, (c.sprig g).depth⟩]
      else [⟨bankAddr g (c.sprig g) a, bs.take (firstPart a bs.length), true, (c.sprig g).depth⟩,
        ⟨bankAddr g (c.sprig g) (a + BitVec.ofNat 16 (firstPart a bs.length)), bs.drop (firstPart a bs.length), false, (c.sprig g).depth⟩] := by
    rw [haddr0, firstPart_inBank hin hn, Sprig.entries]
    by_cases hs : 4 < a.toNat % 4 + bs.length
    · rw [if_pos hs, if_neg (by omega), if_neg (by omega), haddr (by omega)]
    · rw [if_neg hs, if_pos (by omega), if_pos rfl]
  have hr := inBank_bank hin hn
  unfold Core.prepStore
  dsimp only
  rw [misaligned_inBank hin hn, if_neg Bool.false_ne_true, hentries]
  rcases hr with hr | hr
  all_goals
    simp only [hr, reduceCtorEq, decide_false, Bool.false_and, Bool.false_eq_true, if_false, hroom']
    split <;> rfl

theorem Core.applyStore_bank : c.applyStore g (.entries ((c.sprig g).entries g a bs) none) = c.setSprig g ((c.sprig g).stored g a bs) := by
  simp only [Core.applyStore, Core.modSprig_eq, Sprig.entries_locals, Option.isSome_none, Bool.or_self, Bool.false_eq_true, if_false]
  rfl

end

theorem exec_store_bank {s : State} {g : SprigId} {gd : BitVec 4} {opc : Byte} {op : BitVec 20} {e : Ea} {n : Nat} (hn : 0 < n)
    (hok : (s.core.sprig g).ea op n false = some e ∧ (s.core.sprig g).open_ (fDst op :: e.idx) [] = true ∧ (s.core.sprig g).fits e.addr n = true)
    (h : s.ready g gd opc = true) : let bs := bytesOf ((s.core.sprig g).rd (fDst op)) n
    insn g gd opc (bodySt g op n) s
      = .next (s.put g ((((s.core.sprig g).stored g e.addr bs).applyUpd e.upd).past (bankSteps e.addr bs.length))) := by
  intro bs
  obtain ⟨he, ho, hf⟩ := hok
  have hlen : bs.length = n := bytesOf_length ..
  have hin : inBank e.addr n = true := by
    simp only [Sprig.fits, Bool.and_eq_true] at hf
    exact hf.1
  have hprep : s.core.prepStore g e.addr bs 0 = .ok (.entries ((s.core.sprig g).entries g e.addr bs) none) :=
    Core.prepStore_bank (by rwa [hlen]) (by omega)
  refine insn_commits_set (body := bodySt g op n) h ?_
  simp only [bodySt, he, Core.useD_open _ ho, bs] at hprep ⊢
  simp only [hprep, Core.applyStore_bank, Core.modSprig_setSprig, storeSteps_inBank hin hn, bytesOf_length]

/-! ### Branches (R107, R108) -/

section
variable {s : State} {g : SprigId} {gd : BitVec 4} {op : BitVec 20}

theorem exec_br (hd : fDst op = 0) (h : s.ready g gd 0x70 = true) :
    exec (.br g gd op) s = .next (s.put g ((s.core.sprig g).goes 1 ((s.core.sprig g).pc + op.setWidth 16))) :=
  insn_commits (body := bodyBr g op) h (if_neg (by rw [brReserved, hd]; decide))

/-- A call pushes PC + 1 below A7. -/
theorem Core.call_fits {c : Core} (target : BitVec 16) (hf : (c.sprig g).fits ((c.sprig g).ra 7 - 4) 4 = true) : let x := c.sprig g
    c.call g target = .commit (c.setSprig g ((x.stored g (x.ra 7 - 4) (bytesOf ((x.pc + 1).setWidth 32 : Word) 4)).setA 7 (x.ra 7 - 4)))
      { steps := 3, npc := some target } := by
  intro x
  have hprep : c.prepStore g (x.ra 7 - 4) (bytesOf ((x.pc + 1).setWidth 32 : Word) 4) 0
      = .ok (.entries (x.entries g (x.ra 7 - 4) (bytesOf ((x.pc + 1).setWidth 32 : Word) 4)) none) :=
    Core.prepStore_bank (by rwa [bytesOf_length]) (by rw [bytesOf_length]; decide)
  rw [Core.call]
  simp only [x] at hprep ⊢
  simp only [hprep, Core.applyStore_bank, Core.modSprig_setSprig]

theorem exec_brl (hd : fDst op = 0) (hf : (s.core.sprig g).fits ((s.core.sprig g).ra 7 - 4) 4 = true) (h : s.ready g gd 0x71 = true) :
    let x := s.core.sprig g
    exec (.brl g gd op) s = .next (s.put g (((x.stored g (x.ra 7 - 4) (bytesOf ((x.pc + 1).setWidth 32 : Word) 4)).setA 7 (x.ra 7 - 4)).goes 3
      (x.pc + op.setWidth 16))) :=
  insn_commits_set (body := bodyBrl g op) h ((if_neg (by rw [brReserved, hd]; decide)).trans (Core.call_fits _ hf))

/-- The part of an operand field that a mask covers. -/
theorem field_of_mask {w : Nat} (k : Nat) {m v : BitVec 20} (h : op &&& m = v) (hm : (m >>> k).setWidth w = BitVec.allOnes w) :
    (op >>> k).setWidth w = (v >>> k).setWidth w := by
  rw [← h, BitVec.ushiftRight_and_distrib, BitVec.setWidth_and, hm, BitVec.and_allOnes]

/-- An operand field that holds SRCA alone (R84). -/
theorem brrReserved_of_srcA (h : op &&& 0xF0FFF = 0) : brrReserved op = false := by
  have hd : fDst op = 0 := field_of_mask 16 h rfl
  have hb : fSrcB op = 0 := field_of_mask 8 h rfl
  have ha : fAux op = 0 := field_of_mask 0 h rfl
  rw [brrReserved, hd, hb, ha]
  decide

theorem exec_brr (hop : op &&& 0xF0FFF = 0) (ho : (s.core.sprig g).open_ [fSrcA op] [] = true) (h : s.ready g gd 0x72 = true) :
    exec (.brr g gd op) s = .next (s.put g ((s.core.sprig g).goes 1 (((s.core.sprig g).rd (fSrcA op)).setWidth 16))) := by
  refine insn_commits (body := bodyBrr g op) h ?_
  rw [bodyBrr, brrReserved_of_srcA hop, if_neg Bool.false_ne_true, Core.useD_open _ ho]

theorem exec_brlr (hop : op &&& 0xF0FFF = 0) (ho : (s.core.sprig g).open_ [fSrcA op] [] = true)
    (hf : (s.core.sprig g).fits ((s.core.sprig g).ra 7 - 4) 4 = true) (h : s.ready g gd 0x73 = true) : let x := s.core.sprig g
    exec (.brlr g gd op) s = .next (s.put g (((x.stored g (x.ra 7 - 4) (bytesOf ((x.pc + 1).setWidth 32 : Word) 4)).setA 7 (x.ra 7 - 4)).goes 3
      ((x.rd (fSrcA op)).setWidth 16))) := by
  refine insn_commits_set (body := bodyBrlr g op) h ?_
  rw [bodyBrlr, brrReserved_of_srcA hop, if_neg Bool.false_ne_true, Core.useD_open _ ho, Core.call_fits _ hf]

/-- RET pops the word at A7. -/
theorem exec_ret (hc : s.core.clear g ((s.core.sprig g).ra 7) 4 = true) (h : s.ready g gd 0x74 = true) : let x := s.core.sprig g
    exec (.ret g gd 0) s = .next (s.put g ((x.setA 7 (x.ra 7 + 4)).goes 3 ((s.core.bankWord g (x.ra 7)).setWidth 16))) := by
  intro x
  have hin : inBank (x.ra 7) 4 = true := by
    simp only [Core.clear, Bool.and_eq_true] at hc
    exact hc.1.1
  refine insn_commits_set (body := bodyRet g 0) h ?_
  rw [bodyRet]
  dsimp only
  rw [if_neg (by decide), misaligned_inBank hin (by decide), if_neg Bool.false_ne_true, Core.loadBank_clear hc (by decide)]
  rcases inBank_bank hin (by decide) with hr | hr <;> rw [hr] <;> rfl

end

end Sys2Proof.Machine

open Sys2Proof Sys2Proof.Machine

/-- Settles O2: `exec_load_bank`, and the datum of each instruction. -/
theorem loadsFromBanks : Obligations.LoadsFromBanks := by
  intro s g gd op e c x a ok gives
  have run {opc : Byte} {n : Nat} {sg : Bool} {v : Word} (hn : 0 < n) (hv : extend (c.bytes a n) sg = v) (hok : ok n)
      (h : s.ready g gd opc = true) : insn g gd opc (bodyLd g op n sg) s = .next (gives n v) := by
    rw [← hv]
    exact exec_load_bank hn hok h
  exact ⟨run (by decide) (extend_byte _).1, run (by decide) (extend_byte _).2, run (by decide) (extend_half ..).1,
    run (by decide) (extend_half ..).2, run (by decide) (extend_word ..)⟩

/-- Settles O3: `exec_store_bank` for each size. -/
theorem storesToBanks : Obligations.StoresToBanks := by
  intro s g gd op e x v ok gives
  exact ⟨exec_store_bank (by decide), exec_store_bank (by decide), exec_store_bank (by decide)⟩

/-- Settles O12, instruction by instruction. -/
theorem branchResults : Obligations.BranchResults := by
  intro s g gd op c x a pushed target
  refine ⟨exec_br, exec_brl, exec_brr, exec_brlr, ?_⟩
  rintro rfl
  exact exec_ret
end

section
/-!
PROOFS. The accumulators of a sprig: packed lanes, the MAC family and the accumulator instructions.
-/
namespace Sys2Proof.Machine

/-! ### Packed lanes (R103) -/

/-- A bit of packed lanes is a bit of one lane. -/
theorem getLsbD_packLanes {w b : Nat} (xs : List Int) {i j : Nat} (hi : i < xs.length) (hj : j < b) (hw : b * xs.length ≤ w) :
    (packLanes w b xs).getLsbD (b * i + j) = (BitVec.ofInt b xs[i]).getLsbD j := by
  induction xs generalizing i with
  | nil => exact absurd hi (Nat.not_lt_zero _)
  | cons x xs ih =>
    rw [List.length_cons, Nat.mul_succ] at hw
    have hlt : b * i + j < w := by
      have hmul : b * i ≤ b * xs.length := Nat.mul_le_mul_left b (Nat.le_of_lt_succ hi)
      omega
    cases i with
    | zero => simp [packLanes, hj, show j < w by omega]
    | succ i =>
      have hbit : b * (i + 1) + j = b + (b * i + j) := by rw [Nat.mul_succ]; omega
      rw [hbit] at hlt ⊢
      rw [packLanes, BitVec.getLsbD_or, BitVec.getLsbD_setWidth, BitVec.getLsbD_of_ge (BitVec.ofInt b x) _ (Nat.le_add_right ..),
        BitVec.getLsbD_shiftLeft, Nat.add_sub_cancel_left, ih (Nat.lt_of_succ_lt_succ hi) (by omega)]
      simp [hlt]

/-- Lane i of packed lanes, signed: its value, wrapped within its own bits. -/
theorem lane_packLanes {w b : Nat} (xs : List Int) {i : Nat} (hi : i < xs.length) (hw : b * xs.length ≤ w) :
    (((packLanes w b xs) >>> (b * i)).setWidth b).toInt = (BitVec.ofInt b xs[i]).toInt := by
  refine congrArg BitVec.toInt (BitVec.eq_of_getLsbD_eq fun j hj => ?_)
  rw [BitVec.getLsbD_setWidth, BitVec.getLsbD_ushiftRight, getLsbD_packLanes xs hi hj hw, decide_eq_true hj, Bool.true_and]

theorem lanes_length (ac : BitVec 80) (pk : BitVec 2) : (lanes ac pk).length = laneCount pk := by
  rw [lanes, List.length_map, List.length_range]

/-- The lanes fill the accumulator. -/
theorem lanes_fill : ∀ pk : BitVec 2, laneBits pk * laneCount pk = 80 := by decide

theorem lanes_count : ∀ pk : BitVec 2, 80 / laneBits pk = laneCount pk := by decide

theorem laneBits_eq : ∀ pk : BitVec 2, laneBits pk = if pk = 0 then 80 else if pk = 1 then 40 else 20 := by decide

/-- What a lane holds after every lane's value went through f. -/
theorem lane_packLanes_map (ac : BitVec 80) (pk : BitVec 2) (f : Int → Int) {i : Nat} (hi : i < laneCount pk) :
    (((packLanes 80 (laneBits pk) ((lanes ac pk).map f)) >>> (laneBits pk * i)).setWidth (laneBits pk)).toInt
      = (BitVec.ofInt (laneBits pk) (f (lane ac pk i))).toInt := by
  have hlen : ((lanes ac pk).map f).length = laneCount pk := by rw [List.length_map, lanes_length]
  rw [lane_packLanes _ (by rwa [hlen]) (by rw [hlen, lanes_fill])]
  simp [lanes]

/-! ### Sums and their range (R104, R106) -/

theorem satLane_eq (sat : Bool) (b : Nat) (t : Int) : satLane sat b t
    = (if sat then max (-(2 ^ (b - 1))) (min t (2 ^ (b - 1) - 1)) else t, sat && (decide (t < -(2 ^ (b - 1))) || decide (2 ^ (b - 1) ≤ t))) := by
  have hpos : (0 : Int) < 2 ^ (b - 1) := by positivity
  unfold satLane
  dsimp only
  rw [clampInt_ne, clampInt_eq (by omega)]
  simp only [Int.sub_one_lt_iff]
  cases sat <;> rfl

theorem packAc_single (sat : Bool) (t : Int) :
    packAc 0 sat [t] = (BitVec.ofInt 80 (satLane sat 80 t).1, (satLane sat 80 t).2) := by
  have hone : packLanes 80 80 [(satLane sat 80 t).1] = BitVec.ofInt 80 (satLane sat 80 t).1 := by simp [packLanes]
  rw [packAc]
  exact Prod.ext hone (by simp [laneBits])

/-- Element i of a word, as a factor (R103). -/
def element (w : Word) (b i : Nat) (signed : Bool) : Int :=
  if signed then ((w >>> (b * i)).setWidth b).toInt else ((w >>> (b * i)).setWidth b).toNat

/-- The sum of a word's lane products under MODE.LANE (R104). -/
def laneDot (mode : BitVec 2) (x y : Word) (sg : Bool) : Int :=
  let term (b i : Nat) : Int := element x b i true * element y b i sg
  if mode = 0 then term 32 0
  else if mode = 1 then term 16 0 + term 16 1
  else term 8 0 + term 8 1 + term 8 2 + term 8 3

theorem products_eq (x y : Word) (n b : Nat) (sg : Bool) :
    products x y n b sg = (List.range n).map fun i => element x b i true * element y b i sg := by
  rw [products, elems, elems, List.zipWith_map, List.zipWith_self]
  rfl

theorem macSum_eq (ac : BitVec 80) (x y : Word) (mode : BitVec 2) (sg neg sat : Bool) :
    macSum ac x y mode sg neg sat = packAc 0 sat [ac.toInt + if neg then -laneDot mode x y sg else laneDot mode x y sg] := by
  have hcase : mode = 0 ∨ mode = 1 ∨ mode = 2 ∨ mode = 3 := by revert mode; decide
  rcases hcase with rfl | rfl | rfl | rfl <;> simp [macSum, products_eq, List.range_succ, laneDot]

/-- Lane by lane: what each lane's sum is. -/
theorem macLanes_eq (ac : BitVec 80) (x y : Word) (pk : BitVec 2) (neg sat : Bool) :
    let p (i : Nat) : Int := element x (elemBits pk) i true * element y (elemBits pk) i true
    macLanes ac x y pk neg sat
      = packAc pk sat ((List.range (laneCount pk)).map fun i => lane ac pk i + if neg then -p i else p i) := by
  intro p
  rw [macLanes, products_eq, lanes, List.zipWith_map, List.zipWith_self]
  cases neg <;> rfl

/-- A lane of saturated sums. -/
theorem lane_packAc (pk : BitVec 2) (sat : Bool) (t : Nat → Int) {i : Nat} (hi : i < laneCount pk) :
    (((packAc pk sat ((List.range (laneCount pk)).map t)).1 >>> (laneBits pk * i)).setWidth (laneBits pk)).toInt
      = (BitVec.ofInt (laneBits pk) (satLane sat (laneBits pk) (t i)).1).toInt := by
  have hlen : (((List.range (laneCount pk)).map t).map fun x => (satLane sat (laneBits pk) x).1).length = laneCount pk := by simp
  rw [packAc, lane_packLanes _ (by rwa [hlen]) (by rw [hlen, lanes_fill])]
  simp

/-- MACX2 and MACX4: each lane holds its sum, brought into its range, and SATS says whether one left it. -/
theorem macxBody_lanes (op : BitVec 20) (pk : BitVec 2) (s : Sprig) (ac : BitVec 80) (x y : Word) :
    let p (i : Nat) : Int := element x (elemBits pk) i true * element y (elemBits pk) i true
    let t (i : Nat) : Int × Bool := satLane (modeSat s.mode) (laneBits pk) (lane ac pk i + if fNeg op then -p i else p i)
    ∃ r, macxBody op pk s ac x y = (r, swSats s.sw ((List.range (laneCount pk)).any fun i => (t i).2))
      ∧ ∀ i, i < laneCount pk → ((r >>> (laneBits pk * i)).setWidth (laneBits pk)).toInt = (BitVec.ofInt (laneBits pk) (t i).1).toInt := by
  intro p t
  refine ⟨_, ?_, fun i hi => lane_packAc pk (modeSat s.mode) (fun i => lane ac pk i + if fNeg op then -p i else p i) hi⟩
  rw [macxBody, macLanes_eq, packAc]
  dsimp only
  rw [List.any_map]
  rfl

/-! ### The MAC format (R86, R105) -/

/-- The sprig after a MAC-format instruction: the accumulator, SW, and the two base registers after their updates. -/
def Sprig.macced (x : Sprig) (op : BitVec 20) (ac : BitVec 80) (sw : Word) : Sprig :=
  let xa : BitVec 3 := (fXa op).setWidth 3
  let ya : BitVec 3 := 4 + (fYa op).setWidth 3
  { ((x.setAc (fAcc op) ac).setA xa (if fXm op = 0 then x.ra xa else x.modulo xa (macStep (fXm op) (x.rd 6)))).setA ya
      (if fYm op = 0 then x.ra ya else BitVec.ofInt 16 ((x.ra ya).toNat + macStep (fYm op) (x.rd 7))) with sw := sw }

/-- Two operands that lie in their banks, with no store of the sprig before them, give the accumulator and SW of `f`. -/
theorem exec_macFmt {s : State} {g : SprigId} {gd : BitVec 4} {opc : Byte} {op : BitVec 20} {n : Nat} {ac : BitVec 80} {sw : Word}
    {f : Sprig → BitVec 80 → Word → Word → BitVec 80 × Word} (hop : (op.setWidth 10 : BitVec 10) = 0) (hya : fYa op ≠ 3#2)
    (ho : (s.core.sprig g).open_ (macReads op) [] = true) :
    let c := s.core
    let x := c.sprig g
    let ax := x.ra ((fXa op).setWidth 3)
    let ay := x.ra (4 + (fYa op).setWidth 3)
    ax.toNat + 4 ≤ 0x6000 → 0x6000 ≤ ay.toNat → c.clear g ax 4 = true → c.clear g ay 4 = true →
    f x (x.rac (fAcc op)) (c.bankWord g ax) (c.bankWord g ay) = (ac, sw) → s.ready g gd opc = true →
    insn g gd opc (bodyMacFmt g op n f) s
      = .next (s.put g ((x.macced op ac sw).past (n + ((bankSteps ax 4 - 1) + (bankSteps ay 4 - 1))))) := by
  intro c x ax ay hx hy hcx hcy hf h
  have hin {a : BitVec 16} (hc : c.clear g a 4 = true) : inBank a 4 = true := by
    simp only [Core.clear, Bool.and_eq_true] at hc
    exact hc.1.1
  have hsteps {a : BitVec 16} (hc : c.clear g a 4 = true) : (if splits a 4 = true then 1 else 0) = bankSteps a 4 - 1 := by
    rw [← storeSteps_inBank (hin hc) (by decide), storeSteps]
    split <;> rfl
  refine insn_done (body := bodyMacFmt g op n f) h ?_
  rw [bodyMacFmt, if_neg (not_or.mpr ⟨not_not.mpr hop, hya⟩), Core.useD_open _ ho, Core.macFetch]
  dsimp only
  rw [if_neg (not_lt.mpr hx), if_neg (not_or.mpr ⟨not_lt.mpr hy, not_lt.mpr (inBank_end (hin hcy))⟩), Core.loadBank_clear hcx (by decide)]
  dsimp only
  rw [Core.loadBank_clear hcy (by decide)]
  dsimp only
  rw [hsteps hcx, hsteps hcy]
  have hf' : f (c.sprig g) ((c.sprig g).rac (fAcc op)) (wordOf (c.bytes (localsBase g + ax.toNat) 4))
      (wordOf (c.bytes (localsBase g + ay.toNat) 4)) = (ac, sw) := hf
  rw [hf']
  rfl

/-! ### Accumulator instructions (R104, R106) -/

section
variable {s : State} {g : SprigId} {gd : BitVec 4} {op : BitVec 20}

/-- The reserved fields of CLRA, with its AUX. -/
theorem clraFields {v : BitVec 20} (h : op &&& 0xE0FFF = v) :
    (op >>> 17).setWidth 3 = ((v >>> 17).setWidth 3 : BitVec 3) ∧ fSrcB op = fSrcB v ∧ fAux op = fAux v :=
  ⟨field_of_mask 17 h rfl, field_of_mask 8 h rfl, field_of_mask 0 h rfl⟩

theorem exec_clra_clears (hop : op &&& 0xE0FFF = 0) (h : s.ready g gd 0x68 = true) :
    exec (.clra g gd op) s = .next (s.put g (((s.core.sprig g).setAc (fAcn op) 0).past 1)) := by
  obtain ⟨hd, hb, ha⟩ := clraFields hop
  refine insn_done (body := bodyClra g op) h ?_
  rw [bodyClra, hd, hb, ha]
  rfl

theorem exec_clra_loads (hop : op &&& 0xE0FFF = 1) (ho : (s.core.sprig g).open_ [fSrcA op] [] = true) (h : s.ready g gd 0x68 = true) :
    exec (.clra g gd op) s
      = .next (s.put g (((s.core.sprig g).setAc (fAcn op) (((s.core.sprig g).rd (fSrcA op)).signExtend 80)).past 1)) := by
  obtain ⟨hd, hb, ha⟩ := clraFields hop
  refine insn_done (body := bodyClra g op) h ?_
  rw [bodyClra, hd, hb, ha, if_neg (by decide), if_pos (by decide), Core.useD_open _ ho]

/-- The fields that RNDA and ASH reserve. -/
theorem laneFields (h : op &&& 0xEFF00 = 0) : (op >>> 17).setWidth 3 = (0 : BitVec 3) ∧ fSrcA op = 0 ∧ fSrcB op = 0 :=
  ⟨field_of_mask 17 h rfl, field_of_mask 12 h rfl, field_of_mask 8 h rfl⟩

theorem exec_rnda (hop : op &&& 0xEFF00 = 0) (hpk : fPk op ≠ 3#2) (hk : (fAmt op).toNat < laneBits (fPk op)) (h : s.ready g gd 0x69 = true) :
    let x := s.core.sprig g
    exec (.rnda g gd op) s
      = .next (s.put g ((x.setAc (fAcn op) (rndAc (x.rac (fAcn op)) (fPk op) (modeRnd x.mode) (fAmt op).toNat)).past 1)) := by
  obtain ⟨hd, ha, hb⟩ := laneFields hop
  refine insn_done (body := bodyRnda g op) h (if_neg ?_)
  simp only [hd, ha, hb, hpk, not_le.mpr hk, ne_eq, not_true_eq_false, or_self, not_false_eq_true]

theorem exec_ash (hop : op &&& 0xEFF00 = 0) (hpk : fPk op ≠ 3#2) (h : s.ready g gd 0x6A = true) : let x := s.core.sprig g
    exec (.ash g gd op) s
      = .next (s.put g ((x.setAc (fAcn op) (ashAc (x.rac (fAcn op)) (fPk op) (fAmt op).toInt)).past 1)) := by
  obtain ⟨hd, ha, hb⟩ := laneFields hop
  refine insn_done (body := bodyAsh g op) h (if_neg ?_)
  simp only [hd, ha, hb, hpk, ne_eq, not_true_eq_false, or_self, not_false_eq_true]

theorem rndAc_eq (ac : BitVec 80) (pk rnd : BitVec 2) (k : Nat) :
    rndAc ac pk rnd k = packLanes 80 (laneBits pk) ((lanes ac pk).map fun v => roundInt rnd v k * 2 ^ k) := rfl

/-- A shift's amount is signed: left by n, or right by 64 - n. -/
theorem ashAc_eq (ac : BitVec 80) (pk : BitVec 2) (n : BitVec 6) : ashAc ac pk n.toInt = packLanes 80 (laneBits pk)
    ((lanes ac pk).map fun v => if 0 ≤ n.toInt then v * 2 ^ n.toNat else v / 2 ^ (64 - n.toNat)) := by
  have hn := n.isLt
  rw [ashAc]
  by_cases h : 0 ≤ n.toInt
  · have hnat : n.toInt.toNat = n.toNat := by
      rw [BitVec.toInt_eq_toNat_cond] at h ⊢
      split at h <;> omega
    simp only [h, if_true, hnat]
  · have hnat : (-n.toInt).toNat = 64 - n.toNat := by
      rw [BitVec.toInt_eq_toNat_cond] at h ⊢
      split at h <;> omega
    simp only [h, if_false, hnat]

theorem exec_stasM {e : Ea} : let x := s.core.sprig g
    let pk : BitVec 2 := (op >>> 17).setWidth 2
    let w := stasWord (x.rac (fAcc op)) pk (modeRnd x.mode) (modeSat x.mode) ((op >>> 4).setWidth 6 : BitVec 6).toNat
    op.getLsbD 16 = false → (op.setWidth 4 : BitVec 4) = 0 → (pk = 3#2 → (op >>> 4).setWidth 6 = (0 : BitVec 6)) →
    x.ea op 4 true = some e → x.fits e.addr 4 = true → s.ready g gd 0x6B = true →
    exec (.stasM g gd op) s = .next (s.put g
      (({ (x.stored g e.addr (bytesOf w.1 4)).applyUpd e.upd with sw := swSats x.sw w.2 } : Sprig).past (1 + bankSteps e.addr 4))) := by
  intro x pk w h16 h4 hpk he hf h
  have hin : inBank e.addr 4 = true := by
    simp only [Sprig.fits, Bool.and_eq_true] at hf
    exact hf.1
  have hprep : s.core.prepStore g e.addr (bytesOf w.1 4) 0 = .ok (.entries (x.entries g e.addr (bytesOf w.1 4)) none) :=
    Core.prepStore_bank (by rwa [bytesOf_length]) (by rw [bytesOf_length]; decide)
  refine insn_commits_set (body := bodyStasM g op) h ?_
  rw [bodyStasM]
  dsimp only
  rw [if_neg (by rw [h16, h4]; simpa using hpk), he]
  dsimp only
  simp only [w, x, pk] at hprep ⊢
  simp only [hprep, Core.applyStore_bank, Core.modSprig_setSprig, storeSteps_inBank hin (show 0 < 4 by decide)]
  rfl

theorem exec_stasR (hop : op &&& 0x0EF00 = 0) (hpk : fPk op = 3#2 → fAmt op = 0) (ho : (s.core.sprig g).open_ [] [fDst op] = true)
    (h : s.ready g gd 0x6C = true) : let x := s.core.sprig g
    let w := stasWord (x.rac ((op >>> 12).setWidth 1)) (fPk op) (modeRnd x.mode) (modeSat x.mode) (fAmt op).toNat
    exec (.stasR g gd op) s = .next (s.put g (({ x.setD (fDst op) w.1 with sw := swSats x.sw w.2 } : Sprig).past 2)) := by
  intro x w
  have hd : (op >>> 13).setWidth 3 = (0 : BitVec 3) := field_of_mask 13 hop rfl
  have hb : fSrcB op = 0 := field_of_mask 8 hop rfl
  refine insn_done (body := bodyStasR g op) h ?_
  rw [bodyStasR, if_neg (by rw [hd, hb]; simpa using hpk), Core.useD_open _ ho]

end

end Sys2Proof.Machine

open Sys2Proof Sys2Proof.Machine

/-- Settles O10: `exec_macFmt` for the format, `macSum_eq` and `macLanes_eq` for the sums, `satLane_eq` for their range. -/
theorem macResults : Obligations.MacResults := by
  intro s g gd op c x xa ya wx wy ac el term dot signed lim fit clips k gives sats lane hop hya ho hx hy hcx hcy
  have run {opc : Byte} {n : Nat} {f : Sprig → BitVec 80 → Word → Word → BitVec 80 × Word} {r : BitVec 80} {sw : Word}
      (hf : f x ac wx wy = (r, sw)) (h : s.ready g gd opc = true) : insn g gd opc (bodyMacFmt g op n f) s = .next (gives n r sw) :=
    exec_macFmt hop hya ho hx hy hcx hcy hf h
  have sum (sg : Bool) : macBody op sg x ac wx wy
      = (BitVec.ofInt 80 (fit 80 (ac.toInt + signed (dot sg))), sats (clips 80 (ac.toInt + signed (dot sg)))) := by
    rw [macBody, macSum_eq, packAc_single, satLane_eq]
    rfl
  refine ⟨run (sum true), run (sum false), fun h => ?_, fun h => ?_, run rfl⟩
  · obtain ⟨r, hr, hlane⟩ := macxBody_lanes op 1 x ac wx wy
    simp only [satLane_eq] at hr hlane
    exact ⟨r, run hr h, hlane⟩
  · obtain ⟨r, hr, hlane⟩ := macxBody_lanes op 2 x ac wx wy
    simp only [satLane_eq] at hr hlane
    exact ⟨r, run hr h, hlane⟩

/-- Settles O11, instruction by instruction; `lane_packLanes_map` for the lanes. -/
theorem accumulatorResults : Obligations.AccumulatorResults := by
  intro s g gd op x n ac pk b k lane gives sats
  have hbits : laneBits (fPk op) = b := laneBits_eq _
  have hcount {i : Nat} (hi : i < 80 / b) : i < laneCount (fPk op) := by rwa [← hbits, lanes_count] at hi
  refine ⟨exec_clra_clears, exec_clra_loads, fun hop hpk hk h => ?_, fun hop hpk h => ?_, fun e => exec_stasM, exec_stasR⟩
  · refine ⟨_, exec_rnda hop hpk (by rwa [hbits]) h, fun i hi => ?_⟩
    have hlane := lane_packLanes_map ac pk (fun v => roundInt (modeRnd x.mode) v k.toNat * 2 ^ k.toNat) (hcount hi)
    rw [Machine.lane, ← rndAc_eq, show laneBits pk = b from hbits] at hlane
    exact hlane
  · refine ⟨_, exec_ash hop hpk h, fun i hi => ?_⟩
    have hlane := lane_packLanes_map ac pk (fun v => if 0 ≤ k.toInt then v * 2 ^ k.toNat else v / 2 ^ (64 - k.toNat)) (hcount hi)
    rw [Machine.lane, ← ashAc_eq, show laneBits pk = b from hbits] at hlane
    exact hlane
end

section
/-!
PROOFS. Cards of a sprig: SEND, RECV and RECV.NB, and the writing of D8 to D15.
-/
namespace Sys2Proof.Machine

/-! ### Violations (R77, R78) -/

theorem State.ready_run {s : State} {g : SprigId} {gd : BitVec 4} {opc : Byte} (h : s.ready g gd opc = true) : (s.core.sprig g).state = .run := by
  simp only [State.ready, Sprig.issues, Bool.and_eq_true, decide_eq_true_eq] at h
  obtain ⟨⟨⟨⟨⟨⟨⟨⟨⟨hrun, -⟩, -⟩, -⟩, -⟩, -⟩, -⟩, -⟩, -⟩, -⟩ := h
  exact hrun

theorem Core.sprig_dropInsn (c : Core) (g : SprigId) : (c.dropInsn g).sprig g = (c.sprig g).dropped (Config.freeSteps c.free) :=
  Core.sprig_setSprig ..

/-- A violation freezes a running sprig where it stands; nothing leaves it, and memory stays. -/
theorem Core.violate_rest {c : Core} {g : SprigId} (cause : Byte) (addr : Option Word) (hrun : (c.sprig g).state = .run) :
    let d := c.violate g cause addr
    (d.sprig g).state = .frozen ∧ (d.sprig g).cause = cause ∧ (d.sprig g).pc = (c.sprig g).pc ∧ d.fly = c.fly ∧ d.mem = c.mem := by
  intro d
  obtain ⟨c', y, hd, hy, hpc, hfly, hmem⟩ : ∃ (c' : Core) (y : Sprig), d = (c'.setSprig g y).freezeSprig g cause (c.sprig g).pc ∧ y.state = .run
      ∧ y.pc = (c.sprig g).pc ∧ c'.fly = c.fly ∧ c'.mem = c.mem := by
    refine ⟨c.dropInsn g, _, rfl, ?_, ?_, rfl, rfl⟩ <;> rw [Core.sprig_dropInsn]
    · exact hrun
    · rfl
  have hrun' : ((c'.setSprig g y).sprig g).state = .run := by rw [Core.sprig_setSprig, hy]
  rw [hd, Core.sprig_freezeSprig cause _ hrun', Core.freezeSprig_fly cause _ hrun', Core.freezeSprig_mem cause _ hrun', Core.sprig_setSprig]
  exact ⟨rfl, rfl, hpc, hfly, hmem⟩

theorem insn_freezes {s : State} {g : SprigId} {gd : BitVec 4} {opc : Byte} {body : Core → Res} {cause : Byte} {addr : Option Word}
    (h : s.ready g gd opc = true) (hb : body s.core = .freeze s.core cause addr) : Runs (insn g gd opc body s) fun t =>
    (t.core.sprig g).state = .frozen ∧ (t.core.sprig g).cause = cause ∧ (t.core.sprig g).pc = (s.core.sprig g).pc ∧ t.core.fly = s.core.fly
    ∧ t.core.mem = s.core.mem := by
  refine ⟨_, insn_ready body h, ?_⟩
  rw [hb]
  exact Core.violate_rest cause addr (State.ready_run h)

/-! ### SEND (R111, R196, R207) -/

theorem headerOf_eq (w : Word) (poison : BitVec 8) (epoch : Byte) : headerOf w poison epoch
    = ((w &&& 0xFF0F00FF#32) ||| (epoch.setWidth 32 <<< 8)) ||| (if poison = 0 then 0 else 0x00800000#32) := by
  unfold headerOf
  dsimp only
  split
  · exact BitVec.or_zero.symm
  · rfl

/-- LAST is bit 19 of a header. -/
theorem flagLast_eq (w : Word) : decide (w &&& flagLast ≠ 0) = w.getLsbD 19 := by
  have hand : w &&& flagLast = if w.getLsbD 19 then BitVec.twoPow 32 19 else 0 := BitVec.and_twoPow w 19
  rw [hand]
  cases w.getLsbD 19 <;> decide

section
variable {s : State} {g : SprigId} {gd : BitVec 4} {op : BitVec 20}

/-- The card that D8 to D15 make on channel n (R111). -/
def Core.cardOut (c : Core) (g : SprigId) (n : BitVec 4) : Card :=
  let x := c.sprig g
  let ch := c.chan g n
  { w := { x.card with w0 := headerOf (x.rd 8) x.cardTags ch.epoch }, poison := x.cardTags, route := .chan c.dev g n, serial := ch.serial
    seq := ch.nextSeq }

/-- Before its credit is looked at, a SEND passes the checks of its fields, its registers, its type and its slot. -/
theorem bodySend_ready (hr : fR op = 0) (hk : fK op = 0) (ho : (s.core.sprig g).open_ [] cardRegs = true) (ht : (s.core.sprig g).rd 8 >>> 24 ≠ 0)
    (hout : (s.core.chan g (fS op)).out = none)
    (hbusy : s.core.outboundBusy (.chan s.core.dev g (fS op)) (s.core.shandle g (fS op)) = false) :
    bodySend g op s.core = if (s.core.chan g (fS op)).credit < 1 then .freeze s.core causeCredit none
      else .commit (s.core.sendOn g (fS op) (s.core.sprig g).card (s.core.sprig g).cardTags) { steps := 3 } := by
  have hboard : (cardRegs.any fun i => (s.core.sprig g).board.getLsbD i.toNat) = false := by
    simpa [Sprig.open_] using ho
  rw [bodySend, hr, hk, if_neg (by decide), Core.sendCard, hboard, if_neg Bool.false_ne_true, if_neg ht, hout, hbusy, if_neg (by decide)]

theorem Core.sendOn_pair {c : Core} {n : BitVec 4} (hp : ((c.scfg g n) >>> 29).setWidth 2 = 1#2) :
    c.sendOn g n (c.sprig g).card (c.sprig g).cardTags
      = (c.setChan g n ((c.chan g n).sent ((c.sprig g).rd 8))).launch (prodKey (.chan c.dev g n)) (.toPair ((c.shandle g n).setWidth 8) (c.cardOut g n)) :=
  if_pos hp

theorem Core.sendOn_held {c : Core} {n : BitVec 4} (hp : ((c.scfg g n) >>> 29).setWidth 2 ≠ 1#2) (hh : c.handleHeld (c.shandle g n) = true) :
    c.sendOn g n (c.sprig g).card (c.sprig g).cardTags
      = c.setChan g n { (c.chan g n).sent ((c.sprig g).rd 8) with out := some (c.cardOut g n) } :=
  (if_neg hp).trans (if_pos hh)

theorem Core.sendOn_free {c : Core} {n : BitVec 4} (hp : ((c.scfg g n) >>> 29).setWidth 2 ≠ 1#2) (hh : c.handleHeld (c.shandle g n) = false) :
    c.sendOn g n (c.sprig g).card (c.sprig g).cardTags
      = (c.setChan g n ((c.chan g n).sent ((c.sprig g).rd 8))).launch (prodKey (.chan c.dev g n)) (c.route (c.shandle g n) (c.cardOut g n)) :=
  (if_neg hp).trans (if_neg (by rw [hh]; exact Bool.false_ne_true))

/-! ### The head of a queue (R185, R200, R205) -/

theorem Core.returnCredit_sprigs (c : Core) (origin : Nat) (card : Card) : (c.returnCredit origin card).sprigs = c.sprigs := by
  have hcredit (c : Core) (x : Bcast) (r : Bool) : (c.bcastCredit origin x r).sprigs = c.sprigs := by
    unfold Core.bcastCredit
    repeat' split
    all_goals rfl
  have hpop (b : Nat) : (c.bcastPop origin b).sprigs = c.sprigs := by
    unfold Core.bcastPop
    dsimp only
    split
    · rfl
    · split
      · exact hcredit ..
      · rfl
  unfold Core.returnCredit
  repeat' split
  case h_2 => exact hpop _
  all_goals rfl

/-- What the pop of a card leaves: its credit leaves for its producer, or an entry of the error log stands for it. -/
def Core.afterPop (c : Core) (i : QueueId) (card : Card) (rest : List Card) : Core :=
  let gone := c.setQueue i { c.queue i with chain := rest }
  if card.badSide then gone.log { cls := 1, source := 0x0B, code := 0x0018, unit := i.setWidth 32, detail := 0, addr := 0 }
  else if card.bcast = none ∧ card.mute = false then gone.launch (queuePlace i) (.credit card.route card.serial false)
  else gone.returnCredit (queuePlace i) card

theorem Core.afterPop_sprigs (c : Core) (i : QueueId) (card : Card) (rest : List Card) : (c.afterPop i card rest).sprigs = c.sprigs := by
  unfold Core.afterPop
  dsimp only
  split
  · simp
  · split
    · rfl
    · exact Core.returnCredit_sprigs ..

theorem Core.pop_chain {c : Core} {i : QueueId} {card : Card} {rest : List Card} (hm : (c.queue i).mark = false)
    (h : (c.queue i).chain = card :: rest) : c.pop i = some (delivered (c.queue i).epoch card, c.afterPop i card rest) := by
  simp only [Core.pop, hm, h, Bool.false_eq_true, if_false, Core.afterPop]
  by_cases hb : card.badSide = true
  · simp only [hb, if_true, Core.returnCredit]
  · rw [if_neg hb, if_neg hb]
    split
    · next hp => simp only [Core.returnCredit, hb, hp.1, hp.2, Bool.false_eq_true, if_false]
    · rfl

/-! ### RECV and RECV.NB (R110, R185) -/

section
variable {c d : Core} {q p : BitVec 3} {f : RecvFill} (ho : (c.sprig g).open_ [] cardRegs = true) (hfill : (c.sprig g).fill = none)
include ho hfill

theorem Core.recvFrom_pops (hpop : c.pop (queueAt g q) = some (f, d)) (hd : d.sprigs = c.sprigs) :
    c.recvFrom g q = .commit (d.setSprig g ((c.sprig g).filling f)) {} := by
  have hx : d.sprig g = c.sprig g := by simp only [Core.sprig, hd]
  simp only [Core.recvFrom, Core.useD_open _ ho, hfill, Option.isSome_none, Bool.false_eq_true, if_false, hpop, Core.modSprig_eq, hx]

theorem Core.recvFrom_empty (hpop : c.pop (queueAt g q) = none) : c.recvFrom g q = .recv c q := by
  simp only [Core.recvFrom, Core.useD_open _ ho, hfill, Option.isSome_none, Bool.false_eq_true, if_false, hpop]

theorem Core.recvNbFrom_pops (hpop : c.pop (queueAt g q) = some (f, d)) (hd : d.sprigs = c.sprigs) :
    c.recvNbFrom g q p = .commit (d.setSprig g (((c.sprig g).filling f).setP p true)) {} := by
  have hx : d.sprig g = c.sprig g := by simp only [Core.sprig, hd]
  simp only [Core.recvNbFrom, Core.useD_open _ ho, hfill, Option.isSome_none, Bool.false_eq_true, if_false, hpop, Core.modSprig_eq, hx]

theorem Core.recvNbFrom_empty (hpop : c.pop (queueAt g q) = none) :
    c.recvNbFrom g q p = .commit (c.setSprig g ((c.sprig g).setP p false)) {} := by
  simp only [Core.recvNbFrom, Core.useD_open _ ho, hfill, Option.isSome_none, Bool.false_eq_true, if_false, hpop, Core.modSprig_eq]

end

section
variable (hr : fR op = 0) (hs : (fS op).getLsbD 3 = false)
include hr hs

theorem bodyRecv_fields {c : Core} (hk : fK op = 0) : bodyRecv g op c = c.recvFrom g ((fS op).setWidth 3) := by
  rw [bodyRecv, hr, hs, hk]
  rfl

theorem bodyRecvNb_fields {c : Core} (hk : fK op &&& 0xFF8 = 0) :
    bodyRecvNb g op c = c.recvNbFrom g ((fS op).setWidth 3) (op.setWidth 3) := by
  rw [bodyRecvNb, hr, hs, hk]
  rfl

end

/-- An empty queue blocks the sprig (R110). -/
theorem insn_blocks {opc : Byte} {body : Core → Res} {q : BitVec 3} (h : s.ready g gd opc = true) (hb : body s.core = .recv s.core q) :
    let x := s.core.sprig g
    insn g gd opc body s = .next (s.put g { x with req := { x.req with block := .recv q } }) := by
  rw [insn_ready body h, hb]
  rfl

section
variable {q : BitVec 3} {f : RecvFill} {d : Core} (hb : (s.core.sprig g).req.block = .recv q) (hi : (s.core.sprig g).issues = true)
  (hq : s.core.quietSprig g = false)
include hb hi hq

theorem exec_recvUnblock_pops (hpop : s.core.pop (queueAt g q) = some (f, d)) (hd : d.sprigs = s.core.sprigs) :
    exec (.recvUnblock g) s = .next (s.on (d.setSprig g (((s.core.sprig g).filling f).past 1))) := by
  have hx : d.sprig g = s.core.sprig g := by simp only [Core.sprig, hd]
  show execRecvUnblock g s = _
  simp only [execRecvUnblock, onCore, hb, hi, hq, hpop, Core.modSprig_eq, hx, Core.retire, Core.sprig_setSprig, Core.setSprig_setSprig,
    Bool.not_true, Bool.or_self, Bool.false_eq_true, if_false]
  rfl

theorem exec_recvUnblock_empty (hpop : s.core.pop (queueAt g q) = none) : exec (.recvUnblock g) s = .next s := by
  show execRecvUnblock g s = _
  simp only [execRecvUnblock, onCore, hb, hi, hq, hpop, Bool.not_true, Bool.or_self, Bool.false_eq_true, if_false]

end

/-! ### D8 to D15 (R110, R185) -/

/-- The register of card word k. -/
theorem cardReg_toNat : ∀ k : BitVec 3, (8 + k.setWidth 4 : BitVec 4).toNat = 8 + k.toNat := by decide

/-- A value with its poison tag in a register (R53). -/
theorem Sprig.setDP_reads (x : Sprig) (i j : BitVec 4) (v : Word) (p : Bool) : (x.setDP i v p).rd j = (if j = i then v else x.rd j)
    ∧ (x.setDP i v p).tags.getLsbD j.toNat = if j = i then p else x.tags.getLsbD j.toNat := by
  by_cases h : j = i
  · subst h
    rw [if_pos rfl, if_pos rfl]
    exact ⟨Sprig.rd_setD_self x j v, getLsbD_putBit_self _ _ j.isLt⟩
  · rw [if_neg h, if_neg h]
    exact ⟨Sprig.rd_setD_ne x v h, getLsbD_putBit _ _ _ _ fun e => h (BitVec.eq_of_toNat_eq e)⟩

/-- The sprig with the first n words of a card in its registers. -/
def Sprig.taking (x : Sprig) (f : RecvFill) (n : Nat) : Sprig :=
  (List.range n).foldl (fun s k => s.setDP (BitVec.ofNat 4 (8 + k)) (cardWord f.card (BitVec.ofNat 3 k)) (f.poison.getLsbD k)) x

theorem Sprig.taking_succ (x : Sprig) (f : RecvFill) (n : Nat) : x.taking f (n + 1)
    = (x.taking f n).setDP (BitVec.ofNat 4 (8 + n)) (cardWord f.card (BitVec.ofNat 3 n)) (f.poison.getLsbD n) := by
  rw [Sprig.taking, List.range_succ, List.foldl_append]
  rfl

theorem Sprig.taking_rest (x : Sprig) (f : RecvFill) (n : Nat) :
    (x.taking f n).board = x.board ∧ (x.taking f n).pc = x.pc ∧ (x.taking f n).state = x.state := by
  induction n with
  | zero => exact ⟨rfl, rfl, rfl⟩
  | succ n ih =>
    rw [Sprig.taking_succ]
    exact ih

theorem Sprig.taking_reads (x : Sprig) (f : RecvFill) {n : Nat} (hn : n ≤ 8) (j : BitVec 4) : let y := x.taking f n
    y.rd j = (if 8 ≤ j.toNat ∧ j.toNat < 8 + n then cardWord f.card (BitVec.ofNat 3 (j.toNat - 8)) else x.rd j)
    ∧ y.tags.getLsbD j.toNat = if 8 ≤ j.toNat ∧ j.toNat < 8 + n then f.poison.getLsbD (j.toNat - 8) else x.tags.getLsbD j.toNat := by
  induction n with
  | zero => rw [if_neg (by omega), if_neg (by omega)]; exact ⟨rfl, rfl⟩
  | succ n ih =>
    obtain ⟨hd, ht⟩ := ih (by omega)
    have hnat : (BitVec.ofNat 4 (8 + n)).toNat = 8 + n := by rw [BitVec.toNat_ofNat]; omega
    obtain ⟨hd', ht'⟩ := Sprig.setDP_reads (x.taking f n) (BitVec.ofNat 4 (8 + n)) j (cardWord f.card (BitVec.ofNat 3 n)) (f.poison.getLsbD n)
    intro y
    rw [show y = _ from x.taking_succ f n, hd', ht', hd, ht]
    by_cases hj : j = BitVec.ofNat 4 (8 + n)
    · rw [if_pos hj, if_pos hj, if_pos (by rw [hj, hnat]; omega), if_pos (by rw [hj, hnat]; omega), hj, hnat, Nat.add_sub_cancel_left]
      exact ⟨rfl, rfl⟩
    · have hne : j.toNat ≠ 8 + n := fun e => hj (BitVec.eq_of_toNat_eq (e.trans hnat.symm))
      have hiff : (8 ≤ j.toNat ∧ j.toNat < 8 + n) ↔ (8 ≤ j.toNat ∧ j.toNat < 8 + (n + 1)) := by omega
      simp only [if_neg hj, hiff]
      exact ⟨trivial, trivial⟩

theorem exec_recvFill {f : RecvFill} (hf : (s.core.sprig g).fill = some f) : let x := s.core.sprig g
    Runs (exec (.recvFill g) s) fun t =>
      let z := t.core.sprig g
      t = s.put g z ∧ z.fill = none ∧ z.board = x.board &&& 0x00FF ∧ z.pc = x.pc ∧ z.state = x.state
      ∧ (∀ k : BitVec 3, z.rd (8 + k.setWidth 4) = cardWord f.card k ∧ z.tags.getLsbD (8 + k.toNat) = f.poison.getLsbD k.toNat)
      ∧ ∀ j : BitVec 4, j.toNat < 8 → z.rd j = x.rd j ∧ z.tags.getLsbD j.toNat = x.tags.getLsbD j.toNat := by
  intro x
  have hrun : exec (.recvFill g) s = .next (s.put g { x.taking f 8 with fill := none, board := (x.taking f 8).board &&& 0x00FF }) := by
    show execRecvFill g s = _
    rw [execRecvFill, onCore, hf]
    rfl
  obtain ⟨hboard, hpc, hstate⟩ := x.taking_rest f 8
  have hreads := x.taking_reads f (le_refl 8)
  generalize x.taking f 8 = y at hrun hboard hpc hstate hreads
  refine ⟨_, hrun, ?_⟩
  simp only [State.put_core, Core.sprig_setSprig]
  refine ⟨trivial, trivial, by rw [hboard], hpc, hstate, fun k => ?_, fun j hj => ?_⟩
  · have hk := k.isLt
    have hnat := cardReg_toNat k
    obtain ⟨hd, ht⟩ := hreads (8 + k.setWidth 4)
    rw [if_pos (by omega), hnat, Nat.add_sub_cancel_left] at hd ht
    rw [BitVec.ofNat_toNat, BitVec.setWidth_eq] at hd
    exact ⟨hd, ht⟩
  · obtain ⟨hd, ht⟩ := hreads j
    rw [if_neg (by omega)] at hd ht
    exact ⟨hd, ht⟩

end

end Sys2Proof.Machine

open Sys2Proof Sys2Proof.Machine

/-- Settles O14: `bodySend_ready` and the three ways of `sendOn`; `pop_mark`, `pop_chain` and `pop_empty` for the head of the queue. -/
theorem sendAndReceive : Obligations.SendAndReceive := by
  intro s g gd op card rest c x n q i y ch me last head out paid toPair h dest sends takes cardOpen plain gone popped substitute got taken marker
    empty recvs tries blocked
  have hpaid : ch.sent (x.rd 8) = paid := by
    rw [Chan.sent, flagLast_eq]
    rfl
  have hout : c.cardOut g n = out := by
    rw [Core.cardOut]
    dsimp only
    rw [headerOf_eq]
    rfl
  have hsend (hs : sends) : bodySend g op c = if ch.credit < 1 then .freeze c causeCredit none
      else .commit (c.sendOn g n x.card x.cardTags) { steps := 3 } := by
    obtain ⟨hr, hk, ho, ht, hslot, hbusy, -⟩ := hs
    exact bodySend_ready hr hk ho ht hslot hbusy
  have hplain (hp : plain) : c.pop i = some (got, popped) := Core.pop_chain hp.1 hp.2
  have hpop (hp : plain) : popped.sprigs = c.sprigs := Core.afterPop_sprigs ..
  have hmark (hm : y.mark = true) : c.pop i = some (marker, taken) := Core.pop_mark hm
  have hempty (he : empty) : c.pop i = none := Core.pop_empty he.1 he.2
  have hcommit {d : Core} (hs : sends) (hc : 1 ≤ ch.credit) (hon : c.sendOn g n x.card x.cardTags = d) (hd : d.sprig g = x) :
      exec (.send g gd op) s = .next (s.on (d.setSprig g (x.past 3))) := by
    obtain ⟨-, -, -, -, -, -, h⟩ := id hs
    have hrun := insn_commits (body := bodySend g op) h ((hsend hs).trans ((if_neg (not_lt.mpr hc)).trans (by rw [hon])))
    rwa [hd] at hrun
  have recv {f : RecvFill} {d : Core} (hr : recvs) (hp : c.pop i = some (f, d)) (hd : d.sprigs = c.sprigs) :
      exec (.recv g gd op) s = .next (s.on (d.setSprig g ((takes f x).past 1))) := by
    obtain ⟨hR, hK, hS, ⟨ho, hf⟩, h⟩ := hr
    exact insn_commits_set (body := bodyRecv g op) h ((bodyRecv_fields hR hS hK).trans (Core.recvFrom_pops ho hf hp hd))
  have unblock {f : RecvFill} {d : Core} (hb : blocked) (hp : c.pop i = some (f, d)) (hd : d.sprigs = c.sprigs) :
      exec (.recvUnblock g) s = .next (s.on (d.setSprig g ((takes f x).past 1))) := by
    obtain ⟨hblock, hissues, hquiet⟩ := hb
    exact exec_recvUnblock_pops hblock hissues hquiet hp hd
  have tryRecv {f : RecvFill} {d : Core} (ht : tries) (hp : c.pop i = some (f, d)) (hd : d.sprigs = c.sprigs) :
      exec (.recvNb g gd op) s = .next (s.on (d.setSprig g (((takes f x).setP (op.setWidth 3) true).past 1))) := by
    obtain ⟨hR, hS, hK, ⟨ho, hf⟩, h⟩ := ht
    exact insn_commits_set (body := bodyRecvNb g op) h ((bodyRecvNb_fields hR hS hK).trans (Core.recvNbFrom_pops ho hf hp hd))
  refine ⟨fun hs hc hfree => ?_, fun hs hc hp hheld => ?_, fun hs hc => ?_, fun hr hp => recv hr (hplain hp) (hpop hp),
    fun hr hm => recv hr (hmark hm) rfl, fun hr he => ?_, fun hb hp => unblock hb (hplain hp) (hpop hp), fun hb hm => unblock hb (hmark hm) rfl,
    fun hb he => ?_, fun _ => exec_recvFill, fun ht hp => tryRecv ht (hplain hp) (hpop hp), fun ht hm => tryRecv ht (hmark hm) rfl,
    fun ht he => ?_⟩
  · by_cases hp : ((c.scfg g n) >>> 29).setWidth 2 = 1#2
    · refine hcommit hs hc ((Core.sendOn_pair hp).trans ?_) rfl
      rw [hpaid, hout, show dest = .toPair (h.setWidth 8) out from if_pos (decide_eq_true hp)]
    · have hpair : toPair = false := decide_eq_false hp
      have hheld : c.handleHeld h = false := hfree.resolve_left (by rw [hpair]; exact Bool.false_ne_true)
      refine hcommit hs hc ((Core.sendOn_free hp hheld).trans ?_) rfl
      rw [hpaid, hout, show dest = c.route h out from if_neg (by rw [hpair]; exact Bool.false_ne_true)]
  · refine hcommit hs hc ((Core.sendOn_held (of_decide_eq_false hp) hheld).trans ?_) rfl
    rw [hpaid, hout]
  · obtain ⟨-, -, -, -, -, -, h⟩ := id hs
    exact insn_freezes (body := bodySend g op) h ((hsend hs).trans (if_pos hc))
  · obtain ⟨hR, hK, hS, ⟨ho, hf⟩, h⟩ := hr
    exact insn_blocks (body := bodyRecv g op) h ((bodyRecv_fields hR hS hK).trans (Core.recvFrom_empty ho hf (hempty he)))
  · obtain ⟨hblock, hissues, hquiet⟩ := hb
    exact exec_recvUnblock_empty hblock hissues hquiet (hempty he)
  · obtain ⟨hR, hS, hK, ⟨ho, hf⟩, h⟩ := ht
    exact insn_commits_set (body := bodyRecvNb g op) h ((bodyRecvNb_fields hR hS hK).trans (Core.recvNbFrom_empty ho hf (hempty he)))
end

section
/-!
PROOFS. Deals and bank atomics of a sprig.
-/
namespace Sys2Proof.Machine

section
variable {s : State} {g : SprigId} {gd : BitVec 4} {op : BitVec 20}

/-! ### DEAL (R114, R238) -/

theorem bodyDeal_open (ht : (fSrcA op).getLsbD 0 = false) (haux : fAux op = 0)
    (ho : (s.core.sprig g).open_ [fDst op, fSrcA op, nextReg (fSrcA op), fSrcB op] [] = true) : let x := s.core.sprig g
    bodyDeal g op s.core = s.core.sendDeal g (x.rd (fSrcB op)) (x.rd (fDst op)) (x.rd (nextReg (fSrcA op)) ++ x.rd (fSrcA op)) { steps := 2 } := by
  rw [bodyDeal]
  dsimp only
  rw [if_neg (by rw [ht, haux]; decide), Core.useD_open _ ho]

/-- A deal that the unit grants leaves for it; one that it does not is a violation. -/
theorem insn_deal {opc : Byte} {body : Core → Res} {unit value : Word} {time : DWord} {n : Nat} (h : s.ready g gd opc = true)
    (hb : body s.core = s.core.sendDeal g unit value time { steps := n }) :
    (s.core.mayDeal g (unit.setWidth 16) = true → Runs (insn g gd opc body s) fun v =>
      v.core.fly = s.core.fly ++ [⟨dealOrigin g, unitPlace (unit.setWidth 16), .deal (unit.setWidth 16) value time g⟩]
      ∧ v.core.sprig g = ({ s.core.sprig g with dealsOut := (s.core.sprig g).dealsOut + 1 } : Sprig).past n)
    ∧ (s.core.mayDeal g (unit.setWidth 16) = false → Runs (insn g gd opc body s) fun v =>
      (v.core.sprig g).state = .frozen ∧ (v.core.sprig g).cause = causePerm ∧ v.core.fly = s.core.fly) := by
  refine ⟨fun hmay => ?_, fun hmay => ?_⟩
  · have hcommit := insn_commits h (hb.trans (by rw [Core.sendDeal, hmay]; exact if_neg (by decide)))
    refine ⟨_, hcommit, rfl, ?_⟩
    rw [State.on_core, Core.sprig_setSprig]
    exact congrArg (Sprig.past · n) (Core.sprig_setSprig ..)
  · have hfreeze : body s.core = .freeze s.core causePerm none := hb.trans (by rw [Core.sendDeal, hmay]; rfl)
    obtain ⟨t, ht, hstate, hcause, -, hfly, -⟩ := insn_freezes h hfreeze
    exact ⟨t, ht, hstate, hcause, hfly⟩

/-! ### AADD and ASWP (R115, R116) -/

/-- An atomic on a granted word of the scratch window, with room for it and no store before it, is issued. -/
theorem exec_atomic {opc : Byte} {e : Ea} {swap : Bool} : let c := s.core
    let x := c.sprig g
    x.ea op 4 false = some e → 0xC000 ≤ e.addr.toNat → e.addr.toNat < 0xE000 → e.addr.toNat % 4 = 0 →
    c.slimGrants g (x.scratchOff e.addr) true = true → inPages (x.scratchOff e.addr) = false → c.holderGate g (x.scratchOff e.addr) = .pass →
    x.atomics.length < 2 → x.buf = [] → x.open_ (fDst op :: e.idx) [fDst op] = true → s.ready g gd opc = true →
    insn g gd opc (bodyAtomic g op swap) s = .next (s.put g ((({ x.reportLease none with
      atomics := x.atomics ++ [⟨x.scratchOff e.addr, swap, x.rd (fDst op), .reg (fDst op), x.depth⟩]
      board := putBit x.board (fDst op).toNat true } : Sprig).applyUpd e.upd).past 1)) := by
  intro c x he h1 h2 h4 hg hp hl hat hbuf ho h
  have hcheck : c.atomicCheck g x e.addr = .ok none := by
    rw [Core.atomicCheck, if_neg (by rw [regionOf_scratch h1 h2, h4]; decide), hg, hp, if_neg (by decide), hl]
    dsimp only
    rw [hbuf, decide_eq_false (not_le.mpr hat)]
    rfl
  refine insn_commits_set (body := bodyAtomic g op swap) h ?_
  rw [bodyAtomic, he]
  dsimp only
  rw [Core.useD_open _ ho, Core.issueAtomic, hcheck]
  dsimp only [Core.done]
  rw [Core.modSprig_setSprig]
  rfl

/-! ### The result (R115, R172) -/

section
variable {c : Core} {b : BunchId} {off : BitVec 21}

theorem Core.readEcc_ok {who : Byte} (h : c.mark (scratchBase b + off.toNat) = .ok) : c.readEcc b off who = (false, c) := by
  simp only [Core.readEcc, h]

/-- The bank performs an atomic on a word that reads without an error. -/
theorem Core.performAtomic_ok {swap : Bool} {v : Word} {who : Byte} (h : c.mark (scratchBase b + off.toNat) = .ok) :
    let old := c.word (scratchBase b + off.toNat)
    c.performAtomic b off swap v who = (old, false, c.bankWrite b off (bytesOf (if swap then v else old + v) 4)) := by
  rw [Core.performAtomic, Core.readEcc_ok h]
  rfl

end

/-- The core after the bank's round for atomic p of sprig g, and its store (R172). -/
def Core.atomicStored (c : Core) (g : SprigId) (p : Atomic) : Core :=
  (c.soloRound (bunchOf g) p.off ((inBunch g).setWidth 6) true (some (offWord p.off))).bankWrite (bunchOf g) p.off
    (bytesOf (if p.swap then p.operand else c.word (scratchBase (bunchOf g) + p.off.toNat) + p.operand) 4)

theorem Core.atomicStored_sprig (c : Core) (g : SprigId) (p : Atomic) : (c.atomicStored g p).sprig g = c.sprig g :=
  Core.storeEcc_keeps (Core.sprig · g) (fun _ _ _ => rfl) (fun _ _ _ => rfl) ..

theorem Core.atomicStored_mem (c : Core) (g : SprigId) (p : Atomic) : let a := scratchBase (bunchOf g) + p.off.toNat
    (c.atomicStored g p).mem = (c.setBytes a (bytesOf (if p.swap then p.operand else c.word a + p.operand) 4)).mem :=
  (Core.storeEcc_mem ..).trans (Core.setBytes_mem_congr rfl ..)

section
variable {p : Atomic} {rest : List Atomic} {d : BitVec 4} (hat : (s.core.sprig g).atomics = p :: rest) (hd : p.dst = .reg d)
  (hgate : s.core.leaseGate (bunchOf g) ((inBunch g).setWidth 8) (some p.depth) p.off = (.pass, s.core))
  (hmark : s.core.mark (scratchBase (bunchOf g) + p.off.toNat) = .ok)
include hat hd hgate hmark

theorem Core.atomicReturn_ok : s.core.atomicReturn g = (s.core.atomicStored g p).setSprig g
    (Sprig.delivered { s.core.sprig g with atomics := rest } d (s.core.word (scratchBase (bunchOf g) + p.off.toNat)) false) := by
  have hperform : (s.core.soloRound (bunchOf g) p.off ((inBunch g).setWidth 6) true (some (offWord p.off))).performAtomic (bunchOf g) p.off p.swap
      p.operand ((inBunch g).setWidth 8) = (s.core.word (scratchBase (bunchOf g) + p.off.toNat), false, s.core.atomicStored g p) :=
    Core.performAtomic_ok (c := s.core.soloRound (bunchOf g) p.off ((inBunch g).setWidth 6) true (some (offWord p.off))) hmark
  rw [Core.atomicReturn, hat]
  dsimp only
  rw [hgate]
  dsimp only
  rw [hperform, hd]
  simp only [Core.deliver, Core.modSprig_eq, Core.sprig_setSprig, Core.setSprig_setSprig, Core.atomicStored_sprig]
  rfl

theorem exec_atomicResult : let c := s.core
    let a := scratchBase (bunchOf g) + p.off.toNat
    Runs (exec (.atomicResult g) s) fun v =>
      v.core.word a = (if p.swap then p.operand else c.word a + p.operand)
      ∧ (v.core.sprig g).rd d = c.word a ∧ (v.core.sprig g).board = putBit (c.sprig g).board d.toNat false ∧ (v.core.sprig g).atomics = rest
      ∧ ∀ b, (b < a ∨ a + 4 ≤ b) → v.core.byte b = c.byte b := by
  intro c a
  obtain ⟨-, hrd, -, -⟩ := Sprig.delivered_reads { c.sprig g with atomics := rest } d (c.word a) false
  refine ⟨_, congrArg (fun c => Host.Outcome.next (s.on c)) (Core.atomicReturn_ok hat hd hgate hmark), ?_⟩
  have hmem : ((c.atomicStored g p).setSprig g (Sprig.delivered { c.sprig g with atomics := rest } d (c.word a) false)).mem
      = (c.setBytes a (bytesOf (if p.swap then p.operand else c.word a + p.operand) 4)).mem := by
    simp only [Core.setSprig_rest, Core.atomicStored_mem, a]
  simp only [State.on_core, Core.sprig_setSprig]
  refine ⟨(Core.word_congr hmem a).trans (Core.word_setBytes_self ..), hrd, rfl, rfl, fun b hb => ?_⟩
  rw [Core.byte_congr hmem, Core.setBytes_same_but _ _ _ _ (by rwa [bytesOf_length])]

end

end

end Sys2Proof.Machine

open Sys2Proof Sys2Proof.Machine

/-- Settles O16: `insn_deal`, `exec_atomic` and `exec_atomicResult`. -/
theorem dealsAndAtomics : Obligations.DealsAndAtomics := by
  intro s g gd op sw c x t u
  refine ⟨fun ht haux ho h => insn_deal (body := bodyDeal g op) h (bodyDeal_open ht haux ho), ?_, fun _ _ _ hat hd _ hgate => exec_atomicResult hat hd hgate⟩
  intro e he h1 h2 h4 hg hp hl hat hbuf ho after
  refine ⟨?_, ?_⟩ <;> rintro rfl h
  all_goals exact exec_atomic he h1 h2 h4 hg hp hl hat hbuf ho h
end

section
/-!
PROOFS. FP32 results of a sprig: rounding of magnitudes and of exact numbers, sums, products and conversions, and the instructions.
-/
namespace Sys2Proof.Machine

/-! ### Rounding (MODE.FPRM, R50, R99) -/

/-- A number of sign s and magnitude m. -/
def signed (s : Bool) (m : Int) : Int := if s then -m else m

theorem signed_mul (s : Bool) (m n : Int) : signed s (m * n) = signed s m * n := by
  cases s
  · rfl
  · exact Int.neg_mul m n |>.symm

theorem signed_abs (s : Bool) {m : Int} (hm : 0 ≤ m) : |signed s m| = m := by
  cases s
  · exact abs_of_nonneg hm
  · exact (abs_neg m).trans (abs_of_nonneg hm)

theorem signed_neg_iff (s : Bool) {m : Int} (hm : 0 < m) : signed s m < 0 ↔ s = true := by
  cases s <;> simp [signed] <;> omega

theorem fprm_cases : ∀ rm : BitVec 2, rm = 0 ∨ rm = 1 ∨ rm = 2 ∨ rm = 3 := by decide

/-- An exact multiple rounds to itself. -/
theorem roundsTo_exact (rm : BitVec 2) (q : Int) {u : Int} (hu : 0 < u) : RoundsTo rm (q * u) q u := by
  have hsq : 0 ≤ q * (q * u) := by
    rw [← mul_assoc]
    exact mul_nonneg (mul_self_nonneg q) hu.le
  rcases fprm_cases rm with rfl | rfl | rfl | rfl
  · exact ⟨by simpa using hu.le, fun h => absurd h (by simpa using hu.ne)⟩
  · exact ⟨le_rfl, by omega, hsq⟩
  · exact ⟨le_rfl, by omega⟩
  · exact ⟨le_rfl, by omega⟩

/-- Rounding keeps its result in smaller units. -/
theorem RoundsTo.scale {rm : BitVec 2} {x q u : Int} (h : RoundsTo rm x q u) {c : Int} (hc : 0 < c) : RoundsTo rm (x * c) q (u * c) := by
  have hd : q * (u * c) - x * c = (q * u - x) * c := by ring
  have hq : q * (u * c) = q * u * c := by ring
  rcases fprm_cases rm with rfl | rfl | rfl | rfl
  · obtain ⟨hle, heven⟩ := h
    refine ⟨?_, fun he => heven ?_⟩
    · rw [hd, abs_mul, abs_of_pos hc, ← mul_assoc]
      exact mul_le_mul_of_nonneg_right hle hc.le
    · rw [hd, abs_mul, abs_of_pos hc, ← mul_assoc] at he
      exact mul_right_cancel₀ hc.ne' he
  · obtain ⟨hle, hlt, hs⟩ := h
    refine ⟨?_, ?_, ?_⟩
    · rw [hq, abs_mul, abs_mul x]
      exact mul_le_mul_of_nonneg_right hle (abs_nonneg c)
    · rw [hq, abs_mul, abs_mul, abs_of_pos hc, ← add_mul]
      exact mul_lt_mul_of_pos_right hlt hc
    · rw [← mul_assoc]
      exact mul_nonneg hs hc.le
  · obtain ⟨hle, hlt⟩ := h
    refine ⟨?_, ?_⟩
    · rw [hq]
      exact mul_le_mul_of_nonneg_right hle hc.le
    · rw [hq, ← add_mul]
      exact mul_lt_mul_of_pos_right hlt hc
  · obtain ⟨hle, hlt⟩ := h
    refine ⟨?_, ?_⟩
    · rw [hq]
      exact mul_le_mul_of_nonneg_right hle hc.le
    · rw [hq, ← add_mul]
      exact mul_lt_mul_of_pos_right hlt hc

/-- The rounding mode that does to -x what rm does to x. -/
def mirrored (rm : BitVec 2) : BitVec 2 := if rm = 2 then 3 else if rm = 3 then 2 else rm

theorem roundsTo_neg {rm : BitVec 2} {x q u : Int} (h : RoundsTo (mirrored rm) x q u) : RoundsTo rm (-x) (-q) u := by
  have hd : -q * u - -x = -(q * u - x) := by ring
  rcases fprm_cases rm with rfl | rfl | rfl | rfl
  · obtain ⟨hle, heven⟩ := h
    refine ⟨?_, fun he => ?_⟩
    · rwa [hd, abs_neg]
    · rw [hd, abs_neg] at he
      have := heven he
      omega
  · obtain ⟨hle, hlt, hs⟩ := h
    refine ⟨?_, ?_, ?_⟩
    · rwa [neg_mul, abs_neg, abs_neg]
    · rwa [neg_mul, abs_neg, abs_neg]
    · rwa [neg_mul_neg]
  · obtain ⟨hle, hlt⟩ := h
    constructor <;> rw [neg_mul] <;> omega
  · obtain ⟨hle, hlt⟩ := h
    constructor <;> rw [neg_mul] <;> omega

theorem roundsUp_mirrored (rm : BitVec 2) (q r k : Nat) : roundsUp rm true q r k = roundsUp (mirrored rm) false q r k := by
  rcases fprm_cases rm with rfl | rfl | rfl | rfl <;> rfl

/-- `roundShift` rounds a magnitude, in units of 2^k, as MODE.FPRM says. -/
theorem roundShift_roundsTo_nonneg (rm : BitVec 2) (m k : Nat) : RoundsTo rm m (roundShift rm false m k).1 (2 ^ k) := by
  have hm : m = m / 2 ^ k * 2 ^ k + m % 2 ^ k := (Nat.div_add_mod' m (2 ^ k)).symm
  have hr : m % 2 ^ k < 2 ^ k := Nat.mod_lt m (Nat.two_pow_pos k)
  have hk : (2 ^ k : Int) = ((2 ^ k : Nat) : Int) := by push_cast; rfl
  unfold roundShift roundsUp
  rw [hk]
  generalize 2 ^ k = d at hm hr ⊢
  generalize m / d = q at hm ⊢
  generalize m % d = r at hm hr ⊢
  have hpi : ((q * d : Nat) : Int) = q * d := by push_cast; rfl
  have hpu : (((q + 1) * d : Nat) : Int) = (q * d : Nat) + d := by push_cast; ring
  have hpu' : ((q + 1 : Nat) : Int) * d = (q * d : Nat) + d := by push_cast; ring
  have hqm : (0 : Int) ≤ q * m := by positivity
  generalize q * d = p at *
  rcases fprm_cases rm with rfl | rfl | rfl | rfl
  · simp only [RoundsTo, BitVec.ofNat_eq_ofNat, BitVec.toNat_ofNat, Nat.zero_mod, Int.abs_eq_natAbs, Bool.or_eq_true, Bool.and_eq_true,
      decide_eq_true_eq]
    split
    · rw [hpu']
      omega
    · rw [← hpi]
      omega
  · change |(q : Int) * d| ≤ |(m : Int)| ∧ |(m : Int)| < |(q : Int) * d| + d ∧ 0 ≤ (q : Int) * m
    refine ⟨?_, ?_, hqm⟩
    all_goals
      rw [← hpi, Int.abs_eq_natAbs, Int.abs_eq_natAbs]
      omega
  · simp only [RoundsTo, BitVec.ofNat_eq_ofNat, BitVec.toNat_ofNat, Nat.reducePow, Nat.reduceMod, Bool.not_false, Bool.true_and, decide_eq_true_eq]
    split
    · rw [hpu']
      omega
    · rw [← hpi]
      omega
  · simp only [RoundsTo, BitVec.ofNat_eq_ofNat, BitVec.toNat_ofNat, Nat.reducePow, Nat.reduceMod, Bool.false_and, Bool.false_eq_true, if_false]
    rw [← hpi]
    omega

theorem roundShift_roundsTo (rm : BitVec 2) (s : Bool) (m k : Nat) :
    RoundsTo rm (signed s m) (signed s (roundShift rm s m k).1) (2 ^ k) := by
  cases s
  · exact roundShift_roundsTo_nonneg rm m k
  · have h := roundShift_roundsTo_nonneg (mirrored rm) m k
    refine roundsTo_neg ?_
    rwa [roundShift, roundsUp_mirrored]

/-- The result of `roundShift` is the quotient or one more. -/
theorem roundShift_bounds (rm : BitVec 2) (s : Bool) (m k : Nat) :
    m / 2 ^ k ≤ (roundShift rm s m k).1 ∧ (roundShift rm s m k).1 ≤ m / 2 ^ k + 1 := by
  dsimp only [roundShift]
  split <;> simp

theorem roundsUp_exact (rm : BitVec 2) (s : Bool) (q k : Nat) : roundsUp rm s q 0 k = false := by
  rcases fprm_cases rm with rfl | rfl | rfl | rfl <;> simp [roundsUp]

/-- `roundShift` is inexact where its result, taken back, is not the number. -/
theorem roundShift_inexact (rm : BitVec 2) (s : Bool) (m k : Nat) :
    (roundShift rm s m k).2 = decide ((roundShift rm s m k).1 * 2 ^ k ≠ m) := by
  refine decide_eq_decide.mpr (not_congr ⟨fun h => ?_, fun h => ?_⟩)
  · rw [roundShift, h, roundsUp_exact]
    exact Nat.div_mul_cancel (Nat.dvd_of_mod_eq_zero h)
  · exact Nat.mod_eq_zero_of_dvd (Dvd.intro_left _ h)

/-! ### From a rounded magnitude to a word (R99) -/

/-- The 24 significant bits of m ≠ 0, and whether they are inexact: the first half of `fpRound`. -/
def round24 (rm : BitVec 2) (s : Bool) (m : Nat) : Nat × Bool :=
  if m.log2 + 1 ≤ 24 then (m * 2 ^ (24 - (m.log2 + 1)), false) else roundShift rm s m (m.log2 + 1 - 24)

/-- The word of 24 bits q and exponent e, judged for overflow and underflow: the second half of `fpRound`. -/
def fpJudge (rm : BitVec 2) (s inx : Bool) (q : Nat) (e : Int) : Word × FpFlags :=
  if 255 ≤ e + 150 then
    (if (match rm.toNat with | 0 => true | 1 => false | 2 => !s | _ => s) then fpInf s else fpMax s, { ovf := true, inx := true })
  else if e + 150 ≤ 0 then (fpZero s, { unf := true, inx := true })
  else
    ((if s then 0x80000000#32 else 0) ||| (BitVec.ofInt 32 (e + 150) <<< 23) ||| BitVec.ofNat 32 (q - 8388608), { inx := inx })

theorem fpRound_eq (rm : BitVec 2) (s : Bool) (m : Nat) (e : Int) :
    fpRound rm s m e =
      if (round24 rm s m).1 = 16777216 then fpJudge rm s (round24 rm s m).2 8388608 (e + ((m.log2 + 1 : Nat) - 24) + 1)
      else fpJudge rm s (round24 rm s m).2 (round24 rm s m).1 (e + ((m.log2 + 1 : Nat) - 24)) := by
  dsimp only [fpRound]
  unfold round24
  split <;> split <;> rfl

/-- What `round24` gives for m in units of 2^-E: a rounding to a multiple of 2^j, where 2^j is the last of m's 24 places. -/
theorem round24_rounds (rm : BitVec 2) (s : Bool) {m E j : Nat} (hm : m ≠ 0) (hj : j + 24 = m.log2 + 1 + E) :
    RoundsTo rm (signed s (m * 2 ^ E : Nat)) (signed s (round24 rm s m).1) (2 ^ j)
    ∧ (round24 rm s m).2 = decide ((round24 rm s m).1 * 2 ^ j ≠ m * 2 ^ E)
    ∧ 2 ^ 23 ≤ (round24 rm s m).1 ∧ (round24 rm s m).1 ≤ 2 ^ 24 := by
  have hlo : 2 ^ m.log2 ≤ m := Nat.log2_self_le hm
  have hhi : m < 2 ^ (m.log2 + 1) := Nat.lt_log2_self
  unfold round24
  generalize m.log2 = l at *
  split
  · rename_i hl
    have hmul : m * 2 ^ (24 - (l + 1)) * 2 ^ j = m * 2 ^ E := by
      rw [mul_assoc, ← pow_add]
      congr 2
      omega
    refine ⟨?_, by simp only [hmul, ne_eq, not_true, decide_false], ?_, ?_⟩
    · rw [← hmul, Nat.cast_mul, signed_mul, Nat.cast_pow]
      exact roundsTo_exact rm _ (by positivity)
    · calc 2 ^ 23 = 2 ^ l * 2 ^ (24 - (l + 1)) := by rw [← pow_add]; congr 1; omega
        _ ≤ m * 2 ^ (24 - (l + 1)) := Nat.mul_le_mul_right _ hlo
    · calc m * 2 ^ (24 - (l + 1)) ≤ 2 ^ (l + 1) * 2 ^ (24 - (l + 1)) := Nat.mul_le_mul_right _ hhi.le
        _ = 2 ^ 24 := by rw [← pow_add]; congr 1; omega
  · rename_i hl
    obtain ⟨k, hk⟩ : ∃ k, l + 1 = k + 24 := ⟨l + 1 - 24, by omega⟩
    have hkE : j = k + E := by omega
    rw [hk, Nat.add_sub_cancel, hkE]
    obtain ⟨hqlo, hqhi⟩ := roundShift_bounds rm s m k
    refine ⟨?_, ?_, hqlo.trans' ?_, hqhi.trans ?_⟩
    · rw [Nat.cast_mul, signed_mul, Nat.cast_pow, pow_add]
      exact (roundShift_roundsTo rm s m k).scale (by positivity)
    · rw [roundShift_inexact, pow_add, ← mul_assoc]
      exact decide_eq_decide.mpr (not_congr (Nat.mul_left_inj (by positivity)).symm)
    · refine (Nat.le_div_iff_mul_le (by positivity)).mpr (le_trans (le_of_eq ?_) hlo)
      rw [← pow_add]
      congr 1
      omega
    · refine (Nat.div_lt_iff_lt_mul (by positivity)).mpr (lt_of_lt_of_eq hhi ?_)
      rw [← pow_add]
      congr 1
      omega

/-- Reading back a packed word: a normal number. -/
theorem fpRead_pack (s : Bool) {be f : Nat} (hbe : 0 < be ∧ be < 255) (hf : f < 2 ^ 23) :
    fpRead ((if s then 0x80000000#32 else 0) ||| (BitVec.ofNat 32 be <<< 23) ||| BitVec.ofNat 32 f)
      = .num (signed s ((2 ^ 23 + f : Nat) * 2 ^ be)) := by
  have hw : ((if s then 0x80000000#32 else 0) ||| (BitVec.ofNat 32 be <<< 23) ||| BitVec.ofNat 32 f).toNat
      = s.toNat * 2 ^ 31 + (be * 2 ^ 23 + f) := by
    have hbe' : (BitVec.ofNat 32 be <<< 23).toNat = be <<< 23 := by
      rw [BitVec.toNat_shiftLeft, BitVec.toNat_ofNat, Nat.mod_eq_of_lt (by omega : be < 2 ^ 32), Nat.mod_eq_of_lt]
      rw [Nat.shiftLeft_eq]
      omega
    have hs : (if s then 0x80000000#32 else 0).toNat = s.toNat <<< 31 := by cases s <;> rfl
    rw [BitVec.toNat_or, BitVec.toNat_or, hbe', hs, BitVec.toNat_ofNat, Nat.mod_eq_of_lt (by omega), Nat.or_assoc,
      ← Nat.shiftLeft_add_eq_or_of_lt hf, ← Nat.shiftLeft_add_eq_or_of_lt (by rw [Nat.shiftLeft_eq]; omega), Nat.shiftLeft_eq,
      Nat.shiftLeft_eq]
  generalize ((if s then 0x80000000#32 else 0) ||| (BitVec.ofNat 32 be <<< 23) ||| BitVec.ofNat 32 f) = w at hw ⊢
  have hs1 : s.toNat ≤ 1 := Bool.toNat_le s
  have he : ((w >>> 23).setWidth 8 : Byte).toNat = be := by
    simp only [BitVec.toNat_setWidth, BitVec.toNat_ushiftRight, Nat.shiftRight_eq_div_pow]
    omega
  have hfr : (w.setWidth 23 : BitVec 23).toNat = f := by
    simp only [BitVec.toNat_setWidth]
    omega
  have hmsb : w.msb = s := by
    rw [BitVec.msb_eq_decide]
    cases s
    · simp [hw]
      omega
    · simp [hw]
  unfold fpRead
  rw [he, hfr, hmsb, if_neg (by omega), if_neg (by omega)]
  cases s <;> simp [signed, ← neg_mul]

/-- How `FpDelivers` judges the rounded number v. -/
def Judged (rm : BitVec 2) (neg : Prop) [Decidable neg] (v : Int) (inx : Bool) (r : Word) (f : FpFlags) : Prop :=
  if |v| < 2 ^ 198 then r = (if neg then 0x80000000#32 else 0) ∧ f = { unf := true, inx := true }
  else if 2 ^ 452 ≤ |v| then
    f = { ovf := true, inx := true }
    ∧ r = (if neg then (if rm = 0 ∨ rm = 3 then 0xFF800000#32 else 0xFF7FFFFF#32)
      else (if rm = 0 ∨ rm = 2 then 0x7F800000#32 else 0x7F7FFFFF#32))
  else (∃ z, fpRead r = .num z ∧ z * 2 ^ 174 = v) ∧ f = { inx := inx }

theorem fpDelivers_num {rm : BitVec 2} {x : Int} {r : Word} {f : FpFlags} {j : Nat} {q : Int} (hlo : 2 ^ (23 + j) ≤ |x|)
    (hhi : |x| < 2 ^ (24 + j)) (hq : RoundsTo rm x q (2 ^ j)) (hr : Judged rm (x < 0) (q * 2 ^ j) (decide (q * 2 ^ j ≠ x)) r f) :
    FpDelivers rm (.num x) r f := ⟨j, q, hlo, hhi, hq, hr⟩

/-- The overflow word of `fpJudge`. -/
theorem fpJudge_overflow (rm : BitVec 2) (s : Bool) :
    (if (match rm.toNat with | 0 => true | 1 => false | 2 => !s | _ => s) then fpInf s else fpMax s)
      = (if s then (if rm = 0 ∨ rm = 3 then 0xFF800000#32 else 0xFF7FFFFF#32)
        else (if rm = 0 ∨ rm = 2 then 0x7F800000#32 else 0x7F7FFFFF#32)) := by
  rcases fprm_cases rm with rfl | rfl | rfl | rfl <;> cases s <;> rfl

/-- `fpJudge` judges 24 bits q in units of 2^J. -/
theorem fpJudge_judged (rm : BitVec 2) (s inx : Bool) {q J : Nat} (hq : 2 ^ 23 ≤ q ∧ q < 2 ^ 24) :
    Judged rm (s = true) (signed s (q * 2 ^ J : Nat)) inx (fpJudge rm s inx q (J - 324)).1 (fpJudge rm s inx q (J - 324)).2 := by
  obtain ⟨hlo, hhi⟩ := hq
  have hle (n : Nat) (h : n ≤ 23 + J) : (2 : Int) ^ n ≤ |signed s (q * 2 ^ J : Nat)| := by
    rw [signed_abs s (by positivity)]
    have := (Nat.pow_le_pow_right (by norm_num : 0 < 2) h).trans_eq (pow_add 2 23 J) |>.trans (Nat.mul_le_mul_right _ hlo)
    exact_mod_cast this
  have hlt (n : Nat) (h : 24 + J ≤ n) : |signed s (q * 2 ^ J : Nat)| < (2 : Int) ^ n := by
    rw [signed_abs s (by positivity)]
    have := (Nat.mul_lt_mul_of_pos_right hhi (Nat.two_pow_pos J)).trans_eq (pow_add 2 24 J).symm |>.trans_le
      (Nat.pow_le_pow_right (by norm_num : 0 < 2) h)
    exact_mod_cast this
  have hsmall : |signed s (q * 2 ^ J : Nat)| < 2 ^ 198 ↔ J ≤ 174 :=
    ⟨fun h => not_lt.mp fun hJ => (hle 198 (by omega)).not_gt h, fun h => hlt 198 (by omega)⟩
  have hlarge : 2 ^ 452 ≤ |signed s (q * 2 ^ J : Nat)| ↔ 429 ≤ J :=
    ⟨fun h => not_lt.mp fun hJ => (hlt 452 (by omega)).not_ge h, fun h => hle 452 (by omega)⟩
  unfold Judged fpJudge
  simp only [hsmall, hlarge]
  by_cases hbig : 429 ≤ J
  · rw [if_neg (by omega), if_pos hbig, if_pos (by omega)]
    exact ⟨rfl, fpJudge_overflow rm s⟩
  · by_cases hsm : J ≤ 174
    · rw [if_pos hsm, if_neg (by omega), if_pos (by omega)]
      exact ⟨rfl, rfl⟩
    · rw [if_neg hsm, if_neg hbig, if_neg (by omega), if_neg (by omega)]
      have hbe : (J : Int) - 324 + 150 = (J - 174 : Nat) := by omega
      have hread := fpRead_pack s (be := J - 174) (f := q - 8388608) (by omega) (by omega)
      rw [hbe, BitVec.ofInt_natCast]
      refine ⟨⟨_, hread, ?_⟩, rfl⟩
      rw [← signed_mul, mul_assoc, ← pow_add, show 2 ^ 23 + (q - 8388608) = q by omega, show J - 174 + 174 = J by omega, Nat.cast_mul,
        Nat.cast_pow]
      rfl

theorem Judged.congr {rm : BitVec 2} {p p' : Prop} [Decidable p] [Decidable p'] {v : Int} {i i' : Bool} {r : Word} {f : FpFlags}
    (h : Judged rm p v i r f) (hp : p ↔ p') (hi : i = i') : Judged rm p' v i' r f := by
  subst hi
  unfold Judged at *
  simpa only [hp] using h

/-- `fpRound` delivers its number. -/
theorem fpRound_delivers (rm : BitVec 2) (s : Bool) {m : Nat} {e : Int} (hm : m ≠ 0) (he : -301 ≤ e) :
    FpDelivers rm (.num (signed s (m * 2 ^ (e + 324).toNat : Nat))) (fpRound rm s m e).1 (fpRound rm s m e).2 := by
  obtain ⟨E, hE⟩ : ∃ E : Nat, e + 324 = E := ⟨(e + 324).toNat, by omega⟩
  rw [hE, Int.toNat_natCast]
  obtain ⟨j, hj⟩ : ∃ j, j + 24 = m.log2 + 1 + E := ⟨m.log2 + 1 + E - 24, by omega⟩
  obtain ⟨hround, hinx, hqlo, hqhi⟩ := round24_rounds rm s hm hj
  have hpos : 0 < m * 2 ^ E := Nat.mul_pos (Nat.pos_of_ne_zero hm) (by positivity)
  have hneg : s = true ↔ signed s (m * 2 ^ E : Nat) < 0 := (signed_neg_iff s (by exact_mod_cast hpos)).symm
  have hval (q : Nat) : signed s (q * 2 ^ j : Nat) = signed s q * 2 ^ j := by rw [Nat.cast_mul, signed_mul, Nat.cast_pow]; rfl
  have hinx' : (round24 rm s m).2 = decide (signed s (round24 rm s m).1 * 2 ^ j ≠ signed s (m * 2 ^ E : Nat)) := by
    rw [hinx, ← hval]
    refine decide_eq_decide.mpr (not_congr ?_)
    cases s <;> simp only [signed, Bool.false_eq_true, if_false, if_true, neg_inj] <;> norm_cast
  refine fpDelivers_num (j := j) (q := signed s (round24 rm s m).1) ?_ ?_ hround ?_
  · rw [signed_abs s (by positivity)]
    have := Nat.mul_le_mul_right (2 ^ E) (Nat.log2_self_le hm)
    rw [← pow_add] at this
    rw [show 23 + j = m.log2 + E by omega]
    exact_mod_cast this
  · rw [signed_abs s (by positivity)]
    have := Nat.mul_lt_mul_of_pos_right (Nat.lt_log2_self (n := m)) (Nat.two_pow_pos E)
    rw [← pow_add] at this
    rw [show 24 + j = m.log2 + 1 + E by omega]
    exact_mod_cast this
  · rw [fpRound_eq, ← hval]
    refine Judged.congr ?_ hneg (hinx'.trans (by rw [hval]))
    split
    · rename_i hq
      have hJ : e + ((m.log2 + 1 : Nat) - 24) + 1 = ((j + 1 : Nat) : Int) - 324 := by omega
      have hv : 16777216 * 2 ^ j = 8388608 * 2 ^ (j + 1) := by rw [pow_succ]; omega
      rw [hJ, hq, hv]
      exact fpJudge_judged rm s _ (by norm_num)
    · rename_i hq
      have hJ : e + ((m.log2 + 1 : Nat) - 24) = (j : Int) - 324 := by omega
      rw [hJ]
      exact fpJudge_judged rm s _ (by omega)

theorem signed_sign (v : Int) : signed (decide (v < 0)) v.natAbs = v := by
  unfold signed
  simp only [decide_eq_true_eq]
  split <;> omega

/-- A signed integer other than 0 is delivered. -/
theorem fpOfInt_delivers (rm : BitVec 2) {v e : Int} (hv : v ≠ 0) (he : -301 ≤ e) :
    FpDelivers rm (.num (v * 2 ^ (e + 324).toNat)) (fpOfInt rm v e).1 (fpOfInt rm v e).2 := by
  have h := fpRound_delivers rm (decide (v < 0)) (Int.natAbs_ne_zero.mpr hv) he
  rw [Nat.cast_mul, Nat.cast_pow, signed_mul, signed_sign] at h
  rwa [fpOfInt, if_neg hv]

/-! ### The model's numbers as exact numbers (R98, R99) -/

/-- A model's number in units of 2^-k. -/
def FpVal.exact (k : Nat) : FpVal → FpExact
  | .nan b => .nan b
  | .inf s => .inf s
  | .zero s => .zero s
  | .fin s m e => .num (signed s (m * 2 ^ (e + k).toNat : Nat))

/-- A finite number is not 0 and a multiple of 2^lo. -/
def FpVal.atLeast (lo : Int) : FpVal → Prop
  | .fin _ m e => m ≠ 0 ∧ lo ≤ e
  | _ => True

theorem FpVal.atLeast.mono {x : FpVal} {lo lo' : Int} (h : x.atLeast lo) (hlo : lo' ≤ lo) : x.atLeast lo' := by
  cases x
  case fin s m e => exact ⟨h.1, hlo.trans h.2⟩
  all_goals trivial

theorem fpRead_eq (w : Word) : fpRead w = (fpVal w).exact 150 := by
  unfold fpRead fpVal
  have hff : ((w >>> 23).setWidth 8 : Byte).toNat = 255 ↔ (w >>> 23).setWidth 8 = 0xFF#8 :=
    ⟨fun h => BitVec.eq_of_toNat_eq h, fun h => by rw [h]; rfl⟩
  have h0 : ((w >>> 23).setWidth 8 : Byte).toNat = 0 ↔ ((w >>> 23).setWidth 8 : Byte) = 0 :=
    ⟨fun h => BitVec.eq_of_toNat_eq h, fun h => by rw [h]; rfl⟩
  have hm0 : (w.setWidth 23 : BitVec 23).toNat = 0 ↔ (w.setWidth 23 : BitVec 23) = 0 :=
    ⟨fun h => BitVec.eq_of_toNat_eq h, fun h => by rw [h]; rfl⟩
  simp only [hff, hm0]
  split
  · split <;> rfl
  · simp only [h0]
    split
    · rfl
    · simp only [FpVal.exact, FpExact.num.injEq]
      rw [show ((((w >>> 23).setWidth 8 : Byte).toNat : Int) - 150 + (150 : Nat)).toNat = ((w >>> 23).setWidth 8 : Byte).toNat by omega]
      cases w.msb <;> simp [signed] <;> ring

theorem fpVal_atLeast (w : Word) : (fpVal w).atLeast (-149) := by
  unfold fpVal
  have h0 : ((w >>> 23).setWidth 8 : Byte).toNat = 0 → ((w >>> 23).setWidth 8 : Byte) = 0 := fun h => BitVec.eq_of_toNat_eq h
  dsimp only
  split
  · split <;> trivial
  · split
    · trivial
    · rename_i h
      have := mt h0 h
      exact ⟨by omega, by omega⟩

/-- Smaller units. -/
theorem FpVal.exact_scale {x : FpVal} {k : Nat} (h : x.atLeast (-k)) (j : Nat) : (x.exact k).scale j = x.exact (k + j) := by
  cases x
  case fin s m e =>
    obtain ⟨-, he⟩ := h
    simp only [FpVal.exact, FpExact.scale, FpExact.num.injEq]
    rw [show (e + (k + j : Nat)).toNat = (e + k).toNat + j by omega, pow_add, ← mul_assoc, Nat.cast_mul _ (2 ^ j), signed_mul, Nat.cast_pow]
    rfl
  all_goals rfl

theorem FpExact.scale_add (rm : BitVec 2) (a b : FpExact) (k : Nat) : (a.add rm b).scale k = (a.scale k).add rm (b.scale k) := by
  cases a <;> cases b
  case num.num x y =>
    have h0 : x * 2 ^ k + y * 2 ^ k = 0 ↔ x + y = 0 := by
      rw [← add_mul]
      exact mul_eq_zero_iff_right (by positivity)
    by_cases h : x + y = 0
    · simp only [FpExact.scale, FpExact.add, h0, if_pos h]
    · simp only [FpExact.scale, FpExact.add, h0, if_neg h, add_mul]
  case inf.inf s t => by_cases h : s = t <;> simp [FpExact.scale, FpExact.add, h]
  all_goals rfl

/-- The turned sign of FSUB. -/
theorem fpRead_fpNegW (b : Word) : fpRead (fpNegW b) = (fpRead b).neg := by
  have he : ((fpNegW b >>> 23).setWidth 8 : Byte) = (b >>> 23).setWidth 8 := by
    simp [fpNegW, BitVec.ushiftRight_xor_distrib, BitVec.setWidth_xor]
  have hm : ((fpNegW b).setWidth 23 : BitVec 23) = b.setWidth 23 := by
    simp [fpNegW, BitVec.setWidth_xor]
  have hs : (fpNegW b).msb = !b.msb := by rw [fpNegW, BitVec.msb_xor, show (0x80000000#32).msb = true from rfl, Bool.xor_true]
  have hq : (fpNegW b).getLsbD 22 = b.getLsbD 22 := by simp [fpNegW]
  unfold fpRead
  rw [he, hm, hs, hq]
  dsimp only
  split
  · split <;> rfl
  · split
    · rfl
    · cases b.msb
      all_goals
        simp only [FpExact.neg, Bool.not_true, Bool.not_false, Bool.false_eq_true, if_true, if_false, FpExact.num.injEq]
        ring

/-! ### Sums and products (R98, R99) -/

theorem exact_add_nan (rm : BitVec 2) {x y : FpVal} (h : (isNan x || isNan y) = true) (k l : Nat) :
    (x.exact k).add rm (y.exact l) = .nan (isSnan x || isSnan y) := by
  cases x <;> cases y <;> simp [isNan] at h <;> simp [FpVal.exact, FpExact.add, isSnan]

theorem exact_mul_nan {x y : FpVal} (h : (isNan x || isNan y) = true) (k l : Nat) :
    (x.exact k).mul (y.exact l) = .nan (isSnan x || isSnan y) := by
  cases x <;> cases y <;> simp [isNan] at h <;> simp [FpVal.exact, FpExact.mul, isSnan]

/-- An operand and an invalid product: invalid or a NaN. -/
theorem exact_add_nan_right (rm : BitVec 2) (z : FpVal) (k : Nat) (i : Bool) : (z.exact k).add rm (.nan i) = .nan (isSnan z || i) := by
  cases z <;> simp [FpVal.exact, FpExact.add, isSnan]

/-- A model's number, no NaN, as a word. -/
theorem fpOut_delivers (rm : BitVec 2) {x : FpVal} (hx : isNan x = false) (h : x.atLeast (-301)) :
    FpDelivers rm (x.exact 324) (fpOut rm x).1 (fpOut rm x).2 := by
  cases x
  case nan => simp [isNan] at hx
  case fin s m e => exact fpRound_delivers rm s h.1 h.2
  all_goals exact ⟨rfl, rfl⟩

/-- A number as a multiple of a smaller power of 2. -/
theorem exact_fin_split (s : Bool) (m : Nat) {e lo : Int} (hlo : lo ≤ e) (h : -324 ≤ lo) :
    signed s (m * 2 ^ (e + (324 : Nat)).toNat : Nat) = signed s (m * 2 ^ (e - lo).toNat : Nat) * 2 ^ (lo + 324).toNat := by
  rw [show (e + (324 : Nat)).toNat = (e - lo).toNat + (lo + 324).toNat by omega, pow_add, ← mul_assoc, Nat.cast_mul, signed_mul, Nat.cast_pow]
  rfl

/-- A sum of two numbers, neither a NaN. -/
theorem fpAddVal_delivers (rm : BitVec 2) {x y : FpVal} (hx : isNan x = false) (hy : isNan y = false) (hxe : x.atLeast (-301))
    (hye : y.atLeast (-301)) :
    FpDelivers rm ((x.exact 324).add rm (y.exact 324)) (fpAddVal rm x y).1 (fpAddVal rm x y).2 := by
  cases x <;> cases y
  case fin.fin s m e t n f =>
    have hlo : -301 ≤ min e f := le_min hxe.2 hye.2
    simp only [FpVal.exact, FpExact.add]
    rw [exact_fin_split s m (min_le_left e f) (by omega), exact_fin_split t n (min_le_right e f) (by omega), ← add_mul]
    change FpDelivers rm _ (fpOfInt rm (signed s _ + signed t _) (min e f)).1 (fpOfInt rm (signed s _ + signed t _) (min e f)).2
    by_cases hv : signed s (m * 2 ^ (e - min e f).toNat : Nat) + signed t (n * 2 ^ (f - min e f).toNat : Nat) = 0
    · rw [hv, zero_mul, if_pos rfl, fpOfInt, if_pos rfl]
      exact ⟨by simp [zeroSum, fpZero], rfl⟩
    · rw [if_neg (mul_ne_zero hv (by positivity))]
      exact fpOfInt_delivers rm hv hlo
  case zero.fin s t n f => exact fpRound_delivers rm t hye.1 hye.2
  case fin.zero s m e t => exact fpRound_delivers rm s hxe.1 hxe.2
  case zero.zero s t =>
    simp only [FpVal.exact, FpExact.add, fpAddVal]
    split
    · exact ⟨rfl, rfl⟩
    · exact ⟨by simp [zeroSum, fpZero], rfl⟩
  case inf.inf s t =>
    simp only [FpVal.exact, FpExact.add, fpAddVal]
    split <;> exact ⟨rfl, rfl⟩
  case inf.zero => exact ⟨rfl, rfl⟩
  case inf.fin => exact ⟨rfl, rfl⟩
  case zero.inf => exact ⟨rfl, rfl⟩
  case fin.inf => exact ⟨rfl, rfl⟩
  all_goals simp [isNan] at hx hy

theorem signed_mul_signed (s t : Bool) (m n : Int) : signed s m * signed t n = signed (s != t) (m * n) := by
  cases s <;> cases t <;> simp [signed]

/-- A product of two numbers, neither a NaN, as the model gives it. -/
theorem fpProd_exact {x y : FpVal} (hx : isNan x = false) (hy : isNan y = false) (hxe : x.atLeast (-149)) (hye : y.atLeast (-149)) :
    match fpProd x y with
    | none => (x.exact 150).mul (y.exact 150) = .nan true
    | some p => (x.exact 150).mul (y.exact 150) = p.exact 300 ∧ isNan p = false ∧ p.atLeast (-298) := by
  have hneg (s : Bool) {m : Nat} (hm : m ≠ 0) (k : Nat) : decide (signed s (m * 2 ^ k : Nat) < 0) = s := by
    have hpos : 0 < m * 2 ^ k := Nat.mul_pos (Nat.pos_of_ne_zero hm) (by positivity)
    simp only [signed_neg_iff s (Int.natCast_pos.mpr hpos), Bool.decide_eq_true]
  cases x <;> cases y
  case fin.fin s m e t n f =>
    obtain ⟨hm, he⟩ := hxe
    obtain ⟨hn, hf⟩ := hye
    refine ⟨?_, rfl, Nat.mul_ne_zero hm hn, by omega⟩
    simp only [FpVal.exact, FpExact.mul, FpExact.num.injEq]
    rw [signed_mul_signed, show (e + f + (300 : Nat)).toNat = (e + (150 : Nat)).toNat + (f + (150 : Nat)).toNat by omega, pow_add]
    push_cast
    congr 1
    ring
  case inf.fin s t n f => exact ⟨by simp only [FpVal.exact, FpExact.mul, hneg t hye.1], rfl, trivial⟩
  case zero.fin s t n f => exact ⟨by simp only [FpVal.exact, FpExact.mul, hneg t hye.1], rfl, trivial⟩
  case fin.inf s m e t => exact ⟨by simp only [FpVal.exact, FpExact.mul, hneg s hxe.1], rfl, trivial⟩
  case fin.zero s m e t => exact ⟨by simp only [FpVal.exact, FpExact.mul, hneg s hxe.1], rfl, trivial⟩
  case inf.zero => rfl
  case zero.inf => rfl
  case inf.inf => exact ⟨rfl, rfl, trivial⟩
  case zero.zero => exact ⟨rfl, rfl, trivial⟩
  all_goals simp [isNan] at hx hy

/-- FADD. -/
theorem fadd_delivers (rm : BitVec 2) (a b : Word) :
    FpDelivers rm (((fpRead a).add rm (fpRead b)).scale 174) (fadd rm a b).1 (fadd rm a b).2 := by
  have ha := fpVal_atLeast a
  have hb := fpVal_atLeast b
  rw [fpRead_eq, fpRead_eq, fadd]
  generalize fpVal a = x at *
  generalize fpVal b = y at *
  by_cases hn : (isNan x || isNan y) = true
  · simp only [hn, if_true, exact_add_nan rm hn]
    exact ⟨rfl, rfl⟩
  · obtain ⟨hx, hy⟩ : isNan x = false ∧ isNan y = false := by simpa using hn
    rw [if_neg hn, FpExact.scale_add, FpVal.exact_scale (ha.mono (by norm_num)), FpVal.exact_scale (hb.mono (by norm_num))]
    exact fpAddVal_delivers rm hx hy (ha.mono (by norm_num)) (hb.mono (by norm_num))

/-- FSUB. -/
theorem fsub_delivers (rm : BitVec 2) (a b : Word) :
    FpDelivers rm (((fpRead a).add rm (fpRead b).neg).scale 174) (fsub rm a b).1 (fsub rm a b).2 := by
  rw [← fpRead_fpNegW]
  exact fadd_delivers rm a (fpNegW b)

/-- FMUL. -/
theorem fmul_delivers (rm : BitVec 2) (a b : Word) :
    FpDelivers rm (((fpRead a).mul (fpRead b)).scale 24) (fmul rm a b).1 (fmul rm a b).2 := by
  have ha := fpVal_atLeast a
  have hb := fpVal_atLeast b
  rw [fpRead_eq, fpRead_eq, fmul]
  generalize fpVal a = x at *
  generalize fpVal b = y at *
  by_cases hn : (isNan x || isNan y) = true
  · simp only [hn, if_true, exact_mul_nan hn]
    exact ⟨rfl, rfl⟩
  · obtain ⟨hx, hy⟩ : isNan x = false ∧ isNan y = false := by simpa using hn
    have hprod := fpProd_exact hx hy ha hb
    rw [if_neg hn]
    cases hp : fpProd x y with
    | none =>
      rw [hp] at hprod
      rw [hprod]
      exact ⟨rfl, rfl⟩
    | some p =>
      rw [hp] at hprod
      obtain ⟨hmul, hnan, hlo⟩ := hprod
      rw [hmul, FpVal.exact_scale (hlo.mono (by norm_num))]
      exact fpOut_delivers rm hnan (hlo.mono (by norm_num))

/-- FMAC, fused. -/
theorem fma_delivers (rm : BitVec 2) (c a b : Word) :
    FpDelivers rm ((((fpRead c).scale 150).add rm ((fpRead a).mul (fpRead b))).scale 24) (fma rm false c a b).1 (fma rm false c a b).2 := by
  have ha := fpVal_atLeast a
  have hb := fpVal_atLeast b
  have hc := fpVal_atLeast c
  rw [fpRead_eq, fpRead_eq, fpRead_eq, fma, if_neg Bool.false_ne_true]
  generalize fpVal a = x at *
  generalize fpVal b = y at *
  generalize fpVal c = z at *
  rw [FpVal.exact_scale (hc.mono (by norm_num))]
  by_cases hn : (isNan x || isNan y) = true
  · simp only [hn, if_true, exact_mul_nan hn, exact_add_nan_right]
    exact ⟨rfl, by rw [Bool.or_comm]⟩
  · obtain ⟨hx, hy⟩ : isNan x = false ∧ isNan y = false := by simpa using hn
    have hprod := fpProd_exact hx hy ha hb
    rw [if_neg hn]
    cases hp : fpProd x y with
    | none =>
      rw [hp] at hprod
      rw [hprod, exact_add_nan_right, Bool.or_true]
      exact ⟨rfl, rfl⟩
    | some p =>
      rw [hp] at hprod
      obtain ⟨hmul, hnan, hlo⟩ := hprod
      rw [hmul]
      have hsnan {v : FpVal} (hv : isNan v = false) : isSnan v = false := by
        cases v <;> simp [isNan] at hv <;> rfl
      cases hz : isNan z
      · rw [FpExact.scale_add, FpVal.exact_scale (hc.mono (by norm_num)), FpVal.exact_scale (hlo.mono (by norm_num))]
        exact fpAddVal_delivers rm hz hnan (hc.mono (by norm_num)) (hlo.mono (by norm_num))
      · rw [exact_add_nan rm (by rw [hz]; rfl), hsnan hnan, Bool.or_false]
        exact ⟨rfl, by rw [hsnan hx, hsnan hy]; rfl⟩

/-! ### Conversions (R100) -/

/-- An integer as a number: the word and the flags of FCVT from an integer, v other than 0. -/
theorem fcvt_integer_delivers (rm : BitVec 2) {v : Int} {q : BitVec 5} (hv : v ≠ 0) :
    FpDelivers rm (.num (v * 2 ^ (324 - q.toNat))) (fpOfInt rm v (-(q.toNat : Int))).1 (fpOfInt rm v (-(q.toNat : Int))).2 := by
  have h := fpOfInt_delivers rm hv (e := -(q.toNat : Int)) (by omega)
  rwa [show (-(q.toNat : Int) + 324).toNat = 324 - q.toNat by omega] at h

/-- FCVT from a signed and from an unsigned integer. -/
theorem fcvt_signed_delivers (rm : BitVec 2) (t : Bool) (q : BitVec 5) (a : Word) :
    FpDelivers rm (if a.toInt = 0 then .zero false else .num (a.toInt * 2 ^ (324 - q.toNat))) (fcvt rm 0 t q a).1 (fcvt rm 0 t q a).2 := by
  change FpDelivers rm _ (if a = 0 then (0, {}) else fpOfInt rm a.toInt (-(q.toNat : Int))).1
    (if a = 0 then (0, {}) else fpOfInt rm a.toInt (-(q.toNat : Int))).2
  by_cases ha : a = 0
  · rw [if_pos ha, if_pos (by rw [ha]; rfl)]
    exact ⟨rfl, rfl⟩
  · have hv : a.toInt ≠ 0 := fun h => ha (BitVec.eq_of_toInt_eq h)
    rw [if_neg ha, if_neg hv]
    exact fcvt_integer_delivers rm hv

theorem fcvt_unsigned_delivers (rm : BitVec 2) (t : Bool) (q : BitVec 5) (a : Word) :
    FpDelivers rm (if (a.toNat : Int) = 0 then .zero false else .num ((a.toNat : Int) * 2 ^ (324 - q.toNat))) (fcvt rm 1 t q a).1
      (fcvt rm 1 t q a).2 := by
  change FpDelivers rm _ (if a = 0 then (0, {}) else fpOfInt rm (a.toNat : Int) (-(q.toNat : Int))).1
    (if a = 0 then (0, {}) else fpOfInt rm (a.toNat : Int) (-(q.toNat : Int))).2
  by_cases ha : a = 0
  · rw [if_pos ha, if_pos (by rw [ha]; rfl)]
    exact ⟨rfl, rfl⟩
  · have hv : (a.toNat : Int) ≠ 0 := fun h => ha (BitVec.eq_of_toNat_eq (by exact_mod_cast h))
    rw [if_neg ha, if_neg hv]
    exact fcvt_integer_delivers rm hv

/-- The magnitude of an FP-to-integer conversion, and whether it is inexact. -/
def intMagnitude (rm : BitVec 2) (s : Bool) (m : Nat) (k : Int) : Nat × Bool :=
  if 0 ≤ k then (m * 2 ^ k.toNat, false) else roundShift rm s m (-k).toNat

/-- An FP-to-integer conversion into lo to hi: what `fcvt` computes for conversions 2 and 3. -/
def fpToIntOut (rm : BitVec 2) (q : Nat) (lo hi : Int) : FpVal → Word × FpFlags
  | .nan _ => (0, { inv := true })
  | .inf s => (BitVec.ofInt 32 (if s then lo else hi), { inv := true })
  | .zero _ => (0, {})
  | .fin s m e =>
    let v := signed s (intMagnitude rm s m (e + q)).1
    if v < lo then (BitVec.ofInt 32 lo, { inv := true })
    else if hi < v then (BitVec.ofInt 32 hi, { inv := true })
    else (BitVec.ofInt 32 v, { inx := (intMagnitude rm s m (e + q)).2 })

theorem fcvt_toSigned (rm : BitVec 2) (t : Bool) (q : BitVec 5) (a : Word) :
    fcvt rm 2 t q a = fpToIntOut (if t then 1#2 else rm) q.toNat (-2147483648) 2147483647 (fpVal a) := by
  unfold fcvt
  cases fpVal a <;> rfl

theorem fcvt_toUnsigned (rm : BitVec 2) (t : Bool) (q : BitVec 5) (a : Word) :
    fcvt rm 3 t q a = fpToIntOut (if t then 1#2 else rm) q.toNat 0 4294967295 (fpVal a) := by
  unfold fcvt
  cases fpVal a <;> rfl

/-- The magnitude rounds m 2^e 2^q, whose units are 2^-150, to an integer. -/
theorem intMagnitude_rounds (rm : BitVec 2) (s : Bool) (m : Nat) {e : Int} (he : -149 ≤ e) (q : Nat) :
    RoundsTo rm (signed s (m * 2 ^ (e + (150 : Nat)).toNat : Nat) * 2 ^ q) (signed s (intMagnitude rm s m (e + q)).1) (2 ^ 150)
    ∧ (intMagnitude rm s m (e + q)).2
      = decide (signed s (intMagnitude rm s m (e + q)).1 * 2 ^ 150 ≠ signed s (m * 2 ^ (e + (150 : Nat)).toNat : Nat) * 2 ^ q) := by
  have hx : signed s (m * 2 ^ (e + (150 : Nat)).toNat : Nat) * 2 ^ q = signed s m * 2 ^ ((e + (150 : Nat)).toNat + q) := by
    rw [Nat.cast_mul, Nat.cast_pow, signed_mul, mul_assoc, pow_add]
    rfl
  rw [hx, intMagnitude]
  generalize hE : (e + (150 : Nat)).toNat + q = E
  split
  · rename_i hk
    have hv : signed s (m * 2 ^ (e + q).toNat : Nat) * 2 ^ 150 = signed s m * 2 ^ E := by
      rw [Nat.cast_mul, Nat.cast_pow, signed_mul, mul_assoc, Nat.cast_ofNat, ← pow_add, show (e + q).toNat + 150 = E by omega]
    constructor
    · rw [← hv]
      exact roundsTo_exact rm _ (by positivity)
    · rw [hv]
      simp
  · rename_i hk
    have hu : (2 : Int) ^ 150 = 2 ^ (-(e + q)).toNat * 2 ^ E := by
      rw [← pow_add]
      congr 1
      omega
    rw [hu]
    refine ⟨(roundShift_roundsTo rm s m _).scale (by positivity), ?_⟩
    rw [roundShift_inexact, ← mul_assoc, ← signed_mul]
    refine decide_eq_decide.mpr (not_congr ?_)
    rw [mul_left_inj' (by positivity)]
    cases s <;> simp only [signed, Bool.false_eq_true, if_false, if_true, neg_inj] <;> norm_cast

/-- FCVT to an integer. -/
theorem fpToIntOut_delivers (rm : BitVec 2) (q : Nat) (lo hi : Int) {x : FpVal} (h : x.atLeast (-149)) :
    FpToInt rm q lo hi (x.exact 150) (fpToIntOut rm q lo hi x).1 (fpToIntOut rm q lo hi x).2 := by
  cases x
  case fin s m e =>
    obtain ⟨hround, hinx⟩ := intMagnitude_rounds rm s m h.2 q
    refine ⟨_, hround, ?_⟩
    rw [fpToIntOut, ← hinx]
    split
    · exact ⟨rfl, rfl⟩
    · split <;> exact ⟨rfl, rfl⟩
  all_goals exact ⟨rfl, rfl⟩

/-! ### The instructions -/

section
variable {s : State} {g : SprigId} {gd : BitVec 4} {opc : Byte} {op : BitVec 20}

theorem insn_fp (f : BitVec 2 → Word → Word → Word × FpFlags) (haux : fAux op = 0)
    (ho : (s.core.sprig g).open_ [fSrcA op, fSrcB op] [fDst op] = true) (h : s.ready g gd opc = true) :
    let x := s.core.sprig g
    let o := f (modeFprm x.mode) (x.rd (fSrcA op)) (x.rd (fSrcB op))
    insn g gd opc (bodyFp g op f) s = .next (s.put g (({ x.setD (fDst op) o.1 with sw := swFp x.sw o.2 } : Sprig).past 2)) := by
  refine insn_done h ?_
  rw [bodyFp, if_neg (not_not.mpr haux), Core.useD_open _ ho]

theorem exec_fmac (haux : fAux op = 0) (ho : (s.core.sprig g).open_ [fSrcA op, fSrcB op] [fDst op] = true)
    (hd : (s.core.sprig g).open_ [fDst op] [] = true) (h : s.ready g gd 0x43 = true) :
    let x := s.core.sprig g
    let o := fma (modeFprm x.mode) false (x.rd (fDst op)) (x.rd (fSrcA op)) (x.rd (fSrcB op))
    exec (.fmac g gd op) s = .next (s.put g (({ x.setD (fDst op) o.1 with sw := swFp x.sw o.2 } : Sprig).past 3)) := by
  have hopen : (s.core.sprig g).open_ [fDst op, fSrcA op, fSrcB op] [fDst op] = true := by
    simp only [Sprig.open_, List.cons_append, List.nil_append, List.all_cons, List.all_nil, Bool.and_true, Bool.and_eq_true] at ho hd ⊢
    tauto
  refine insn_done h ?_
  rw [bodyFmac, if_neg (not_not.mpr haux), Core.useD_open _ hopen]

theorem exec_fcvt (hb : fSrcB op = 0) (ho : (s.core.sprig g).open_ [fSrcA op] [fDst op] = true) (h : s.ready g gd 0x44 = true) :
    let x := s.core.sprig g
    let o := fcvt (modeFprm x.mode) ((fAux op).setWidth 2) ((fAux op).getLsbD 2) ((fAux op >>> 3).setWidth 5) (x.rd (fSrcA op))
    exec (.fcvt g gd op) s = .next (s.put g (({ x.setD (fDst op) o.1 with sw := swFp x.sw o.2 } : Sprig).past 2)) := by
  refine insn_done h ?_
  rw [bodyFcvt, if_neg (not_not.mpr hb), Core.useD_open _ ho]

end

/-- Setting a flag of SW, or not, keeps the flags that are set. -/
theorem setFlag_keeps {x sw : Word} (h : x &&& sw = sw) (b : Bool) (i : Nat) : (if b then putBit x i true else x) &&& sw = sw := by
  cases b
  · exact h
  · simp only [putBit, if_true]
    rw [BitVec.and_comm, BitVec.and_or_distrib_left, BitVec.and_comm sw x, h]
    ext j hj
    simp +contextual

theorem swFp_keeps (sw : Word) (f : FpFlags) : swFp sw f &&& sw = sw :=
  setFlag_keeps (setFlag_keeps (setFlag_keeps (setFlag_keeps BitVec.and_self f.inv bitFinv) f.ovf bitFovf) f.unf bitFunf) f.inx bitFinx

end Sys2Proof.Machine

open Sys2Proof Sys2Proof.Machine

/-- Settles O8: each instruction computes the exact result of its operands' numbers and rounds it once, by `fpRound` or `fpToIntOut`. -/
theorem floatResults : Obligations.FloatResults := by
  intro s g gd op x a b d m writes rounds q t conv
  refine ⟨fun haux ho => ⟨fun h => ?_, fun h => ?_, fun h => ?_, fun hd h => ?_⟩,
    fun hb ho h => ⟨fun hc => ?_, fun hc => ?_, fun hc => ?_, fun hc => ?_⟩, swFp_keeps⟩
  · exact ⟨_, _, fadd_delivers m a b, insn_fp fadd haux ho h⟩
  · exact ⟨_, _, fsub_delivers m a b, insn_fp fsub haux ho h⟩
  · exact ⟨_, _, fmul_delivers m a b, insn_fp fmul haux ho h⟩
  · exact ⟨_, _, fma_delivers m (x.rd d) a b, exec_fmac haux ho hd h⟩
  all_goals refine ⟨_, _, ?_, exec_fcvt hb ho h⟩
  · rw [show (fAux op).setWidth 2 = (0 : BitVec 2) from hc]
    exact fcvt_signed_delivers m _ _ a
  · rw [show (fAux op).setWidth 2 = (1 : BitVec 2) from hc]
    exact fcvt_unsigned_delivers m _ _ a
  · rw [show (fAux op).setWidth 2 = (2 : BitVec 2) from hc, fcvt_toSigned, fpRead_eq]
    exact fpToIntOut_delivers t q (-2147483648) 2147483647 (fpVal_atLeast a)
  · rw [show (fAux op).setWidth 2 = (3 : BitVec 2) from hc, fcvt_toUnsigned, fpRead_eq]
    exact fpToIntOut_delivers t q 0 4294967295 (fpVal_atLeast a)

end

section
/-!
PROOFS. Customer instructions of a sprig: D registers in a micro-op, an addition, and a routine that ends with its first word.
-/
namespace Sys2Proof.Machine

/-! ### Sums and flags (R95, R139) -/

/-- A signed sum is out of range just where wrapping changes it. -/
theorem overflows_sum (a b : Word) : overflows (a.toInt + b.toInt) = decide (a.toInt + b.toInt ≠ (a + b).toInt) := by
  have hlt := (a + b).toInt_lt
  have hle := (a + b).le_toInt
  rw [overflows, ← Bool.decide_or]
  refine decide_eq_decide.mpr ⟨fun hout heq => ?_, fun hne => ?_⟩
  · omega
  · by_contra hin
    exact hne (by rw [BitVec.toInt_add, Int.bmod_eq_of_le] <;> omega)

theorem aluAdd_wraps (a b : Word) : aluAdd a b false false
    = { r := a + b, c := some (decide (2 ^ 32 ≤ a.toNat + b.toNat)), v := some (decide (a.toInt + b.toInt ≠ (a + b).toInt)) } := by
  simp only [aluAdd_eq, overflows_sum, Bool.false_and, Bool.false_eq_true, if_false]

theorem microAlu_add (a b : Word) (cin sat : Bool) : microAlu 0#5 a b cin sat = some (aluAdd a b false sat) := rfl

/-- With all four flags named and no saturation, SW is an integer instruction's. -/
theorem swMasked_all (sw : Word) {o : AluOut} (h : o.clip = false) : swMasked sw o 0xF#4 false = swInt sw o := by
  obtain ⟨v, c, ov, clip⟩ := o
  cases h
  cases c <;> cases ov <;> rfl

/-! ### D registers before COMMIT (R132, R135, R146) -/

section
variable {r : Run} {e : Env} {i : BitVec 4} {sel : BitVec 5}

theorem Run.get_reg (hs : selD e sel = some i) (hb : (r.s e).board.getLsbD i.toNat = false) (ht : (r.s e).tags.getLsbD i.toNat = false)
    (hc : r.committed = false) : r.get e sel = .ok ((r.s e).rd i) := by
  simp [Run.get, hs, Run.readD, Run.touch, hb, ht, hc, bind, Except.bind]

/-- A routine's first pending write. -/
theorem Run.put_reg (hs : selD e sel = some i) (hb : (r.s e).board.getLsbD i.toNat = false) (hc : r.committed = false) (hp : r.pend = [])
    (v : Word) : r.put e sel v false = .ok (({ r with pend := [i.toNat] } : Run).upd e (·.setD i v)) := by
  have hadd : r.addPend i.toNat = .ok { r with pend := [i.toNat] } := by simp [Run.addPend, hc, hp]
  simp [Run.put, hs, Run.writeD, Run.touch, hb, hc, hadd, bind, Except.bind, Sprig.setDP, Sprig.setD]

end

theorem Sprig.open_two {x : Sprig} {i j d : BitVec 4} (h : x.open_ [i, j] [d] = true) :
    x.board.getLsbD i.toNat = false ∧ x.board.getLsbD j.toNat = false ∧ x.board.getLsbD d.toNat = false
    ∧ x.tags.getLsbD i.toNat = false ∧ x.tags.getLsbD j.toNat = false := by
  simpa [Sprig.open_, and_assoc] using h

/-! ### The addition (R134, R139) -/

/-- The microword ALU ADD of SRCA and SRCB into DST, which updates Z, N, C and V, commits and ends. -/
def sumWord : Word := 0x2010C7F3#32

/-- The sprig with an ALU result in register d, in SW and in the result conditions. -/
def Sprig.microResult (x : Sprig) (d : BitVec 4) (o : AluOut) : Sprig := { x.result d o with micro := x.micro.result o }

/-- An ALU word's three writes: the register, the result conditions and SW. -/
theorem Run.upd_microResult (r : Run) (e : Env) (d : BitVec 4) {o : AluOut} (h : o.clip = false) : let r' := r.upd e (·.setD d o.r)
    (r'.micro e fun m => m.result o).setSw e (swMasked (r'.s e).sw o 0xF#4 false)
      = { r with c := r.c.setSprig e.g ((r.s e).microResult d o) } := by
  intro r'
  simp only [swMasked_all _ h, r', Run.micro, Run.setSw, Run.upd, Run.s, Core.modSprig_eq r.c, Core.modSprig_setSprig, Core.sprig_setSprig]
  rfl

theorem sumWord_fields : uf sumWord 28 4 = 2#4 ∧ uf sumWord 23 5 = 0#5 ∧ uf sumWord 18 5 = 4#5 ∧ uf sumWord 13 5 = 6#5 ∧ uf sumWord 8 5 = 7#5
    ∧ uf sumWord 4 4 = 0xF#4 ∧ sumWord.getLsbD 3 = false ∧ sumWord.getLsbD 2 = false := by decide

theorem sumWord_ends : sumWord.getLsbD 0 = true := by decide

/-- A routine's first word adds two open registers. -/
theorem Run.word_sum {r : Run} {e : Env} (ho : (r.s e).open_ [e.srcA, e.srcB] [e.dst] = true) (hc : r.committed = false)
    (hp : r.pend = []) (ua : BitVec 12) (atC : Bool) : r.word e sumWord ua atC
      = .ok ({ r with
          c := r.c.setSprig e.g ((r.s e).microResult e.dst (aluAdd ((r.s e).rd e.srcA) ((r.s e).rd e.srcB) false false))
          pend := [e.dst.toNat] }, none) := by
  obtain ⟨hba, hbb, hbd, hta, htb⟩ := Sprig.open_two ho
  obtain ⟨hclass, haop, hdsel, hasel, hbsel, hmask, hsat, hss⟩ := sumWord_fields
  have ha : r.get e 6#5 = .ok ((r.s e).rd e.srcA) := Run.get_reg rfl hba hta hc
  have hb : r.get e 7#5 = .ok ((r.s e).rd e.srcB) := Run.get_reg rfl hbb htb hc
  have hd (v : Word) : r.put e 4#5 v false = .ok (({ r with pend := [e.dst.toNat] } : Run).upd e (·.setD e.dst v)) :=
    Run.put_reg rfl hbd hc hp v
  have hclip : (aluAdd ((r.s e).rd e.srcA) ((r.s e).rd e.srcB) false false).clip = false := by rw [aluAdd_wraps]
  have hone : oneOperand 0#5 = false := rfl
  have hclassAlu : r.word e sumWord ua atC = r.alu e sumWord := by
    rw [Run.word, hclass]
    rfl
  rw [hclassAlu]
  simp only [Run.alu, stay, bind, Except.bind, haop, hdsel, hasel, hbsel, hmask, hsat, hss, ha, hb, hone, microAlu_add, hd, Bool.false_and,
    Bool.false_eq_true, if_false, Run.upd_microResult _ _ _ hclip]
  rfl

/-! ### A routine of one word (R131, R137, R146, R156) -/

/-- A word that ends the routine before any other has committed is its COMMIT. -/
theorem Run.go_ends {r r' : Run} {e : Env} {w : Word} {ua : BitVec 12} {jump : Option (BitVec 12)} (n : Nat)
    (hw : r.c.word (uwordAddr e.g ua) = w) (hm : r.c.csMark (uwordAddr e.g ua) = .ok) (hend : w.getLsbD 0 = true)
    (hc : r.committed = false) (hsb : (e.sb.any fun i => (r.s e).board.getLsbD i.toNat) = false)
    (hrun : r.word e w ua true = .ok (r', jump)) :
    Run.go e (n + 1) none ua r = .ok { r' with committed := true, steps := r'.steps + 1 } := by
  have hlog : ({ r with c := r.c.logCs e.g (uwordAddr e.g ua) (ua.setWidth 16) } : Run) = r := by simp [Core.logCs, hm]
  have hfresh : ¬ r.committed = true := by simp [hc]
  simp only [Run.go, hw, hm, hlog, hend, if_neg hfresh, hsb, hrun, Bool.or_true, Bool.and_false, Bool.false_eq_true, reduceCtorEq,
    if_false, if_true]

section
variable {g : SprigId} {gd : BitVec 4} {opc : Byte} {op : BitVec 20} {c : Core}

/-- What a customer instruction's routine runs with. -/
def Core.customerEnv (c : Core) (g : SprigId) (gd : BitVec 4) (opc : Byte) (op : BitVec 20) : Env :=
  ⟨g, gd ++ opc ++ op, sbRegs (gd ++ opc ++ op) (uf (c.word (storeBase g + 0x4000 + 4 * opc.toNat)) 20 6)⟩

theorem Core.customerEnv_op : (c.customerEnv g gd opc op).op = op := BitVec.setWidth_append_eq_right

/-- An SB field of 7 selects the registers of IR's three fields (R132). -/
theorem Core.customerEnv_sb (h : uf (c.word (storeBase g + 0x4000 + 4 * opc.toNat)) 20 6 = 7#6) :
    (c.customerEnv g gd opc op).sb = [fDst op, fSrcA op, fSrcB op] := by
  have hop : (gd ++ opc ++ op).setWidth 20 = op := BitVec.setWidth_append_eq_right
  rw [Core.customerEnv, h, sbRegs, hop]
  rfl

/-- The sprig as a routine finds it (R138). -/
def Sprig.freshMicro (x : Sprig) : Sprig := { x with micro := x.micro.fresh }

/-- With no interrupt standing, a routine's end is the instruction's, where it neither requests a vector nor halts. -/
theorem bodyCustomer_ends {r : Run} {y : Sprig} (hrec : c.recognise g = none)
    (hgo : Run.go (c.customerEnv g gd opc op) 4294967296 none (c.entryAddr g opc) { c := c.modSprig g Sprig.freshMicro } = .ok r)
    (hy : r.c = c.setSprig g y) (hv : r.vreq = none) (hh : r.halt = false) :
    bodyCustomer g gd opc op c = .commit (c.setSprig g y) { steps := r.steps, npc := r.next, mode := r.mode, now := r.now } := by
  have hentry : uf (c.word (storeBase g + 0x4000 + 4 * opc.toNat)) 0 12 = c.entryAddr g opc := by
    rw [uf, BitVec.ushiftRight_zero, Core.entryAddr]
  simp only [Core.customerEnv, Core.modSprig, Sprig.freshMicro] at hgo
  simp only [bodyCustomer, hrec, hentry, Option.isSome_none, Bool.false_eq_true, if_false, Core.modSprig, hgo, hy, hv, hh,
    Core.sprig_setSprig, Core.setSprig_setSprig]

theorem Core.word_setSprig (c : Core) (g : SprigId) (x : Sprig) (a : Nat) : (c.setSprig g x).word a = c.word a := Core.word_congr rfl a

theorem Core.csMark_setSprig (c : Core) (g : SprigId) (x : Sprig) (a : Nat) : (c.setSprig g x).csMark a = c.csMark a := rfl

/-- A customer instruction whose routine is the addition commits with ADD's result. -/
theorem bodyCustomer_sum (hrec : c.recognise g = none)
    (hw : c.word (uwordAddr g (c.entryAddr g opc)) = sumWord) (hm : c.csMark (uwordAddr g (c.entryAddr g opc)) = .ok)
    (hsb : uf (c.word (storeBase g + 0x4000 + 4 * opc.toNat)) 20 6 = 7#6)
    (ho : (c.sprig g).open_ [fSrcA op, fSrcB op] [fDst op] = true) : let x := c.sprig g
    bodyCustomer g gd opc op c = c.done g
      (x.freshMicro.microResult (fDst op) (aluAdd (x.rd (fSrcA op)) (x.rd (fSrcB op)) false false)) 1 := by
  intro x
  let e := c.customerEnv g gd opc op
  let r : Run := { c := c.modSprig g Sprig.freshMicro }
  have hs : r.s e = x.freshMicro := Core.sprig_setSprig ..
  have hA : e.srcA = fSrcA op := congrArg fSrcA Core.customerEnv_op
  have hB : e.srcB = fSrcB op := congrArg fSrcB Core.customerEnv_op
  have hD : e.dst = fDst op := congrArg fDst Core.customerEnv_op
  have hword := Run.word_sum (r := r) (e := e) (by rw [hs, hA, hB, hD]; exact ho) rfl rfl (c.entryAddr g opc) true
  rw [hs, hA, hB, hD] at hword
  obtain ⟨hba, hbb, hbd, -, -⟩ := Sprig.open_two ho
  have hfree : (e.sb.any fun i => (r.s e).board.getLsbD i.toNat) = false := by
    rw [hs, Core.customerEnv_sb hsb]
    simp [Sprig.freshMicro, x, hba, hbb, hbd]
  have hgo := Run.go_ends (r := r) (e := e) (ua := c.entryAddr g opc) 4294967295 ((Core.word_setSprig ..).trans hw)
    ((Core.csMark_setSprig ..).trans hm) sumWord_ends rfl hfree hword
  exact bodyCustomer_ends hrec hgo (Core.setSprig_setSprig ..) rfl rfl

/-- No row of chapter 3 stands in the customer slots (R83). -/
theorem vendorFmt_customer : ∀ k : BitVec 5, (vendorFmt (0xE0 + k.setWidth 8)).isNone = true := by decide

theorem exec_customerInstruction (h : (vendorFmt opc).isNone = true) (s : State) :
    exec (.customerInstruction g gd opc op) s = insn g gd opc (bodyCustomer g gd opc op) s := if_pos h

end

end Sys2Proof.Machine

open Sys2Proof Sys2Proof.Machine

/-- Settles O18: `bodyCustomer_sum` for the routine's run, `aluAdd_wraps` for the flags. -/
theorem customerInstructionRuns : Obligations.CustomerInstructionRuns := by
  intro s g gd k op c x opc entry ua sum out carry hrec hready hw hm hsb ho
  refine ⟨_, (exec_customerInstruction (vendorFmt_customer k) s).trans (insn_done hready (bodyCustomer_sum hrec hw hm hsb ho)), ?_⟩
  simp only [State.put_core, Core.sprig_setSprig, aluAdd_wraps, true_and]
  exact ⟨Sprig.rd_setD_self .., rfl, rfl, rfl, rfl, rfl, rfl, rfl, rfl, rfl, rfl, fun j hj => Sprig.rd_setD_ne _ _ hj⟩

end

section
/-!
PROOFS. Accesses at the banks of a scratchpad: a round's grant, what the granted access delivers, and the second ports.
-/
namespace Sys2Proof.Machine

/-! ### Lease slots (R173) -/

/-- A free slot, and one of another region, has no say in an access. -/
theorem Lease.gate_idle {x : Lease} {who : Byte} {depth : Option Nat} {r : BitVec 13} (h : x.region ≠ r ∨ x.st = .free) :
    x.gate who depth r = (.pass, x) := by
  unfold Lease.gate
  rcases h with h | h
  · exact if_pos h
  · rw [h]
    split <;> rfl

section
variable {c : Core} {b : BunchId} {off : BitVec 21} {who : Byte} {depth : Option Nat}

theorem Core.lease_empty (h : c.leases = []) (l : BitVec 2) : c.lease b l = Lease.reset := by rw [Core.lease, h, Tbl.get_nil]

theorem Core.leaseGate_idle (h : ∀ l : BitVec 2, (c.lease b l).gate who depth ((off >>> 8).setWidth 13) = (.pass, c.lease b l)) :
    c.leaseGate b who depth off = (.pass, c) := by
  simp [Core.leaseGate, List.range, List.range.loop, h]

theorem Core.leaseGate_empty (h : c.leases = []) : c.leaseGate b who depth off = (.pass, c) :=
  Core.leaseGate_idle fun l => Lease.gate_idle (.inr (by rw [Core.lease_empty h l]; rfl))

theorem Core.leaseBusy_empty (h : c.leases = []) : c.leaseBusy b off = false := by
  simp [Core.leaseBusy, Core.lease_empty h, Lease.reset]

end

/-! ### A round's grant (R167, R168) -/

@[simp] theorem Core.arb_setArb (c : Core) (b : BunchId) (k : BitVec 4) (x : BankArb) : (c.setArb b k x).arb b k = x := by
  simp only [Core.arb, Core.setArb, Tbl.get_set_self]

@[simp] theorem Core.setArb_rest (c : Core) (b : BunchId) (k : BitVec 4) (x : BankArb) : let d := c.setArb b k x
    d.mem = c.mem ∧ d.sprigs = c.sprigs ∧ d.leases = c.leases ∧ d.ecc = c.ecc ∧ d.parity = c.parity ∧ d.power = c.power := by
  repeat' constructor

/-- A bank whose record says nothing: no round holds it and none was granted before. -/
structure BankArb.Idle (x : BankArb) : Prop where
  hold : x.hold = 0
  last : x.last = none
  behind : x.behind = []

theorem BankArb.eligible_idle {x : BankArb} (h : x.Idle) (reqs : List ScrReq) (r : ScrReq) : x.eligible reqs r = true := by
  simp [BankArb.eligible, h.last, h.behind]

theorem BankArb.pick_single {x : BankArb} (h : x.Idle) (r : ScrReq) : x.pick [r] = some r := by
  simp [BankArb.pick, BankArb.eligible_idle h]

/-- Of two requests, the one of higher priority. -/
theorem BankArb.pick_prior {x : BankArb} (h : x.Idle) {q r : ScrReq} (hr : reqRank r.who < reqRank q.who) : x.pick [q, r] = some r := by
  simp [BankArb.pick, BankArb.eligible_idle h, hr]

theorem reqRank_sprig {w : BitVec 6} (h : w.toNat < 0x20) : portOf w = w ∧ reqRank w = 4 + w.toNat := by
  have hp : portOf w = w := if_neg (by bv_omega)
  refine ⟨hp, ?_⟩
  rw [reqRank, hp]
  split <;> omega

section
variable {c : Core} {b : BunchId} {bank : BitVec 4}

theorem Core.presented_single {r : ScrReq} (h : c.standsAt b bank r = true) : c.presented b bank [r] = [r] := by
  simp [Core.presented, h]

theorem Core.presented_two {q r : ScrReq} (hq : c.standsAt b bank q = true) (hr : c.standsAt b bank r = true) (hne : q.who ≠ r.who) :
    c.presented b bank [q, r] = [q, r] := by
  simp [Core.presented, hq, hr, hne]

theorem Core.round_holds {reqs : List ScrReq} {e : EccErr} (h : (c.arb b bank).hold = 1) :
    c.round b bank reqs e = c.setArb b bank { c.arb b bank with hold := 0, holdWord := none } := by
  simp [Core.round, h]

/-- A round grants a request of a port, or of a sprig's X, among those presented. -/
theorem Core.round_grants {reqs l : List ScrReq} {r : ScrReq} (hh : (c.arb b bank).hold = 0) (hp : c.presented b bank reqs = l)
    (hw : (c.arb b bank).pick l = some r) (hx : r.src = .x) :
    c.round b bank reqs .ok = (c.setArb b bank ((c.arb b bank).granted l r)).grantReq b r := by
  have hwin : c.winner b bank reqs = some r := by
    rw [Core.winner, if_neg (by omega), hp, hw]
  rw [Core.round, if_neg (by omega), hwin]
  dsimp only
  rw [hx, hp]
  rfl

theorem Core.winner_empty : c.winner b bank [] = none := ite_self none

/-- A round in which nobody asks. -/
theorem Core.round_empty {e : EccErr} (h : (c.arb b bank).hold = 0) :
    c.round b bank [] e = c.setArb b bank { c.arb b bank with last := none } := by
  rw [Core.round, if_neg (by omega), Core.winner_empty]

/-! ### What a granted access delivers (R161, R163, R164, R172) -/

/-- The bank's record after it served an access. -/
def Served.record (v : Served) (b : BunchId) (r : ScrReq) : Core :=
  v.c.setArb b (offBank r.off) { v.c.arb b (offBank r.off) with
    out := v.out, outPoison := v.poison, hold := if v.second then 1 else 0
    holdWord := if isAtomicKind r.kind then some (offWord r.off) else none }

theorem Core.grantReq_empty {r : ScrReq} (h : c.leases = []) : c.grantReq b r = (c.serve b r).record b r := by
  rw [Core.grantReq]
  dsimp only
  rw [List.foldl_fixed' fun p => Core.leaseGate_empty (off := p.1) h]
  rfl

/-- An ECC word has one mark. -/
theorem Core.mark_congr {a a' : Nat} (h : a / 8 = a' / 8) : c.mark a = c.mark a' := by rw [Core.mark, Core.mark, h]

theorem Core.mark_of_ecc {d : Core} {a : Nat} (h : c.ecc = d.ecc) : c.mark a = d.mark a := by rw [Core.mark, Core.mark, h]

theorem scratchBase_mod (b : BunchId) : scratchBase b % 0x200000 = 0 := by unfold scratchBase; omega

/-- An aligned word lies in one ECC word. -/
theorem Core.readScratch_ok {off : BitVec 21} {who : Byte} (h4 : off.toNat % 4 = 0) (hm : c.mark (scratchBase b + off.toNat) = .ok) :
    c.readScratch b off 4 who = (c.bytes (scratchBase b + off.toNat) 4, false, c) := by
  have hlt := off.isLt
  have hb := scratchBase_mod b
  have hone : (off.toNat + 4 - 1) / 8 + 1 - off.toNat / 8 = 1 := by omega
  have hw : (BitVec.ofNat 21 ((off.toNat / 8 + 0) * 8)).toNat = off.toNat / 8 * 8 := by
    rw [BitVec.toNat_ofNat]; omega
  have hr : c.readEcc b (BitVec.ofNat 21 ((off.toNat / 8 + 0) * 8)) who = (false, c) := by
    refine Core.readEcc_ok ((Core.mark_congr ?_).trans hm)
    omega
  have hs : c.readEccs b off.toNat 4 who = ([false], c) := by
    rw [Core.readEccs, hone]
    simp only [List.range, List.range.loop, List.foldl_cons, List.foldl_nil, hr, List.nil_append]
  rw [Core.readScratch, hs]
  rfl

/-- A store of a whole word, or less, into a word that reads without an error leaves it so. -/
theorem Core.storeEcc_mark {a : Nat} {bs : List Byte} (h4 : a % 4 = 0) (hl : bs.length = 4) (hm : c.mark a = .ok) :
    (c.storeEcc a bs false).mark a = .ok := by
  have hone : (a + bs.length - 1) / 8 + 1 - a / 8 = 1 := by omega
  have hw : (c.setBytes a bs).mark ((a / 8 + 0) * 8) = .ok :=
    (Core.mark_congr (by omega)).trans ((Core.setBytes_keeps (·.mark a) (fun _ _ _ => rfl) c a bs).trans hm)
  rw [Core.storeEcc]
  dsimp only
  rw [hone]
  simp only [List.range, List.range.loop, List.foldl_cons, List.foldl_nil, hw, Bool.false_eq_true, if_false, ite_self]
  exact (Core.mark_congr (by omega)).trans (Core.mark_setMark ..)

end

theorem ScratchFree.sprigs : ScratchFree Core.sprigs where
  byte _ _ _ := rfl
  mark _ _ _ := rfl
  lease _ _ _ _ := rfl
  arb _ _ _ _ := rfl
  log c e := by simp

/-! ### What an access is served with, where its word reads without an error -/

section
variable {c : Core} {b : BunchId} {r : ScrReq}

theorem Core.serve_read (hk : r.kind = .read) (hlen : r.len = 4) (h4 : r.off.toNat % 4 = 0) (hm : c.mark (scratchBase b + r.off.toNat) = .ok) :
    c.serve b r = ⟨c, c.bytes (scratchBase b + r.off.toNat) 4, false, false⟩ := by
  rw [Core.serve, hk]
  dsimp only
  rw [hlen, show ((4 : BitVec 6)).toNat = 4 from rfl, Core.readScratch_ok h4 hm]

theorem Core.serve_write {bs : List Byte} {p : Bool} (hk : r.kind = .write bs p) (hp : portOf r.who ≠ 0x22 ∨ inPages r.off = false) :
    c.serve b r = ⟨c.storeEcc (scratchBase b + r.off.toNat) bs p, [], false, false⟩ := by
  rw [Core.serve, hk]
  dsimp only
  rw [if_neg]
  simpa only [Bool.and_eq_true, decide_eq_true_eq, not_and_or, Bool.not_eq_true] using hp

theorem Core.serve_atomic {v : Word} (hk : r.kind = .aadd v ∨ r.kind = .aswp v) (hm : c.mark (scratchBase b + r.off.toNat) = .ok) :
    let old := c.word (scratchBase b + r.off.toNat)
    c.serve b r = ⟨c.bankWrite b r.off (bytesOf (if r.kind = .aadd v then old + v else v) 4), bytesOf old 4, false, true⟩ := by
  rcases hk with hk | hk <;> rw [Core.serve, hk] <;> dsimp only <;> rw [Core.performAtomic_ok hm] <;> simp

theorem isAtomicKind_atomic {v : Word} (hk : r.kind = .aadd v ∨ r.kind = .aswp v) : isAtomicKind r.kind = true := by
  rcases hk with hk | hk <;> rw [hk] <;> rfl

theorem reqParts_atomic {v : Word} (hk : r.kind = .aadd v ∨ r.kind = .aswp v) : reqParts r = [(r.off, 4)] := by
  rcases hk with hk | hk <;> rw [reqParts, hk]

theorem reqParts_read (hk : r.kind = .read) (hlen : r.len = 4) : reqParts r = [(r.off, 4)] := by rw [reqParts, hk, hlen]; rfl

theorem reqParts_write {bs : List Byte} {p : Bool} (hk : r.kind = .write bs p) (hlen : bs.length = 4) : reqParts r = [(r.off, 4)] := by
  rw [reqParts, hk, ← hlen]

/-- An X access that finds no store of its sprig before it. -/
def Core.unhindered (c : Core) (b : BunchId) (r : ScrReq) : Prop :=
  r.src = .x ∧ (0x20 ≤ r.who.toNat ∨ (c.sprig (sprigAt b (r.who.setWidth 5))).buf = [])

/-- It stands at its word's bank. -/
theorem Core.unhindered.standsAt (h : c.unhindered b r) (hp : reqParts r = [(r.off, 4)]) (h4 : r.off.toNat % 4 = 0) :
    c.standsAt b (offBank r.off) r = true := by
  obtain ⟨hx, hb⟩ := h
  have hrow : r.off.toNat % 32 + 4 ≤ 32 := by omega
  rw [Core.standsAt, hp, hx]
  rcases hb with hb | hb
  · simp [hrow, hb]
  · simp [hrow, hb, forwarded]

end

@[simp] theorem Served.record_rest (v : Served) (b : BunchId) (r : ScrReq) : let d := v.record b r
    d.mem = v.c.mem ∧ d.sprigs = v.c.sprigs ∧ d.ecc = v.c.ecc := ⟨rfl, rfl, rfl⟩

theorem Served.record_arb (v : Served) (b : BunchId) (r : ScrReq) : (v.record b r).arb b (offBank r.off)
    = { v.c.arb b (offBank r.off) with
        out := v.out, outPoison := v.poison, hold := if v.second then 1 else 0
        holdWord := if isAtomicKind r.kind then some (offWord r.off) else none } := Core.arb_setArb ..

/-- The requesters that wait while r is granted. -/
theorem BankArb.granted_prior {x : BankArb} (h : x.Idle) {q r : ScrReq} (hr : portOf r.who = r.who) (hq : portOf q.who = q.who)
    (hne : q.who ≠ r.who) : (x.granted [q, r] r).last = some r.who ∧ (x.granted [q, r] r).behind = [(r.who, q.who)] := by
  simp [BankArb.granted, h.behind, hr, hq, hne]

/-! ### One round at a bank -/

theorem exec_scratchAccess {s : State} {b : BunchId} {bank : BitVec 4} {reqs : List ScrReq} {e : EccErr} (ha : s.core.asleep b = false) :
    exec (.scratchAccess b bank reqs e) s = .next (s.on ((s.core.touch b).round b bank reqs e)) :=
  congrArg (fun c => Host.Outcome.next (s.on c)) (Core.reach_touch _ ha)

theorem exec_scratchAccess_holds {s : State} {b : BunchId} {bank : BitVec 4} {reqs : List ScrReq} {e : EccErr} (ha : s.core.asleep b = false)
    (hh : (s.core.arb b bank).hold = 1) : Runs (exec (.scratchAccess b bank reqs e) s) fun t =>
      (t.core.arb b bank).hold = 0 ∧ t.core.mem = s.core.mem ∧ (t.core.arb b bank).last = (s.core.arb b bank).last := by
  refine ⟨_, exec_scratchAccess ha, ?_⟩
  simp only [State.on_core, Core.round_holds (c := s.core.touch b) hh, Core.arb_setArb]
  exact ⟨trivial, rfl, rfl⟩

section
variable {s : State} {b : BunchId} {r : ScrReq} (ha : s.core.asleep b = false) (hl : s.core.leases = []) (h4 : r.off.toNat % 4 = 0)
  (hu : s.core.unhindered b r) (hi : (s.core.arb b (offBank r.off)).Idle)
include ha hl hu hi

/-- The core in which a round's grant to r, among the requests l, stands. -/
def Core.grants (c : Core) (b : BunchId) (l : List ScrReq) (r : ScrReq) : Core :=
  (c.touch b).setArb b (offBank r.off) ((c.arb b (offBank r.off)).granted l r)

theorem exec_scratchAccess_grants {l : List ScrReq} (hp : (s.core.touch b).presented b (offBank r.off) l = l)
    (hw : (s.core.arb b (offBank r.off)).pick l = some r) :
    exec (.scratchAccess b (offBank r.off) l .ok) s = .next (s.on (((s.core.grants b l r).serve b r).record b r)) := by
  rw [exec_scratchAccess ha, Core.round_grants (c := s.core.touch b) hi.hold hp hw hu.1]
  exact congrArg (fun c => Host.Outcome.next (s.on c)) (Core.grantReq_empty (c := s.core.grants b l r) hl)

include h4

/-- The one request that stands at an idle bank is granted and served. -/
theorem exec_scratchAccess_alone (hp : reqParts r = [(r.off, 4)]) : exec (.scratchAccess b (offBank r.off) [r] .ok) s
    = .next (s.on (((s.core.grants b [r] r).serve b r).record b r)) :=
  exec_scratchAccess_grants ha hl hu hi (Core.presented_single (Core.unhindered.standsAt (c := s.core.touch b) hu hp h4)) (BankArb.pick_single hi r)

/-- Two sprigs ask for one word: the first of them is granted, and the other is noted as waiting. -/
theorem exec_scratchAccess_prior {q : ScrReq} (hq : s.core.unhindered b q) (hpr : reqParts r = [(r.off, 4)]) (hpq : reqParts q = [(q.off, 4)])
    (ho : q.off = r.off) (hlt : r.who.toNat < q.who.toNat) (hlast : q.who.toNat < 0x20) :
    exec (.scratchAccess b (offBank r.off) [q, r] .ok) s = .next (s.on (((s.core.grants b [q, r] r).serve b r).record b r)) := by
  have hr := Core.unhindered.standsAt (c := s.core.touch b) hu hpr h4
  have hq := Core.unhindered.standsAt (c := s.core.touch b) hq hpq (ho ▸ h4)
  have hne : q.who ≠ r.who := fun h => by rw [h] at hlt; exact lt_irrefl _ hlt
  refine exec_scratchAccess_grants ha hl hu hi (Core.presented_two (ho ▸ hq) hr hne) (BankArb.pick_prior hi ?_)
  rw [(reqRank_sprig hlast).2, (reqRank_sprig (hlt.trans hlast)).2]
  omega

variable (hm : s.core.mark (scratchBase b + r.off.toNat) = .ok)
include hm

theorem exec_scratchAccess_read (hk : r.kind = .read) (hlen : r.len = 4) : let c := s.core
    let bank := offBank r.off
    let a := scratchBase b + r.off.toNat
    Runs (exec (.scratchAccess b bank [r] .ok) s) fun t =>
      (t.core.arb b bank).out = c.bytes a 4 ∧ (t.core.arb b bank).outPoison = false ∧ t.core.mem = c.mem ∧ t.core.sprigs = c.sprigs
      ∧ (t.core.arb b bank).last = some (portOf r.who) ∧ (t.core.arb b bank).hold = 0 := by
  intro c bank a
  have hserve := Core.serve_read (c := c.grants b [r] r) hk hlen h4 hm
  refine ⟨_, (exec_scratchAccess_alone ha hl h4 hu hi (reqParts_read hk hlen)).trans (by rw [hserve]), ?_⟩
  simp only [State.on_core, bank, Served.record_arb, Served.record_rest]
  exact ⟨Core.bytes_congr rfl _ _, trivial, rfl, rfl, congrArg BankArb.last (Core.arb_setArb ..), rfl⟩

theorem exec_scratchAccess_write {bs : List Byte} (hk : r.kind = .write bs false) (hlen : bs.length = 4) (hport : portOf r.who ≠ 0x22) :
    let a := scratchBase b + r.off.toNat
    Runs (exec (.scratchAccess b (offBank r.off) [r] .ok) s) fun t =>
      (∀ k v, bs[k]? = some v → t.core.byte (a + k) = v) ∧ SameBytesBut s.core t.core a 4 ∧ t.core.mark a = .ok
      ∧ t.core.sprigs = s.core.sprigs := by
  intro a
  have hserve := Core.serve_write (c := s.core.grants b [r] r) (b := b) hk (.inl hport)
  refine ⟨_, (exec_scratchAccess_alone ha hl h4 hu hi (reqParts_write hk hlen)).trans (by rw [hserve]), ?_⟩
  have hb := scratchBase_mod b
  simp only [State.on_core]
  obtain ⟨hout, hin⟩ := Core.stored_of_mem (c := s.core) (a := a) (bs := bs)
    (d := Served.record ⟨(s.core.grants b [r] r).storeEcc a bs false, [], false, false⟩ b r) (by
      simp only [Served.record_rest, Core.storeEcc_mem]
      exact Core.setBytes_mem_congr (by simp [Core.grants]) ..)
  rw [hlen] at hout
  refine ⟨hin, hout, ?_, ?_⟩
  · rw [Core.mark_of_ecc (Served.record_rest ..).2.2]
    exact Core.storeEcc_mark (c := s.core.grants b [r] r) (by omega) hlen hm
  · rw [(Served.record_rest ..).2.1]
    exact ScratchFree.sprigs.storeEcc (s.core.grants b [r] r) a bs false

theorem exec_scratchAccess_atomic {v : Word} (hk : r.kind = .aadd v ∨ r.kind = .aswp v) : let c := s.core
    let bank := offBank r.off
    let a := scratchBase b + r.off.toNat
    Runs (exec (.scratchAccess b bank [r] .ok) s) fun t =>
      t.core.word a = (if r.kind = .aadd v then c.word a + v else v) ∧ wordOf (t.core.arb b bank).out = c.word a
      ∧ (t.core.arb b bank).hold = 1 ∧ (t.core.arb b bank).holdWord = some (offWord r.off) ∧ SameBytesBut c t.core a 4 := by
  intro c bank a
  have hserve := Core.serve_atomic (c := c.grants b [r] r) hk hm
  have hold : (c.grants b [r] r).word (scratchBase b + r.off.toNat) = c.word a := Core.word_congr rfl a
  refine ⟨_, (exec_scratchAccess_alone ha hl h4 hu hi (reqParts_atomic hk)).trans (by rw [hserve]), ?_⟩
  simp only [State.on_core, bank, Served.record_arb, isAtomicKind_atomic hk, if_true, wordOf_bytesOf, hold, true_and]
  have hmem (w : Word) : ((c.grants b [r] r).bankWrite b r.off (bytesOf w 4)).mem = (c.setBytes a (bytesOf w 4)).mem :=
    (Core.storeEcc_mem ..).trans (Core.setBytes_mem_congr (by simp [Core.grants]) ..)
  refine ⟨?_, ?_⟩
  · rw [Core.word_congr (Served.record_rest ..).1, Core.word_congr (hmem _), Core.word_setBytes_self]
  · intro n hn
    rw [Core.byte_congr (Served.record_rest ..).1, Core.byte_congr (hmem _), Core.setBytes_same_but _ _ _ _ (by rwa [bytesOf_length])]

end

/-! ### A corrected word (R163) -/

theorem exec_scrCe_rewrites {s : State} {b : BunchId} {w : BitVec 18} : let c := s.core
    let bank : BitVec 4 := (w >>> 14).setWidth 4
    let a := scratchBase b + 8 * w.toNat
    w ∈ (c.arb b bank).ceWords → c.mark a = .single → exec (.scrCe b w) s = .next (s.on
      ((c.setArb b bank { c.arb b bank with ceWords := (c.arb b bank).ceWords.erase w }).setMark a .ok)) := by
  intro c bank a hw hm
  exact congrArg (fun c => Host.Outcome.next (s.on c)) ((if_pos hw).trans (if_pos hm))

/-! ### Port B of the mailbox (R170, R171) -/

section
variable {s : State} {b : BunchId} {r : ScrReq} (ha : s.core.asleep b = false) (hl : s.core.leases = []) (hh : (s.core.arb b 15).hold = 0)
  (ho : 0x1F8000 ≤ r.off.toNat) (hr : r.who = 0x22)
include ha hl hh ho hr

/-- Port B serves the access at once, and port A's round, in which nobody asks, follows. -/
theorem exec_mailboxPortBAccess {d : Core} (hd : (s.core.touch b).servePortB b r = d) (hdh : (d.arb b 15).hold = 0) :
    exec (.mailboxPortBAccess b r []) s = .next (s.on (d.setArb b 15 { d.arb b 15 with last := none })) := by
  have hwin : (s.core.touch b).winner b 15 [] = none := Core.winner_empty
  have hfree : (s.core.touch b).portBWaits b r none = false := by
    have hbusy : (s.core.touch b).leaseBusy b r.off = false := Core.leaseBusy_empty hl
    have hhold : ((s.core.touch b).arb b 15).hold = 0 := hh
    rw [Core.portBWaits, hbusy, hhold, hr]
    simp [isPortB, inMailbox, ho]
  refine congrArg (fun c => Host.Outcome.next (s.on c)) ((Core.reach_touch _ ha).trans ?_)
  dsimp only
  rw [hwin, hfree, if_neg (by decide), Core.leaseGate_empty (c := s.core.touch b) hl]
  dsimp only
  rw [hd, Core.round_empty hdh]

theorem exec_mailboxPortBAccess_read (hk : r.kind = .read) (hlen : r.len = 4) (h4 : r.off.toNat % 4 = 0)
    (hm : s.core.mark (scratchBase b + r.off.toNat) = .ok) :
    Runs (exec (.mailboxPortBAccess b r []) s) fun t =>
      (t.core.arb b 15).outB = s.core.bytes (scratchBase b + r.off.toNat) 4 ∧ (t.core.arb b 15).outBPoison = false
      ∧ t.core.mem = s.core.mem := by
  have hserve := Core.serve_read (c := s.core.touch b) hk hlen h4 hm
  refine ⟨_, exec_mailboxPortBAccess ha hl hh ho hr (by rw [Core.servePortB, hserve, hk]) ?_, ?_⟩
  · rw [Core.arb_setArb]
    exact hh
  · simp only [State.on_core, Core.arb_setArb]
    exact ⟨Core.bytes_congr rfl _ _, trivial, rfl⟩

theorem exec_mailboxPortBAccess_write {bs : List Byte} (hk : r.kind = .write bs false) :
    Runs (exec (.mailboxPortBAccess b r []) s) fun t =>
      (∀ k v, bs[k]? = some v → t.core.byte (scratchBase b + r.off.toNat + k) = v)
      ∧ SameBytesBut s.core t.core (scratchBase b + r.off.toNat) bs.length := by
  have hpages : inPages r.off = false := by
    simp only [inPages, Bool.and_eq_false_iff, decide_eq_false_iff_not]
    omega
  have hserve := Core.serve_write (c := s.core.touch b) (b := b) hk (.inr hpages)
  have hbanks : ((s.core.touch b).storeEcc (scratchBase b + r.off.toNat) bs false).arb b 15 = s.core.arb b 15 :=
    Core.storeEcc_keeps (·.arb b 15) (fun _ _ _ => rfl) (fun _ _ _ => rfl) ..
  refine ⟨_, exec_mailboxPortBAccess ha hl hh ho hr (by rw [Core.servePortB, hserve, hk]) ?_, ?_⟩
  · rw [Core.arb_setArb, hbanks]
    exact hh
  · refine (Core.stored_of_mem ?_).symm
    simp only [State.on_core, Core.setArb_rest, Core.storeEcc_mem]
    exact Core.setBytes_mem_congr (Core.touch_mem ..) ..

end

/-! ### The second port of an X bank (R160) -/

/-- The device address of a word of the top kilobyte. -/
def topWord (g : SprigId) (w : BitVec 8) : Nat := localsBase g + 0x5C00 + 4 * w.toNat

section
variable (c : Core) (g : SprigId)

theorem Core.badParity_bankStore_byte (o : Nat) (x : Byte) (n : Nat) :
    (c.bankStore g o [x]).badParity n = if n = localsBase g + o then false else c.badParity n := by
  rw [Core.bankStore, List.length_singleton]
  simp only [List.range, List.range.loop, List.foldl_cons, List.foldl_nil, Nat.add_zero, Core.badParity, Core.setParity, Tbl.get_set]
  rfl

theorem Core.portWrite_whole (w : BitVec 8) (v : Word) : let o := 0x5C00 + 4 * w.toNat
    c.portWrite g ⟨w, some v, 15⟩ = (((c.bankStore g o [v.setWidth 8]).bankStore g (o + 1) [(v >>> 8).setWidth 8]).bankStore g (o + 2)
      [(v >>> 16).setWidth 8]).bankStore g (o + 3) [(v >>> 24).setWidth 8] := by
  simp [Core.portWrite, List.range, List.range.loop]

theorem Core.portWrite_mem (w : BitVec 8) (v : Word) :
    (c.portWrite g ⟨w, some v, 15⟩).mem = (c.setBytes (topWord g w) (bytesOf v 4)).mem := by
  have hbytes : bytesOf v 4 = [v.setWidth 8, (v >>> 8).setWidth 8, (v >>> 16).setWidth 8, (v >>> 24).setWidth 8] := by
    simp only [bytesOf, ← BitVec.shiftRight_add]
  rw [Core.portWrite_whole, hbytes, topWord]
  simp only [Core.setBytes, Core.setByte, Core.bankStore_mem, ← Nat.add_assoc]

theorem Core.portWrite_parity (w : BitVec 8) (v : Word) : (c.portWrite g ⟨w, some v, 15⟩).firstBad (topWord g w) 4 = none := by
  refine Core.firstBad_eq_none fun k hk => ?_
  rw [Core.portWrite_whole, topWord]
  simp only [Core.badParity_bankStore_byte]
  interval_cases k <;> simp [Nat.add_assoc]

theorem Core.portWrite_sprigs (z : BankAcc) : (c.portWrite g z).sprigs = c.sprigs := by
  unfold Core.portWrite
  split
  · rfl
  · refine foldl_keeps Core.sprigs _ (fun c k => ?_) _ _
    exact keeps_ite Core.sprigs (Core.bankStore_keeps _ (fun _ _ _ => rfl) (fun _ _ _ => rfl) ..) rfl

/-- A write of the port, whatever its byte mask, stays in its word. -/
theorem Core.portWrite_same (z : BankAcc) : SameBytesBut c (c.portWrite g z) (topWord g z.wordOff) 4 := by
  intro n hn
  unfold Core.portWrite
  split
  · rfl
  · refine foldl_keeps (·.byte n) _ (fun c k => ?_) _ _
    split
    · next hk =>
      have hk4 : k < 4 := BitVec.lt_of_getLsbD hk
      rw [Core.byte_congr (Core.bankStore_mem ..), Core.setBytes_same_but]
      rw [topWord] at hn
      rw [List.length_singleton]
      omega
    · rfl

variable {c g}

theorem Core.portRead_clean {z : BankAcc} (h : c.firstBad (topWord g z.wordOff) 4 = none) :
    c.portRead g z = ({ value := c.word (topWord g z.wordOff) }, c) := by
  rw [topWord] at h
  rw [Core.portRead, h]
  rfl

theorem Core.portWrite_word {w : BitVec 8} {v : Word} : (c.portWrite g ⟨w, some v, 15⟩).word (topWord g w) = v :=
  (Core.word_congr (Core.portWrite_mem ..) _).trans (Core.word_setBytes_self ..)

end

section
variable {s : State} {g : SprigId} {u : PortUser} (ha : s.core.asleep (bunchOf g) = false)
include ha

theorem exec_secondPortAccess_read {w : BitVec 8} {m : BitVec 4} (hb : s.core.firstBad (topWord g w) 4 = none) :
    let d := s.core.touch (bunchOf g)
    exec (.secondPortAccess g [⟨u, ⟨w, none, m⟩⟩] none) s = .next (s.on { d with port2 := { value := d.word (topWord g w) } }) := by
  intro d
  have hread : d.portRead g ⟨w, none, m⟩ = ({ value := d.word (topWord g w) }, d) := Core.portRead_clean hb
  refine congrArg (fun c => Host.Outcome.next (s.on c)) ((Core.reach_touch _ ha).trans ?_)
  show (let (v, c) := d.portRead g ⟨w, none, m⟩; { c with port2 := v }) = _
  rw [hread]

theorem exec_secondPortAccess_write {w : BitVec 8} {v : Word} {m : BitVec 4} :
    exec (.secondPortAccess g [⟨u, ⟨w, some v, m⟩⟩] none) s = .next (s.on ((s.core.touch (bunchOf g)).portWrite g ⟨w, some v, m⟩)) :=
  congrArg (fun c => Host.Outcome.next (s.on c)) (Core.reach_touch _ ha)

theorem exec_secondPortAccess_both {w w' : BitVec 8} {v v' : Word} {m m' : BitVec 4} :
    exec (.secondPortAccess g [⟨u, ⟨w, some v, m⟩⟩] (some ⟨w', some v', m'⟩)) s
      = .next (s.on (((s.core.touch (bunchOf g)).portWrite g ⟨w, some v, m⟩).portWrite g ⟨w', some v', m'⟩)) :=
  congrArg (fun c => Host.Outcome.next (s.on c)) (Core.reach_touch _ ha)

/-- The sprig's port reads the word that the second port writes in the same step. -/
theorem exec_secondPortAccess_sees {w : BitVec 8} {v : Word} {k : BitVec 4} : let d := (s.core.touch (bunchOf g)).portWrite g ⟨w, some v, 15⟩
    exec (.secondPortAccess g [⟨u, ⟨w, some v, 15⟩⟩] (some ⟨w, none, k⟩)) s = .next (s.on { d with port1 := { value := v } }) := by
  intro d
  have hread : d.portRead g ⟨w, none, k⟩ = ({ value := v }, d) := by
    rw [Core.portRead_clean (z := ⟨w, none, k⟩) (Core.portWrite_parity ..), Core.portWrite_word]
  refine congrArg (fun c => Host.Outcome.next (s.on c)) ((Core.reach_touch _ ha).trans ?_)
  show (let (v, c) := d.portRead g ⟨w, none, k⟩; { c with port1 := v }) = _
  rw [hread]

end

end Sys2Proof.Machine

open Sys2Proof Sys2Proof.Machine

/-- Settles O22: rounds at a bank by `exec_scratchAccess_alone` and `exec_scratchAccess_prior`, port B by `exec_mailboxPortBAccess`, the X
bank's second port by what `portWrite` stores. -/
theorem scratchAccesses : Obligations.ScratchAccesses := by
  intro s b r g w u z c bank a buf stands quiet alone idle
  have hidle (k : BitVec 4) : idle k → (c.arb b k).Idle := fun ⟨hh, hl, hb⟩ => ⟨hh, hl, hb⟩
  refine ⟨?_, ?_, ?_, ?_, ?_, ?_, ?_, ?_⟩
  · exact fun ⟨⟨ha, hl⟩, hm, h4, hu⟩ hi => exec_scratchAccess_read ha hl h4 hu (hidle _ hi) hm
  · exact fun bs ⟨⟨ha, hl⟩, hm, h4, hu⟩ hi => exec_scratchAccess_write ha hl h4 hu (hidle _ hi) hm
  · exact fun v ⟨⟨ha, hl⟩, hm, h4, hu⟩ hi => exec_scratchAccess_atomic ha hl h4 hu (hidle _ hi) hm
  · exact fun reqs e => exec_scratchAccess_holds
  · rintro r2 ⟨⟨ha, hl⟩, hm, h4, hu⟩ hi hu2 hk hlen hk2 hlen2 ho hlt hlast
    have hi := hidle _ hi
    have hne : r2.who ≠ r.who := fun h => by rw [h] at hlt; exact lt_irrefl _ hlt
    have hserve := Core.serve_read (c := c.grants b [r2, r] r) hk hlen h4 hm
    have hgrant := BankArb.granted_prior hi (reqRank_sprig (hlt.trans hlast)).1 (reqRank_sprig hlast).1 hne
    refine ⟨_, (exec_scratchAccess_prior ha hl h4 hu hi hu2 (reqParts_read hk hlen) (reqParts_read hk2 hlen2) ho hlt hlast).trans
      (by rw [hserve]), ?_⟩
    have harb : (c.grants b [r2, r] r).arb b bank = (c.arb b bank).granted [r2, r] r := Core.arb_setArb ..
    simp only [State.on_core, show bank = offBank r.off from rfl, Served.record_arb, Served.record_rest] at harb ⊢
    rw [harb]
    exact ⟨hgrant.1, hgrant.2, rfl⟩
  · exact exec_scrCe_rewrites
  · rintro ⟨⟨ha, hl⟩, hm, h4, hu⟩ hh ho hr
    exact ⟨fun hk hlen => exec_mailboxPortBAccess_read ha hl hh ho hr hk hlen h4 hm,
      fun bs hk hlen => hlen ▸ exec_mailboxPortBAccess_write ha hl hh ho hr hk⟩
  · intro ha a
    obtain ⟨o, d, m⟩ := z
    refine ⟨?_, ?_, ?_, ?_⟩
    · rintro rfl hb
      exact ⟨_, exec_secondPortAccess_read ha hb, congrArg (fun v => ({ value := v } : ReadBack)) (Core.word_congr rfl _), rfl, rfl⟩
    · rintro v rfl rfl
      exact ⟨_, exec_secondPortAccess_write ha, Core.portWrite_word, Core.portWrite_same (c.touch (bunchOf g)) g _,
        Core.portWrite_sprigs (c.touch (bunchOf g)) g _⟩
    · rintro v k rfl rfl
      exact ⟨_, exec_secondPortAccess_sees ha, rfl, Core.portWrite_word⟩
    · rintro v v' rfl
      exact ⟨_, exec_secondPortAccess_both ha, Core.portWrite_word, fun n hn =>
        (Core.portWrite_same _ g ⟨o, some v', 15⟩ n hn).trans (Core.portWrite_same (c.touch (bunchOf g)) g _ n hn)⟩

end

section
/-!
PROOFS. The life of a lease: TAKE and its refusals, the copy of the region's rows, the access that revokes it, and its end.
-/
namespace Sys2Proof.Machine

/-! ### Slots of a bunch -/

theorem Core.lease_setLease_ne (c : Core) (b : BunchId) {k l : BitVec 2} (x : Lease) (h : k ≠ l) : (c.setLease b l x).lease b k = c.lease b k := by
  refine Tbl.get_set_ne _ (fun e => h (BitVec.eq_of_toNat_eq ?_)) _ _
  simpa [leaseKey] using e

@[simp] theorem Core.setLease_setLease (c : Core) (b : BunchId) (l : BitVec 2) (x y : Lease) :
    (c.setLease b l x).setLease b l y = c.setLease b l y := by
  simp [Core.setLease]

theorem slot_ofNat (l : BitVec 2) : BitVec.ofNat 2 l.toNat = l := by rw [BitVec.ofNat_toNat, BitVec.setWidth_eq]

theorem slot_ne {l : BitVec 2} {k : Nat} (hk : k < 4) (h : k ≠ l.toNat) : BitVec.ofNat 2 k ≠ l := fun e =>
  h (by rw [← e, BitVec.toNat_ofNat, Nat.mod_eq_of_lt hk])

/-- A fold over slots of which one alone changes what is carried. -/
theorem foldl_range_one {σ : Type} {f : σ → Nat → σ} {s t : σ} {n : Nat} (m : Nat) (hn : f s n = t) (hs : ∀ k < n, f s k = s)
    (ht : ∀ k < m, n < k → f t k = t) : (List.range m).foldl f s = if n < m then t else s := by
  induction m with
  | zero => rfl
  | succ m ih =>
    rw [List.range_succ, List.foldl_append, ih fun k hk => ht k (Nat.lt_succ_of_lt hk), List.foldl_cons, List.foldl_nil]
    rcases lt_trichotomy n m with h | rfl | h
    · rw [if_pos h, if_pos (Nat.lt_succ_of_lt h), ht m (Nat.lt_succ_self m) h]
    · rw [if_neg (lt_irrefl n), if_pos (Nat.lt_succ_self n), hn]
    · rw [if_neg (by omega), if_neg (by omega), hs m h]

/-! ### TAKE (R174, R175) -/

/-- The lease that a TAKE of word v by sprig g asks for. -/
def Core.newLease (c : Core) (g : SprigId) (v : Word) : Lease :=
  { Lease.reset with pred := (v >>> 13).setWidth 3, region := v.setWidth 13, holder := inBunch g, depth := (c.sprig g).depth }

section
variable {c : Core} {g : SprigId} {b : BunchId} {l : BitVec 2} {pred : BitVec 3} {region : BitVec 13}

/-- Another slot of the bunch holds, copies or restores the region, or has lost it. -/
def Core.overlaps (c : Core) (b : BunchId) (l : BitVec 2) (region : BitVec 13) : Prop :=
  ∃ k : BitVec 2, k ≠ l ∧ (c.lease b k).region = region ∧ (c.lease b k).st ∈ [LeaseState.copying, .active, .restoring, .lost]

theorem Core.takeRefusal_badPred : c.takeRefusal g b l 0 region = some 4 := if_pos rfl

theorem Core.takeRefusal_overlap (hp : pred ≠ 0) (h : c.overlaps b l region) : c.takeRefusal g b l pred region = some 1 := by
  obtain ⟨k, hk, hr, hs⟩ := h
  rw [Core.takeRefusal, if_neg hp, if_pos]
  refine List.any_eq_true.mpr ⟨k.toNat, List.mem_range.mpr k.isLt, ?_⟩
  have hne : k.toNat ≠ l.toNat := fun e => hk (BitVec.eq_of_toNat_eq e)
  rw [slot_ofNat]
  simp only [hne, hr, ne_eq, not_false_eq_true, decide_true, Bool.true_and]
  generalize (c.lease b k).st = st at hs
  cases st <;> simp_all

theorem Core.takeRefusal_rest (hp : pred ≠ 0) (h : ¬c.overlaps b l region) :
    c.takeRefusal g b l pred region = if !c.grantsRegion g region then some 2 else none := by
  rw [Core.takeRefusal, if_neg hp, if_neg]
  intro hany
  obtain ⟨k, hk, hx⟩ := List.any_eq_true.mp hany
  simp only [Bool.and_eq_true, decide_eq_true_eq] at hx
  obtain ⟨⟨hne, hr⟩, hs⟩ := hx
  refine h ⟨BitVec.ofNat 2 k, slot_ne (List.mem_range.mp hk) hne, hr, ?_⟩
  generalize (c.lease b (BitVec.ofNat 2 k)).st = st at hs
  cases st <;> simp_all

end

section
variable {s : State} {b : BunchId} {l : BitVec 2} {g : SprigId} {v : Word}
  (hmay : bunchOf g = b ∧ ((s.core.lease b l).st = .free ∨ (s.core.lease b l).st = .refused))
include hmay

theorem exec_take_refused {k : BitVec 4} (h : s.core.takeRefusal g b l ((v >>> 13).setWidth 3) (v.setWidth 13) = some k) :
    exec (.take (.sprig g) b l v) s = .next (s.on (s.core.setLease b l { s.core.newLease g v with st := .refused, cause := k })) := by
  refine congrArg (fun c => Host.Outcome.next (s.on c)) (?_ : s.core.takeLease (.sprig g) b l v = _)
  rw [Core.takeLease, Core.writeBy_takes _ rfl]
  dsimp only
  rw [if_pos hmay, h]
  rfl

theorem exec_take_copies (h : s.core.takeRefusal g b l ((v >>> 13).setWidth 3) (v.setWidth 13) = none) :
    exec (.take (.sprig g) b l v) s = .next (s.on (s.core.setLease b l { s.core.newLease g v with st := .copying })) := by
  refine congrArg (fun c => Host.Outcome.next (s.on c)) (?_ : s.core.takeLease (.sprig g) b l v = _)
  rw [Core.takeLease, Core.writeBy_takes _ rfl]
  dsimp only
  rw [if_pos hmay, h]
  rfl

end

/-! ### The copy (R163, R175) -/

theorem Core.mark_setMark_ne (c : Core) (m : EccMark) {n a : Nat} (h : n / 8 ≠ a / 8) : (c.setMark a m).mark n = c.mark n := by
  simp only [Core.mark, Core.setMark]
  exact Tbl.get_set_ne _ h _ _

/-- A word of this mark reads poisoned. -/
def EccMark.reads (m : EccMark) : Bool := decide (m = .poisoned ∨ m = .double)

section
variable (c : Core) (b : BunchId) (off : BitVec 21) (who : Byte)

theorem Core.readEcc_fst : (c.readEcc b off who).1 = (c.mark (scratchBase b + off.toNat)).reads := by
  unfold Core.readEcc
  dsimp only
  split <;> next h => rw [h]; rfl

theorem Core.readEcc_mem : (c.readEcc b off who).2.mem = c.mem := by
  unfold Core.readEcc
  dsimp only
  split <;> simp [Core.setMark]

/-- Of the marks, a read changes that of its own word alone. -/
theorem Core.readEcc_mark {n : Nat} (h : n / 8 ≠ (scratchBase b + off.toNat) / 8) : (c.readEcc b off who).2.mark n = c.mark n := by
  unfold Core.readEcc
  dsimp only
  split
  · rfl
  · rfl
  · exact Core.mark_of_ecc (by simp)
  · exact (Core.mark_of_ecc (d := c.setMark (scratchBase b + off.toNat) .poisoned) (by simp)).trans (Core.mark_setMark_ne _ _ h)

/-- The ECC words of a range of whole words are read one after the other. -/
theorem Core.readEccs_succ (w n : Nat) : let r := c.readEccs b (8 * w) (8 * (n + 1)) who
    let z := r.2.readEcc b (BitVec.ofNat 21 ((w + (n + 1)) * 8)) who
    c.readEccs b (8 * w) (8 * (n + 1 + 1)) who = (r.1 ++ [z.1], z.2) := by
  have hcount (k : Nat) : (8 * w + 8 * (k + 1) - 1) / 8 + 1 - 8 * w / 8 = k + 1 := by omega
  have hw : 8 * w / 8 = w := by omega
  simp only [Core.readEccs, hcount]
  rw [List.range_succ (n := n + 1), List.foldl_append, List.foldl_cons, List.foldl_nil, hw]

theorem Core.readEccs_one (w : Nat) : let z := c.readEcc b (BitVec.ofNat 21 (w * 8)) who
    c.readEccs b (8 * w) (8 * (0 + 1)) who = ([z.1], z.2) := by
  have hcount : (8 * w + 8 * (0 + 1) - 1) / 8 + 1 - 8 * w / 8 = 1 := by omega
  have hw : 8 * w / 8 = w := by omega
  rw [Core.readEccs, hcount, hw]
  rfl

theorem Core.readEccs_run (w n : Nat) (hn : 8 * (w + n) < 0x200000) : let r := c.readEccs b (8 * w) (8 * (n + 1)) who
    r.1 = ((List.range (n + 1)).map fun i => (c.mark (scratchBase b + 8 * (w + i))).reads) ∧ r.2.mem = c.mem
    ∧ ∀ i, n < i → r.2.mark (scratchBase b + 8 * (w + i)) = c.mark (scratchBase b + 8 * (w + i)) := by
  have hb := scratchBase_mod b
  have haddr {i : Nat} (hi : i ≤ n) : (BitVec.ofNat 21 ((w + i) * 8)).toNat = 8 * (w + i) := by
    rw [BitVec.toNat_ofNat]; omega
  induction n with
  | zero =>
    have h0 := haddr (le_refl 0)
    rw [Nat.add_zero] at h0
    rw [Core.readEccs_one]
    refine ⟨?_, Core.readEcc_mem .., fun i hi => Core.readEcc_mark _ _ _ _ (by rw [h0]; omega)⟩
    rw [Core.readEcc_fst, h0]
    rfl
  | succ n ih =>
    obtain ⟨hps, hmem, hmark⟩ := ih (by omega) fun hi => haddr (by omega)
    have h1 := haddr (le_refl (n + 1))
    rw [Core.readEccs_succ]
    refine ⟨?_, (Core.readEcc_mem ..).trans hmem, fun i hi => (Core.readEcc_mark _ _ _ _ (by rw [h1]; omega)).trans (hmark i (by omega))⟩
    rw [hps, Core.readEcc_fst, h1, hmark _ (Nat.lt_succ_self n), List.range_succ (n := n + 1), List.map_append]
    rfl

end

theorem exec_leaseCopyDone {s : State} {b : BunchId} {l : BitVec 2} (h : (s.core.lease b l).st = .copying) : let c := s.core
    let x := c.lease b l
    let a := scratchBase b + 256 * x.region.toNat
    Runs (exec (.leaseCopyDone b l) s) fun t =>
      t.core.mem = c.mem ∧ t.core.lease b l = { x with
        st := .active, rows := 8, buf := c.bytes a 256
        marks := (List.range 32).map fun k => if (c.mark (a + 8 * k)).reads then EccMark.poisoned else .ok } := by
  intro c x a
  have hlt := x.region.isLt
  obtain ⟨hps, hmem, -⟩ := Core.readEccs_run c b 0x24 (32 * x.region.toNat) 31 (by omega)
  rw [show 8 * (32 * x.region.toNat) = 256 * x.region.toNat by omega] at hps hmem
  refine ⟨_, congrArg (fun c => Host.Outcome.next (s.on c)) (if_pos h), ?_⟩
  have hcopy : c.copyLease b l = (c.readEccs b (256 * x.region.toNat) 256 0x24).2.setLease b l { x with
      st := .active, rows := 8, buf := c.bytes a 256
      marks := (c.readEccs b (256 * x.region.toNat) 256 0x24).1.map fun p => if p then EccMark.poisoned else .ok } := rfl
  have hmarks : (c.readEccs b (256 * x.region.toNat) 256 0x24).1.map (fun p => if p then EccMark.poisoned else .ok)
      = (List.range 32).map fun k => if (c.mark (a + 8 * k)).reads then EccMark.poisoned else .ok := by
    rw [hps, List.map_map]
    refine List.map_congr_left fun k _ => ?_
    rw [Function.comp_apply, show scratchBase b + 8 * (32 * x.region.toNat + k) = a + 8 * k by omega]
  simp only [State.on_core]
  rw [show s.core.copyLease b l = _ from hcopy, Core.lease_setLease, hmarks]
  exact ⟨hmem, rfl⟩

/-! ### The access that revokes a lease (R173, R176) -/

/-- An access by a requester that is no sprig. -/
theorem Lease.gate_revokes {x : Lease} {who : Byte} (hs : x.st = .active) (hw : 0x20 ≤ who.toNat) :
    x.gate who none x.region = (.wait, { x with st := .restoring, revoker := who, byHandler := false }) := by
  have hne : who ≠ x.holder.setWidth 8 := by
    have := x.holder.isLt
    bv_omega
  rw [Lease.gate, if_neg (not_not.mpr rfl), hs]
  simp [hne]

section
variable {c : Core} {b : BunchId} {l : BitVec 2} {x y : Lease}

/-- One slot decides, and the others have no say. -/
theorem Core.leaseGate_one {who : Byte} {depth : Option Nat} {off : BitVec 21} {v : Gate} (hv : v ≠ .pass)
    (hl : (c.lease b l).gate who depth ((off >>> 8).setWidth 13) = (v, y)) (hy : y ≠ c.lease b l)
    (ho : ∀ k, k ≠ l → (c.lease b k).region ≠ (off >>> 8).setWidth 13) : c.leaseGate b who depth off = (v, c.setLease b l y) := by
  have hlt := l.isLt
  refine (foldl_range_one (n := l.toNat) 4 ?_ (fun k hk => ?_) fun k _ _ => ?_).trans (if_pos l.isLt)
  · dsimp only
    rw [slot_ofNat, hl, if_neg hy]
  · dsimp only
    rw [Lease.gate_idle (.inl (ho _ (slot_ne (by omega) (by omega)))), if_pos rfl]
  · cases v <;> simp at hv ⊢

/-- The access that revoked slot l is held with it. -/
theorem Core.holdAccess_one {r : ScrReq} (hl : c.lease b l = y) (hs : y.st = .restoring) (hr : y.releasing = false)
    (hg : y.region = (r.off >>> 8).setWidth 13) (hh : y.held = none) (hw : y.revoker = r.who.setWidth 8)
    (ho : ∀ k, k ≠ l → (c.lease b k).region ≠ y.region) : c.holdAccess b r = c.setLease b l { y with held := some r } := by
  have hlt := l.isLt
  refine (foldl_range_one (n := l.toNat) 4 ?_ (fun k hk => ?_) fun k hk hl => ?_).trans (if_pos l.isLt)
  · dsimp only
    rw [slot_ofNat, hl, if_pos ⟨hs, hr, hg, hh, hw⟩]
  · refine if_neg fun h => ho _ (slot_ne (by omega) (by omega)) (h.2.2.1.trans hg.symm)
  · refine if_neg fun h => ?_
    have hk : BitVec.ofNat 2 k ≠ l := slot_ne hk (by omega)
    rw [Core.lease_setLease_ne _ _ _ hk] at h
    exact ho _ hk (h.2.2.1.trans hg.symm)

/-- An access that a slot makes wait is not served. -/
theorem Core.grantReq_waits {d : Core} {r : ScrReq} {n : Nat} (hp : reqParts r = [(r.off, n)])
    (hg : c.leaseGate b (r.who.setWidth 8) (c.reqDepth b r) r.off = (.wait, d)) : c.grantReq b r = d.holdAccess b r := by
  rw [Core.grantReq, hp]
  simp only [List.foldl_cons, List.foldl_nil, hg]

end

/-- An access of another requester to an active lease's region is held, and the slot starts to restore. -/
theorem exec_scratchAccess_revokes {s : State} {b : BunchId} {l : BitVec 2} {r : ScrReq} : let c := s.core
    let x := c.lease b l
    x.st = .active → x.releasing = false → x.held = none → c.asleep b = false → (∀ k, k ≠ l → (c.lease b k).region ≠ x.region) →
    (r.off >>> 8).setWidth 13 = x.region → reqParts r = [(r.off, 4)] → r.off.toNat % 4 = 0 → r.src = .x → 0x20 ≤ r.who.toNat →
    (c.arb b (offBank r.off)).Idle →
    Runs (exec (.scratchAccess b (offBank r.off) [r] .ok) s) fun t =>
      t.core.lease b l = { x with st := .restoring, revoker := r.who.setWidth 8, byHandler := false, held := some r } ∧ t.core.mem = c.mem := by
  intro c x hs hr hh ha ho hg hp h4 hx hw hi
  have hu : (c.touch b).unhindered b r := ⟨hx, .inl hw⟩
  let d := c.grants b [r] r
  have hround : (c.touch b).round b (offBank r.off) [r] .ok = d.grantReq b r :=
    Core.round_grants (c := c.touch b) hi.hold (Core.presented_single (hu.standsAt hp h4)) (BankArb.pick_single hi r) hx
  let y : Lease := { x with st := .restoring, revoker := r.who.setWidth 8, byHandler := false }
  have hgate : d.leaseGate b (r.who.setWidth 8) none r.off = (.wait, d.setLease b l y) := by
    refine Core.leaseGate_one (by decide) ?_ (fun e => ?_) (fun k hk => hg ▸ ho k hk)
    · rw [hg]
      exact Lease.gate_revokes (x := x) hs (by rw [BitVec.toNat_setWidth]; omega)
    · have : LeaseState.restoring = x.st := congrArg Lease.st e
      rw [hs] at this
      cases this
  have hhold : (d.setLease b l y).holdAccess b r = (d.setLease b l y).setLease b l { y with held := some r } :=
    Core.holdAccess_one (Core.lease_setLease ..) rfl hr hg.symm hh rfl fun k hk => by
      rw [Core.lease_setLease_ne _ _ _ hk]
      exact ho k hk
  have hdepth : d.reqDepth b r = none := by simp [Core.reqDepth, hw]
  have hgrant : d.grantReq b r = d.setLease b l { y with held := some r } := by
    rw [Core.grantReq_waits hp (hdepth ▸ hgate), hhold, Core.setLease_setLease]
  refine ⟨_, (exec_scratchAccess ha).trans (by rw [hround, hgrant]), ?_⟩
  simp only [State.on_core, Core.lease_setLease, Core.setLease_rest]
  exact ⟨rfl, rfl⟩

/-! ### The end of a lease (R174, R176) -/

theorem exec_leaseRevoke {s : State} {b : BunchId} {l : BitVec 2} (hs : (s.core.lease b l).st = .restoring) (hh : (s.core.lease b l).held = none) :
    let c := s.core
    let x := c.lease b l
    exec (.leaseRevoke b l) s = .next (s.on ((c.restore b x).setLease b l
      (if x.releasing then x.freed else { x with st := .lost, held := none, buf := [], marks := [], rows := 0 }))) := by
  intro c x
  refine congrArg (fun c => Host.Outcome.next (s.on c)) ((if_pos hs).trans ?_)
  rw [Core.endRestore, hh]

theorem Core.holds_holder {c : Core} {m : Master} {b : BunchId} {x : Lease} {deep : Bool}
    (h : ∃ g, m = .sprig g ∧ bunchOf g = b ∧ inBunch g = x.holder ∧ (deep = true → (c.sprig g).depth = x.depth)) : c.holds m b x deep = true := by
  obtain ⟨g, rfl, hb, hi, hd⟩ := h
  cases deep
  · simp [Core.holds, hb, hi]
  · simp [Core.holds, hb, hi, hd rfl]

section
variable {s : State} {m : Master} {b : BunchId} {l : BitVec 2} (ht : s.core.takes m true = true)
include ht

theorem exec_release (hs : (s.core.lease b l).st = .active)
    (hm : s.core.holds m b (s.core.lease b l) true = true ∨ s.core.privileged m = true) :
    exec (.release m b l) s = .next (s.on (s.core.setLease b l { s.core.lease b l with st := .restoring, releasing := true })) := by
  refine congrArg (fun c => Host.Outcome.next (s.on c)) (?_ : s.core.releaseLease m b l = _)
  rw [Core.releaseLease, Core.writeBy_takes _ ht, if_pos]
  rcases hm with h | h <;> simp [hs, h]

theorem exec_ack (hs : (s.core.lease b l).st = .lost ∨ (s.core.lease b l).st = .refused)
    (hm : s.core.holds m b (s.core.lease b l) false = true ∨ s.core.privileged m = true) :
    exec (.ack m b l) s = .next (s.on (s.core.setLease b l (s.core.lease b l).freed)) := by
  refine congrArg (fun c => Host.Outcome.next (s.on c)) (?_ : s.core.ackLease m b l = _)
  rw [Core.ackLease, Core.writeBy_takes _ ht, if_pos]
  rcases hs with hs | hs <;> rcases hm with h | h <;> simp [hs, h]

end

end Sys2Proof.Machine

open Sys2Proof Sys2Proof.Machine

/-- Settles O23: TAKE by the cases of `takeRefusal`, the copy by `readEccs_run`, the revocation by `leaseGate_one` and `holdAccess_one`. -/
theorem leaseLifeCycle : Obligations.LeaseLifeCycle := by
  intro s b l g v m r c x a pred region base may shared gone holder turned
  have hclaim (deep : Bool) : holder deep ∨ c.privileged m = true → c.holds m b x deep = true ∨ c.privileged m = true :=
    Or.imp_left Core.holds_holder
  refine ⟨fun hm hp => ?_, fun hm hp hs => ?_, fun hm hp hs hg => ?_, fun hm hp hs hg => ?_, fun hs => ?_, ?_, fun hs hh hlen => ?_, fun hs ht hm => ?_, fun hs ht hm => ?_⟩
  · exact exec_take_refused hm ((congrArg (c.takeRefusal g b l · region) hp).trans Core.takeRefusal_badPred)
  · exact exec_take_refused hm (Core.takeRefusal_overlap hp hs)
  · exact exec_take_refused hm ((Core.takeRefusal_rest hp hs).trans (if_pos (by rw [Core.grantsRegion, hg]; rfl)))
  · exact exec_take_copies hm ((Core.takeRefusal_rest hp hs).trans (if_neg (by rw [Core.grantsRegion, hg]; decide)))
  · obtain ⟨t, ht, hmem, hlease⟩ := exec_leaseCopyDone hs
    refine ⟨t, ht, ?_⟩
    dsimp only
    rw [hlease]
    refine ⟨rfl, rfl, rfl, rfl, rfl, rfl, hmem, fun k hk => ?_⟩
    rw [List.getElem?_map, List.getElem?_range hk, Option.map_some]
    simp only [EccMark.reads, decide_eq_true_eq]
    rfl
  · intro hs hr hh ha ho hg hk hlen h4 hx hw bank hhold hlast hbehind
    exact exec_scratchAccess_revokes hs hr hh ha ho hg (reqParts_read hk hlen) h4 hx hw ⟨hhold, hlast, hbehind⟩
  · refine ⟨_, exec_leaseRevoke hs hh, ?_⟩
    simp only [State.on_core, Core.lease_setLease]
    have hmem (y : Lease) : ((c.restore b x).setLease b l y).mem = (c.setBytes a x.buf).mem := by
      simp only [Core.setLease_rest, Core.restore_mem, a]
    refine ⟨by rw [hh]; rfl, ?_, ?_⟩
    · rw [Core.bytes_congr (hmem _), ← hlen, Core.bytes_setBytes_self]
    · intro n hn
      rw [Core.byte_congr (hmem _), Core.setBytes_same_but _ _ _ _ (by rwa [hlen])]
  · exact exec_release ht hs (hclaim true hm)
  · exact exec_ack ht hs (hclaim false hm)

end

section
/-!
PROOFS. Gating of bunches: when a bunch is idle, what its gating notes, what its release leaves, and BUNCH_HOLD.
-/
namespace Sys2Proof.Machine

/-! ### Steps of which one matters -/

/-- What one of the steps 0 to n - 1 alone changes, it alone decides. -/
theorem read_foldl_range {σ β : Type} (read : σ → β) {f : σ → Nat → σ} {j n : Nat} {g : β → β} (hown : ∀ s, read (f s j) = g (read s))
    (hother : ∀ s k, k < n → k ≠ j → read (f s k) = read s) (s : σ) :
    read ((List.range n).foldl f s) = if j < n then g (read s) else read s := by
  induction n with
  | zero => rfl
  | succ n ih =>
    have ih := ih fun s k hk => hother s k (by omega)
    rw [List.range_succ, List.foldl_append, List.foldl_cons, List.foldl_nil]
    by_cases hj : j = n
    · subst hj
      rw [hown, ih, if_neg (by omega), if_pos (by omega)]
    · have hlt : j < n ↔ j < n + 1 := by omega
      rw [hother _ n (by omega) (Ne.symm hj), ih, if_congr hlt rfl rfl]

/-! ### Sprigs of a bunch (R23, R38) -/

theorem sprigAt_toNat (b : BunchId) (k : BitVec 5) : (sprigAt b k).toNat = 32 * b.toNat + k.toNat := by
  rw [sprigAt, BitVec.toNat_append, Nat.shiftLeft_eq, Nat.mul_comm, ← Nat.two_pow_add_eq_or_of_lt k.isLt]

theorem bunchOf_sprigAt (b : BunchId) (k : BitVec 5) : bunchOf (sprigAt b k) = b := by
  have hk := k.isLt
  have hb := b.isLt
  apply BitVec.eq_of_toNat_eq
  simp only [bunchOf, BitVec.toNat_setWidth, BitVec.toNat_ushiftRight, sprigAt_toNat, Nat.shiftRight_eq_div_pow]
  omega

theorem sprigAt_bunchOf (g : SprigId) : sprigAt (bunchOf g) (inBunch g) = g := by
  have hg := g.isLt
  apply BitVec.eq_of_toNat_eq
  simp only [sprigAt_toNat, bunchOf, inBunch, BitVec.toNat_setWidth, BitVec.toNat_ushiftRight, Nat.shiftRight_eq_div_pow]
  omega

theorem inBunch_sprigAt (b : BunchId) (k : BitVec 5) : inBunch (sprigAt b k) = k := by
  have hk := k.isLt
  apply BitVec.eq_of_toNat_eq
  simp only [inBunch, BitVec.toNat_setWidth, sprigAt_toNat]
  omega

/-- A statement about the numbers below 2 ^ n is one about the bit vectors of n bits. -/
theorem forall_ofNat {n : Nat} {p : BitVec n → Prop} : (∀ k < 2 ^ n, p (BitVec.ofNat n k)) ↔ ∀ k, p k := by
  refine ⟨fun h k => ?_, fun h k _ => h _⟩
  have hk := h k.toNat k.isLt
  rwa [BitVec.ofNat_toNat, BitVec.setWidth_eq] at hk

/-! ### Idle bunches (R408) -/

section
variable (c : Core) (b : BunchId)

theorem Core.sprigIdle_iff (k : BitVec 5) : c.sprigIdle (sprigAt b k) = true ↔
    ((c.sprig (sprigAt b k)).state = .disabled
      ∨ ((c.sprig (sprigAt b k)).state = .wait ∧ (c.bwake b).getLsbD 31 = true ∧ c.wakeCondition (sprigAt b k) = false))
    ∧ (c.sprig (sprigAt b k)).board = 0 ∧ (c.sprig (sprigAt b k)).drained = true := by
  simp [Core.sprigIdle, bunchOf_sprigAt, and_assoc]

theorem Core.queuesBusy_iff : c.queuesBusy b = false ↔
    ∀ e ∈ c.queues, e.1 / 256 = b.toNat → (c.queue (BitVec.ofNat 14 e.1)).count = 0 ∧ e.2.walk = [] ∧ e.2.deferred = [] := by
  simp only [Core.queuesBusy, List.any_eq_false, Bool.and_eq_true, decide_eq_true_eq, Bool.or_eq_true, Bool.not_eq_true', not_and, not_or,
    not_not, Bool.not_eq_false, List.isEmpty_iff, and_assoc, ne_eq]

theorem Core.leasesBusy_iff : c.leasesBusy b = false ↔
    ∀ l : BitVec 2, (c.lease b l).st ≠ .copying ∧ (c.lease b l).st ≠ .active ∧ (c.lease b l).st ≠ .restoring := by
  rw [← forall_ofNat]
  simp only [Core.leasesBusy, List.any_eq_false, List.mem_range]
  refine forall₂_congr fun l _ => ?_
  generalize (c.lease b (BitVec.ofNat 2 l)).st = st
  cases st <;> simp

theorem Core.bicBusy_iff : c.bicBusy b = false ↔ (c.bic b).en = 0 ∨ ∀ k : BitVec 5, c.bicSelect b k = none := by
  rw [← forall_ofNat (p := fun k => c.bicSelect b k = none)]
  simp only [Core.bicBusy, Bool.and_eq_false_iff, decide_eq_false_iff_not, not_not, List.any_eq_false, List.mem_range, ne_eq,
    Option.isSome_iff_ne_none]
  rfl

/-- What it takes for a bunch to be idle. -/
theorem Core.bunchIdle_iff : c.bunchIdle b = true ↔ b ≠ 0 ∧ c.power.hold.getLsbD b.toNat = false
    ∧ (∀ k : BitVec 5, ((c.sprig (sprigAt b k)).state = .disabled
        ∨ ((c.sprig (sprigAt b k)).state = .wait ∧ (c.bwake b).getLsbD 31 = true ∧ c.wakeCondition (sprigAt b k) = false))
      ∧ (c.sprig (sprigAt b k)).board = 0 ∧ (c.sprig (sprigAt b k)).drained = true)
    ∧ (∀ e ∈ c.queues, e.1 / 256 = b.toNat → (c.queue (BitVec.ofNat 14 e.1)).count = 0 ∧ e.2.walk = [] ∧ e.2.deferred = [])
    ∧ (∀ l : BitVec 2, (c.lease b l).st ≠ .copying ∧ (c.lease b l).st ≠ .active ∧ (c.lease b l).st ≠ .restoring)
    ∧ (c.dma b).queue = [] ∧ ((c.bic b).en = 0 ∨ ∀ k : BitVec 5, c.bicSelect b k = none) := by
  have hsprigs : (sprigsOf b).all c.sprigIdle = true ↔ ∀ k : BitVec 5, c.sprigIdle (sprigAt b k) = true := by
    rw [← forall_ofNat]
    simp [sprigsOf]
  rw [← Core.leasesBusy_iff, ← Core.bicBusy_iff, ← Core.queuesBusy_iff]
  simp only [← Core.sprigIdle_iff, ← hsprigs, Core.bunchIdle, Bool.and_eq_true, decide_eq_true_eq, Bool.not_eq_true', List.isEmpty_iff, and_assoc,
    ne_eq]

theorem Core.running_iff : c.running = true ↔ c.aon.power = .run ∧ c.power.coreReset = false := by simp [Core.running]

end

/-! ### Preparation and gating (R181, R409) -/

theorem getLsbD_bit {k : Nat} (hk : k < 64) (n : Nat) : (1#64 <<< k).getLsbD n = decide (n = k) := by
  rw [BitVec.getLsbD_shiftLeft, BitVec.getLsbD_one]
  by_cases h : n = k
  · subst h
    simp [hk]
  · simp [h]
    omega

/-- The sprigs that wait where their bunch restarts are noted. -/
theorem Core.noteRestart_eq (c : Core) (b : BunchId) : ∃ m : Word,
    c.noteRestart b false = { c with power := { c.power with restart := Tbl.set c.power.restart b.toNat m 0 } }
    ∧ ∀ k : BitVec 5, m.getLsbD k.toNat = ((c.bwake b).getLsbD 31 && decide ((c.sprig (sprigAt b k)).state = .wait)) := by
  refine ⟨_, rfl, fun k => ?_⟩
  cases (c.bwake b).getLsbD 31
  · simp
  · rw [if_neg (by decide)]
    refine (read_foldl_range (fun m : Word => m.getLsbD k.toNat) (j := k.toNat) (g := fun old => decide ((c.sprig (sprigAt b k)).state = .wait)
      || (decide ((c.sprig (sprigAt b k)).state ≠ .run) && old)) ?_ ?_ 0).trans ((if_pos k.isLt).trans ?_)
    rotate_right
    · simp
    · intro m
      rw [BitVec.ofNat_toNat, BitVec.setWidth_eq]
      generalize (c.sprig (sprigAt b k)).state = st
      have hk := k.isLt
      cases st <;> simp [getLsbD_putBit_self _ _ (show k.toNat < 32 from hk)]
    · intro m i hi hik
      split
      · exact getLsbD_putBit _ _ _ _ (Ne.symm hik)
      · exact getLsbD_putBit _ _ _ _ (Ne.symm hik)
      · rfl

theorem Core.retained_eq (c : Core) {n : Nat} (h : n < 64) :
    c.retained n = (cfgGet c.cfg (sid 0x01 (0x200 + 4 * (n / 32)))).getLsbD (n % 32) := by
  have hreset : ∀ i < 2, settingReset (sid 0x01 (0x200 + 4 * i)) = 0 := by decide
  rw [Core.retained, cfgGet, hreset _ (by omega)]

/-- A mask made bit by bit. -/
theorem getLsbD_maskOf (p : Nat → Bool) {j : Nat} (h : j < 64) :
    ((List.range 64).foldl (fun (m : DWord) k => if p k then m ||| (1#64 <<< k) else m) 0).getLsbD j = p j := by
  refine (read_foldl_range (fun m : DWord => m.getLsbD j) (j := j) (g := fun old => p j || old) ?_ ?_ 0).trans ((if_pos h).trans ?_)
  rotate_right
  · simp
  · intro m
    cases hp : p j
    · simp
    · rw [if_pos rfl, BitVec.getLsbD_or, getLsbD_bit h]
      simp
  · intro m k hk hkj
    split
    · rw [BitVec.getLsbD_or, getLsbD_bit hk]
      simp [Ne.symm hkj]
    · rfl

theorem Core.getLsbD_retMask (c : Core) {n : Nat} (h : n < 64) : c.retMask.getLsbD n = c.retained n := getLsbD_maskOf c.retained h

/-- What a bunch newly gated keeps is decided with its gating; the others keep what they had. -/
theorem Core.getLsbD_gate_kept (c : Core) (b : BunchId) (n : Nat) : (c.gate (Core.bunchBit b)).power.kept.getLsbD n
    = if n = b.toNat ∧ c.power.gated.getLsbD n = false then c.retained b.toNat else c.power.kept.getLsbD n := by
  have hb := b.isLt
  simp only [Core.gate, Core.bunchBit, BitVec.getLsbD_or, BitVec.getLsbD_and, BitVec.getLsbD_not, getLsbD_bit hb]
  by_cases h : n = b.toNat
  · subst h
    rw [Core.getLsbD_retMask _ hb]
    cases c.power.gated.getLsbD b.toNat <;> simp [hb]
  · have hlt : c.power.kept.getLsbD n = true → n < 64 := BitVec.lt_of_getLsbD
    simpa [h] using hlt

section
variable {s : State} {b : BunchId}

theorem exec_bunchIdleExpiry_prepares (hr : s.core.running = true) (hn : s.core.idleNs ≠ 0) (ha : s.core.asleep b = false)
    (hq : s.core.quiet (.bunch b) = false) (hi : s.core.bunchIdle b = true) : exec (.bunchIdleExpiry b) s
      = .next (s.on { s.core with power := { s.core.power with prep := s.core.power.prep ||| Core.bunchBit b } }) := by
  refine congrArg (fun c => Host.Outcome.next (s.on c)) (if_pos ?_)
  rw [hr, ha, hq, hi, decide_eq_true hn]
  rfl

theorem exec_bunchIdleExpiry_stays (h : ¬(s.core.running = true ∧ s.core.idleNs ≠ 0 ∧ s.core.asleep b = false
    ∧ s.core.quiet (.bunch b) = false ∧ s.core.bunchIdle b = true)) : exec (.bunchIdleExpiry b) s = .next s := by
  refine congrArg (fun c => Host.Outcome.next (s.on c)) (if_neg fun hall => h ?_)
  simpa [and_assoc] using hall

theorem exec_bunchGated_gates (hp : s.core.power.prep.getLsbD b.toNat = true) (hi : s.core.bunchIdle b = true)
    (hq : s.core.quiet (.bunch b) = false) :
    exec (.bunchGated b) s = .next (s.on (((s.core.touch b).noteRestart b false).gate (Core.bunchBit b))) := by
  refine congrArg (fun c => Host.Outcome.next (s.on c)) ((if_neg (by simp [hp])).trans (if_pos ?_))
  exact Bool.and_eq_true_iff.mpr ⟨hi, Eq.mpr (Bool.not_eq_true' _) hq⟩

theorem exec_bunchGated_ends (hp : s.core.power.prep.getLsbD b.toNat = true)
    (hi : ¬(s.core.bunchIdle b = true ∧ s.core.quiet (.bunch b) = false)) : exec (.bunchGated b) s = .next (s.on (s.core.touch b)) := by
  refine congrArg (fun c => Host.Outcome.next (s.on c)) ((if_neg (by simp [hp])).trans (if_neg fun h => hi ?_))
  obtain ⟨hidle, hopen⟩ := Bool.and_eq_true_iff.mp h
  exact ⟨hidle, Eq.mp (Bool.not_eq_true' _) hopen⟩

theorem exec_bunchGated_late (hp : s.core.power.prep.getLsbD b.toNat = false) : exec (.bunchGated b) s = .next s :=
  congrArg (fun c => Host.Outcome.next (s.on c)) (if_pos (by simp [hp]))

theorem exec_firstAccess_wakes (hr : s.core.running = true) (hg : s.core.power.gated.getLsbD b.toNat = true) :
    exec (.firstAccess b) s = .next (s.on { s.core with power := { s.core.power with
      gated := s.core.power.gated &&& ~~~Core.bunchBit b, waking := s.core.power.waking ||| Core.bunchBit b } }) :=
  congrArg (fun c => Host.Outcome.next (s.on c)) ((if_pos hr).trans (if_pos hg))

theorem exec_firstAccess_stays (h : s.core.running = false ∨ s.core.power.gated.getLsbD b.toNat = false) : exec (.firstAccess b) s = .next s := by
  refine congrArg (fun c => Host.Outcome.next (s.on c)) (?_ : (if s.core.running then s.core.startBunch b else s.core) = s.core)
  rcases h with h | h
  · rw [h, if_neg (by decide)]
  · rw [Core.startBunch, h, if_neg (c := (false : Bool) = true) (by decide), ite_self]

end

/-! ### What a release clears (R179) -/

theorem Tbl.get_filter {α : Type} (t : Tbl α) (p : Nat → Bool) (k : Nat) (d : α) :
    Tbl.get (t.filter fun e => p e.1) k d = if p k then t.get k d else d := by
  induction t with
  | nil => simp
  | cons e t ih =>
    obtain ⟨a, x⟩ := e
    by_cases hk : a = k
    · subst hk
      cases hp : p a <;> simp_all [List.filter, Tbl.get]
    · cases hp : p a <;> simp_all [List.filter, Tbl.get]

theorem clearedAt_iff (b : BunchId) (keep : Bool) (a : Nat) : clearedAt b keep a = true ↔
    (scratchBase b + (if keep then 0x20000 else 0) ≤ a ∧ a < scratchBase b + 0x200000)
    ∨ (localsBase (sprigAt b 0) ≤ a ∧ a < localsBase (sprigAt b 0) + 0x400000) := by
  simp only [clearedAt, Bool.or_eq_true, Bool.and_eq_true, decide_eq_true_eq]
  rfl

theorem Core.byte_clearBunch (c : Core) (b : BunchId) (a : Nat) :
    (c.clearBunch b).byte a = if clearedAt b (c.power.kept.getLsbD b.toNat) a then 0 else c.byte a := by
  rw [Core.byte, Core.clearBunch]
  dsimp only
  rw [Tbl.get_filter c.mem fun a => !clearedAt b (c.power.kept.getLsbD b.toNat) a, Core.byte]
  cases clearedAt b (c.power.kept.getLsbD b.toNat) a <;> rfl

theorem Core.lease_clearBunch (c : Core) (b : BunchId) (l : BitVec 2) : (c.clearBunch b).lease b l = Lease.reset := by
  have hl := l.isLt
  rw [Core.lease, Core.clearBunch]
  dsimp only
  rw [Tbl.get_filter c.leases fun k => decide (k / 4 ≠ b.toNat), if_neg]
  rw [decide_eq_true_eq, not_not, leaseKey]
  omega

/-! ### Wake images (R412) -/

theorem localsBase_sprigAt (b : BunchId) (k : BitVec 5) : localsBase (sprigAt b k) = 0x4800000000 + (32 * b.toNat + k.toNat) * 0x20000 := by
  rw [localsBase, sprigAt_toNat]

/-- Where the wake image of a bunch stands, and its length. -/
def Core.imageBase (c : Core) (b : BunchId) : Nat := scratchBase b + 1024 * field (c.bwake b) 23 7
def Core.imageLen (c : Core) (b : BunchId) : Nat := 1024 * field (c.bwake b) 16 5

/-- Address a takes a byte of the image as sprig k restarts. -/
def Core.imaged (c : Core) (b : BunchId) (m : Word) (k : BitVec 5) (a : Nat) : Prop :=
  m.getLsbD k.toNat = true ∧ (c.bwake b).getLsbD 30 = true
  ∧ localsBase (sprigAt b k) + 0x10000 ≤ a ∧ a < localsBase (sprigAt b k) + 0x10000 + c.imageLen b

section
variable {c : Core} {b : BunchId} {m : Word}

theorem Core.image_inside : scratchBase b ≤ c.imageBase b ∧ c.imageBase b + c.imageLen b ≤ scratchBase b + 0x1F6000
    ∧ c.imageLen b ≤ 0x7C00 ∧ scratchBase b + 0x200000 ≤ 0x4800000000 := by
  have hb := b.isLt
  simp only [Core.imageBase, Core.imageLen, field, scratchBase]
  omega

theorem Core.imaged_locals {k : BitVec 5} {a : Nat} (h : c.imaged b m k a) : 0x4800000000 ≤ a := by
  obtain ⟨-, -, hlo, -⟩ := h
  rw [localsBase_sprigAt] at hlo
  omega

/-- Each address belongs to one sprig's image. -/
theorem Core.imaged_inj {j k : BitVec 5} {a : Nat} (hj : c.imaged b m j a) (hk : c.imaged b m k a) : j = k := by
  obtain ⟨-, -, hjlo, hjhi⟩ := hj
  obtain ⟨-, -, hklo, hkhi⟩ := hk
  obtain ⟨-, -, hlen, -⟩ := Core.image_inside (c := c) (b := b)
  rw [localsBase_sprigAt] at *
  exact BitVec.eq_of_toNat_eq (by omega)

end

/-! ### The sprigs' release (R411, R412) -/

theorem Core.byte_setSprig (c : Core) (g : SprigId) (x : Sprig) (a : Nat) : (c.setSprig g x).byte a = c.byte a := rfl

theorem Core.byte_copyWakeImage (c : Core) (b : BunchId) (g : SprigId) (a : Nat) : (c.copyWakeImage b g).byte a
    = if (c.bwake b).getLsbD 30 = true ∧ localsBase g + 0x10000 ≤ a ∧ a < localsBase g + 0x10000 + c.imageLen b
      then c.byte (c.imageBase b + (a - (localsBase g + 0x10000))) else c.byte a := by
  by_cases h30 : (c.bwake b).getLsbD 30 = true
  · have hcopy : c.copyWakeImage b g = c.setBytes (localsBase g + 0x10000) (c.bytes (c.imageBase b) (c.imageLen b)) := if_pos h30
    rw [hcopy, Core.byte_setBytes, Core.bytes_length]
    by_cases hin : localsBase g + 0x10000 ≤ a ∧ a < localsBase g + 0x10000 + c.imageLen b
    · have hlt : a - (localsBase g + 0x10000) < (c.bytes (c.imageBase b) (c.imageLen b)).length := by rw [Core.bytes_length]; omega
      rw [if_pos hin, if_pos ⟨h30, hin⟩, List.getD_eq_getElem _ 0 hlt, Core.bytes_getElem]
    · rw [if_neg hin, if_neg fun h => hin h.2]
  · have hcopy : c.copyWakeImage b g = c := if_neg h30
    rw [hcopy, if_neg fun h => h30 h.1]

section
variable {β : Type} (P : Core → β) (hbyte : ∀ (c : Core) a v, P (c.setByte a v) = P c) (hsprig : ∀ (c : Core) g x, P (c.setSprig g x) = P c)
include hbyte hsprig

theorem Core.releaseSprig_keeps (c : Core) (b : BunchId) (g : SprigId) (r : Bool) : P (c.releaseSprig b g r) = P c := by
  unfold Core.releaseSprig
  split
  · rw [hsprig]
    unfold Core.copyWakeImage
    exact keeps_ite P (Core.setBytes_keeps P hbyte ..) rfl
  · exact hsprig ..

/-- The sprigs of a bunch, up to sprig n, as its release leaves them. -/
def Core.releaseSprigs (c : Core) (b : BunchId) (m : Word) (n : Nat) : Core :=
  (List.range n).foldl (fun c k => c.releaseSprig b (sprigAt b (BitVec.ofNat 5 k)) (m.getLsbD k)) c

theorem Core.releaseSprigs_keeps (c : Core) (b : BunchId) (m : Word) (n : Nat) : P (c.releaseSprigs b m n) = P c :=
  foldl_keeps P _ (fun _ _ => Core.releaseSprig_keeps P hbyte hsprig ..) _ _

end

/-- A sprig after the release of its bunch. -/
def Core.releasedSprig (c : Core) (b : BunchId) (restarts : Bool) : Sprig :=
  if restarts then { Sprig.reset with state := .run, pc := (c.bwake b).setWidth 16 } else Sprig.reset

section
variable (c : Core) (b : BunchId)

theorem Core.releaseSprig_sprig (g h : SprigId) (r : Bool) :
    (c.releaseSprig b g r).sprig h = if h = g then c.releasedSprig b r else c.sprig h := by
  have hcopy : (c.copyWakeImage b g).sprig h = c.sprig h := by
    unfold Core.copyWakeImage
    exact keeps_ite (·.sprig h) (Core.setBytes_keeps (·.sprig h) (fun _ _ _ => rfl) ..) rfl
  unfold Core.releaseSprig Core.releasedSprig
  by_cases hg : h = g
  · subst hg
    cases r <;> simp
  · cases r <;> simp [hg, Core.sprig_setSprig_ne, hcopy]

theorem Core.releaseSprig_byte (g : SprigId) (r : Bool) (a : Nat) : (c.releaseSprig b g r).byte a
    = if r = true ∧ (c.bwake b).getLsbD 30 = true ∧ localsBase g + 0x10000 ≤ a ∧ a < localsBase g + 0x10000 + c.imageLen b
      then c.byte (c.imageBase b + (a - (localsBase g + 0x10000))) else c.byte a := by
  unfold Core.releaseSprig
  cases r
  · simp [Core.byte_setSprig]
  · simp [Core.byte_setSprig, Core.byte_copyWakeImage]

variable (m : Word)

theorem Core.releaseSprigs_succ (n : Nat) : c.releaseSprigs b m (n + 1)
    = (c.releaseSprigs b m n).releaseSprig b (sprigAt b (BitVec.ofNat 5 n)) (m.getLsbD n) := by
  rw [Core.releaseSprigs, List.range_succ, List.foldl_append]
  rfl

@[simp] theorem Core.releaseSprigs_cfg (n : Nat) : (c.releaseSprigs b m n).cfg = c.cfg :=
  Core.releaseSprigs_keeps Core.cfg (fun _ _ _ => rfl) (fun _ _ _ => rfl) c b m n

theorem Core.bwake_of_cfg {c d : Core} (h : c.cfg = d.cfg) (b : BunchId) : c.bwake b = d.bwake b := by rw [Core.bwake, Core.bwake, h]

theorem Core.releaseSprigs_sprig (n : Nat) (hn : n ≤ 32) (h : SprigId) : (c.releaseSprigs b m n).sprig h
    = if bunchOf h = b ∧ (inBunch h).toNat < n then c.releasedSprig b (m.getLsbD (inBunch h).toNat) else c.sprig h := by
  induction n with
  | zero => simp [Core.releaseSprigs]
  | succ n ih =>
    have hk : (BitVec.ofNat 5 n).toNat = n := by rw [BitVec.toNat_ofNat]; omega
    rw [Core.releaseSprigs_succ, Core.releaseSprig_sprig, ih (by omega)]
    by_cases hh : h = sprigAt b (BitVec.ofNat 5 n)
    · subst hh
      rw [if_pos rfl, bunchOf_sprigAt, inBunch_sprigAt, hk, if_pos ⟨rfl, Nat.lt_succ_self n⟩, Core.releasedSprig, Core.releasedSprig,
        Core.bwake_of_cfg (Core.releaseSprigs_cfg ..)]
    · have hlast : (bunchOf h = b ∧ (inBunch h).toNat < n + 1) ↔ (bunchOf h = b ∧ (inBunch h).toNat < n) := by
        refine and_congr_right fun hb => ⟨fun hlt => ?_, Nat.lt_succ_of_lt⟩
        refine lt_of_le_of_ne (Nat.le_of_lt_succ hlt) fun he => hh ?_
        rw [← hb, ← he, BitVec.ofNat_toNat, BitVec.setWidth_eq, sprigAt_bunchOf]
      rw [if_neg hh, if_congr hlast rfl rfl]

/-- A byte of sprig k's image, and any other, after its release in a core with c's configuration. -/
theorem Core.releaseSprig_byte_at {d : Core} (hd : d.cfg = c.cfg) (k : BitVec 5) (a : Nat) :
    (c.imaged b m k a → (d.releaseSprig b (sprigAt b k) (m.getLsbD k.toNat)).byte a
      = d.byte (c.imageBase b + (a - (localsBase (sprigAt b k) + 0x10000))))
    ∧ (¬c.imaged b m k a → (d.releaseSprig b (sprigAt b k) (m.getLsbD k.toNat)).byte a = d.byte a) := by
  have hw := Core.bwake_of_cfg hd b
  rw [Core.releaseSprig_byte, Core.imageBase, Core.imageLen, hw]
  exact ⟨fun h => if_pos h, fun h => if_neg h⟩

/-- Every image comes from the scratchpad, which no image overwrites. -/
theorem Core.releaseSprigs_byte (n : Nat) (hn : n ≤ 32) :
    (∀ a, (∀ k : BitVec 5, k.toNat < n → ¬c.imaged b m k a) → (c.releaseSprigs b m n).byte a = c.byte a)
    ∧ ∀ (k : BitVec 5) a, k.toNat < n → c.imaged b m k a →
      (c.releaseSprigs b m n).byte a = c.byte (c.imageBase b + (a - (localsBase (sprigAt b k) + 0x10000))) := by
  induction n with
  | zero => exact ⟨fun _ _ => rfl, fun k _ hk => absurd hk (Nat.not_lt_zero _)⟩
  | succ n ih =>
    obtain ⟨hout, hin⟩ := ih (by omega)
    have hlast : (BitVec.ofNat 5 n).toNat = n := by rw [BitVec.toNat_ofNat]; omega
    have hstep (a : Nat) := c.releaseSprig_byte_at b m (c.releaseSprigs_cfg b m n) (BitVec.ofNat 5 n) a
    rw [hlast] at hstep
    rw [Core.releaseSprigs_succ]
    refine ⟨fun a ha => ?_, fun k a hk ha => ?_⟩
    · rw [(hstep a).2 (ha _ (by omega)), hout a fun k hk => ha k (by omega)]
    · by_cases hkn : k = BitVec.ofNat 5 n
      · subst hkn
        rw [(hstep a).1 ha]
        refine hout _ fun j _ hj => ?_
        obtain ⟨-, -, hlo, hhi⟩ := ha
        obtain ⟨-, htop, -, hscr⟩ := Core.image_inside (c := c) (b := b)
        have := Core.imaged_locals hj
        omega
      · have hne : k.toNat ≠ n := fun h => hkn (BitVec.eq_of_toNat_eq (h.trans hlast.symm))
        rw [(hstep a).2 fun hj => hkn (Core.imaged_inj ha hj), hin k a (by omega) ha]

end

/-! ### The release of a bunch (R179, R353, R411, R412) -/

theorem pageBytes_length (t : Tbl Word) (b : BunchId) (gen : Word) (last : DWord) : (pageBytes t b gen last).length = 4096 := by
  simp only [pageBytes, List.length_append, List.length_flatMap, bytesOf_length, List.map_const', List.sum_replicate, List.length_range]
  rfl

section
variable (c : Core) (b : BunchId)

/-- The bunch cleared, and its sprigs released. -/
def Core.released : Core := (c.clearBunch b).releaseSprigs b (Tbl.get c.power.restart b.toNat 0) 32

/-- And the setting page rewritten. -/
def Core.repaged : Core :=
  (c.released b).storeEcc (currentView b) (pageBytes (c.released b).cfg b (c.released b).store.gen (c.released b).store.last) false

theorem Core.releaseBunch_eq : c.releaseBunch b = { c.repaged b with power := { (c.repaged b).power with
    gated := (c.repaged b).power.gated &&& ~~~Core.bunchBit b, waking := (c.repaged b).power.waking &&& ~~~Core.bunchBit b
    kept := (c.repaged b).power.kept &&& ~~~Core.bunchBit b
    restart := Tbl.set (c.repaged b).power.restart b.toNat 0 0 } } := rfl

theorem Core.released_keeps {β : Type} (P : Core → β) (hbyte : ∀ (c : Core) a v, P (c.setByte a v) = P c)
    (hsprig : ∀ (c : Core) g x, P (c.setSprig g x) = P c) (hclear : P (c.clearBunch b) = P c) : P (c.released b) = P c :=
  (Core.releaseSprigs_keeps P hbyte hsprig ..).trans hclear

theorem Core.repaged_keeps {β : Type} (P : Core → β) (hbyte : ∀ (c : Core) a v, P (c.setByte a v) = P c)
    (hmark : ∀ (c : Core) a m, P (c.setMark a m) = P c) (hsprig : ∀ (c : Core) g x, P (c.setSprig g x) = P c)
    (hclear : P (c.clearBunch b) = P c) : P (c.repaged b) = P c :=
  (Core.storeEcc_keeps P hbyte hmark ..).trans (Core.released_keeps c b P hbyte hsprig hclear)

theorem Core.repaged_rest : let d := c.repaged b
    d.power = c.power ∧ d.queues = c.queues ∧ d.bics = c.bics ∧ d.dms = c.dms ∧ d.deals = c.deals ∧ d.partEpoch = c.partEpoch ∧ d.cfg = c.cfg := by
  refine ⟨?_, ?_, ?_, ?_, ?_, ?_, ?_⟩ <;>
    exact Core.repaged_keeps c b _ (fun _ _ _ => rfl) (fun _ _ _ => rfl) (fun _ _ _ => rfl) rfl

theorem Core.repaged_mem :
    (c.repaged b).mem = ((c.released b).setBytes (currentView b) (pageBytes c.cfg b c.store.gen c.store.last)).mem := by
  have hcfg : (c.released b).cfg = c.cfg := Core.released_keeps c b Core.cfg (fun _ _ _ => rfl) (fun _ _ _ => rfl) rfl
  have hstore : (c.released b).store = c.store := Core.released_keeps c b Core.store (fun _ _ _ => rfl) (fun _ _ _ => rfl) rfl
  rw [Core.repaged, Core.storeEcc_mem, hcfg, hstore]

theorem Core.repaged_page : (c.repaged b).bytes (scratchBase b + 0x1F6000) 4096 = pageBytes c.cfg b c.store.gen c.store.last := by
  rw [Core.bytes_congr (Core.repaged_mem ..), ← pageBytes_length c.cfg b c.store.gen c.store.last]
  exact Core.bytes_setBytes_self ..

theorem Core.repaged_byte {a : Nat} (h : ¬(scratchBase b + 0x1F6000 ≤ a ∧ a < scratchBase b + 0x1F7000)) :
    (c.repaged b).byte a = (c.released b).byte a := by
  rw [Core.byte_congr (Core.repaged_mem ..), Core.setBytes_same_but]
  rw [pageBytes_length, currentView]
  omega

/-- An address that no sprig's image takes. -/
theorem Core.released_byte {a : Nat} (h : ∀ k : BitVec 5, ¬c.imaged b (Tbl.get c.power.restart b.toNat 0) k a) :
    (c.released b).byte a = if clearedAt b (c.power.kept.getLsbD b.toNat) a then 0 else c.byte a := by
  rw [← Core.byte_clearBunch]
  exact (Core.releaseSprigs_byte (c.clearBunch b) b _ 32 le_rfl).1 a fun k _ => h k

theorem Core.released_image {k : BitVec 5} {a : Nat} (h : c.imaged b (Tbl.get c.power.restart b.toNat 0) k a) :
    let f := c.imageBase b + (a - (localsBase (sprigAt b k) + 0x10000))
    (c.released b).byte a = if clearedAt b (c.power.kept.getLsbD b.toNat) f then 0 else c.byte f := by
  intro f
  rw [← Core.byte_clearBunch]
  exact (Core.releaseSprigs_byte (c.clearBunch b) b _ 32 le_rfl).2 k a k.isLt h

theorem Core.repaged_sprig (g : SprigId) : (c.repaged b).sprig g = if bunchOf g = b
    then c.releasedSprig b ((Tbl.get c.power.restart b.toNat 0).getLsbD (inBunch g).toNat) else c.sprig g := by
  have h : (c.repaged b).sprig g = (c.released b).sprig g := Core.storeEcc_keeps (·.sprig g) (fun _ _ _ => rfl) (fun _ _ _ => rfl) ..
  rw [h, Core.released, Core.releaseSprigs_sprig _ _ _ 32 le_rfl, if_congr (and_iff_left (inBunch g).isLt) rfl rfl]
  rfl

theorem Core.repaged_lease (l : BitVec 2) : (c.repaged b).lease b l = Lease.reset := by
  have h : (c.repaged b).lease b l = (c.clearBunch b).lease b l :=
    (Core.storeEcc_keeps (·.lease b l) (fun _ _ _ => rfl) (fun _ _ _ => rfl) ..).trans
      (Core.releaseSprigs_keeps (·.lease b l) (fun _ _ _ => rfl) (fun _ _ _ => rfl) ..)
  rw [h, Core.lease_clearBunch]

end

/-! ### Answers that wait (R413) -/

theorem Core.answerWhere_keeps {β : Type} (P : Core → β) (hmem : ∀ (c : Core) l, P { c with hmem := l } = P c)
    (hrep : ∀ (c : Core) l, P { c with replies := l } = P c) (hhqp : ∀ (c : Core) h x, P (c.setHqp h x) = P c)
    (hcmd : ∀ (c : Core) q l, P (c.setCmds q l) = P c) (c : Core) (p : Cmd → Bool) (r : Reply) : P (c.answerWhere p r) = P c :=
  foldl_keeps P _ (fun _ _ => Core.answerCmd_keeps P hmem hrep hhqp hcmd ..) _ _

theorem Core.answerHolds_rest (c : Core) : let d := c.answerHolds
    d.power = c.power ∧ d.sprigs = c.sprigs ∧ d.mem = c.mem ∧ d.leases = c.leases ∧ d.queues = c.queues ∧ d.bics = c.bics ∧ d.dms = c.dms
    ∧ d.deals = c.deals ∧ d.partEpoch = c.partEpoch ∧ d.cfg = c.cfg := by
  refine ⟨?_, ?_, ?_, ?_, ?_, ?_, ?_, ?_, ?_, ?_⟩ <;>
    exact Core.answerWhere_keeps _ (fun _ _ => rfl) (fun _ _ => rfl) (fun _ _ _ => rfl) (fun _ _ _ => rfl) ..

/-- What does not stand in the power block, the bunch's release leaves as clearing, the sprigs and the page left it. -/
theorem Core.releaseBunch_keeps {β : Type} (c : Core) (b : BunchId) (P : Core → β) (hP : ∀ (c : Core) w, P { c with power := w } = P c) :
    P (c.releaseBunch b) = P (c.repaged b) := (congrArg P (c.releaseBunch_eq b)).trans (hP ..)

/-- A release with the answers that waited for it: of the memory, the sprigs and the leases only the bunch's release changes anything. -/
theorem Core.releaseBunch_answerHolds (c : Core) (b : BunchId) : let d := (c.releaseBunch b).answerHolds
    d.power = { c.power with
      gated := c.power.gated &&& ~~~Core.bunchBit b, waking := c.power.waking &&& ~~~Core.bunchBit b
      kept := c.power.kept &&& ~~~Core.bunchBit b, restart := Tbl.set c.power.restart b.toNat 0 0 }
    ∧ d.sprigs = (c.repaged b).sprigs ∧ d.mem = (c.repaged b).mem ∧ d.leases = (c.repaged b).leases ∧ d.queues = c.queues ∧ d.bics = c.bics
    ∧ d.dms = c.dms ∧ d.deals = c.deals ∧ d.partEpoch = c.partEpoch ∧ d.cfg = c.cfg := by
  obtain ⟨hpower, hqueues, hbics, hdms, hdeals, hepoch, hcfg⟩ := c.repaged_rest b
  obtain ⟨epower, esprigs, emem, eleases, equeues, ebics, edms, edeals, eepoch, ecfg⟩ := (c.releaseBunch b).answerHolds_rest
  refine ⟨epower.trans ?_, esprigs.trans ?_, emem.trans ?_, eleases.trans ?_, equeues.trans (.trans ?_ hqueues), ebics.trans (.trans ?_ hbics),
    edms.trans (.trans ?_ hdms), edeals.trans (.trans ?_ hdeals), eepoch.trans (.trans ?_ hepoch), ecfg.trans (.trans ?_ hcfg)⟩
  · rw [Core.releaseBunch_eq, hpower]
  all_goals exact c.releaseBunch_keeps b _ fun _ _ => rfl

theorem exec_bunchWakeRelease {s : State} {b : BunchId} (hr : s.core.running = true) (hw : s.core.power.waking.getLsbD b.toNat = true) :
    exec (.bunchWakeRelease b) s = .next (s.on (s.core.releaseBunch b).answerHolds) :=
  congrArg (fun c => Host.Outcome.next (s.on c)) (if_pos (by rw [hr, hw]; rfl))

theorem exec_bunchWakeRelease_stays {s : State} {b : BunchId} (h : s.core.running = false ∨ s.core.power.waking.getLsbD b.toNat = false) :
    exec (.bunchWakeRelease b) s = .next s := by
  refine congrArg (fun c => Host.Outcome.next (s.on c)) (if_neg ?_)
  rcases h with h | h <;> simp [h]

/-! ### BUNCH_HOLD (R413) -/

/-- The gated bunches among u start to wake. -/
def Core.wakes (c : Core) (u : DWord) : Core :=
  { c with power := { c.power with gated := c.power.gated &&& ~~~u, waking := c.power.waking ||| (c.power.gated &&& u) } }

theorem Core.wakes_of {c : Core} {u g w : DWord} (hg : c.power.gated &&& ~~~u = g) (hw : c.power.waking ||| (c.power.gated &&& u) = w) :
    c.wakes u = { c with power := { c.power with gated := g, waking := w } } := by
  subst hg hw
  rfl

theorem Core.wakes_none {c : Core} {u : DWord} (h : ∀ j, u.getLsbD j = true → c.power.gated.getLsbD j = false) : c.wakes u = c := by
  have hmeet : c.power.gated &&& u = 0 := by
    apply BitVec.eq_of_getLsbD_eq
    intro j hj
    rw [BitVec.getLsbD_and]
    cases hu : u.getLsbD j
    · simp
    · simp [h j hu]
  have hkeep : c.power.gated &&& ~~~u = c.power.gated := by
    apply BitVec.eq_of_getLsbD_eq
    intro j hj
    rw [BitVec.getLsbD_and, BitVec.getLsbD_not]
    cases hu : u.getLsbD j
    · simp [hj]
    · simp [h j hu]
  exact Core.wakes_of (g := c.power.gated) (w := c.power.waking) hkeep (by rw [hmeet]; exact BitVec.or_zero)

theorem Core.wakes_zero (c : Core) : c.wakes 0 = c := Core.wakes_none fun j hj => by simp at hj

theorem Core.wakes_wakes (c : Core) (u v : DWord) : (c.wakes u).wakes v = c.wakes (u ||| v) := by
  refine Core.wakes_of ?_ ?_
  · rw [Core.wakes, BitVec.not_or, BitVec.and_assoc]
  · rw [Core.wakes]
    ext j hj
    simp only [BitVec.getElem_or, BitVec.getElem_and, BitVec.getElem_not]
    cases c.power.gated[j] <;> cases c.power.waking[j] <;> cases u[j] <;> rfl

theorem Core.startBunch_wakes (c : Core) (b : BunchId) : c.startBunch b = c.wakes (Core.bunchBit b) := by
  have hbit (n : Nat) : (Core.bunchBit b).getLsbD n = decide (n = b.toNat) := getLsbD_bit b.isLt n
  cases hg : c.power.gated.getLsbD b.toNat
  · rw [Core.startBunch, hg, if_neg (by decide), Core.wakes_none]
    intro j hj
    rw [hbit, decide_eq_true_eq] at hj
    rw [hj, hg]
  · have hmeet : c.power.gated &&& Core.bunchBit b = Core.bunchBit b := by
      apply BitVec.eq_of_getLsbD_eq
      intro j hj
      rw [BitVec.getLsbD_and, hbit]
      by_cases h : j = b.toNat <;> simp [h, hg]
    rw [Core.startBunch, hg, if_pos rfl, Core.wakes_of rfl (by rw [hmeet])]

/-- The bunches of a mask, one after the other. -/
theorem Core.startBunches_wakes (c : Core) (u : DWord) :
    (List.range 64).foldl (fun c b => if u.getLsbD b then c.startBunch (BitVec.ofNat 6 b) else c) c = c.wakes u := by
  have hrun (n : Nat) (hn : n ≤ 64) : (List.range n).foldl (fun c b => if u.getLsbD b then c.startBunch (BitVec.ofNat 6 b) else c) c
      = c.wakes ((List.range n).foldl (fun m k => if u.getLsbD k then m ||| (1#64 <<< k) else m) 0) := by
    induction n with
    | zero => exact c.wakes_zero.symm
    | succ n ih =>
      have hlast : (BitVec.ofNat 6 n).toNat = n := by rw [BitVec.toNat_ofNat]; omega
      simp only [List.range_succ, List.foldl_append, List.foldl_cons, List.foldl_nil, ih (by omega)]
      split
      · rw [Core.startBunch_wakes, Core.wakes_wakes, Core.bunchBit, hlast]
      · rfl
  rw [hrun 64 le_rfl]
  congr 1
  exact BitVec.eq_of_getLsbD_eq fun j hj => getLsbD_maskOf (u.getLsbD ·) hj

/-- The core after PWR_BUNCH_HOLD took a value. -/
theorem Core.setHold_eq (c : Core) (v : DWord) : c.setHold v = { c with power := { c.power with
    hold := v ||| 1, prep := c.power.prep &&& ~~~(v ||| 1), gated := c.power.gated &&& ~~~(v ||| 1)
    waking := c.power.waking ||| (c.power.gated &&& (v ||| 1)) } } :=
  Core.startBunches_wakes _ (v ||| 1)

theorem Core.concludes_ite (q : CmdSrc) (c : Core) (r : Reply) (p : Prop) [Decidable p] :
    Core.concludes q (c, if p then some r else none) = if p then c.answerCmd q r else c.beginCmd q := by
  split <;> rfl

/-- The value that the operation of a BUNCH_HOLD command gives: 0 sets, 1 clears, 2 writes. -/
theorem Core.cmdHold_writes (c : Core) (a : Args) {v : DWord}
    (hv : (a.w 2 = 0 ∧ v = (c.power.hold ||| (a.w 1 ++ a.w 0))) ∨ (a.w 2 = 1 ∧ v = (c.power.hold &&& ~~~(a.w 1 ++ a.w 0)))
      ∨ (a.w 2 = 2 ∧ v = a.w 1 ++ a.w 0)) :
    c.cmdHold a = (c.setHold v, if heldMask a.own &&& ((c.setHold v).power.gated ||| (c.setHold v).power.waking) = 0
      then some (Sys2Proof.Machine.ok []) else none) := by
  rcases hv with ⟨hop, rfl⟩ | ⟨hop, rfl⟩ | ⟨hop, rfl⟩ <;> rw [Core.cmdHold, hop] <;> rfl

theorem Core.cmdHold_bad (c : Core) (a : Args) (h : 3 ≤ (a.w 2).toNat) : c.cmdHold a = (c, some ⟨0x0101, []⟩) := by
  rw [Core.cmdHold]
  dsimp only
  split
  · omega
  · omega
  · omega
  · rfl

section
variable {s : State} {q : CmdSrc} {x : Cmd} {bs : List Byte}
  (h : s.core.heads q { opc := 0x0601, who := .supervisors, minLen := 12 } x bs)
include h

/-- The value is written, and the command is answered once the bunches it holds are ready. -/
theorem exec_bunchHold_writes {v : DWord} (hv : let m : DWord := pword x.own 1 ++ pword x.own 0
      (pword x.own 2 = 0 ∧ v = (s.core.power.hold ||| m)) ∨ (pword x.own 2 = 1 ∧ v = (s.core.power.hold &&& ~~~m)) ∨ (pword x.own 2 = 2 ∧ v = m)) :
    let c := s.core.setHold v
    exec (.bunchHold q) s = .next (s.on (if heldMask x.own &&& (c.power.gated ||| c.power.waking) = 0 then c.answerCmd q ⟨0, []⟩
      else c.beginCmd q)) := by
  intro c
  refine (command_coreBody _ h).trans ?_
  rw [Core.cmdHold_writes s.core ⟨x, x.own, bs⟩ hv, Core.concludes_ite]
  rfl

theorem exec_bunchHold_bad (hop : 3 ≤ (pword x.own 2).toNat) : exec (.bunchHold q) s = .next (s.on (s.core.answerCmd q ⟨0x0101, []⟩)) := by
  refine (command_coreBody _ h).trans ?_
  rw [Core.cmdHold_bad s.core ⟨x, x.own, bs⟩ hop]
  rfl

end

end Sys2Proof.Machine

open Sys2Proof Sys2Proof.Machine

/-- Settles O48, by what idleness asks, the bits that gating notes, the memory that a release leaves, and the masks of BUNCH_HOLD. -/
theorem bunchPower : Obligations.BunchPower := by
  intro s b q x bs c w bit restart waits idle running ns runs ret cleared restarts page ram imaged mask holds held gives
  have hidle : c.bunchIdle b = true ↔ idle := Core.bunchIdle_iff c b
  have hrunning : c.running = true ↔ running := Core.running_iff c
  have hstopped : c.running = false ↔ ¬running := by rw [← hrunning, Bool.not_eq_true]
  have hruns : c.asleep b = false ↔ runs := Bool.or_eq_false_iff
  have hcleared (a : Nat) : clearedAt b (w.kept.getLsbD b.toNat) a = true ↔ cleared a := clearedAt_iff ..
  have hgives {v m : DWord} (h : c.heads q { opc := 0x0601, who := .supervisors, minLen := 12 } x bs)
      (hv : (pword x.own 2 = 0 ∧ v = (w.hold ||| mask)) ∨ (pword x.own 2 = 1 ∧ v = (w.hold &&& ~~~mask)) ∨ (pword x.own 2 = 2 ∧ v = mask))
      (hm : heldMask x.own = m) : exec (.bunchHold q) s = gives v m := by
    rw [exec_bunchHold_writes h hv, Core.setHold_eq, hm]
    dsimp only
    rw [← BitVec.or_assoc]
  refine ⟨fun hr hn ha hq hi => ?prepares, fun h => ?stays, fun hp hi hq => ?gates, fun hp h => ?ends, exec_bunchGated_late,
    fun hr hg => exec_firstAccess_wakes (hrunning.mpr hr) hg, fun h => exec_firstAccess_stays (h.imp_left hstopped.mpr),
    fun hr hw => ?release, fun h => exec_bunchWakeRelease_stays (h.imp_left hstopped.mpr),
    fun h => ?sets, fun h => ?clears, fun h => ?writes, fun op h h3 => ?bad⟩
  case prepares => exact exec_bunchIdleExpiry_prepares (hrunning.mpr hr) hn (hruns.mpr ha) hq (hidle.mpr hi)
  case stays =>
    refine exec_bunchIdleExpiry_stays fun ⟨hr, hn, ha, hq, hi⟩ => ?_
    rcases h with h | h | h | h | h
    · exact h (hrunning.mp hr)
    · exact hn h
    · exact h (hruns.mp ha)
    · rw [hq] at h
      exact Bool.false_ne_true h
    · exact h (hidle.mp hi)
  case gates =>
    obtain ⟨m, hm, hbits⟩ := (c.touch b).noteRestart_eq b
    refine ⟨_, exec_bunchGated_gates hp (hidle.mpr hi) hq, ⟨m, ?_, hbits⟩, fun n => ?_⟩
    · rw [hm]
      rfl
    · refine (Core.getLsbD_gate_kept ..).trans ?_
      rw [hm, Core.retained_eq _ b.isLt]
      rfl
  case ends =>
    refine exec_bunchGated_ends hp fun ⟨hi, hq⟩ => ?_
    rcases h with h | h
    · exact h (hidle.mp hi)
    · rw [hq] at h
      exact Bool.false_ne_true h
  case release =>
    refine ⟨_, exec_bunchWakeRelease (hrunning.mpr hr) hw, ?_⟩
    obtain ⟨hpower, hsprigs, hmem, hleases, hqueues, hbics, hdms, hdeals, hepoch, hcfg⟩ := c.releaseBunch_answerHolds b
    have hbyte (a : Nat) := (Core.byte_congr hmem a : (c.releaseBunch b).answerHolds.byte a = (c.repaged b).byte a)
    have hsprig (g : SprigId) : (c.releaseBunch b).answerHolds.sprig g = (c.repaged b).sprig g := by rw [Core.sprig, hsprigs, Core.sprig]
    have hlease (l : BitVec 2) : (c.releaseBunch b).answerHolds.lease b l = (c.repaged b).lease b l := by rw [Core.lease, hleases, Core.lease]
    refine ⟨hpower, fun k => ?_, fun g hg => ?_, fun k a hk => ?_, (Core.bytes_congr hmem ..).trans (c.repaged_page b),
      fun a hpage hout => ?_, fun l => (hlease l).trans (c.repaged_lease b l), hqueues, hbics, hdms, hdeals, hepoch, hcfg⟩
    · have hk := (hsprig (sprigAt b k)).trans (c.repaged_sprig b (sprigAt b k))
      rw [if_pos (bunchOf_sprigAt b k), inBunch_sprigAt] at hk
      exact ⟨fun h => hk.trans (if_pos h), fun h => hk.trans (if_neg h)⟩
    · rw [State.on_core, hsprig, c.repaged_sprig, if_neg hg]
    · have hlocal := Core.imaged_locals (c := c) hk
      obtain ⟨-, -, -, hscratch⟩ := Core.image_inside (c := c) (b := b)
      rw [State.on_core, hbyte, c.repaged_byte b (by omega), c.released_image b hk]
      exact if_congr (hcleared _) rfl rfl
    · have hrest := (hbyte a).trans ((c.repaged_byte b hpage).trans (c.released_byte b hout))
      exact ⟨fun h => hrest.trans (if_pos ((hcleared a).mpr h)), fun h => hrest.trans (if_neg fun h' => h ((hcleared a).mp h'))⟩
  case sets =>
    obtain ⟨hh, hop⟩ := h
    exact hgives hh (Or.inl ⟨hop, rfl⟩) (if_neg (by rw [hop]; decide))
  case clears =>
    obtain ⟨hh, hop⟩ := h
    exact hgives hh (Or.inr (Or.inl ⟨hop, rfl⟩)) (if_pos hop)
  case writes =>
    obtain ⟨hh, hop⟩ := h
    exact hgives hh (Or.inr (Or.inr ⟨hop, rfl⟩)) (if_neg (by rw [hop]; decide))
  case bad => exact exec_bunchHold_bad h.1 (by rw [h.2]; exact h3)
end

section
/-!
PROOFS. Power states: what POWER_STATE and a power entry do, the sources of a wake, the WATCH cycle and registers, the supply and its dips.
-/
namespace Sys2Proof.Machine

/-! ### POWER_STATE (R414, R421) -/

section
variable (q : CmdSrc) (s : State) (a : Args) {st : PowerState}

theorem powerBody_run (h : a.w 0 = 0) : powerBody q s a = (s, some ⟨0, []⟩) := by
  rw [powerBody, h]
  rfl

theorem powerOf_eq_none {v : Word} (h : 4 ≤ v.toNat) : powerOf v = none := by
  unfold powerOf
  split
  · omega
  · omega
  · omega
  · omega
  · rfl

theorem powerBody_unnamed (h : 4 ≤ (a.w 0).toNat) : powerBody q s a = (s, some ⟨0x0101, []⟩) := by
  rw [powerBody, powerOf_eq_none h]
  rfl

/-- The states that POWER_STATE enters, by number. -/
theorem powerOf_eq_some {v : Word} : powerOf v = some st ∧ st ≠ .run ↔
    (v = 1 ∧ st = .standby) ∨ (v = 2 ∧ st = .watch) ∨ (v = 3 ∧ st = .off) := by
  constructor
  · rintro ⟨h, hrun⟩
    have key : (v.toNat = 1 ∧ st = .standby) ∨ (v.toNat = 2 ∧ st = .watch) ∨ (v.toNat = 3 ∧ st = .off) := by
      unfold powerOf at h
      split at h
      all_goals simp_all
    simpa [BitVec.toNat_eq] using key
  · rintro (⟨rfl, rfl⟩ | ⟨rfl, rfl⟩ | ⟨rfl, rfl⟩) <;> decide

theorem powerOf_low {v : Word} (h1 : 1 ≤ v.toNat) (h3 : v.toNat ≤ 3) : ∃ st, powerOf v = some st ∧ st ≠ .run := by
  obtain h | h | h : v = 1#32 ∨ v = 2#32 ∨ v = 3#32 := by bv_omega
  · exact ⟨_, powerOf_eq_some.mpr (Or.inl ⟨h, rfl⟩)⟩
  · exact ⟨_, powerOf_eq_some.mpr (Or.inr (Or.inl ⟨h, rfl⟩))⟩
  · exact ⟨_, powerOf_eq_some.mpr (Or.inr (Or.inr ⟨h, rfl⟩))⟩

/-- A request for a state: the refusals in their order, and the start of an entry. -/
theorem powerBody_enters (h : powerOf (a.w 0) = some st) (hrun : st ≠ .run) : powerBody q s a =
    if s.core.power.request.isSome then (s, some ⟨0x0400, []⟩)
    else if st = .off ∧ s.isl.prog = .running then (s, some ⟨0x0200, [0x61, 0]⟩)
    else if s.core.acceptedHands ≠ [] then (s, some ⟨0x0200, [0x90, 0]⟩)
    else if s.core.wakeEnable &&& wakeBits st = 0 then (s, some ⟨0x0101, [0x91, 0]⟩)
    else (s.on ((s.core.entryParts q).foldl Core.enterQuiesce
      { s.core with power := { s.core.power with request := some (q, st) }, aon := { s.core.aon with early := 0 } }), none) := by
  rw [powerBody, h]
  cases st
  · exact absurd rfl hrun
  all_goals rfl

end

section
variable {s : State} {q : CmdSrc} {x : Cmd} {bs : List Byte} (h : s.core.heads q { opc := 0x0600, who := .supervisors, minLen := 4 } x bs)
include h

theorem exec_powerState_answers {r : Reply} (hb : powerBody q s ⟨x, x.own, bs⟩ = (s, some r)) :
    exec (.powerState q) s = .next (s.on (s.core.answerCmd q r)) := by
  refine (command_heads (powerBody q) h).trans ?_
  rw [hb]

theorem exec_powerState_starts {c : Core} (hb : powerBody q s ⟨x, x.own, bs⟩ = (s.on c, none)) :
    exec (.powerState q) s = .next (s.on (c.beginCmd q)) := by
  refine (command_heads (powerBody q) h).trans ?_
  rw [hb]
  rfl

end

/-! ### POWER_ENTRY (R175, R311, R415) -/

section
variable (c : Core)

theorem Core.windowOpen_iff (p : Part) :
    c.windowOpen p = true ↔ ∃ t, c.quietSince p = some t ∧ (c.time.dtime - t).toNat < 80000 ∧ p ∉ c.power.inReset := by
  rw [Core.windowOpen]
  cases c.quietSince p with
  | none => simp
  | some t =>
    simp only [Bool.and_eq_true, decide_eq_true_eq, Bool.not_eq_true', decide_eq_false_iff_not, Option.some.injEq, exists_eq_left']
    rfl

theorem Core.leased_iff (b : BunchId) : c.leasesBusy b = true ↔
    ∃ l : BitVec 2, (c.lease b l).st = .copying ∨ (c.lease b l).st = .active ∨ (c.lease b l).st = .restoring := by
  rw [← Bool.not_eq_false, Core.leasesBusy_iff]
  push Not
  refine exists_congr fun l => ?_
  tauto

theorem Core.stopTime_eq (n : BitVec 48) : c.stopTime n = { c with time := if c.time.running then
    { c.time with running := false, sleepDt := c.time.dtime, uncertStop := c.time.uncert, aonStop := n, frac := 0 } else c.time } := by
  unfold Core.stopTime
  split <;> rfl

/-- The sequencer takes control: time stops, every bunch is gated, and the supply is dropped. -/
def Core.lower (d : Core) (st : PowerState) : Core :=
  { d with
    time := if d.time.running then
      { d.time with running := false, sleepDt := d.time.dtime, uncertStop := d.time.uncert, aonStop := d.aon.ticks, frac := 0 } else d.time
    boot := { d.boot with steward := false }
    mon := { d.mon with locked := true }
    power := { d.power with
      request := none, gated := BitVec.allOnes 64, waking := 0, prep := 0
      kept := (d.power.kept &&& ~~~(~~~d.power.waking &&& ~~~d.power.gated)) ||| (d.retMask &&& ~~~d.power.waking &&& ~~~d.power.gated) }
    aon := { d.aon with power := st, pwrEn := false, pgood := false, entry := d.aon.ticks, watchN := 0, back := st } }

theorem Core.enterLow_eq (st : PowerState) : c.enterLow st = Core.lower (if c.asleep 0 then c else c.noteRestart 0 true) st := by
  have hticks : (if c.asleep 0 then c else c.noteRestart 0 true).aon.ticks = c.aon.ticks := keeps_ite (·.aon.ticks) rfl rfl
  rw [Core.enterLow, ← hticks]
  dsimp only
  rw [Core.stopTime_eq, BitVec.allOnes_and]
  rfl

end

theorem Core.powerDown_eq (c : Core) (p : Part) : c.powerDown p =
    let d := if p ∈ c.power.inReset ∨ c.quiet p = false then c else (c.logCut p).cut p
    { d with
      power := { d.power with inReset := d.power.inReset.filter fun x => decide (x ≠ p) }
      quiesce := d.quiesce.filter fun e => decide (e.1 ≠ p) } := by
  have hcut : (if p ∈ c.power.inReset ∨ !c.quiet p then c else (c.logCut p).cut p)
      = if p ∈ c.power.inReset ∨ c.quiet p = false then c else (c.logCut p).cut p := if_congr (by rw [Bool.not_eq_true']) rfl rfl
  rw [Core.powerDown, hcut]
  rfl

theorem exec_powerEntry_idle {s : State} (h : s.core.power.request = none) : exec .powerEntry s = .next s := by
  refine congrArg Host.Outcome.next ?_
  rw [h]

section
variable {s : State} {q : CmdSrc} {st : PowerState} (h : s.core.power.request = some (q, st))

/-- What delays an entry. -/
def Core.entryWaits (c : Core) (q : CmdSrc) (st : PowerState) : Prop :=
  (st = .off ∧ !c.store.mirrored) ∨ c.leasesBusy 0 ∨ (c.entryParts q).any c.windowOpen

theorem Core.entryWaits_iff (c : Core) (q : CmdSrc) (st : PowerState) : c.entryWaits q st ↔
    (st = .off ∧ c.store.mirrored = false)
    ∨ (∃ l : BitVec 2, (c.lease 0 l).st = .copying ∨ (c.lease 0 l).st = .active ∨ (c.lease 0 l).st = .restoring)
    ∨ ∃ p ∈ c.entryParts q, ∃ t, c.quietSince p = some t ∧ (c.time.dtime - t).toNat < 80000 ∧ p ∉ c.power.inReset := by
  simp only [Core.entryWaits, Core.leased_iff, List.any_eq_true, Core.windowOpen_iff, Bool.not_eq_true']

include h

theorem exec_powerEntry_waits (hw : s.core.entryWaits q st) : exec .powerEntry s = .next s := by
  refine congrArg Host.Outcome.next ?_
  rw [h]
  exact if_pos hw

variable (hw : ¬s.core.entryWaits q st)
include hw

theorem exec_powerEntry_drains (hst : st ≠ .off) (hd : s.core.openChannels ≠ []) :
    exec .powerEntry s = .next (s.on (s.core.openChannels.foldl Core.enterQuiesce s.core)) := by
  refine congrArg Host.Outcome.next ?_
  rw [h]
  exact (if_neg hw).trans (if_pos ⟨hst, hd⟩)

theorem exec_powerEntry_sleeps (hst : st ≠ .off) (hd : s.core.openChannels = []) : exec .powerEntry s = .next (s.on
    (Core.enterLow (((s.core.entryParts q).foldl Core.powerDown s.core).leaveResume.answerWhere (fun x => decide (x.opcode = 0x0600)) ⟨0, []⟩) st)) := by
  refine congrArg Host.Outcome.next ?_
  rw [h]
  refine (if_neg hw).trans ((if_neg fun hopen => hopen.2 hd).trans ?_)
  dsimp only
  rw [if_neg hst, if_neg hst]
  rfl

theorem exec_powerEntry_off (hst : st = .off) :
    let d := ((s.core.entryParts q).foldl Core.powerDown s.core).answerWhere (fun x => decide (x.opcode = 0x0600)) ⟨0, []⟩
    exec .powerEntry s = .next (s.on { d with power := { d.power with request := none } }).enterOff := by
  intro d
  refine congrArg Host.Outcome.next ?_
  rw [h]
  refine (if_neg hw).trans ((if_neg fun hopen => hopen.1 hst).trans ?_)
  dsimp only
  rw [if_pos hst, if_pos hst]
  rfl

end

/-! ### Wakes (R416 to R423) -/

section
variable (c : Core)

theorem Core.asleepState_iff : c.asleepState = true ↔ c.aon.power = .standby ∨ c.aon.power = .watch := decide_eq_true_iff

theorem Core.inWindow_iff : c.inWindow = true ↔ (c.aon.ticks - c.aon.entry).toNat < 3 := decide_eq_true_iff

/-- The sources that can wake the device in a state, with the alarm's and the island's own condition. -/
theorem Core.wakesIn_eq (st : PowerState) (u : Word) : c.wakesIn st u =
    let m := u &&& c.wakeEnable &&& wakeBits st
    let m := if c.aon.alarm ≤ c.aon.ticks then m else m &&& ~~~0x800#32
    if c.metCfg.getLsbD 30 && decide (c.met.waiting ≠ []) then m else m &&& ~~~0x1000#32 := by
  have hdue (m : Word) : (if c.alarmDue then m else m &&& ~~~0x800#32) = if c.aon.alarm ≤ c.aon.ticks then m else m &&& ~~~0x800#32 :=
    if_congr decide_eq_true_iff rfl rfl
  have hcards : (!c.met.waiting.isEmpty) = decide (c.met.waiting ≠ []) := by
    cases c.met.waiting <;> rfl
  rw [Core.wakesIn]
  dsimp only
  rw [hdue, hcards]
  rfl

variable {u : Word}

theorem Core.wakeNow_none : c.wakeNow 0 = c := rfl

theorem Core.wakeNow_window (hu : u ≠ 0) (hw : c.inWindow = true) :
    c.wakeNow u = { c with aon := { c.aon with early := c.aon.early ||| (u &&& ~~~0x00002001#32) } } := (if_neg hu).trans (if_pos hw)

theorem Core.wakeNow_starts (hu : u ≠ 0) (hw : ¬c.inWindow = true) : c.wakeNow u = c.startWake u := (if_neg hu).trans (if_neg hw)

end

section
variable {s : State} {src : Word} {a : BitVec 7}

/-- What a source that becomes active does in a state that it can end. -/
def State.woken (s : State) (src : Word) : State := s.on (s.core.wakeNow (s.core.wakesBy src))

theorem exec_wake_low (h : s.core.asleepState = true) : exec (.wake src) s = .next (s.woken src) :=
  congrArg (fun c => Host.Outcome.next (s.on c)) (if_pos h)

theorem exec_wake_stays (h : ¬s.core.asleepState = true) (hr : s.core.power.request = none) : exec (.wake src) s = .next s := by
  refine congrArg (fun c => Host.Outcome.next (s.on c)) ((if_neg h).trans ?_)
  rw [hr]

theorem exec_wake_entry {q : CmdSrc} {st : PowerState} (h : ¬s.core.asleepState = true) (hr : s.core.power.request = some (q, st)) :
    exec (.wake src) s = .next (s.on { s.core with aon := { s.core.aon with
      early := s.core.aon.early ||| (s.core.wakesIn st src &&& ~~~0x00002001#32) } }) := by
  refine congrArg (fun c => Host.Outcome.next (s.on c)) ((if_neg h).trans ?_)
  rw [hr]
  rfl

theorem exec_offWake_off (h : s.core.aon.power = .off) : exec (.offWake src) s = .next (s.woken src) :=
  congrArg (fun c => Host.Outcome.next (s.on c)) (if_pos h)

theorem exec_offWake_stays (h : s.core.aon.power ≠ .off) : exec (.offWake src) s = .next s :=
  congrArg (fun c => Host.Outcome.next (s.on c)) (if_neg h)

theorem exec_mgmtAddressMatch_meets (h : s.core.asleepState = true ∨ s.core.aon.power = .off) (ha : a = s.core.wakeAddr) :
    exec (.mgmtAddressMatch a) s = .next (s.woken 1) :=
  congrArg (fun c => Host.Outcome.next (s.on c)) (if_pos ⟨h, ha⟩)

theorem exec_mgmtAddressMatch_stays (h : ¬((s.core.asleepState = true ∨ s.core.aon.power = .off) ∧ a = s.core.wakeAddr)) :
    exec (.mgmtAddressMatch a) s = .next s :=
  congrArg (fun c => Host.Outcome.next (s.on c)) (if_neg h)

theorem exec_rtcAlarm_due (h : s.core.asleepState = true ∨ s.core.aon.power = .off) : exec .rtcAlarm s = .next (s.woken 0x800) :=
  congrArg (fun c => Host.Outcome.next (s.on c)) (if_pos h)

theorem exec_rtcAlarm_stays (h : ¬(s.core.asleepState = true ∨ s.core.aon.power = .off)) : exec .rtcAlarm s = .next s :=
  congrArg (fun c => Host.Outcome.next (s.on c)) (if_neg h)

end

/-! ### The WATCH cycle (R419) -/

theorem Core.watchTrips_iff (c : Core) (codes : List (BitVec 12)) (pins : Word) : c.watchTrips codes pins = true ↔
    (∃ k, k < 4 ∧ (Tbl.get c.aon.watchCh k 0x0FFF0000).getLsbD 31 = true
      ∧ (((codes[k]?).getD 0).toNat < field (Tbl.get c.aon.watchCh k 0x0FFF0000) 0 12
        ∨ field (Tbl.get c.aon.watchCh k 0x0FFF0000) 16 12 < ((codes[k]?).getD 0).toNat))
    ∨ ∃ k, k < 8 ∧ (Tbl.get c.aon.watchPin k 0).getLsbD 31 = true
      ∧ pins.getLsbD (field (Tbl.get c.aon.watchPin k 0) 0 5) ≠ (Tbl.get c.aon.watchPin k 0).getLsbD 30 := by
  simp only [Core.watchTrips, Bool.or_eq_true, List.any_eq_true, List.mem_range, Bool.and_eq_true, decide_eq_true_eq, bne_iff_ne]
  rfl

section
variable (a : Aon) (codes : List (BitVec 12)) (pins : Word) {k : Nat}

/-- The code that a cycle reads on channel k stays in its register, when the channel is watched. -/
theorem Aon.watched_last (hk : k < 4) : Tbl.get (a.watched codes pins).watchLast k 0
    = if (Tbl.get a.watchCh k 0x0FFF0000).getLsbD 31 then BitVec.ofNat 32 ((codes[k]?).getD 0).toNat else Tbl.get a.watchLast k 0 := by
  refine (read_foldl_range (fun t : Tbl Word => Tbl.get t k 0) (j := k) (g := fun old =>
    if (Tbl.get a.watchCh k 0x0FFF0000).getLsbD 31 then BitVec.ofNat 32 ((codes[k]?).getD 0).toNat else old) ?_ ?_ _).trans (if_pos hk)
  · intro t
    rw [apply_ite (Tbl.get · k 0), Tbl.get_set_self, BitVec.ofNat_toNat]
    rfl
  · intro t i hi hik
    split
    · exact Tbl.get_set_ne _ (Ne.symm hik) ..
    · rfl

/-- And the level at the pin of comparison k. -/
theorem Aon.watched_lpin (hk : k < 8) : (a.watched codes pins).watchLpin.getLsbD k
    = if (Tbl.get a.watchPin k 0).getLsbD 31 then pins.getLsbD (field (Tbl.get a.watchPin k 0) 0 5) else a.watchLpin.getLsbD k := by
  refine (read_foldl_range (fun v : Byte => v.getLsbD k) (j := k) (g := fun old =>
    if (Tbl.get a.watchPin k 0).getLsbD 31 then pins.getLsbD (field (Tbl.get a.watchPin k 0) 0 5) else old) ?_ ?_ _).trans (if_pos hk)
  · intro v
    dsimp only
    rw [apply_ite (BitVec.getLsbD · k), getLsbD_putBit_self _ _ hk]
  · intro v i hi hik
    dsimp only
    split
    · exact getLsbD_putBit _ _ _ _ (Ne.symm hik)
    · rfl

end

section
variable {s : State} {codes : List (BitVec 12)} {pins : Word}

theorem exec_watchCycle_eq : exec (.watchCycle codes pins) s = execWatchCycle codes pins s := rfl

theorem exec_watchCycle_illFormed (hc : codes.length ≠ 4) : exec (.watchCycle codes pins) s = .fault .illFormed := by
  rw [exec_watchCycle_eq, execWatchCycle, decide_eq_false hc, onCoreIf_false]

variable (hc : codes.length = 4)
include hc

theorem exec_watchCycle (h : s.core.aon.power = .watch ∧ ¬s.core.inWindow = true) : exec (.watchCycle codes pins) s = .next (s.on (
    let c := { s.core with aon := s.core.aon.watched codes pins }
    if s.core.watchTrips codes pins then c.startWake 0x8000#32 else c)) := by
  rw [exec_watchCycle_eq, execWatchCycle, decide_eq_true hc, onCoreIf_true]
  refine congrArg (fun c => Host.Outcome.next (s.on c)) (if_neg ?_)
  simpa using h

theorem exec_watchCycle_stays (h : s.core.aon.power ≠ .watch ∨ s.core.inWindow = true) : exec (.watchCycle codes pins) s = .next s := by
  rw [exec_watchCycle_eq, execWatchCycle, decide_eq_true hc, onCoreIf_true]
  exact congrArg (fun c => Host.Outcome.next (s.on c)) (if_pos h)

end

/-! ### The supply sequence and its dips (R406, R425, R426) -/

section
variable {s : State}

theorem Core.rises_iff (c : Core) : (c.aon.power = .starting ∧ c.aon.pwrEn ∧ !c.aon.pgood) ↔
    (c.aon.power = .starting ∧ c.aon.pwrEn = true ∧ c.aon.pgood = false) := by rw [Bool.not_eq_true']

section
variable (h : s.core.aon.power = .starting ∧ s.core.aon.pwrEn = true ∧ s.core.aon.pgood = false)
include h

theorem exec_pgoodRise : exec .pgoodRise s = .next (s.on { s.core with
    aon := { s.core.aon with
      pgood := true, power := .run, wake := false, pgtry := if s.core.aon.wake then BitVec.ofNat 3 s.core.aon.tries else s.core.aon.pgtry }
    power := { s.core.power with wdogAt := s.core.aon.ticks }
    slack := { s.core.slack with vt := 0x3C, vmeas := 0x3C } }) :=
  congrArg (fun c => Host.Outcome.next (s.on c)) (if_pos (s.core.rises_iff.mpr h))

theorem exec_pgoodTimeout : exec .pgoodTimeout s = .next (s.on { s.core with aon := { s.core.aon with
    pwrEn := false, pgfail := true, wake := s.core.aon.wake && decide (s.core.aon.tries < 3)
    power := if 3 ≤ s.core.aon.tries then s.core.aon.back else .starting } }) :=
  congrArg (fun c => Host.Outcome.next (s.on c)) (if_pos (s.core.rises_iff.mpr h))

end

section
variable (h : ¬(s.core.aon.power = .starting ∧ s.core.aon.pwrEn = true ∧ s.core.aon.pgood = false))
include h

theorem exec_pgoodRise_stays : exec .pgoodRise s = .next s :=
  congrArg (fun c => Host.Outcome.next (s.on c)) (if_neg (mt s.core.rises_iff.mp h))

theorem exec_pgoodTimeout_stays : exec .pgoodTimeout s = .next s :=
  congrArg (fun c => Host.Outcome.next (s.on c)) (if_neg (mt s.core.rises_iff.mp h))

end

theorem exec_powerUpRetry (hs : s.core.aon.power = .starting) (hp : s.core.aon.pwrEn = false) : exec .powerUpRetry s
    = .next (s.on { s.core with aon := { s.core.aon with pwrEn := true, tries := s.core.aon.tries + 1 } }) :=
  congrArg (fun c => Host.Outcome.next (s.on c)) (if_pos ⟨hs, by rw [hp]; rfl⟩)

theorem exec_powerUpRetry_stays (h : s.core.aon.power ≠ .starting ∨ s.core.aon.pwrEn = true) : exec .powerUpRetry s = .next s := by
  refine congrArg (fun c => Host.Outcome.next (s.on c)) (if_neg ?_)
  rintro ⟨hs, hp⟩
  rcases h with h | h
  · exact h hs
  · simp [h] at hp

variable {stamp : DWord} {minv : Byte}

theorem exec_dipStart (hr : s.core.aon.power = .run) (hd : s.core.aon.inDip = false) : exec (.dipStart stamp) s = .next (s.on (
    { s.core with aon := { s.core.aon with
      dipCount := s.core.aon.dipCount + 1, inDip := true, dipIn := stamp &&& ~~~7#64, dipOut := BitVec.allOnes 64 } }.source
      0x3400 true true (stamp &&& ~~~7#64))) :=
  congrArg (fun c => Host.Outcome.next (s.on c)) (if_neg (by simp [hr, hd]))

theorem exec_dipStart_stays (h : s.core.aon.power ≠ .run ∨ s.core.aon.inDip = true) : exec (.dipStart stamp) s = .next s :=
  congrArg (fun c => Host.Outcome.next (s.on c)) (if_pos h)

theorem exec_dipEnd (hd : s.core.aon.inDip = true) : exec (.dipEnd stamp minv) s = .next (s.on (
    { s.core with aon := { s.core.aon with inDip := false, dipOut := stamp &&& ~~~7#64, minv := minv } }.source
      0x3400 false false (stamp &&& ~~~7#64))) :=
  congrArg (fun c => Host.Outcome.next (s.on c)) (if_neg (by simp [hd]))

theorem exec_dipEnd_stays (hd : s.core.aon.inDip = false) : exec (.dipEnd stamp minv) s = .next s :=
  congrArg (fun c => Host.Outcome.next (s.on c)) (if_pos (by rw [hd]; rfl))

end

/-! ### WATCH_CFG (R420) -/

/-- WATCH_CFG writes word k of its buffer. -/
def Core.watchWord (c : Core) (k : Nat) (v : Word) : Core := c.writeWatch (.sprig 0) (0x400 + 4 * k) v

section
variable (c : Core) (v : Word)

/-- The bits that a new PWR_WATCH_CFG keeps. -/
def watchPeriod (v : Word) : Word := v &&& 0x00FFFFFF

/-- The core after the first word: a period below 32 ticks is ignored and logged. -/
def Core.watchPeriodLogged (v : Word) : Core :=
  if (watchPeriod v).toNat < 32 then c.log ⟨0, masterSource (.sprig 0), 0x0007, 0, 420, BitVec.ofNat 40 (regAt 0x01 0x400)⟩ else c

theorem Core.watchWord_period : c.watchWord 0 v = { c.watchPeriodLogged v with aon := { c.aon with
    watchCfg := if (watchPeriod v).toNat < 32 then c.aon.watchCfg else watchPeriod v } } := by
  have hword : c.watchWord 0 v = if (watchPeriod v).toNat < 32 then c.ignoredReg (.sprig 0) 420 0x01 0x400
      else { c with aon := { c.aon with watchCfg := watchPeriod v } } := rfl
  rw [hword, Core.watchPeriodLogged]
  by_cases h : (watchPeriod v).toNat < 32
  · have haon : (c.ignoredReg (.sprig 0) 420 0x01 0x400).aon = c.aon := by simp only [Core.ignoredReg, Core.ignored, Core.log_rest]
    rw [if_pos h, if_pos h, if_pos h, ← haon]
    rfl
  · rw [if_neg h, if_neg h, if_neg h]

theorem Core.watchWord_pin {i : Nat} (h : i < 8) : c.watchWord (4 + i) v
    = { c with aon := { c.aon with watchPin := Tbl.set c.aon.watchPin i (v &&& 0xC000001F) 0 } } := by
  have hpin : inBlock (0x400 + 4 * (4 + i)) 0x410 4 8 = some (i, 0) := by
    rw [inBlock, if_pos (by omega)]
    simp only [Option.some.injEq, Prod.mk.injEq]
    omega
  rw [Core.watchWord, Core.writeWatch, if_neg (by omega), hpin]
  rfl

theorem inBlock_eq_none {off base stride count : Nat} (h : ¬(base ≤ off ∧ off < base + stride * count)) :
    inBlock off base stride count = none := if_neg h

theorem Core.watchWord_channel {i : Nat} (h : i < 4) : c.watchWord (16 + i) v
    = { c with aon := { c.aon with watchCh := Tbl.set c.aon.watchCh i (v &&& 0x8FFF0FFF) 0x0FFF0000 } } := by
  have hch : inBlock (0x400 + 4 * (16 + i)) 0x440 4 4 = some (i, 0) := by
    rw [inBlock, if_pos (by omega)]
    simp only [Option.some.injEq, Prod.mk.injEq]
    omega
  rw [Core.watchWord, Core.writeWatch, if_neg (by omega), inBlock_eq_none (by omega), hch]
  rfl

/-- The words of the buffer that stand for no writable register. -/
theorem Core.watchWord_readOnly {k : Nat} (h : (1 ≤ k ∧ k < 4) ∨ (12 ≤ k ∧ k < 16) ∨ (20 ≤ k ∧ k < 32)) : c.watchWord k v = c := by
  rw [Core.watchWord, Core.writeWatch, if_neg (by omega), inBlock_eq_none (by omega), inBlock_eq_none (by omega)]
  dsimp only
  rw [if_neg (by omega), if_neg (by omega)]

/-- The register whose low word is staged until the high word comes. -/
def alarmLow : Addr := BitVec.ofNat 40 (regAt 0x01 0x480)

theorem Core.watchWord_low : c.watchWord 32 v = c.stage (.sprig 0) alarmLow v := rfl

theorem Core.watchWord_high : c.watchWord 33 v
    = { c with aon := { c.aon with alarm := (v ++ c.stagedLow (.sprig 0) alarmLow : DWord).setWidth 48 } }.stage (.sprig 0) alarmLow 0 := rfl

variable (w : Nat → Word)

theorem Core.watchWords_skip {l l' : List Nat} (h : ∀ k ∈ l, (1 ≤ k ∧ k < 4) ∨ (12 ≤ k ∧ k < 16) ∨ (20 ≤ k ∧ k < 32)) :
    (l ++ l').foldl (fun c k => c.watchWord k (w k)) c = l'.foldl (fun c k => c.watchWord k (w k)) c := by
  induction l with
  | nil => rfl
  | cons k l ih =>
    rw [List.cons_append, List.foldl_cons, Core.watchWord_readOnly _ _ (h k List.mem_cons_self), ih fun j hj => h j (List.mem_cons_of_mem _ hj)]

/-- The pin registers after their words from 4 on, and the channel registers after theirs from 16 on. -/
def watchPinAfter (t : Tbl Word) (n : Nat) : Tbl Word := (List.range n).foldl (fun t i => Tbl.set t i (w (4 + i) &&& 0xC000001F) 0) t
def watchChAfter (t : Tbl Word) (n : Nat) : Tbl Word :=
  (List.range n).foldl (fun t i => Tbl.set t i (w (16 + i) &&& 0x8FFF0FFF) 0x0FFF0000) t

def Core.withWatchPin (c : Core) (t : Tbl Word) : Core := { c with aon := { c.aon with watchPin := t } }
def Core.withWatchCh (c : Core) (t : Tbl Word) : Core := { c with aon := { c.aon with watchCh := t } }

theorem Core.watchWords_pins {n : Nat} (h : n ≤ 8) : (List.range n).foldl (fun c i => c.watchWord (4 + i) (w (4 + i))) c
    = c.withWatchPin (watchPinAfter w c.aon.watchPin n) := by
  induction n with
  | zero => rfl
  | succ n ih =>
    rw [List.range_succ, List.foldl_append, ih (by omega), List.foldl_cons, List.foldl_nil, Core.watchWord_pin _ _ (by omega), watchPinAfter,
      watchPinAfter, List.range_succ, List.foldl_append]
    rfl

theorem Core.watchWords_channels {n : Nat} (h : n ≤ 4) : (List.range n).foldl (fun c i => c.watchWord (16 + i) (w (16 + i))) c
    = c.withWatchCh (watchChAfter w c.aon.watchCh n) := by
  induction n with
  | zero => rfl
  | succ n ih =>
    rw [List.range_succ, List.foldl_append, ih (by omega), List.foldl_cons, List.foldl_nil, Core.watchWord_channel _ _ (by omega), watchChAfter,
      watchChAfter, List.range_succ, List.foldl_append]
    rfl

/-- The alarm is set from its two words, and nothing stays staged for it. -/
def Core.withAlarm (c : Core) (lo hi : Word) : Core := { c with
  aon := { c.aon with alarm := (hi ++ lo : DWord).setWidth 48 }
  staged := Tbl.set (Tbl.set c.staged (stageKey (.sprig 0) alarmLow) lo 0) (stageKey (.sprig 0) alarmLow) 0 0 }

theorem Core.watchWord_alarm (lo hi : Word) : (c.watchWord 32 lo).watchWord 33 hi = c.withAlarm lo hi := by
  rw [Core.watchWord_low, Core.watchWord_high, Core.stagedLow, Core.stage, Core.stage, Tbl.get_set_self, Core.withAlarm]

theorem get_watchPinAfter (t : Tbl Word) {k : Nat} (h : k < 8) : Tbl.get (watchPinAfter w t 8) k 0 = w (4 + k) &&& 0xC000001F :=
  (read_foldl_range (fun t : Tbl Word => Tbl.get t k 0) (g := fun _ => w (4 + k) &&& 0xC000001F) (fun _ => Tbl.get_set_self ..)
    (fun _ _ _ hik => Tbl.get_set_ne _ (Ne.symm hik) ..) t).trans (if_pos h)

theorem get_watchChAfter (t : Tbl Word) {k : Nat} (h : k < 4) : Tbl.get (watchChAfter w t 4) k 0x0FFF0000 = w (16 + k) &&& 0x8FFF0FFF :=
  (read_foldl_range (fun t : Tbl Word => Tbl.get t k 0x0FFF0000) (g := fun _ => w (16 + k) &&& 0x8FFF0FFF) (fun _ => Tbl.get_set_self ..)
    (fun _ _ _ hik => Tbl.get_set_ne _ (Ne.symm hik) ..) t).trans (if_pos h)

/-- The core after WATCH_CFG wrote every word of its buffer. -/
def Core.watchWritten : Core :=
  let d := c.watchWord 0 (w 0)
  ((d.withWatchPin (watchPinAfter w d.aon.watchPin 8)).withWatchCh (watchChAfter w d.aon.watchCh 4)).withAlarm (w 32) (w 33)

/-- The words of the buffer by the registers that they stand for. -/
theorem range_watchWords : List.range watchWords = 0 :: ([1, 2, 3] ++ ((List.range 8).map (4 + ·) ++ ([12, 13, 14, 15]
    ++ ((List.range 4).map (16 + ·) ++ ([20, 21, 22, 23, 24, 25, 26, 27, 28, 29, 30, 31] ++ [32, 33]))))) := rfl

theorem Core.watchWords_all : (List.range watchWords).foldl (fun c k => c.watchWord k (w k)) c = c.watchWritten w := by
  rw [range_watchWords, List.foldl_cons,
    Core.watchWords_skip _ _ (by decide), List.foldl_append, List.foldl_map, Core.watchWords_pins _ _ le_rfl,
    Core.watchWords_skip _ _ (by decide), List.foldl_append, List.foldl_map, Core.watchWords_channels _ _ le_rfl,
    Core.watchWords_skip _ _ (by decide), List.foldl_cons, List.foldl_cons, List.foldl_nil, Core.watchWord_alarm]
  rfl

end

theorem Core.watchPeriodLogged_staged (c : Core) (v : Word) : (c.watchPeriodLogged v).staged = c.staged := by
  refine keeps_ite Core.staged ?_ rfl
  simp only [Core.log_rest]

theorem Core.watchWritten_eq (c : Core) (w : Nat → Word) : c.watchWritten w = { c.watchPeriodLogged (w 0) with
    aon := { c.aon with
      watchCfg := if (watchPeriod (w 0)).toNat < 32 then c.aon.watchCfg else watchPeriod (w 0)
      watchPin := watchPinAfter w c.aon.watchPin 8, watchCh := watchChAfter w c.aon.watchCh 4, alarm := (w 33 ++ w 32 : DWord).setWidth 48 }
    staged := Tbl.set (Tbl.set c.staged (stageKey (.sprig 0) alarmLow) (w 32) 0) (stageKey (.sprig 0) alarmLow) 0 0 } := by
  have hstaged := c.watchPeriodLogged_staged (w 0)
  rw [Core.watchWritten, Core.watchWord_period]
  generalize c.watchPeriodLogged (w 0) = e at hstaged
  simp only [Core.withWatchPin, Core.withWatchCh, Core.withAlarm, hstaged]

theorem Core.watchWritten_stagedLow (c : Core) (w : Nat → Word) {m : Master} {r : Addr}
    (h : stageKey m r ≠ stageKey (.sprig 0) alarmLow) : (c.watchWritten w).stagedLow m r = c.stagedLow m r := by
  have hstaged : (c.watchWritten w).staged
      = Tbl.set (Tbl.set c.staged (stageKey (.sprig 0) alarmLow) (w 32) 0) (stageKey (.sprig 0) alarmLow) 0 0 := by rw [Core.watchWritten_eq]
  rw [Core.stagedLow, hstaged, Tbl.get_set_ne _ h, Tbl.get_set_ne _ h, Core.stagedLow]

theorem exec_watchCfg {s : State} {q : CmdSrc} {x : Cmd} {bs : List Byte}
    (h : s.core.heads q { opc := 0x0602, who := .supervisors, needs := true, inLen := some 136 } x bs) :
    exec (.watchCfg q) s = .next (s.on ((s.core.watchWritten (pword bs)).answerCmd q ⟨0, []⟩)) := by
  rw [← Core.watchWords_all]
  exact command_coreBody (fun c a => ((List.range watchWords).foldl (fun c k => c.watchWord k (pword a.inb k)) c, some (ok []))) h

end Sys2Proof.Machine

open Sys2Proof Sys2Proof.Machine

/-- Settles O49, by the refusals of POWER_STATE in their order, what delays an entry, which sources wake, and what a write leaves of each WATCH
register. -/
theorem powerStates : Obligations.PowerStates := by
  intro s q x bs st src a codes pins stamp minv c o en bits answers asks names parts open_ leased waits down used refreshed recorded replied
    stopped sleeps dark low window may starts later comes ch pin code trips watched up t8
  have hlow : c.asleepState = true ↔ low := c.asleepState_iff
  have hwindow : c.inWindow = true ↔ window := c.inWindow_iff
  have hwaits : c.entryWaits q st ↔ waits := c.entryWaits_iff q st
  have hmay (st : PowerState) (u : Word) : may st u = c.wakesIn st u := (c.wakesIn_eq st u).symm
  have hcomes (i : Instr) (u : Word) (h : exec i s = .next (s.woken u)) : comes i u := by
    refine ⟨fun h0 => ?_, fun hu hw => ?_, fun hu hw => ?_⟩
    · rw [h, State.woken, Core.wakesBy, ← hmay, h0, Core.wakeNow_none]
      rfl
    · rw [hmay] at hu ⊢
      rw [h, State.woken, Core.wakesBy, Core.wakeNow_window _ hu (hwindow.mpr hw)]
    · rw [hmay] at hu ⊢
      rw [h, State.woken, Core.wakesBy, Core.wakeNow_starts _ hu (mt hwindow.mp hw)]
      rfl
  have htrips : c.watchTrips codes pins = true ↔ trips := c.watchTrips_iff codes pins
  have hwatched : watched (o.watched codes pins) :=
    ⟨rfl, rfl, fun k hk => Aon.watched_last o codes pins hk, fun k hk => Aon.watched_lpin o codes pins hk⟩
  have hdown (d : Core) : (parts q).foldl down d = (c.entryParts q).foldl Core.powerDown d :=
    congrArg (fun f => (c.entryParts q).foldl f d) (funext₂ fun d p => (d.powerDown_eq p).symm)
  have hresume (d : Core) : refreshed (recorded d) = d.leaveResume := rfl
  have hreplied (d : Core) : replied d = d.answerWhere (fun x => decide (x.opcode = 0x0600)) ⟨0, []⟩ := rfl
  have hdark (d : Core) : (s.on d).enterOff = if s.isl.enabled then (s.on (dark d)).islandReset else s.on (dark d) := rfl
  have hsleeps (d : Core) : sleeps d = d.enterLow st := (d.enterLow_eq st).symm
  have hfree (h : c.power.request = none) : s.core.power.request.isSome = false := Option.isSome_eq_false_iff.mpr (Option.isNone_iff_eq_none.mpr h)
  refine ⟨fun h h0 => exec_powerState_answers h (powerBody_run q s _ h0), fun h h4 => exec_powerState_answers h (powerBody_unnamed q s _ h4),
    fun h h1 h3 hr => ?busy, fun ⟨h, hr, hn⟩ hst hi => ?island, fun ⟨h, hr, hn⟩ hi => ⟨fun hh => ?hands, fun hh hw => ?noSource, fun hh hw => ?starts⟩,
    exec_powerEntry_idle, fun h => ⟨fun hw => exec_powerEntry_waits h (hwaits.mpr hw), fun hw hst hd => ?drains, fun hw hst hd => ?sleeps,
      fun hw hst => ?off⟩,
    fun h => hcomes _ _ (exec_wake_low (hlow.mpr h)), fun h hr => exec_wake_stays (mt hlow.mp h) hr,
    fun h hr => ?wakeEntry, fun h => hcomes _ _ (exec_offWake_off h), exec_offWake_stays,
    fun h ha => hcomes _ _ (exec_mgmtAddressMatch_meets (h.imp_left hlow.mpr) ha), fun h => ?mgmtStays,
    fun h => hcomes _ _ (exec_rtcAlarm_due (h.imp_left hlow.mpr)), fun hl hoff => ?rtcStays,
    fun hc hp hw => ⟨fun ht => ⟨_, hwatched, ?trips⟩, fun ht => ⟨_, hwatched, ?reads⟩⟩, fun hc h => ?cycleStays, exec_watchCycle_illFormed,
    fun hup => ⟨?pgoodRise, ?pgoodTimeout⟩, fun hup => ⟨exec_pgoodRise_stays hup, exec_pgoodTimeout_stays hup⟩,
    fun hs hp => ?retry, fun h => ?retryStays, fun hr hd => ?dipStart, fun h => ?dipStays, fun hd => ?dipEnd, fun hd => ?dipEndStays,
    fun h => ⟨c.watchWritten (pword bs), exec_watchCfg h, ?watchCfg⟩⟩
  case busy =>
    obtain ⟨st', hst', hrun⟩ := powerOf_low h1 h3
    refine exec_powerState_answers h ?_
    rw [powerBody_enters q s ⟨x, x.own, bs⟩ hst' hrun, if_pos hr]
  case island =>
    obtain ⟨hof, hrun⟩ := powerOf_eq_some.mpr hn
    refine exec_powerState_answers h ?_
    rw [powerBody_enters q s ⟨x, x.own, bs⟩ hof hrun, hfree hr, if_neg Bool.false_ne_true, if_pos ⟨hst, hi⟩]
  case hands =>
    obtain ⟨hof, hrun⟩ := powerOf_eq_some.mpr hn
    refine exec_powerState_answers h ?_
    rw [powerBody_enters q s ⟨x, x.own, bs⟩ hof hrun, hfree hr, if_neg Bool.false_ne_true, if_neg fun h => hi h.1 h.2, if_pos hh]
  case noSource =>
    obtain ⟨hof, hrun⟩ := powerOf_eq_some.mpr hn
    refine exec_powerState_answers h ?_
    rw [powerBody_enters q s ⟨x, x.own, bs⟩ hof hrun, hfree hr, if_neg Bool.false_ne_true, if_neg fun h => hi h.1 h.2, if_neg (not_not.mpr hh)]
    exact if_pos hw
  case starts =>
    obtain ⟨hof, hrun⟩ := powerOf_eq_some.mpr hn
    refine exec_powerState_starts h ?_
    rw [powerBody_enters q s ⟨x, x.own, bs⟩ hof hrun, hfree hr, if_neg Bool.false_ne_true, if_neg fun h => hi h.1 h.2, if_neg (not_not.mpr hh)]
    exact if_neg hw
  case drains => exact exec_powerEntry_drains h (mt hwaits.mp hw) hst hd
  case sleeps =>
    refine (exec_powerEntry_sleeps h (mt hwaits.mp hw) hst hd).trans ?_
    rw [hsleeps, hreplied, hresume, hdown]
  case off =>
    refine (exec_powerEntry_off h (mt hwaits.mp hw) hst).trans ?_
    rw [hdark, ← hdown, ← hreplied]
  case wakeEntry =>
    rw [exec_wake_entry (mt hlow.mp h) hr, ← hmay]
  case mgmtStays =>
    refine exec_mgmtAddressMatch_stays fun ⟨hp, ha⟩ => ?_
    rcases h with ⟨hl, hoff⟩ | h
    · exact hp.elim (mt hlow.mp hl) hoff
    · exact h ha
  case rtcStays => exact exec_rtcAlarm_stays fun hp => hp.elim (mt hlow.mp hl) hoff
  case trips =>
    rw [exec_watchCycle hc ⟨hp, mt hwindow.mp hw⟩]
    dsimp only
    rw [if_pos (htrips.mpr ht)]
    rfl
  case reads =>
    rw [exec_watchCycle hc ⟨hp, mt hwindow.mp hw⟩]
    dsimp only
    rw [if_neg (mt htrips.mp ht)]
  case cycleStays => exact exec_watchCycle_stays hc (h.imp_right hwindow.mpr)
  case pgoodRise => exact exec_pgoodRise hup
  case pgoodTimeout => exact exec_pgoodTimeout hup
  case retry => exact exec_powerUpRetry hs hp
  case retryStays => exact exec_powerUpRetry_stays h
  case dipStart => exact exec_dipStart hr hd
  case dipStays => exact exec_dipStart_stays h
  case dipEnd => exact exec_dipEnd hd
  case dipEndStays => exact exec_dipEnd_stays hd
  case watchCfg =>
    intro v e
    refine ⟨?_, ?_, ?_, ?_, fun k hk => ?_, fun k hk => ?_, fun m r hr => c.watchWritten_stagedLow (pword bs) hr⟩
    all_goals rw [Core.watchWritten_eq]
    · rfl
    · rfl
    · exact get_watchPinAfter _ _ hk
    · exact get_watchChAfter _ _ hk

end

section
/-!
PROOFS. Queues and what is in transit: what leaves for a producer, the two stores of a ring's pointers, and the words of a ring's slots.
-/
namespace Sys2Proof.Machine

/-! ### One queue among the queues -/

theorem Core.queue_of_queues {c d : Core} (h : d.queues = c.queues) (i : QueueId) : d.queue i = c.queue i := by rw [Core.queue, Core.queue, h]

theorem Core.queue_setQueue_ne (c : Core) {i j : QueueId} (x : Queue) (h : j ≠ i) : (c.setQueue i x).queue j = c.queue j :=
  Tbl.get_set_ne _ (fun e => h (BitVec.eq_of_toNat_eq e)) ..

theorem Core.setQueue_setQueue (c : Core) (i : QueueId) (x y : Queue) : (c.setQueue i x).setQueue i y = c.setQueue i y := by
  simp [Core.setQueue]

theorem Core.setQueue_mem (c : Core) (i : QueueId) (x : Queue) : (c.setQueue i x).mem = c.mem := rfl

theorem Core.setQueue_fly (c : Core) (i : QueueId) (x : Queue) : (c.setQueue i x).fly = c.fly := rfl

/-! ### What leaves (R196, R202, R205) -/

theorem Core.launch_rest (c : Core) (o : Nat) (p : Parcel) : let d := c.launch o p
    d.queues = c.queues ∧ d.mem = c.mem ∧ d.fly = c.fly ++ [p.item o] := ⟨rfl, rfl, rfl⟩

/-- From c to d items may have left, and copies of broadcasts been counted; nothing else has changed. -/
structure Core.Sends (c d : Core) : Prop where
  rest : d = { c with fly := d.fly, bcasts := d.bcasts }
  fly : c.fly ⊆ d.fly

namespace Core.Sends
variable {c d e : Core}

theorem refl (c : Core) : c.Sends c := ⟨rfl, fun _ h => h⟩

theorem trans (h : c.Sends d) (h' : d.Sends e) : c.Sends e := by
  refine ⟨?_, List.Subset.trans h.fly h'.fly⟩
  rw [h'.rest, h.rest]

theorem launch (c : Core) (o : Nat) (p : Parcel) : c.Sends (c.launch o p) := ⟨rfl, List.subset_append_left ..⟩

theorem bcastCredit (c : Core) (o : Nat) (x : Bcast) (r : Bool) : c.Sends (c.bcastCredit o x r) := by
  unfold Core.bcastCredit
  split
  · exact refl c
  · split
    · exact launch ..
    · split
      · exact launch ..
      · exact refl c

theorem bcastPop (c : Core) (o b : Nat) : c.Sends (c.bcastPop o b) := by
  have hcount (t : Tbl (Option Bcast)) : c.Sends { c with bcasts := t } := ⟨rfl, fun _ h => h⟩
  unfold Core.bcastPop
  dsimp only
  split
  · exact refl c
  · split
    · exact (hcount _).trans (bcastCredit ..)
    · exact hcount _

theorem returnCredit (c : Core) (o : Nat) (card : Card) : c.Sends (c.returnCredit o card) := by
  unfold Core.returnCredit
  split
  · exact refl c
  · split
    · split
      · exact refl c
      · exact launch ..
    · split
      · exact launch ..
      · exact bcastPop ..

theorem foldl {α : Type} {f : Core → α → Core} (hf : ∀ (c : Core) x, c.Sends (f c x)) (l : List α) (c : Core) : c.Sends (l.foldl f c) := by
  induction l generalizing c with
  | nil => exact refl c
  | cons x l ih => exact (hf c x).trans (ih _)

/-- What stands in such a change, as far as statements about queues speak of it. -/
theorem same (h : c.Sends d) : d.queues = c.queues ∧ d.mem = c.mem ∧ d.err = c.err :=
  ⟨congrArg (·.queues) h.rest, congrArg (·.mem) h.rest, congrArg (·.err) h.rest⟩

theorem boundTo (h : c.Sends d) (i : QueueId) : d.boundTo i = c.boundTo i := congrArg (·.boundTo i) h.rest

end Core.Sends

/-- The credit of a card that is no copy of a broadcast, whose sideband is whole and which is not mute, leaves for its channel. -/
theorem Core.returnCredit_plain {c : Core} {o : Nat} {card : Card} (hs : card.badSide = false) (hb : card.bcast = none)
    (hm : card.mute = false) : c.returnCredit o card = c.launch o (.credit card.route card.serial false) := by
  simp only [Core.returnCredit, hs, hb, hm, Bool.false_eq_true, if_false]

/-- Items that leave one after the other. -/
theorem Core.launch_foldl {α : Type} (o : Nat) (f : α → Parcel) (l : List α) (c : Core) :
    l.foldl (fun c x => c.launch o (f x)) c = { c with fly := c.fly ++ l.map fun x => (f x).item o } := by
  induction l generalizing c with
  | nil => simp
  | cons x l ih =>
    rw [List.foldl_cons, ih]
    simp [Core.launch, Parcel.item]

/-! ### The pointers of a ring (R193) -/

theorem Queue.point_agrees (q : Queue) (h t : BitVec 13) : (q.point h t).ptrsAgree = true := by
  simp [Queue.point, Queue.ptrsAgree, RingPtrs.sound]

/-- Where the stores agree, an update of the pointers does nothing else. -/
theorem Core.pointRing_agrees {c : Core} {i : QueueId} (h : (c.queue i).ptrsAgree = true) (x y : BitVec 13) :
    c.pointRing i x y = c.setQueue i ((c.queue i).point x y) := if_pos h

/-! ### What the queue engine's accesses to a scratchpad leave -/

/-- The core without the parts that an access to a scratchpad can touch. -/
def Core.offScratch (c : Core) : Core := { c with mem := [], ecc := [], leases := [], banks := [], err := {} }

theorem ScratchFree.offScratch : ScratchFree Core.offScratch where
  byte _ _ _ := rfl
  mark _ _ _ := rfl
  lease _ _ _ _ := rfl
  arb _ _ _ _ := rfl
  log c e := by
    unfold Core.log
    dsimp only
    split <;> rfl

/-- Cores that differ in those parts alone agree in what cards are judged by and sent with. -/
theorem Core.rest_of_offScratch {c d : Core} (h : d.offScratch = c.offScratch) :
    d.queues = c.queues ∧ d.fly = c.fly ∧ d.cfg = c.cfg ∧ d.time = c.time ∧ d.fabric = c.fabric :=
  ⟨congrArg (·.queues) h, congrArg (·.fly) h, congrArg (·.cfg) h, congrArg (·.time) h, congrArg (·.fabric) h⟩

theorem Core.queue_of_offScratch {c d : Core} (h : d.offScratch = c.offScratch) (i : QueueId) : d.queue i = c.queue i :=
  Core.queue_of_queues (Core.rest_of_offScratch h).1 i

theorem Core.setQueue_offScratch {c d : Core} (h : d.offScratch = c.offScratch) (i : QueueId) (x : Queue) :
    (d.setQueue i x).offScratch = (c.setQueue i x).offScratch := congrArg (·.setQueue i x) h

theorem Core.byte_storeEcc (c : Core) (a : Nat) (bs : List Byte) (p : Bool) (b : Nat) :
    (c.storeEcc a bs p).byte b = if a ≤ b ∧ b < a + bs.length then bs.getD (b - a) 0 else c.byte b :=
  (Core.byte_congr (c.storeEcc_mem a bs p) b).trans (c.byte_setBytes a bs b)

theorem Core.word_storeEcc_self (c : Core) (a : Nat) (v : Word) (p : Bool) : (c.storeEcc a (bytesOf v 4) p).word a = v :=
  (Core.word_congr (c.storeEcc_mem a (bytesOf v 4) p) a).trans (c.word_setBytes_self a v)

/-- A word apart from the bytes stored stays. -/
theorem Core.word_storeEcc_apart (c : Core) {a b : Nat} (bs : List Byte) (p : Bool) (h : b + 4 ≤ a ∨ a + bs.length ≤ b) :
    (c.storeEcc a bs p).word b = c.word b := by
  refine congrArg wordOf (List.ext_getElem (by simp only [Core.bytes_length]) fun k hk _ => ?_)
  rw [Core.bytes_length] at hk
  rw [Core.bytes_getElem, Core.bytes_getElem, Core.byte_storeEcc, if_neg (by omega)]

/-! ### Slots of a ring (R188) -/

section
variable {i : QueueId} {w : Word} (hw : qcfgRbase w + 40 * ringSlots w ≤ 0x200000) (hs : 0 < ringSlots w) (x : Nat)
include hw hs

/-- A slot lies in its scratchpad, before the sidebands. -/
theorem slotAddr_inside : scratchBase (queueBunch i) ≤ slotAddr i w x
    ∧ slotAddr i w x + 32 ≤ scratchBase (queueBunch i) + qcfgRbase w + 32 * ringSlots w
    ∧ slotAddr i w x + 32 ≤ scratchBase (queueBunch i) + 0x200000 := by
  have hx := Nat.mod_lt x hs
  unfold slotAddr
  omega

theorem sideAddr_inside : scratchBase (queueBunch i) + qcfgRbase w + 32 * ringSlots w ≤ sideAddr i w x
    ∧ sideAddr i w x + 8 ≤ scratchBase (queueBunch i) + 0x200000 := by
  have hx := Nat.mod_lt x hs
  unfold sideAddr
  omega

end

/-- An address of a scratchpad is its base and its offset. -/
theorem scratchBase_add_offset {b : BunchId} {a : Nat} (hlo : scratchBase b ≤ a) (hhi : a < scratchBase b + 0x200000) :
    scratchBase b + (BitVec.ofNat 21 (a - scratchBase b)).toNat = a := by
  rw [BitVec.toNat_ofNat]
  omega

/-- A word of a scratchpad that reads without an error leaves the core as it is. -/
theorem Core.readEcc_at {c : Core} {b : BunchId} {a : Nat} {who : Byte} (hlo : scratchBase b ≤ a) (hhi : a < scratchBase b + 0x200000)
    (h : c.mark a = .ok) : c.readEcc b (BitVec.ofNat 21 (a - scratchBase b)) who = (false, c) :=
  Core.readEcc_ok (by rw [scratchBase_add_offset hlo hhi, h])

/-- Queue i becomes x, whose head slot loses its VALID and whose head moves on. -/
theorem Core.clearSlot_setQueue (c : Core) (i : QueueId) {x : Queue} (h : x.ptrsAgree = true) : let d := (c.setQueue i x).clearSlot i
    let moved := x.point (ringAfter (c.qcfg i) x.head) x.ptrs.tail
    d.queue i = moved ∧ d.offScratch = (c.setQueue i moved).offScratch
    ∧ d.mem = (c.setBytes (sideAddr i (c.qcfg i) x.head.toNat) (List.replicate 8 0)).mem := by
  intro d moved
  let e := (c.setQueue i x).storeEcc (sideAddr i (c.qcfg i) x.head.toNat) (List.replicate 8 0) false
  have he : e.offScratch = (c.setQueue i x).offScratch := ScratchFree.offScratch.storeEcc ..
  have hq : e.queue i = x := (Core.queue_of_offScratch he i).trans (c.queue_setQueue i x)
  have hd : d = e.setQueue i moved := by
    have hagree : (e.queue i).ptrsAgree = true := hq ▸ h
    have hcfg : (c.setQueue i x).qcfg i = c.qcfg i := rfl
    simp only [d, Core.clearSlot, Core.queue_setQueue, hcfg]
    rw [Core.pointRing_agrees hagree, hq]
  rw [hd]
  refine ⟨Core.queue_setQueue .., ?_, ?_⟩
  · exact (Core.setQueue_offScratch he i moved).trans (by rw [Core.setQueue_setQueue])
  · rw [Core.setQueue_mem, Core.storeEcc_mem]
    exact Core.setBytes_mem_congr (c.setQueue_mem i x) ..

end Sys2Proof.Machine
end

section
/-!
PROOFS. Cards that arrive: acceptance into the chain or the ring, the move from the ring, resolutions in send order, credits and notices.
-/
namespace Sys2Proof.Machine

/-! ### A card enters its queue (R176, R188, R190) -/

section
variable (q : Queue) (card : Card)

theorem Queue.count_chain : Queue.count { q with chain := q.chain ++ [card] } = q.count + 1 := by
  simp only [Queue.count, List.length_append, List.length_singleton]
  omega

theorem Queue.count_ring : Queue.count { q with ring := q.ring ++ [card] } = q.count + 1 := by
  simp only [Queue.count, List.length_append, List.length_singleton]
  omega

/-- A card that moves from the ring into the chain leaves the count. -/
theorem Queue.count_move {card' : Card} {rest : List Card} (h : q.ring = card' :: rest) :
    Queue.count { q with chain := q.chain ++ [card], ring := rest } = q.count := by
  simp only [Queue.count, h, List.length_append, List.length_cons, List.length_nil]
  omega

end

theorem Core.enqueue_chain {c : Core} {i : QueueId} {card : Card} (h : (c.queue i).chain.length < 4 ∧ (c.queue i).ring = []) :
    c.enqueue i card = c.setQueue i { c.queue i with chain := (c.queue i).chain ++ [card] } := if_pos h

/-- The eight words of a card in the slot at a. -/
def Core.slotWords (c : Core) (a : Nat) (card : Card) : Core :=
  (List.range 8).foldl (fun c k => c.storeEcc (a + 4 * k) (bytesOf (cardWord card.w (BitVec.ofNat 3 k)) 4) (card.poison.getLsbD k))
    (c.storeEcc a (List.replicate 32 0) false)

/-- The card in slot x of queue i's ring, with its sideband valid, after the queue engine's rounds at the banks. -/
def Core.slotStored (c : Core) (i : QueueId) (x : Nat) (card : Card) : Core :=
  let w := c.qcfg i
  let touch (c : Core) (a n : Nat) : Core := c.unitAccess (queueBunch i) 0x20 (a - scratchBase (queueBunch i)) n
  ((touch (touch c (slotAddr i w x) 32) (sideAddr i w x) 8).slotWords (slotAddr i w x) card).storeEcc (sideAddr i w x)
    [0, 0, 0, 0, 0, 0, 0, 0x80#8] false

section
variable (c : Core) (i : QueueId) (x : Nat) (card : Card)

theorem Core.slotStored_offScratch : (c.slotStored i x card).offScratch = c.offScratch := by
  have hP := ScratchFree.offScratch
  unfold Core.slotStored Core.slotWords
  dsimp only
  rw [hP.storeEcc, foldl_keeps Core.offScratch _ (fun _ _ => hP.storeEcc ..), hP.storeEcc, hP.unitAccess, hP.unitAccess]

theorem Core.slotWords_word (a : Nat) (j : BitVec 3) : (c.slotWords a card).word (a + 4 * j.toNat) = cardWord card.w j := by
  refine (read_foldl_range (fun c : Core => c.word (a + 4 * j.toNat)) (j := j.toNat) (g := fun _ => cardWord card.w j) (fun c => ?_)
    (fun c k _ hk => ?_) _).trans (if_pos j.isLt)
  · rw [BitVec.ofNat_toNat, BitVec.setWidth_eq]
    exact Core.word_storeEcc_self ..
  · exact Core.word_storeEcc_apart _ _ _ (by rw [bytesOf_length]; omega)

theorem Core.slotStored_side : (c.slotStored i x card).byte (sideAddr i (c.qcfg i) x + 7) = 0x80#8 := by
  unfold Core.slotStored
  dsimp only
  rw [Core.byte_storeEcc, if_pos (by simp), Nat.add_sub_cancel_left]
  rfl

theorem Core.slotStored_word (hw : qcfgRbase (c.qcfg i) + 40 * ringSlots (c.qcfg i) ≤ 0x200000) (hs : 0 < ringSlots (c.qcfg i))
    (j : BitVec 3) : (c.slotStored i x card).word (slotAddr i (c.qcfg i) x + 4 * j.toNat) = cardWord card.w j := by
  have hslot := slotAddr_inside (i := i) hw hs x
  have hside := sideAddr_inside (i := i) hw hs x
  have hj := j.isLt
  unfold Core.slotStored
  dsimp only
  rw [Core.word_storeEcc_apart _ _ _ (by omega), Core.slotWords_word]

end

theorem Core.enqueue_ring {c : Core} {i : QueueId} {card : Card} (h : ¬((c.queue i).chain.length < 4 ∧ (c.queue i).ring = []))
    (ha : (c.queue i).ptrsAgree = true) : let q := c.queue i
    c.enqueue i card = (c.slotStored i q.ptrs.tail.toNat card).setQueue i
      ({ q with ring := q.ring ++ [card] }.point q.ptrs.head (ringAfter (c.qcfg i) q.ptrs.tail)) := by
  intro q
  refine (if_neg h).trans ((Core.pointRing_agrees ?_ _ _).trans ?_)
  · rw [Core.queue_setQueue]
    exact ha
  · rw [Core.queue_setQueue, Core.setQueue_setQueue]
    rfl

/-! ### Acceptance (R186, R190, R195) -/

theorem Core.watchers_of_cfg {c d : Core} (h : c.cfg = d.cfg) (watch : BitVec 3) (arg : Word) : c.watchers watch arg = d.watchers watch arg := by
  rw [Core.watchers, Core.watchers, h]

section
variable {s : State} {k o d : Nat} {i : QueueId} {card : Card}

/-- The core in which item k has reached queue i, in an awake bunch. -/
def Core.reached (c : Core) (k : Nat) (i : QueueId) : Core := (c.touch (queueBunch i)).land k

/-- The core once a card has entered its queue: its acceptance leaves, and the monitors that watch the queue have an occurrence. -/
def Core.entered (c : Core) (i : QueueId) (card : Card) : Core :=
  (c.launch (queuePlace i) (.resolved card.route 0 false card.bcast card.seq)).occur 1 (i.setWidth 32) c.time.dtime

theorem Core.entered_rest (c : Core) (i : QueueId) (card : Card) : let d := c.entered i card
    d.queues = c.queues ∧ d.mem = c.mem
    ∧ d.fly = c.fly ++ [⟨queuePlace i, prodKey card.route, .resolved card.route 0 false card.bcast card.seq⟩]
    ∧ d.fabric.edges = c.fabric.edges ++ (c.watchers 1 (i.setWidth 32)).map fun m => (Sink.watch m, c.time.dtime) :=
  ⟨rfl, rfl, rfl, rfl⟩

/-- Where queue i alone has become x since c, scratchpads apart. -/
theorem Core.entered_setQueue {c e : Core} (i : QueueId) (card : Card) (x : Queue) (he : e.offScratch = c.offScratch) :
    let d := (e.setQueue i x).entered i card
    d.queue i = x ∧ d.mem = e.mem ∧ (∀ j, j ≠ i → d.queue j = c.queue j)
    ∧ d.fly = c.fly ++ [⟨queuePlace i, prodKey card.route, .resolved card.route 0 false card.bcast card.seq⟩]
    ∧ d.fabric.edges = c.fabric.edges ++ (c.watchers 1 (i.setWidth 32)).map fun m => (Sink.watch m, c.time.dtime) := by
  intro d
  obtain ⟨hqueues, hmem, hfly, hedges⟩ := (e.setQueue i x).entered_rest i card
  obtain ⟨-, hsent, hcfg, htime, hfabric⟩ := Core.rest_of_offScratch (Core.setQueue_offScratch he i x)
  refine ⟨(Core.queue_of_queues hqueues i).trans (e.queue_setQueue i x), hmem, fun j hj => ?_, ?_, ?_⟩
  · exact (Core.queue_of_queues hqueues j).trans ((e.queue_setQueue_ne x hj).trans (Core.queue_of_offScratch he j))
  · exact hfly.trans (congrArg (· ++ _) hsent)
  · rw [hedges, hfabric, htime, Core.watchers_of_cfg hcfg]
    rfl

variable (h : s.core.arrives k = some ⟨o, d, .toQueue i card false⟩) (ha : s.core.asleep (queueBunch i) = false) (hm : card.mute = false)
include h ha

theorem exec_cardAccept_arrives : exec (.cardAccept k) s = .next (s.on ((s.core.touch (queueBunch i)).acceptCard k i card false)) := by
  show execCardAccept k s = _
  unfold execCardAccept
  rw [onCore_runs, h]
  exact congrArg (fun c => Host.Outcome.next (s.on c)) (Core.reach_touch _ ha)

include hm

theorem exec_cardAccept_refused {r : BitVec 4} (hr : s.core.queueRefusal i card false = some r) : exec (.cardAccept k) s
    = .next (s.on ((s.core.reached k i).launch (queuePlace i) (.resolved card.route r true card.bcast card.seq))) := by
  refine (exec_cardAccept_arrives h ha).trans (congrArg (fun c => Host.Outcome.next (s.on c)) ?_)
  have hr' : (s.core.touch (queueBunch i)).queueRefusal i card false = some r := hr
  rw [Core.acceptCard, hr']
  exact if_neg (by simp [hm])

theorem exec_cardAccept_enters (hr : s.core.queueRefusal i card false = none) (hroom : s.core.queueRoom i = true) :
    exec (.cardAccept k) s = .next (s.on (((s.core.reached k i).enqueue i card).entered i card)) := by
  refine (exec_cardAccept_arrives h ha).trans (congrArg (fun c => Host.Outcome.next (s.on c)) ?_)
  have hr' : (s.core.touch (queueBunch i)).queueRefusal i card false = none := hr
  have hroom' : (s.core.touch (queueBunch i)).queueRoom i = true := hroom
  rw [Core.acceptCard, hr']
  dsimp only
  rw [if_pos hroom', Core.accepted, hm, if_neg Bool.false_ne_true]
  rfl

end

theorem Core.queueRoom_iff (c : Core) (i : QueueId) : c.queueRoom i = true ↔
    ((c.queue i).chain.length < 4 ∧ (c.queue i).ring = []) ∨ (c.queue i).walk.length + (c.queue i).ring.length < ringSlots (c.qcfg i) := by
  simp [Core.queueRoom]

/-! ### The head of the ring moves on (R185, R188, R190) -/

theorem foldl_range_fixed {σ : Type} {f : σ → Nat → σ} {s : σ} {n : Nat} (h : ∀ k < n, f s k = s) : (List.range n).foldl f s = s :=
  (foldl_range_one n (n := n) rfl h fun _ hk hn => absurd hk (Nat.lt_asymm hn)).trans (if_neg (Nat.lt_irrefl n))

/-- The card of the ring's head slot, where its words and its sideband read without an error. -/
theorem Core.readSlot_ok {c : Core} {i : QueueId} (card : Card) (hw : qcfgRbase (c.qcfg i) + 40 * ringSlots (c.qcfg i) ≤ 0x200000)
    (hs : 0 < ringSlots (c.qcfg i)) (hm : ∀ j, j < 4 → c.mark (slotAddr i (c.qcfg i) (c.queue i).head.toNat + 8 * j) = .ok)
    (hside : c.mark (sideAddr i (c.qcfg i) (c.queue i).head.toNat) = .ok) :
    c.readSlot i card
      = ({ card with w := cardFromBytes c (slotAddr i (c.qcfg i) (c.queue i).head.toNat), poison := 0, badSide := false }, c) := by
  have hslot := slotAddr_inside (i := i) hw hs (c.queue i).head.toNat
  have hin := sideAddr_inside (i := i) hw hs (c.queue i).head.toNat
  have hword (j : Nat) (hj : j < 4) : c.readEcc (queueBunch i) (BitVec.ofNat 21 (slotAddr i (c.qcfg i) (c.queue i).head.toNat + 8 * j
      - scratchBase (queueBunch i))) 0x20 = (false, c) := Core.readEcc_at (by omega) (by omega) (hm j hj)
  have hsb : c.readEcc (queueBunch i) (BitVec.ofNat 21 (sideAddr i (c.qcfg i) (c.queue i).head.toNat - scratchBase (queueBunch i))) 0x20
      = (false, c) := Core.readEcc_at (by omega) (by omega) hside
  unfold Core.readSlot
  dsimp only
  rw [foldl_range_fixed fun j hj => ?_]
  · dsimp only
    rw [hsb]
    rfl
  · dsimp only
    rw [hword j hj]
    rfl

theorem exec_ringToChainMove {s : State} {i : QueueId} {card : Card} {rest : List Card} (hr : (s.core.queue i).ring = card :: rest)
    (hwalk : (s.core.queue i).walk = []) (hc : (s.core.queue i).chain.length < 4) {card' : Card}
    (hread : s.core.readSlot i card = (card', s.core)) :
    exec (.ringToChainMove i) s = .next (s.on ((s.core.setQueue i { s.core.queue i with
      chain := (s.core.queue i).chain ++ [card'], ring := rest }).clearSlot i)) := by
  show execRingToChainMove i s = _
  unfold execRingToChainMove
  rw [onCore_runs]
  dsimp only
  rw [hr, hwalk]
  dsimp only
  rw [if_neg (by omega), hread]
  dsimp only
  rw [hwalk]

/-- Where the head slot reads without an error, its card stands in the chain, and of memory the slot's sideband alone changes. -/
theorem exec_ringToChainMove_ok {s : State} {i : QueueId} {card : Card} {rest : List Card} : let c := s.core
    let q := c.queue i
    let w := c.qcfg i
    q.ring = card :: rest → q.walk = [] → q.chain.length < 4 →
    0 < ringSlots w ∧ qcfgRbase w + 40 * ringSlots w ≤ 0x200000 ∧ q.ptrsAgree = true →
    (∀ j, j < 4 → c.mark (slotAddr i w q.ptrs.head.toNat + 8 * j) = .ok) → c.mark (sideAddr i w q.ptrs.head.toNat) = .ok →
    Runs (exec (.ringToChainMove i) s) fun t =>
      (t.core.queue i).ring = rest ∧ (t.core.queue i).count = q.count ∧ (t.core.queue i).ptrsAgree = true
      ∧ (t.core.queue i).chain = q.chain ++ [{ card with w := cardFromBytes c (slotAddr i w q.ptrs.head.toNat), poison := 0, badSide := false }]
      ∧ (t.core.queue i).ptrs.head = ringAfter w q.ptrs.head ∧ (t.core.queue i).ptrs.tail = q.ptrs.tail ∧ t.core.fly = c.fly
      ∧ SameBytesBut c t.core (sideAddr i w q.ptrs.head.toNat) 8 ∧ t.core.byte (sideAddr i w q.ptrs.head.toNat + 7) = 0 := by
  intro c q w hring hwalk hc hringed hmarks hside
  obtain ⟨hslots, hend, hagree⟩ := hringed
  let x : Queue := { q with
    chain := q.chain ++ [{ card with w := cardFromBytes c (slotAddr i w q.ptrs.head.toNat), poison := 0, badSide := false }], ring := rest }
  obtain ⟨hown, hoff, hmem⟩ := c.clearSlot_setQueue i (x := x) hagree
  obtain ⟨-, hfly, -⟩ := Core.rest_of_offScratch hoff
  have hbytes (b : Nat) : ((c.setQueue i x).clearSlot i).byte b = (c.setBytes (sideAddr i w q.ptrs.head.toNat) (List.replicate 8 0)).byte b :=
    Core.byte_congr hmem b
  refine ⟨_, exec_ringToChainMove hring hwalk hc (Core.readSlot_ok card hend hslots hmarks hside), ?_⟩
  refine ⟨congrArg (·.ring) hown, (congrArg (·.count) hown).trans (q.count_move _ hring),
    (congrArg (·.ptrsAgree) hown).trans (Queue.point_agrees ..), congrArg (·.chain) hown, congrArg (·.ptrs.head) hown, congrArg (·.ptrs.tail) hown, hfly, fun b hb => ?_, ?_⟩
  · exact (hbytes b).trans (Core.setBytes_same_but c _ (List.replicate 8 0) b hb)
  · refine (hbytes _).trans ?_
    rw [Core.byte_setBytes, if_pos (by simp), Nat.add_sub_cancel_left]
    rfl

/-! ### Resolutions take effect in send order (R195, R196, R198) -/

/-- One card in the order of sending: it settles, unless its resolution has not come or one sent before it under its serial is still open. -/
def Chan.settleNext (y : Chan) (e : Owed) : Chan :=
  match e.res with
  | some r => if y.owed.any fun o => decide (o.serial = e.serial) then { y with owed := y.owed ++ [e] } else y.settle r
  | none => { y with owed := y.owed ++ [e] }

theorem Chan.settleInOrder_eq (x : Chan) : x.settleInOrder = x.owed.foldl Chan.settleNext { x with owed := [] } := rfl

/-- Cards without a resolution stay owed. -/
theorem Chan.settleNext_open (l : List Owed) (h : ∀ e ∈ l, e.res = none) (y : Chan) :
    l.foldl Chan.settleNext y = { y with owed := y.owed ++ l } := by
  induction l generalizing y with
  | nil => simp
  | cons e l ih =>
    obtain ⟨he, hl⟩ := List.forall_mem_cons.mp h
    have hstep : y.settleNext e = { y with owed := y.owed ++ [e] } := by rw [Chan.settleNext, he]
    rw [List.foldl_cons, hstep, ih hl]
    simp

section
variable {x : Chan} {e : Owed} {rest : List Owed} {r : BitVec 4} {credit : Bool}

theorem Chan.resolve_unknown (refused : Bool) (h : ∀ y ∈ x.owed, y.seq ≠ e.seq) : x.resolve e.seq r refused credit = x :=
  if_neg (by simpa using h)

variable (hrest : ∀ y ∈ rest, y.seq ≠ e.seq ∧ y.res = none)
include hrest

theorem Owed.map_resolve_apart (z : Resolved) : (rest.map fun o : Owed => if o.seq = e.seq then { o with res := some z } else o) = rest :=
  (List.map_congr_left fun y hy => if_neg (hrest y hy).1).trans (List.map_id rest)

theorem Chan.resolve_first (refused : Bool) (h : x.owed = e :: rest) : let marked := x.noticed && !refused
    x.resolve e.seq r refused credit = { x with noticed := if marked then false else x.noticed, owed := rest }.settle
      ⟨if marked && r = outOk then outEpoch else r, refused, credit⟩ := by
  intro marked
  refine (if_pos (by simp [h])).trans ?_
  dsimp only
  rw [h, List.map_cons, if_pos rfl, Owed.map_resolve_apart hrest, Chan.settleInOrder_eq, List.foldl_cons,
    Chan.settleNext_open _ fun y hy => (hrest y hy).2]
  rfl

/-- The resolution of the oldest card takes effect. -/
theorem Chan.resolve_oldest {refused : Bool} (h : x.owed = e :: rest) (hn : (x.noticed && !refused) = false) :
    x.resolve e.seq r refused credit = { x with owed := rest }.settle ⟨r, refused, credit⟩ := by
  rw [Chan.resolve_first hrest refused h, hn]
  rfl

/-- The first acceptance after a notice takes effect as EPOCH_CHANGED. -/
theorem Chan.resolve_noticed (h : x.owed = e :: rest) (hn : x.noticed = true) :
    x.resolve e.seq r false credit = { x with noticed := false, owed := rest }.settle ⟨if r = 0 then 1 else r, false, credit⟩ := by
  rw [Chan.resolve_first hrest false h, hn]
  exact congrArg (fun o => Chan.settle _ ⟨o, false, credit⟩) (if_congr decide_eq_true_iff rfl rfl)

/-- A resolution that comes before that of an older card of its serial waits for it. -/
theorem Chan.resolve_waits (refused : Bool) {y : Owed} (h : x.owed = y :: e :: rest) (hserial : y.serial = e.serial) (hseq : y.seq ≠ e.seq)
    (hy : y.res = none) (hn : x.noticed = false) :
    x.resolve e.seq r refused credit = { x with owed := y :: { e with res := some ⟨r, refused, credit⟩ } :: rest } := by
  refine (if_pos (by simp [h])).trans ?_
  have hstep (z : Chan) (hz : z.owed = []) (a : Resolved) : (z.settleNext y).settleNext { e with res := some a }
      = { z with owed := [y, { e with res := some a }] } := by
    simp [Chan.settleNext, hy, hz, hserial]
  dsimp only
  rw [h, List.map_cons, List.map_cons, if_neg hseq, if_pos rfl, Owed.map_resolve_apart hrest, Chan.settleInOrder_eq, List.foldl_cons,
    List.foldl_cons, hstep _ rfl, Chan.settleNext_open _ fun y hy => (hrest y hy).2, hn]
  rfl

end

section
variable {s : State} {k o d : Nat} {g : SprigId} {n : BitVec 4}

theorem Core.isLocal_chan (c : Core) (g : SprigId) (n : BitVec 4) : c.isLocal (.chan c.dev g n) = true := by
  simp [Core.isLocal, Core.awayDev]

theorem exec_cardResolution_chan {r : BitVec 4} {credit : Bool} {seq : Nat}
    (h : s.core.arrives k = some ⟨o, d, .resolved (.chan s.core.dev g n) r credit none seq⟩) :
    exec (.cardResolution k) s = .next (s.on
      ((s.core.land k).setChan g n ((s.core.chan g n).resolve seq r (decide (1 < r.toNat)) credit))) := by
  show execCardResolution k s = _
  unfold execCardResolution
  rw [onCore_runs, h]
  exact congrArg (fun c => Host.Outcome.next (s.on c)) (if_pos (s.core.isLocal_chan g n))

theorem exec_creditReturn_chan {ser : Nat} {refused : Bool}
    (h : s.core.arrives k = some ⟨o, d, .credit (.chan s.core.dev g n) ser refused⟩) :
    exec (.creditReturn k) s = .next (s.on (if refused = true ∨ ser = (s.core.chan g n).serial
      then (s.core.land k).setChan g n { s.core.chan g n with credit := (s.core.chan g n).credit + 1 } else s.core.land k)) := by
  show execCreditReturn k s = _
  unfold execCreditReturn
  rw [onCore_runs, h]
  exact congrArg (fun c => Host.Outcome.next (s.on c)) (if_pos (s.core.isLocal_chan g n))

theorem exec_epochNotice_chan {e : Byte} {direct : Bool}
    (h : s.core.arrives k = some ⟨o, d, .notice (.chan s.core.dev g n) e direct⟩) :
    exec (.epochNotice k) s = .next (s.on ((s.core.land k).setChan g n { s.core.chan g n with
      noticed := true, epoch := if direct then e else (s.core.chan g n).epoch })) := by
  show execEpochNotice k s = _
  unfold execEpochNotice
  rw [onCore_runs, h]
  exact congrArg (fun c => Host.Outcome.next (s.on c)) (if_pos (s.core.isLocal_chan g n))

end

end Sys2Proof.Machine

open Sys2Proof Sys2Proof.Machine

/-- Settles O24: a card that enters changes its own queue alone (`henters`), and a channel settles its cards in send order. -/
theorem cardsArrive : Obligations.CardsArrive := by
  intro s k o d i card g n e rest c q w me ch comes gone reply enters slot side first ringed next back apart
  obtain ⟨hrq, hrw⟩ : (c.reached k i).queue i = q ∧ (c.reached k i).qcfg i = w := ⟨rfl, rfl⟩
  /- The state after an acceptance is named t, and its parts are stated, so that no later step unfolds the stores that led to it. -/
  have henters (e' : Core) (x : Queue) (he : e'.offScratch = (c.reached k i).offScratch) (hx : x.count = q.count + 1) :
      ∃ t : State, t = s.on ((e'.setQueue i x).entered i card) ∧ t.core.queue i = x ∧ t.core.mem = e'.mem ∧ enters t := by
    obtain ⟨hown, hmem, hothers, hfly, hedges⟩ := Core.entered_setQueue i card x he
    exact ⟨_, rfl, hown, hmem, (congrArg Queue.count hown).trans hx, hothers, hfly, hedges⟩
  refine ⟨?chain, ?ring, ?refused, ?move, ?resolved, fun ser refused h => exec_creditReturn_chan h, fun e direct h => exec_epochNotice_chan h⟩
  case chain =>
    rintro ⟨ha, hs, hm⟩ hr hc hring
    have hfree : ((c.reached k i).queue i).chain.length < 4 ∧ ((c.reached k i).queue i).ring = [] := ⟨hc, hring⟩
    obtain ⟨t, ht, hown, hmem, hrest⟩ := henters (c.reached k i) _ rfl (q.count_chain card)
    refine ⟨t, ?_, congrArg Queue.chain hown, hrest, hmem⟩
    rw [exec_cardAccept_enters ha hs hm hr ((c.queueRoom_iff i).mpr (.inl ⟨hc, hring⟩)), Core.enqueue_chain hfree, ht]
    rfl
  case ring =>
    rintro ⟨ha, hs, hm⟩ hr hfull hroom ⟨hslots, hend, hagree⟩ -
    have hbusy : ¬(((c.reached k i).queue i).chain.length < 4 ∧ ((c.reached k i).queue i).ring = []) := by
      rintro ⟨hc, hring⟩
      exact hfull.elim (fun h => Nat.lt_irrefl 4 (h ▸ hc)) (absurd hring)
    have hword := (c.reached k i).slotStored_word i q.ptrs.tail.toNat card (hrw ▸ hend) (hrw ▸ hslots)
    have hside := (c.reached k i).slotStored_side i q.ptrs.tail.toNat card
    rw [hrw] at hword hside
    obtain ⟨t, ht, hown, hmem, hrest⟩ := henters _ ({ q with ring := q.ring ++ [card] }.point q.ptrs.head (ringAfter w q.ptrs.tail))
      ((c.reached k i).slotStored_offScratch i q.ptrs.tail.toNat card) (q.count_ring card)
    refine ⟨t, ?_, congrArg (·.ring) hown, congrArg (·.chain) hown, congrArg (·.ptrs.tail) hown,
      (congrArg Queue.ptrsAgree hown).trans (Queue.point_agrees ..), hrest, fun j => ?_, ?_⟩
    · rw [exec_cardAccept_enters ha hs hm hr ((c.queueRoom_iff i).mpr (.inr hroom)), Core.enqueue_ring hbusy hagree, hrq, hrw, ht]
    · exact (Core.word_congr hmem _).trans (hword j)
    · exact congrArg (BitVec.getLsbD · 7) ((Core.byte_congr hmem _).trans hside)
  case refused =>
    rintro r ⟨ha, hs, hm⟩ hr
    exact ⟨_, exec_cardAccept_refused ha hs hm hr, rfl, rfl, rfl⟩
  case move => exact fun rest => exec_ringToChainMove_ok
  case resolved =>
    intro r credit h hapart
    have hback (r : BitVec 4) (x : Chan) : back r credit x = x.settle ⟨r, decide (1 < r.toNat), credit⟩ := by
      simp only [back, Chan.settle, decide_eq_true_eq]
    rw [exec_cardResolution_chan h]
    refine ⟨fun ho => ?_, fun x ho hserial hseq hx hn => ?_, fun ho => ?_⟩
    · refine congrArg (fun x => Host.Outcome.next (s.on ((c.land k).setChan g n x))) ?_
      by_cases hmark : (ch.noticed && decide (r.toNat ≤ 1)) = true
      · obtain ⟨hn, hr⟩ : ch.noticed = true ∧ r.toNat ≤ 1 := by simpa using hmark
        have hlow : decide (1 < r.toNat) = false := decide_eq_false (by omega)
        have hlow' : decide (1 < (if r = 0 then 1 else r : BitVec 4).toNat) = false := by
          split
          · rfl
          · exact hlow
        rw [if_pos hmark, hback, hlow, hlow']
        exact Chan.resolve_noticed hapart ho hn
      · rw [if_neg hmark, hback]
        exact Chan.resolve_oldest hapart ho (by simpa using hmark)
    · rw [Chan.resolve_waits hapart _ ho hserial hseq hx hn]
    · rw [Chan.resolve_unknown _ fun y hy => (hapart y (ho ▸ hy)).1]
end

section
/-!
PROOFS. Resets of queues: what a reset discards and sends, resets that wait, and the walk over the slots of the ring that it leaves.
-/
namespace Sys2Proof.Machine

/-! ### A reset that runs (R198) -/

/-- The queue after a reset at instant `now` that discarded n cards: the epoch has risen, the marker covers them, and the ring's slots are
left to the walk. -/
def Queue.afterReset (q : Queue) (cause : BitVec 3) (n : Nat) (now : DWord) : Queue :=
  { q with
    epoch := q.epoch + 1, mark := true, first := if q.mark then q.first else q.epoch, resets := satInc16 q.resets
    discarded := BitVec.ofNat 32 (min (q.discarded.toNat + n) 0xFFFFFFFF)
    cause := cause, at_ := now, chain := [], ring := [], walk := q.walk ++ q.ring, recent := now :: recentOf now q.recent }

section
variable (c : Core) (i : QueueId) (cause : BitVec 3) (w : Word)

/-- The cards in the ring that a reset discards: those of the slots whose sideband is valid. -/
def Core.ringDiscards : List Card :=
  let q := c.queue i
  ((q.ring.zipIdx).filter fun e => c.slotValid i w (q.head.toNat + q.walk.length + e.2)).map Prod.fst

/-- Everything that a reset discards. -/
def Core.discards : List Card := (c.queue i).chain ++ c.ringDiscards i w

/-- The queue that a reset leaves. -/
def Core.resetState : Queue := (c.queue i).afterReset cause (c.discards i w).length c.time.dtime

/-- The chain's credits leave. -/
def Core.creditsSent : Core :=
  (c.queue i).chain.foldl (fun c card => c.returnCredit (queuePlace i) card) (c.setQueue i (c.resetState i cause w))

/-- The producers of discarded cards that are not bound to the queue: those that came by a posy. -/
def Core.posyProducers : List Producer := ((c.discards i w).map Card.route).dedup.filter fun p => !((c.boundTo i).contains p)

theorem Core.creditsSent_sends : (c.setQueue i (c.resetState i cause w)).Sends (c.creditsSent i cause w) :=
  Core.Sends.foldl (fun _ _ => .returnCredit ..) ..

/-- After the credits the notices leave. -/
theorem Core.resetNow_eq : c.resetNow i cause w = { c.creditsSent i cause w with
    fly := (c.creditsSent i cause w).fly
      ++ (c.boundTo i).map (fun p => (Parcel.notice p ((c.queue i).epoch + 1) true).item (queuePlace i))
      ++ (c.posyProducers i w).map fun p => (Parcel.notice p ((c.queue i).epoch + 1) false).item (queuePlace i) } := by
  have hbound : (c.creditsSent i cause w).boundTo i = c.boundTo i := (c.creditsSent_sends i cause w).boundTo i
  show List.foldl _ (List.foldl _ (c.creditsSent i cause w) ((c.creditsSent i cause w).boundTo i)) (c.posyProducers i w) = _
  rw [hbound, Core.launch_foldl, Core.launch_foldl]

theorem Core.resetNow_sends : (c.setQueue i (c.resetState i cause w)).Sends (c.resetNow i cause w) := by
  refine (c.creditsSent_sends i cause w).trans ?_
  rw [Core.resetNow_eq, List.append_assoc]
  exact ⟨rfl, List.subset_append_left ..⟩

/-- A reset changes its own queue, and sends. -/
theorem Core.resetNow_same : let d := c.resetNow i cause w
    d.queues = (c.setQueue i (c.resetState i cause w)).queues ∧ d.mem = c.mem ∧ d.err = c.err := (c.resetNow_sends i cause w).same

theorem Core.resetNow_fly : c.fly ⊆ (c.resetNow i cause w).fly := (c.resetNow_sends i cause w).fly

theorem Core.resetNow_notice {p : Producer} (h : p ∈ c.boundTo i) :
    ⟨queuePlace i, prodKey p, .notice p ((c.queue i).epoch + 1) true⟩ ∈ (c.resetNow i cause w).fly := by
  rw [Core.resetNow_eq]
  exact List.mem_append_left _ (List.mem_append_right _ (List.mem_map_of_mem (f := fun p => (Parcel.notice p _ true).item _) h))

/-- A producer whose card was discarded, and which is not bound to the queue, is notified too. -/
theorem Core.resetNow_posyNotice {x : Card} (h : x ∈ (c.queue i).chain) (hp : x.route ∉ c.boundTo i) :
    ⟨queuePlace i, prodKey x.route, .notice x.route ((c.queue i).epoch + 1) false⟩ ∈ (c.resetNow i cause w).fly := by
  have hmem : x.route ∈ c.posyProducers i w := by
    refine List.mem_filter.mpr ⟨List.mem_dedup.mpr (List.mem_map_of_mem (List.mem_append_left _ h)), ?_⟩
    simpa using hp
  rw [Core.resetNow_eq]
  exact List.mem_append_right _ (List.mem_map_of_mem (f := fun p => (Parcel.notice p _ false).item _) hmem)

end

/-- Where the credits of many cards leave, that of each card with a credit of its own is among them. -/
theorem Core.returnCredits_mem (o : Nat) {l : List Card} {x : Card} (hx : x ∈ l) (hb : x.bcast = none) (hm : x.mute = false)
    (hs : x.badSide = false) (c : Core) :
    ⟨o, prodKey x.route, .credit x.route x.serial false⟩ ∈ (l.foldl (fun c card => c.returnCredit o card) c).fly := by
  induction l generalizing c with
  | nil => cases hx
  | cons y l ih =>
    rcases List.mem_cons.mp hx with rfl | hx
    · refine (Core.Sends.foldl (fun _ _ => .returnCredit ..) l _).fly ?_
      dsimp only
      rw [Core.returnCredit_plain hs hb hm]
      exact List.mem_append_right _ (List.mem_singleton_self _)
    · exact ih hx _

theorem Core.resetNow_credit (c : Core) (i : QueueId) (cause : BitVec 3) (w : Word) {x : Card} (h : x ∈ (c.queue i).chain)
    (hb : x.bcast = none) (hm : x.mute = false) (hs : x.badSide = false) :
    ⟨queuePlace i, prodKey x.route, .credit x.route x.serial false⟩ ∈ (c.resetNow i cause w).fly := by
  rw [Core.resetNow_eq, List.append_assoc]
  exact List.mem_append_left _ (Core.returnCredits_mem _ h hb hm hs _)

theorem filter_zipIdx_length {α : Type} (l : List α) (p : Nat → Bool) :
    (l.zipIdx.filter fun e => p e.2).length = ((List.range l.length).filter p).length := by
  have hidx : l.zipIdx.map Prod.snd = List.range l.length := by rw [List.zipIdx_map_snd, List.range_eq_range']
  rw [← hidx, List.filter_map, List.length_map]
  rfl

theorem Core.discards_length (c : Core) (i : QueueId) (w : Word) : (c.discards i w).length = (c.queue i).chain.length
    + ((List.range (c.queue i).ring.length).filter fun j => c.slotValid i w ((c.queue i).head.toNat + (c.queue i).walk.length + j)).length := by
  rw [Core.discards, List.length_append, Core.ringDiscards, List.length_map]
  exact congrArg _ (filter_zipIdx_length (c.queue i).ring fun j => c.slotValid i w ((c.queue i).head.toNat + (c.queue i).walk.length + j))

/-! ### Resets run, or wait (R193, R201) -/

/-- Fewer than 255 resets have run in the last millisecond. -/
def Core.resetsFew (c : Core) (i : QueueId) : Prop := (recentOf c.time.dtime (c.queue i).recent).length < 255

section
variable {c : Core} {i : QueueId} {cause : BitVec 3}

theorem Core.resetQueue_runs (hd : (c.queue i).deferred = []) (hf : c.resetsFew i) : c.resetQueue i cause = c.resetNow i cause (c.qcfg i) := by
  unfold Core.resetQueue Core.resetQueueAt
  refine if_neg ?_
  rw [hd, not_or]
  exact ⟨Bool.false_ne_true, Nat.not_le.mpr hf⟩

theorem Core.resetQueue_waits (h : (c.queue i).deferred ≠ [] ∨ ¬c.resetsFew i) :
    c.resetQueue i cause = c.setQueue i { c.queue i with deferred := (c.queue i).deferred ++ [cause] } := by
  unfold Core.resetQueue Core.resetQueueAt
  refine if_pos (h.imp (fun hd => ?_) Nat.not_lt.mp)
  simpa using hd

end

theorem Core.lastLog_of_err {c d : Core} (h : d.err = c.err) : d.lastLog = c.lastLog := by rw [Core.lastLog, Core.lastLog, h]

/-- The entry of the error log for a mismatch of the pointers' stores. -/
def pointerEntry (i : QueueId) : ErrInfo := { cls := 1, source := 0x0B, code := 0x0009, unit := i.setWidth 32, detail := 0, addr := 0 }

/-- The core in which a reset with this cause is asked for: a mismatch of the pointers' stores stands in the log. -/
def Core.asked (c : Core) (i : QueueId) (cause : BitVec 3) : Core := if cause = 2 then c.log (pointerEntry i) else c

theorem Core.asked_eq (c : Core) (i : QueueId) (cause : BitVec 3) : c.asked i cause = { c with err := (c.asked i cause).err } := by
  unfold Core.asked Core.log
  dsimp only
  repeat' split
  all_goals rfl

section
variable {s : State} {i : QueueId} {cause : BitVec 3} {rest : List (BitVec 3)}

theorem exec_queueResetInstant (h : 1 ≤ cause.toNat ∧ cause.toNat ≤ 5) :
    exec (.queueResetInstant i cause) s = .next (s.on ((s.core.asked i cause).resetQueue i cause)) := by
  have hok : resetCause cause = true := decide_eq_true h
  show execQueueResetInstant i cause s = _
  rw [execQueueResetInstant, hok, onCoreIf_true]
  refine congrArg (fun c => Host.Outcome.next (s.on c)) ?_
  by_cases h2 : cause = 2
  · rw [if_pos h2, Core.asked, if_pos h2, h2]
    rfl
  · rw [if_neg h2, Core.asked, if_neg h2]

theorem exec_qmgrQreset {m : Master} (v : Word) (ht : s.core.takes m (s.core.privileged m) = true) :
    exec (.qmgrQreset m v) s = .next (s.on (if v.getLsbD 31 then s.core.resetQueue (v.setWidth 14) 1 else s.core)) :=
  congrArg (fun c => Host.Outcome.next (s.on c)) (Core.writeBy_takes _ ht)

theorem exec_deferredQueueReset_runs (h : (s.core.queue i).deferred = cause :: rest) (hf : s.core.resetsFew i) :
    exec (.deferredQueueReset i) s
      = .next (s.on ((s.core.setQueue i { s.core.queue i with deferred := rest }).resetNow i cause (s.core.qcfg i))) := by
  show execDeferredQueueReset i s = _
  unfold execDeferredQueueReset
  rw [onCore_runs]
  dsimp only
  rw [h]
  exact congrArg (fun c => Host.Outcome.next (s.on c)) (if_pos hf)

theorem exec_deferredQueueReset_waits (h : (s.core.queue i).deferred = [] ∨ ¬s.core.resetsFew i) : exec (.deferredQueueReset i) s = .next s := by
  show execDeferredQueueReset i s = _
  unfold execDeferredQueueReset
  rw [onCore_runs]
  dsimp only
  cases hd : (s.core.queue i).deferred with
  | nil => rfl
  | cons cause rest => exact congrArg (fun c => Host.Outcome.next (s.on c)) (if_neg (h.resolve_left (by simp [hd])))

end

/-! ### The walk (R198) -/

/-- Queue r is queue q once the walk has passed n slots of it. -/
structure Queue.Walked (q : Queue) (n : Nat) (r : Queue) : Prop where
  walk : r.walk = q.walk.drop n
  ring : r.ring = q.ring
  chain : r.chain = q.chain
  epoch : r.epoch = q.epoch
  agrees : r.ptrsAgree = true

section
variable {c : Core} {i : QueueId} {card : Card} {rest : List Card}

/-- The core once the walk has passed the slot at the head of queue i, but for the credit that may leave. -/
def Core.passed (c : Core) (i : QueueId) (rest : List Card) : Core := (c.setQueue i { c.queue i with walk := rest }).clearSlot i

theorem Core.passed_slot (h : (c.queue i).ptrsAgree = true) (rest : List Card) : let d := c.passed i rest
    d.fly = c.fly ∧ d.bytes (sideAddr i (c.qcfg i) (c.queue i).head.toNat) 8 = List.replicate 8 0
    ∧ (d.queue i).ptrs.head = ringAfter (c.qcfg i) (c.queue i).head ∧ (d.queue i).ptrs.tail = (c.queue i).ptrs.tail := by
  obtain ⟨hown, hoff, hmem⟩ := c.clearSlot_setQueue i (x := { c.queue i with walk := rest }) h
  obtain ⟨-, hfly, -⟩ := Core.rest_of_offScratch hoff
  have hbytes := c.bytes_setBytes_self (sideAddr i (c.qcfg i) (c.queue i).head.toNat) (List.replicate 8 0)
  rw [List.length_replicate] at hbytes
  exact ⟨hfly, (Core.bytes_congr hmem _ _).trans hbytes, congrArg (·.ptrs.head) hown, congrArg (·.ptrs.tail) hown⟩

theorem Core.walkSlot_nil (h : (c.queue i).walk = []) : c.walkSlot i = c := by
  unfold Core.walkSlot
  rw [h]

/-- Passing a slot reads its sideband, clears the slot, and may send a credit or log an error. -/
theorem Core.walkSlot_cons (h : (c.queue i).walk = card :: rest) :
    let r := c.readEcc (queueBunch i) (BitVec.ofNat 21 (sideAddr i (c.qcfg i) (c.queue i).head.toNat - scratchBase (queueBunch i))) 0x20
    let d := if r.2.slotValid i (r.2.qcfg i) (r.2.queue i).head.toNat
      then (r.2.passed i rest).returnCredit (queuePlace i) { card with badSide := r.1 } else r.2.passed i rest
    c.walkSlot i = if r.1 then d.log { cls := 1, source := 0x0B, code := 0x0018, unit := i.setWidth 32, detail := 0, addr := 0 } else d := by
  unfold Core.walkSlot
  rw [h]
  rfl

theorem Core.walkSlot_walked {q : Queue} {n : Nat} (h : q.Walked n (c.queue i)) : q.Walked (n + 1) ((c.walkSlot i).queue i) := by
  cases hw : (c.queue i).walk with
  | nil =>
    rw [Core.walkSlot_nil hw]
    exact { h with walk := hw.trans (List.drop_eq_nil_of_le (by have := List.drop_eq_nil_iff.mp (h.walk.symm.trans hw); omega)).symm }
  | cons card rest =>
    let r := c.readEcc (queueBunch i) (BitVec.ofNat 21 (sideAddr i (c.qcfg i) (c.queue i).head.toNat - scratchBase (queueBunch i))) 0x20
    have hr : r.2.queue i = c.queue i := Core.queue_of_offScratch (ScratchFree.offScratch.readEcc ..) i
    have hp : (r.2.passed i rest).queue i = _ := (r.2.clearSlot_setQueue i (x := { r.2.queue i with walk := rest }) (hr ▸ h.agrees)).1
    have hrest : rest = q.walk.drop (n + 1) := by
      rw [← List.drop_drop, ← h.walk, hw]
      rfl
    have hd (d : Core) (hd : d.queues = (r.2.passed i rest).queues) : q.Walked (n + 1) (d.queue i) := by
      rw [Core.queue_of_queues hd, hp, hr]
      exact ⟨hrest, h.ring, h.chain, h.epoch, Queue.point_agrees ..⟩
    rw [Core.walkSlot_cons hw]
    refine hd _ ?_
    have hcredit : (if r.2.slotValid i (r.2.qcfg i) (r.2.queue i).head.toNat
        then (r.2.passed i rest).returnCredit (queuePlace i) { card with badSide := r.1 } else r.2.passed i rest).queues
        = (r.2.passed i rest).queues := keeps_ite Core.queues (Core.Sends.returnCredit ..).same.1 rfl
    exact keeps_ite Core.queues ((Core.log_rest ..).2.1.trans hcredit) hcredit

theorem Queue.walked_zero {q : Queue} (h : q.ptrsAgree = true) : q.Walked 0 q := ⟨rfl, rfl, rfl, rfl, h⟩

theorem exec_ringWalk (s : State) : exec (.ringWalk i) s = .next (s.on ((List.range 4).foldl (fun c _ => c.walkSlot i) s.core)) := rfl

/-- One read of the walk passes four slots. -/
theorem exec_ringWalk_walked {s : State} (h : (s.core.queue i).ptrsAgree = true) :
    Runs (exec (.ringWalk i) s) fun t => (s.core.queue i).Walked 4 (t.core.queue i) := by
  have hwalk (n : Nat) : (s.core.queue i).Walked n (((List.range n).foldl (fun c _ => c.walkSlot i) s.core).queue i) := by
    induction n with
    | zero => exact Queue.walked_zero h
    | succ n ih =>
      rw [List.range_succ, List.foldl_append]
      exact Core.walkSlot_walked ih
  exact ⟨_, exec_ringWalk s, hwalk 4⟩

/-- Passing a slot whose sideband reads without an error. -/
theorem Core.walkSlot_clean (h : (c.queue i).walk = card :: rest)
    (hend : qcfgRbase (c.qcfg i) + 40 * ringSlots (c.qcfg i) ≤ 0x200000) (hs : 0 < ringSlots (c.qcfg i))
    (hm : c.mark (sideAddr i (c.qcfg i) (c.queue i).head.toNat) = .ok) :
    c.walkSlot i = if c.slotValid i (c.qcfg i) (c.queue i).head.toNat
      then (c.passed i rest).returnCredit (queuePlace i) { card with badSide := false } else c.passed i rest := by
  obtain ⟨hlo, hhi⟩ := sideAddr_inside (i := i) hend hs (c.queue i).head.toNat
  rw [Core.walkSlot_cons h, Core.readEcc_at (by omega) (by omega) hm]
  exact if_neg Bool.false_ne_true

/-- The walk of the last old slot is one step. -/
theorem exec_ringWalk_last {s : State} (hw : (s.core.queue i).walk = [card]) (ha : (s.core.queue i).ptrsAgree = true) :
    exec (.ringWalk i) s = .next (s.on (s.core.walkSlot i)) := by
  have hdone : ((s.core.walkSlot i).queue i).walk = [] := by rw [(Core.walkSlot_walked (Queue.walked_zero ha)).walk, hw]; rfl
  rw [exec_ringWalk, foldl_range_one 4 (n := 0) rfl (fun k hk => absurd hk (Nat.not_lt_zero k)) fun k _ _ => Core.walkSlot_nil hdone]
  rfl

end

end Sys2Proof.Machine

open Sys2Proof Sys2Proof.Machine

/-- Settles O26: a reset that runs is `resetNow` on the core in which it was asked for, and the walk passes up to four slots. -/
theorem queuesReset : Obligations.QueuesReset := by
  intro s i cause m v rest card c q w recent few sideOf valid live plain credit isReset legal
  have hreset (e : Core) (k : BitVec 3) (later : List (BitVec 3)) (he : e = { c with err := e.err, queues := e.queues })
      (hown : e.queue i = { q with deferred := later }) (hne : ∀ j, j ≠ i → e.queue j = c.queue j) : isReset (s.on (e.resetNow i k w)) k later := by
    obtain ⟨htime, hfly, hmem⟩ : e.time = c.time ∧ e.fly = c.fly ∧ e.mem = c.mem :=
      ⟨congrArg (·.time) he, congrArg (·.fly) he, congrArg (·.mem) he⟩
    have hbound : e.boundTo i = c.boundTo i := congrArg (·.boundTo i) he
    have hvalid (x : Nat) : e.slotValid i w x = valid x := congrArg (·.slotValid i w x) he
    have hcount : (e.discards i w).length = q.chain.length + live := by
      rw [Core.discards_length, hown]
      simp only [hvalid]
      rfl
    obtain ⟨hqueues, hmem', -⟩ := e.resetNow_same i k w
    have hr : (e.resetNow i k w).queue i = e.resetState i k w := (Core.queue_of_queues hqueues i).trans (e.queue_setQueue i _)
    rw [Core.resetState, hcount, hown, htime] at hr
    have hother (j : QueueId) (hj : j ≠ i) : (e.resetNow i k w).queue j = c.queue j :=
      (Core.queue_of_queues hqueues j).trans ((e.queue_setQueue_ne _ hj).trans (hne j hj))
    have hflies := e.resetNow_fly i k w
    have hnotice {p : Producer} := e.resetNow_notice i k w (p := p)
    have hcredit {x : Card} := e.resetNow_credit i k w (x := x)
    have hposy {x : Card} := e.resetNow_posyNotice i k w (x := x)
    rw [hown, hbound] at hnotice hposy
    rw [hown] at hcredit
    rw [hfly] at hflies
    rw [hmem] at hmem'
    generalize e.resetNow i k w = d at *
    refine ⟨congrArg (·.epoch) hr, congrArg (·.mark) hr, congrArg (·.first) hr, congrArg (·.resets) hr, ?_, congrArg (·.cause) hr,
      congrArg (·.at_) hr, congrArg (·.chain) hr, congrArg (·.ring) hr, congrArg (·.walk) hr, congrArg (·.deferred) hr, congrArg (·.recent) hr,
      congrArg (·.ptrs) hr, hother, hmem', fun f hf => hflies hf, fun p => hnotice, fun x hx hp => hcredit hx hp.1 hp.2.1 hp.2.2,
      fun x => hposy⟩
    exact (congrArg (·.discarded) hr).trans (congrArg (fun n => BitVec.ofNat 32 (min n 0xFFFFFFFF)) (Nat.add_assoc ..).symm)
  obtain ⟨haqs, haw, hat⟩ : (c.asked i cause).queues = c.queues ∧ (c.asked i cause).qcfg i = w ∧ (c.asked i cause).time = c.time := by
    rw [c.asked_eq i cause]
    exact ⟨rfl, rfl, rfl⟩
  have haq : (c.asked i cause).queue i = q := Core.queue_of_queues haqs i
  have hfew : (c.asked i cause).resetsFew i ↔ few := by rw [Core.resetsFew, haq, hat]
  refine ⟨?instant, ?waits, ?written, ?unset, ?deferred, exec_deferredQueueReset_waits, ?walk, ?last⟩
  case instant =>
    intro hl hd hf
    have hrun := Core.resetQueue_runs (cause := cause) (haq ▸ hd : ((c.asked i cause).queue i).deferred = []) (hfew.mpr hf)
    refine ⟨_, exec_queueResetInstant hl, ?_⟩
    rw [hrun, haw]
    refine ⟨hreset _ cause [] ((c.asked_eq i cause).trans (by rw [haqs])) (haq.trans (by rw [← hd]))
      fun j _ => Core.queue_of_queues haqs j, fun h2 ht => ?_⟩
    refine (Core.lastLog_of_err (Core.resetNow_same ..).2.2).trans ?_
    rw [Core.asked, if_pos h2]
    exact Core.lastLog_log ht
  case waits =>
    intro hl h
    have hwait := Core.resetQueue_waits (cause := cause) (h.imp (fun hd => haq ▸ hd) (mt hfew.mp) : ((c.asked i cause).queue i).deferred ≠ [] ∨ _)
    refine ⟨_, exec_queueResetInstant hl, ?_⟩
    rw [hwait, haq]
    refine ⟨Core.queue_setQueue .., ?_, ?_⟩
    · rw [State.on_core, Core.setQueue_fly, c.asked_eq]
    · rw [State.on_core, Core.setQueue_mem, c.asked_eq]
  case written =>
    intro ht hv hi hd hf
    subst hi
    refine ⟨_, exec_qmgrQreset v ht, ?_⟩
    rw [if_pos hv, Core.resetQueue_runs hd hf]
    exact hreset c 1 [] rfl (by rw [← hd]) fun _ _ => rfl
  case unset =>
    intro ht hv
    rw [exec_qmgrQreset v ht, hv]
    rfl
  case deferred =>
    intro hd hf
    refine ⟨_, exec_deferredQueueReset_runs hd hf, ?_⟩
    exact hreset _ cause rest rfl (c.queue_setQueue i _) fun j hj => c.queue_setQueue_ne _ hj
  case walk =>
    intro hlen ha
    obtain ⟨t, ht, hwalked⟩ := exec_ringWalk_walked ha
    exact ⟨t, ht, hwalked.walk.trans (List.drop_eq_nil_of_le hlen), hwalked.ring, hwalked.chain, hwalked.epoch, hwalked.agrees⟩
  case last =>
    rintro hwalk ha hend hs side hm ⟨hb, hmute, hside⟩
    rw [exec_ringWalk_last hwalk ha, Core.walkSlot_clean hwalk hend hs hm]
    obtain ⟨hfly, hbytes, hhead, htail⟩ := Core.passed_slot ha []
    generalize c.passed i [] = e at *
    have hslot : c.slotValid i w q.head.toNat = valid q.ptrs.head.toNat := rfl
    rw [hslot]
    by_cases hv : valid q.ptrs.head.toNat = true
    · rw [if_pos hv, if_pos hv, Core.returnCredit_plain (card := { card with badSide := false }) rfl hb hmute]
      obtain ⟨hqs, hmem, hsent⟩ := e.launch_rest (queuePlace i) (.credit card.route card.serial false)
      refine ⟨_, rfl, ?_, (Core.bytes_congr hmem side 8).trans hbytes, ?_, ?_⟩
      · rw [State.on_core, hsent, hfly]
        rfl
      · rw [State.on_core, Core.queue_of_queues hqs, hhead]
        rfl
      · rw [State.on_core, Core.queue_of_queues hqs, htail]
    · rw [if_neg hv, if_neg hv, List.append_nil]
      exact ⟨_, rfl, hfly, hbytes, hhead, htail⟩
end

section
/-!
PROOFS. Host queue pairs: index writes, the inbound card that leaves, and the outbound card that is written to host memory.
-/
namespace Sys2Proof.Machine

/-! ### Index writes (R213, R214) -/

section
variable {s : State} {m : Master} {h : BitVec 8} {v : Word}

/-- The index that a write of v carries, modulo twice the ring's slots. -/
def Core.pairIndex (c : Core) (h : BitVec 8) (v : Word) : BitVec 17 :=
  BitVec.ofNat 17 ((v.setWidth 17 : BitVec 17).toNat % 2 ^ (pairSize (c.pairCfg h) + 1))

variable (hf : s.core.frozenMaster m = false) (ho : s.core.ownsPair m h = true)
include hf ho

/-- A write of ITAIL neither beyond a full ring nor behind the tail that stands is taken; any other is logged. -/
theorem exec_hqpItailWrite : let c := s.core
    let size := pairSize (c.pairCfg h)
    let d := ringDiff size (c.pairIndex h v) (c.hqp h).ihead
    exec (.hqpItailWrite m h v) s = .next (s.on (if 2 ^ size < d ∨ d < ringDiff size (c.hqp h).itail (c.hqp h).ihead
      then c.ignoredIndex h 0x10 else c.setHqp h { c.hqp h with itail := c.pairIndex h v })) := by
  refine congrArg (fun c => Host.Outcome.next (s.on c)) ?_
  refine (if_neg (by simp [hf])).trans ?_
  exact if_neg (by simp [ho])

/-- A write of OHEAD within the cards that stand passes some of them, whose credits leave. -/
theorem exec_hqpOheadWrite : let c := s.core
    let size := pairSize (c.pairCfg h)
    let x := c.hqp h
    let d := ringDiff size (c.pairIndex h v) x.ohead
    exec (.hqpOheadWrite m h v) s = .next (s.on (if ringDiff size x.otail x.ohead < d then c.ignoredIndex h 0x1C
      else { c.setHqp h { x with ohead := c.pairIndex h v, routes := x.routes.drop d } with
        fly := c.fly ++ (x.routes.take d).map fun e => (Parcel.credit e.1 e.2 false).item (pairPlace h) })) := by
  intro c size x d
  refine congrArg (fun c => Host.Outcome.next (s.on c)) ?_
  refine (if_neg (by simp [hf])).trans ((if_neg (by simp [ho])).trans ?_)
  refine if_congr Iff.rfl rfl ?_
  exact Core.launch_foldl (pairPlace h) (fun e : Producer × Nat => Parcel.credit e.1 e.2 false) (x.routes.take d)
    (c.setHqp h { x with ohead := c.pairIndex h v, routes := x.routes.drop d })

end

/-- An index write that is ignored stands in the log, naming the pair. -/
theorem Core.ignoredIndex_rest (c : Core) (h : BitVec 8) (off : Nat) : let d := c.ignoredIndex h off
    d.hqps = c.hqps ∧ d.fly = c.fly
    ∧ (c.err.takes 0 = true → ∃ e, d.lastLog = some e ∧ e.code = 0x0007 ∧ e.unit = h.setWidth 32 ∧ e.detail = 214) := by
  unfold Core.ignoredIndex
  refine ⟨?_, ?_, fun ht => ⟨_, Core.lastLog_log ht, rfl, rfl, rfl⟩⟩
  all_goals simp

/-! ### The inbound card (R212) -/

theorem Core.pairFetches_iff (c : Core) (h : BitVec 8) : c.pairFetches h = true ↔
    pairEn (c.pairCfg h) = true ∧ c.isCmdPair h = false ∧ c.quiet (.hostPair h) = false
      ∧ c.frozenMaster (.host (pairFunc (c.pairCfg h))) = false ∧ (c.hqp h).itail ≠ (c.hqp h).ihead ∧ 1 ≤ (c.hchan h).credit
      ∧ c.handleHeld (c.hqpReg h 0x0C) = false := by
  simp only [Core.pairFetches, Bool.and_eq_true, Bool.not_eq_true', decide_eq_true_eq, and_assoc]

section
variable {s : State} {h : BitVec 8} {w : CardWords} {poison : BitVec 8}

/-- The card at IHEAD of pair h, with the header that the device gives it. -/
def Core.inboundCard (c : Core) (h : BitVec 8) (w : CardWords) (poison : BitVec 8) : Card :=
  { w := { w with w0 := headerOf w.w0 poison (c.hchan h).epoch }, poison := poison, route := .hostPair h, serial := (c.hchan h).serial
    seq := (c.hchan h).nextSeq }

/-- The core in which pair h has read the card at IHEAD. -/
def Core.fetched (c : Core) (h : BitVec 8) : Core :=
  c.setHqp h { c.hqp h with ihead := ringNext (pairSize (c.pairCfg h)) (c.hqp h).ihead }

theorem exec_hqpInboundFetch_idle (hf : ¬s.core.pairFetches h = true) : exec (.hqpInboundFetch h w poison) s = .next s :=
  congrArg (fun c => Host.Outcome.next (s.on c)) (if_pos (by simpa using hf))

theorem exec_hqpInboundFetch (hf : s.core.pairFetches h = true) : exec (.hqpInboundFetch h w poison) s = .next (s.on (
    if w.w0 >>> 24 = 0 then s.core.fetched h
    else ((s.core.fetched h).setHchan h ((s.core.hchan h).sent w.w0)).launch (prodKey (.hostPair h))
      (s.core.route (s.core.hqpReg h 0x0C) (s.core.inboundCard h w poison)))) :=
  congrArg (fun c => Host.Outcome.next (s.on c)) (if_neg (by simp [hf]))

end

/-! ### The outbound card (R213) -/

/-- The header that replaces a poisoned one (R185). -/
theorem sysHeader_poison (epoch : Byte) : sysHeader 0x05 0x90 epoch = 0x05900000#32 ||| (epoch.setWidth 32 <<< 8) := rfl

section
variable {s : State} {k o d : Nat} {h : BitVec 8} {card : Card}

/-- What pair h makes of a card that arrives, and the answer that leaves. -/
theorem exec_hqpOutboundWrite (ha : s.core.arrives k = some ⟨o, d, .toPair h card⟩) (hm : card.mute = false) :
    let c := s.core
    let size := pairSize (c.pairCfg h)
    let answered (e : Core) (r : BitVec 4) (back : Bool) := e.launch (pairPlace h) (.resolved card.route r back card.bcast card.seq)
    exec (.hqpOutboundWrite k) s = .next (s.on (
      if ¬(pairEn (c.pairCfg h) = true ∧ c.quiet (.hostPair h) = false) then answered (c.land k) 2 true
      else if card.serial ≠ (c.prod card.route).serial then answered (c.land k) 5 true
      else if 2 ^ size ≤ ringDiff size (c.hqp h).otail (c.hqp h).ohead then c
      else answered ((c.land k).writeOutbound h (outboundCard (c.prod card.route).epoch card) (some (card.route, card.serial))) 0 false)) := by
  intro c size answered
  show execHqpOutboundWrite k s = _
  unfold execHqpOutboundWrite
  rw [onCore_runs, ha]
  dsimp only
  refine congrArg (fun c => Host.Outcome.next (s.on c)) (if_congr ?_ ?_ (if_congr Iff.rfl ?_ (if_congr Iff.rfl rfl ?_)))
  · simp only [Bool.or_eq_true, Bool.not_eq_true', not_and_or, Bool.not_eq_true, Bool.not_eq_false]
    rfl
  · exact if_neg (by simp [hm])
  · exact if_neg (by simp [hm])
  · exact if_neg (by simp [hm])

end

end Sys2Proof.Machine

open Sys2Proof Sys2Proof.Machine

/-- Settles O27: each command of a pair is one equation, of which the clauses are the branches. -/
theorem hostQueuePairs : Obligations.HostQueuePairs := by
  intro s h m v w poison k o d card c x size ix mine next ch dest last head sent paid to_ fetches taken brought serves answered word image ring put
  refine ⟨?itail, ?itailIgnored, ?ohead, ?oheadIgnored, ?fetch, ?empty, ?idle, ?written, ?off, ?stale⟩
  case itail =>
    rintro ⟨hf, ho⟩ hfull hback
    rw [exec_hqpItailWrite hf ho]
    exact congrArg (fun c => Host.Outcome.next (s.on c)) (if_neg (not_or.mpr ⟨Nat.not_lt.mpr hfull, Nat.not_lt.mpr hback⟩))
  case itailIgnored =>
    rintro ⟨hf, ho⟩ hbad
    refine ⟨_, (exec_hqpItailWrite hf ho).trans (congrArg (fun c => Host.Outcome.next (s.on c)) (if_pos hbad)), ?_⟩
    exact c.ignoredIndex_rest h 0x10
  case ohead =>
    rintro ⟨hf, ho⟩ hle
    refine ⟨_, (exec_hqpOheadWrite hf ho).trans (congrArg (fun c => Host.Outcome.next (s.on c)) (if_neg (Nat.not_lt.mpr hle))), ?_⟩
    exact ⟨c.hqp_setHqp h _, rfl⟩
  case oheadIgnored =>
    rintro ⟨hf, ho⟩ hlt
    refine ⟨_, (exec_hqpOheadWrite hf ho).trans (congrArg (fun c => Host.Outcome.next (s.on c)) (if_pos hlt)), ?_⟩
    obtain ⟨hqps, hfly, -⟩ := c.ignoredIndex_rest h 0x1C
    exact ⟨hqps, hfly⟩
  case fetch =>
    intro hf h0
    have hcard : c.inboundCard h w poison = sent := by rw [Core.inboundCard, headerOf_eq]
    have hpaid : ch.sent w.w0 = paid := by
      rw [Chan.sent, flagLast_eq]
      rfl
    rw [exec_hqpInboundFetch ((c.pairFetches_iff h).mpr hf)]
    refine congrArg (fun c => Host.Outcome.next (s.on c)) ((if_neg h0).trans ?_)
    rw [hcard, hpaid]
    rfl
  case empty =>
    intro hf h0
    rw [exec_hqpInboundFetch ((c.pairFetches_iff h).mpr hf)]
    exact congrArg (fun c => Host.Outcome.next (s.on c)) (if_pos h0)
  case idle => exact fun hf => exec_hqpInboundFetch_idle (mt (c.pairFetches_iff h).mp hf)
  case written =>
    intro ha hm hs hserial hroom
    have himage : outboundCard (c.prod card.route).epoch card = image := by
      rw [outboundCard, sysHeader_poison]
      rfl
    rw [exec_hqpOutboundWrite ha hm, himage]
    refine congrArg (fun c => Host.Outcome.next (s.on c)) ((if_neg (not_not.mpr hs)).trans
      ((if_neg (not_not.mpr hserial)).trans ((if_neg (Nat.not_le.mpr hroom)).trans ?_)))
    rfl
  case off =>
    intro ha hm hs
    rw [exec_hqpOutboundWrite ha hm]
    exact congrArg (fun c => Host.Outcome.next (s.on c)) (if_pos hs)
  case stale =>
    intro ha hm hs hserial
    rw [exec_hqpOutboundWrite ha hm]
    exact congrArg (fun c => Host.Outcome.next (s.on c)) ((if_neg (not_not.mpr hs)).trans (if_pos hserial))
end

section
/-!
PROOFS. What an ignored write and an event of a trigger source (R229 to R231) leave of the core.
-/
namespace Sys2Proof.Machine

theorem runs_of_eq {o : Out} {t : State} {P : State → Prop} (h : o = .next t) (hP : P t) : Runs o P := ⟨t, h, hP⟩

theorem Core.ignored_rest (c : Core) (m : Master) (rule : Nat) (a : Addr) : let d := c.ignored m rule a
    d.cmps = c.cmps ∧ d.fabric = c.fabric ∧ d.mem = c.mem ∧ d.sprigs = c.sprigs ∧ d.time = c.time := by
  simp only [Core.ignored, Core.log_rest, and_self]

/-- The core without the parts that an event of a source can touch: the trigger fabric, and the counts that decoders hold for their samples. -/
def Core.offFabric (c : Core) : Core := { c with fabric := {}, qds := [] }

theorem Core.riseLine_offFabric (c : Core) (l : BitVec 12) (t : DWord) : (c.riseLine l t).offFabric = c.offFabric := by
  unfold Core.riseLine
  refine foldl_keeps Core.offFabric _ (fun c k => ?_) _ _
  split <;> rfl

theorem Core.driveLine_offFabric (c : Core) (l : BitVec 12) (level event : Bool) (t : DWord) :
    (c.driveLine l level event t).offFabric = c.offFabric := by
  unfold Core.driveLine
  dsimp only
  split
  · exact keeps_ite Core.offFabric (Core.riseLine_offFabric ..) rfl
  · exact keeps_ite Core.offFabric (Core.riseLine_offFabric ..) rfl

theorem Core.source_offFabric (c : Core) (src : BitVec 16) (level event : Bool) (t : DWord) :
    (c.source src level event t).offFabric = c.offFabric :=
  foldl_keeps Core.offFabric _ (fun _ _ => Core.driveLine_offFabric ..) _ _

/-- An event of a source leaves everything else. -/
@[simp] theorem Core.source_rest (c : Core) (src : BitVec 16) (level event : Bool) (t : DWord) : let d := c.source src level event t
    d.sprigs = c.sprigs ∧ d.fly = c.fly ∧ d.mem = c.mem ∧ d.cfg = c.cfg ∧ d.err = c.err ∧ d.time = c.time ∧ d.caps = c.caps ∧ d.pops = c.pops
    ∧ d.cmps = c.cmps ∧ d.dms = c.dms ∧ d.deals = c.deals ∧ d.sstats = c.sstats ∧ d.latchX = c.latchX ∧ d.slack = c.slack
    ∧ d.fioBanks = c.fioBanks ∧ d.pins = c.pins ∧ d.handLines = c.handLines ∧ d.power = c.power ∧ d.staged = c.staged ∧ d.rdata = c.rdata :=
  have h := c.source_offFabric src level event t
  ⟨congrArg (·.sprigs) h, congrArg (·.fly) h, congrArg (·.mem) h, congrArg (·.cfg) h, congrArg (·.err) h, congrArg (·.time) h,
    congrArg (·.caps) h, congrArg (·.pops) h, congrArg (·.cmps) h, congrArg (·.dms) h, congrArg (·.deals) h, congrArg (·.sstats) h,
    congrArg (·.latchX) h, congrArg (·.slack) h, congrArg (·.fioBanks) h, congrArg (·.pins) h, congrArg (·.handLines) h,
    congrArg (·.power) h, congrArg (·.staged) h, congrArg (·.rdata) h⟩

end Sys2Proof.Machine
end

section
/-!
PROOFS. Device time (R216 to R225): its rate, its steps, its quality, its reference and its reload after a stop.
-/
namespace Sys2Proof.Machine

section
variable {s : State} {m : Master} {v : Word}

/-! ### Rate and steps -/

theorem exec_timeRateWrite (h : s.core.takes m (s.core.privileged m) = true) : exec (.timeRateWrite m v) s = .next (s.on
    (if v.toInt < -858993 ∨ 858993 < v.toInt then (s.core.setTrim v.toInt).setTimeStat 1 else s.core.setTrim v.toInt)) :=
  congrArg (fun c => Host.Outcome.next (s.on c)) (Core.writeBy_takes _ h)

/-- 200 ppm is 858,993 × 2^−32 (R221). -/
theorem clampTrim (x : Int) : clampInt x (-858993) 858993 = max (-858993) (min x 858993) := clampInt_eq (by decide)

theorem clampTrim_eq_iff (x : Int) : max (-858993) (min x 858993) = x ↔ ¬(x < -858993 ∨ 858993 < x) := by omega

theorem exec_timeStepGo (h : s.core.takes m (s.core.privileged m) = true) (hv : v.getLsbD 31 = true) : exec (.timeStepGo m v) s = .next (s.on
    (if s.core.time.busy || !s.core.stepAllowed s.core.stepAmount then s.core.ignoredReg m 222 0x04 0x18
      else let c := s.core.stepTime s.core.stepAmount; { c with time := { c.time with busy := true } })) := by
  refine congrArg (fun c => Host.Outcome.next (s.on c)) ((Core.writeBy_takes _ h).trans (if_neg ?_))
  simp [hv]

theorem exec_timeStepGo_idle (h : s.core.takes m (s.core.privileged m) = true) (hv : v.getLsbD 31 = false) : exec (.timeStepGo m v) s = .next s := by
  refine congrArg (fun c => Host.Outcome.next (s.on c)) ((Core.writeBy_takes _ h).trans (if_pos ?_))
  rw [hv]
  rfl

theorem Core.stepAllowed_iff (c : Core) (n : DWord) : c.stepAllowed n = true ↔ n ≠ 0 ∧ c.time.dtime.toNat + n.toNat < 2 ^ 64 - 1 := by
  simp only [Core.stepAllowed, Bool.and_eq_true, decide_eq_true_eq]

/-! ### Quality -/

theorem exec_timeQualityWrite (h : s.core.takes m (s.core.privileged m) = true) :
    exec (.timeQualityWrite m v) s = .next (s.on (s.core.setQual (v.setWidth 2))) :=
  congrArg (fun c => Host.Outcome.next (s.on c)) (Core.writeBy_takes _ h)

theorem Core.setQual_same {c : Core} {k : BitVec 2} (h : k = c.time.qual) : c.setQual k = c := if_pos h

/-- Whether or not it is a change, the quality is then the one written, and DTIME is as it was. -/
theorem Core.setQual_keeps (c : Core) (k : BitVec 2) : (c.setQual k).time.qual = k ∧ (c.setQual k).time.dtime = c.time.dtime
    ∧ (c.setQual k).time.ref = c.time.ref ∧ (c.setQual k).time.trim = c.time.trim ∧ (c.setQual k).time.running = c.time.running
    ∧ (c.setQual k).time.sleepN = c.time.sleepN ∧ (c.setQual k).time.unplanned = c.time.unplanned := by
  by_cases h : k = c.time.qual
  · rw [Core.setQual_same h]
    exact ⟨h.symm, rfl, rfl, rfl, rfl, rfl, rfl⟩
  · rw [Core.setQual_time c h]
    exact ⟨rfl, rfl, rfl, rfl, rfl, rfl, rfl⟩

/-! ### The reference -/

theorem Core.mayTakeRef_iff (c : Core) (r : BitVec 1) : c.mayTakeRef r = true ↔ r = c.time.ref ∨ r = (Tbl.get c.cfg (sid 0x04 0x28) 0).setWidth 1
    ∨ ((Tbl.get c.cfg (sid 0x04 0x28) 0).getLsbD 1 = true ∧ r = 1) := by
  rw [Core.mayTakeRef, Bool.or_eq_true, Bool.or_eq_true, Bool.and_eq_true, decide_eq_true_iff, decide_eq_true_iff, decide_eq_true_iff, or_assoc]
  rfl

theorem exec_refChange {r : BitVec 1} (trim : Int) (h : s.core.mayTakeRef r = true) : exec (.refChange r trim) s = .next (s.on
    (if trim < -858993 ∨ 858993 < trim then ((s.core.switchRef r).setTrim trim).setQual 3 else (s.core.switchRef r).setTrim trim)) := by
  refine congrArg (fun c => Host.Outcome.next (s.on c)) (if_neg ?_)
  simp [h]

theorem exec_refChange_denied {r : BitVec 1} (trim : Int) (h : ¬s.core.mayTakeRef r = true) : exec (.refChange r trim) s = .next s :=
  congrArg (fun c => Host.Outcome.next (s.on c)) (if_pos (by simp [h]))

theorem Core.switchRef_time (c : Core) (r : BitVec 1) : (c.switchRef r).time = { c.time with ref := r, stat := c.time.stat ||| 8 } := by
  simp [Core.switchRef, Core.setTimeStat]

/-! ### Sleep -/

theorem exec_dtimeReload (hr : s.core.time.running = false) (hup : s.core.aon.power = .run ∧ s.core.aon.pgood = true) :
    exec .dtimeReload s = .next (s.on (if s.core.power.porst && s.core.power.coreReset then { s.core with time := { s.core.time with running := true } }
      else s.core.reloadTime s.core.aon.ticks)) :=
  congrArg (fun c => Host.Outcome.next (s.on c)) (if_neg (by simp [hr, hup]))

theorem exec_dtimeReload_waits (h : s.core.time.running = true ∨ ¬(s.core.aon.power = .run ∧ s.core.aon.pgood = true)) :
    exec .dtimeReload s = .next s := by
  refine congrArg (fun c => Host.Outcome.next (s.on c)) (if_pos ?_)
  rcases h with h | h
  · exact .inl h
  · right
    by_cases hp : s.core.aon.power = .run
    · exact .inr (by simpa [hp] using h)
    · exact .inl hp

/-- DTIME after a stop: what was saved, the ticks slept, and one more AON tick after a stop that was not planned. -/
def TimeBlk.woken (t : TimeBlk) (n : BitVec 48) : DWord := t.sleepDt + BitVec.ofNat 64 (aonTicks n.toNat t.rtcPpm) + (if t.unplanned then 244141 else 0)

/-- DTIME's block right after it is reloaded, ahead of what QUAL makes of it. -/
def TimeBlk.reloaded (t : TimeBlk) (n : BitVec 48) : TimeBlk :=
  { t with
    dtime := t.woken n, running := true, sleepN := n, unplanned := false, skips := t.skips ++ [(t.sleepDt, t.woken n, true)], stat := t.stat ||| 4 }

/-- The core right after the reload, ahead of what QUAL makes of it. -/
def Core.reawake (c : Core) (n : BitVec 48) : Core :=
  ((Core.skipTo { c with time := { c.time with dtime := c.time.sleepDt, running := true, sleepN := n, unplanned := false } } (c.time.woken n) true).setTimeStat
    4).source 0x3402 true true (c.time.woken n)

theorem Core.reawake_time (c : Core) (n : BitVec 48) : (c.reawake n).time = c.time.reloaded n := Core.source_time ..

/-- A reload leaves COARSE and an uncertainty that grew by 50 ppm of the sleep, unless QUAL is FREE (R224). -/
theorem Core.reloadTime_stopped {c : Core} (hr : c.time.running = false) (a : BitVec 48) :
    let n := a - c.time.aonStop
    let u := BitVec.ofNat 32 (min (c.time.uncertStop.toNat + n.toNat * 30518 * 50 / 1000000) 0xFFFFFFFF)
    let d := (c.reawake n).setQual 2
    c.reloadTime a = if c.time.qual = 0 then c.reawake n else { d with time := { d.time with uncert := u, holdBase := u } } :=
  if_neg (Bool.eq_false_iff.mp hr)

end

end Sys2Proof.Machine

open Sys2Proof Sys2Proof.Machine

/-- Settles O28, register by register and event by event. -/
theorem deviceTime : Obligations.DeviceTime := by
  intro s m v ns r trim c t0 priv amount good q lim refsel allowed up cold
  have hgood : good ↔ ¬(t0.busy || !c.stepAllowed c.stepAmount) = true := by
    rw [Bool.or_eq_true, not_or, Bool.not_eq_true, Bool.not_eq_true', Bool.not_eq_false, Core.stepAllowed_iff]
    rfl
  have hallowed : allowed ↔ c.mayTakeRef r = true := (c.mayTakeRef_iff r).symm
  have hlim (x : Int) : clampInt x (-858993) 858993 = lim x := clampTrim x
  refine ⟨?rate, ?step, ?refused, ?idle, ?quality, ?same, ?grows, ?stands, ?reference, ?outOfRange, ?denied, ?cold, ?reload, ?waits⟩
  case rate =>
    intro hp
    refine runs_of_eq (exec_timeRateWrite hp) ?_
    by_cases hv : v.toInt < -858993 ∨ 858993 < v.toInt
    · have hl : ¬lim v.toInt = v.toInt := fun h => (clampTrim_eq_iff _).mp h hv
      rw [if_pos hv, if_neg hl, ← hlim]
      exact ⟨rfl, rfl, rfl⟩
    · have hl : lim v.toInt = v.toInt := (clampTrim_eq_iff _).mpr hv
      rw [if_neg hv, if_pos hl, ← hlim]
      exact ⟨rfl, rfl, rfl⟩
  case step =>
    intro hp hv hg
    refine runs_of_eq (exec_timeStepGo hp hv) ?_
    rw [if_neg (hgood.mp hg)]
    dsimp only [State.on_core]
    rw [Core.stepTime_time]
    obtain ⟨hsprigs, -, hmem, -⟩ := Core.source_rest ((c.skipTo (c.time.dtime + c.stepAmount) false).setTimeStat 2) 0x3402 true true
      (c.time.dtime + c.stepAmount)
    exact ⟨rfl, hmem, hsprigs⟩
  case refused =>
    intro hp hv hg
    refine runs_of_eq (exec_timeStepGo hp hv) ?_
    rw [if_pos (not_not.mp (mt hgood.mpr hg))]
    obtain ⟨-, hfab, -, -, htime⟩ := c.ignored_rest m 222 (BitVec.ofNat 40 (regAt 0x04 0x18))
    exact ⟨htime, hfab⟩
  case idle => exact fun hp hv => exec_timeStepGo_idle hp hv
  case quality => exact fun hp hq => ⟨_, exec_timeQualityWrite hp, Core.setQual_time c hq⟩
  case same => exact fun hp hq => (exec_timeQualityWrite hp).trans (congrArg (fun c => Host.Outcome.next (s.on c)) (Core.setQual_same hq))
  case grows => exact fun hq => congrArg (fun c => Host.Outcome.next (s.on c)) (if_pos hq)
  case stands => exact fun hq => congrArg (fun c => Host.Outcome.next (s.on c)) (if_neg hq)
  case reference =>
    intro ha hlo hhi hlog
    have hin : ¬(trim < -858993 ∨ 858993 < trim) := by omega
    refine runs_of_eq (exec_refChange trim (hallowed.mp ha)) ?_
    rw [if_neg hin]
    refine ⟨?_, Core.lastLog_log (c := Core.setTimeStat { c with time := { c.time with ref := r } } 8) hlog⟩
    rw [State.on_core, Core.setTrim, clampTrim, (clampTrim_eq_iff trim).mpr hin, Core.switchRef_time]
  case outOfRange =>
    intro ha hout
    refine runs_of_eq (exec_refChange trim (hallowed.mp ha)) ?_
    rw [if_pos hout, State.on_core]
    obtain ⟨hqual, hdt, href, htrim, -⟩ := ((c.switchRef r).setTrim trim).setQual_keeps 3
    rw [hqual, hdt, href, htrim, Core.setTrim, Core.switchRef_time, clampTrim]
    exact ⟨rfl, rfl, rfl, rfl⟩
  case denied => exact fun ha => exec_refChange_denied trim (mt hallowed.mpr ha)
  case cold =>
    intro hr hup hcold
    rw [exec_dtimeReload hr hup]
    exact congrArg (fun c => Host.Outcome.next (s.on c)) (if_pos hcold)
  case reload =>
    intro hr hup hcold
    refine ⟨s.on (c.reloadTime c.aon.ticks), ?_, ?_⟩
    · rw [exec_dtimeReload hr hup]
      exact congrArg (fun c => Host.Outcome.next (s.on c)) (if_neg (Bool.eq_false_iff.mp hcold))
    · dsimp only [State.on_core]
      rw [Core.reloadTime_stopped hr]
      by_cases hq : t0.qual = 0
      · rw [if_pos hq, if_pos hq, Core.reawake_time]
        exact ⟨rfl, rfl, rfl, rfl, hq, fun h => absurd hq h⟩
      · obtain ⟨hqual, hdt, -, -, hrun, hn, hplan⟩ := (c.reawake (c.aon.ticks - t0.aonStop)).setQual_keeps 2
        rw [if_neg hq, if_neg hq]
        dsimp only
        rw [hqual, hdt, hrun, hn, hplan, Core.reawake_time]
        exact ⟨rfl, rfl, rfl, rfl, rfl, fun _ => rfl⟩
  case waits => exact exec_dtimeReload_waits
end

section
/-!
PROOFS. Capture channels, trigger lines and event latches (R226 to R232, R252, R395, R396, R399).
-/
namespace Sys2Proof.Machine

/-! ### Pins -/

theorem Core.bank_setBank_of (c : Core) (k j : BitVec 3) (x : Bank) : (c.setBank k x).bank j = if j = k then x else c.bank j := by
  simp only [Core.bank, Core.setBank, Tbl.get_set, BitVec.toNat_inj]

theorem Core.setBank_stopped {c : Core} {k : BitVec 3} {x : Bank} (h : x.stopped = (c.bank k).stopped) (j : BitVec 3) :
    ((c.setBank k x).bank j).stopped = (c.bank j).stopped := by
  rw [Core.bank_setBank_of]
  split
  · next hj => rw [hj, h]
  · rfl

theorem Core.pinLevel_stopped (c : Core) (n : Nat) (b : Bool) (j : BitVec 3) : ((c.pinLevel n b).bank j).stopped = (c.bank j).stopped := by
  unfold Core.pinLevel
  dsimp only
  split
  · refine Core.setBank_stopped ?_ j
    rfl
  · rfl

/-- The core once a change before t that FILT has passed counts (R252). -/
def Core.pinPassed (c : Core) (n : Nat) (t : DWord) : Core :=
  match Tbl.get (c.bank (BitVec.ofNat 3 (n / 32))).raw (n % 32) none with
  | some (v0, t0) => if t0.toNat + filtTicks (c.pcfg (BitVec.ofNat 8 n)) ≤ t.toNat then c.pinLevel n v0 else c
  | none => c

theorem Core.pinEdge_eq (c : Core) (n : Nat) (v : Bool) (t : DWord) : c.pinEdge n v t =
    (let k : BitVec 3 := BitVec.ofNat 3 (n / 32)
      let b := (c.pinPassed n t).bank k
      if 256 ≤ n ∨ filtTicks (c.pcfg (BitVec.ofNat 8 n)) = 0 then c.pinLevel n v
      else (c.pinPassed n t).setBank k
        { b with raw := Tbl.set b.raw (n % 32) (if b.inp.getLsbD (n % 32) = v then none else some (v, t)) none }) := rfl

/-- What a change of a pin's level leaves, an edge leaves. -/
theorem Core.pinEdge_keeps {β : Type} (P : Core → β) (hlevel : ∀ (c : Core) n b, P (c.pinLevel n b) = P c)
    (hraw : ∀ (c : Core) k l, P (c.setBank k { c.bank k with raw := l }) = P c) (c : Core) (n : Nat) (b : Bool) (t : DWord) :
    P (c.pinEdge n b t) = P c := by
  have hpass : P (c.pinPassed n t) = P c := by
    unfold Core.pinPassed
    split
    · exact keeps_ite P (hlevel ..) rfl
    · rfl
  rw [Core.pinEdge_eq]
  exact keeps_ite P (hlevel ..) ((hraw ..).trans hpass)

theorem Core.pinEdge_stopped (c : Core) (n : Nat) (b : Bool) (t : DWord) (j : BitVec 3) :
    ((c.pinEdge n b t).bank j).stopped = (c.bank j).stopped :=
  Core.pinEdge_keeps (fun c => (c.bank j).stopped) (fun _ _ _ => Core.pinLevel_stopped ..) (fun _ _ _ => Core.setBank_stopped (by rfl) j) c n b t

/-- The core without the levels at its pins. -/
def Core.offLevels (c : Core) : Core := { c with fioBanks := [], lvIn := 0 }

theorem Core.pinLevel_offLevels (c : Core) (n : Nat) (b : Bool) : (c.pinLevel n b).offLevels = c.offLevels := by
  unfold Core.pinLevel
  split <;> rfl

theorem Core.pinEdge_offLevels (c : Core) (n : Nat) (b : Bool) (t : DWord) : (c.pinEdge n b t).offLevels = c.offLevels :=
  Core.pinEdge_keeps Core.offLevels Core.pinLevel_offLevels (fun _ _ _ => rfl) c n b t

/-- An edge at a pin leaves the capture channels, the fabric, the settings and memory. -/
theorem Core.pinEdge_rest (c : Core) (n : Nat) (b : Bool) (t : DWord) : let d := c.pinEdge n b t
    d.caps = c.caps ∧ d.fabric = c.fabric ∧ d.cfg = c.cfg ∧ d.mem = c.mem :=
  have h := c.pinEdge_offLevels n b t
  ⟨congrArg (·.caps) h, congrArg (·.fabric) h, congrArg (·.cfg) h, congrArg (·.mem) h⟩

theorem Core.pcfg_congr {c d : Core} (h : d.cfg = c.cfg) (n : Byte) : d.pcfg n = c.pcfg n := by simp only [Core.pcfg, Core.fioReg, h]

theorem Core.capCfg_congr {c d : Core} (h : d.cfg = c.cfg) (k : BitVec 9) : d.capCfg k = c.capCfg k := by
  simp only [Core.capCfg, Core.timeReg, h]

theorem Core.pinEdge_captures (c : Core) (n : Nat) (b : Bool) (t : DWord) (k : BitVec 9) : (c.pinEdge n b t).captures k = c.captures k := by
  obtain ⟨-, -, hcfg, -⟩ := c.pinEdge_rest n b t
  have hlv : (c.pinEdge n b t).lvPcfg (k.setWidth 5) = c.lvPcfg (k.setWidth 5) := by simp only [Core.lvPcfg, Core.fioReg, hcfg]
  unfold Core.captures
  dsimp only
  rw [Core.capCfg_congr hcfg, Core.pcfg_congr hcfg, hlv, Core.pinEdge_stopped]

/-- Without FILT the level counts at once (R252). -/
theorem Core.pinIn_pinLevel (c : Core) {n : Nat} (hn : n < 256) (b : Bool) : (c.pinLevel n b).pinIn n = b := by
  unfold Core.pinLevel Core.pinIn
  rw [if_pos hn]
  dsimp only
  rw [Core.bank_setBank, Tbl.get_set_self]
  exact getLsbD_putBit_self _ _ (Nat.mod_lt _ (by decide))

theorem Core.pinIn_congr {c d : Core} (hb : d.fioBanks = c.fioBanks) (hc : d.cfg = c.cfg) (ht : d.time = c.time) (n : Nat) :
    d.pinIn n = c.pinIn n := by
  have hbank (k : BitVec 3) : d.bank k = c.bank k := by simp only [Core.bank, hb]
  unfold Core.pinIn
  rw [hbank, Core.pcfg_congr hc, ht]

/-! ### Capture channels -/

/-- A channel after an edge that EDGE selected comes to its FIFO (R226, R227). -/
def Capture.stored (x : Capture) (e : DWord × Bool) : Capture :=
  if 16 ≤ x.fifo.length then { x with ovf := true, lost := x.lost + 1 } else { x with fifo := x.fifo ++ [e] }

theorem Core.source_cap (c : Core) (src : BitVec 16) (level event : Bool) (t : DWord) (k : BitVec 9) :
    (c.source src level event t).cap k = c.cap k := by simp only [Core.cap, Core.source_rest]

theorem Core.source_popBuf (c : Core) (src : BitVec 16) (level event : Bool) (t : DWord) (m : Master) (k : BitVec 9) :
    (c.source src level event t).popBuf m k = c.popBuf m k := by simp only [Core.popBuf, Core.source_rest]

theorem Core.storeEdge_cap (c : Core) (k : BitVec 9) (t : DWord) (b : Bool) : (c.storeEdge k t b).cap k = (c.cap k).stored (capStamp k t, b) := by
  unfold Core.storeEdge Capture.stored
  dsimp only
  split
  · exact c.cap_setCap k _
  · exact (Core.source_cap ..).trans (c.cap_setCap k _)

theorem Core.storeEdge_cfg (c : Core) (k : BitVec 9) (t : DWord) (b : Bool) : (c.storeEdge k t b).cfg = c.cfg := by
  unfold Core.storeEdge
  dsimp only
  split
  · rfl
  · exact (Core.source_rest ..).2.2.2.1

section
variable {c : Core} {k : BitVec 9} {t : DWord} {pol : Bool}

/-- The edge as the channel holds it, with whether EDGE selects it. -/
def Core.heldEdge (c : Core) (k : BitVec 9) (t : DWord) (pol : Bool) : Option (DWord × Bool × Bool) :=
  some (t, pol, (c.capCfg k).getLsbD (if pol then 29 else 30))

theorem Core.capture_first (h : (c.cap k).hold = none) :
    c.capture k t pol = c.setCap k { c.cap k with hold := c.heldEdge k t pol } := by
  have hs : c.settleCap k t = c := by
    unfold Core.settleCap
    rw [h]
  unfold Core.capture
  dsimp only
  rw [hs, h]
  rfl

variable {t0 : DWord} {b sel : Bool} (h : (c.cap k).hold = some (t0, b, sel))
include h

theorem Core.capture_glitch (ht : t.toNat < t0.toNat + capSpacing k) :
    c.capture k t pol = c.setCap k { c.cap k with hold := none, glitch := (c.cap k).glitch + 1 } := by
  have hs : c.settleCap k t = c := by
    unfold Core.settleCap
    rw [h]
    exact if_pos ht
  unfold Core.capture
  dsimp only
  rw [hs, h]

/-- The edge held before has kept its spacing: it is stored if EDGE selected it. -/
theorem Core.capture_spaced (ht : t0.toNat + capSpacing k ≤ t.toNat) : (c.capture k t pol).cap k =
    { (if sel then (c.cap k).stored (capStamp k t0, b) else c.cap k) with hold := c.heldEdge k t pol } := by
  have hs : c.settleCap k t = if sel then (c.setCap k { c.cap k with hold := none }).storeEdge k t0 b else c.setCap k { c.cap k with hold := none } := by
    unfold Core.settleCap
    rw [h]
    exact if_neg (Nat.not_lt.mpr ht)
  unfold Core.capture
  dsimp only
  rw [hs]
  cases sel with
  | false =>
    simp only [Bool.false_eq_true, if_false, Core.cap_setCap]
    rfl
  | true =>
    have hcap : ((c.setCap k { c.cap k with hold := none }).storeEdge k t0 b).cap k
        = { (c.cap k).stored (capStamp k t0, b) with hold := none } := by
      rw [Core.storeEdge_cap, Core.cap_setCap]
      unfold Capture.stored
      dsimp only
      split <;> rfl
    have hcfg : ((c.setCap k { c.cap k with hold := none }).storeEdge k t0 b).capCfg k = c.capCfg k := by
      simp only [Core.capCfg, Core.timeReg, Core.storeEdge_cfg, Core.setCap_rest]
    simp only [if_true, hcap, Core.cap_setCap, hcfg]
    rfl

end

/-- What neither channels nor sources touch stands. -/
theorem Core.capture_keeps {β : Type} (P : Core → β) (hcap : ∀ (c : Core) k x, P (c.setCap k x) = P c)
    (hsrc : ∀ (c : Core) src a b t, P (c.source src a b t) = P c) (c : Core) (k : BitVec 9) (t : DWord) (pol : Bool) :
    P (c.capture k t pol) = P c := by
  have hstore (c : Core) (t : DWord) (b : Bool) : P (c.storeEdge k t b) = P c := by
    unfold Core.storeEdge
    exact keeps_ite P (hcap ..) ((hsrc ..).trans (hcap ..))
  have hsettle : P (c.settleCap k t) = P c := by
    unfold Core.settleCap
    split
    · rfl
    · exact keeps_ite P rfl (keeps_ite P ((hstore ..).trans (hcap ..)) (hcap ..))
  unfold Core.capture
  dsimp only
  split <;> exact (hcap ..).trans hsettle

section
variable {s : State} {k : BitVec 9} {t : DWord} {pol : Bool}

theorem exec_captureEdge (hk : k.toNat < 288) : exec (.captureEdge k t pol) s = .next (s.on
    (let c := s.core.pinEdge k.toNat pol t; if c.captures k then c.capture k t pol else c)) :=
  if_pos (decide_eq_true hk)

/-- A channel that sees edges takes this one, on a core that is as before but for its pins. -/
theorem exec_captureEdge_sees (hk : k.toNat < 288) (hs : s.core.captures k = true) : ∃ c : Core,
    exec (.captureEdge k t pol) s = .next (s.on (c.capture k t pol)) ∧ c.cap k = s.core.cap k ∧ c.fabric = s.core.fabric
      ∧ c.heldEdge k t pol = s.core.heldEdge k t pol := by
  obtain ⟨hcaps, hfab, hcfg, -⟩ := s.core.pinEdge_rest k.toNat pol t
  refine ⟨s.core.pinEdge k.toNat pol t, ?_, ?_, hfab, ?_⟩
  · rw [exec_captureEdge hk]
    exact congrArg (fun c => Host.Outcome.next (s.on c)) (if_pos ((Core.pinEdge_captures ..).trans hs))
  · simp only [Core.cap, hcaps]
  · simp only [Core.heldEdge, Core.capCfg, Core.timeReg, hcfg]

/-- An edge at a pin without FILT. -/
theorem exec_captureEdge_level (hk : k.toNat < 256) (hf : filtTicks (s.core.pcfg (k.setWidth 8)) = 0) :
    Runs (exec (.captureEdge k t pol) s) fun u => u.core.pinIn k.toNat = pol ∧ u.core.mem = s.core.mem := by
  have hpcfg : BitVec.ofNat 8 k.toNat = k.setWidth 8 := by simp
  have hedge : s.core.pinEdge k.toNat pol t = s.core.pinLevel k.toNat pol := if_pos (.inr (by rw [hpcfg]; exact hf))
  refine runs_of_eq (exec_captureEdge (by omega)) ?_
  dsimp only [State.on_core]
  rw [hedge]
  have hmem : (s.core.pinLevel k.toNat pol).mem = s.core.mem := congrArg (·.mem) (Core.pinLevel_offLevels ..)
  split
  · constructor
    · refine (Core.pinIn_congr ?_ ?_ ?_ _).trans (s.core.pinIn_pinLevel hk pol)
      · exact Core.capture_keeps Core.fioBanks (fun _ _ _ => rfl) (by simp) ..
      · exact Core.capture_keeps Core.cfg (fun _ _ _ => rfl) (by simp) ..
      · exact Core.capture_keeps Core.time (fun _ _ _ => rfl) (by simp) ..
    · exact (Core.capture_keeps Core.mem (fun _ _ _ => rfl) (by simp) ..).trans hmem
  · exact ⟨s.core.pinIn_pinLevel hk pol, hmem⟩

theorem exec_timeCapPop {m : Master} (hk : k.toNat < 288) (hf : s.core.frozenMaster m = false) (hs : s.core.seesAll m = true) :
    exec (.timeCapPop m k) s = .next (s.on ((s.core.popCapture m k).2.answer m (s.core.popCapture m k).1 false false)) :=
  (if_pos (decide_eq_true hk)).trans
    (congrArg (fun c => Host.Outcome.next (s.on c)) (Core.readBy_seen _ hf (by rw [hs, Bool.true_or])))

end

theorem Core.popBuf_setPopBuf (c : Core) (m : Master) (k : BitVec 9) (x : PopBuf) : (c.setPopBuf m k x).popBuf m k = x :=
  Tbl.get_set_self ..

/-! ### Trigger lines -/

/-- A decoder that samples on a line holds its count at the line's edge (R259). -/
def Core.snapped (c : Core) (k : Sink) : Core :=
  match k with
  | .sample j => c.setQd j { c.qd j with snaps := (c.qd j).snaps ++ [(c.qd j).count] }
  | _ => c

theorem Core.snapped_fabric (c : Core) (k : Sink) : (c.snapped k).fabric = c.fabric := by cases k <;> rfl

theorem Core.riseLine_fabric (c : Core) (l : BitVec 12) (t : DWord) : (c.riseLine l t).fabric =
    { c.fabric with stamp := Tbl.set c.fabric.stamp l.toNat t 0, edges := c.fabric.edges ++ (c.sinksOf l).map fun k => (k, t) } := by
  have hfold : ((c.sinksOf l).foldl Core.snapped c).fabric = c.fabric := foldl_keeps Core.fabric _ Core.snapped_fabric _ _
  have hrise : (c.riseLine l t).fabric = (let d := (c.sinksOf l).foldl Core.snapped c
      { d.fabric with stamp := Tbl.set d.fabric.stamp l.toNat t 0, edges := d.fabric.edges ++ (c.sinksOf l).map fun k => (k, t) }) := rfl
  rw [hrise]
  dsimp only
  rw [hfold]

theorem Core.sinksOf_congr {c d : Core} (hc : d.cfg = c.cfg) (hl : d.handLines = c.handLines) (l : BitVec 12) : d.sinksOf l = c.sinksOf l := by
  simp only [Core.sinksOf, Core.watchers, hc, hl]

section
variable {c : Core} {src : BitVec 16} {l : BitVec 12}

/-- A source that one line follows drives that line. -/
theorem Core.source_one (h : c.linesOf src = [l]) (level event : Bool) (t : DWord) : c.source src level event t = c.driveLine l level event t := by
  rw [Core.source, h]
  rfl

theorem Core.driveLine_pulse (h : (c.lineCfg l).getLsbD 30 = true) (level : Bool) (t : DWord) : c.driveLine l level true t = c.riseLine l t :=
  if_pos h

/-- Line l at a level. -/
def Core.withLevel (c : Core) (l : BitVec 12) (b : Bool) : Core :=
  { c with fabric := { c.fabric with level := Tbl.set c.fabric.level l.toNat b false } }

theorem Core.driveLine_level (h : (c.lineCfg l).getLsbD 30 = false) (level event : Bool) (t : DWord) : c.driveLine l level event t =
    if (level != (c.lineCfg l).getLsbD 29) && !Tbl.get c.fabric.level l.toNat false
    then (c.withLevel l (level != (c.lineCfg l).getLsbD 29)).riseLine l t else c.withLevel l (level != (c.lineCfg l).getLsbD 29) :=
  if_neg (Bool.eq_false_iff.mp h)

end

theorem exec_triggerSourceEvent {s : State} {src : BitVec 16} (h : src ≠ 0xFFFF) (level : Bool) (t : DWord) :
    exec (.triggerSourceEvent src level t) s = .next (s.on (s.core.source src level true t)) :=
  congrArg (fun c => Host.Outcome.next (s.on c)) (if_neg h)

/-! ### Edges on their way to sinks -/

theorem takeEdge_first {sink : Sink} {t : DWord} {before after : List (Sink × DWord)} (h : ∀ z, z ∈ before → z.1 ≠ sink) :
    takeEdge sink (before ++ (sink, t) :: after) = some (t, before ++ after) := by
  induction before with
  | nil => exact if_pos rfl
  | cons e l ih =>
    rw [List.cons_append, takeEdge, if_neg (h e (List.mem_cons_self ..)), ih fun z hz => h z (List.mem_cons_of_mem _ hz)]
    rfl

/-- The core without the edge that a sink takes: those before and after it stand. -/
def Core.withEdges (c : Core) (l : List (Sink × DWord)) : Core := { c with fabric := { c.fabric with edges := l } }

theorem Core.popEdge_first {c : Core} {sink : Sink} {t : DWord} {before after : List (Sink × DWord)}
    (he : c.fabric.edges = before ++ (sink, t) :: after) (h : ∀ z, z ∈ before → z.1 ≠ sink) :
    c.popEdge sink = some (t, c.withEdges (before ++ after)) := by
  rw [Core.popEdge, he, takeEdge_first h]
  rfl

/-! ### Event latches -/

section
variable {c : Core} {g : SprigId} {e : BitVec 3}

theorem Core.crossing_setCrossing (c : Core) (g : SprigId) (e : BitVec 3) (x : LatchX) : (c.setCrossing g e x).crossing g e = x := Tbl.get_set_self ..

/-- From c to d an edge has come to latch e of sprig g: its crossing is x, the sprig's page f of what it was; no other sprig has changed. -/
structure Core.Latches (g : SprigId) (e : BitVec 3) (x : LatchX) (f : Page → Page) (c d : Core) : Prop where
  edges : d.fabric.edges = c.fabric.edges
  others : ∀ h, h ≠ g → d.sprig h = c.sprig h
  crossing : d.crossing g e = x
  sprig : d.sprig g = { c.sprig g with page := f (c.sprig g).page }

theorem Core.latches_modPage (c : Core) (g : SprigId) (e : BitVec 3) (f : Page → Page) : Core.Latches g e (c.crossing g e) f c (c.modPage g f) :=
  ⟨rfl, fun _ h => Core.sprig_setSprig_ne c _ h, rfl, Core.sprig_setSprig ..⟩

theorem Core.latches_setCrossing (c : Core) (g : SprigId) (e : BitVec 3) (x : LatchX) (f : Page → Page) :
    Core.Latches g e x f c ((c.setCrossing g e x).modPage g f) :=
  ⟨rfl, fun _ h => Core.sprig_setSprig_ne c _ h, Core.crossing_setCrossing .., Core.sprig_setSprig ..⟩

variable (hr : (c.crossing g e).resync = false)

include hr in
theorem Core.latchEdge_sets (hb : (c.crossing g e).busy = false) (hl : (c.sprig g).page.latch.getLsbD e.toNat = false) :
    Core.Latches g e { c.crossing g e with busy := true, again := false } (·.setLatch e) c (c.latchEdge g e) := by
  have h : c.latchEdge g e = (c.setCrossing g e { c.crossing g e with busy := true, again := false }).modPage g (·.setLatch e) := by
    simp [Core.latchEdge, hr, hb, hl]
  rw [h]
  exact c.latches_setCrossing ..

include hr in
theorem Core.latchEdge_busy (hb : (c.crossing g e).busy = true) :
    Core.Latches g e { c.crossing g e with again := true } (·.setMerged e) c (c.latchEdge g e) := by
  have h : c.latchEdge g e = (c.setCrossing g e { c.crossing g e with again := true }).modPage g (·.setMerged e) := by
    simp [Core.latchEdge, hr, hb]
  rw [h]
  exact c.latches_setCrossing ..

theorem Core.latchEdge_merges (h : (c.crossing g e).resync = true ∨ ((c.crossing g e).busy = false ∧ (c.sprig g).page.latch.getLsbD e.toNat = true)) :
    Core.Latches g e (c.crossing g e) (·.setMerged e) c (c.latchEdge g e) := by
  have hm : c.latchEdge g e = c.modPage g (·.setMerged e) := by
    rcases h with h | ⟨hb, hl⟩
    · exact if_pos h
    · by_cases hr : (c.crossing g e).resync = true
      · exact if_pos hr
      · simp [Core.latchEdge, hr, hb, hl]
  rw [hm]
  exact c.latches_modPage ..

end

section
variable {s : State} {g : SprigId} {e : BitVec 3} {t : DWord} {before after : List (Sink × DWord)}

/-- The next edge for a latch of a bunch that is awake leaves the fabric for the crossing. -/
theorem exec_eventLatchSet (he : s.core.fabric.edges = before ++ (.latch g e, t) :: after) (h : ∀ z, z ∈ before → z.1 ≠ .latch g e)
    (ha : s.core.asleep (bunchOf g) = false) : exec (.eventLatchSet g e) s
      = .next (s.on (((s.core.touch (bunchOf g)).withEdges (before ++ after)).latchEdge g e)) := by
  refine congrArg (fun c => Host.Outcome.next (s.on c)) ?_
  beta_reduce
  rw [Core.popEdge_first he h]
  exact Core.reach_touch _ ha

/-- What the edge makes of the latch, on a core that is as before but for the edge and the wake of the bunch. -/
theorem exec_eventLatchSet_latches {x : LatchX} {f : Page → Page} (he : s.core.fabric.edges = before ++ (.latch g e, t) :: after)
    (h : ∀ z, z ∈ before → z.1 ≠ .latch g e) (ha : s.core.asleep (bunchOf g) = false)
    (hl : ∀ d : Core, d.crossing g e = s.core.crossing g e → d.sprig g = s.core.sprig g → Core.Latches g e x f d (d.latchEdge g e)) :
    Runs (exec (.eventLatchSet g e) s) fun u =>
      (u.core.fabric.edges = before ++ after ∧ ∀ h, h ≠ g → u.core.sprig h = s.core.sprig h) ∧ u.core.crossing g e = x
      ∧ u.core.sprig g = { s.core.sprig g with page := f (s.core.sprig g).page } := by
  obtain ⟨d, hd, hx, hsprig, hedges⟩ : ∃ d : Core, exec (.eventLatchSet g e) s = .next (s.on (d.latchEdge g e))
      ∧ d.crossing g e = s.core.crossing g e ∧ (∀ h, d.sprig h = s.core.sprig h) ∧ d.fabric.edges = before ++ after :=
    ⟨_, exec_eventLatchSet he h ha, rfl, fun _ => rfl, rfl⟩
  obtain ⟨hedges', hothers, hx', hg⟩ := hl d hx (hsprig g)
  exact ⟨_, hd, ⟨hedges'.trans hedges, fun h hne => (hothers h hne).trans (hsprig h)⟩, hx', by rw [State.on_core, hg, hsprig]⟩

theorem exec_latchHandshakeEnd (hb : (s.core.crossing g e).busy = true) : exec (.latchHandshakeEnd g e) s = .next (s.on
    (let c := s.core.setCrossing g e { s.core.crossing g e with busy := false, again := false }
      if (s.core.crossing g e).again then c.modPage g (·.setLatch e) else c)) :=
  congrArg (fun c => Host.Outcome.next (s.on c)) (if_neg (by simp [hb]))

end

/-! ### Software sources -/

theorem Core.driveLine_sw (c : Core) (l : BitVec 12) (level event : Bool) (t : DWord) : (c.driveLine l level event t).fabric.sw = c.fabric.sw := by
  have hrise (c : Core) : (c.riseLine l t).fabric.sw = c.fabric.sw := by rw [Core.riseLine_fabric]
  unfold Core.driveLine
  dsimp only
  split
  · exact keeps_ite (fun c => c.fabric.sw) (hrise _) rfl
  · exact keeps_ite (fun c => c.fabric.sw) (hrise _) rfl

theorem Core.source_sw (c : Core) (src : BitVec 16) (level event : Bool) (t : DWord) : (c.source src level event t).fabric.sw = c.fabric.sw :=
  foldl_keeps (fun c => c.fabric.sw) _ (fun _ _ => Core.driveLine_sw ..) _ _

/-- The bits change as written; the sources that follow them touch the fabric's lines alone. -/
theorem Core.writeSw_rest (c : Core) (w : BitVec 3) (v : Word) : let d := c.writeSw w v
    d.fabric.sw = swPut c.fabric.sw w v ∧ d.mem = c.mem ∧ d.sprigs = c.sprigs := by
  have hkeep {β : Type} (P : Core → β) (hP : ∀ (c : Core) src a b t, P (c.source src a b t) = P c) :
      P (c.writeSw w v) = P { c with fabric := { c.fabric with sw := swPut c.fabric.sw w v } } :=
    foldl_keeps P _ (fun _ _ => keeps_ite P rfl (hP ..)) _ _
  exact ⟨hkeep (fun c => c.fabric.sw) Core.source_sw, hkeep Core.mem (by simp), hkeep Core.sprigs (by simp)⟩

end Sys2Proof.Machine

open Sys2Proof Sys2Proof.Machine

/-- Settles O29: channels by what they hold when an edge comes, lines by their mode, latches by their crossing. -/
theorem captureAndTriggers : Obligations.CaptureAndTriggers := by
  intro s k t pol m src g e w v before after c x gap stamp held sees pops latched y p awake left
  refine ⟨?first, ?glitch, ?stored, ?lost, ?unselected, ?level, ?pop, ?popEmpty, ?pulse, ?follows, ?constant, ?sets, ?busy, ?merges, ?ends,
    ?ended, ?swset, ?swclr⟩
  case first =>
    rintro ⟨hk, hs⟩ hn
    obtain ⟨d, hd, hcap, hfab, hheld⟩ := exec_captureEdge_sees (t := t) (pol := pol) hk hs
    rw [← hfab]
    refine runs_of_eq hd ?_
    rw [State.on_core, Core.capture_first (by rw [hcap]; exact hn), Core.cap_setCap, hcap, hheld]
    exact ⟨rfl, rfl⟩
  case glitch =>
    rintro t0 b sel ⟨hk, hs⟩ hh ht
    obtain ⟨d, hd, hcap, hfab, -⟩ := exec_captureEdge_sees (t := t) (pol := pol) hk hs
    rw [← hfab]
    refine runs_of_eq hd ?_
    rw [State.on_core, Core.capture_glitch (by rw [hcap]; exact hh) ht, Core.cap_setCap, hcap]
    exact ⟨rfl, rfl⟩
  case stored =>
    rintro t0 b ⟨hk, hs⟩ hh ht hl
    obtain ⟨d, hd, hcap, -, hheld⟩ := exec_captureEdge_sees (t := t) (pol := pol) hk hs
    refine runs_of_eq hd ?_
    rw [State.on_core, Core.capture_spaced (by rw [hcap]; exact hh) ht, if_pos rfl, hcap, hheld, Capture.stored, if_neg (Nat.not_le.mpr hl)]
    rfl
  case lost =>
    rintro t0 b ⟨hk, hs⟩ hh ht hl
    obtain ⟨d, hd, hcap, -, hheld⟩ := exec_captureEdge_sees (t := t) (pol := pol) hk hs
    refine runs_of_eq hd ?_
    rw [State.on_core, Core.capture_spaced (by rw [hcap]; exact hh) ht, if_pos rfl, hcap, hheld, Capture.stored, if_pos hl]
    rfl
  case unselected =>
    rintro t0 b ⟨hk, hs⟩ hh ht
    obtain ⟨d, hd, hcap, -, hheld⟩ := exec_captureEdge_sees (t := t) (pol := pol) hk hs
    refine runs_of_eq hd ?_
    rw [State.on_core, Core.capture_spaced (by rw [hcap]; exact hh) ht, if_neg Bool.false_ne_true, hcap, hheld]
    rfl
  case level =>
    intro hk hf
    refine exec_captureEdge_level hk ?_
    rw [filtTicks, hf]
    rfl
  case pop =>
    rintro rest ⟨hk, hf, hs⟩ hfifo
    refine runs_of_eq (exec_timeCapPop hk hf hs) ?_
    have hpop : c.popCapture m k = (t.setWidth 32, ((c.setCap k { c.cap k with fifo := rest }).setPopBuf m k
        { valid := true, stamp := t, pol := pol }).source (k.setWidth 16) (!rest.isEmpty) false c.time.dtime) := by
      rw [Core.popCapture, hfifo]
    rw [State.on_core, hpop, Core.answer_rdata]
    exact ⟨(Core.source_cap ..).trans (c.cap_setCap k _), (Core.source_popBuf ..).trans (Core.popBuf_setPopBuf ..), rfl⟩
  case popEmpty =>
    rintro ⟨hk, hf, hs⟩ hfifo
    refine runs_of_eq (exec_timeCapPop hk hf hs) ?_
    have hpop : c.popCapture m k = (0, c.setPopBuf m k { c.popBuf m k with valid := false }) := by rw [Core.popCapture, hfifo]
    rw [State.on_core, hpop, Core.answer_rdata]
    exact ⟨c.popBuf_setPopBuf m k _, rfl, rfl⟩
  case pulse =>
    intro l hs hl hb
    refine runs_of_eq (exec_triggerSourceEvent hs true t) ?_
    rw [State.on_core, Core.source_one hl, Core.driveLine_pulse hb, Core.riseLine_fabric]
    exact ⟨Tbl.get_set_self .., rfl⟩
  case follows =>
    intro l b hs hl hb
    dsimp only
    refine runs_of_eq (exec_triggerSourceEvent hs b t) ?_
    rw [State.on_core, Core.source_one hl, Core.driveLine_level hb]
    by_cases hn : ((b != (c.lineCfg l).getLsbD 29) && !Tbl.get c.fabric.level l.toNat false) = true
    · rw [if_pos hn, if_pos hn, Core.riseLine_fabric, Core.sinksOf_congr (c := c) rfl rfl]
      exact ⟨Tbl.get_set_self .., rfl⟩
    · rw [if_neg hn, if_neg hn]
      exact ⟨Tbl.get_set_self .., (List.append_nil _).symm⟩
  case constant => exact fun h => congrArg (fun c => Host.Outcome.next (s.on c)) (if_pos h)
  case sets =>
    rintro ⟨he, hz⟩ ha hr hb hl
    refine exec_eventLatchSet_latches (x := { y with busy := true, again := false }) (f := (·.setLatch e)) he hz ha fun d hx hg => ?_
    have h := Core.latchEdge_sets (c := d) (g := g) (e := e) (by rw [hx]; exact hr) (by rw [hx]; exact hb) (by rw [hg]; exact hl)
    rwa [hx] at h
  case busy =>
    rintro ⟨he, hz⟩ ha hr hb
    refine exec_eventLatchSet_latches (x := { y with again := true }) (f := (·.setMerged e)) he hz ha fun d hx hg => ?_
    have h := Core.latchEdge_busy (c := d) (g := g) (e := e) (by rw [hx]; exact hr) (by rw [hx]; exact hb)
    rwa [hx] at h
  case merges =>
    rintro ⟨he, hz⟩ ha hm
    refine exec_eventLatchSet_latches (x := y) (f := (·.setMerged e)) he hz ha fun d hx hg => ?_
    have h := Core.latchEdge_merges (c := d) (g := g) (e := e) (by rw [hx, hg]; exact hm)
    rwa [hx] at h
  case ends =>
    intro hb
    refine runs_of_eq (exec_latchHandshakeEnd hb) ?_
    dsimp only [State.on_core]
    split
    · exact ⟨Core.crossing_setCrossing .., Core.sprig_setSprig ..⟩
    · exact ⟨Core.crossing_setCrossing .., rfl⟩
  case ended => exact fun hb => congrArg (fun c => Host.Outcome.next (s.on c)) (if_pos (by rw [hb]; rfl))
  case swset =>
    intro ht
    exact ⟨_, congrArg (fun c => Host.Outcome.next (s.on c)) (Core.writeBy_takes _ ht), Core.writeSw_rest ..⟩
  case swclr =>
    intro ht
    exact ⟨_, congrArg (fun c => Host.Outcome.next (s.on c)) (Core.writeBy_takes _ ht), Core.writeSw_rest ..⟩
end

section
/-!
PROOFS. Comparators (R233, R234) and deadline monitors (R235 to R237).
-/
namespace Sys2Proof.Machine

/-! ### Comparators -/

section
variable {s : State} {c : Core} {k : BitVec 12} {m : Master} {v : Word}

/-- The comparator is armed for an instant that DTIME has reached. -/
def Core.cmpDue (c : Core) (k : BitVec 12) : Prop :=
  (c.cmp k).armed = true ∧ c.time.running = true ∧ (c.cmp k).cmp.toNat ≤ c.time.dtime.toNat

theorem Core.fireDue_due (h : c.cmpDue k) : c.fireDue k =
    (c.setCmp k ((c.cmp k).fire c.time.dtime (c.time.skipped (c.cmp k).cmp (c.cmp k).since))).source (0x1000#16 + k.setWidth 16) true true
      (c.cmp k).cmp := by
  obtain ⟨ha, hr, hle⟩ := h
  exact if_pos (by simp [ha, hr, BitVec.le_def, hle])

theorem Core.fireDue_not (h : ¬c.cmpDue k) : c.fireDue k = c := by
  refine if_neg fun hd => h ?_
  simpa [Core.cmpDue, BitVec.le_def, and_assoc] using hd

/-- A firing changes its comparator and what its source drives. -/
theorem Core.fireDue_rest (h : c.cmpDue k) : let d := c.fireDue k
    d.cmp k = (c.cmp k).fire c.time.dtime (c.time.skipped (c.cmp k).cmp (c.cmp k).since)
    ∧ d.mem = c.mem ∧ d.sprigs = c.sprigs ∧ d.time = c.time ∧ d.staged = c.staged := by
  rw [Core.fireDue_due h]
  dsimp only
  refine ⟨Eq.trans ?_ (c.cmp_setCmp k _), ?_⟩
  · simp only [Core.cmp, Core.source_rest]
  · simp only [Core.source_rest, Core.setCmp_rest, and_self]

theorem exec_timeCmpHiWrite (h : s.core.takes m true = true) : exec (.timeCmpHiWrite m k v) s = .next (s.on
    (let c := s.core.fireDue k; (c.setCmp k ((c.cmp k).write (v ++ c.stagedLow m (cmpAddr k)) c.time.dtime)).stage m (cmpAddr k) 0)) :=
  congrArg (fun c => Host.Outcome.next (s.on c)) (Core.writeBy_takes _ h)

theorem exec_timeCmpPerWrite (h : s.core.takes m true = true) : exec (.timeCmpPerWrite m k v) s = .next (s.on
    (if 1 ≤ v.toNat ∧ v.toNat ≤ 799 then s.core.ignored m 234 (cmpAddr k + 8) else s.core.setCmp k { s.core.cmp k with per := v })) :=
  congrArg (fun c => Host.Outcome.next (s.on c)) (Core.writeBy_takes _ h)

end

/-- A comparator with a period stays armed. -/
theorem Cmp.fire_again {x : Cmp} (now : DWord) (late : Bool) (hper : x.per ≠ 0) (ha : x.armed = true) : let y := x.fire now late
    y = { x with pend := true, ovr := x.ovr || x.pend, stepped := x.stepped || late, since := now, cmp := y.cmp, skip := y.skip } := by
  have hd : decide (x.per ≠ 0) = x.armed := (decide_eq_true hper).trans ha.symm
  unfold Cmp.fire
  dsimp only
  rw [hd]

theorem Cmp.fire_once {x : Cmp} (now : DWord) (late : Bool) (hper : x.per = 0) : x.fire now late
    = { x with pend := true, ovr := x.ovr || x.pend, stepped := x.stepped || late, since := now, armed := false } := by
  have hd : decide (x.per ≠ 0) = false := decide_eq_false (not_not.mpr hper)
  unfold Cmp.fire
  dsimp only
  rw [hd, if_pos hper, if_pos hper]

/-- The next instant of a periodic comparator: the first of its grid beyond DTIME (R233). -/
theorem Cmp.fire_next {x : Cmp} {now : DWord} (late : Bool) (hper : x.per ≠ 0) (hle : x.cmp.toNat ≤ now.toNat)
    (hfit : now.toNat + x.per.toNat < 2 ^ 64) :
    let n := (now.toNat - x.cmp.toNat) / x.per.toNat + 1
    (x.fire now late).cmp.toNat = x.cmp.toNat + n * x.per.toNat ∧ now.toNat < x.cmp.toNat + n * x.per.toNat
    ∧ x.cmp.toNat + n * x.per.toNat ≤ now.toNat + x.per.toNat := by
  intro n
  have hpos : 0 < x.per.toNat := Nat.pos_of_ne_zero fun h => hper (BitVec.eq_of_toNat_eq h)
  have hmul : n * x.per.toNat = (now.toNat - x.cmp.toNat) / x.per.toNat * x.per.toNat + x.per.toNat := Nat.succ_mul ..
  have hlow : (now.toNat - x.cmp.toNat) / x.per.toNat * x.per.toNat ≤ now.toNat - x.cmp.toNat := Nat.div_mul_le_self ..
  have hhigh : now.toNat - x.cmp.toNat < (now.toNat - x.cmp.toNat) / x.per.toNat * x.per.toNat + x.per.toNat := Nat.lt_div_mul_add hpos
  have hcmp : (x.fire now late).cmp = x.cmp + BitVec.ofNat 64 (n * x.per.toNat) := if_neg hper
  refine ⟨?_, by omega, by omega⟩
  rw [hcmp, BitVec.toNat_add, BitVec.toNat_ofNat]
  omega

/-! ### Deadline monitors -/

section
variable {c : Core} {k : BitVec 12} {t : DWord}

/-- A monitor that no edge in the fabric watches, and that is not overdue at t, stays as it is. -/
theorem Core.settleDm_still (hedge : ∀ e, e ∈ c.fabric.edges → e.1 ≠ Sink.watch k)
    (hdue : ¬((c.dm k).armed = true ∧ c.time.running = true ∧ (c.dm k).dl.toNat + 8 ≤ t.toNat)) : c.settleDm k t = c := by
  rw [Core.settleDm_unwatched hedge]
  refine if_neg fun h => hdue ?_
  simpa [inTime, and_assoc] using h

theorem Core.armDm_still (hen : (c.dmCtl k).getLsbD 31 = true) (hs : c.settleDm k t = c) (d : DWord) :
    c.armDm k d t = c.setDm k ((c.dm k).arm d c.time.dtime) := by
  rw [Core.armDm, if_pos hen, hs]

theorem Core.armDm_disabled (hen : (c.dmCtl k).getLsbD 31 = false) (d : DWord) : c.armDm k d t = c :=
  if_neg (Bool.eq_false_iff.mp hen)

/-- The monitor as an occurrence at t that satisfies it leaves it (R235). -/
def Dm.satisfied (x : Dm) (t : DWord) : Dm :=
  { x with armed := false, dl := never, slack := BitVec.ofInt 32 (clampInt (nsBetween x.dl t) (-2147483648) 2147483647) }

theorem Core.satisfy_armed_rest (h : (c.dm k).armed = true) : let d := c.satisfy k t
    d.dm k = (c.dm k).satisfied t ∧ d.fabric = c.fabric ∧ d.mem = c.mem ∧ d.sprigs = c.sprigs ∧ d.time = c.time := by
  dsimp only
  unfold Core.satisfy
  dsimp only
  rw [if_pos h]
  split <;> exact ⟨c.dm_setDm k _, rfl, rfl, rfl, rfl⟩

theorem Core.satisfy_disarmed (h : (c.dm k).armed = false) : c.satisfy k t = c := if_neg (Bool.eq_false_iff.mp h)

/-- The monitor as its expiry leaves it (R235). -/
def Dm.expired (x : Dm) (late : Bool) : Dm :=
  { x with armed := false, dl := never, miss := true, stepped := x.stepped || late, missCnt := x.missCnt + 1 }

/-- Beside the monitor, an expiry touches what its source drives, the error log and the slack controller. -/
theorem Core.expire_keeps {β : Type} (P : Core → β) (hsrc : ∀ (c : Core) src a b t, P (c.source src a b t) = P c)
    (hlog : ∀ (c : Core) e, P (c.log e) = P c) (hslack : ∀ (c : Core) x, P { c with slack := x } = P c) (c : Core) (k : BitVec 12) :
    P (c.expire k) = P (c.setDm k ((c.dm k).expired (c.time.skipped (c.dm k).dl (c.dm k).since))) := by
  unfold Core.expire
  dsimp only
  refine keeps_ite P ((hslack ..).trans ((hslack ..).trans ?_)) ?_
  all_goals exact keeps_ite P ((hlog ..).trans (hsrc ..)) (hsrc ..)

theorem Core.expire_rest (c : Core) (k : BitVec 12) : let d := c.expire k
    d.dm k = (c.dm k).expired (c.time.skipped (c.dm k).dl (c.dm k).since) ∧ d.mem = c.mem ∧ d.sprigs = c.sprigs ∧ d.time = c.time := by
  refine ⟨?_, ?_, ?_, ?_⟩
  · refine (Core.expire_keeps (fun d => d.dm k) (fun _ _ _ _ _ => ?_) (fun _ _ => ?_) (fun _ _ => rfl) c k).trans (c.dm_setDm k _)
    · simp only [Core.dm, Core.source_rest]
    · simp only [Core.dm, Core.log_rest]
  · exact Core.expire_keeps Core.mem (by simp) (by simp) (fun _ _ => rfl) c k
  · exact Core.expire_keeps Core.sprigs (by simp) (by simp) (fun _ _ => rfl) c k
  · exact Core.expire_keeps Core.time (by simp) (by simp) (fun _ _ => rfl) c k

theorem Core.savedInTime_false (h : ∀ e, e ∈ c.fabric.edges → e.1 = Sink.watch k → (c.dm k).dl.toNat + 8 ≤ e.2.toNat) :
    c.savedInTime k = false := by
  refine List.any_eq_false.mpr fun e he => ?_
  by_cases hk : e.1 = Sink.watch k
  · simp [hk, inTime, h e he hk]
  · simp [hk]

end

section
variable {s : State} {k : BitVec 12} {m : Master} {v : Word}

theorem exec_timeDmDlWrite (h : s.core.frozenMaster m = false) : exec (.timeDmDlWrite m k v) s = .next (s.on
    (if s.core.privileged m then (s.core.stage m (dmAddr k) 0).armDm k (v ++ s.core.stagedLow m (dmAddr k)) s.core.time.dtime
      else s.core.stage m (dmAddr k) 0)) :=
  congrArg (fun c => Host.Outcome.next (s.on c)) (if_neg (Bool.eq_false_iff.mp h))

variable {t : DWord} {before after : List (Sink × DWord)}

theorem exec_deadlineAutoArm (he : s.core.fabric.edges = before ++ (.arm k, t) :: after) (hz : ∀ z, z ∈ before → z.1 ≠ .arm k) :
    exec (.deadlineAutoArm k) s = .next (s.on
      ((s.core.withEdges (before ++ after)).armDm k (t + 8#64 * ((s.core.dmAuto k).setWidth 19 : BitVec 19).setWidth 64) t)) := by
  refine congrArg (fun c => Host.Outcome.next (s.on c)) ?_
  beta_reduce
  rw [Core.popEdge_first he hz]
  rfl

theorem exec_deadlineSatisfy (he : s.core.fabric.edges = before ++ (.watch k, t) :: after) (hz : ∀ z, z ∈ before → z.1 ≠ .watch k) :
    exec (.deadlineSatisfy k) s = .next (s.on
      (let c := s.core.withEdges (before ++ after); if inTime t (s.core.dm k).dl then c.satisfy k t else c)) := by
  refine congrArg (fun c => Host.Outcome.next (s.on c)) ?_
  beta_reduce
  rw [Core.popEdge_first he hz]
  rfl

theorem exec_deadlineMiss (ha : (s.core.dm k).armed = true) (hr : s.core.time.running = true)
    (hl : (s.core.dm k).dl.toNat < s.core.time.dtime.toNat) (hs : s.core.savedInTime k = false) :
    exec (.deadlineMiss k) s = .next (s.on (s.core.expire k)) :=
  congrArg (fun c => Host.Outcome.next (s.on c)) (if_pos (by simp [ha, hr, hs, BitVec.lt_def, hl]))

theorem exec_deadlineMiss_disarmed (ha : (s.core.dm k).armed = false) : exec (.deadlineMiss k) s = .next s :=
  congrArg (fun c => Host.Outcome.next (s.on c)) (if_neg (by simp [ha]))

end

theorem not_watched_of_append {before after : List (Sink × DWord)} {e : Sink × DWord} {k : BitVec 12} {l : List (Sink × DWord)}
    (h : ∀ z, z ∈ l → z.1 ≠ Sink.watch k) (hl : l = before ++ e :: after) : ∀ z, z ∈ before ++ after → z.1 ≠ Sink.watch k := by
  subst hl
  intro z hz
  refine h z ?_
  simp only [List.mem_append, List.mem_cons] at hz ⊢
  exact hz.imp_right .inr

end Sys2Proof.Machine

open Sys2Proof Sys2Proof.Machine

/-- Settles O30: `fireDue_rest` for comparators; a monitor is armed, satisfied or expired by one operation each. -/
theorem comparatorsAndDeadlines : Obligations.ComparatorsAndDeadlines := by
  intro s k m v u before after c x y now given due given1 given2 late written fired armed calm beyond next en still
  refine ⟨?armed, ?late, ?period, ?short, ?fires, ?again, ?early, ?deadline, ?unarmed, ?autoArm, ?satisfied, ?unsatisfied, ?missed, ?disarmed⟩
  case armed =>
    intro ht hd
    refine runs_of_eq (exec_timeCmpHiWrite ht) ?_
    rw [Core.fireDue_not hd]
    exact ⟨c.cmp_setCmp k _, rfl, rfl, rfl⟩
  case late =>
    intro ht hd
    refine runs_of_eq (exec_timeCmpHiWrite ht) ?_
    obtain ⟨hcmp, hmem, hsprigs, htime, hstaged⟩ := Core.fireDue_rest hd
    refine ⟨((c.fireDue k).cmp_setCmp k _).trans ?_, hmem, hsprigs, htime⟩
    rw [hcmp, htime, Core.stagedLow, hstaged]
    rfl
  case period =>
    intro ht hv
    rw [exec_timeCmpPerWrite ht, if_neg (by omega)]
  case short =>
    intro ht h1 h2
    refine runs_of_eq (exec_timeCmpPerWrite ht) ?_
    rw [if_pos ⟨h1, h2⟩]
    obtain ⟨hcmps, -, hmem, hsprigs, htime⟩ := c.ignored_rest m 234 (cmpAddr k + 8)
    exact ⟨hcmps, hmem, hsprigs, htime⟩
  case fires =>
    intro hd hper
    obtain ⟨hcmp, hmem, hsprigs, htime, -⟩ := Core.fireDue_rest hd
    exact ⟨s.on (c.fireDue k), rfl, hcmp.trans (Cmp.fire_once now late hper), hmem, hsprigs, htime⟩
  case again =>
    intro hd hper hfit
    obtain ⟨hcmp, hmem, hsprigs, htime, -⟩ := Core.fireDue_rest hd
    obtain ⟨hnext, hlow, hhigh⟩ := Cmp.fire_next late hper hd.2.2 hfit
    refine runs_of_eq (t := s.on (c.fireDue k)) rfl ?_
    intro z
    have hz : z = x.fire now late := hcmp
    have hpos : 0 < x.per.toNat := Nat.pos_of_ne_zero fun h => hper (BitVec.eq_of_toNat_eq h)
    have hskip : (x.fire now late).skip = BitVec.ofNat 16 (min (x.skip.toNat + ((now.toNat - x.cmp.toNat) / x.per.toNat + 1 - 1)) 0xFFFF) :=
      if_neg hper
    rw [hz]
    refine ⟨Cmp.fire_again now late hper hd.1, ?_, ?_, ?_, ?_, hmem, hsprigs, htime⟩
    · rw [hnext]
      exact hlow
    · rw [hnext]
      exact hhigh
    · rw [hnext, Nat.add_sub_cancel_left]
      exact Nat.dvd_mul_left ..
    · rw [hnext, Nat.add_sub_cancel_left, Nat.mul_div_cancel _ hpos, hskip, BitVec.toNat_ofNat]
      omega
  case early => exact fun hd => congrArg (fun c => Host.Outcome.next (s.on c)) (Core.fireDue_not hd)
  case deadline =>
    intro hf hp he hcalm hb
    refine runs_of_eq (exec_timeDmDlWrite hf) ?_
    rw [State.on_core, if_pos hp, Core.armDm_still (c := c.stage m (dmAddr k) 0) he (Core.settleDm_still hcalm hb)]
    exact ⟨Core.dm_setDm .., rfl, rfl, rfl⟩
  case unarmed =>
    intro hf hn
    refine runs_of_eq (exec_timeDmDlWrite hf) ?_
    rw [State.on_core]
    rcases hn with hp | he
    · rw [if_neg (Bool.eq_false_iff.mp hp)]
      exact ⟨rfl, rfl, rfl, rfl⟩
    · rw [Core.armDm_disabled (c := c.stage m (dmAddr k) 0) he, ite_self]
      exact ⟨rfl, rfl, rfl, rfl⟩
  case autoArm =>
    rintro ⟨hedge, hz⟩ he hcalm hb
    refine runs_of_eq (exec_deadlineAutoArm hedge hz) ?_
    rw [State.on_core, Core.armDm_still (c := c.withEdges (before ++ after)) he
      (Core.settleDm_still (not_watched_of_append hcalm hedge) hb)]
    exact ⟨Core.dm_setDm .., rfl, rfl, rfl, rfl⟩
  case satisfied =>
    rintro ⟨hedge, hz⟩ ha ht
    refine runs_of_eq (exec_deadlineSatisfy hedge hz) ?_
    rw [State.on_core]
    dsimp only
    rw [if_pos (show inTime u y.dl = true from decide_eq_true ht)]
    obtain ⟨hdm, hfab, hmem, hsprigs, htime⟩ := Core.satisfy_armed_rest (c := c.withEdges (before ++ after)) (t := u) ha
    refine ⟨hdm.trans ?_, by rw [hfab]; rfl, hmem, hsprigs, htime⟩
    rw [Dm.satisfied, clampInt_eq (by decide)]
    rfl
  case unsatisfied =>
    rintro ⟨hedge, hz⟩ hn
    refine runs_of_eq (exec_deadlineSatisfy hedge hz) ?_
    rw [State.on_core]
    dsimp only
    rcases hn with ha | ht
    · rw [Core.satisfy_disarmed (c := c.withEdges (before ++ after)) ha, ite_self]
      exact ⟨rfl, rfl, rfl, rfl, rfl⟩
    · rw [if_neg (by simpa [inTime] using ht)]
      exact ⟨rfl, rfl, rfl, rfl, rfl⟩
  case missed =>
    intro ha hr hl hsaved
    exact ⟨_, exec_deadlineMiss ha hr hl (Core.savedInTime_false hsaved), c.expire_rest k⟩
  case disarmed => exact exec_deadlineMiss_disarmed
end

section
/-!
PROOFS. Deal units (R238 to R246): acceptance, release, triggered mode, misses and the counts.
-/
namespace Sys2Proof.Machine

/-! ### Units and values -/

theorem unitKind_fio (n : Byte) : unitKind (n.setWidth 16) = .fio n := by
  have hn : (n.setWidth 16 : BitVec 16).toNat < 0x100 := by rw [BitVec.toNat_setWidth_of_le (by decide)]; exact n.isLt
  rw [unitKind, if_pos hn, BitVec.setWidth_setWidth_of_le _ (by decide), BitVec.setWidth_eq]

theorem unitKind_eth (p : BitVec 3) : unitKind (0x100 + p.setWidth 16) = .eth p := by
  revert p
  decide

theorem unitExists_fio (n : Byte) : unitExists (n.setWidth 16) = true := by
  have hn := n.isLt
  simp [unitExists]
  omega

theorem unitExists_eth (p : BitVec 3) : unitExists (0x100 + p.setWidth 16) = true := by
  revert p
  decide

theorem unitDepth_fio (n : Byte) : unitDepth (n.setWidth 16) = 16 := by
  have hn : ¬0x100 ≤ (n.setWidth 16 : BitVec 16).toNat := by rw [BitVec.toNat_setWidth_of_le (by decide)]; omega
  exact if_neg fun h => hn h.1

theorem dealOp_eq (v : Word) : dealOp v = (v >>> 28).toNat := by
  have hv := v.isLt
  simp only [dealOp, BitVec.toNat_setWidth, BitVec.toNat_ushiftRight, Nat.shiftRight_eq_div_pow]
  omega

theorem dealOp_eq_iff {v : Word} {j : Nat} (hj : j < 2 ^ 32) : dealOp v = j ↔ v >>> 28 = BitVec.ofNat 32 j := by
  rw [dealOp_eq, ← BitVec.toNat_inj, BitVec.toNat_ofNat, Nat.mod_eq_of_lt hj]

theorem isPulse_eq (v : Word) : isPulse v = (decide (v >>> 28 = 3) || decide (v >>> 28 = 4)) := by
  rw [isPulse, decide_eq_decide.mpr (dealOp_eq_iff (by decide)), decide_eq_decide.mpr (dealOp_eq_iff (by decide))]
  rfl

theorem fioValueOk_iff (v : Word) : fioValueOk v = true ↔
    (v >>> 24).setWidth 4 = 0#4 ∧ (if isPulse v then 16 ≤ dealW v else (v >>> 28).toNat ≤ 6 ∧ dealW v = 0) := by
  rw [fioValueOk, Bool.and_eq_true, decide_eq_true_eq, ← dealOp_eq]
  refine and_congr_right fun _ => ?_
  by_cases h3 : dealOp v = 3
  · simp [h3, isPulse]
  · by_cases h4 : dealOp v = 4
    · simp [h4, isPulse]
    · simp [h3, h4, isPulse]

theorem Core.unitDown_fio {c : Core} {n : Byte} : c.unitDown (n.setWidth 16) = false ↔
    (c.uctl (n.setWidth 16)).getLsbD 31 = true ∧ pinFunc (c.pcfg n) = 3 ∧ (c.bank (pinBank n)).stopped = false := by
  simp [Core.unitDown, unitKind_fio]

theorem Core.badValue_fio {c : Core} {n : Byte} (hm : c.tmode (n.setWidth 16) = false) (v : Word) (t : DWord) :
    c.badValue (n.setWidth 16) v t = !fioValueOk v := by
  simp [Core.badValue, unitKind_fio, hm]

theorem Core.tailAfter_fio (c : Core) (n : Byte) (v : Word) (t : DWord) :
    c.tailAfter (n.setWidth 16) v t = if isPulse v then t + BitVec.ofNat 64 (dealW v) else t := by
  rw [Core.tailAfter, unitKind_fio]

theorem tailTaken_fio (n : Byte) (v : Word) (t : DWord) :
    tailTaken (n.setWidth 16) v t = if isPulse v then t + BitVec.ofNat 64 (dealW v) else t := by
  rw [tailTaken, unitKind_fio]

/-! ### Refusals and misses -/

theorem Core.source_unit (c : Core) (src : BitVec 16) (level event : Bool) (t : DWord) (u : BitVec 16) :
    (c.source src level event t).unit u = c.unit u := by simp only [Core.unit, Core.source_rest]

theorem Core.sstat_setSstat (c : Core) (g : SprigId) (x : SStat) : (c.setSstat g x).sstat g = x := Tbl.get_set_self ..

/-- An error of a deal touches the unit's counts and DEAL_SSTAT, beside the fabric and the log. -/
theorem Core.dealError_keeps {β : Type} (P : Core → β) (hsrc : ∀ (c : Core) src a b t, P (c.source src a b t) = P c)
    (hlog : ∀ (c : Core) e, P (c.log e) = P c) (c : Core) (u : BitVec 16) (g : SprigId) (o : BitVec 4) :
    P (c.dealError u g o) = P ((c.setUnit u ((c.unit u).count o)).setSstat g ((c.sstat g).take o u)) := by
  unfold Core.dealError
  exact keeps_ite P ((hlog ..).trans (hsrc ..)) (hsrc ..)

theorem Core.dealError_rest (c : Core) (u : BitVec 16) (g : SprigId) (o : BitVec 4) : let d := c.dealError u g o
    d.unit u = (c.unit u).count o ∧ d.sstat g = (c.sstat g).take o u ∧ d.fly = c.fly ∧ d.sprigs = c.sprigs ∧ d.fabric.sw = c.fabric.sw := by
  refine ⟨?_, ?_, ?_, ?_, ?_⟩
  · refine (Core.dealError_keeps (fun d => d.unit u) (fun _ _ _ _ _ => Core.source_unit ..) (fun _ _ => ?_) c u g o).trans (c.unit_setUnit u _)
    simp only [Core.unit, Core.log_rest]
  · refine (Core.dealError_keeps (fun d => d.sstat g) (fun _ _ _ _ _ => ?_) (fun _ _ => ?_) c u g o).trans (Core.sstat_setSstat ..)
    · simp only [Core.sstat, Core.source_rest]
    · simp only [Core.sstat, Core.log_rest]
  · exact Core.dealError_keeps Core.fly (by simp) (by simp) c u g o
  · exact Core.dealError_keeps Core.sprigs (by simp) (by simp) c u g o
  · exact Core.dealError_keeps (fun d => d.fabric.sw) Core.source_sw (by simp) c u g o

/-- The unit as a miss leaves it (R241). -/
def DealUnit.missedBy (x : DealUnit) (cause : BitVec 4) : DealUnit := { x with mcause := cause, last := 6, missed := satInc8 x.missed }

theorem Core.missEntry_fio (c : Core) (n : Byte) (e : DealEntry) (cause : BitVec 4) :
    (c.missEntry (n.setWidth 16) e cause).unit (n.setWidth 16) = (c.unit (n.setWidth 16)).missedBy cause := by
  unfold Core.missEntry
  simp only [unitKind_fio, Core.dealError_rest, Core.unit_setUnit]
  rfl

/-- Misses in a row: each is counted, and the last one's cause stands. -/
theorem DealUnit.foldl_missedBy (l : List DealEntry) (cause : BitVec 4) (x : DealUnit) : let y := l.foldl (fun y _ => y.missedBy cause) x
    y.queue = x.queue ∧ y.returns = x.returns ∧ y.tail = x.tail ∧ (l ≠ [] → y.last = 6 ∧ y.mcause = cause)
      ∧ y.missed.toNat = min (x.missed.toNat + l.length) 255 := by
  induction l generalizing x with
  | nil =>
    have hx := x.missed.isLt
    refine ⟨rfl, rfl, rfl, fun h => absurd rfl h, ?_⟩
    simp only [List.foldl_nil, List.length_nil]
    omega
  | cons e l ih =>
    obtain ⟨hq, hr, ht, hlast, hmissed⟩ := ih (x.missedBy cause)
    refine ⟨hq, hr, ht, fun _ => ?_, ?_⟩
    · cases l with
      | nil => exact ⟨rfl, rfl⟩
      | cons e' l => exact hlast (List.cons_ne_nil _ _)
    · have hx := x.missed.isLt
      have hinc : (x.missedBy cause).missed.toNat = min (x.missed.toNat + 1) 255 := by
        show (satInc8 x.missed).toNat = _
        unfold satInc8
        split
        · next h => rw [h]; rfl
        · next h =>
          have hne : x.missed.toNat ≠ 255 := fun h' => h (BitVec.eq_of_toNat_eq h')
          have hadd : (x.missed + 1).toNat = (x.missed.toNat + 1) % 256 := BitVec.toNat_add ..
          omega
      rw [List.foldl_cons, hmissed, hinc, List.length_cons]
      omega

theorem Core.missAll_fio (c : Core) (n : Byte) (cause : BitVec 4) : let u : BitVec 16 := n.setWidth 16
    (c.missAll u cause).unit u = (c.unit u).queue.foldl (fun y _ => y.missedBy cause) { c.unit u with queue := [] } := by
  intro u
  unfold Core.missAll
  dsimp only
  rw [← List.foldl_hom (fun d : Core => d.unit u) (g₁ := fun d e => d.missEntry u e cause)
    (g₂ := fun y _ => y.missedBy cause) (fun d e => (d.missEntry_fio n e cause).symm),
    Core.unit_setUnit]

/-! ### Acceptance (R239) -/

/-- A slack sample touches the slack controller alone. -/
theorem Core.dealSample_eq (c : Core) (u : BitVec 16) (g : SprigId) (t a : DWord) (late : Bool) :
    ∃ x, c.dealSample u g t a late = { c with slack := x } := by
  unfold Core.dealSample
  split
  · cases late <;> exact ⟨_, rfl⟩
  · exact ⟨c.slack, rfl⟩

/-- The core with the answer of a deal of sprig g no longer owed. -/
def Core.dealAnswered (c : Core) (g : SprigId) : Core := c.modSprig g fun s => { s with dealsOut := s.dealsOut - 1 }

theorem Core.dealAnswered_dealsOut {c d : Core} {g : SprigId} (h : d.sprigs = (c.dealAnswered g).sprigs) :
    (d.sprig g).dealsOut = (c.sprig g).dealsOut - 1 := by
  rw [show d.sprig g = (c.dealAnswered g).sprig g by simp only [Core.sprig, h]]
  exact congrArg Sprig.dealsOut (Core.sprig_setSprig ..)

section
variable {c : Core} {u : BitVec 16} {v : Word} {t : DWord} {g : SprigId}

theorem Core.acceptDeal_refused {o : BitVec 4} (h : c.dealRefusal u v t c.time.dtime = some o) : let d := c.acceptDeal u v t g
    d.unit u = (c.unit u).count o ∧ d.fly = c.fly ∧ (d.sprig g).dealsOut = (c.sprig g).dealsOut - 1 ∧ d.sstat g = (c.sstat g).take o u := by
  obtain ⟨x, hx⟩ : ∃ x, c.acceptDeal u v t g = Core.dealError { c.dealAnswered g with slack := x } u g o := by
    obtain ⟨x, hx⟩ := (c.dealAnswered g).dealSample_eq u g t c.time.dtime true
    have ha : c.acceptDeal u v t g
        = (if o = dealLate then (c.dealAnswered g).dealSample u g t c.time.dtime true else c.dealAnswered g).dealError u g o := by
      unfold Core.acceptDeal
      dsimp only
      rw [show (c.modSprig g fun s => { s with dealsOut := s.dealsOut - 1 }).dealRefusal u v t c.time.dtime = some o from h]
      rfl
    rw [ha, hx]
    split
    · exact ⟨x, rfl⟩
    · exact ⟨c.slack, rfl⟩
  obtain ⟨hunit, hsstat, hfly, hsprigs, -⟩ := Core.dealError_rest { c.dealAnswered g with slack := x } u g o
  dsimp only
  rw [hx]
  exact ⟨hunit, hfly, Core.dealAnswered_dealsOut hsprigs, hsstat⟩

theorem Core.acceptDeal_enters {n : Byte} (hm : c.tmode (n.setWidth 16) = false) (h : c.dealRefusal (n.setWidth 16) v t c.time.dtime = none) :
    let u : BitVec 16 := n.setWidth 16
    let d := c.acceptDeal u v t g
    d.unit u = { c.unit u with queue := (c.unit u).queue ++ [⟨v, t, g, some t, c.time.dtime⟩], tail := c.tailAfter u v t }
    ∧ d.fly = c.fly ∧ (d.sprig g).dealsOut = (c.sprig g).dealsOut - 1 ∧ d.sstat g = (c.sstat g).take 0 u := by
  intro u
  obtain ⟨x, hx⟩ := (c.dealAnswered g).dealSample_eq u g t c.time.dtime false
  have ha : c.acceptDeal u v t g = Core.enterDeal { c.dealAnswered g with slack := x } u v t g := by
    unfold Core.acceptDeal
    dsimp only
    rw [show (c.modSprig g fun s => { s with dealsOut := s.dealsOut - 1 }).dealRefusal u v t c.time.dtime = none from h, ← hx]
    rfl
  have htimed : Core.tmode { c.dealAnswered g with slack := x } u = false := hm
  dsimp only
  rw [ha]
  unfold Core.enterDeal
  simp only [htimed, show unitKind u = .fio n from unitKind_fio n, Bool.not_false, if_true]
  exact ⟨Core.unit_setUnit .., rfl, Core.dealAnswered_dealsOut rfl, Core.sstat_setSstat ..⟩

end

/-- The checks of a deal for a FIO unit in timed mode, in their order (R239). -/
theorem Core.dealRefusal_fio {c : Core} {n : Byte} (hm : c.tmode (n.setWidth 16) = false) (v : Word) (t a : DWord) :
    let u : BitVec 16 := n.setWidth 16
    c.dealRefusal u v t a = if c.unitDown u then some 4 else if !fioValueOk v then some 5 else if t.toNat < a.toNat + 800 then some 1
      else if t.toNat < (c.unit u).tail.toNat then some 2 else if 16 ≤ (c.unit u).queue.length then some 3 else none := by
  intro u
  simp only [u, Core.dealRefusal, Core.badValue_fio hm, hm, unitDepth_fio, Bool.not_false, Bool.true_and, decide_eq_true_eq, BitVec.lt_def]
  rfl

theorem exec_dealCardAccept {s : State} {k o d : Nat} {u : BitVec 16} {v : Word} {t : DWord} {g : SprigId}
    (h : s.core.arrives k = some ⟨o, d, .deal u v t g⟩) :
    exec (.dealCardAccept k) s = .next (s.on ((s.core.land k).acceptDeal u v t g)) := by
  refine congrArg (fun c => Host.Outcome.next (s.on c)) ?_
  beta_reduce
  rw [h]

/-! ### Release (R240, R241, R243) -/

theorem Core.applyReturns_none {c : Core} {u : BitVec 16} (h : (c.unit u).returns = []) (t : DWord) :
    c.applyReturns u t = c.setUnit u (c.unit u) := by
  have hx : { c.unit u with returns := [] } = c.unit u := by rw [← h]
  unfold Core.applyReturns
  simp only [h, List.filter_nil, List.foldl_nil, hx]
  split <;> rfl

/-- The unit's entry at its instant leaves what the pulses due have made of the pin. -/
theorem Core.releaseDeal_emits {c : Core} {u : BitVec 16} {e : DealEntry} {rest : List DealEntry} {t : DWord} (hq : (c.unit u).queue = e :: rest)
    (hr : e.release = some t) (hle : t.toNat ≤ c.time.dtime.toNat)
    (hm : let d := c.applyReturns u t; (d.setUnit u { d.unit u with queue := rest }).missCause u e t = none) :
    c.releaseDeal u = (let d := c.applyReturns u t; (d.setUnit u { d.unit u with queue := rest }).emit u e.value t) := by
  have hlt : ¬c.time.dtime < t := by rw [BitVec.lt_def]; omega
  unfold Core.releaseDeal
  rw [hq]
  dsimp only at hm ⊢
  rw [hr]
  dsimp only
  rw [if_neg hlt, hm]

/-- An entry whose instant was not skipped is released at a pin, and at a port with a link (R241). -/
theorem Core.missCause_fio {c : Core} {e : DealEntry} {t : DWord} (n : Byte) (h : c.time.skipped t e.since = false) :
    c.missCause (n.setWidth 16) e t = none := by
  rw [Core.missCause, if_neg (Bool.eq_false_iff.mp h), unitKind_fio]

theorem Core.missCause_eth {c : Core} {e : DealEntry} {t : DWord} {p : BitVec 3} (h : c.time.skipped t e.since = false)
    (hl : (c.eth p).link = true) : c.missCause (0x100 + p.setWidth 16) e t = none := by
  rw [Core.missCause, if_neg (Bool.eq_false_iff.mp h), unitKind_eth]
  exact if_pos hl

section
variable {s : State} {u : BitVec 16}

theorem exec_dealRelease (h : unitExists u = true) : exec (.dealRelease u) s = .next (s.on (s.core.releaseDeal u)) := if_pos h

theorem exec_pulseReturnEdge (h : unitExists u = true) :
    exec (.pulseReturnEdge u) s = .next (s.on (s.core.applyReturns u s.core.time.dtime)) := if_pos h

theorem exec_flush {m : Master} (h : unitExists u = true) (ht : s.core.takes m (s.core.mayFlush m u) = true) :
    exec (.flush m u) s = .next (s.on (s.core.missAll u 3)) :=
  (if_pos h).trans (congrArg (fun c => Host.Outcome.next (s.on c)) (Core.writeBy_takes _ ht))

theorem exec_dealUerrRead {m : Master} (h : unitExists u = true) (hf : s.core.frozenMaster m = false) (hs : s.core.seesAll m = true) :
    exec (.dealUerrRead m u) s = .next (s.on ((s.core.readUerr u).2.answer m (s.core.readUerr u).1 false false)) :=
  (if_pos h).trans (congrArg (fun c => Host.Outcome.next (s.on c)) (Core.readBy_seen _ hf (by rw [hs, Bool.true_or])))

end

/-- A FIO deal drives its pin; the return of its pulse stays with the unit. -/
theorem Core.emit_fio (c : Core) (n : Byte) (v : Word) (t : DWord) : let u : BitVec 16 := n.setWidth 16
    (c.emit u v t).pin n = (c.pin n).apply v ∧ (c.emit u v t).unit u = { c.unit u with
      returns := if isPulse v then (c.unit u).returns ++ [(t + BitVec.ofNat 64 (dealW v), decide (dealOp v = 4))] else (c.unit u).returns } := by
  intro u
  have he : c.emit u v t = (let d := c.setPin n ((c.pin n).apply v)
      if isPulse v then d.setUnit u { c.unit u with
        returns := (c.unit u).returns ++ [(t + BitVec.ofNat 64 (dealW v), decide (dealOp v = 4))] } else d) := by
    rw [Core.emit, show unitKind u = .fio n from unitKind_fio n]
    rfl
  rw [he]
  dsimp only
  split
  · exact ⟨Core.pin_setPin .., Core.unit_setUnit ..⟩
  · exact ⟨Core.pin_setPin .., rfl⟩

theorem exec_dealRelease_fio {s : State} {n : Byte} {e : DealEntry} {rest : List DealEntry} {t : DWord} : let c := s.core
    let u : BitVec 16 := n.setWidth 16
    (c.unit u).queue = e :: rest → e.release = some t → t.toNat ≤ c.time.dtime.toNat → (c.unit u).returns = [] →
    c.time.skipped t e.since = false → Runs (exec (.dealRelease u) s) fun y => y.core.unit u = { c.unit u with
        queue := rest, returns := if isPulse e.value then [(t + BitVec.ofNat 64 (dealW e.value), decide (dealOp e.value = 4))] else [] }
      ∧ y.core.pin n = (c.pin n).apply e.value := by
  intro c u hq hr hle hret hs
  have happ := Core.applyReturns_none hret t
  have hmiss : let d := c.applyReturns u t; (d.setUnit u { d.unit u with queue := rest }).missCause u e t = none := by
    rw [happ]
    exact Core.missCause_fio n hs
  refine runs_of_eq (exec_dealRelease (unitExists_fio n)) ?_
  rw [State.on_core, Core.releaseDeal_emits hq hr hle hmiss, happ]
  dsimp only
  obtain ⟨hpin, hunit⟩ := Core.emit_fio ((c.setUnit u (c.unit u)).setUnit u { (c.setUnit u (c.unit u)).unit u with queue := rest }) n e.value t
  refine ⟨hunit.trans ?_, hpin⟩
  rw [Core.unit_setUnit, Core.unit_setUnit, hret]
  rfl

theorem exec_dealRelease_eth {s : State} {p : BitVec 3} {e : DealEntry} {rest : List DealEntry} {t : DWord} : let c := s.core
    let u : BitVec 16 := 0x100 + p.setWidth 16
    (c.unit u).queue = e :: rest → e.release = some t → t.toNat ≤ c.time.dtime.toNat → (c.eth p).link = true →
    c.time.skipped t e.since = false → Runs (exec (.dealRelease u) s) fun y =>
      (y.core.eth p).due = (c.eth p).due ++ [(e.value.setWidth 8, t)] ∧ (y.core.unit u).queue = rest := by
  intro c u hq hr hle hlink hs
  have hkind : unitKind u = .eth p := unitKind_eth p
  have happ : c.applyReturns u t = c.setUnit u { c.unit u with returns := (c.unit u).returns.filter fun r => !decide (r.1 ≤ t) } := by
    unfold Core.applyReturns
    simp only [hkind]
  have hmiss : let d := c.applyReturns u t; (d.setUnit u { d.unit u with queue := rest }).missCause u e t = none := by
    rw [happ]
    exact Core.missCause_eth hs hlink
  refine runs_of_eq (exec_dealRelease (unitExists_eth p)) ?_
  rw [State.on_core, Core.releaseDeal_emits hq hr hle hmiss, happ]
  dsimp only
  unfold Core.emit
  rw [hkind]
  exact ⟨congrArg Eth.due (Core.eth_setEth ..), congrArg DealUnit.queue (Core.unit_setUnit ..)⟩

/-! ### Triggered mode (R244) -/

section
variable {e : DealEntry} {taken rest : List DealEntry} (ht : ∀ z, z ∈ taken → z.release ≠ none) (he : e.release = none)
include ht he

theorem find_waiting : (taken ++ e :: rest).find? (fun z => decide (z.release = none)) = some e := by
  rw [List.find?_append, List.find?_eq_none.mpr fun z hz => by simp [ht z hz], Option.none_or]
  exact List.find?_cons_of_pos (decide_eq_true he)

theorem takeOldest_waiting (r now : DWord) :
    takeOldest r now (taken ++ e :: rest) = taken ++ { e with release := some r, since := now } :: rest := by
  induction taken with
  | nil => exact if_pos he
  | cons z l ih =>
    rw [List.cons_append, takeOldest, if_neg (ht z (List.mem_cons_self ..)), ih fun y hy => ht y (List.mem_cons_of_mem _ hy)]
    rfl

theorem dropOldest_waiting : dropOldest (taken ++ e :: rest) = taken ++ rest := by
  induction taken with
  | nil => exact if_pos he
  | cons z l ih =>
    rw [List.cons_append, dropOldest, if_neg (ht z (List.mem_cons_self ..)), ih fun y hy => ht y (List.mem_cons_of_mem _ hy)]
    rfl

end

theorem exec_triggeredDealTake {s : State} {u : BitVec 16} {t : DWord} {before after : List (Sink × DWord)} (hx : unitExists u = true)
    (he : s.core.fabric.edges = before ++ (.deal u, t) :: after) (hz : ∀ z, z ∈ before → z.1 ≠ .deal u)
    (hm : (s.core.uctl u).getLsbD 29 = true) :
    exec (.triggeredDealTake u) s = .next (s.on ((s.core.withEdges (before ++ after)).takeDeal u t)) := by
  refine (if_pos hx).trans (congrArg (fun c => Host.Outcome.next (s.on c)) ?_)
  beta_reduce
  rw [Core.popEdge_first he hz]
  exact if_pos hm

section
variable {c : Core} {u : BitVec 16} {t : DWord} {e : DealEntry} {taken rest : List DealEntry} (hq : (c.unit u).queue = taken ++ e :: rest)
  (ht : ∀ z, z ∈ taken → z.release ≠ none) (he : e.release = none)
include hq ht he

theorem Core.takeDeal_waiting : c.takeDeal u t =
    (let r := t + ((e.time.setWidth 32 : Word).setWidth 64)
      if r < (c.unit u).tail then (c.setUnit u { c.unit u with queue := taken ++ rest }).missEntry u e 6
      else c.setUnit u { c.unit u with
        queue := taken ++ { e with release := some r, since := c.time.dtime } :: rest, tail := tailTaken u e.value r }) := by
  unfold Core.takeDeal
  dsimp only
  rw [hq, find_waiting ht he]
  dsimp only
  rw [takeOldest_waiting ht he, dropOldest_waiting ht he]
  rfl

end

theorem Core.takeDeal_empty {c : Core} {u : BitVec 16} (h : (c.unit u).queue = []) (t : DWord) :
    c.takeDeal u t = c.setUnit u { c.unit u with tempty := (c.unit u).tempty + 1 } := by
  unfold Core.takeDeal
  dsimp only
  rw [h]
  rfl

end Sys2Proof.Machine

open Sys2Proof Sys2Proof.Machine

/-- Settles O31: acceptance by the first check that fails, release by what the unit drives, a trigger by the oldest entry that waits. -/
theorem dealUnits : Obligations.DealUnits := by
  intro s k o d n w v t g m e rest before after c u x now comes up pulse width legal early behind full settled turned tail first pin released edge
    waits at_
  have hpulse (v : Word) : pulse v = isPulse v := (isPulse_eq v).symm
  have hdown : c.unitDown u = false ↔ up := Core.unitDown_fio
  have hlegal : fioValueOk v = true ↔ legal := by
    rw [fioValueOk_iff, ← hpulse v]
    rfl
  have hmiss (h : comes) : (c.land k).dealRefusal u v t now = if c.unitDown u then some 4 else if !fioValueOk v then some 5
      else if early then some 1 else if behind then some 2 else if full then some 3 else none := Core.dealRefusal_fio (c := c.land k) h.2 v t now
  have hturned {b : BitVec 4} {y : DealUnit} (h : comes) (hr : (c.land k).dealRefusal u v t now = some b) (hb : b ≠ 0)
      (hy : x.count b = { y with last := b }) : turned b y := by
    obtain ⟨hunit, hfly, hout, hsstat⟩ := Core.acceptDeal_refused (g := g) hr
    refine ⟨_, exec_dealCardAccept h.1, hunit.trans hy, hfly, hout, hsstat.trans ?_⟩
    rw [SStat.take, if_neg hb, if_neg hb]
    rfl
  have hreleased (v : Word) (P : State → Prop) (hP : ∀ y, pin y = (c.pin n).apply v → P y) : released v P := by
    rintro r hq rfl hr hle hret hs
    obtain ⟨y, hy, hunit, hpin⟩ := exec_dealRelease_fio hq hr hle hret hs
    refine ⟨y, hy, hunit.trans ?_, hP y hpin⟩
    rw [hpulse, decide_eq_decide.mpr (dealOp_eq_iff (by decide))]
    rfl
  refine ⟨?enters, ?down, ?badValue, ?late, ?order, ?full, ?low, ?high, ?toggle, ?hiz, ?pulse, ?returns, ?returnsLater, ?eth, ?taken, ?behindTail,
    ?empty, ?flush, ?read⟩
  case enters =>
    intro h hup hl he hb hf
    have hr : (c.land k).dealRefusal u v t now = none := by
      rw [hmiss h, hdown.mpr hup, hlegal.mpr hl, if_neg he, if_neg hb, if_neg hf]
      rfl
    obtain ⟨hunit, hfly, hout, hsstat⟩ := Core.acceptDeal_enters (c := c.land k) (g := g) h.2 hr
    refine ⟨_, exec_dealCardAccept h.1, hunit.trans ?_, hfly, hout, hsstat⟩
    rw [Core.tailAfter_fio, ← hpulse]
    rfl
  case down =>
    intro h hup
    refine hturned h ?_ (by decide) rfl
    rw [hmiss h, if_pos (by simpa using mt hdown.mp hup)]
  case badValue =>
    intro h hup hl
    refine hturned h ?_ (by decide) rfl
    rw [hmiss h, hdown.mpr hup, Bool.eq_false_of_not_eq_true (mt hlegal.mp hl)]
    rfl
  case late =>
    intro h hup hl he
    refine hturned h ?_ (by decide) rfl
    rw [hmiss h, hdown.mpr hup, hlegal.mpr hl, if_pos he]
    rfl
  case order =>
    intro h hup hl he hb
    refine hturned h ?_ (by decide) rfl
    rw [hmiss h, hdown.mpr hup, hlegal.mpr hl, if_neg he, if_pos hb]
    rfl
  case full =>
    intro h hup hl he hb hf
    refine hturned h ?_ (by decide) rfl
    rw [hmiss h, hdown.mpr hup, hlegal.mpr hl, if_neg he, if_neg hb, if_pos hf]
    rfl
  case low => exact hreleased _ _ fun y hy => by rw [hy]; rfl
  case high => exact hreleased _ _ fun y hy => by rw [hy]; rfl
  case toggle => exact hreleased _ _ fun y hy => by rw [hy]; rfl
  case hiz => exact hreleased _ _ fun y hy => by rw [hy]; rfl
  case pulse =>
    intro w hw
    have hop : dealOp (0x30#8 ++ w) = 3 := by
      have hlt := w.isLt
      rw [dealOp_eq, BitVec.toNat_ushiftRight, BitVec.toNat_append, ← Nat.shiftLeft_add_eq_or_of_lt hlt, Nat.shiftLeft_eq,
        Nat.shiftRight_eq_div_pow]
      simp only [BitVec.toNat_ofNat]
      omega
    refine hreleased _ _ fun y hy => ?_
    rw [hy, Pin.apply, hop]
    rfl
  case returns =>
    intro r b hr hle
    have happ : c.applyReturns u now = (c.setUnit u { x with returns := [] }).setPin n { c.pin n with level := b } := by
      unfold Core.applyReturns
      simp [show unitKind u = .fio n from unitKind_fio n, show (c.unit u).returns = [(r, b)] from hr, BitVec.le_def, hle]
      rfl
    refine runs_of_eq (exec_pulseReturnEdge (unitExists_fio n)) ?_
    rw [State.on_core, happ]
    exact ⟨Core.pin_setPin .., Core.unit_setUnit ..⟩
  case returnsLater =>
    intro r b hr hlt
    have happ : c.applyReturns u now = c.setUnit u { x with returns := [(r, b)] } := by
      unfold Core.applyReturns
      simp [show unitKind u = .fio n from unitKind_fio n, show (c.unit u).returns = [(r, b)] from hr, BitVec.le_def, Nat.not_le.mpr hlt]
      rfl
    refine runs_of_eq (exec_pulseReturnEdge (unitExists_fio n)) ?_
    rw [State.on_core, happ]
    refine ⟨(Core.unit_setUnit ..).trans ?_, rfl⟩
    rw [← hr]
  case eth => exact fun r p hq hr hle hlink hs => exec_dealRelease_eth hq hr hle hlink hs
  case taken =>
    rintro taken ⟨hedge, hz, hm⟩ ⟨hq, ht, he⟩ hle
    refine runs_of_eq (exec_triggeredDealTake (unitExists_fio n) hedge hz hm) ?_
    rw [State.on_core, Core.takeDeal_waiting (c := c.withEdges (before ++ after)) hq ht he]
    dsimp only
    rw [if_neg (by rw [BitVec.lt_def]; exact Nat.not_lt.mpr hle), tailTaken_fio, ← hpulse]
    exact ⟨Core.unit_setUnit .., rfl⟩
  case behindTail =>
    rintro taken ⟨hedge, hz, hm⟩ ⟨hq, ht, he⟩ hlt
    refine runs_of_eq (exec_triggeredDealTake (unitExists_fio n) hedge hz hm) ?_
    rw [State.on_core, Core.takeDeal_waiting (c := c.withEdges (before ++ after)) hq ht he]
    dsimp only
    rw [if_pos (by rw [BitVec.lt_def]; exact hlt), Core.missEntry_fio, Core.unit_setUnit]
    rfl
  case empty =>
    rintro ⟨hedge, hz, hm⟩ hq
    refine runs_of_eq (exec_triggeredDealTake (unitExists_fio n) hedge hz hm) ?_
    rw [State.on_core, Core.takeDeal_empty (c := c.withEdges (before ++ after)) hq]
    exact Core.unit_setUnit ..
  case flush =>
    intro ht
    refine runs_of_eq (exec_flush (unitExists_fio n) ht) ?_
    obtain ⟨hqueue, hret, htail, hlast, hmissed⟩ := DealUnit.foldl_missedBy x.queue 3 { x with queue := [] }
    rw [State.on_core, Core.missAll_fio]
    refine ⟨hqueue, hret, htail, fun hne => ?_⟩
    obtain ⟨h6, h3⟩ := hlast hne
    exact ⟨h6, h3, hmissed⟩
  case read =>
    intro hw hf hs
    refine runs_of_eq (exec_dealUerrRead hw hf hs) ?_
    rw [State.on_core, Core.answer_rdata]
    exact ⟨rfl, (Core.source_unit ..).trans (c.unit_setUnit w _)⟩
end

section
/-!
PROOFS. The slack and voltage controller (R247 to R250, R498).
-/
namespace Sys2Proof.Machine

/-! ### The cap's rules in one 10 µs -/

theorem Core.cap0_slack (c : Core) : c.cap0.slack = { c.slack with capped := true } := by
  unfold Core.cap0
  split
  · next h => rw [← h]
  · exact (Core.source_rest ..).2.2.2.2.2.2.2.2.2.2.2.2.2.1

theorem Core.uncap_slack (c : Core) : c.uncap.slack = { c.slack with capped := false } := by
  simp only [Core.uncap, Core.source_rest]

/-- The input power over the window with the latest 10 µs in front (R250). -/
def Core.powerWindow (c : Core) (p : BitVec 16) : List (BitVec 16) := (p :: c.slack.powers).take (capWin c.powerCap)

/-- The core with the window's powers and their average. -/
def Core.averaged (c : Core) (l : List (BitVec 16)) : Core :=
  { c with slack := { c.slack with powers := l, pin := BitVec.ofNat 16 (l.foldl (fun n (x : BitVec 16) => n + x.toNat) 0 / l.length) } }

/-- The code falls while the power or the heat is over its cap, and CAPPED ends once the power is well under it. -/
def Core.capRule (c : Core) (above below : Bool) : Core :=
  if above then (let d := c.cap0; { d with slack := { d.slack with vt := BitVec.ofNat 8 (max (d.slack.vt.toNat - 1) 20) } })
  else if below then c.uncap else c

/-- The core with the code measured. -/
def Core.codeMeasured (c : Core) : Core :=
  { c with slack := { c.slack with
      vmeas := slew c.slack.vmeas c.slack.vt, floorSent := c.slack.floorSent && c.slack.capped && decide (c.slack.vt = 20) } }

theorem Core.capRule_slack (c : Core) (above below : Bool) : (c.capRule above below).slack =
    if above then { c.slack with capped := true, vt := BitVec.ofNat 8 (max (c.slack.vt.toNat - 1) 20) }
    else if below then { c.slack with capped := false } else c.slack := by
  unfold Core.capRule
  split
  · dsimp only
    rw [Core.cap0_slack]
  · split
    · exact c.uncap_slack
    · rfl

theorem sum_toNat (l : List (BitVec 16)) : l.foldl (fun n (x : BitVec 16) => n + x.toNat) 0 = (l.map BitVec.toNat).sum := by
  rw [List.sum_eq_foldl, List.foldl_map]

/-- One 10 µs by the window's sum: over the cap or held by heat, well under the cap, or between. -/
theorem exec_vcCapTick (s : State) (p : BitVec 16) : let c := s.core
    let l := c.powerWindow p
    let sum := (l.map BitVec.toNat).sum
    let above := c.slack.thermal || (c.powerCap.getLsbD 31 && decide (10 * capWatts c.powerCap * l.length < sum))
    let below := c.slack.capped && decide (10 * sum < 97 * capWatts c.powerCap * l.length)
    exec (.vcCapTick p) s = .next (s.on ((c.averaged l).capRule above below).codeMeasured) := by
  dsimp only
  rw [← sum_toNat]
  rfl

theorem Core.codeMeasured_slack (c : Core) : let y := c.codeMeasured.slack
    y.capped = c.slack.capped ∧ y.vt = c.slack.vt ∧ y.powers = c.slack.powers ∧ y.pin = c.slack.pin := ⟨rfl, rfl, rfl, rfl⟩

/-- What one 10 µs makes of CAPPED and of the code. -/
theorem exec_vcCapTick_slack {s : State} {p : BitVec 16} {above below : Bool} : let c := s.core
    let l := c.powerWindow p
    let sum := (l.map BitVec.toNat).sum
    (c.slack.thermal || (c.powerCap.getLsbD 31 && decide (10 * capWatts c.powerCap * l.length < sum))) = above →
    (c.slack.capped && decide (10 * sum < 97 * capWatts c.powerCap * l.length)) = below →
    Runs (exec (.vcCapTick p) s) fun t => let y := t.core.slack
      y.capped = (above || (!below && c.slack.capped)) ∧ y.vt = (bif above then BitVec.ofNat 8 (max (c.slack.vt.toNat - 1) 20) else c.slack.vt)
      ∧ y.powers = l ∧ y.pin = BitVec.ofNat 16 (sum / l.length) := by
  intro c l sum ha hb
  refine runs_of_eq (exec_vcCapTick s p) ?_
  rw [ha, hb]
  have hslack := (c.averaged l).capRule_slack above below
  obtain ⟨hcapped, hvt, hpowers, hpin'⟩ := ((c.averaged l).capRule above below).codeMeasured_slack
  dsimp only [State.on_core]
  rw [hcapped, hvt, hpowers, hpin', hslack]
  have hpin : (c.averaged l).slack.pin = BitVec.ofNat 16 (sum / l.length) := by
    rw [← show _ = sum from sum_toNat l]
    rfl
  cases above <;> cases below <;> exact ⟨rfl, rfl, rfl, hpin⟩

/-! ### Periods -/

/-- The least of v over the indices of a list that the mask names, and m. -/
theorem foldl_least (mask : Nat → Bool) (v : Nat → Word) (l : List Nat) (m : Word) :
    let r := l.foldl (fun (m : Word) b => if mask b && (v b).slt m then v b else m) m
    r.toInt ≤ m.toInt ∧ (∀ b, b ∈ l → mask b = true → r.toInt ≤ (v b).toInt) ∧ (r = m ∨ ∃ b, b ∈ l ∧ mask b = true ∧ r = v b) := by
  induction l generalizing m with
  | nil => exact ⟨le_refl _, fun _ hb => absurd hb List.not_mem_nil, .inl rfl⟩
  | cons a l ih =>
    obtain ⟨hle, hall, hfrom⟩ := ih (if mask a && (v a).slt m then v a else m)
    rw [List.foldl_cons]
    by_cases ha : (mask a && (v a).slt m) = true
    · rw [if_pos ha] at hle hall hfrom
      rw [if_pos ha]
      obtain ⟨hmask, hlt⟩ := Bool.and_eq_true_iff.mp ha
      rw [BitVec.slt_iff_toInt_lt] at hlt
      refine ⟨by omega, fun b hb hm => ?_, ?_⟩
      · rcases List.mem_cons.mp hb with rfl | hb
        · exact hle
        · exact hall b hb hm
      · rcases hfrom with h | ⟨b, hb, hm, h⟩
        · exact .inr ⟨a, List.mem_cons_self .., hmask, h⟩
        · exact .inr ⟨b, List.mem_cons_of_mem _ hb, hm, h⟩
    · rw [if_neg ha] at hle hall hfrom
      rw [if_neg ha]
      refine ⟨hle, fun b hb hm => ?_, ?_⟩
      · rcases List.mem_cons.mp hb with rfl | hb
        · rw [hm, Bool.true_and, BitVec.slt_iff_toInt_lt] at ha
          omega
        · exact hall b hb hm
      · exact hfrom.imp_right fun ⟨b, hb, hm, h⟩ => ⟨b, List.mem_cons_of_mem _ hb, hm, h⟩

/-- TIME_SLACK_MIN (R248). -/
theorem slackMinOf_least (t : Tbl Word) (mask : DWord) :
    (∀ b, b < 64 → mask.getLsbD b = true → (slackMinOf t mask).toInt ≤ (Tbl.get t b maxI).toInt)
    ∧ (slackMinOf t mask = maxI ∨ ∃ b, b < 64 ∧ mask.getLsbD b = true ∧ slackMinOf t mask = Tbl.get t b maxI) := by
  obtain ⟨-, hall, hfrom⟩ := foldl_least mask.getLsbD (fun b => Tbl.get t b maxI) (List.range 64) maxI
  exact ⟨fun b hb => hall b (List.mem_range.mpr hb), hfrom.imp_right fun ⟨b, hb, h⟩ => ⟨b, List.mem_range.mp hb, h⟩⟩

/-- The core with the period's samples as TIME_BSLACK and their least as TIME_SLACK_MIN. -/
def Core.periodEnded (c : Core) : Core :=
  { c with slack := { c.slack with bslack := c.slack.cur, cur := [], slackMin := slackMinOf c.slack.cur c.slackMask } }

theorem exec_vcPeriodEnd (s : State) : exec .vcPeriodEnd s = .next (s.on
    (let d := s.core.periodEnded
      if s.core.slackCtl.getLsbD 31 && !s.core.slack.capped
      then { d with slack := { d.slack with vt := s.core.periodVt (slackMinOf s.core.slack.cur s.core.slackMask) } } else d)) := rfl

/-- What a period's end makes of the samples and the code. -/
theorem exec_vcPeriodEnd_slack (s : State) : let c := s.core
    let x := c.slack
    let low := slackMinOf x.cur c.slackMask
    Runs (exec .vcPeriodEnd s) fun t => let y := t.core.slack
      y.bslack = x.cur ∧ y.cur = [] ∧ y.slackMin = low ∧ y.capped = x.capped
      ∧ y.vt = if c.slackCtl.getLsbD 31 && !x.capped then c.periodVt low else x.vt := by
  refine runs_of_eq (exec_vcPeriodEnd s) ?_
  dsimp only [State.on_core]
  split <;> exact ⟨rfl, rfl, rfl, rfl, rfl⟩

section
variable (c : Core) {low : Word}

/-- The slack that the controller aims at, and the band above it in which it rests (R249). -/
def Core.slackAim (c : Core) : Int := ((c.slackTarget.setWidth 16 : BitVec 16).toNat : Int)
def Core.slackBand (c : Core) : Int := (((c.slackTarget >>> 16).setWidth 16 : BitVec 16).toNat : Int)

theorem Core.periodVt_up (hm : low ≠ maxI) (h : low.toInt < c.slackAim) :
    c.periodVt low = BitVec.ofNat 8 (min (c.slack.vt.toNat + stepUpOf c.slackCtl) (vcMax c.vcLim)) := if_pos ⟨hm, h⟩

theorem Core.periodVt_down (h : low = maxI ∨ c.slackAim + c.slackBand < low.toInt) :
    c.periodVt low = BitVec.ofNat 8 (max (c.slack.vt.toNat - stepDownOf c.slackCtl) (vcMin c.vcLim)) := by
  have hband : 0 ≤ c.slackBand := Int.natCast_nonneg _
  have hn : ¬(low ≠ maxI ∧ low.toInt < c.slackAim) := by
    rintro ⟨hm, hlt⟩
    rcases h with h | h
    · exact hm h
    · omega
  exact (if_neg hn).trans (if_pos h)

theorem Core.periodVt_rests (hm : low ≠ maxI) (h1 : c.slackAim ≤ low.toInt) (h2 : low.toInt ≤ c.slackAim + c.slackBand) :
    c.periodVt low = c.slack.vt :=
  (if_neg fun h => by have := h.2; unfold Core.slackAim at h1; omega).trans
    (if_neg fun h => h.elim hm fun h => by unfold Core.slackAim Core.slackBand at h2; omega)

end

/-! ### Floor and heat -/

theorem exec_vcFloor {s : State} (hc : s.core.slack.capped = true) (hv : s.core.slack.vt = 20) (hf : s.core.slack.floorSent = false) :
    exec .vcFloor s = .next (s.on ((({ s.core with slack := { s.core.slack with floorSent := true } } : Core)).log
      { cls := 1, source := 0x04, code := 0x0012, unit := 0, detail := 0, addr := 0 })) :=
  congrArg (fun c => Host.Outcome.next (s.on c)) (if_pos (by simp [hc, hv, hf]))

theorem exec_vcFloor_idle {s : State} (h : s.core.slack.capped = false ∨ s.core.slack.vt ≠ 20 ∨ s.core.slack.floorSent = true) :
    exec .vcFloor s = .next s := by
  refine congrArg (fun c => Host.Outcome.next (s.on c)) (if_neg fun hc => ?_)
  simp only [Bool.and_eq_true, decide_eq_true_eq, Bool.not_eq_true'] at hc
  obtain ⟨⟨hcap, hvt⟩, hsent⟩ := hc
  rcases h with h | h | h
  · exact absurd (h.symm.trans hcap) (by decide)
  · exact h hvt
  · exact absurd (hsent.symm.trans h) (by decide)

end Sys2Proof.Machine

open Sys2Proof Sys2Proof.Machine

/-- Settles O32: `exec_vcCapTick` by the rule that holds in the 10 µs, `periodVt` by where the least slack lies. -/
theorem voltageController : Obligations.VoltageController := by
  intro s p code c x cap watts window sum target band beyond up down vmax vmin ticked ended
  obtain ⟨hall, hfrom⟩ := slackMinOf_least x.cur c.slackMask
  have hstands (h : c.slackCtl.getLsbD 31 = false ∨ x.capped = true) : ¬(c.slackCtl.getLsbD 31 && !x.capped) = true := by
    rcases h with h | h
    · rw [h, Bool.false_and]
      exact Bool.false_ne_true
    · rw [h, Bool.not_true, Bool.and_false]
      exact Bool.false_ne_true
  have hbeyond (h : ¬beyond) : (cap.getLsbD 31 && decide (10 * watts * window.length < sum)) = false := by
    refine Bool.eq_false_of_not_eq_true fun hb => h ?_
    simpa [beyond] using hb
  refine ⟨?capped, ?uncapped, ?between, ?period, ?held, ?floor, ?floorIdle, ?hot, ?cool, ?warm⟩
  case capped =>
    intro h
    have habove : (x.thermal || (cap.getLsbD 31 && decide (10 * watts * window.length < sum))) = true := by
      rcases h with ⟨h31, hlt⟩ | h
      · simp [h31, hlt]
      · simp [h]
    obtain ⟨t, ht, hcap, hvt, hrest⟩ := exec_vcCapTick_slack habove rfl
    exact ⟨t, ht, ⟨hcap, hvt⟩, hrest⟩
  case uncapped =>
    intro hth hc hlt
    have hmul (n : Nat) : n * watts * window.length = n * (watts * window.length) := Nat.mul_assoc ..
    have hlow : ¬beyond := by
      rintro ⟨-, hgt⟩
      have h10 := hmul 10
      have h97 := hmul 97
      omega
    have habove : (x.thermal || (cap.getLsbD 31 && decide (10 * watts * window.length < sum))) = false := by rw [hbeyond hlow, hth]; rfl
    have hbelow : (x.capped && decide (10 * sum < 97 * watts * window.length)) = true := by rw [hc, decide_eq_true hlt]; rfl
    obtain ⟨t, ht, hcap, hvt, hrest⟩ := exec_vcCapTick_slack habove hbelow
    exact ⟨t, ht, ⟨hcap, hvt⟩, hrest⟩
  case between =>
    intro hb hth hc
    have hbelow : (x.capped && decide (10 * sum < 97 * watts * window.length)) = false := by
      rcases hc with hc | hle
      · rw [hc, Bool.false_and]
      · rw [decide_eq_false (Nat.not_lt.mpr hle), Bool.and_false]
    have habove : (x.thermal || (cap.getLsbD 31 && decide (10 * watts * window.length < sum))) = false := by rw [hbeyond hb, hth]; rfl
    obtain ⟨t, ht, hcap, hvt, hrest⟩ := exec_vcCapTick_slack habove hbelow
    exact ⟨t, ht, ⟨hcap, hvt⟩, hrest⟩
  case period =>
    intro hen hcap
    have hctl : (c.slackCtl.getLsbD 31 && !x.capped) = true := by rw [hen, hcap]; rfl
    obtain ⟨t, ht, hsamples, hcur, hlow, hcapped, hvt⟩ := exec_vcPeriodEnd_slack s
    refine ⟨t, ht, hsamples, hcur, ?_⟩
    dsimp only
    rw [hlow, hvt, if_pos hctl]
    exact ⟨hall, hfrom, hcapped, c.periodVt_up, c.periodVt_down, c.periodVt_rests⟩
  case held =>
    intro h
    obtain ⟨t, ht, hsamples, hcur, hlow, hcapped, hvt⟩ := exec_vcPeriodEnd_slack s
    refine ⟨t, ht, hsamples, hcur, ?_⟩
    dsimp only
    rw [hlow, hvt, if_neg (hstands h)]
    exact ⟨hall, hfrom, hcapped, rfl⟩
  case floor =>
    intro hc hv hf ht
    refine runs_of_eq (exec_vcFloor hc hv hf) ?_
    exact ⟨by simp [x, c], Core.lastLog_log (c := { c with slack := { x with floorSent := true } }) ht⟩
  case floorIdle => exact exec_vcFloor_idle
  case hot =>
    intro h
    refine runs_of_eq (congrArg (fun c => Host.Outcome.next (s.on c)) (if_pos h)) ?_
    exact Core.cap0_slack _
  case cool =>
    intro h
    exact congrArg (fun c => Host.Outcome.next (s.on c)) ((if_neg (by omega)).trans (if_pos h))
  case warm =>
    intro h1 h2
    exact congrArg (fun c => Host.Outcome.next (s.on c)) ((if_neg (by omega)).trans (if_neg (by omega)))
end

section
/-!
PROOFS. Reset sources (R224, R298, R380, R395 to R403, R427, R496).
-/
namespace Sys2Proof.Machine

/-! ### What a reset of the core domain leaves -/

/-- The always-on domain with a reset of the core counted and its cause set (R404). -/
def Aon.counted (a : Aon) (cause : Nat) : Aon :=
  { a with
    inc := a.inc + 1, count := if a.count = 0xFF then 0xFF else a.count + 1
    causes := a.causes ||| (1#4 <<< (cause - 1)) }

theorem Core.byte_eq_zero {c : Core} (h : c.mem = []) (a : Nat) : c.byte a = 0 := by
  rw [Core.byte, h, Tbl.get_nil]

theorem Tbl.get_memOnly (t : List Host.Cell) (a : Nat) : Tbl.get (memOnly t) a 0 = if a < 0x2000000000 then Tbl.get t a 0 else 0 := by
  refine (Tbl.get_filter t (fun k => decide (k < 0x2000000000)) a 0).trans ?_
  simp only [decide_eq_true_eq]

theorem memOnly_above (t : List Host.Cell) : (memOnly t).filter (fun e => decide (0x2000000000 ≤ e.1)) = [] := by
  refine List.filter_eq_nil_iff.mpr fun e he => ?_
  have hlt := of_decide_eq_true (List.mem_filter.mp he).2
  simp only [decide_eq_true_eq]
  omega

theorem Core.get_channelsAfter (c : Core) (lost : Bool) {j : Nat} (hj : j < 36) :
    Tbl.get (c.channelsAfter lost) j Gdc.reset = { Gdc.reset with zero := lost || (c.gdc j).zero } := by
  refine (read_foldl_range (fun t : Tbl Gdc => t.get j Gdc.reset) (j := j) (g := fun _ => { Gdc.reset with zero := lost || (c.gdc j).zero })
    (fun t => Tbl.get_set_self ..) (fun t k _ hk => Tbl.get_set_ne _ (Ne.symm hk) ..) []).trans ?_
  rw [if_pos hj]

/-- A hand that was accepted fails with ABANDONED (R357). -/
theorem Hand.cut_accepted {h : Hand} (hsys : h.sys = none) (hst : h.st = .pending ∨ h.st = .draining) :
    h.cut ≠ Hand.reset ∧ h.cut.st = .failed ∧ h.cut.status = 0x0501 ∧ h.cut.entries = [] ∧ h.cut.serial = h.serial := by
  have hacc : h.st.accepted = true := by rcases hst with h1 | h1 <;> rw [h1] <;> rfl
  have hcut : h.cut = { h with
      entries := [], loads := [], sys := none, submit := none, awaiting := [], halted := [], instant := none
      st := .failed, status := stAbandoned, detail := 0 } := by
    simp only [Hand.cut, hsys, Option.isSome_none, Bool.false_eq_true, if_false, hacc, if_true]
  refine ⟨fun heq => ?_, by rw [hcut], by rw [hcut]; rfl, by rw [hcut], by rw [hcut]⟩
  have hfail : Hand.reset.st = .failed := by rw [← heq, hcut]
  cases hfail

/-- A stop that was not planned takes the latest copy in the always-on domain (R224). -/
theorem Core.timeStops_unplanned {c : Core} (h : c.time.running = true) : c.timeStops true = { c.time with
    running := false, sleepDt := c.aon.copy, dtime := c.aon.copy, uncertStop := c.time.uncert, aonStop := c.aon.ticks, frac := 0,
    unplanned := true } := by
  simp only [Core.timeStops, Core.stopTime_eq, h, if_true, Bool.and_self]

/-- What a reset of the core domain leaves and clears in `t`, when it finds `s` with the always-on domain as `a` (R400, R402). -/
def State.ResetTo (s : State) (a : Aon) (cause : Nat) (t : State) : Prop :=
  let c := s.core
  t.sec = s.sec ∧ t.isl = s.isl ∧ t.core.power = { coreReset := true, porst := false } ∧ t.core.aon = a.counted cause
  ∧ (∀ a, a < 0x2000000000 → t.core.byte a = c.byte a) ∧ (∀ a, 0x2000000000 ≤ a → t.core.byte a = 0)
  ∧ t.core.hmem = c.hmem ∧ t.core.dev = c.dev ∧ t.core.sprigs = [] ∧ t.core.queues = [] ∧ t.core.chans = [] ∧ t.core.fly = [] ∧ t.core.cmds = []
  ∧ t.core.quiesce = [] ∧ t.core.err = {} ∧ t.core.regs = [] ∧ t.core.boot = {}
  ∧ t.core.cfg = c.cfg.filter (fun z => decide (z.1 = 0x01000001 ∨ z.1 = 0x01000002))
  ∧ t.core.epochOf .core = c.epochOf .core + 1
  ∧ (c.time.running = true → t.core.time = { c.time with
      running := false, sleepDt := c.aon.copy, dtime := c.aon.copy, uncertStop := c.time.uncert, aonStop := c.aon.ticks, frac := 0,
      unplanned := true })
  ∧ (∀ j, j < 36 → t.core.gdc j = { Gdc.reset with zero := (c.gdc j).zero })
  ∧ t.core.store.gen = c.store.gen ∧ (c.boot.phase = .handedOver → t.core.store.kept = c.cfg) ∧ t.core.store.isolated = false
  ∧ ∀ z, z ∈ c.hands → z.2.sys = none → (z.2.st = .pending ∨ z.2.st = .draining) →
    ∃ h, (z.1, h) ∈ t.core.hands ∧ h.st = .failed ∧ h.status = 0x0501 ∧ h.entries = [] ∧ h.serial = z.2.serial

/-- The core with the always-on domain and the error block as given. -/
def Core.withAon (c : Core) (a : Aon) (b : ErrBlk) : Core := { c with aon := a, err := b }

theorem State.resetTo_inCoreReset (s : State) (a : Aon) (b : ErrBlk) (cause : Nat) (hticks : a.ticks = s.core.aon.ticks)
    (hcopy : a.copy = s.core.aon.copy) : s.ResetTo a cause (s.on (((s.core.withAon a b).inCoreReset true false).resetCause cause)) := by
  refine ⟨rfl, rfl, rfl, rfl, fun x hx => ?_, fun x hx => ?_, rfl, rfl, rfl, rfl, rfl, rfl, rfl, rfl, rfl, rfl, rfl, rfl, ?_, fun hrun => ?_,
    fun j hj => ?_, rfl, fun hphase => ?_, rfl, fun z hz hsys hst => ?_⟩
  · exact (Tbl.get_memOnly s.core.mem x).trans (if_pos hx)
  · exact (Tbl.get_memOnly s.core.mem x).trans (if_neg (by omega))
  · exact Tbl.get_set_self ..
  · refine (Core.timeStops_unplanned (c := s.core.withAon a b) hrun).trans ?_
    rw [← hticks, ← hcopy]
    rfl
  · exact (s.core.withAon a b).get_channelsAfter false hj
  · exact if_pos (decide_eq_true hphase)
  · obtain ⟨hne, hfacts⟩ := Hand.cut_accepted hsys hst
    exact ⟨z.2.cut, List.mem_filterMap.mpr ⟨z, hz, if_neg hne⟩, hfacts⟩

/-- What the loss of the supply leaves of the core domain `c`: GDDR6 is to be cleared (R310). -/
def Core.LostTo (c d : Core) (a : Aon) : Prop :=
  d.power = { coreReset := true, porst := false } ∧ d.aon = a ∧ (∀ a, d.byte a = 0)
  ∧ d.sprigs = [] ∧ d.fly = [] ∧ d.hmem = c.hmem ∧ ∀ j, j < 36 → (d.gdc j).zero = true

theorem Core.lostTo_of {c d u : Core} {a : Aon} (hmem : d.mem = []) (hgdcs : d.gdcs = u.channelsAfter true)
    (hpower : d.power = { coreReset := true, porst := false }) (haon : d.aon = a) (hsprigs : d.sprigs = []) (hfly : d.fly = [])
    (hhmem : d.hmem = c.hmem) : c.LostTo d a := by
  refine ⟨hpower, haon, Core.byte_eq_zero hmem, hsprigs, hfly, hhmem, fun j hj => ?_⟩
  rw [Core.gdc, hgdcs, Core.get_channelsAfter u true hj]
  rfl

/-- What a power-on reset leaves and clears in `t`, when it finds `s` (R400, R403). -/
def State.BlankTo (s t : State) (d : DeviceId) : Prop :=
  let c := s.core
  t.core.power = { coreReset := true } ∧ t.core.dev = d ∧ t.core.mem = [] ∧ t.core.ecc = [] ∧ t.core.sprigs = [] ∧ t.core.queues = []
  ∧ t.core.fly = [] ∧ t.core.cfg = [] ∧ t.core.regs = [] ∧ t.core.err = {} ∧ t.core.boot = {} ∧ t.core.hands = [] ∧ t.core.quiesce = []
  ∧ t.core.aon = { strapId := d, power := .starting, pwrEn := true, pgood := false, tries := 1, back := .off }
  ∧ t.core.time = { running := false } ∧ t.core.hmem = c.hmem ∧ t.sec = s.sec ∧ t.core.store.flash = c.store.flash
  ∧ t.core.store.gen = (if c.store.flashGen = 0 then 1 else c.store.flashGen) ∧ t.core.store.kept = c.store.flash
  ∧ t.isl = (if s.isl.enabled then s.isl.enterReset else s.isl)

theorem State.blankTo_powerOn (s : State) (d : DeviceId) : s.BlankTo (s.powerOn d) d := by
  unfold State.BlankTo State.powerOn
  dsimp only
  split
  · exact ⟨rfl, rfl, rfl, rfl, rfl, rfl, rfl, rfl, rfl, rfl, rfl, rfl, rfl, rfl, rfl, rfl, rfl, rfl, rfl, rfl, rfl⟩
  · exact ⟨rfl, rfl, rfl, rfl, rfl, rfl, rfl, rfl, rfl, rfl, rfl, rfl, rfl, rfl, rfl, rfl, rfl, rfl, rfl, rfl, rfl⟩

/-! ### Pins, supplies, the watchdog and DEVICE_FATAL -/

theorem Core.resetAndStart_run {c : Core} (hr : c.power.coreReset = false) (hp : c.aon.power = .run) (cause : Nat) :
    c.resetAndStart cause = (c.inCoreReset true false).resetCause cause := by
  have hin : c.coreReset true false = c.inCoreReset true false := if_neg (Bool.eq_false_iff.mp hr)
  have hstay : ¬(((c.inCoreReset true false).resetCause cause).aon.power = .standby
      ∨ ((c.inCoreReset true false).resetCause cause).aon.power = .watch) := by
    rintro (h | h) <;> exact absurd (hp.symm.trans h) (by decide)
  rw [Core.resetAndStart, hin]
  exact if_neg hstay

theorem State.resetTo_resetAndStart (s : State) (hr : s.core.power.coreReset = false) (hp : s.core.aon.power = .run) (cause : Nat) :
    s.ResetTo s.core.aon cause (s.on (s.core.resetAndStart cause)) := by
  rw [Core.resetAndStart_run hr hp]
  exact s.resetTo_inCoreReset s.core.aon s.core.err cause rfl rfl

theorem sysrstResets_long {ns : Nat} (h : 1000 ≤ ns) : sysrstResets ns = true := by
  rw [sysrstResets, if_neg (by omega), if_pos h]

section
variable {s : State} {ns : Nat} {e : ErrInfo}

theorem exec_sysrstN_long (hns : 1000 ≤ ns) (hp : s.core.aon.power ≠ .off) :
    exec (.sysrstN ns) s = .next (s.on (s.core.resetAndStart causeSysrst)) :=
  congrArg (fun c => Host.Outcome.next (s.on c)) (if_pos (by rw [sysrstResets_long hns, decide_eq_true hp]; rfl))

theorem exec_sysrstN_ignored (h : ns < 100 ∨ s.core.aon.power = .off) : exec (.sysrstN ns) s = .next s := by
  refine congrArg (fun c => Host.Outcome.next (s.on c)) (if_neg fun hc => ?_)
  obtain ⟨hlong, hon⟩ := Bool.and_eq_true_iff.mp hc
  rcases h with hns | hoff
  · rw [sysrstResets, if_pos hns] at hlong
    cases hlong
  · exact of_decide_eq_true hon hoff

/-- In STANDBY and WATCH the supply comes up first (R403). -/
theorem Core.resetAndStart_asleep {c : Core} (hr : c.power.coreReset = false) (hp : c.aon.power = .standby ∨ c.aon.power = .watch) (cause : Nat) :
    (c.resetAndStart cause).power.coreReset = true ∧ (c.resetAndStart cause).aon = (c.aon.counted cause).powerUp c.aon.power := by
  have hin : c.coreReset true false = c.inCoreReset true false := if_neg (Bool.eq_false_iff.mp hr)
  have hup : c.resetAndStart cause = { (c.inCoreReset true false).resetCause cause with aon := (c.aon.counted cause).powerUp c.aon.power } := by
    rw [Core.resetAndStart, hin]
    exact if_pos hp
  rw [hup]
  exact ⟨rfl, rfl⟩

/-- A cause that comes while the core is in reset joins (R402). -/
theorem Core.resetAndStart_joins {c : Core} (hr : c.power.coreReset = true) (hp : c.aon.power = .run) (cause : Nat) :
    c.resetAndStart cause = c.resetCause cause := by
  have hin : c.coreReset true false = c := if_pos hr
  have hstay : ¬((c.resetCause cause).aon.power = .standby ∨ (c.resetCause cause).aon.power = .watch) := by
    rintro (h | h) <;> exact absurd (hp.symm.trans h) (by decide)
  rw [Core.resetAndStart, hin]
  exact if_neg hstay

/-- The always-on domain after a BROWNOUT: a dip that is open ended in it (R427). -/
def Aon.dipped (a : Aon) : Aon := { a with brown := true, inDip := false, dipOut := if a.inDip then BitVec.allOnes 64 else a.dipOut }

theorem Core.brownout_eq {c : Core} (hr : c.power.coreReset = false) :
    c.brownout = ((c.withAon c.aon.dipped c.err).inCoreReset true false).resetCause causeBrownout :=
  congrArg (fun d : Core => d.resetCause causeBrownout) (if_neg (Bool.eq_false_iff.mp hr))

theorem exec_brownout_low (hr : s.core.power.coreReset = false) (hp : s.core.aon.power = .run) :
    exec (.brownout false) s = .next (s.on (((s.core.withAon s.core.aon.dipped s.core.err).inCoreReset true false).resetCause causeBrownout)) := by
  rw [← Core.brownout_eq hr]
  exact congrArg (fun c => Host.Outcome.next (s.on c)) (if_neg (by simp [hp]))

/-- The core after PGOOD fell: the sequence of R406 runs again. -/
def Core.pgoodFell (c : Core) : Core :=
  { c.loseMemory with aon := { c.aon with power := .starting, pwrEn := false, pgood := false, pgfail := true, tries := 0, back := .off } }

theorem exec_brownout_pgood (hr : s.core.power.coreReset = false) (hp : s.core.aon.power = .run) :
    exec (.brownout true) s
      = .next (s.on (((s.core.withAon s.core.aon.dipped s.core.err).inCoreReset true false).resetCause causeBrownout).pgoodFell) := by
  rw [← Core.brownout_eq hr]
  refine congrArg (fun c => Host.Outcome.next (s.on c)) ((if_neg (by simp [hp])).trans ?_)
  exact (if_neg (by simp)).trans (if_pos (.inl hp))

theorem Core.pgoodFell_gdcs (c : Core) : c.pgoodFell.gdcs = c.channelsAfter true := by rw [Core.pgoodFell, Core.loseMemory]

theorem Core.lostTo_pgoodFell (c : Core) (a : Aon) (b : ErrBlk) (cause : Nat) :
    c.LostTo (((c.withAon a b).inCoreReset true false).resetCause cause).pgoodFell { a.counted cause with
      power := .starting, pwrEn := false, pgood := false, pgfail := true, tries := 0, back := .off } :=
  Core.lostTo_of (memOnly_above c.mem) (Core.pgoodFell_gdcs _) rfl rfl rfl rfl rfl

theorem exec_brownout_off (hp : s.core.aon.power = .off) (b : Bool) : exec (.brownout b) s = .next s :=
  congrArg (fun c => Host.Outcome.next (s.on c)) (if_pos (.inl hp))

theorem exec_input48vLoss_asleep (h : s.core.aon.power = .standby ∨ s.core.aon.power = .watch) : exec .input48vLoss s = .next s.enterOff :=
  congrArg Host.Outcome.next (if_pos h)

theorem exec_input48vLoss_ignored (h : ¬(s.core.aon.power = .standby ∨ s.core.aon.power = .watch)) : exec .input48vLoss s = .next s :=
  congrArg Host.Outcome.next (if_neg h)

/-- The core in OFF. -/
def Core.dark (c : Core) : Core :=
  { c.inCoreReset false true with
    aon := { c.aon with power := .off, pwrEn := false, pgood := false, entry := c.aon.ticks }
    met := { busy := c.met.busy } }

theorem Core.dark_gdcs (c : Core) : c.dark.gdcs = c.channelsAfter true := by rw [Core.dark, Core.inCoreReset]

theorem State.enterOff_eq {s : State} (hr : s.core.power.coreReset = false) :
    s.enterOff = if s.isl.enabled then (s.on s.core.dark).islandReset else s.on s.core.dark := by
  have hin : s.core.coreReset false true = s.core.inCoreReset false true := if_neg (Bool.eq_false_iff.mp hr)
  rw [State.enterOff, hin]
  rfl

theorem State.islandReset_gdcs (t : State) : t.islandReset.core.gdcs = t.core.gdcs := by rw [State.islandReset]

theorem State.enterOff_lostTo {s : State} (hr : s.core.power.coreReset = false) :
    s.core.LostTo s.enterOff.core { s.core.aon with power := .off, pwrEn := false, pgood := false, entry := s.core.aon.ticks }
      ∧ s.enterOff.isl = if s.isl.enabled then s.isl.enterReset else s.isl := by
  rw [State.enterOff_eq hr]
  split
  · exact ⟨Core.lostTo_of rfl ((s.on s.core.dark).islandReset_gdcs.trans s.core.dark_gdcs) rfl rfl rfl rfl rfl, rfl⟩
  · exact ⟨Core.lostTo_of rfl s.core.dark_gdcs rfl rfl rfl rfl rfl, rfl⟩

theorem Core.watchdogDue_iff {c : Core} : c.watchdogDue = true ↔ c.power.wdogEn = true ∧ (c.power.coreReset = false ∧ c.aon.power = .run)
    ∧ c.power.wdogMs.toNat * 32768 ≤ (c.aon.ticks - c.power.wdogAt).toNat * 1000 := by
  simp only [Core.watchdogDue, Bool.and_eq_true, decide_eq_true_eq, Bool.not_eq_true']
  exact ⟨fun ⟨⟨⟨hen, hrun⟩, hout⟩, hdue⟩ => ⟨hen, ⟨hout, hrun⟩, hdue⟩, fun ⟨hen, ⟨hout, hrun⟩, hdue⟩ => ⟨⟨⟨hen, hrun⟩, hout⟩, hdue⟩⟩

theorem exec_watchdogExpiry_due (h : s.core.watchdogDue = true) :
    exec .watchdogExpiry s = .next (s.on (s.core.resetAndStart causeWdog)) :=
  congrArg (fun c => Host.Outcome.next (s.on c)) (if_pos h)

theorem exec_watchdogExpiry_early (h : ¬s.core.watchdogDue = true) : exec .watchdogExpiry s = .next s :=
  congrArg (fun c => Host.Outcome.next (s.on c)) (if_neg h)

/-! ### DEVICE_FATAL -/

/-- What the always-on domain preserves of an error that the log has just taken (R380). -/
def Core.preserved (c : Core) (e : ErrInfo) : ErrInfo × DWord × BitVec 16 × BitVec 16 :=
  (e, c.time.dtime, c.err.seq, if c.aon.fatal.isSome then 1 else BitVec.ofNat 16 (min c.err.lostSince 0xFFFF))

theorem Core.log_taken {c : Core} (h : c.err.takes e.cls = true) : c.log e = { c with err := { c.err with
    ring := Tbl.set c.err.ring (c.err.tail.toNat % 1024) (some ⟨e, c.time.dtime, c.err.seq, BitVec.ofNat 16 (min c.err.lostSince 0xFFFF)⟩) none
    tail := c.err.tail + 1, seq := c.err.seq + 1, lostSince := 0 } } := by
  refine if_neg fun hfull => ?_
  simp only [ErrBlk.takes, Bool.and_eq_true, Bool.or_eq_true, decide_eq_true_eq] at h
  rcases hfull with ⟨h0, hroom⟩ | hroom
  · exact h.2.elim (· h0) (by omega)
  · omega

/-- The newest entry with its words is the one that the log has just taken. -/
theorem Core.newest_log {c : Core} (h : c.err.takes e.cls = true) :
    (c.log e).err.newest e = some ⟨e, c.time.dtime, c.err.seq, BitVec.ofNat 16 (min c.err.lostSince 0xFFFF)⟩ := by
  have hentry : (c.log e).err.entry ((c.log e).err.tail - 1 - BitVec.ofNat 11 0)
      = some ⟨e, c.time.dtime, c.err.seq, BitVec.ofNat 16 (min c.err.lostSince 0xFFFF)⟩ := by
    rw [Core.log_taken h, ErrBlk.entry]
    simp
  rw [ErrBlk.newest, show (1024 : Nat) = 1023 + 1 from rfl, List.range_succ_eq_map]
  simp only [List.filterMap_cons, hentry, List.find?_cons, decide_true]

/-- The always-on domain with that error preserved. -/
def Core.aonPreserved (c : Core) (e : ErrInfo) : Aon := { c.aon with fatal := some (c.preserved e) }

theorem Core.preserve_log {c : Core} (h : c.err.takes e.cls = true) :
    (c.log e).preserve e = c.withAon (c.aonPreserved e) (c.log e).err := by
  rw [Core.preserve, Core.newest_log h, Core.log_taken h]
  rfl

theorem exec_deviceFatal_fresh (hr : s.core.power.coreReset = false) (hp : s.core.aon.power = .run) (hf : s.core.fatal = none)
    (ht : s.core.err.takes 3 = true) :
    let i : ErrInfo := { e with cls := 3 }
    exec (.deviceFatal e) s = .next (s.on (((s.core.withAon (s.core.aonPreserved i) (s.core.log i).err).inCoreReset
      true false).resetCause causeFatal)) := by
  intro i
  have hlog : s.core.deviceFatal e = ((s.core.log i).preserve i).resetAndStart causeFatal := by
    rw [Core.deviceFatal, hf]
    rfl
  have hgo : ((s.core.log i).preserve i).resetAndStart causeFatal
      = ((s.core.withAon (s.core.aonPreserved i) (s.core.log i).err).inCoreReset true false).resetCause
        causeFatal := by
    rw [Core.preserve_log (e := i) ht]
    exact Core.resetAndStart_run (c := s.core.withAon (s.core.aonPreserved i) (s.core.log i).err) hr hp causeFatal
  refine congrArg (fun c => Host.Outcome.next (s.on c)) ((if_neg (Bool.eq_false_iff.mp hr)).trans ?_)
  rw [hlog, hgo]

theorem exec_deviceFatal_inReset (hr : s.core.power.coreReset = true) : exec (.deviceFatal e) s = .next s :=
  congrArg (fun c => Host.Outcome.next (s.on c)) (if_pos hr)

/-! ### Entering QUIESCE (R385, R388, R389) -/

/-- The core without the streams that a QUIESCE closes and without the record of it. -/
def Core.offStreams (c : Core) : Core := { c with chans := [], hchans := [], quiesce := [] }

theorem Core.closePart_offStreams (c : Core) (p : Part) : (c.closePart p).offStreams = c.offStreams := by
  cases p with
  | sprig g => exact Core.closeStreams_keeps Core.offStreams (fun _ _ _ _ => rfl) ..
  | bunch b => exact foldl_keeps Core.offStreams _ (fun _ _ => Core.closeStreams_keeps Core.offStreams (fun _ _ _ _ => rfl) ..) _ _
  | _ => rfl

theorem Core.enterQuiesce_fresh {c : Core} {p : Part} (h : c.quiet p = false) :
    c.enterQuiesce p = { c.closePart p with quiesce := c.quiesce ++ [(p, c.time.dtime)] } := if_neg (Bool.eq_false_iff.mp h)

/-- A second cause joins the first. -/
theorem Core.enterQuiesce_joins {c : Core} {p : Part} (h : c.quiet p = true) : c.enterQuiesce p = c := if_pos h

theorem Core.enterQuiesce_offStreams (c : Core) (p : Part) : (c.enterQuiesce p).offStreams = c.offStreams := by
  cases h : c.quiet p with
  | true => rw [Core.enterQuiesce_joins h]
  | false =>
    rw [Core.enterQuiesce_fresh h]
    exact c.closePart_offStreams p

theorem Core.enterQuiesce_rest (c : Core) (p : Part) : let d := c.enterQuiesce p
    d.time = c.time ∧ d.mem = c.mem ∧ d.err = c.err ∧ d.power = c.power :=
  have h := c.enterQuiesce_offStreams p
  ⟨congrArg (·.time) h, congrArg (·.mem) h, congrArg (·.err) h, congrArg (·.power) h⟩

theorem Core.enterQuiesce_quiesce {c : Core} {p : Part} (h : c.quiet p = false) :
    (c.enterQuiesce p).quiesce = c.quiesce ++ [(p, c.time.dtime)] := by rw [Core.enterQuiesce_fresh h]

theorem Core.quiet_enterQuiesce (c : Core) (p q : Part) : (c.enterQuiesce p).quiet q = (c.quiet q || p == q) := by
  cases h : c.quiet p with
  | true =>
    rw [Core.enterQuiesce_joins h]
    by_cases heq : p = q
    · rw [← heq, h, Bool.true_or]
    · rw [beq_false_of_ne heq, Bool.or_false]
  | false =>
    rw [Core.quiet, Core.enterQuiesce_quiesce h, List.any_append]
    simp only [List.any_cons, List.any_nil, Bool.or_false]
    rfl

/-- Parts that are not in QUIESCE enter it one after another, all at the same instant. -/
theorem Core.foldl_enterQuiesce {l : List Part} (hd : l.Nodup) {c : Core} (hq : ∀ z ∈ l, c.quiet z = false) :
    (l.foldl Core.enterQuiesce c).quiesce = c.quiesce ++ l.map fun z => (z, c.time.dtime) := by
  induction l generalizing c with
  | nil => exact (List.append_nil _).symm
  | cons p l ih =>
    obtain ⟨hp, hd⟩ := List.nodup_cons.mp hd
    have hrest : ∀ z ∈ l, (c.enterQuiesce p).quiet z = false := fun z hz => by
      rw [Core.quiet_enterQuiesce, hq z (List.mem_cons_of_mem p hz), beq_false_of_ne (fun h : p = z => hp (h ▸ hz)), Bool.or_false]
    rw [List.foldl_cons, ih hd hrest, Core.enterQuiesce_quiesce (hq p List.mem_cons_self), (c.enterQuiesce_rest p).1, List.append_assoc]
    rfl

/-! ### The RST block (R404) -/

variable {m : Master} {v : Word} {p : Part}

theorem exec_rstWdogKick_key (hm : s.core.takes m (s.core.privileged m) = true) (hv : v.setWidth 16 = 0xC1A0#16) :
    exec (.rstWdogKick m v) s = .next (s.on { s.core with power := { s.core.power with wdogAt := s.core.aon.ticks } }) :=
  congrArg (fun c => Host.Outcome.next (s.on c)) ((Core.writeBy_takes _ hm).trans (if_pos hv))

theorem exec_rstWdogKick_other (hm : s.core.takes m (s.core.privileged m) = true) (hv : v.setWidth 16 ≠ 0xC1A0#16) :
    exec (.rstWdogKick m v) s = .next (s.on (s.core.resetAndStart causeWdog)) :=
  congrArg (fun c => Host.Outcome.next (s.on c)) ((Core.writeBy_takes _ hm).trans (if_neg hv))

/-- The unit of RST_UNIT by its kind. -/
def unitOfKind (v : Word) (k : BitVec 3) : Option Part :=
  let n := (v.setWidth 6 : BitVec 6).toNat
  match k with
  | 0 => if n = 0 then none else some (.bunch (v.setWidth 6))
  | 1 => if n < 8 then some (.ethPort (v.setWidth 3)) else none
  | 2 => if n < 16 then some (.cxpConn (v.setWidth 4)) else none
  | 3 => if n < 4 then some (.tlPort (v.setWidth 2)) else none
  | 4 => if n < 36 then some (.channel (v.setWidth 6)) else none
  | _ => none

theorem unitOf_eq (v : Word) : unitOf v = unitOfKind v ((v >>> 28).setWidth 3) := by
  have hn : field v 0 6 = (v.setWidth 6 : BitVec 6).toNat := by simp [field]
  have hk : field v 28 3 = ((v >>> 28).setWidth 3 : BitVec 3).toNat := by simp [field, Nat.shiftRight_eq_div_pow]
  rw [unitOf, hk, hn]
  generalize (v >>> 28).setWidth 3 = k
  obtain ⟨⟨k, hlt⟩⟩ := k
  interval_cases k <;> rfl

theorem exec_rstUnit (hm : s.core.takes m (s.core.privileged m) = true) (hv : v.getLsbD 31 = true) {d : Core}
    (hd : (match unitOf v with | none => s.core.ignoredReg m 404 0x03 0x20 | some p => s.core.enterQuiesce p) = d) :
    exec (.rstUnit m v) s = .next (s.on d) := by
  refine congrArg (fun c => Host.Outcome.next (s.on c)) ((Core.writeBy_takes _ hm).trans (Eq.trans ?_ hd))
  exact if_neg (by rw [hv]; decide)

theorem exec_rstUnit_part (hm : s.core.takes m (s.core.privileged m) = true) (hv : v.getLsbD 31 = true) (hu : unitOf v = some p) :
    exec (.rstUnit m v) s = .next (s.on (s.core.enterQuiesce p)) :=
  exec_rstUnit hm hv (by rw [hu])

theorem exec_rstUnit_none (hm : s.core.takes m (s.core.privileged m) = true) (hv : v.getLsbD 31 = true) (hu : unitOf v = none) :
    exec (.rstUnit m v) s = .next (s.on (s.core.ignoredReg m 404 0x03 0x20)) :=
  exec_rstUnit hm hv (by rw [hu])

theorem exec_rstUnit_noGo (hm : s.core.takes m (s.core.privileged m) = true) (hv : v.getLsbD 31 = false) :
    exec (.rstUnit m v) s = .next s :=
  congrArg (fun c => Host.Outcome.next (s.on c)) ((Core.writeBy_takes _ hm).trans (if_pos (by rw [hv]; rfl)))

theorem exec_rstXstatRead (hf : s.core.frozenMaster m = false) (hs : s.core.seesAll m = true) : exec (.rstXstatRead m) s = .next (s.on
    { s.core with
      power := { s.core.power with xstat := 0 }
      rdata := Tbl.set s.core.rdata (masterKey m) { value := s.core.power.xstat.setWidth 32 } {} }) :=
  congrArg (fun c => Host.Outcome.next (s.on c)) (Core.readBy_seen _ hf (by rw [hs]; rfl))

/-! ### Leaving reset (R403) -/

theorem exec_resetRelease_core (h : s.core.power.coreReset = true ∧ s.core.time.running = true ∧ s.core.aon.power = .run
    ∧ s.core.aon.pgood = true) : exec (.resetRelease .core) s
    = .next (s.on { s.core with power := { s.core.power with coreReset := false, wdogAt := s.core.aon.ticks } }) := by
  obtain ⟨hr, ht, hp, hg⟩ := h
  exact congrArg (fun c => Host.Outcome.next (s.on c)) ((if_pos rfl).trans (if_pos (by simp [hr, ht, hp, hg])))

theorem exec_resetRelease_core_waits (h : ¬(s.core.power.coreReset = true ∧ s.core.time.running = true ∧ s.core.aon.power = .run
    ∧ s.core.aon.pgood = true)) : exec (.resetRelease .core) s = .next s := by
  refine congrArg (fun c => Host.Outcome.next (s.on c)) ((if_pos rfl).trans (if_neg fun hc => h ?_))
  simp only [Bool.and_eq_true, decide_eq_true_eq] at hc
  obtain ⟨⟨⟨hr, ht⟩, hp⟩, hg⟩ := hc
  exact ⟨hr, ht, hp, hg⟩

theorem exec_resetRelease_part (hc : p ≠ .core) (hp : p ∈ s.core.power.inReset) : exec (.resetRelease p) s = .next (s.on { s.core with
    power := { s.core.power with inReset := s.core.power.inReset.filter fun z => decide (z ≠ p) }
    quiesce := s.core.quiesce.filter fun z => decide (z.1 ≠ p) }) :=
  congrArg (fun c => Host.Outcome.next (s.on c)) ((if_neg hc).trans (if_pos hp))

theorem exec_resetRelease_runs (hc : p ≠ .core) (hp : p ∉ s.core.power.inReset) : exec (.resetRelease p) s = .next s :=
  congrArg (fun c => Host.Outcome.next (s.on c)) ((if_neg hc).trans (if_neg hp))

/-! ### Crossings and clocks (R396 to R399) -/

variable {g : SprigId} {ev : BitVec 3} {k : BitVec 6}

theorem satInc16_eq (x : BitVec 16) : satInc16 x = if x = 0xFFFF then 0xFFFF else x + 1 := by
  unfold satInc16
  by_cases h : x = 0xFFFF
  · exact (if_pos h).trans (h.trans (if_pos h).symm)
  · exact (if_neg h).trans (if_neg h).symm

theorem exec_crossingResync_counts {x : Crossing} {b : Bool} (hx : s.core.resync x b
    = { s.core with power := { s.core.power with xstat := satInc16 s.core.power.xstat } }) : exec (.crossingResync x b) s
    = .next (s.on { s.core with power := { s.core.power with
        xstat := if s.core.power.xstat = 0xFFFF then 0xFFFF else s.core.power.xstat + 1 } }) := by
  rw [← satInc16_eq, ← hx]
  rfl

theorem Core.resync_eventLatch (c : Core) (g : SprigId) (ev : BitVec 3) (receiver : Bool) : c.resync (.eventLatch g ev) receiver
    = if receiver || (c.crossing g ev).again then
        (c.setCrossing g ev LatchX.reset).modPage g fun p => { p with latch := putBit p.latch ev.toNat ((c.crossing g ev).again && !receiver) }
      else c.setCrossing g ev LatchX.reset := rfl

/-- The receiver's side was reset: the latch is 0. -/
theorem Core.resync_receiver (c : Core) (g : SprigId) (ev : BitVec 3) : c.resync (.eventLatch g ev) true
    = (c.setCrossing g ev LatchX.reset).modPage g fun p => { p with latch := putBit p.latch ev.toNat false } := by
  rw [Core.resync_eventLatch, Bool.true_or, if_pos rfl, Bool.not_true, Bool.and_false]

/-- An edge that merged in the handshake that ends sets the latch again. -/
theorem Core.resync_again {c : Core} (h : (c.crossing g ev).again = true) : c.resync (.eventLatch g ev) false
    = (c.setCrossing g ev LatchX.reset).modPage g fun p => { p with latch := putBit p.latch ev.toNat true } := by
  rw [Core.resync_eventLatch, h, Bool.or_true, if_pos rfl, Bool.not_false, Bool.and_true]

theorem Core.resync_source {c : Core} (h : (c.crossing g ev).again = false) :
    c.resync (.eventLatch g ev) false = c.setCrossing g ev LatchX.reset := by
  rw [Core.resync_eventLatch, h, Bool.or_false, if_neg Bool.false_ne_true]

theorem exec_asyncWake_mem (hk : k.toNat < 36) (hst : (s.core.gdc k.toNat).st = .selfref) (hp : s.core.aon.power = .run)
    (hr : s.core.power.coreReset = false) : exec (.asyncWake (.mem k)) s
    = .next (s.on (s.core.setGdc k.toNat { s.core.gdc k.toNat with st := .ready })) :=
  congrArg (fun c => Host.Outcome.next (s.on c)) (if_pos ⟨hk, hst, hp, by rw [hr]; rfl⟩)

theorem exec_asyncWake_mem_ignored (h : 36 ≤ k.toNat ∨ (s.core.gdc k.toNat).st ≠ .selfref
    ∨ ¬(s.core.power.coreReset = false ∧ s.core.aon.power = .run)) : exec (.asyncWake (.mem k)) s = .next s := by
  refine congrArg (fun c => Host.Outcome.next (s.on c)) (if_neg fun hc => ?_)
  obtain ⟨hk, hst, hp, hr⟩ := hc
  rcases h with h | h | h
  · omega
  · exact h hst
  · exact h ⟨by simpa using hr, hp⟩

/-! ### A SerDes group (R400) -/

theorem nodup_serdesParts (g : BitVec 3) : (Part.serdes g :: serdesParts g).Nodup := by
  revert g
  decide

/-- The core with the entry of a group whose PLL lost its lock. -/
def Core.logPllLoss (c : Core) (g : BitVec 3) : Core := c.log ⟨2, 0x0E, Config.pllCode, g.setWidth 32, 0, 0⟩

theorem exec_serdesPllLoss (g : BitVec 3) : exec (.serdesPllLoss g) s
    = .next (s.on ((Part.serdes g :: serdesParts g).foldl Core.enterQuiesce (s.core.logPllLoss g))) := rfl

theorem Core.foldl_enterQuiesce_offStreams (l : List Part) (c : Core) : (l.foldl Core.enterQuiesce c).offStreams = c.offStreams :=
  foldl_keeps Core.offStreams _ Core.enterQuiesce_offStreams l c

/-! ### A function (R215, R298, R355, R383) -/

/-- The core with a function's interrupts, Bus Master Enable and freeze cleared. -/
def Core.functionCleared (c : Core) (f : FuncId) : Core :=
  { c with
    hic := { c.hic with
      active := c.hic.active.filter fun z => decide (z.2 ≠ some f)
      unmasked := c.hic.unmasked.filter fun z => decide (z.1 / 2048 ≠ f.toNat)
      pba := c.hic.pba.filter fun z => decide (z.1 / 2048 ≠ f.toNat)
      fmask := Tbl.set c.hic.fmask f.toNat false false
      bme := Tbl.set c.hic.bme f.toNat false false
      vfe := c.hic.vfe && decide (f ≠ 0) }
    err := { c.err with ffrz := Tbl.set c.err.ffrz f.toNat 0 0 } }

/-- Host queue pairs enter QUIESCE. -/
def Core.pairsQuiesce (c : Core) (l : List (BitVec 8)) : Core := l.foldl (fun c h => c.enterQuiesce (.hostPair h)) c

theorem exec_functionLevelReset (f : FuncId) : exec (.functionLevelReset f) s
    = .next (s.on (((s.core.functionCleared f).pairsQuiesce (s.core.pairsOf f)).ownerGone (.func f))) := rfl

theorem Core.pairsQuiesce_offStreams (c : Core) (l : List (BitVec 8)) : (c.pairsQuiesce l).offStreams = c.offStreams :=
  foldl_keeps Core.offStreams _ (fun c h => c.enterQuiesce_offStreams (.hostPair h)) l c

theorem Core.quiet_pairsQuiesce (c : Core) (l : List (BitVec 8)) (p : Part) :
    (c.pairsQuiesce l).quiet p = (c.quiet p || l.any fun h => Part.hostPair h == p) := by
  induction l generalizing c with
  | nil => exact (Bool.or_false _).symm
  | cons h l ih => exact (ih _).trans (by rw [Core.quiet_enterQuiesce, List.any_cons, Bool.or_assoc])

theorem Core.hchan_enterQuiesce_self {c : Core} {h : BitVec 8} (hq : c.quiet (.hostPair h) = false) :
    (c.enterQuiesce (.hostPair h)).hchan h = (c.hchan h).closing 5 c.time.dtime := by
  rw [Core.enterQuiesce_fresh hq]
  exact Tbl.get_set_self ..

theorem Core.hchan_enterQuiesce_ne (c : Core) {h j : BitVec 8} (hne : j ≠ h) : (c.enterQuiesce (.hostPair h)).hchan j = c.hchan j := by
  cases hq : c.quiet (.hostPair h) with
  | true => rw [Core.enterQuiesce_joins hq]
  | false =>
    rw [Core.enterQuiesce_fresh hq]
    exact Tbl.get_set_ne _ (BitVec.toNat_inj.not.mpr hne) ..

/-- The stream of a pair that is in QUIESCE already stays as it is. -/
theorem Core.hchan_pairsQuiesce_quiet {c : Core} (l : List (BitVec 8)) {j : BitVec 8} (hq : c.quiet (.hostPair j) = true) :
    (c.pairsQuiesce l).hchan j = c.hchan j := by
  induction l generalizing c with
  | nil => rfl
  | cons h l ih =>
    have hstays : (c.enterQuiesce (.hostPair h)).quiet (.hostPair j) = true := by rw [Core.quiet_enterQuiesce, hq, Bool.true_or]
    refine (ih hstays).trans ?_
    by_cases heq : j = h
    · rw [← heq, Core.enterQuiesce_joins hq]
    · exact c.hchan_enterQuiesce_ne heq

/-- The stream of a pair that enters QUIESCE is to be closed. -/
theorem Core.hchan_pairsQuiesce {c : Core} {l : List (BitVec 8)} {j : BitVec 8} (hj : j ∈ l) (hq : c.quiet (.hostPair j) = false) :
    (c.pairsQuiesce l).hchan j = (c.hchan j).closing 5 c.time.dtime := by
  induction l generalizing c with
  | nil => cases hj
  | cons h l ih =>
    by_cases heq : j = h
    · subst heq
      have hin : (c.enterQuiesce (.hostPair j)).quiet (.hostPair j) = true := by rw [Core.quiet_enterQuiesce, beq_self_eq_true, Bool.or_true]
      exact (Core.hchan_pairsQuiesce_quiet l hin).trans (Core.hchan_enterQuiesce_self hq)
    · have hout : (c.enterQuiesce (.hostPair h)).quiet (.hostPair j) = false := by
        rw [Core.quiet_enterQuiesce, hq, Bool.false_or]
        exact beq_false_of_ne fun he => heq (Part.hostPair.inj he).symm
      refine (ih (List.mem_of_ne_of_mem heq hj) hout).trans ?_
      rw [c.hchan_enterQuiesce_ne heq, (c.enterQuiesce_rest _).1]

theorem Core.mem_pairsOf {c : Core} {f : FuncId} {h : BitVec 8} (he : pairEn (c.pairCfg h) = true) (hf : pairFunc (c.pairCfg h) = f) :
    h ∈ c.pairsOf f := by
  refine List.mem_filter.mpr ⟨List.mem_map.mpr ⟨h.toNat, List.mem_range.mpr h.isLt, by simp⟩, ?_⟩
  rw [he, decide_eq_true hf]
  rfl

/-- What a function level reset of `f` leaves in the core `d` (R215, R298, R355, R383). -/
def Core.FunctionReset (c d : Core) (f : FuncId) : Prop :=
  d.hic = { c.hic with
      active := c.hic.active.filter fun z => decide (z.2 ≠ some f)
      unmasked := c.hic.unmasked.filter fun z => decide (z.1 / 2048 ≠ f.toNat)
      pba := c.hic.pba.filter fun z => decide (z.1 / 2048 ≠ f.toNat)
      fmask := Tbl.set c.hic.fmask f.toNat false false, bme := Tbl.set c.hic.bme f.toNat false false
      vfe := if f = 0 then false else c.hic.vfe }
  ∧ (∀ h, pairEn (c.pairCfg h) = true → pairFunc (c.pairCfg h) = f → d.quiet (.hostPair h) = true
    ∧ (c.quiet (.hostPair h) = false → (c.hchan h).isOpen = true → (d.hchan h).close = some (5, c.time.dtime)))
  ∧ Tbl.get d.err.ffrz f.toNat 0 = 0 ∧ d.mem = c.mem
  ∧ ∀ z, z ∈ c.hands → z.2.st = .open → z.2.owner = .func f →
    ∃ h, (z.1, h) ∈ d.hands ∧ h.st = .folded ∧ h.entries = [] ∧ h.serial = z.2.serial

theorem Core.functionCleared_hic (c : Core) (f : FuncId) : (c.functionCleared f).hic = { c.hic with
      active := c.hic.active.filter fun z => decide (z.2 ≠ some f)
      unmasked := c.hic.unmasked.filter fun z => decide (z.1 / 2048 ≠ f.toNat)
      pba := c.hic.pba.filter fun z => decide (z.1 / 2048 ≠ f.toNat)
      fmask := Tbl.set c.hic.fmask f.toNat false false, bme := Tbl.set c.hic.bme f.toNat false false
      vfe := if f = 0 then false else c.hic.vfe } := by
  have hvfe : (c.hic.vfe && decide (f ≠ 0)) = if f = 0 then false else c.hic.vfe := by
    by_cases hf : f = 0
    · rw [if_pos hf, decide_eq_false (not_not_intro hf), Bool.and_false]
    · rw [if_neg hf, decide_eq_true hf, Bool.and_true]
  rw [← hvfe]
  rfl

/-- The OPEN hands of an owner that is gone are folded (R355). -/
theorem Core.ownerGone_folds {c : Core} {o : HandOwner} {z : Nat × Hand} (hz : z ∈ c.hands) (hst : z.2.st = .open) (ho : z.2.owner = o) :
    ∃ h, (z.1, h) ∈ (c.ownerGone o).hands ∧ h.st = .folded ∧ h.entries = [] ∧ h.serial = z.2.serial :=
  ⟨{ z.2 with st := .folded, entries := [], loads := [], sys := none }, List.mem_map.mpr ⟨z, hz, if_pos ⟨hst, ho⟩⟩, rfl, rfl, rfl⟩

theorem Core.functionReset (c : Core) (f : FuncId) :
    c.FunctionReset (((c.functionCleared f).pairsQuiesce (c.pairsOf f)).ownerGone (.func f)) f := by
  have hrest := (c.functionCleared f).pairsQuiesce_offStreams (c.pairsOf f)
  have hhands : ((c.functionCleared f).pairsQuiesce (c.pairsOf f)).hands = c.hands := congrArg (·.hands) hrest
  have hffrz : ((c.functionCleared f).pairsQuiesce (c.pairsOf f)).err.ffrz = Tbl.set c.err.ffrz f.toNat 0 0 := congrArg (·.err.ffrz) hrest
  refine ⟨(congrArg (·.hic) hrest).trans (c.functionCleared_hic f), fun h hen hfun => ?_, ?_, congrArg (·.mem) hrest, fun z hz hst ho => ?_⟩
  · have hin : h ∈ c.pairsOf f := Core.mem_pairsOf hen hfun
    refine ⟨((c.functionCleared f).quiet_pairsQuiesce (c.pairsOf f) (.hostPair h)).trans ?_, fun hq hopen => ?_⟩
    · have hany : ((c.pairsOf f).any fun j => Part.hostPair j == Part.hostPair h) = true := List.any_eq_true.mpr ⟨h, hin, beq_self_eq_true _⟩
      rw [hany, Bool.or_true]
    · have hclose : ((c.functionCleared f).pairsQuiesce (c.pairsOf f)).hchan h = (c.hchan h).closing 5 c.time.dtime :=
        Core.hchan_pairsQuiesce (c := c.functionCleared f) hin hq
      have hset : (c.hchan h).closing 5 c.time.dtime = { c.hchan h with close := some (5, c.time.dtime) } := if_pos hopen
      exact congrArg Chan.close (hclose.trans hset)
  · exact (congrArg (fun t => Tbl.get t f.toNat 0) hffrz).trans (Tbl.get_set_self ..)
  · exact Core.ownerGone_folds (hhands ▸ hz) hst ho

theorem Core.pllLoss_quiesces {c : Core} {sg : BitVec 3} (hs : c.quiet (.serdes sg) = false) (hq : ∀ z ∈ serdesParts sg, c.quiet z = false) :
    let d := (Part.serdes sg :: serdesParts sg).foldl Core.enterQuiesce (c.logPllLoss sg)
    d.quiesce = c.quiesce ++ (Part.serdes sg :: serdesParts sg).map (fun z => (z, c.time.dtime)) ∧ d.mem = c.mem
      ∧ d.err = (c.logPllLoss sg).err := by
  have hrest := Core.foldl_enterQuiesce_offStreams (Part.serdes sg :: serdesParts sg) (c.logPllLoss sg)
  obtain ⟨hquiesce, hmem, htime⟩ : (c.logPllLoss sg).quiesce = c.quiesce ∧ (c.logPllLoss sg).mem = c.mem ∧ (c.logPllLoss sg).time = c.time := by
    simp only [Core.logPllLoss, Core.log_rest, and_self]
  have hquiet (z : Part) : (c.logPllLoss sg).quiet z = c.quiet z := by rw [Core.quiet, hquiesce, Core.quiet]
  refine ⟨?_, (congrArg (·.mem) hrest).trans hmem, congrArg (·.err) hrest⟩
  rw [Core.foldl_enterQuiesce (nodup_serdesParts sg), hquiesce, htime]
  intro z hz
  rcases List.mem_cons.mp hz with rfl | hz
  · exact (hquiet _).trans hs
  · exact (hquiet z).trans (hq z hz)

end

end Sys2Proof.Machine

open Sys2Proof Sys2Proof.Machine

/-- Settles O45: each source is one lemma above; a reset of the core domain, its loss of supply, a power-on reset, and a function level reset
leave what `State.ResetTo`, `Core.LostTo`, `State.BlankTo` and `Core.FunctionReset` say. -/
theorem resetSources : Obligations.ResetSources := by
  unfold Obligations.ResetSources
  intro s m v d ns e p f g ev k i sg b c now up priv counted resets blank lost unit parts dipped preserved x y latched
  have hunit : unit = unitOf v := (unitOf_eq v).symm
  have hparts : parts = serdesParts sg := by
    dsimp only [parts, serdesParts]
    obtain ⟨⟨n, hlt⟩⟩ := sg
    interval_cases n <;> rfl
  have resyncs {x : Crossing} {r : Bool} {d : Core} (h : s.core.resync x r = d) : exec (.crossingResync x r) s = .next (s.on d) :=
    congrArg (fun c => Host.Outcome.next (s.on c)) h
  rw [hunit, hparts]
  refine ⟨runs_of_eq rfl (s.blankTo_powerOn d), runs_of_eq rfl (s.blankTo_powerOn c.aon.strapId), ?sysrst, exec_sysrstN_ignored, ?sysrstAsleep,
    ?sysrstInReset, ?brownout, ?pgood, fun h => exec_brownout_off h b, ?input48v, ?input48vElsewhere, ⟨?watchdog, ?watchdogEarly⟩, ?fatal,
    exec_deviceFatal_inReset, exec_rstWdogKick_key, ?wrongKey, ?unit, ?unitJoins, exec_rstUnit_none, exec_rstUnit_noGo, exec_rstXstatRead,
    ⟨exec_resetRelease_core, exec_resetRelease_core_waits⟩, exec_resetRelease_part, exec_resetRelease_runs, ⟨exec_crossingResync_counts rfl,
    exec_crossingResync_counts rfl⟩, resyncs (s.core.resync_receiver g ev), fun h => resyncs (Core.resync_again h), fun h => resyncs
    (Core.resync_source h), ?memWake, exec_asyncWake_mem_ignored, rfl, ?portWake, ?pllLoss, ?functionReset⟩
  case sysrst =>
    rintro ⟨hr, hp⟩ hns
    exact runs_of_eq (exec_sysrstN_long hns (by rw [hp]; decide)) (s.resetTo_resetAndStart hr hp causeSysrst)
  case sysrstAsleep =>
    intro hp hns hr
    exact runs_of_eq (exec_sysrstN_long hns (by rcases hp with h | h <;> rw [h] <;> decide)) (Core.resetAndStart_asleep hr hp causeSysrst)
  case sysrstInReset =>
    intro hr hp hns
    exact (exec_sysrstN_long hns (by rw [hp]; decide)).trans (by rw [Core.resetAndStart_joins hr hp]; rfl)
  case brownout =>
    rintro ⟨hr, hp⟩
    exact runs_of_eq (exec_brownout_low hr hp) (s.resetTo_inCoreReset s.core.aon.dipped s.core.err causeBrownout rfl rfl)
  case pgood =>
    rintro ⟨hr, hp⟩
    exact runs_of_eq (exec_brownout_pgood hr hp) (s.core.lostTo_pgoodFell s.core.aon.dipped s.core.err causeBrownout)
  case input48v =>
    intro hp hr
    exact runs_of_eq (exec_input48vLoss_asleep hp) (State.enterOff_lostTo hr)
  case input48vElsewhere =>
    intro hp
    refine exec_input48vLoss_ignored fun h => ?_
    rcases hp with hp | hp | hp <;> rcases h with h | h <;> cases hp.symm.trans h
  case watchdog =>
    intro hdue
    have ⟨_, ⟨hr, hp⟩, _⟩ := hdue
    exact runs_of_eq (exec_watchdogExpiry_due (Core.watchdogDue_iff.mpr hdue)) (s.resetTo_resetAndStart hr hp causeWdog)
  case watchdogEarly =>
    exact fun h => exec_watchdogExpiry_early fun hd => h (Core.watchdogDue_iff.mp hd)
  case fatal =>
    rintro ⟨hr, hp⟩ hf ht
    exact runs_of_eq (exec_deviceFatal_fresh hr hp hf ht) (s.resetTo_inCoreReset (s.core.aonPreserved { e with cls := 3 }) _ causeFatal rfl rfl)
  case wrongKey =>
    rintro hm ⟨hr, hp⟩ hv
    exact runs_of_eq (exec_rstWdogKick_other hm hv) (s.resetTo_resetAndStart hr hp causeWdog)
  case unit =>
    intro hm hv hu hq
    exact runs_of_eq (exec_rstUnit_part hm hv hu)
      ⟨Core.enterQuiesce_quiesce hq, (s.core.enterQuiesce_rest p).2.1, (s.core.enterQuiesce_rest p).2.2.2⟩
  case unitJoins =>
    intro hm hv hu hq
    exact (exec_rstUnit_part hm hv hu).trans (by rw [Core.enterQuiesce_joins hq]; rfl)
  case memWake =>
    rintro ⟨hr, hp⟩ hk hst
    exact exec_asyncWake_mem hk hst hp hr
  case portWake =>
    rintro w (⟨n, rfl⟩ | ⟨n, rfl⟩ | rfl | rfl)
    · rfl
    · rfl
    · rfl
    · rfl
  case pllLoss =>
    intro hs hq
    exact runs_of_eq (exec_serdesPllLoss sg) (Core.pllLoss_quiesces hs hq)
  case functionReset =>
    exact runs_of_eq (exec_functionLevelReset f) (s.core.functionReset f)

end
